-- ==== Sys2Proof/Word.lean ====
section
/-! DEFINITION. The word types of the TH-8 (R2, R16) and the field names of an instruction word (R53). -/

namespace Sys2Proof

/-- A 32-bit register value or instruction word (R16, R44). -/
abbrev Word := BitVec 32
/-- A 64-bit value: a pair of registers, a key, a memory-mapped register (R17, R5). -/
abbrev DWord := BitVec 64
/-- One byte of memory (R2). -/
abbrev Byte := BitVec 8
/-- One bit per lane of a team: a mask or a predicate register (R12, R16). -/
abbrev Mask := BitVec 1024
/-- A register field of an instruction word, 0 to 127 (R54). -/
abbrev RegNo := BitVec 7

end Sys2Proof
end

