-- ==== Sys2Proof/Syntax.lean ====
section
/-! DEFINITION. The instructions and machine events of the TH-8: one constructor for each row of the opcode table
(R70, R71 and the events of the file "What each step holds"), with the operand forms of R54 to R64. -/

namespace Sys2Proof

/-- Operand b of an L-set "sel" instruction (R57): a vector register, a uniform register for every lane, the literal,
or a vector register of another lane by the cross-lane literal `w` (R62). -/
inductive OpB where
  | reg (b : RegNo)
  | uni (b : RegNo)
  | lit (w : Word)
  | pat (b : RegNo) (w : Word)
  deriving DecidableEq, Repr

/-- The lane source of `shfl` (R70, R136). -/
inductive LaneSrc where
  | reg (b : RegNo)
  | uni (b : RegNo)
  | lit (w : Word)
  | pat (w : Word)
  deriving DecidableEq, Repr

/-- Operand b of a "lit" instruction (R58): a register, or the literal where the next slot is marked. -/
inductive OpL where
  | reg (b : RegNo)
  | lit (w : Word)
  deriving DecidableEq, Repr

/-- Operand b of a U-set "sel" instruction (R57): a uniform register or the literal. -/
inductive OpU where
  | reg (b : RegNo)
  | lit (w : Word)
  deriving DecidableEq, Repr

/-- A "w", "n" or "lane" selector (R64): the field b itself, a uniform register, or (lane only) the literal. -/
inductive Selr where
  | imm (b : RegNo)
  | uni (b : RegNo)
  | lit (w : Word)
  deriving DecidableEq, Repr

/-- A party that reaches a memory-mapped register (R463, R497): a team by its number in the state, or a host node. -/
inductive Agent where
  | team (id : Nat)
  | host (node : Nat)
  deriving DecidableEq, Repr

/-- What a register write names (R497, R506): an offset of a context's register window, or an address of the management port. -/
inductive RegTarget where
  | window (who : Agent) (ctx off : Nat)
  | management (addr : Nat)
  deriving DecidableEq, Repr

/-- Where an error is found, by the storage codes of R439. -/
inductive ErrSite where
  /-- code 1: register `n` of lane or team, read by a team (file 0 vector, 1 uniform, 2 predicate) -/
  | register (team file n : Nat)
  /-- code 2: word `word` of the window of crew `crew` of a gang -/
  | scratchpad (gang crew word : Nat)
  /-- code 3: the line of virtual line number `line` of a context in the cache of a unit -/
  | cacheLine (unit ctx line : Nat)
  /-- code 4: the L2 line at a physical line number, found by context `ctx` at position (slice, set, way) -/
  | l2 (ctx line slice set way : Nat)
  /-- code 5: the 16-byte piece of memory at a physical piece number, with the line position in the L2 for a strike -/
  | hbm (ctx piece : Nat)
  /-- code 6: word `word` of the accumulator tiles of a cluster -/
  | accumulator (cluster word : Nat)
  /-- code 7: the tag entry at a set and way -/
  | tag (set way : Nat)
  /-- code 7: the key cell `cell` of a context's section area -/
  | cell (ctx cell : Nat)
  /-- code 7: the meta entry `slot` of a domain's line table -/
  | metaEntry (domain slot : Nat)
  deriving DecidableEq, Repr

/-- One rank's part of the partial sums of a collective (R499 step 3). -/
structure RankPart where
  rank  : Nat
  nrank : Nat
  mode  : Nat
  count : Nat
  elems : List DWord
  deriving DecidableEq, Repr

/-- One constructor for each row of the opcode table: the 201 instruction words of R70 and R71, then the 96 machine events. -/
inductive Instr where
  /-- IADD (R126). Adds operand b to register a in each active lane, wrapping modulo 2^32. -/
  | iadd (d a : RegNo) (o : OpB)
  /-- ISUB (R126). Subtracts operand b from register a in each active lane, wrapping. -/
  | isub (d a : RegNo) (o : OpB)
  /-- IMUL (R126). Writes the low 32 bits of the product of register a and operand b per lane. -/
  | imul (d a : RegNo) (o : OpB)
  /-- IMULHI (R126). Writes the high 32 bits of the signed or unsigned product per lane. -/
  | imulhi (d a : RegNo) (o : OpB) (u : Bool)
  /-- IMAC (R126). Adds the product of register a and operand b to the destination per lane. -/
  | imac (d a : RegNo) (o : OpB)
  /-- IMIN (R126). Writes the signed or unsigned minimum per lane. -/
  | imin (d a : RegNo) (o : OpB) (u : Bool)
  /-- IMAX (R126). Writes the signed or unsigned maximum per lane. -/
  | imax (d a : RegNo) (o : OpB) (u : Bool)
  /-- IABSD (R126). Writes the absolute difference of the operands per lane. -/
  | iabsd (d a : RegNo) (o : OpB) (u : Bool)
  /-- IADDSAT (R126). Adds with signed or unsigned saturation per lane. -/
  | iaddsat (d a : RegNo) (o : OpB) (u : Bool)
  /-- ISUBSAT (R126). Subtracts with signed or unsigned saturation per lane. -/
  | isubsat (d a : RegNo) (o : OpB) (u : Bool)
  /-- AND (R127). Bitwise AND per lane. -/
  | and (d a : RegNo) (o : OpB)
  /-- OR (R127). Bitwise OR per lane. -/
  | or (d a : RegNo) (o : OpB)
  /-- XOR (R127). Bitwise exclusive OR per lane. -/
  | xor (d a : RegNo) (o : OpB)
  /-- ANDN (R127). Bitwise AND with the complement of operand b per lane. -/
  | andn (d a : RegNo) (o : OpB)
  /-- SHL (R127). Shifts left by the unmasked count per lane. -/
  | shl (d a : RegNo) (o : OpB)
  /-- SHR (R127). Shifts right logically by the unmasked count per lane. -/
  | shr (d a : RegNo) (o : OpB)
  /-- SAR (R127). Shifts right arithmetically by the unmasked count per lane. -/
  | sar (d a : RegNo) (o : OpB)
  /-- POPC (R128). Counts the one bits of register a per lane. -/
  | popc (d a : RegNo)
  /-- CLZ (R128). Counts leading zero bits per lane. -/
  | clz (d a : RegNo)
  /-- BREV (R128). Reverses the bits of register a per lane. -/
  | brev (d a : RegNo)
  /-- BFX (R129). Extracts a bit field with sign or zero extension per lane. -/
  | bfx (d a : RegNo) (o : OpB) (u : Bool)
  /-- BFI (R129). Inserts a bit field into the destination per lane. -/
  | bfi (d a : RegNo) (o : OpB)
  /-- IADDI (R130). Adds a 10-bit signed immediate per lane. -/
  | iaddi (d a : RegNo) (imm : BitVec 10)
  /-- MOVI (R130). Writes a sign-extended 17-bit immediate per lane. -/
  | movi (d : RegNo) (imm : BitVec 17)
  /-- MOV (R131). Copies operand b into the destination per lane, including cross-lane permutations. -/
  | mov (d : RegNo) (o : OpB)
  /-- SEL (R132). Copies register a into the destination in lanes whose predicate is set. -/
  | sel (d a b : RegNo)
  /-- LEA (R133). Adds a signed or unsigned 32-bit offset to a 64-bit address pair per lane. -/
  | lea (d a : RegNo) (o : OpB) (u : Bool)
  /-- ICMP (R134). Sets a predicate per lane from an integer compare. -/
  | icmp (d a : RegNo) (o : OpL) (c : BitVec 3)
  /-- FADD (R145). Rounded FP32 addition per lane. -/
  | fadd (d a : RegNo) (o : OpB) (u : Bool)
  /-- FSUB (R145). Rounded FP32 subtraction per lane. -/
  | fsub (d a : RegNo) (o : OpB) (u : Bool)
  /-- FMUL (R145). Rounded FP32 multiplication per lane. -/
  | fmul (d a : RegNo) (o : OpB) (u : Bool)
  /-- FFMA (R146). FP32 fused multiply-add with a single rounding per lane. -/
  | ffma (d a : RegNo) (o : OpB) (u : Bool)
  /-- FMIN (R145). IEEE minimum per lane. -/
  | fmin (d a : RegNo) (o : OpB) (u : Bool)
  /-- FMAX (R145). IEEE maximum per lane. -/
  | fmax (d a : RegNo) (o : OpB) (u : Bool)
  /-- FMINNM (R145). IEEE minimumNumber per lane. -/
  | fminnm (d a : RegNo) (o : OpB) (u : Bool)
  /-- FMAXNM (R145). IEEE maximumNumber per lane. -/
  | fmaxnm (d a : RegNo) (o : OpB) (u : Bool)
  /-- FCMP (R147). Sets a predicate per lane from an FP32 compare. -/
  | fcmp (d a : RegNo) (o : OpL) (c : BitVec 3)
  /-- FRCP (R149). Correctly rounded reciprocal per lane. -/
  | frcp (d a : RegNo)
  /-- FRSQ (R149). Correctly rounded reciprocal square root per lane. -/
  | frsq (d a : RegNo)
  /-- FSQRT (R149). Correctly rounded square root per lane. -/
  | fsqrt (d a : RegNo)
  /-- FEX2 (R149). Correctly rounded 2^x per lane. -/
  | fex2 (d a : RegNo)
  /-- FLG2 (R149). Correctly rounded log2 x per lane. -/
  | flg2 (d a : RegNo)
  /-- FSIN (R80). Correctly rounded sine of an argument in turns per lane. -/
  | fsin (d a : RegNo)
  /-- FCOS (R80). Correctly rounded cosine of an argument in turns per lane. -/
  | fcos (d a : RegNo)
  /-- FCLASS (R148). Writes a one-hot class mask of an FP32 value per lane. -/
  | fclass (d a : RegNo)
  /-- PKADD (R150). Adds two packed FP16 elements per lane. -/
  | pkadd (d a : RegNo) (o : OpB) (u : Bool)
  /-- PKMUL (R150). Multiplies two packed FP16 elements per lane. -/
  | pkmul (d a : RegNo) (o : OpB) (u : Bool)
  /-- PKFMA (R150). Fused multiply-add on packed FP16 elements per lane. -/
  | pkfma (d a : RegNo) (o : OpB) (u : Bool)
  /-- PKBFMA (R150). Fused multiply-add on packed BF16 elements per lane. -/
  | pkbfma (d a : RegNo) (o : OpB) (u : Bool)
  /-- PKDOT (R151). Accumulates a two-term FP16 dot product into FP32 per lane. -/
  | pkdot (d a : RegNo) (o : OpB) (u : Bool)
  /-- DADD (R152). FP64 addition on register pairs per lane. -/
  | dadd (d a : RegNo) (o : OpB) (u : Bool)
  /-- DMUL (R152). FP64 multiplication on register pairs per lane. -/
  | dmul (d a : RegNo) (o : OpB) (u : Bool)
  /-- DFMA (R152). FP64 fused multiply-add per lane. -/
  | dfma (d a : RegNo) (o : OpB) (u : Bool)
  /-- DCMP (R152). Sets a predicate per lane from an FP64 compare. -/
  | dcmp (d a : RegNo) (o : OpL) (c : BitVec 3)
  /-- CVT (R154). Converts between float and integer formats per a literal specification. -/
  | cvt (d a : RegNo) (spec : Word)
  /-- TDEC (R157). Decodes a scaled TF8 or TF6 code to FP32 per lane. -/
  | tdec (d a : RegNo) (o : OpB)
  /-- TENC (R156). Encodes an FP32 value into a scaled TF8 or TF6 code per lane. -/
  | tenc (d a : RegNo) (o : OpB)
  /-- NPACK (R158). Interleaves bytes of two operands to pack narrow codes. -/
  | npack (d a : RegNo) (o : OpB)
  /-- NUNPK (R158). Rearranges bytes to undo one npack. -/
  | nunpk (d a : RegNo) (o : OpB)
  /-- FXQ (R159). Converts FP32 to 64-bit fixed point at an agreed exponent. -/
  | fxq (d a : RegNo) (o : OpB)
  /-- FXDQ (R159). Converts 64-bit fixed point back to FP32 at an exponent. -/
  | fxdq (d a : RegNo) (o : OpB)
  /-- SHFL (R136). Gives each active lane register a from a chosen source lane. -/
  | shfl (d a : RegNo) (src : LaneSrc)
  /-- LRED (R137). Reduces register a over the active lanes of a scope by a fixed tree. -/
  | lred (d a k : RegNo) (team : Bool)
  /-- LSCAN (R138). Gives each active lane its inclusive or exclusive prefix by the fixed tree. -/
  | lscan (d a k : RegNo) (team excl : Bool)
  /-- MATCH (R139). Marks the lowest active holder of each distinct value in the scope. -/
  | matchv (d a : RegNo) (team : Bool)
  /-- PSET (R140). Sets a predicate where register a is nonzero. -/
  | pset (d a : RegNo)
  /-- PLOG (R140). Combines two predicates with a logic function. -/
  | plog (d a b : RegNo) (m : BitVec 3)
  /-- PMOV (R140). Copies a predicate per lane. -/
  | pmov (d a : RegNo)
  /-- QPUSH (R186). Pushes one beat per active lane group to a matrix A queue, blocking for room. -/
  | qpush (d a : RegNo)
  /-- QPOP (R186). Pops beats from a matrix result queue into lanes. -/
  | qpop (d a : RegNo)
  /-- TRC (R199). Hands each active lane's ray to the intersection unit. -/
  | trc (a b : RegNo) (spec : Word)
  /-- OENTER (R189). Requests entry to ordered sections by key and sequence. -/
  | oenter (d a b : RegNo)
  /-- OLEAVE (R190). Posts a release of held sections by key. -/
  | oleave (a : RegNo)
  /-- OSKIP (R191). Posts skips of sequences on section keys. -/
  | oskip (a b : RegNo)
  /-- SCQ (R195). Looks up shading keys in the tags, allocating and posting shading work on a miss. -/
  | scq (d a : RegNo)
  /-- SCFILL (R196). Publishes a shaded tile, making its entry valid or poisoned. -/
  | scfill (a b : RegNo)
  /-- SCINV (R197). Increments object versions in the write domain. -/
  | scinv (a : RegNo)
  /-- LD8 (R168). Loads a zero-extended byte per lane on the generic path. -/
  | ld8 (d a : RegNo) (disp : BitVec 10)
  /-- LD16 (R168). Loads a zero-extended half-word per lane. -/
  | ld16 (d a : RegNo) (disp : BitVec 10)
  /-- LD32 (R168). Loads a word per lane. -/
  | ld32 (d a : RegNo) (disp : BitVec 10)
  /-- LD64 (R168). Loads a double word into a pair per lane. -/
  | ld64 (d a : RegNo) (disp : BitVec 10)
  /-- LD128 (R168). Loads 16 bytes into a quad per lane. -/
  | ld128 (d a : RegNo) (disp : BitVec 10)
  /-- ST8 (R168). Stores a byte per lane. -/
  | st8 (d a : RegNo) (disp : BitVec 10)
  /-- ST16 (R168). Stores a half-word per lane. -/
  | st16 (d a : RegNo) (disp : BitVec 10)
  /-- ST32 (R168). Stores a word per lane. -/
  | st32 (d a : RegNo) (disp : BitVec 10)
  /-- ST64 (R168). Stores a double word per lane. -/
  | st64 (d a : RegNo) (disp : BitVec 10)
  /-- ST128 (R168). Stores 16 bytes per lane. -/
  | st128 (d a : RegNo) (disp : BitVec 10)
  /-- LDS32 (R171). Loads a scratchpad word per lane. -/
  | lds32 (d a : RegNo) (disp : BitVec 10)
  /-- LDS64 (R171). Loads a scratchpad double word per lane. -/
  | lds64 (d a : RegNo) (disp : BitVec 10)
  /-- LDS128 (R171). Loads 16 scratchpad bytes per lane. -/
  | lds128 (d a : RegNo) (disp : BitVec 10)
  /-- STS32 (R171). Stores a scratchpad word per lane. -/
  | sts32 (d a : RegNo) (disp : BitVec 10)
  /-- STS64 (R171). Stores a scratchpad double word per lane. -/
  | sts64 (d a : RegNo) (disp : BitVec 10)
  /-- STS128 (R171). Stores 16 scratchpad bytes per lane. -/
  | sts128 (d a : RegNo) (disp : BitVec 10)
  /-- LDF (R172). Waits for a full word, reads it and sets it empty. -/
  | ldf (d a : RegNo) (disp : BitVec 10)
  /-- STE (R172). Waits for an empty word, writes it and sets it full. -/
  | ste (d a : RegNo) (disp : BitVec 10)
  /-- LDFK (R172). Waits for a full word and reads it, leaving it full. -/
  | ldfk (d a : RegNo) (disp : BitVec 10)
  /-- LDC (R174). Loads a word through the constant cache per lane. -/
  | ldc (d a : RegNo) (disp : BitVec 10)
  /-- SMP (R176). Samples a texture named by a descriptor handle per lane. -/
  | smp (d a b : RegNo)
  /-- CPA (R178). Starts a 32-byte copy per lane into scratchpad and adds it to the open batch. -/
  | cpa (d a : RegNo) (o : OpB)
  /-- ATADD (R181). Atomic add at the home slice per lane. -/
  | atadd (d : RegNo) (a : BitVec 6) (w : Bool) (o : OpL) (ord : BitVec 3)
  /-- ATMIN (R181). Atomic signed minimum per lane. -/
  | atmin (d : RegNo) (a : BitVec 6) (w : Bool) (o : OpL) (ord : BitVec 3)
  /-- ATMAX (R181). Atomic signed maximum per lane. -/
  | atmax (d : RegNo) (a : BitVec 6) (w : Bool) (o : OpL) (ord : BitVec 3)
  /-- ATAND (R181). Atomic AND per lane. -/
  | atand (d : RegNo) (a : BitVec 6) (w : Bool) (o : OpL) (ord : BitVec 3)
  /-- ATOR (R181). Atomic OR per lane. -/
  | ator (d : RegNo) (a : BitVec 6) (w : Bool) (o : OpL) (ord : BitVec 3)
  /-- ATXOR (R181). Atomic exclusive OR per lane. -/
  | atxor (d : RegNo) (a : BitVec 6) (w : Bool) (o : OpL) (ord : BitVec 3)
  /-- ATXCH (R181). Atomic exchange per lane. -/
  | atxch (d : RegNo) (a : BitVec 6) (w : Bool) (o : OpL) (ord : BitVec 3)
  /-- ATCAS (R181). Atomic compare-and-swap per lane. -/
  | atcas (d : RegNo) (a : BitVec 6) (w : Bool) (b : RegNo) (ord : BitVec 3)
  /-- ATFADD (R182). Atomic floating-point add in RNE per lane. -/
  | atfadd (d : RegNo) (a : BitVec 6) (w : Bool) (o : OpL) (ord : BitVec 3)
  /-- ATFMIN (R182). Atomic IEEE minimum per lane. -/
  | atfmin (d : RegNo) (a : BitVec 6) (w : Bool) (o : OpL) (ord : BitVec 3)
  /-- ATFMAX (R182). Atomic IEEE maximum per lane. -/
  | atfmax (d : RegNo) (a : BitVec 6) (w : Bool) (o : OpL) (ord : BitVec 3)
  /-- REDADD (R184). Posts an integer reduction that merges at the home slice. -/
  | redadd (a : BitVec 6) (w : Bool) (o : OpL) (ord : BitVec 3)
  /-- REDFADD (R184). Posts a floating-point reduction applied in arrival order. -/
  | redfadd (a : BitVec 6) (w : Bool) (o : OpL) (ord : BitVec 3)
  /-- SADD (R204). Uniform add. -/
  | sadd (d a : RegNo) (o : OpU)
  /-- SSUB (R204). Uniform subtract. -/
  | ssub (d a : RegNo) (o : OpU)
  /-- SMUL (R204). Uniform multiply, low 32 bits. -/
  | smul (d a : RegNo) (o : OpU)
  /-- SMULHI (R204). Uniform multiply, high 32 bits. -/
  | smulhi (d a : RegNo) (o : OpU) (u : Bool)
  /-- SAND (R204). Uniform AND. -/
  | sand (d a : RegNo) (o : OpU)
  /-- SOR (R204). Uniform OR. -/
  | sor (d a : RegNo) (o : OpU)
  /-- SXOR (R204). Uniform exclusive OR. -/
  | sxor (d a : RegNo) (o : OpU)
  /-- SANDN (R204). Uniform AND with complement. -/
  | sandn (d a : RegNo) (o : OpU)
  /-- SSHL (R204). Uniform shift left. -/
  | sshl (d a : RegNo) (o : OpU)
  /-- SSHR (R204). Uniform logical shift right. -/
  | sshr (d a : RegNo) (o : OpU)
  /-- SSAR (R204). Uniform arithmetic shift right. -/
  | ssar (d a : RegNo) (o : OpU)
  /-- SMIN (R204). Uniform minimum. -/
  | smin (d a : RegNo) (o : OpU) (u : Bool)
  /-- SMAX (R204). Uniform maximum. -/
  | smax (d a : RegNo) (o : OpU) (u : Bool)
  /-- SPOPC (R204). Uniform population count. -/
  | spopc (d a : RegNo)
  /-- SCLZ (R204). Uniform leading-zero count. -/
  | sclz (d a : RegNo)
  /-- SBFX (R204). Uniform bit-field extract. -/
  | sbfx (d a : RegNo) (o : OpU) (u : Bool)
  /-- SBFI (R204). Uniform bit-field insert. -/
  | sbfi (d a : RegNo) (o : OpU)
  /-- SADDI (R204). Uniform add of a 10-bit immediate. -/
  | saddi (d a : RegNo) (imm : BitVec 10)
  /-- SMOVI (R204). Uniform move of a 17-bit immediate. -/
  | smovi (d : RegNo) (imm : BitVec 17)
  /-- SMOV (R22). Uniform move; with a register source it copies a handle and its pending mark without blocking. -/
  | smov (d : RegNo) (o : OpU)
  /-- SSEL (R205). Copies S(a) into S(d) when S(b) is nonzero. -/
  | ssel (d a b : RegNo)
  /-- SCMP (R205). Writes 1 or 0 from a uniform compare. -/
  | scmp (d a : RegNo) (o : OpL) (c : BitVec 3)
  /-- SLEA (R204). Adds an offset to a uniform address pair. -/
  | slea (d a : RegNo) (o : OpU) (u : Bool)
  /-- SLD32 (R207). Uniform load of a word. -/
  | sld32 (d a : RegNo) (disp : BitVec 10)
  /-- SLD64 (R207). Uniform load of a double word. -/
  | sld64 (d a : RegNo) (disp : BitVec 10)
  /-- SST32 (R207). Posted uniform store of a word. -/
  | sst32 (d a : RegNo) (disp : BitVec 10)
  /-- SST64 (R207). Posted uniform store of a double word. -/
  | sst64 (d a : RegNo) (disp : BitVec 10)
  /-- SLDC (R207). Uniform load through the constant cache. -/
  | sldc (d a : RegNo) (disp : BitVec 10)
  /-- SATADD (R208). Uniform atomic add. -/
  | satadd (d : RegNo) (a : BitVec 6) (w : Bool) (o : OpL) (ord : BitVec 3)
  /-- SATCAS (R208). Uniform atomic compare-and-swap. -/
  | satcas (d : RegNo) (a : BitVec 6) (w : Bool) (b : RegNo) (ord : BitVec 3)
  /-- SATXCH (R208). Uniform atomic exchange. -/
  | satxch (d : RegNo) (a : BitVec 6) (w : Bool) (o : OpL) (ord : BitVec 3)
  /-- SLDAQ (R209). Uniform acquire load. -/
  | sldaq (d : RegNo) (a : BitVec 6) (w : Bool) (ord : BitVec 3)
  /-- SSTRL (R209). Uniform release store. -/
  | sstrl (d : RegNo) (a : BitVec 6) (w : Bool) (ord : BitVec 3)
  /-- EXSET (R211). Sets EX from a predicate and LIVE. -/
  | exset (a : RegNo)
  /-- EXAND (R211). ANDs EX with a predicate. -/
  | exand (a : RegNo)
  /-- EXANDN (R211). ANDs EX with a predicate's complement. -/
  | exandn (a : RegNo)
  /-- EXSAVE (R212). Copies EX into a predicate. -/
  | exsave (d : RegNo)
  /-- EXALL (R211). Sets EX to LIVE. -/
  | exall 
  /-- EXCNT (R212). Counts the set bits of EX. -/
  | excnt (d : RegNo)
  /-- EXANY (R212). Returns 1 plus the lowest lane in EX with the predicate set, or 0. -/
  | exany (d a : RegNo)
  /-- PBALLOT (R213). Gathers one predicate word of a lane group into a uniform register. -/
  | pballot (d a : RegNo) (n : Selr)
  /-- PFILL (R213). Scatters a uniform register into one predicate word. -/
  | pfill (d a : RegNo) (n : Selr)
  /-- SGET (R214). Reads one lane's vector register into a uniform register. -/
  | sget (d a : RegNo) (n : Selr)
  /-- FORK (R215). Opens a fork level and defers the predicated lanes as a path. -/
  | fork (c : RegNo) (t : BitVec 17)
  /-- PEND (R216). Ends the running path at a join, merging when every member has pended. -/
  | pend (t : BitVec 24)
  /-- YLD (R217). Makes a path switch due at the next bundle boundary. -/
  | yld 
  /-- BRA (R220). Unconditional branch. -/
  | bra (t : BitVec 24)
  /-- BRZ (R220). Branches when a uniform register is zero. -/
  | brz (c : RegNo) (t : BitVec 17)
  /-- BRNZ (R220). Branches when a uniform register is nonzero. -/
  | brnz (c : RegNo) (t : BitVec 17)
  /-- BREX (R220). Branches when EX is zero. -/
  | brex (t : BitVec 24)
  /-- BRNEX (R220). Branches when EX is nonzero. -/
  | brnex (t : BitVec 24)
  /-- CALL (R221). Writes the link and transfers to the target. -/
  | call (c : RegNo) (t : BitVec 17)
  /-- RET (R221). Transfers to a uniform register, marked as a return. -/
  | ret (a : RegNo)
  /-- JMP (R221). Transfers to a uniform register. -/
  | jmp (a : RegNo)
  /-- EXIT (R222). Removes the EX lanes from LIVE and clears EX. -/
  | exit 
  /-- TRAP (R223). Raises the software trap with a code. -/
  | trap (code : BitVec 16)
  /-- BRK (R224). Halts for the debugger, raises the breakpoint trap, or does nothing at TLEVEL 1. -/
  | brk 
  /-- BAR (R230). Arrives at a crew barrier and blocks until its phase completes. -/
  | bar (a : RegNo)
  /-- BARRV (R230). Arrives with a value to sum and receives the phase's sum. -/
  | barrv (d a b : RegNo)
  /-- BARW (R230). Waits for a barrier phase without arriving. -/
  | barw (a : RegNo)
  /-- BARPEND (R230). Raises a barrier's pending-byte count. -/
  | barpend (a : RegNo) (o : OpU)
  /-- FENCE (R233). Blocks until earlier accesses are performed at the fence's scope. -/
  | fence (ord : BitVec 3)
  /-- PFENCE (R234). Waits for earlier writes at device scope and invalidates named path caches. -/
  | pfence (mask : BitVec 4)
  /-- WAIT (R235). Arms stamp words and sleeps until one differs from its expected value. -/
  | wait (d a b : RegNo)
  /-- CTCOMMIT (R236). Moves the open copy batch to the next tag, blocking if that tag is in use. -/
  | ctcommit 
  /-- CTWAIT (R236). Blocks until all but the k newest committed batches complete. -/
  | ctwait (b : RegNo)
  /-- FWAIT (R237). Marks a destination pending on a raw handle. -/
  | fwait (d a : RegNo)
  /-- FTEST (R237). Polls whether the job of a handle has completed. -/
  | ftest (d a : RegNo)
  /-- FCANCEL (R237). Cancels a job that has not started. -/
  | fcancel (d a : RegNo)
  /-- JOB (R239). Forms a card from a template and submits a yarder job, returning a future. -/
  | job (d a b : RegNo)
  /-- SPAWN (R240). Enqueues a child task at the cluster's deck, returning a future. -/
  | spawn (d a b : RegNo)
  /-- SCFRAME (R241). Advances the current frame of the write domain. -/
  | scframe (a : RegNo)
  /-- MFMT (R243). Reads and accepts or rejects a matrix format block. -/
  | mfmt (a : RegNo)
  /-- WBLD (R244). Queues the load of a weight image into a slot. -/
  | wbld (d a : RegNo)
  /-- MMA (R244). Queues n K-chunks of multiply-accumulate into a tile. -/
  | mma (d a : RegNo) (n : Selr)
  /-- MZERO (R244). Queues the clearing of a tile to +0. -/
  | mzero (d : RegNo)
  /-- MDRAIN (R244). Queues the drain of a tile to its result queue. -/
  | mdrain (d : RegNo)
  /-- MBURST (R364). Starts the array's ramp-up and sets BURST. -/
  | mburst (n : Selr)
  /-- MWAIT (R246). Waits for the array to be idle and returns and clears its status. -/
  | mwait (d : RegNo)
  /-- CHASH (R249). Probes the content region for a line's name without changing it. -/
  | chash (d a : RegNo)
  /-- CPUT (R249). Inserts or counts a scratchpad line in the content region and returns its name. -/
  | cput (d a : RegNo)
  /-- CGET (R250). Copies a named content line into scratchpad. -/
  | cget (a b : RegNo)
  /-- CREF (R251). Adds one to a content line's count. -/
  | cref (a : RegNo)
  /-- CDROP (R251). Subtracts one from a content line's count, freeing it at zero. -/
  | cdrop (a : RegNo)
  /-- CSWAP (R252). Swaps a name cell indivisibly, adjusting counts. -/
  | cswap (d a b : RegNo) (m : BitVec 3)
  /-- SRD (R253). Reads a special register. -/
  | srd (d b : RegNo)
  /-- SWR (R253). Writes a special register. -/
  | swr (a b : RegNo)
  /-- NOP (R253). Has no effect beyond its issue slot. -/
  | nop 
  /-- RTT (R254). Returns from a trap handler to TPC, restoring EX and restarting a stopped array. -/
  | rtt 
  /-- WAIT_RETURN (R235). A write to an armed word wakes a wait, which re-reads and returns on a differing value. -/
  | waitReturn (team reg : Nat)
  /-- BUNDLE_FETCH (R52). Fetches a bundle, skips padding and checks it before slot 1 issues. -/
  | bundleFetch (team : Nat)
  /-- SAFE_POINT_REDIRECTION (R342). Writes the control block and redirects a team into its save routine at a safe point. -/
  | safePointRedirection (team : Nat)
  /-- TRAP_ENTRY (R30). After outstanding results are ready, records trap state and transfers to the trap entry. -/
  | trapEntry (team cause info : Nat) (addr : DWord)
  /-- PATH_SWITCH (R27). Switches the running path out for the oldest unblocked deferred path. -/
  | pathSwitch (team : Nat)
  /-- RESULT_RESOLVE (R66). A variable-latency result arrives, writes its register and clears the pending mark. -/
  | resultResolve (team serial : Nat)
  /-- COPY_LANDING (R178). A lane copy lands in scratchpad and its batch count falls. -/
  | copyLanding (team serial : Nat)
  /-- TEAM_END (R222). After batches and pending registers resolve, a team is retired and its barriers and sections updated. -/
  | teamEnd (team : Nat)
  /-- GRID_END (R457). Raises the grid end event after all its teams' writes are applied and checked. -/
  | gridEnd (ctx grid : Nat)
  /-- LAUNCH (R326). Host command that checks a launch and queues its grid. -/
  | launch (ch seq ctx kbase gangs tail prio param swap : Nat)
  /-- GANG_PLACEMENT (R329). The dispatcher places a waiting gang on cores and clears its windows. -/
  | gangPlacement (part : Nat)
  /-- PREEMPTION_REQUEST (R341). The scheduler requests a gang to leave residency. -/
  | preemptionRequest (gang : Nat)
  /-- GANG_SAVE (R343). Saves windows, barriers, queues and matrix state and frees the cores. -/
  | gangSave (gang : Nat)
  /-- GANG_RESTORE (R346). Places a swapped gang again, writes back its state and starts restore routines. -/
  | gangRestore (gang : Nat)
  /-- PREEMPTION_TIMEOUT (R345). Raises the pre-emption-timeout event 1 ms after an unmet request. -/
  | preemptionTimeout (gang : Nat)
  /-- DECK_DISPATCH (R336). Bins the lowest-key deck entries into one team and places it. -/
  | deckDispatch (cluster : Nat)
  /-- STEAL_ATTEMPT (R340). An idle deck steals entries from a victim deck every 64 clk. -/
  | stealAttempt (cluster : Nat)
  /-- JOB_START (R307). The yarder starts the oldest card that conflicts with no unfinished earlier card. -/
  | jobStart (cluster : Nat)
  /-- JOB_LANDING (R320). A job's write lands and decrements the barrier's pending bytes. -/
  | jobLanding (cluster card piece : Nat)
  /-- FILLFULL_STEP (R309). Once a destination word is empty, writes it and sets it full. -/
  | fillfullStep (cluster card piece : Nat)
  /-- JOB_COMPLETION (R317). Writes a job's stamp and resolves its future. -/
  | jobCompletion (cluster card : Nat)
  /-- COLLECTIVE_RESULT (R499). The root package combines all ranks and sends the results for DEST. -/
  | collectiveResult (group ctx : Nat) (coll : DWord)
  /-- APERTURE_SUBMIT (R322). A store to the block-transfer aperture submits a template job. -/
  | apertureSubmit (ctx cluster chan : Nat) (value : DWord)
  /-- YRD_ABORT (R316). A write aborts every joined rank of a collective. -/
  | yrdAbort (ctx : Nat) (coll : DWord)
  /-- PAGE_WALK (R291). A memory controller completes a translation walk and fills filters or reports. -/
  | pageWalk (unit ctx va : Nat)
  /-- FAULT_RETRY (R298). RESP = 1 makes the faulted agent reissue. -/
  | faultRetry (ctx seq : Nat)
  /-- FAULT_REJECT (R298). Any other RESP value terminates the context. -/
  | faultReject (ctx seq : Nat)
  /-- MATRIX_CHUNK_START (R357). A chunk starts once all its beats are in the queue. -/
  | matrixChunkStart (cluster : Nat)
  /-- MATRIX_CHUNK_END (R366). Checks the chunk against its checksums, corrects or stops, and adds it to the tile. -/
  | matrixChunkEnd (cluster : Nat)
  /-- WEIGHT_LOAD_END (R362). A weight image load ends, validating or invalidating its slot. -/
  | weightLoadEnd (cluster slot : Nat)
  /-- DRAIN_BEAT (R244). Pushes one drained beat into the result queue when it has room. -/
  | drainBeat (cluster : Nat)
  /-- RAMPUP_END (R364). 48 filler clk elapse and the array becomes ACTIVE or WARM. -/
  | rampupEnd (cluster : Nat)
  /-- RAMPDOWN_END (R364). The idle count reaches 32 and the array becomes WARM. -/
  | rampdownEnd (cluster : Nat)
  /-- WARM_TO_COLD (R364). The idle count reaches its limit and the array becomes COLD. -/
  | warmToCold (cluster : Nat)
  /-- MXA_INJ (R373). A write arms a fault injection into a later chunk. -/
  | mxaInj (ctx cluster : Nat) (value : DWord)
  /-- OENTER_ARRIVAL (R189). An oenter reaches its key cell and enters, waits or traps. -/
  | oenterArrival (team serial : Nat) (key : DWord)
  /-- OLEAVE_ARRIVAL (R190). An oleave reaches its cell, advances NEXT and admits the next turn. -/
  | oleaveArrival (ctx : Nat) (holder key : DWord)
  /-- OSKIP_ARRIVAL (R191). A skip reaches its cell and waits, is performed or is dropped. -/
  | oskipArrival (ctx : Nat) (key : DWord) (sq : Word)
  /-- SECTION_TIMEOUT (R386). An oenter's wait exceeds SECTIME and raises the section-timeout trap. -/
  | sectionTimeout (team serial : Nat)
  /-- WAITER_RETRY (R385). A refused waiting lane retries every 64 clk for a waiter entry. -/
  | waiterRetry (team serial : Nat) (key : DWord)
  /-- SEC_RESET (R390). SEC_CMD operation setting NEXT and clearing HELD and BROKEN. -/
  | secReset (ctx : Nat)
  /-- SEC_FREE (R390). SEC_CMD operation freeing an idle cell as a tomb. -/
  | secFree (ctx : Nat)
  /-- SEC_QUERY (R390). SEC_CMD operation returning a cell's NEXT and state. -/
  | secQuery (ctx : Nat)
  /-- CLEARALL (R390). SEC_CMD operation zeroing the whole section area if idle. -/
  | clearall (ctx : Nat)
  /-- SEC_BAD_OP (R390). SEC_CMD with an undefined OP does nothing and returns result 3. -/
  | secBadOp (ctx : Nat)
  /-- CASCADE_STEP (R395). Performs a queued cdrop on a freed node's child. -/
  | cascadeStep (die : Nat)
  /-- RAY_END (R411). Traversal ends and the ray forms one continuation deck entry. -/
  | rayEnd (cluster ray : Nat)
  /-- UNCORRECTED_ERROR (R439). A read finds an uncorrectable error and poisons or contains the data. -/
  | uncorrectedError (site : ErrSite)
  /-- CONSUMPTION (R441). Poisoned data arrives at a register and the consuming team stops issuing. -/
  | consumption (team storage : Nat) (addr : DWord)
  /-- CHECKPOINT (R446). Writes a rollback crew's state into a shadow buffer and drains held stores. -/
  | checkpoint (gang crew : Nat)
  /-- RAS_INJ (R456). A write arms a double-bit injection on the next write to a piece. -/
  | rasInj (ctx : Nat) (value : DWord)
  /-- CLUSTER_REMOVAL (R452). Firmware empties and removes a defective cluster from the partition. -/
  | clusterRemoval (cluster : Nat)
  /-- DBG_HALT (R469). DBG_CTL operation halting a team with reason 1. -/
  | dbgHalt (ctx : Nat)
  /-- DBG_RESUME (R469). DBG_CTL operation applying edits and resuming a halted team. -/
  | dbgResume (ctx : Nat)
  /-- DBG_STEP (R470). DBG_CTL operation letting a halted team issue one slot. -/
  | dbgStep (ctx : Nat)
  /-- DBG_QUERY (R469). DBG_CTL operation reporting a team's state, halt reason and PC. -/
  | dbgQuery (ctx : Nat)
  /-- DBG_READ (R469). DBG_CTL operation reading an item of a halted or saved team. -/
  | dbgRead (ctx : Nat)
  /-- DBG_EDIT (R471). DBG_CTL operation appending an edit to a team's edit buffer. -/
  | dbgEdit (ctx : Nat)
  /-- DBG_DISCARD (R469). DBG_CTL operation emptying a team's edit buffer. -/
  | dbgDiscard (ctx : Nat)
  /-- DBG_BAD_OP (R468). DBG_CTL with an undefined OP gives RESULT 8. -/
  | dbgBadOp (ctx : Nat)
  /-- STEP_HALT (R470). After a stepped slot, the team halts with reason 4. -/
  | stepHalt (team : Nat)
  /-- HALT_EVENT (R474). Writes a halt event record when the ring has room and raises EVSEQ. -/
  | haltEvent (ctx : Nat)
  /-- DBG_WP_WRITE (R473). A watchpoint write re-decides admission on the watched core. -/
  | dbgWpWrite (who : Agent) (ctx off : Nat) (value : DWord)
  /-- DBG_PULSE (R478). A write pulses the granted trigger lines. -/
  | dbgPulse (ctx : Nat) (value : DWord)
  /-- TRIGGER_PIN (R478). An input pin pulses its trigger line. -/
  | triggerPin (pin : Nat)
  /-- STALL_SAMPLE (R477). Each sample period a core records one stall sample. -/
  | stallSample (ctx cluster core : Nat)
  /-- CTXCFG (R495). Host command installing a context descriptor and clearing the context. -/
  | ctxcfg (ch seq ctx : Nat) (desc : BitVec 1024)
  /-- INVAL (R295). Host command unmapping and invalidating a virtual range. -/
  | inval (ch seq ctx base len : Nat)
  /-- KILL (R383). Host command removing a team and breaking its held sections. -/
  | kill (ch seq ctx : Nat) (ident : DWord)
  /-- TERM (R450). Host command terminating a context with KIND 0x08. -/
  | term (ch seq ctx : Nat)
  /-- EVREAD (R493). Host command resending held events. -/
  | evread (ch seq ctx first count : Nat)
  /-- DOMAIN_CREATE (R391). Host command creating a domain's window and line table. -/
  | domainCreate (ch seq ctx domain hslots lines : Nat)
  /-- DOMAIN_DELETE (R492). Host command scrubbing and freeing a domain. -/
  | domainDelete (ch seq ctx domain : Nat)
  /-- SVCROLE (R492). Host command making a grid the service role. -/
  | svcrole (ch seq ctx grid : Nat)
  /-- DEBUG_GRANT (R462). Host command granting a context's debug right. -/
  | debugGrant (ch seq ctx holder node rights : Nat)
  /-- DEBUG_REVOKE (R464). Host command revoking the debug right and releasing debug halts. -/
  | debugRevoke (ch seq ctx : Nat)
  /-- ATTEST (R500). Host command returning a signed attestation report. -/
  | attest (ch seq ctx : Nat) (nonce : BitVec 256)
  /-- CONFIGURE (R498). MGT_PCMD operation configuring a partition from MGT_PBUF. -/
  | configure 
  /-- TEARDOWN (R498). MGT_PCMD operation destroying a partition's keys and scrubbing it. -/
  | teardown 
  /-- MGT_READ (R506). MGT_PCMD operation reading a configuration into MGT_PBUF. -/
  | mgtRead 
  /-- MGT_BAD_OP (R506). MGT_PCMD with an undefined OP gives RESULT 3. -/
  | mgtBadOp 
  /-- REGISTER_WRITE (R497). A write to a register without a row of its own stores or clears its fields. -/
  | registerWrite (target : RegTarget) (value : DWord)
  /-- START_UP (R501). Runs the start-up steps from the lowest unfinished one. -/
  | startUp 
  /-- POWER_LOSS (R501). Power loss clears MGT_BOOT so the next start is cold. -/
  | powerLoss 
  /-- THERMAL_THROTTLE (R504). A die reaching 105 °C is throttled. -/
  | thermalThrottle (die : Nat)
  /-- THERMAL_SHUTDOWN (R504). At 115 °C the module powers off and raises a management alert. -/
  | thermalShutdown (die : Nat)
  /-- BYPASS (R505). Test-port BYPASS instruction. -/
  | bypass 
  /-- IDCODE (R505). Test-port instruction reading 0x1000_A4F3. -/
  | idcode 
  /-- SAMPLE_PRELOAD (R505). Test-port SAMPLE/PRELOAD instruction. -/
  | samplePreload 
  /-- EXTEST (R505). Test-port EXTEST, refused while a partition is configured. -/
  | extest 
  /-- CLAMP (R505). Test-port CLAMP instruction. -/
  | clamp 
  /-- HIGHZ (R505). Test-port HIGHZ instruction. -/
  | highz 
  /-- CORRECTED_ERROR (R439). A read meets a single-bit or transient error that is corrected, counted in RAS_CNT.CORR or MXA_CNT.ECC, and may quarantine an L2 way on its 16th occurrence. -/
  | correctedError (site : ErrSite)
  /-- LINK_LEVEL_REPLAY (R488). A Skyline flit that arrives with a failing CRC is replayed at link level. -/
  | linkLevelReplay (port : Nat)
  /-- COMMAND_REFUSED (R492). A host command with an unknown OP, or naming a context the partition does not own, is completed with a command-refused event. -/
  | commandRefused (ch seq op ctx : Nat)
  /-- PARTIAL_SUMS (R499). Partial sums of a collective that another package forwards arrive at the root package, which adds them and checks NRANK, MODE, COUNT and RANK. -/
  | partialSums (group ctx : Nat) (coll : DWord) (parts : List RankPart)
  deriving DecidableEq, Repr

end Sys2Proof
end

