-- ==== Sys2Proof/WellFormed.lean ====
section
/-! DEFINITION. Well-formed instructions: the limits of R54 to R64 and of the literals of R62, R153 and R198. -/

namespace Sys2Proof

/-- An even pair base (R54). -/
def even (r : RegNo) : Bool := r.toNat % 2 == 0
/-- A quad base (R54). -/
def quad (r : RegNo) : Bool := r.toNat % 4 == 0
/-- An octet base (R54). -/
def octet (r : RegNo) : Bool := r.toNat % 8 == 0
/-- A constant or queue name below `n` (R54). -/
def below (r : RegNo) (n : Nat) : Bool := decide (r.toNat < n)
/-- The queue names of `qpop`, q4 to q7 (R185). -/
def queueOut (r : RegNo) : Bool := decide (4 ≤ r.toNat) && decide (r.toNat < 8)
/-- The count of `wait`, 1 to 4 (R235). -/
def countOk (r : RegNo) : Bool := decide (1 ≤ r.toNat) && decide (r.toNat ≤ 4)
/-- The codes of `sldaq` and `sstrl`, 4 to 7 (R61). -/
def orderedOk (o : BitVec 3) : Bool := decide (4 ≤ o.toNat)

/-- The special registers that `srd` reads (R33, R34). -/
def srdNumber (b : RegNo) : Bool := decide (b.toNat ≤ 0x17) || decide (0x40 ≤ b.toNat)
/-- The special registers that `swr` writes (R33, R34). -/
def swrNumber (b : RegNo) : Bool := [0x09, 0x0A, 0x0F, 0x10, 0x17].contains b.toNat

/-- The cross-lane literal (R62): MODE 0 to 4, bits 31:14 zero. -/
def patternOk (w : Word) : Bool := decide ((w.extractLsb' 0 3).toNat ≤ 4) && w.extractLsb' 14 18 == 0#18

/-- Operand b of a "sel" instruction; `wide` marks a 64-bit operand, whose pairs must be even (R57). -/
def OpB.ok (o : OpB) (wide : Bool) : Bool :=
  match o with
  | .reg b => !wide || even b
  | .uni b => !wide || even b
  | .lit _ => true
  | .pat b w => patternOk w && (!wide || even b)

/-- The lane source of `shfl`: a literal index has bits 31:10 zero (R124). -/
def LaneSrc.ok (o : LaneSrc) : Bool :=
  match o with
  | .reg _ => true
  | .uni _ => true
  | .lit w => w.extractLsb' 10 22 == 0#22
  | .pat w => patternOk w

/-- A "lit" operand: a register is even where the operand is 64 bits wide (R55). -/
def OpL.pairOk (o : OpL) (wide : Bool) : Bool :=
  match o with
  | .reg b => !wide || even b
  | .lit _ => true

/-- A "w" selector: the field b is 0 to 31 (R64). -/
def Selr.wOk (n : Selr) : Bool :=
  match n with
  | .imm b => below b 32
  | .uni _ => true
  | .lit _ => false

/-- An "n" selector: the field b is 1 to 127 (R64). -/
def Selr.nOk (n : Selr) : Bool :=
  match n with
  | .imm b => b != 0
  | .uni _ => true
  | .lit _ => false

/-- Whether a format code of `cvt` names an integer format (R153). -/
def cvtInt (c : BitVec 4) : Bool := decide (4 ≤ c.toNat)

/-- The number of registers of a format code of `cvt` (R153). -/
def cvtWidth (c : BitVec 4) : Nat := if c = 3 ∨ c = 6 ∨ c = 7 then 2 else 1

/-- The specification literal of `cvt` (R153). -/
def cvtOk (spec : Word) (d a : RegNo) : Bool :=
  let src := spec.extractLsb' 0 4
  let dst := spec.extractLsb' 4 4
  decide (src.toNat < 8) && decide (dst.toNat < 8) && src != dst && !(cvtInt src && cvtInt dst) &&
  decide ((spec.extractLsb' 8 3).toNat ≤ 4) && (!spec.getLsbD 11 || src == 1#4 || src == 2#4) &&
  spec.extractLsb' 12 20 == 0#20 && (cvtWidth src != 2 || even a) && (cvtWidth dst != 2 || even d)

/-- The specification literal of `trc` (R198): P up to 8, SREG even, bits 31:15 zero. -/
def trcOk (spec : Word) : Bool :=
  decide ((spec.extractLsb' 0 4).toNat ≤ 8) && !spec.getLsbD 8 && spec.extractLsb' 15 17 == 0#17

/-- Check 4 of R74 beyond what the decoder refuses: pair and group bases, queue names, limits of constants, selectors and
literal layouts (R54 to R64). A machine event has no word to check. -/
def Instr.wf : Instr → Bool
  | .iadd _ _ o => o.ok false
  | .isub _ _ o => o.ok false
  | .imul _ _ o => o.ok false
  | .imulhi _ _ o _ => o.ok false
  | .imac _ _ o => o.ok false
  | .imin _ _ o _ => o.ok false
  | .imax _ _ o _ => o.ok false
  | .iabsd _ _ o _ => o.ok false
  | .iaddsat _ _ o _ => o.ok false
  | .isubsat _ _ o _ => o.ok false
  | .and _ _ o => o.ok false
  | .or _ _ o => o.ok false
  | .xor _ _ o => o.ok false
  | .andn _ _ o => o.ok false
  | .shl _ _ o => o.ok false
  | .shr _ _ o => o.ok false
  | .sar _ _ o => o.ok false
  | .popc _ _ => true
  | .clz _ _ => true
  | .brev _ _ => true
  | .bfx _ _ o _ => o.ok false
  | .bfi _ _ o => o.ok false
  | .iaddi _ _ _ => true
  | .movi _ _ => true
  | .mov _ o => o.ok false
  | .sel _ _ _ => true
  | .lea d a o _ => even d && even a && o.ok false
  | .icmp _ _ _ _ => true
  | .fadd _ _ o _ => o.ok false
  | .fsub _ _ o _ => o.ok false
  | .fmul _ _ o _ => o.ok false
  | .ffma _ _ o _ => o.ok false
  | .fmin _ _ o _ => o.ok false
  | .fmax _ _ o _ => o.ok false
  | .fminnm _ _ o _ => o.ok false
  | .fmaxnm _ _ o _ => o.ok false
  | .fcmp _ _ _ _ => true
  | .frcp _ _ => true
  | .frsq _ _ => true
  | .fsqrt _ _ => true
  | .fex2 _ _ => true
  | .flg2 _ _ => true
  | .fsin _ _ => true
  | .fcos _ _ => true
  | .fclass _ _ => true
  | .pkadd _ _ o _ => o.ok false
  | .pkmul _ _ o _ => o.ok false
  | .pkfma _ _ o _ => o.ok false
  | .pkbfma _ _ o _ => o.ok false
  | .pkdot _ _ o _ => o.ok false
  | .dadd d a o _ => even d && even a && o.ok true
  | .dmul d a o _ => even d && even a && o.ok true
  | .dfma d a o _ => even d && even a && o.ok true
  | .dcmp _ a o _ => even a && o.pairOk true
  | .cvt d a spec => cvtOk spec d a
  | .tdec _ _ o => o.ok false
  | .tenc _ _ o => o.ok false
  | .npack _ _ o => o.ok false
  | .nunpk _ _ o => o.ok false
  | .fxq d _ o => even d && o.ok false
  | .fxdq _ a o => even a && o.ok false
  | .shfl _ _ src => src.ok
  | .lred _ _ k _ => below k 11
  | .lscan _ _ k _ _ => below k 11
  | .matchv _ _ _ => true
  | .pset _ _ => true
  | .plog _ _ _ _ => true
  | .pmov _ _ => true
  | .qpush d _ => below d 4
  | .qpop _ a => queueOut a
  | .trc a _ spec => octet a && trcOk spec
  | .oenter _ a _ => even a
  | .oleave a => even a
  | .oskip a _ => even a
  | .scq d a => even d && even a
  | .scfill a _ => even a
  | .scinv _ => true
  | .ld8 _ a _ => even a
  | .ld16 _ a _ => even a
  | .ld32 _ a _ => even a
  | .ld64 d a _ => even d && even a
  | .ld128 d a _ => quad d && even a
  | .st8 _ a _ => even a
  | .st16 _ a _ => even a
  | .st32 _ a _ => even a
  | .st64 d a _ => even d && even a
  | .st128 d a _ => quad d && even a
  | .lds32 _ _ _ => true
  | .lds64 d _ _ => even d
  | .lds128 d _ _ => quad d
  | .sts32 _ _ _ => true
  | .sts64 d _ _ => even d
  | .sts128 d _ _ => quad d
  | .ldf _ _ _ => true
  | .ste _ _ _ => true
  | .ldfk _ _ _ => true
  | .ldc _ a _ => even a
  | .smp d a _ => quad d && even a
  | .cpa _ a o => even a && o.ok false
  | .atadd d _ w o _ => (!w || even d) && o.pairOk w
  | .atmin d _ w o _ => (!w || even d) && o.pairOk w
  | .atmax d _ w o _ => (!w || even d) && o.pairOk w
  | .atand d _ w o _ => (!w || even d) && o.pairOk w
  | .ator d _ w o _ => (!w || even d) && o.pairOk w
  | .atxor d _ w o _ => (!w || even d) && o.pairOk w
  | .atxch d _ w o _ => (!w || even d) && o.pairOk w
  | .atcas d _ w b _ => (!w || even d) && (if w then quad b else even b)
  | .atfadd d _ w o _ => (!w || even d) && o.pairOk w
  | .atfmin d _ w o _ => (!w || even d) && o.pairOk w
  | .atfmax d _ w o _ => (!w || even d) && o.pairOk w
  | .redadd _ w o _ => o.pairOk w
  | .redfadd _ w o _ => o.pairOk w
  | .sadd _ _ _ => true
  | .ssub _ _ _ => true
  | .smul _ _ _ => true
  | .smulhi _ _ _ _ => true
  | .sand _ _ _ => true
  | .sor _ _ _ => true
  | .sxor _ _ _ => true
  | .sandn _ _ _ => true
  | .sshl _ _ _ => true
  | .sshr _ _ _ => true
  | .ssar _ _ _ => true
  | .smin _ _ _ _ => true
  | .smax _ _ _ _ => true
  | .spopc _ _ => true
  | .sclz _ _ => true
  | .sbfx _ _ _ _ => true
  | .sbfi _ _ _ => true
  | .saddi _ _ _ => true
  | .smovi _ _ => true
  | .smov _ _ => true
  | .ssel _ _ _ => true
  | .scmp _ _ _ _ => true
  | .slea d a _ _ => even d && even a
  | .sld32 _ a _ => even a
  | .sld64 d a _ => even d && even a
  | .sst32 _ a _ => even a
  | .sst64 d a _ => even d && even a
  | .sldc _ a _ => even a
  | .satadd d _ w o _ => (!w || even d) && o.pairOk w
  | .satcas d _ w b _ => (!w || even d) && (if w then quad b else even b)
  | .satxch d _ w o _ => (!w || even d) && o.pairOk w
  | .sldaq d _ w ord => orderedOk ord && (!w || even d)
  | .sstrl d _ w ord => orderedOk ord && (!w || even d)
  | .exset _ => true
  | .exand _ => true
  | .exandn _ => true
  | .exsave _ => true
  | .exall => true
  | .excnt _ => true
  | .exany _ _ => true
  | .pballot _ _ n => n.wOk
  | .pfill _ _ n => n.wOk
  | .sget _ _ _ => true
  | .fork _ _ => true
  | .pend _ => true
  | .yld => true
  | .bra _ => true
  | .brz _ _ => true
  | .brnz _ _ => true
  | .brex _ => true
  | .brnex _ => true
  | .call _ _ => true
  | .ret _ => true
  | .jmp _ => true
  | .exit => true
  | .trap _ => true
  | .brk => true
  | .bar a => below a 16
  | .barrv _ a _ => below a 16
  | .barw a => below a 16
  | .barpend a _ => below a 16
  | .fence _ => true
  | .pfence _ => true
  | .wait _ a b => quad a && countOk b
  | .ctcommit => true
  | .ctwait b => below b 8
  | .fwait _ _ => true
  | .ftest _ _ => true
  | .fcancel _ _ => true
  | .job _ _ _ => true
  | .spawn _ _ _ => true
  | .scframe _ => true
  | .mfmt a => even a
  | .wbld d a => below d 8 && even a
  | .mma d a n => below d 4 && below a 8 && n.nOk
  | .mzero d => below d 4
  | .mdrain d => below d 4
  | .mburst n => n.nOk
  | .mwait _ => true
  | .chash d _ => even d
  | .cput d _ => even d
  | .cget _ b => even b
  | .cref a => even a
  | .cdrop a => even a
  | .cswap _ a b _ => even a && quad b
  | .srd _ b => srdNumber b
  | .swr _ b => swrNumber b
  | .nop => true
  | .rtt => true
  | .waitReturn _ _ => true
  | .bundleFetch _ => true
  | .safePointRedirection _ => true
  | .trapEntry _ _ _ _ => true
  | .pathSwitch _ => true
  | .resultResolve _ _ => true
  | .copyLanding _ _ => true
  | .teamEnd _ => true
  | .gridEnd _ _ => true
  | .launch _ _ _ _ _ _ _ _ _ => true
  | .gangPlacement _ => true
  | .preemptionRequest _ => true
  | .gangSave _ => true
  | .gangRestore _ => true
  | .preemptionTimeout _ => true
  | .deckDispatch _ => true
  | .stealAttempt _ => true
  | .jobStart _ => true
  | .jobLanding _ _ _ => true
  | .fillfullStep _ _ _ => true
  | .jobCompletion _ _ => true
  | .collectiveResult _ _ _ => true
  | .apertureSubmit _ _ _ _ => true
  | .yrdAbort _ _ => true
  | .pageWalk _ _ _ => true
  | .faultRetry _ _ => true
  | .faultReject _ _ => true
  | .matrixChunkStart _ => true
  | .matrixChunkEnd _ => true
  | .weightLoadEnd _ _ => true
  | .drainBeat _ => true
  | .rampupEnd _ => true
  | .rampdownEnd _ => true
  | .warmToCold _ => true
  | .mxaInj _ _ _ => true
  | .oenterArrival _ _ _ => true
  | .oleaveArrival _ _ _ => true
  | .oskipArrival _ _ _ => true
  | .sectionTimeout _ _ => true
  | .waiterRetry _ _ _ => true
  | .secReset _ => true
  | .secFree _ => true
  | .secQuery _ => true
  | .clearall _ => true
  | .secBadOp _ => true
  | .cascadeStep _ => true
  | .rayEnd _ _ => true
  | .uncorrectedError _ => true
  | .consumption _ _ _ => true
  | .checkpoint _ _ => true
  | .rasInj _ _ => true
  | .clusterRemoval _ => true
  | .dbgHalt _ => true
  | .dbgResume _ => true
  | .dbgStep _ => true
  | .dbgQuery _ => true
  | .dbgRead _ => true
  | .dbgEdit _ => true
  | .dbgDiscard _ => true
  | .dbgBadOp _ => true
  | .stepHalt _ => true
  | .haltEvent _ => true
  | .dbgWpWrite _ _ _ _ => true
  | .dbgPulse _ _ => true
  | .triggerPin _ => true
  | .stallSample _ _ _ => true
  | .ctxcfg _ _ _ _ => true
  | .inval _ _ _ _ _ => true
  | .kill _ _ _ _ => true
  | .term _ _ _ => true
  | .evread _ _ _ _ _ => true
  | .domainCreate _ _ _ _ _ _ => true
  | .domainDelete _ _ _ _ => true
  | .svcrole _ _ _ _ => true
  | .debugGrant _ _ _ _ _ _ => true
  | .debugRevoke _ _ _ => true
  | .attest _ _ _ _ => true
  | .configure => true
  | .teardown => true
  | .mgtRead => true
  | .mgtBadOp => true
  | .registerWrite _ _ => true
  | .startUp => true
  | .powerLoss => true
  | .thermalThrottle _ => true
  | .thermalShutdown _ => true
  | .bypass => true
  | .idcode => true
  | .samplePreload => true
  | .extest => true
  | .clamp => true
  | .highz => true
  | .correctedError _ => true
  | .linkLevelReplay _ => true
  | .commandRefused _ _ _ _ => true
  | .partialSums _ _ _ _ => true

end Sys2Proof
end

