-- ==== Sys2Proof/Machine/Operands.lean ====
section
/-! DEFINITION. Which registers an instruction reads and writes, in every operand form of R54 to R64: what the
register-range check (R17), the scoreboard (R66) and the undersized-read check (R67) look at. -/

namespace Sys2Proof

/-- The three register files (R67: 0 vector, 1 uniform, 2 predicate). -/
inductive RFile where
  | v
  | s
  | p
  deriving DecidableEq, Repr

/-- `cnt` registers of a file from `n` on. `raw` marks a read that neither waits for a pending future nor resolves it
(`smov` under mod 0b00, the future instructions and the source of `sget`, R22, R214, R237). -/
structure RegUse where
  file : RFile
  n    : Nat
  cnt  : Nat
  raw  : Bool
  deriving DecidableEq, Repr

/-- The registers of an L-set operand b of `cnt` words (R57). -/
def OpB.reads (o : OpB) (cnt : Nat) : List RegUse :=
  match o with
  | .reg b => [⟨.v, b.toNat, cnt, false⟩]
  | .uni b => [⟨.s, b.toNat, cnt, false⟩]
  | .lit _ => []
  | .pat b _ => [⟨.v, b.toNat, cnt, false⟩]

/-- The registers of a `shfl` lane source (R136). -/
def LaneSrc.reads (o : LaneSrc) : List RegUse :=
  match o with
  | .reg b => [⟨.v, b.toNat, 1, false⟩]
  | .uni b => [⟨.s, b.toNat, 1, false⟩]
  | .lit _ => []
  | .pat _ => []

/-- The registers of a "lit" operand of `cnt` words in a file (R58). -/
def OpL.reads (o : OpL) (file : RFile) (cnt : Nat) : List RegUse :=
  match o with
  | .reg b => [⟨file, b.toNat, cnt, false⟩]
  | .lit _ => []

/-- The register of a U-set operand b (R57). -/
def OpU.reads (o : OpU) (raw : Bool) : List RegUse :=
  match o with
  | .reg b => [⟨.s, b.toNat, 1, raw⟩]
  | .lit _ => []

/-- The register of a selector (R64). -/
def Selr.reads (n : Selr) : List RegUse :=
  match n with
  | .imm _ => []
  | .uni b => [⟨.s, b.toNat, 1, false⟩]
  | .lit _ => []

/-- The registers that an instruction reads, from the operand columns of R70 and R71. -/
def Instr.reads : Instr → List RegUse
  | .iadd _ a o => [⟨.v, a.toNat, 1, false⟩] ++ o.reads 1
  | .isub _ a o => [⟨.v, a.toNat, 1, false⟩] ++ o.reads 1
  | .imul _ a o => [⟨.v, a.toNat, 1, false⟩] ++ o.reads 1
  | .imulhi _ a o _ => [⟨.v, a.toNat, 1, false⟩] ++ o.reads 1
  | .imac d a o => [⟨.v, d.toNat, 1, false⟩, ⟨.v, a.toNat, 1, false⟩] ++ o.reads 1
  | .imin _ a o _ => [⟨.v, a.toNat, 1, false⟩] ++ o.reads 1
  | .imax _ a o _ => [⟨.v, a.toNat, 1, false⟩] ++ o.reads 1
  | .iabsd _ a o _ => [⟨.v, a.toNat, 1, false⟩] ++ o.reads 1
  | .iaddsat _ a o _ => [⟨.v, a.toNat, 1, false⟩] ++ o.reads 1
  | .isubsat _ a o _ => [⟨.v, a.toNat, 1, false⟩] ++ o.reads 1
  | .and _ a o => [⟨.v, a.toNat, 1, false⟩] ++ o.reads 1
  | .or _ a o => [⟨.v, a.toNat, 1, false⟩] ++ o.reads 1
  | .xor _ a o => [⟨.v, a.toNat, 1, false⟩] ++ o.reads 1
  | .andn _ a o => [⟨.v, a.toNat, 1, false⟩] ++ o.reads 1
  | .shl _ a o => [⟨.v, a.toNat, 1, false⟩] ++ o.reads 1
  | .shr _ a o => [⟨.v, a.toNat, 1, false⟩] ++ o.reads 1
  | .sar _ a o => [⟨.v, a.toNat, 1, false⟩] ++ o.reads 1
  | .popc _ a => [⟨.v, a.toNat, 1, false⟩]
  | .clz _ a => [⟨.v, a.toNat, 1, false⟩]
  | .brev _ a => [⟨.v, a.toNat, 1, false⟩]
  | .bfx _ a o _ => [⟨.v, a.toNat, 1, false⟩] ++ o.reads 1
  | .bfi d a o => [⟨.v, d.toNat, 1, false⟩, ⟨.v, a.toNat, 1, false⟩] ++ o.reads 1
  | .iaddi _ a _ => [⟨.v, a.toNat, 1, false⟩]
  | .movi _ _ => []
  | .mov _ o => [] ++ o.reads 1
  | .sel d a b => [⟨.v, d.toNat, 1, false⟩, ⟨.v, a.toNat, 1, false⟩, ⟨.p, b.toNat, 1, false⟩]
  | .lea _ a o _ => [⟨.v, a.toNat, 2, false⟩] ++ o.reads 1
  | .icmp _ a o _ => [⟨.v, a.toNat, 1, false⟩] ++ o.reads .v 1
  | .fadd _ a o _ => [⟨.v, a.toNat, 1, false⟩] ++ o.reads 1
  | .fsub _ a o _ => [⟨.v, a.toNat, 1, false⟩] ++ o.reads 1
  | .fmul _ a o _ => [⟨.v, a.toNat, 1, false⟩] ++ o.reads 1
  | .ffma d a o _ => [⟨.v, d.toNat, 1, false⟩, ⟨.v, a.toNat, 1, false⟩] ++ o.reads 1
  | .fmin _ a o _ => [⟨.v, a.toNat, 1, false⟩] ++ o.reads 1
  | .fmax _ a o _ => [⟨.v, a.toNat, 1, false⟩] ++ o.reads 1
  | .fminnm _ a o _ => [⟨.v, a.toNat, 1, false⟩] ++ o.reads 1
  | .fmaxnm _ a o _ => [⟨.v, a.toNat, 1, false⟩] ++ o.reads 1
  | .fcmp _ a o _ => [⟨.v, a.toNat, 1, false⟩] ++ o.reads .v 1
  | .frcp _ a => [⟨.v, a.toNat, 1, false⟩]
  | .frsq _ a => [⟨.v, a.toNat, 1, false⟩]
  | .fsqrt _ a => [⟨.v, a.toNat, 1, false⟩]
  | .fex2 _ a => [⟨.v, a.toNat, 1, false⟩]
  | .flg2 _ a => [⟨.v, a.toNat, 1, false⟩]
  | .fsin _ a => [⟨.v, a.toNat, 1, false⟩]
  | .fcos _ a => [⟨.v, a.toNat, 1, false⟩]
  | .fclass _ a => [⟨.v, a.toNat, 1, false⟩]
  | .pkadd _ a o _ => [⟨.v, a.toNat, 1, false⟩] ++ o.reads 1
  | .pkmul _ a o _ => [⟨.v, a.toNat, 1, false⟩] ++ o.reads 1
  | .pkfma d a o _ => [⟨.v, d.toNat, 1, false⟩, ⟨.v, a.toNat, 1, false⟩] ++ o.reads 1
  | .pkbfma d a o _ => [⟨.v, d.toNat, 1, false⟩, ⟨.v, a.toNat, 1, false⟩] ++ o.reads 1
  | .pkdot d a o _ => [⟨.v, d.toNat, 1, false⟩, ⟨.v, a.toNat, 1, false⟩] ++ o.reads 1
  | .dadd _ a o _ => [⟨.v, a.toNat, 2, false⟩] ++ o.reads 2
  | .dmul _ a o _ => [⟨.v, a.toNat, 2, false⟩] ++ o.reads 2
  | .dfma d a o _ => [⟨.v, d.toNat, 2, false⟩, ⟨.v, a.toNat, 2, false⟩] ++ o.reads 2
  | .dcmp _ a o _ => [⟨.v, a.toNat, 2, false⟩] ++ o.reads .v 2
  | .cvt _ a spec => [⟨.v, a.toNat, cvtWidth (spec.extractLsb' 0 4), false⟩]
  | .tdec _ a o => [⟨.v, a.toNat, 1, false⟩] ++ o.reads 1
  | .tenc _ a o => [⟨.v, a.toNat, 1, false⟩] ++ o.reads 1
  | .npack _ a o => [⟨.v, a.toNat, 1, false⟩] ++ o.reads 1
  | .nunpk _ a o => [⟨.v, a.toNat, 1, false⟩] ++ o.reads 1
  | .fxq _ a o => [⟨.v, a.toNat, 1, false⟩] ++ o.reads 1
  | .fxdq _ a o => [⟨.v, a.toNat, 2, false⟩] ++ o.reads 1
  | .shfl _ a src => [⟨.v, a.toNat, 1, false⟩] ++ src.reads
  | .lred _ a _ _ => [⟨.v, a.toNat, 1, false⟩]
  | .lscan _ a _ _ _ => [⟨.v, a.toNat, 1, false⟩]
  | .matchv _ a _ => [⟨.v, a.toNat, 1, false⟩]
  | .pset _ a => [⟨.v, a.toNat, 1, false⟩]
  | .plog _ a b _ => [⟨.p, a.toNat, 1, false⟩, ⟨.p, b.toNat, 1, false⟩]
  | .pmov _ a => [⟨.p, a.toNat, 1, false⟩]
  | .qpush _ a => [⟨.v, a.toNat, 1, false⟩]
  | .qpop _ _ => []
  | .trc a b spec => [⟨.v, a.toNat, 8, false⟩, ⟨.v, b.toNat, (spec.extractLsb' 0 4).toNat, false⟩, ⟨.s, (spec.extractLsb' 8 7).toNat, 2, false⟩]
  | .oenter _ a b => [⟨.v, a.toNat, 2, false⟩, ⟨.v, b.toNat, 1, false⟩]
  | .oleave a => [⟨.v, a.toNat, 2, false⟩]
  | .oskip a b => [⟨.v, a.toNat, 2, false⟩, ⟨.v, b.toNat, 1, false⟩]
  | .scq _ a => [⟨.v, a.toNat, 2, false⟩]
  | .scfill a b => [⟨.v, a.toNat, 2, false⟩, ⟨.v, b.toNat, 1, false⟩]
  | .scinv a => [⟨.v, a.toNat, 1, false⟩]
  | .ld8 _ a _ => [⟨.v, a.toNat, 2, false⟩]
  | .ld16 _ a _ => [⟨.v, a.toNat, 2, false⟩]
  | .ld32 _ a _ => [⟨.v, a.toNat, 2, false⟩]
  | .ld64 _ a _ => [⟨.v, a.toNat, 2, false⟩]
  | .ld128 _ a _ => [⟨.v, a.toNat, 2, false⟩]
  | .st8 d a _ => [⟨.v, d.toNat, 1, false⟩, ⟨.v, a.toNat, 2, false⟩]
  | .st16 d a _ => [⟨.v, d.toNat, 1, false⟩, ⟨.v, a.toNat, 2, false⟩]
  | .st32 d a _ => [⟨.v, d.toNat, 1, false⟩, ⟨.v, a.toNat, 2, false⟩]
  | .st64 d a _ => [⟨.v, d.toNat, 2, false⟩, ⟨.v, a.toNat, 2, false⟩]
  | .st128 d a _ => [⟨.v, d.toNat, 4, false⟩, ⟨.v, a.toNat, 2, false⟩]
  | .lds32 _ a _ => [⟨.v, a.toNat, 1, false⟩]
  | .lds64 _ a _ => [⟨.v, a.toNat, 1, false⟩]
  | .lds128 _ a _ => [⟨.v, a.toNat, 1, false⟩]
  | .sts32 d a _ => [⟨.v, d.toNat, 1, false⟩, ⟨.v, a.toNat, 1, false⟩]
  | .sts64 d a _ => [⟨.v, d.toNat, 2, false⟩, ⟨.v, a.toNat, 1, false⟩]
  | .sts128 d a _ => [⟨.v, d.toNat, 4, false⟩, ⟨.v, a.toNat, 1, false⟩]
  | .ldf _ a _ => [⟨.v, a.toNat, 1, false⟩]
  | .ste d a _ => [⟨.v, d.toNat, 1, false⟩, ⟨.v, a.toNat, 1, false⟩]
  | .ldfk _ a _ => [⟨.v, a.toNat, 1, false⟩]
  | .ldc _ a _ => [⟨.v, a.toNat, 2, false⟩]
  | .smp _ a b => [⟨.v, a.toNat, 2, false⟩, ⟨.s, b.toNat, 1, false⟩]
  | .cpa d a o => [⟨.v, d.toNat, 1, false⟩, ⟨.v, a.toNat, 2, false⟩] ++ o.reads 1
  | .atadd _ a w o _ => [⟨.v, 2 * a.toNat, 2, false⟩] ++ o.reads .v (if w then 2 else 1)
  | .atmin _ a w o _ => [⟨.v, 2 * a.toNat, 2, false⟩] ++ o.reads .v (if w then 2 else 1)
  | .atmax _ a w o _ => [⟨.v, 2 * a.toNat, 2, false⟩] ++ o.reads .v (if w then 2 else 1)
  | .atand _ a w o _ => [⟨.v, 2 * a.toNat, 2, false⟩] ++ o.reads .v (if w then 2 else 1)
  | .ator _ a w o _ => [⟨.v, 2 * a.toNat, 2, false⟩] ++ o.reads .v (if w then 2 else 1)
  | .atxor _ a w o _ => [⟨.v, 2 * a.toNat, 2, false⟩] ++ o.reads .v (if w then 2 else 1)
  | .atxch _ a w o _ => [⟨.v, 2 * a.toNat, 2, false⟩] ++ o.reads .v (if w then 2 else 1)
  | .atcas _ a w b _ => [⟨.v, 2 * a.toNat, 2, false⟩, ⟨.v, b.toNat, (if w then 4 else 2), false⟩]
  | .atfadd _ a w o _ => [⟨.v, 2 * a.toNat, 2, false⟩] ++ o.reads .v (if w then 2 else 1)
  | .atfmin _ a w o _ => [⟨.v, 2 * a.toNat, 2, false⟩] ++ o.reads .v (if w then 2 else 1)
  | .atfmax _ a w o _ => [⟨.v, 2 * a.toNat, 2, false⟩] ++ o.reads .v (if w then 2 else 1)
  | .redadd a w o _ => [⟨.v, 2 * a.toNat, 2, false⟩] ++ o.reads .v (if w then 2 else 1)
  | .redfadd a w o _ => [⟨.v, 2 * a.toNat, 2, false⟩] ++ o.reads .v (if w then 2 else 1)
  | .sadd _ a o => [⟨.s, a.toNat, 1, false⟩] ++ o.reads false
  | .ssub _ a o => [⟨.s, a.toNat, 1, false⟩] ++ o.reads false
  | .smul _ a o => [⟨.s, a.toNat, 1, false⟩] ++ o.reads false
  | .smulhi _ a o _ => [⟨.s, a.toNat, 1, false⟩] ++ o.reads false
  | .sand _ a o => [⟨.s, a.toNat, 1, false⟩] ++ o.reads false
  | .sor _ a o => [⟨.s, a.toNat, 1, false⟩] ++ o.reads false
  | .sxor _ a o => [⟨.s, a.toNat, 1, false⟩] ++ o.reads false
  | .sandn _ a o => [⟨.s, a.toNat, 1, false⟩] ++ o.reads false
  | .sshl _ a o => [⟨.s, a.toNat, 1, false⟩] ++ o.reads false
  | .sshr _ a o => [⟨.s, a.toNat, 1, false⟩] ++ o.reads false
  | .ssar _ a o => [⟨.s, a.toNat, 1, false⟩] ++ o.reads false
  | .smin _ a o _ => [⟨.s, a.toNat, 1, false⟩] ++ o.reads false
  | .smax _ a o _ => [⟨.s, a.toNat, 1, false⟩] ++ o.reads false
  | .spopc _ a => [⟨.s, a.toNat, 1, false⟩]
  | .sclz _ a => [⟨.s, a.toNat, 1, false⟩]
  | .sbfx _ a o _ => [⟨.s, a.toNat, 1, false⟩] ++ o.reads false
  | .sbfi d a o => [⟨.s, d.toNat, 1, false⟩, ⟨.s, a.toNat, 1, false⟩] ++ o.reads false
  | .saddi _ a _ => [⟨.s, a.toNat, 1, false⟩]
  | .smovi _ _ => []
  | .smov _ o => [] ++ o.reads true
  | .ssel d a b => [⟨.s, d.toNat, 1, false⟩, ⟨.s, a.toNat, 1, false⟩, ⟨.s, b.toNat, 1, false⟩]
  | .scmp _ a o _ => [⟨.s, a.toNat, 1, false⟩] ++ o.reads .s 1
  | .slea _ a o _ => [⟨.s, a.toNat, 2, false⟩] ++ o.reads false
  | .sld32 _ a _ => [⟨.s, a.toNat, 2, false⟩]
  | .sld64 _ a _ => [⟨.s, a.toNat, 2, false⟩]
  | .sst32 d a _ => [⟨.s, d.toNat, 1, false⟩, ⟨.s, a.toNat, 2, false⟩]
  | .sst64 d a _ => [⟨.s, d.toNat, 2, false⟩, ⟨.s, a.toNat, 2, false⟩]
  | .sldc _ a _ => [⟨.s, a.toNat, 2, false⟩]
  | .satadd _ a w o _ => [⟨.s, 2 * a.toNat, 2, false⟩] ++ o.reads .s (if w then 2 else 1)
  | .satcas _ a w b _ => [⟨.s, 2 * a.toNat, 2, false⟩, ⟨.s, b.toNat, (if w then 4 else 2), false⟩]
  | .satxch _ a w o _ => [⟨.s, 2 * a.toNat, 2, false⟩] ++ o.reads .s (if w then 2 else 1)
  | .sldaq _ a _ _ => [⟨.s, 2 * a.toNat, 2, false⟩]
  | .sstrl d a w _ => [⟨.s, 2 * a.toNat, 2, false⟩, ⟨.s, d.toNat, (if w then 2 else 1), false⟩]
  | .exset a => [⟨.p, a.toNat, 1, false⟩]
  | .exand a => [⟨.p, a.toNat, 1, false⟩]
  | .exandn a => [⟨.p, a.toNat, 1, false⟩]
  | .exsave _ => []
  | .exall => []
  | .excnt _ => []
  | .exany _ a => [⟨.p, a.toNat, 1, false⟩]
  | .pballot _ a n => [⟨.p, a.toNat, 1, false⟩] ++ n.reads
  | .pfill _ a n => [⟨.s, a.toNat, 1, false⟩] ++ n.reads
  | .sget _ a n => [⟨.v, a.toNat, 1, true⟩] ++ n.reads
  | .fork c _ => [⟨.p, c.toNat, 1, false⟩]
  | .pend _ => []
  | .yld => []
  | .bra _ => []
  | .brz c _ => [⟨.s, c.toNat, 1, false⟩]
  | .brnz c _ => [⟨.s, c.toNat, 1, false⟩]
  | .brex _ => []
  | .brnex _ => []
  | .call _ _ => []
  | .ret a => [⟨.s, a.toNat, 1, false⟩]
  | .jmp a => [⟨.s, a.toNat, 1, false⟩]
  | .exit => []
  | .trap _ => []
  | .brk => []
  | .bar _ => []
  | .barrv _ _ b => [⟨.s, b.toNat, 1, false⟩]
  | .barw _ => []
  | .barpend _ o => [] ++ o.reads false
  | .fence _ => []
  | .pfence _ => []
  | .wait _ a b => [⟨.s, a.toNat, 4 * b.toNat, false⟩]
  | .ctcommit => []
  | .ctwait _ => []
  | .fwait _ a => [⟨.s, a.toNat, 1, true⟩]
  | .ftest _ a => [⟨.s, a.toNat, 1, true⟩]
  | .fcancel _ a => [⟨.s, a.toNat, 1, true⟩]
  | .job _ a b => [⟨.s, a.toNat, 1, false⟩, ⟨.s, b.toNat, 1, false⟩]
  | .spawn _ a b => [⟨.s, a.toNat, 1, false⟩, ⟨.s, b.toNat, 1, false⟩]
  | .scframe a => [⟨.s, a.toNat, 1, false⟩]
  | .mfmt a => [⟨.s, a.toNat, 2, false⟩]
  | .wbld _ a => [⟨.s, a.toNat, 2, false⟩]
  | .mma _ _ n => [] ++ n.reads
  | .mzero _ => []
  | .mdrain _ => []
  | .mburst n => [] ++ n.reads
  | .mwait _ => []
  | .chash _ a => [⟨.s, a.toNat, 1, false⟩]
  | .cput _ a => [⟨.s, a.toNat, 1, false⟩]
  | .cget a b => [⟨.s, a.toNat, 1, false⟩, ⟨.s, b.toNat, 2, false⟩]
  | .cref a => [⟨.s, a.toNat, 2, false⟩]
  | .cdrop a => [⟨.s, a.toNat, 2, false⟩]
  | .cswap _ a b _ => [⟨.s, a.toNat, 2, false⟩, ⟨.s, b.toNat, 4, false⟩]
  | .srd _ _ => []
  | .swr a _ => [⟨.s, a.toNat, 1, false⟩]
  | .nop => []
  | .rtt => []
  | .waitReturn _ _ => []
  | .bundleFetch _ => []
  | .safePointRedirection _ => []
  | .trapEntry _ _ _ _ => []
  | .pathSwitch _ => []
  | .resultResolve _ _ => []
  | .copyLanding _ _ => []
  | .teamEnd _ => []
  | .gridEnd _ _ => []
  | .launch _ _ _ _ _ _ _ _ _ => []
  | .gangPlacement _ => []
  | .preemptionRequest _ => []
  | .gangSave _ => []
  | .gangRestore _ => []
  | .preemptionTimeout _ => []
  | .deckDispatch _ => []
  | .stealAttempt _ => []
  | .jobStart _ => []
  | .jobLanding _ _ _ => []
  | .fillfullStep _ _ _ => []
  | .jobCompletion _ _ => []
  | .collectiveResult _ _ _ => []
  | .apertureSubmit _ _ _ _ => []
  | .yrdAbort _ _ => []
  | .pageWalk _ _ _ => []
  | .faultRetry _ _ => []
  | .faultReject _ _ => []
  | .matrixChunkStart _ => []
  | .matrixChunkEnd _ => []
  | .weightLoadEnd _ _ => []
  | .drainBeat _ => []
  | .rampupEnd _ => []
  | .rampdownEnd _ => []
  | .warmToCold _ => []
  | .mxaInj _ _ _ => []
  | .oenterArrival _ _ _ => []
  | .oleaveArrival _ _ _ => []
  | .oskipArrival _ _ _ => []
  | .sectionTimeout _ _ => []
  | .waiterRetry _ _ _ => []
  | .secReset _ => []
  | .secFree _ => []
  | .secQuery _ => []
  | .clearall _ => []
  | .secBadOp _ => []
  | .cascadeStep _ => []
  | .rayEnd _ _ => []
  | .uncorrectedError _ => []
  | .consumption _ _ _ => []
  | .checkpoint _ _ => []
  | .rasInj _ _ => []
  | .clusterRemoval _ => []
  | .dbgHalt _ => []
  | .dbgResume _ => []
  | .dbgStep _ => []
  | .dbgQuery _ => []
  | .dbgRead _ => []
  | .dbgEdit _ => []
  | .dbgDiscard _ => []
  | .dbgBadOp _ => []
  | .stepHalt _ => []
  | .haltEvent _ => []
  | .dbgWpWrite _ _ _ _ => []
  | .dbgPulse _ _ => []
  | .triggerPin _ => []
  | .stallSample _ _ _ => []
  | .ctxcfg _ _ _ _ => []
  | .inval _ _ _ _ _ => []
  | .kill _ _ _ _ => []
  | .term _ _ _ => []
  | .evread _ _ _ _ _ => []
  | .domainCreate _ _ _ _ _ _ => []
  | .domainDelete _ _ _ _ => []
  | .svcrole _ _ _ _ => []
  | .debugGrant _ _ _ _ _ _ => []
  | .debugRevoke _ _ _ => []
  | .attest _ _ _ _ => []
  | .configure => []
  | .teardown => []
  | .mgtRead => []
  | .mgtBadOp => []
  | .registerWrite _ _ => []
  | .startUp => []
  | .powerLoss => []
  | .thermalThrottle _ => []
  | .thermalShutdown _ => []
  | .bypass => []
  | .idcode => []
  | .samplePreload => []
  | .extest => []
  | .clamp => []
  | .highz => []
  | .correctedError _ => []
  | .linkLevelReplay _ => []
  | .commandRefused _ _ _ _ => []
  | .partialSums _ _ _ _ => []

/-- The registers that an instruction writes, from the operand columns of R70 and R71. -/
def Instr.writes : Instr → List RegUse
  | .iadd d _ _ => [⟨.v, d.toNat, 1, false⟩]
  | .isub d _ _ => [⟨.v, d.toNat, 1, false⟩]
  | .imul d _ _ => [⟨.v, d.toNat, 1, false⟩]
  | .imulhi d _ _ _ => [⟨.v, d.toNat, 1, false⟩]
  | .imac d _ _ => [⟨.v, d.toNat, 1, false⟩]
  | .imin d _ _ _ => [⟨.v, d.toNat, 1, false⟩]
  | .imax d _ _ _ => [⟨.v, d.toNat, 1, false⟩]
  | .iabsd d _ _ _ => [⟨.v, d.toNat, 1, false⟩]
  | .iaddsat d _ _ _ => [⟨.v, d.toNat, 1, false⟩]
  | .isubsat d _ _ _ => [⟨.v, d.toNat, 1, false⟩]
  | .and d _ _ => [⟨.v, d.toNat, 1, false⟩]
  | .or d _ _ => [⟨.v, d.toNat, 1, false⟩]
  | .xor d _ _ => [⟨.v, d.toNat, 1, false⟩]
  | .andn d _ _ => [⟨.v, d.toNat, 1, false⟩]
  | .shl d _ _ => [⟨.v, d.toNat, 1, false⟩]
  | .shr d _ _ => [⟨.v, d.toNat, 1, false⟩]
  | .sar d _ _ => [⟨.v, d.toNat, 1, false⟩]
  | .popc d _ => [⟨.v, d.toNat, 1, false⟩]
  | .clz d _ => [⟨.v, d.toNat, 1, false⟩]
  | .brev d _ => [⟨.v, d.toNat, 1, false⟩]
  | .bfx d _ _ _ => [⟨.v, d.toNat, 1, false⟩]
  | .bfi d _ _ => [⟨.v, d.toNat, 1, false⟩]
  | .iaddi d _ _ => [⟨.v, d.toNat, 1, false⟩]
  | .movi d _ => [⟨.v, d.toNat, 1, false⟩]
  | .mov d _ => [⟨.v, d.toNat, 1, false⟩]
  | .sel d _ _ => [⟨.v, d.toNat, 1, false⟩]
  | .lea d _ _ _ => [⟨.v, d.toNat, 2, false⟩]
  | .icmp d _ _ _ => [⟨.p, d.toNat, 1, false⟩]
  | .fadd d _ _ _ => [⟨.v, d.toNat, 1, false⟩]
  | .fsub d _ _ _ => [⟨.v, d.toNat, 1, false⟩]
  | .fmul d _ _ _ => [⟨.v, d.toNat, 1, false⟩]
  | .ffma d _ _ _ => [⟨.v, d.toNat, 1, false⟩]
  | .fmin d _ _ _ => [⟨.v, d.toNat, 1, false⟩]
  | .fmax d _ _ _ => [⟨.v, d.toNat, 1, false⟩]
  | .fminnm d _ _ _ => [⟨.v, d.toNat, 1, false⟩]
  | .fmaxnm d _ _ _ => [⟨.v, d.toNat, 1, false⟩]
  | .fcmp d _ _ _ => [⟨.p, d.toNat, 1, false⟩]
  | .frcp d _ => [⟨.v, d.toNat, 1, false⟩]
  | .frsq d _ => [⟨.v, d.toNat, 1, false⟩]
  | .fsqrt d _ => [⟨.v, d.toNat, 1, false⟩]
  | .fex2 d _ => [⟨.v, d.toNat, 1, false⟩]
  | .flg2 d _ => [⟨.v, d.toNat, 1, false⟩]
  | .fsin d _ => [⟨.v, d.toNat, 1, false⟩]
  | .fcos d _ => [⟨.v, d.toNat, 1, false⟩]
  | .fclass d _ => [⟨.v, d.toNat, 1, false⟩]
  | .pkadd d _ _ _ => [⟨.v, d.toNat, 1, false⟩]
  | .pkmul d _ _ _ => [⟨.v, d.toNat, 1, false⟩]
  | .pkfma d _ _ _ => [⟨.v, d.toNat, 1, false⟩]
  | .pkbfma d _ _ _ => [⟨.v, d.toNat, 1, false⟩]
  | .pkdot d _ _ _ => [⟨.v, d.toNat, 1, false⟩]
  | .dadd d _ _ _ => [⟨.v, d.toNat, 2, false⟩]
  | .dmul d _ _ _ => [⟨.v, d.toNat, 2, false⟩]
  | .dfma d _ _ _ => [⟨.v, d.toNat, 2, false⟩]
  | .dcmp d _ _ _ => [⟨.p, d.toNat, 1, false⟩]
  | .cvt d _ spec => [⟨.v, d.toNat, cvtWidth (spec.extractLsb' 4 4), false⟩]
  | .tdec d _ _ => [⟨.v, d.toNat, 1, false⟩]
  | .tenc d _ _ => [⟨.v, d.toNat, 1, false⟩]
  | .npack d _ _ => [⟨.v, d.toNat, 1, false⟩]
  | .nunpk d _ _ => [⟨.v, d.toNat, 1, false⟩]
  | .fxq d _ _ => [⟨.v, d.toNat, 2, false⟩]
  | .fxdq d _ _ => [⟨.v, d.toNat, 1, false⟩]
  | .shfl d _ _ => [⟨.v, d.toNat, 1, false⟩]
  | .lred d _ _ _ => [⟨.v, d.toNat, 1, false⟩]
  | .lscan d _ _ _ _ => [⟨.v, d.toNat, 1, false⟩]
  | .matchv d _ _ => [⟨.p, d.toNat, 1, false⟩]
  | .pset d _ => [⟨.p, d.toNat, 1, false⟩]
  | .plog d _ _ _ => [⟨.p, d.toNat, 1, false⟩]
  | .pmov d _ => [⟨.p, d.toNat, 1, false⟩]
  | .qpush _ _ => []
  | .qpop d _ => [⟨.v, d.toNat, 1, false⟩]
  | .trc _ _ _ => []
  | .oenter d _ _ => [⟨.p, d.toNat, 1, false⟩]
  | .oleave _ => []
  | .oskip _ _ => []
  | .scq d _ => [⟨.v, d.toNat, 2, false⟩]
  | .scfill _ _ => []
  | .scinv _ => []
  | .ld8 d _ _ => [⟨.v, d.toNat, 1, false⟩]
  | .ld16 d _ _ => [⟨.v, d.toNat, 1, false⟩]
  | .ld32 d _ _ => [⟨.v, d.toNat, 1, false⟩]
  | .ld64 d _ _ => [⟨.v, d.toNat, 2, false⟩]
  | .ld128 d _ _ => [⟨.v, d.toNat, 4, false⟩]
  | .st8 _ _ _ => []
  | .st16 _ _ _ => []
  | .st32 _ _ _ => []
  | .st64 _ _ _ => []
  | .st128 _ _ _ => []
  | .lds32 d _ _ => [⟨.v, d.toNat, 1, false⟩]
  | .lds64 d _ _ => [⟨.v, d.toNat, 2, false⟩]
  | .lds128 d _ _ => [⟨.v, d.toNat, 4, false⟩]
  | .sts32 _ _ _ => []
  | .sts64 _ _ _ => []
  | .sts128 _ _ _ => []
  | .ldf d _ _ => [⟨.v, d.toNat, 1, false⟩]
  | .ste _ _ _ => []
  | .ldfk d _ _ => [⟨.v, d.toNat, 1, false⟩]
  | .ldc d _ _ => [⟨.v, d.toNat, 1, false⟩]
  | .smp d _ _ => [⟨.v, d.toNat, 4, false⟩]
  | .cpa _ _ _ => []
  | .atadd d _ w _ _ => if d = 0 then [] else [⟨.v, d.toNat, (if w then 2 else 1), false⟩]
  | .atmin d _ w _ _ => if d = 0 then [] else [⟨.v, d.toNat, (if w then 2 else 1), false⟩]
  | .atmax d _ w _ _ => if d = 0 then [] else [⟨.v, d.toNat, (if w then 2 else 1), false⟩]
  | .atand d _ w _ _ => if d = 0 then [] else [⟨.v, d.toNat, (if w then 2 else 1), false⟩]
  | .ator d _ w _ _ => if d = 0 then [] else [⟨.v, d.toNat, (if w then 2 else 1), false⟩]
  | .atxor d _ w _ _ => if d = 0 then [] else [⟨.v, d.toNat, (if w then 2 else 1), false⟩]
  | .atxch d _ w _ _ => if d = 0 then [] else [⟨.v, d.toNat, (if w then 2 else 1), false⟩]
  | .atcas d _ w _ _ => if d = 0 then [] else [⟨.v, d.toNat, (if w then 2 else 1), false⟩]
  | .atfadd d _ w _ _ => if d = 0 then [] else [⟨.v, d.toNat, (if w then 2 else 1), false⟩]
  | .atfmin d _ w _ _ => if d = 0 then [] else [⟨.v, d.toNat, (if w then 2 else 1), false⟩]
  | .atfmax d _ w _ _ => if d = 0 then [] else [⟨.v, d.toNat, (if w then 2 else 1), false⟩]
  | .redadd _ _ _ _ => []
  | .redfadd _ _ _ _ => []
  | .sadd d _ _ => [⟨.s, d.toNat, 1, false⟩]
  | .ssub d _ _ => [⟨.s, d.toNat, 1, false⟩]
  | .smul d _ _ => [⟨.s, d.toNat, 1, false⟩]
  | .smulhi d _ _ _ => [⟨.s, d.toNat, 1, false⟩]
  | .sand d _ _ => [⟨.s, d.toNat, 1, false⟩]
  | .sor d _ _ => [⟨.s, d.toNat, 1, false⟩]
  | .sxor d _ _ => [⟨.s, d.toNat, 1, false⟩]
  | .sandn d _ _ => [⟨.s, d.toNat, 1, false⟩]
  | .sshl d _ _ => [⟨.s, d.toNat, 1, false⟩]
  | .sshr d _ _ => [⟨.s, d.toNat, 1, false⟩]
  | .ssar d _ _ => [⟨.s, d.toNat, 1, false⟩]
  | .smin d _ _ _ => [⟨.s, d.toNat, 1, false⟩]
  | .smax d _ _ _ => [⟨.s, d.toNat, 1, false⟩]
  | .spopc d _ => [⟨.s, d.toNat, 1, false⟩]
  | .sclz d _ => [⟨.s, d.toNat, 1, false⟩]
  | .sbfx d _ _ _ => [⟨.s, d.toNat, 1, false⟩]
  | .sbfi d _ _ => [⟨.s, d.toNat, 1, false⟩]
  | .saddi d _ _ => [⟨.s, d.toNat, 1, false⟩]
  | .smovi d _ => [⟨.s, d.toNat, 1, false⟩]
  | .smov d _ => [⟨.s, d.toNat, 1, false⟩]
  | .ssel d _ _ => [⟨.s, d.toNat, 1, false⟩]
  | .scmp d _ _ _ => [⟨.s, d.toNat, 1, false⟩]
  | .slea d _ _ _ => [⟨.s, d.toNat, 2, false⟩]
  | .sld32 d _ _ => [⟨.s, d.toNat, 1, false⟩]
  | .sld64 d _ _ => [⟨.s, d.toNat, 2, false⟩]
  | .sst32 _ _ _ => []
  | .sst64 _ _ _ => []
  | .sldc d _ _ => [⟨.s, d.toNat, 1, false⟩]
  | .satadd d _ w _ _ => if d = 0 then [] else [⟨.s, d.toNat, (if w then 2 else 1), false⟩]
  | .satcas d _ w _ _ => if d = 0 then [] else [⟨.s, d.toNat, (if w then 2 else 1), false⟩]
  | .satxch d _ w _ _ => if d = 0 then [] else [⟨.s, d.toNat, (if w then 2 else 1), false⟩]
  | .sldaq d _ w _ => [⟨.s, d.toNat, (if w then 2 else 1), false⟩]
  | .sstrl _ _ _ _ => []
  | .exset _ => []
  | .exand _ => []
  | .exandn _ => []
  | .exsave d => [⟨.p, d.toNat, 1, false⟩]
  | .exall => []
  | .excnt d => [⟨.s, d.toNat, 1, false⟩]
  | .exany d _ => [⟨.s, d.toNat, 1, false⟩]
  | .pballot d _ _ => [⟨.s, d.toNat, 1, false⟩]
  | .pfill d _ _ => [⟨.p, d.toNat, 1, false⟩]
  | .sget d _ _ => [⟨.s, d.toNat, 1, false⟩]
  | .fork _ _ => []
  | .pend _ => []
  | .yld => []
  | .bra _ => []
  | .brz _ _ => []
  | .brnz _ _ => []
  | .brex _ => []
  | .brnex _ => []
  | .call c _ => [⟨.s, c.toNat, 1, false⟩]
  | .ret _ => []
  | .jmp _ => []
  | .exit => []
  | .trap _ => []
  | .brk => []
  | .bar _ => []
  | .barrv d _ _ => [⟨.s, d.toNat, 1, false⟩]
  | .barw _ => []
  | .barpend _ _ => []
  | .fence _ => []
  | .pfence _ => []
  | .wait d _ _ => [⟨.s, d.toNat, 1, false⟩]
  | .ctcommit => []
  | .ctwait _ => []
  | .fwait d _ => [⟨.s, d.toNat, 1, false⟩]
  | .ftest d _ => [⟨.s, d.toNat, 1, false⟩]
  | .fcancel d _ => [⟨.s, d.toNat, 1, false⟩]
  | .job d _ _ => [⟨.s, d.toNat, 1, false⟩]
  | .spawn d _ _ => [⟨.s, d.toNat, 1, false⟩]
  | .scframe _ => []
  | .mfmt _ => []
  | .wbld _ _ => []
  | .mma _ _ _ => []
  | .mzero _ => []
  | .mdrain _ => []
  | .mburst _ => []
  | .mwait d => [⟨.s, d.toNat, 1, false⟩]
  | .chash d _ => [⟨.s, d.toNat, 2, false⟩]
  | .cput d _ => [⟨.s, d.toNat, 2, false⟩]
  | .cget _ _ => []
  | .cref _ => []
  | .cdrop _ => []
  | .cswap d _ _ _ => [⟨.s, d.toNat, 1, false⟩]
  | .srd d _ => [⟨.s, d.toNat, 1, false⟩]
  | .swr _ _ => []
  | .nop => []
  | .rtt => []
  | .waitReturn _ _ => []
  | .bundleFetch _ => []
  | .safePointRedirection _ => []
  | .trapEntry _ _ _ _ => []
  | .pathSwitch _ => []
  | .resultResolve _ _ => []
  | .copyLanding _ _ => []
  | .teamEnd _ => []
  | .gridEnd _ _ => []
  | .launch _ _ _ _ _ _ _ _ _ => []
  | .gangPlacement _ => []
  | .preemptionRequest _ => []
  | .gangSave _ => []
  | .gangRestore _ => []
  | .preemptionTimeout _ => []
  | .deckDispatch _ => []
  | .stealAttempt _ => []
  | .jobStart _ => []
  | .jobLanding _ _ _ => []
  | .fillfullStep _ _ _ => []
  | .jobCompletion _ _ => []
  | .collectiveResult _ _ _ => []
  | .apertureSubmit _ _ _ _ => []
  | .yrdAbort _ _ => []
  | .pageWalk _ _ _ => []
  | .faultRetry _ _ => []
  | .faultReject _ _ => []
  | .matrixChunkStart _ => []
  | .matrixChunkEnd _ => []
  | .weightLoadEnd _ _ => []
  | .drainBeat _ => []
  | .rampupEnd _ => []
  | .rampdownEnd _ => []
  | .warmToCold _ => []
  | .mxaInj _ _ _ => []
  | .oenterArrival _ _ _ => []
  | .oleaveArrival _ _ _ => []
  | .oskipArrival _ _ _ => []
  | .sectionTimeout _ _ => []
  | .waiterRetry _ _ _ => []
  | .secReset _ => []
  | .secFree _ => []
  | .secQuery _ => []
  | .clearall _ => []
  | .secBadOp _ => []
  | .cascadeStep _ => []
  | .rayEnd _ _ => []
  | .uncorrectedError _ => []
  | .consumption _ _ _ => []
  | .checkpoint _ _ => []
  | .rasInj _ _ => []
  | .clusterRemoval _ => []
  | .dbgHalt _ => []
  | .dbgResume _ => []
  | .dbgStep _ => []
  | .dbgQuery _ => []
  | .dbgRead _ => []
  | .dbgEdit _ => []
  | .dbgDiscard _ => []
  | .dbgBadOp _ => []
  | .stepHalt _ => []
  | .haltEvent _ => []
  | .dbgWpWrite _ _ _ _ => []
  | .dbgPulse _ _ => []
  | .triggerPin _ => []
  | .stallSample _ _ _ => []
  | .ctxcfg _ _ _ _ => []
  | .inval _ _ _ _ _ => []
  | .kill _ _ _ _ => []
  | .term _ _ _ => []
  | .evread _ _ _ _ _ => []
  | .domainCreate _ _ _ _ _ _ => []
  | .domainDelete _ _ _ _ => []
  | .svcrole _ _ _ _ => []
  | .debugGrant _ _ _ _ _ _ => []
  | .debugRevoke _ _ _ => []
  | .attest _ _ _ _ => []
  | .configure => []
  | .teardown => []
  | .mgtRead => []
  | .mgtBadOp => []
  | .registerWrite _ _ => []
  | .startUp => []
  | .powerLoss => []
  | .thermalThrottle _ => []
  | .thermalShutdown _ => []
  | .bypass => []
  | .idcode => []
  | .samplePreload => []
  | .extest => []
  | .clamp => []
  | .highz => []
  | .correctedError _ => []
  | .linkLevelReplay _ => []
  | .commandRefused _ _ _ _ => []
  | .partialSums _ _ _ _ => []

end Sys2Proof
end

