-- ==== Sys2Proof/Machine/State.lean ====
section
/-! DEFINITION. The state of one TH-8 package as plain data: everything that R6 to R508 name, the agenda of machine
events that are due, and the counter from which free values are drawn. -/

namespace Sys2Proof.Machine

/-- Why a run stops with a fault. -/
inductive Fault where
  /-- raised by the meaning of an instruction word when the state names no resident running team to issue it: the
  machine has no such situation, since only a resident team issues (R7). Safe: the model stops. -/
  | noRunningTeam
  deriving DecidableEq, Repr

/-- Why a run is refused. -/
inductive Refusal where
  /-- raised by an arm of the dispatcher that has no meaning yet, with the mnemonic of the opcode table. Safe. -/
  | notModelled (mnemonic : String)
  deriving DecidableEq, Repr

/-- What a blocked path or a waiting team waits for (R27, R65). -/
inductive Cond where
  /-- a register pending on the scoreboard (R66) -/
  | reg (file : RFile) (n : Nat)
  /-- room on the scoreboard for `n` more pending registers (R66) -/
  | scoreboard (n : Nat)
  /-- barrier `k` has completed more than `count` phases (R230) -/
  | phase (k count : Nat)
  /-- one of the words (crew, word) has the full bit `full` (R172) -/
  | words (full : Bool) (ws : List (Nat × Nat))
  /-- room for a beat in queue `q`, into which no other push than the one numbered `mine` is going (R186) -/
  | queueRoom (q : Nat) (mine : Option Nat)
  /-- room in the array's command queue (R244) -/
  | commandRoom
  /-- the array's command queue empty and the array idle (R246) -/
  | arrayIdle
  /-- room in the intersection unit's ray queue (R199) -/
  | rayRoom
  /-- a free card entry of the yarder and a class-1 job slot (R239, R305) -/
  | cardRoom
  /-- a free deck entry and a class-2 job slot (R240, R334) -/
  | deckRoom
  /-- every `oenter` of the team resolved: its acquire comes before later accesses (R189, R267) -/
  | acquires
  /-- the checkpoint before an externally visible operation (R445) -/
  | checkpoint
  /-- the answer of a page walk for a virtual 4 KiB page (R293) -/
  | page (unit vpage : Nat)
  /-- the batch in tag `tag` complete (R236) -/
  | batch (tag : Nat)
  /-- every committed batch but the `k` newest complete (R236) -/
  | batches (k : Nat)
  /-- every batch complete and every pending register resolved; `futures` says whether futures count (R222, R342) -/
  | drained (futures : Bool)
  /-- the team's earlier accesses performed at a scope: 0 crew, 1 cluster, 2 device or wider (R233, R262, R264) -/
  | quiet (scope : Nat)
  deriving DecidableEq, Repr

/-- A level record of a fork (R215). -/
structure Level where
  opened : Bool
  parent : Nat
  jset   : Bool
  join   : Word
  n      : Nat
  jm     : Mask
  deriving DecidableEq, Repr

/-- A tag of the batch state (R28). -/
structure BatchTag where
  count : Nat
  inUse : Bool
  deriving DecidableEq, Repr

/-- What became of a lane copy's source after issue (R179). -/
inductive CopyFate where
  | flying
  | trapped (cause : Nat)
  | faulted
  deriving DecidableEq, Repr

/-- A lane copy that has not landed (R178): 32 bytes from `src` to the offset `dst` of crew `crew`; `tag` is the tag of
its committed batch. -/
structure Copy where
  serial : Nat
  lane   : Nat
  src    : DWord
  n      : Nat
  crew   : Nat
  dst    : Nat
  tag    : Option Nat
  fate   : CopyFate
  deriving DecidableEq, Repr

/-- A value on its way to a register: lane 0 for a uniform register; a predicate value is 0 or 1. -/
structure RegWrite where
  file : RFile
  n    : Nat
  lane : Nat
  val  : Word
  deriving DecidableEq, Repr

/-- A deferred path (R26), with what its path had already done of a blocked slot (R165, R172, R199) and the values that the slot keeps from
its issue. -/
structure PathSlot where
  v    : Bool
  blk  : Option Cond
  lvl  : Nat
  age  : Nat
  pc   : Word
  join : Word
  mask : Mask
  done : Mask
  mark : Option Nat
  kept : List RegWrite
  deriving DecidableEq, Repr

/-- What a pending register waits for (R65). -/
inductive PendData where
  /-- values on their way, with the FSTAT flags that arrive with them -/
  | values (ws : List RegWrite) (flags : BitVec 5)
  /-- the accesses of the traffic that carry the entry's serial number: each brings its own value (R165, R168) -/
  | arriving
  /-- `srd` of FSTAT: the flags of the earlier slots that have come so far (R69) -/
  | flagsOf (fl : BitVec 5)
  /-- a future handle, which the register holds (R22) -/
  | future
  /-- `wait`: the armed words: address and expected value (R235) -/
  | armed (entries : List (DWord × DWord))
  /-- the `oenter` of serial number `serial` (R189) -/
  | entering (serial : Nat)
  /-- `qpop`: lane groups still to take a beat, under the mask EX at issue (R186) -/
  | beats (q : Nat) (ex : Mask)
  /-- `sget` of a pending vector register (R214) -/
  | laneOf (n lane : Nat)
  /-- poisoned data on its way: its arrival is a consumption with this storage code and address (R441); for no register
  (`cnt` 0), the team has stopped issuing at it -/
  | poison (storage : Nat) (addr : DWord)
  /-- `barrv`: the phase's final SUM is written when the phase completes (R230) -/
  | sum (k : Nat)
  deriving DecidableEq, Repr

/-- A pending register or group on the scoreboard (R65, R66); `after` are debugger edits that overwrite the result (R471). -/
structure Pend where
  serial : Nat
  file   : RFile
  n      : Nat
  cnt    : Nat
  reason : Nat
  pc     : Word
  data   : PendData
  after  : List RegWrite
  deriving DecidableEq, Repr

/-- A fixed-latency result in flight (R63): ready from clk `ready` on; `old` lists what the register held before in each
lane that the producer wrote. -/
structure Inflight where
  file  : RFile
  n     : Nat
  ready : Nat
  pc    : Word
  old   : List (Nat × Word)
  deriving DecidableEq, Repr

/-- A lane of an `oenter` with its key and sequence (R189). -/
structure EnterLane where
  lane  : Nat
  key   : DWord
  sq    : Word
  deriving DecidableEq, Repr

/-- A key cell (R379). -/
structure Cell where
  key : DWord
  next : Word
  valid : Bool
  tomb : Bool
  held : Bool
  broken : Bool
  holder : Nat
  deriving DecidableEq, Repr

/-- An `oenter` that has not resolved (R189, R386): its lanes, the keys that have not reached their cells, the lanes that wait at
a cell, the keys entered and their lanes, and the keys for which it allocated cells with the cells found there (R192); `issued` is the
team's unhalted clk at issue. -/
structure Enter where
  serial  : Nat
  pd      : Nat
  issued  : Nat
  lanes   : List EnterLane
  coming  : List DWord
  waiting : List EnterLane
  entered : List DWord
  winners : List Nat
  made    : List (DWord × Cell)
  deriving DecidableEq, Repr

/-- A section trap decided and not yet reported (R507). -/
structure SectTrap where
  pd    : Nat
  cause : Nat
  lane  : Nat
  key   : DWord
  sq    : Word
  holder : DWord
  cellState : Nat
  next  : Word
  deriving DecidableEq, Repr

/-- The control state that a restored team gets back at its next safe point (R346). -/
structure Reinstate where
  ex    : Mask
  slots : List PathSlot
  levels : List Level
  level : Nat
  deriving DecidableEq, Repr

/-- What a kernel's header and role give a team (R36, R37, R333). -/
structure Kernel where
  kbase     : Nat
  codeSize  : Nat
  trapEntry : Option Word
  spTable   : Nat
  spCount   : Nat
  rollback  : Bool
  run       : Bool
  fuse      : Bool
  hasCtl    : Bool
  scratch   : Nat
  deriving DecidableEq, Repr

/-- A team (R7, R16). -/
structure Team where
  /- where it stands in the hierarchy (R6 to R11, R33) -/
  ctx : Nat
  gang : Nat
  crew : Nat
  role : Nat
  idx : Nat
  roleTeams : Nat
  lanes : Nat
  isCtl : Bool
  cluster : Nat
  core : Nat
  datapath : Nat
  rindex : Nat
  gangReg : Word
  gridReg : Word
  ident : DWord
  prio : Nat
  kernel : Kernel
  vregs : Nat
  sregs : Nat
  saveBase : Nat
  taskSlot : Option Nat
  taskFutures : List Nat
  /- registers (R16) -/
  v : SMap Word
  s : SMap Word
  p : SMap Mask
  ex : Mask
  live : Mask
  pc : Word
  /- the bundle fetched last: its offset and bytes (R44) -/
  bundle : Option (Nat × BitVec 128)
  /- paths (R26, R27, R215) -/
  slots : List PathSlot
  levels : List Level
  level : Nat
  blk : Option Cond
  done : Mask
  mark : Option Nat
  /-- values that a slot done in part keeps: those read by `ldf` and `ldfk`, the operands of a `trc` (R172, R199) -/
  kept : List RegWrite
  yielded : Bool
  /-- the running path has ended and every deferred path is blocked (R216) -/
  noPath : Bool
  /- batches (R28) -/
  openCount : Nat
  nextTag : Nat
  tags : List BatchTag
  copies : List Copy
  /- modes (R29, R32) -/
  fmode : BitVec 2
  fstat : BitVec 5
  depth : Nat
  check : Bool
  clockh : Word
  /- trap state (R30) -/
  tpc : Word
  tcause : Word
  tex : Mask
  taddr : DWord
  tlevel : Bool
  /- scoreboard and timing (R47, R63 to R66, R332) -/
  pends : List Pend
  inflight : List Inflight
  earliest : Nat
  lastSetU : Bool
  zeroStall : Bool
  placed : Nat
  lastIssue : Nat
  yieldUntil : Nat
  /- sections (R189, R507) -/
  enters : List Enter
  sectTraps : List SectTrap
  /- halts and faults (R165, R296, R469): the reason of R469 (0 not halted), the record of a page fault -/
  halt : Nat
  /-- the clk of the last halt, and the clk spent halted before it (R386) -/
  haltFrom : Nat
  haltClk : Nat
  faultSeq : Option Nat
  bpSkip : Bool
  /-- 1: one slot to issue under STEP; 2: the step is over (R470) -/
  stepState : Nat
  watchHit : Option (Nat × Nat × Word × Word)
  /- pre-emption (R51, R342, R346) -/
  spReq : Bool
  spSkip : Bool
  reinstate : Option Reinstate
  saving : Bool
  saveIdx : Nat
  gone : Bool
  ended : Bool
  /- debug edits waiting for the resume (R471): DBG_ARG and value -/
  edits : List (DWord × DWord)
  haltWanted : Bool
  deriving DecidableEq, Repr

/-- A crew barrier (R229, R230): `count` phases have completed, so the phase bit is its parity and DONE is `count ≠ 0`. -/
structure Barrier where
  expect : Nat
  arrived : Nat
  pend : Word
  sum : Word
  count : Nat
  deriving DecidableEq, Repr

/-- The rollback state of a crew (R444 to R449): `held` lists the held stores by virtual and physical address, newest
first; `dirty` has for each granule of the window its dirty bits for the two shadow buffers (bit b for buffer b); `halted` is the
fault record at which a checkpoint has halted; `wanted` is the team whose operation waits for a checkpoint, `allow` the one that may issue it
now, `closing` the one whose operation the written checkpoint still waits for (R389, R446); `teams`, `window`, `full` and `barriers` are the shadow of the last completed checkpoint. -/
structure Rollback where
  number : Nat
  eligible : Bool
  consumed : Bool
  wanted : Option Nat
  allow : Option Nat
  closing : Option Nat
  held : List (Nat × Nat × Byte)
  dirty : SMap Nat
  halted : Option Nat
  teams : List (Nat × Team)
  window : SMap Word
  full : SMap Bool
  barriers : List Barrier
  deriving DecidableEq, Repr

/-- A crew (R8): its core, its window with a full/empty bit and a poison mark for each word, its barriers. -/
structure Crew where
  core : Nat
  scratch : Nat
  window : SMap Word
  full : SMap Bool
  poison : SMap Bool
  barriers : List Barrier
  rb : Rollback
  deriving DecidableEq, Repr

/-- Residency of a gang (R327, R343). -/
inductive Residency where
  | resident
  | leaving
  | saved (order : Nat)
  deriving DecidableEq, Repr

/-- A command of the matrix array (R244). -/
inductive Cmd where
  | fmt (block : BitVec 256)
  | wbld (slot : Nat) (addr : DWord) (pc : Word)
  | mma (tile slot n : Nat) (pc : Word)
  | zero (tile : Nat)
  | drain (tile : Nat)
  | burst (n : Nat)
  deriving DecidableEq, Repr

/-- A weight slot (R359): the stored image and its B format, the number of its chunks, the next chunk; `loading` is the image's
address and the PC of the `wbld` while it loads. -/
structure WeightSlot where
  valid : Bool
  loading : Option (DWord × Word)
  fmt : Nat
  image : List Byte
  chunks : Nat
  next : Nat
  deriving DecidableEq, Repr

/-- The power state of the array (R364). -/
inductive Ramp where
  | cold
  | rampUp
  | active
  | rampDown
  | warm
  deriving DecidableEq, Repr

/-- A chunk that has started (R357): its tile and slot, its index within its `mma` and within the slot, its beats and block
scales, the clk at which it started, the injection that meets it (R373), and whether the array has stopped on it (R367). -/
structure Chunk where
  tile : Nat
  slot : Nat
  index : Nat
  slotChunk : Nat
  beats : List (BitVec 1024)
  aScales : List Byte
  bScales : List Byte
  start : Nat
  inject : Option DWord
  stopped : Bool
  deriving DecidableEq, Repr

/-- The matrix array of a gang (R355). A beat of a queue carries a poison mark for each word (R368); `pushers` are the numbers of
the pushes that a queue is taking beats of (R186). Tile element (t, i, j) has key 16384 t + 128 i + j. -/
structure Array where
  cmds : List Cmd
  queues : List (List (BitVec 1024 × Word))
  pushers : List (List Nat)
  tiles : SMap Word
  tilePoison : SMap Bool
  kc : List Nat
  slots : List WeightSlot
  fmt : Option (BitVec 256)
  mmaskip : Bool
  wblderr : Bool
  fmtrej : Bool
  corr : Nat
  ramp : Ramp
  idleFrom : Nat
  burst : Nat
  mmaDone : Nat
  burstTaken : Bool
  /-- the tile of an `mdrain` that streams, and the beats that it has pushed (R363) -/
  draining : Option Nat
  drained : Nat
  chunk : Option Chunk
  trapDue : Option (Nat × Nat)
  halted : Option Nat
  deriving DecidableEq, Repr

/-- A gang (R10): its crews, the number of crews it was first placed with, its swap area. -/
structure Gang where
  ctx : Nat
  part : Nat
  grid : Nat
  number : Nat
  task : Bool
  prio : Nat
  size : Nat
  cluster : Nat
  baseCore : Nat
  crews : List Crew
  array : Option Array
  residency : Residency
  requested : Option Nat
  /-- the clk from which a team of the requested gang has been halted, where one has been and another still is (R345) -/
  stopFrom : Option Nat
  timeoutSent : Bool
  placedClk : Nat
  area : Nat
  param : DWord
  kernel : Kernel
  deriving DecidableEq, Repr

/-- A role entry of a kernel header (R37). -/
structure Role where
  lanes : Nat
  teams : Nat
  vregs : Nat
  sregs : Nat
  ctl : Bool
  entry : Word
  deriving DecidableEq, Repr

/-- An accepted grid (R326). -/
structure Grid where
  ctx : Nat
  part : Nat
  id : Nat
  order : Nat
  prio : Nat
  gangs : Nat
  tail : Nat
  param : DWord
  swap : Nat
  pref : Nat
  fall : Nat
  check : Bool
  roles : List Role
  kernel : Kernel
  nextGang : Nat
  retired : Nat
  ended : Bool
  deriving DecidableEq, Repr

/-- An entry of the target table with what its kernel's header gives (R333). -/
structure Target where
  kernel : Kernel
  entry : Word
  vregs : Nat
  sregs : Nat
  check : Bool
  param : DWord
  deriving DecidableEq, Repr
/-- A deck entry (R334): a task of `spawn` or the shading cache, or a continuation. `vals` are the values of v1 up; `held`
is the fault record for whose answer it waits, `bin` the task slot and the target of a bin that has been formed and waits (R338),
`unit` the cluster whose intersection unit keeps the entry's payload (R414); `serial` tells entries apart. -/
structure DeckEntry where
  ctx : Nat
  target : Nat
  stamp : Word
  vals : List Word
  cont : Bool
  depth : Nat
  future : Option Nat
  prio : Nat
  enqueued : Nat
  held : Option Nat
  bin : Option (Nat × Target)
  unit : Option Nat
  serial : Nat
  deriving DecidableEq, Repr

/-- A yarder card (R300) and the progress of its job: `shape` its shape record or the first half of its XRED descriptor, `poisoned` a parameter block that was read
poisoned, `block` its scratchpad offset, `landed` the landings performed, `idx` the indices read of rows (R310), `lead` the leading rows landed (R311),
`progDue` a progress-word write that waits for its page, `progHalt` its record, `stamping` that the last such write has been made (R318), `result` what a collective gave it, `joined` whether it has joined one. -/
structure Card where
  serial : Nat
  ctx : Nat
  chan : Nat
  seqNo : Nat
  tmpl : Nat
  bytes : BitVec 1024
  shape : BitVec 256
  formed : Bool
  override : Option (BitVec 256)
  poisoned : Bool
  block : Nat
  future : Option Nat
  gang : Option Nat
  crew : Nat
  depth : Nat
  prio : Nat
  aperture : Bool
  started : Bool
  cancelled : Bool
  fail : Option Nat
  failAddr : DWord
  landed : SMap Bool
  idx : SMap Nat
  lead : Nat
  /-- in a RAST job, `lead` is its tile; this is its place in the tile, and the tile's blocks whose keys it holds (R419) -/
  spot : Nat
  entered : List Nat
  progDue : Bool
  progHalt : Option Nat
  stamping : Bool
  halted : Option Nat
  joined : Bool
  result : Option (List Byte)
  deriving DecidableEq, Repr

/-- A future job slot (R21): its current generation and, once the job has completed, its status. -/
structure FutSlot where
  gen : Nat
  live : Bool
  started : Bool
  status : Option Word
  deriving DecidableEq, Repr

/-- A child reference that a ray has still to visit (R405, R411): its type and index, the arena, the box entry, the instance
index, the ray in the arena's space and the instance's OPAQUE flag. -/
structure RayEntry where
  kind : Nat
  index : Nat
  arena : DWord
  tnear : Word
  inst : Word
  ray : List Word
  opq : Bool
  deriving DecidableEq, Repr

/-- The best hit of a ray so far (R411). -/
structure RayHit where
  t : Word
  u : Word
  v : Word
  inst : Word
  prim : Word
  addr : DWord
  geom : Nat
  front : Bool
  deriving DecidableEq, Repr

/-- A ray in flight (R199, R402); `got` holds the pieces that its visit has read so far, for a page fault in it (R413). -/
structure Ray where
  serial : Nat
  ctx : Nat
  depth : Nat
  prio : Nat
  ray : List Word
  payload : List Word
  flags : Nat
  hitTarget : Nat
  missTarget : Nat
  root : DWord
  insts : DWord
  ninst : Nat
  cur : Option RayEntry
  stack : List RayEntry
  tmax : Word
  best : Option RayHit
  cand : Option RayHit
  halted : Option Nat
  got : List (Nat × BitVec 128)
  deriving DecidableEq, Repr

/-- A holder-table entry (R382). -/
structure Holder where
  ident : DWord
  hcnt : Nat
  used : Bool
  tomb : Bool
  deriving DecidableEq, Repr

/-- What waits at a cell for its turn, in order of arrival (R189, R191): a lane of the `oenter` `serial` of a team, or a posted
skip. -/
structure Waiter where
  skip : Bool
  ctx : Nat
  team : Nat
  serial : Nat
  key : DWord
  sq : Word
  lane : Nat
  deriving DecidableEq, Repr

/-- A section area (R378): cells and holder table, what waits at the cells. -/
structure Area where
  base : Nat
  logn : Nat
  cells : SMap Cell
  holders : SMap Holder
  queue : List Waiter
  deriving DecidableEq, Repr

/-- A content line's meta entry (R391). -/
structure Line where
  name : DWord
  count : Word
  node : Bool
  deriving DecidableEq, Repr

/-- A sharing domain (R391, R422): heap slots, line table of 2^lines lines (0: none), the current salt. -/
structure Domain where
  id : Nat
  part : Nat
  hslots : Nat
  lines : Nat
  saltGen : Nat
  table : SMap Line
  heapUsed : SMap Bool
  /-- whether a heap slot has been allocated since the domain was created (R436) -/
  allocated : Bool
  deriving DecidableEq, Repr

/-- The state of a shading-cache tag (R424). -/
inductive TagState where
  | invalid
  | inFlight
  | valid
  | poisoned
  deriving DecidableEq, Repr

/-- A shading-cache tag entry (R424); `order` is the order of allocation. -/
structure Tag where
  key : DWord
  state : TagState
  domain : Nat
  version : Nat
  frame : Nat
  used : Nat
  heap : Nat
  order : Nat
  deriving DecidableEq, Repr

/-- A frame of the frame table (R294). -/
inductive FrameState where
  | free
  | claimed (ctx vpage : Nat)
  | canonical
  | unit
  deriving DecidableEq, Repr

/-- A translation held by a unit's permission filter, or by the controllers (R292, R293). -/
structure Translation where
  unit : Nat
  ctx : Nat
  vbase : Nat
  size : Nat
  pbase : Nat
  r : Bool
  w : Bool
  cls : Nat
  domain : Nat
  deriving DecidableEq, Repr

/-- An answered walk that found no page, until the access that asked takes it (R293, R297). -/
structure Faulted where
  unit : Nat
  ctx : Nat
  vpage : Nat
  kind : Nat
  level : Nat
  entry : DWord
  deriving DecidableEq, Repr

/-- The path caches (R281). -/
inductive CacheKind where
  | l1
  | code
  | constant
  | sampler
  | tile
  deriving DecidableEq, Repr

/-- A line of a path cache (R281): 128 bytes of a context's virtual line, the physical line that they came from, and copies of
its leaf's fields. -/
structure CacheLine where
  kind : CacheKind
  unit : Nat
  ctx : Nat
  vline : Nat
  pline : Nat
  r : Bool
  w : Bool
  cls : Nat
  domain : Nat
  bytes : BitVec 1024
  deriving DecidableEq, Repr

/-- The name of an L2 line (R286): private to a context's virtual line, or canonical. -/
inductive LineName where
  | priv (ctx vline : Nat)
  | canon (pline : Nat)
  deriving DecidableEq, Repr
/-- A line that an L2 slice holds (R285): its place, its name, the physical line, whether it is dirty and the context whose store
last dirtied it. The bytes themselves are those of package memory. -/
structure L2Line where
  slice : Nat
  set : Nat
  way : Nat
  name : LineName
  pline : Nat
  dirty : Bool
  owner : Option Nat
  deriving DecidableEq, Repr

/-- The functions of the read-modify-writes (R181, R184). -/
inductive RmwOp where
  | add
  | min
  | max
  | and
  | or
  | xor
  | xch
  | cas
  | fadd
  | fmin
  | fmax
  deriving DecidableEq, Repr
/-- What an access of a team does when it is performed (R257, R282): a load on a path, a store, a load or a store past the L1
(`sldaq`, `sstrl`), or a read-modify-write of 8 bytes (`w`) or 4. -/
inductive OpKind where
  | load (path : CacheKind)
  | store (bs : List Byte)
  | loadPast
  | storePast (bs : List Byte)
  | rmw (w : Bool) (op : RmwOp) (y : Nat)
  deriving DecidableEq, Repr
/-- Where a checked access goes: to a physical address, with its page's leaf fields and its home slice, or to a register of the window
(R497). -/
inductive Place where
  | mem (pa slice : Nat) (page : Translation)
  | reg (off : Nat)
  deriving DecidableEq, Repr
/-- A memory access of a team that has issued and is not yet performed at every scope (R257 to R264). `group` is the serial number of the
pending result it belongs to, `unit` the cache that serves it, `cluster` and `core` the core that issued it, `pc` the slot's PC, `ord` its order-and-scope code
(R61; none for a plain access), `dest` the register and `lane` the lane of its value; `seen` are the clusters whose teams read a store
already; `muted` is the serial number of the `swr` of FSTAT that came after it (R69). -/
structure Op where
  serial : Nat
  team : Nat
  ctx : Nat
  group : Nat
  unit : Nat
  cluster : Nat
  core : Nat
  pc : Word
  va : Nat
  place : Place
  n : Nat
  kind : OpKind
  ord : Option (BitVec 3)
  dest : Option (RFile × Nat)
  lane : Nat
  seen : List Nat
  muted : Option Nat
  deriving DecidableEq, Repr

/-- The agent that waits for the answer to a page-fault record (R297). -/
inductive FaultAgent where
  | team (id : Nat)
  | job (cluster card : Nat)
  | ray (cluster serial : Nat)
  | deck (cluster : Nat)
  | array (gang : Nat)
  | checkpoint (gang crew : Nat)
  | none
  deriving DecidableEq, Repr

/-- An open page-fault record (R297), or one that waits for its index of the ring; `resp` is an answer that was read before its index was
used again. -/
structure FaultRec where
  ctx : Nat
  sn : Nat
  va : DWord
  agent : FaultAgent
  words : List DWord
  written : Bool
  resp : Option Nat
  deriving DecidableEq, Repr

/-- An event of a context (R493). -/
structure EventRec where
  sn : Nat
  kind : Nat
  time : Nat
  args : List DWord
  deriving DecidableEq, Repr

/-- A halt event record that waits for room in the mailbox (R474). -/
structure HaltRec where
  team : DWord
  time : Nat
  pc : Word
  reason : Nat
  index : Nat
  wpset : Nat
  group : Nat
  exsum : Word
  exw : Word
  exi : Nat
  wmask : Word
  woff : Word
  deriving DecidableEq, Repr

/-- A context (R495) with its descriptor and what the device keeps for it. -/
structure Context where
  configured : Bool
  terminated : Bool
  part : Nat
  channel : Nat
  root : Nat
  fring : Nat
  flog : Nat
  tmpl : Nat
  tgt : Nat
  tcount : Nat
  mbox : Nat
  secBase : Nat
  secLog : Nat
  homePkg : Nat
  pkgIdx : Nat
  wdom : Option Nat
  rdoms : List Nat
  regva : Nat
  tpool : Nat
  tpcount : Nat
  tpsize : Nat
  desc : Nat
  dcount : Nat
  sectime : Word
  regs : SMap DWord
  eventSeq : Nat
  events : List EventRec
  faultSeq : Nat
  taskSerial : Nat
  taskSlots : SMap Bool
  futures : SMap FutSlot
  service : Option Nat
  streams : SMap Nat
  haltRecs : List HaltRec
  wpAdmitted : List Nat
  deriving DecidableEq, Repr

/-- A configured partition (R498). -/
structure Partition where
  num : Nat
  clusters : List Nat
  ranges : List (Nat × Nat)
  ways : Nat
  credit : List Nat
  group : DWord
  pkgIdx : Nat
  seqNode : Nat
  keyGen : Nat
  topogen : Nat
  /-- for each die the cluster of its distributor's last placement, plus 1 (R329) -/
  lastPlaced : SMap Nat
  deriving DecidableEq, Repr

/-- A 16-byte piece that the cache of an intersection unit holds (R273, R402): `stamp` is the serial number that stood when it was read. -/
structure RayPiece where
  ctx : Nat
  piece : Nat
  stamp : Nat
  bytes : BitVec 128
  deriving DecidableEq, Repr

/-- A cluster's engines (R1): its cards, rays and deck, and the cache of its intersection unit. -/
structure Cluster where
  cards : List Card
  rays : List Ray
  deck : List DeckEntry
  /-- the earliest clk of the deck's next dispatch and of its next steal attempt (R336, R340) -/
  nextDispatch : Nat
  nextSteal : Nat
  pieces : List RayPiece
  deriving DecidableEq, Repr

/-- A command channel (R491). -/
structure Channel where
  lastAcc : Word
  lastDone : Word
  outstanding : Nat
  acks : List Word
  deriving DecidableEq, Repr

/-- A collective (R316, R499): the parts that have joined, the joined jobs of this package. -/
structure Collective where
  group : DWord
  ctx : Nat
  coll : DWord
  parts : List RankPart
  jobs : List (Nat × Nat × Nat)
  disagree : Bool
  deriving DecidableEq, Repr

/-- The instructions of the test port (R505). -/
inductive TestInstr where
  | bypass
  | idcode
  | samplePreload
  | extest
  | clamp
  | highz
  deriving DecidableEq, Repr

/-- A machine event that the machine itself brings about; each stands for the constructor of `Instr` of the same name. -/
inductive Ev where
  | waitReturn (team reg : Nat)
  | pathSwitch (team : Nat)
  | resultResolve (team serial : Nat)
  | copyLanding (team serial : Nat)
  | teamEnd (team : Nat)
  | gridEnd (ctx grid : Nat)
  | gangPlacement (part : Nat)
  | preemptionRequest (gang : Nat)
  | gangSave (gang : Nat)
  | gangRestore (gang : Nat)
  | preemptionTimeout (gang : Nat)
  | deckDispatch (cluster : Nat)
  | stealAttempt (cluster : Nat)
  | jobStart (cluster : Nat)
  | jobLanding (cluster card piece : Nat)
  | fillfullStep (cluster card piece : Nat)
  | jobCompletion (cluster card : Nat)
  | collectiveResult (group ctx : Nat) (coll : DWord)
  | pageWalk (unit ctx va : Nat)
  | faultRetry (ctx seq : Nat)
  | faultReject (ctx seq : Nat)
  | matrixChunkStart (cluster : Nat)
  | matrixChunkEnd (cluster : Nat)
  | weightLoadEnd (cluster slot : Nat)
  | drainBeat (cluster : Nat)
  | rampupEnd (cluster : Nat)
  | rampdownEnd (cluster : Nat)
  | warmToCold (cluster : Nat)
  | oenterArrival (team serial : Nat) (key : DWord)
  | oleaveArrival (ctx : Nat) (holder key : DWord)
  | oskipArrival (ctx : Nat) (key : DWord) (sq : Word)
  | sectionTimeout (team serial : Nat)
  | waiterRetry (team serial : Nat) (key : DWord)
  | cascadeStep (die : Nat)
  | rayEnd (cluster ray : Nat)
  | uncorrectedError (site : ErrSite)
  | consumption (team storage : Nat) (addr : DWord)
  | checkpoint (gang crew : Nat)
  | clusterRemoval (cluster : Nat)
  | stepHalt (team : Nat)
  | haltEvent (ctx : Nat)
  | stallSample (ctx cluster core : Nat)
  | secReset (ctx : Nat)
  | secFree (ctx : Nat)
  | secQuery (ctx : Nat)
  | clearall (ctx : Nat)
  | secBadOp (ctx : Nat)
  | dbgHalt (ctx : Nat)
  | dbgResume (ctx : Nat)
  | dbgStep (ctx : Nat)
  | dbgQuery (ctx : Nat)
  | dbgRead (ctx : Nat)
  | dbgEdit (ctx : Nat)
  | dbgDiscard (ctx : Nat)
  | dbgBadOp (ctx : Nat)
  | yrdAbort (ctx : Nat) (coll : DWord)
  | apertureSubmit (ctx cluster chan : Nat) (value : DWord)
  | configure
  | teardown
  | mgtRead
  | mgtBadOp
  deriving DecidableEq, Repr

/-- A due machine event: not before clk `at_`; the events of one stream come about in order. -/
structure Due where
  stream : Nat
  at_ : Nat
  ev : Ev
  deriving DecidableEq, Repr

/-- A message that leaves the package (R493, R499, R500): the channel or package it goes to and its words. -/
structure Message where
  dest : Nat
  words : List DWord
  deriving DecidableEq, Repr

/-- The state of one package. -/
structure State where
  /-- the clock (R35) -/
  clk : Nat
  /-- the model's own counter of free values (log entry 5) -/
  tick : Nat
  /-- the model's own counter of serial numbers (log entry 5) -/
  serial : Nat
  /-- the team that issues when an instruction is executed (log entry 6) -/
  cur : Nat
  /-- resident and swapped-out teams, gangs, running grids (R7, R9, R326, R343) -/
  teams : SMap Team
  gangs : SMap Gang
  grids : SMap Grid
  /-- the decks, yarder cards, rays and intersection caches of the clusters (R299, R333, R402) -/
  clusters : SMap Cluster
  /-- contexts with their register windows, partitions, sharing domains, section areas (R378, R391, R495, R498) -/
  contexts : SMap Context
  partitions : SMap Partition
  domains : SMap Domain
  areas : SMap Area
  /-- the tag store of the shading region (R424) -/
  tags : SMap Tag
  /-- service tasks that the tag store holds while a deck is full, with the deck's cluster (R428) -/
  tagHeld : List (Nat × DeckEntry)
  /-- the host's command channels (R491) -/
  channels : SMap Channel
  /-- collectives that wait for their ranks (R315, R499) -/
  collectives : List Collective
  /-- bytes of package memory by physical address (R2) -/
  mem : SMap Byte
  /-- poisoned 16-byte pieces by physical piece number (R440) -/
  poison : SMap Bool
  /-- accesses of the teams that are issued and not yet performed, in the order of their issue (R257) -/
  traffic : List Op
  /-- checks of L2 lines that an injection makes at once (R456): nothing else comes about before them -/
  checks : List ErrSite
  /-- the lines that the L2 slices hold, the most recently used first (R285, R288) -/
  l2 : List L2Line
  /-- the owner of each frame (R294) -/
  frames : SMap FrameState
  /-- the pages that filters and memory controllers hold, and answered walks that found none (R292, R293) -/
  translations : List Translation
  faulted : List Faulted
  /-- the lines of the path caches (R281) -/
  caches : List CacheLine
  /-- open fault records (R297) -/
  faults : List FaultRec
  /-- drops of counts that a freed node has left (R395) -/
  cascade : List (Nat × Nat × DWord)
  /-- strikes and corrected errors by (slice, set, way), quarantined positions (R451) -/
  strikes : List ((Nat × Nat × Nat) × Nat)
  corrected : List ((Nat × Nat × Nat) × Nat)
  quarantined : List (Nat × Nat × Nat)
  /-- the clk of the last pulse of each trigger line that has pulsed (R478) -/
  pulsed : SMap Nat
  /-- for each context and core the resident index after the last one sampled, and the clk of the last sample (R477) -/
  samples : SMap (Nat × Nat)
  /-- management registers by address (R506), and MGT_PBUF by byte -/
  mgt : SMap DWord
  pbuf : SMap Byte
  /-- power, the thermal alert, the dies that are throttled (R503, R504) -/
  powered : Bool
  alert : Bool
  throttled : List Nat
  /-- the test port (R505) -/
  testInstr : TestInstr
  testData : Word
  boundary : Bool
  /-- clusters that are being removed in service (R452) -/
  removing : List Nat
  /-- starts so far, and the next leaf of the attestation key (R500, R502) -/
  bootCount : Nat
  lmsLeaf : Nat
  /-- what is on its way: events with the clk from which they are due (R47) -/
  agenda : List Due
  /-- what comes from outside, and what has left the package (log entry 9) -/
  inputs : List Instr
  sent : List Message
  deriving DecidableEq, Repr

/-- The package right after reset: nothing configured, nothing resident, MGT_PLIM at 0x0BB8 (R506). What the
manual gives no reset value for is named in the log entries 1, 3 and 4. -/
def State.reset : State where
  clk := 0
  tick := 0
  serial := 0
  cur := 0
  teams := []
  gangs := []
  grids := []
  clusters := []
  contexts := []
  partitions := []
  domains := []
  areas := []
  tags := []
  tagHeld := []
  channels := []
  collectives := []
  mem := []
  poison := []
  traffic := []
  checks := []
  l2 := []
  frames := []
  translations := []
  faulted := []
  caches := []
  faults := []
  cascade := []
  strikes := []
  corrected := []
  quarantined := []
  pulsed := []
  samples := []
  mgt := [(0x10, 0x0BB8)]
  pbuf := []
  powered := true
  alert := false
  throttled := []
  testInstr := .idcode
  testData := 0x1000A4F3
  boundary := false
  removing := []
  bootCount := 0
  lmsLeaf := 0
  agenda := []
  inputs := []
  sent := []

end Sys2Proof.Machine
end

