-- ==== Sys2Proof/Machine/Team.lean ====
section
/-! DEFINITION. A team's registers: reads and writes, the lanes of a mask, the cross-lane source (R43), operand b (R57), the
old values of results in flight (R63, R67) and the scoreboard (R66). -/

namespace Sys2Proof.Machine

/-- The team with a number. -/
def State.team? (s : State) (id : Nat) : Option Team := s.teams.find id
/-- The state with a team replaced. -/
def State.setTeam (s : State) (id : Nat) (t : Team) : State := { s with teams := s.teams.insert id t }
/-- The state with a team changed, where there is one. -/
def State.updTeam (s : State) (id : Nat) (f : Team → Team) : State :=
  match s.teams.find id with
  | some t => s.setTeam id (f t)
  | none => s

/-- A mask with lane `l` set to `b`. -/
def putLane (m : Mask) (l : Nat) (b : Bool) : Mask :=
  if b then m ||| (1#1024 <<< l) else m &&& ~~~(1#1024 <<< l)
/-- Mask word `w`, the lanes of lane group `w` (R6, R13). -/
def maskWord (m : Mask) (w : Nat) : Word := m.extractLsb' (32 * w) 32
/-- The summary of R13: bit w is 1 exactly when mask word w is not 0. -/
def summary (m : Mask) : Word :=
  (List.range 32).foldl (fun acc w => if maskWord m w = 0 then acc else acc ||| (1#32 <<< w)) 0#32
/-- The lowest `n` lanes. -/
def firstLanes (n : Nat) : Mask := BitVec.ofNat 1024 (2 ^ n - 1)
/-- The number of lanes of a mask below `n`. -/
def countLanes (m : Mask) (n : Nat) : Nat := ((List.range n).filter fun l => m.getLsbD l).length

/-- V(l, n), vector register `n` of lane `l` (R42). -/
def Team.V (t : Team) (l n : Nat) : Word := t.v.get 0 (1024 * n + l)
/-- S(n), uniform register `n` (R42). -/
def Team.S (t : Team) (n : Nat) : Word := t.s.get 0 n
/-- Predicate `n` of every lane (R42). -/
def Team.P (t : Team) (n : Nat) : Mask := t.p.get 0 n
/-- V64(l, n), the pair V(l, n+1):V(l, n) (R42). -/
def Team.V64 (t : Team) (l n : Nat) : DWord := t.V l (n + 1) ++ t.V l n
/-- The uniform pair S(n+1):S(n). -/
def Team.S64 (t : Team) (n : Nat) : DWord := t.S (n + 1) ++ t.S n
/-- Write V(l, n). -/
def Team.setV (t : Team) (l n : Nat) (x : Word) : Team := { t with v := t.v.set 0 (1024 * n + l) x }
/-- Write S(n). -/
def Team.setS (t : Team) (n : Nat) (x : Word) : Team := { t with s := t.s.set 0 n x }
/-- Write predicate `n` of every lane. -/
def Team.setP (t : Team) (n : Nat) (m : Mask) : Team := { t with p := t.p.set 0 n m }

/-- The lanes of a mask below the team's lane count, in increasing order. -/
def Team.lanesOf (t : Team) (m : Mask) : List Nat := (List.range t.lanes).filter fun l => m.getLsbD l
/-- The active lanes: those in EX (R42 `active`). -/
def Team.actives (t : Team) : List Nat := t.lanesOf t.ex

/-- One register value arrives. -/
def Team.put (t : Team) (w : RegWrite) : Team :=
  match w.file with
  | .v => t.setV w.lane w.n w.val
  | .s => t.setS w.n w.val
  | .p => t.setP w.n (putLane (t.P w.n) w.lane (w.val != 0))
/-- Register values arrive in order. -/
def Team.puts (t : Team) (ws : List RegWrite) : Team := ws.foldl Team.put t
/-- Results of variable latency take effect: those of older slots that arrive later are discarded in the lanes written here (R63). -/
def Team.land (t : Team) (ws : List RegWrite) : Team :=
  let keep (e : Inflight) : Inflight :=
    let mine := ws.filter fun w => w.file == e.file && w.n == e.n
    { e with old := e.old.filter fun (o : Nat × Word) => !(mine.any fun w => w.lane == o.1) }
  { t.puts ws with inflight := (t.inflight.map keep).filter fun e => !e.old.isEmpty }
/-- What a register holds for a lane, as `RegWrite` writes it. -/
def Team.reg (t : Team) (file : RFile) (n lane : Nat) : Word :=
  match file with
  | .v => t.V lane n
  | .s => t.S n
  | .p => if (t.P n).getLsbD lane then 1 else 0

/-- Values for a vector register of some lanes. -/
def laneWrites (ls : List Nat) (n : RegNo) (f : Nat → Word) : List RegWrite :=
  ls.map fun l => ⟨.v, n.toNat, l, f l⟩
/-- Values for a vector pair of some lanes. -/
def laneWrites64 (ls : List Nat) (n : RegNo) (f : Nat → DWord) : List RegWrite :=
  ls.flatMap fun l => [⟨.v, n.toNat, l, (f l).extractLsb' 0 32⟩, ⟨.v, n.toNat + 1, l, (f l).extractLsb' 32 32⟩]
/-- Values for a predicate of some lanes. -/
def predWrites (ls : List Nat) (n : RegNo) (f : Nat → Bool) : List RegWrite :=
  ls.map fun l => ⟨.p, n.toNat, l, if f l then 1 else 0⟩
/-- A value for a uniform register. -/
def uniWrite (n : RegNo) (x : Word) : List RegWrite := [⟨.s, n.toNat, 0, x⟩]
/-- A value for a uniform pair. -/
def uniWrite64 (n : RegNo) (x : DWord) : List RegWrite :=
  [⟨.s, n.toNat, 0, x.extractLsb' 0 32⟩, ⟨.s, n.toNat + 1, 0, x.extractLsb' 32 32⟩]

/-- Sign extension of a field to a word (R42 `sext`). -/
def sext {n : Nat} (x : BitVec n) : Word := x.signExtend 32

/-- The source lane of a cross-lane pattern (R43). -/
def xsrc (t : Team) (l mode : Nat) (team : Bool) (k : Nat) : Nat :=
  let i := if team then l else l % 32
  let base := if team then 0 else 32 * (l / 32)
  let size := if team then t.lanes else 32
  let j : Option Nat :=
    match mode with
    | 0 => some (i ^^^ k)
    | 1 => if k ≤ i then some (i - k) else none
    | 2 => some (i + k)
    | 3 => some k
    | _ => some ((i + k) % size)
  match j with
  | none => l
  | some j => if j < size && t.live.getLsbD (base + j) then base + j else l
/-- The source lane named by a cross-lane literal (R62). -/
def xsrcLit (t : Team) (l : Nat) (w : Word) : Nat :=
  xsrc t l (w.extractLsb' 0 3).toNat (w.getLsbD 3) (w.extractLsb' 4 10).toNat

/-- Operand b of lane `l` (R42 `opb`, R57). -/
def Team.opb (t : Team) (l : Nat) (o : OpB) : Word :=
  match o with
  | .reg b => t.V l b.toNat
  | .uni b => t.S b.toNat
  | .lit w => w
  | .pat b w => t.V (xsrcLit t l w) b.toNat
/-- A 64-bit FP64 operand b: the literal is the high word (R57). -/
def Team.opb64 (t : Team) (l : Nat) (o : OpB) : DWord :=
  match o with
  | .reg b => t.V64 l b.toNat
  | .uni b => t.S64 b.toNat
  | .lit w => w ++ 0#32
  | .pat b w => t.V64 (xsrcLit t l w) b.toNat
/-- Operand b of a U-set instruction (R57). -/
def Team.opu (t : Team) (o : OpU) : Word :=
  match o with
  | .reg b => t.S b.toNat
  | .lit w => w
/-- A "lit" operand from the vector file (R58). -/
def Team.oplV (t : Team) (l : Nat) (o : OpL) : Word :=
  match o with
  | .reg b => t.V l b.toNat
  | .lit w => w
/-- A 64-bit "lit" operand from the vector file; `fp` takes the literal as the high word, else it is sign-extended (R58). -/
def Team.oplV64 (t : Team) (l : Nat) (o : OpL) (fp : Bool) : DWord :=
  match o with
  | .reg b => t.V64 l b.toNat
  | .lit w => if fp then w ++ 0#32 else w.signExtend 64
/-- A "lit" operand from the uniform file (R58). -/
def Team.oplS (t : Team) (o : OpL) : Word :=
  match o with
  | .reg b => t.S b.toNat
  | .lit w => w
/-- A 64-bit "lit" operand from the uniform file, a literal sign-extended (R58). -/
def Team.oplS64 (t : Team) (o : OpL) : DWord :=
  match o with
  | .reg b => t.S64 b.toNat
  | .lit w => w.signExtend 64
/-- A selector cut to `k` bits where it comes from a register or the literal (R64). -/
def Team.selr (t : Team) (n : Selr) (k : Nat) : Nat :=
  match n with
  | .imm b => b.toNat
  | .uni b => (t.S b.toNat).toNat % 2 ^ k
  | .lit w => w.toNat % 2 ^ k

/-- Whether an operand reads by a lane-group pattern, which adds 2 clk (R64). -/
def groupPat (o : OpB) : Bool :=
  match o with
  | .pat _ w => !w.getLsbD 3
  | _ => false
/-- Whether an operand reads by a team-scope pattern, whose result has variable latency (R65 reason 11). -/
def teamPat (o : OpB) : Bool :=
  match o with
  | .pat _ w => w.getLsbD 3
  | _ => false

/-- The single registers of a use. -/
def useRegs (u : RegUse) : List (RFile × Nat) := (List.range u.cnt).map fun k => (u.file, u.n + k)
/-- Whether two uses name a register in common. -/
def useMeets (u : RegUse) (file : RFile) (n cnt : Nat) : Bool :=
  u.file == file && decide (u.n < n + cnt) && decide (n < u.n + u.cnt)

/-- Whether the results in flight `es` (newest first) hold an unready result of (file, n) at `clk`: the newest producer's PC (R67). The lanes
`past` have been written by newer results that are ready, so a result that arrives there later is discarded (R63). -/
def unready : (es : List Inflight) → (clk : Nat) → (file : RFile) → (n : Nat) → (past : List Nat) → Option Word
  | [], _, _, _, _ => none
  | e :: es, clk, file, n, past =>
    if e.file == file && e.n == n then
      if clk < e.ready then
        if e.old.any fun o => !past.contains o.1 then some e.pc else unready es clk file n past
      else unready es clk file n (e.old.map (·.1) ++ past)
    else unready es clk file n past

/-- Undo the unready results of `es` (newest first): each lane reads what its register held before the unready producer
wrote it, but for the lanes that a newer ready result has written (R63, R67). -/
def undoUnready (clk : Nat) : List Inflight → List (RFile × Nat × Nat) → Team → Team
  | [], _, t => t
  | e :: es, settled, t =>
    if clk < e.ready then
      undoUnready clk es settled
        (t.puts ((e.old.filter fun p => !settled.contains (e.file, e.n, p.1)).map fun p => ⟨e.file, e.n, p.1, p.2⟩))
    else undoUnready clk es (e.old.map (fun p => (e.file, e.n, p.1)) ++ settled) t

/-- The registers as a slot that issues at `clk` reads them (R63, R67). -/
def Team.viewAt (t : Team) (clk : Nat) : Team :=
  if t.inflight.all (fun e => decide (e.ready ≤ clk)) then t else undoUnready clk t.inflight [] t

/-- The clk at which every fixed-latency result in flight is ready (R68). -/
def Team.settledAt (t : Team) : Nat := t.inflight.foldl (fun m e => max m e.ready) 0

/-- The pending entry that covers a register, if any. -/
def Team.pendOf (t : Team) (file : RFile) (n : Nat) : Option Pend :=
  t.pends.find? fun p => p.file == file && decide (p.n ≤ n) && decide (n < p.n + p.cnt)
/-- Whether a pending entry is a future (R22). -/
def Pend.isFuture (p : Pend) : Bool := match p.data with | .future => true | _ => false
/-- The number of pending registers (R66). -/
def Team.pending (t : Team) : Nat := t.pends.foldl (fun n p => n + p.cnt) 0
/-- The first pending register among some uses that a slot must wait for; `writes` lets a future be overwritten (R22, R66).
A team in its save routine reads futures raw (R24). -/
def Team.waitsFor (t : Team) (us : List RegUse) (writes : Bool) : Option (RFile × Nat) :=
  us.findSome? fun u =>
    if u.raw then none
    else t.pends.findSome? fun p =>
      if useMeets u p.file p.n p.cnt && !(p.isFuture && (writes || t.saving)) then some (p.file, p.n) else none
/-- A handle of a future goes into a uniform register: an older fixed-latency result of it that arrives later is discarded (R63). -/
def Team.landS (t : Team) (n : Nat) (x : Word) : Team := t.land [⟨.s, n, 0, x⟩]
/-- The scoreboard without the futures whose registers are written (R22). -/
def Team.dropFutures (t : Team) (us : List RegUse) : Team :=
  { t with pends := t.pends.filter fun p => !(p.isFuture && us.any fun u => useMeets u p.file p.n p.cnt) }

/-- The first register of some uses that the team has not declared (R17), with its number and file code (R67). Of several it is the first in
the order d (where it is read), a, b, then the destination: the manual names no order (log entry 69). -/
def Team.outOfRange (t : Team) (us : List RegUse) : Option Nat :=
  (us.flatMap useRegs).findSome? fun r =>
    match r.1 with
    | .v => if t.vregs ≤ r.2 then some r.2 else none
    | .s => if t.sregs ≤ r.2 then some (r.2 + 128) else none
    | .p => none
/-- The first register of some uses read before its fixed-latency result is ready: INFO and the producer's PC (R67). Of several it is the
first in the order d (where it is read), a, b: the manual names no order (log entry 69). -/
def Team.undersized (t : Team) (clk : Nat) (us : List RegUse) : Option (Nat × Word) :=
  (us.flatMap useRegs).findSome? fun r =>
    (unready t.inflight clk r.1 r.2 []).map fun pc =>
      (r.2 + 128 * (match r.1 with | .v => 0 | .s => 1 | .p => 2), pc)

/-- A scratchpad offset as R170 decodes it for a gang of `size` crews: the crew and the byte offset in its window. -/
def decodeOffset (crew : Nat) (o : Word) : Nat × Nat :=
  if o.getLsbD 20 then ((o.extractLsb' 18 2).toNat, (o.extractLsb' 0 18).toNat) else (crew, (o.extractLsb' 0 20).toNat)

end Sys2Proof.Machine
end

