-- ==== Sys2Proof/Machine/Flags.lean ====
section
/-! DEFINITION. The sticky flags of FSTAT (R29) and how they are raised and written (R42, R69). -/

namespace Sys2Proof.Machine

/-- FSTAT bit 0. -/
def flagInvalid : BitVec 5 := 1
/-- FSTAT bit 1. -/
def flagDivZero : BitVec 5 := 2
/-- FSTAT bit 2. -/
def flagOverflow : BitVec 5 := 4
/-- FSTAT bit 3. -/
def flagUnderflow : BitVec 5 := 8
/-- FSTAT bit 4. -/
def flagInexact : BitVec 5 := 16

/-- The flags of several lanes together (R29). -/
def orFlags (fs : List (BitVec 5)) : BitVec 5 := fs.foldl (· ||| ·) 0
/-- `raise` (R42): flags are ORed into FSTAT. -/
def Team.raise (t : Team) (f : BitVec 5) : Team := { t with fstat := t.fstat ||| f }
/-- A write of FSTAT (R69): the flags of earlier slots that have not arrived fall under the written value, so they are dropped. -/
def Team.setFstat (t : Team) (x : BitVec 5) : Team :=
  { t with
    fstat := x
    pends := t.pends.map fun (p : Pend) => match p.data with | .values ws _ => { p with data := .values ws 0 } | _ => p }
/-- The flags of an access issued under serial number `serial` arrive (R69): in FSTAT unless a write of FSTAT came after it (`muted`), and in
every `srd` of FSTAT that stands after it and before that write. -/
def Team.raiseLate (t : Team) (serial : Nat) (muted : Option Nat) (f : BitVec 5) : Team :=
  { t with
    fstat := if muted.isNone then t.fstat ||| f else t.fstat
    pends := t.pends.map fun (p : Pend) => match p.data with
      | .flagsOf fl =>
        if serial < p.serial && (match muted with | some m => decide (p.serial < m) | none => true) then { p with data := .flagsOf (fl ||| f) } else p
      | _ => p }

end Sys2Proof.Machine
end

