-- ==== Sys2Proof/Decode.lean ====
section
/-! DEFINITION. From words to instructions and back: the forms of R53, the mod field of R57 to R64, the literal rule of
R58, the opcode maps R70 and R71, and the encoder that lays the same fields out. -/

namespace Sys2Proof

/-- Why a word is no instruction (checks 3 and 4 of R74). -/
inductive DecodeError where
  /-- the opcode is reserved (R72) -/
  | reservedOpcode
  /-- a field that must be zero is not, or mod holds a reserved value (R54, R57, R59, R61, R64) -/
  | reservedField
  /-- the instruction needs a literal and none stands in the next slot (R58, R52) -/
  | literalMissing
  /-- a literal stands after an instruction that takes none (R58, R52) -/
  | literalUnexpected
  deriving DecidableEq, Repr

/-- The fields of an instruction word in form A (R53), with the literal of the next slot where it is marked (R46). -/
structure Fields where
  u   : Bool
  op  : BitVec 7
  d   : RegNo
  a   : RegNo
  b   : RegNo
  m   : BitVec 3
  lit : Option Word
  deriving DecidableEq, Repr

/-- Cut a word into the fields of R53: set 31, opcode 30:24, d 23:17, a 16:10, b 9:3, mod 2:0. -/
def Fields.ofWord (w : Word) (lit : Option Word) : Fields :=
  ⟨w.getLsbD 31, w.extractLsb' 24 7, w.extractLsb' 17 7, w.extractLsb' 10 7, w.extractLsb' 3 7, w.extractLsb' 0 3, lit⟩

/-- The word whose fields these are. -/
def Fields.word (f : Fields) : Word :=
  BitVec.ofBool f.u ++ f.op ++ f.d ++ f.a ++ f.b ++ f.m

/-- An instruction without a literal. -/
def Fields.plain (f : Fields) (i : Instr) : Except DecodeError Instr :=
  match f.lit with
  | none => .ok i
  | some _ => .error .literalUnexpected

/-- An instruction without a literal whose fixed fields hold `c`. -/
def Fields.need (f : Fields) (c : Prop) [Decidable c] (i : Instr) : Except DecodeError Instr :=
  match f.lit with
  | some _ => .error .literalUnexpected
  | none => if c then .ok i else .error .reservedField

/-- An instruction that always takes a literal (`cvt`, `trc`: R58). -/
def Fields.withLit (f : Fields) (c : Prop) [Decidable c] (k : Word → Instr) : Except DecodeError Instr :=
  match f.lit with
  | none => .error .literalMissing
  | some w => if c then .ok (k w) else .error .reservedField

/-- `i` where the fixed fields hold `c`. -/
def guardField (c : Prop) [Decidable c] (i : Instr) : Except DecodeError Instr :=
  if c then .ok i else .error .reservedField

/-- A further condition on fixed fields, looked at after the literal arrangement (check 1 of R74 comes before check 4). -/
def alsoField (c : Prop) [Decidable c] (r : Except DecodeError Instr) : Except DecodeError Instr :=
  match r with
  | .ok i => guardField c i
  | .error e => .error e

/-- A "sel" operand of the L-set (R57, R59): `flag` says whether mod[2] may be 1. -/
def Fields.withB (f : Fields) (flag : Bool) (k : OpB → Bool → Instr) : Except DecodeError Instr :=
  match (f.m.extractLsb' 0 2).toNat, f.lit with
  | 0, none => guardField (f.m.getLsbD 2 = true → flag = true) (k (.reg f.b) (f.m.getLsbD 2))
  | 1, none => guardField (f.m.getLsbD 2 = true → flag = true) (k (.uni f.b) (f.m.getLsbD 2))
  | 2, some w => guardField (f.b = 0 ∧ (f.m.getLsbD 2 = true → flag = true)) (k (.lit w) (f.m.getLsbD 2))
  | 3, some w => guardField (f.m.getLsbD 2 = true → flag = true) (k (.pat f.b w) (f.m.getLsbD 2))
  | 0, some _ => .error .literalUnexpected
  | 1, some _ => .error .literalUnexpected
  | _, _ => .error .literalMissing

/-- A "sel" operand of the U-set (R57): mod[1:0] 0b01 and 0b11 are reserved and take no literal (R58). -/
def Fields.withU (f : Fields) (flag : Bool) (k : OpU → Bool → Instr) : Except DecodeError Instr :=
  match (f.m.extractLsb' 0 2).toNat, f.lit with
  | 0, none => guardField (f.m.getLsbD 2 = true → flag = true) (k (.reg f.b) (f.m.getLsbD 2))
  | 2, some w => guardField (f.b = 0 ∧ (f.m.getLsbD 2 = true → flag = true)) (k (.lit w) (f.m.getLsbD 2))
  | 2, none => .error .literalMissing
  | _, none => .error .reservedField
  | _, some _ => .error .literalUnexpected

/-- A "lit" operand (R58): the literal where one is marked, and then the b field must be 0. -/
def Fields.withL (f : Fields) (k : OpL → Instr) : Except DecodeError Instr :=
  match f.lit with
  | none => .ok (k (.reg f.b))
  | some w => if f.b = 0 then .ok (k (.lit w)) else .error .reservedField

/-- The lane source of `shfl` (R70, R124). -/
def Fields.withSrc (f : Fields) (k : LaneSrc → Instr) : Except DecodeError Instr :=
  match (f.m.extractLsb' 0 2).toNat, f.lit with
  | 0, none => guardField (f.m.getLsbD 2 = false) (k (.reg f.b))
  | 1, none => guardField (f.m.getLsbD 2 = false) (k (.uni f.b))
  | 2, some w => guardField (f.m.getLsbD 2 = false ∧ f.b = 0) (k (.lit w))
  | 3, some w => guardField (f.m.getLsbD 2 = false ∧ f.b = 0) (k (.pat w))
  | 0, some _ => .error .literalUnexpected
  | 1, some _ => .error .literalUnexpected
  | _, _ => .error .literalMissing

/-- A "w", "n" or "lane" selector (R64); `lane` says whether the literal form exists. -/
def Fields.withSelr (f : Fields) (lane : Bool) (k : Selr → Instr) : Except DecodeError Instr :=
  match f.m.toNat, f.lit with
  | 0, none => .ok (k (.imm f.b))
  | 1, none => .ok (k (.uni f.b))
  | 2, some w =>
    if lane = false then .error .literalUnexpected
    else if f.b = 0 then .ok (k (.lit w)) else .error .reservedField
  | 2, none => if lane then .error .literalMissing else .error .reservedField
  | _, none => .error .reservedField
  | _, some _ => .error .literalUnexpected

/-- The L-set opcodes of R70, field by field; a code that is not listed is reserved (R72). -/
def decodeL (f : Fields) : Except DecodeError Instr :=
  match f.op.toNat with
  | 0x00 => f.withB false fun o _ => .iadd f.d f.a o
  | 0x01 => f.withB false fun o _ => .isub f.d f.a o
  | 0x02 => f.withB false fun o _ => .imul f.d f.a o
  | 0x03 => f.withB true fun o u => .imulhi f.d f.a o u
  | 0x04 => f.withB false fun o _ => .imac f.d f.a o
  | 0x05 => f.withB true fun o u => .imin f.d f.a o u
  | 0x06 => f.withB true fun o u => .imax f.d f.a o u
  | 0x07 => f.withB true fun o u => .iabsd f.d f.a o u
  | 0x08 => f.withB true fun o u => .iaddsat f.d f.a o u
  | 0x09 => f.withB true fun o u => .isubsat f.d f.a o u
  | 0x0A => f.withB false fun o _ => .and f.d f.a o
  | 0x0B => f.withB false fun o _ => .or f.d f.a o
  | 0x0C => f.withB false fun o _ => .xor f.d f.a o
  | 0x0D => f.withB false fun o _ => .andn f.d f.a o
  | 0x0E => f.withB false fun o _ => .shl f.d f.a o
  | 0x0F => f.withB false fun o _ => .shr f.d f.a o
  | 0x10 => f.withB false fun o _ => .sar f.d f.a o
  | 0x11 => f.need (f.b = 0 ∧ f.m = 0) (.popc f.d f.a)
  | 0x12 => f.need (f.b = 0 ∧ f.m = 0) (.clz f.d f.a)
  | 0x13 => f.need (f.b = 0 ∧ f.m = 0) (.brev f.d f.a)
  | 0x14 => f.withB true fun o u => .bfx f.d f.a o u
  | 0x15 => f.withB false fun o _ => .bfi f.d f.a o
  | 0x16 => f.plain (.iaddi f.d f.a (f.b ++ f.m))
  | 0x17 => f.plain (.movi f.d (f.a ++ f.b ++ f.m))
  | 0x18 => alsoField (f.a = 0) (f.withB false fun o _ => .mov f.d o)
  | 0x19 => f.need (f.m = 0) (.sel f.d f.a f.b)
  | 0x1A => f.withB true fun o u => .lea f.d f.a o u
  | 0x1B => f.withL fun o => .icmp f.d f.a o f.m
  | 0x20 => f.withB true fun o u => .fadd f.d f.a o u
  | 0x21 => f.withB true fun o u => .fsub f.d f.a o u
  | 0x22 => f.withB true fun o u => .fmul f.d f.a o u
  | 0x23 => f.withB true fun o u => .ffma f.d f.a o u
  | 0x24 => f.withB true fun o u => .fmin f.d f.a o u
  | 0x25 => f.withB true fun o u => .fmax f.d f.a o u
  | 0x26 => f.withB true fun o u => .fminnm f.d f.a o u
  | 0x27 => f.withB true fun o u => .fmaxnm f.d f.a o u
  | 0x28 => f.withL fun o => .fcmp f.d f.a o f.m
  | 0x29 => f.need (f.b = 0 ∧ f.m = 0) (.frcp f.d f.a)
  | 0x2A => f.need (f.b = 0 ∧ f.m = 0) (.frsq f.d f.a)
  | 0x2B => f.need (f.b = 0 ∧ f.m = 0) (.fsqrt f.d f.a)
  | 0x2C => f.need (f.b = 0 ∧ f.m = 0) (.fex2 f.d f.a)
  | 0x2D => f.need (f.b = 0 ∧ f.m = 0) (.flg2 f.d f.a)
  | 0x2E => f.need (f.b = 0 ∧ f.m = 0) (.fsin f.d f.a)
  | 0x2F => f.need (f.b = 0 ∧ f.m = 0) (.fcos f.d f.a)
  | 0x30 => f.need (f.b = 0 ∧ f.m = 0) (.fclass f.d f.a)
  | 0x31 => f.withB true fun o u => .pkadd f.d f.a o u
  | 0x32 => f.withB true fun o u => .pkmul f.d f.a o u
  | 0x33 => f.withB true fun o u => .pkfma f.d f.a o u
  | 0x34 => f.withB true fun o u => .pkbfma f.d f.a o u
  | 0x35 => f.withB true fun o u => .pkdot f.d f.a o u
  | 0x36 => f.withB true fun o u => .dadd f.d f.a o u
  | 0x37 => f.withB true fun o u => .dmul f.d f.a o u
  | 0x38 => f.withB true fun o u => .dfma f.d f.a o u
  | 0x39 => f.withL fun o => .dcmp f.d f.a o f.m
  | 0x3A => f.withLit (f.b = 0 ∧ f.m = 2) fun w => .cvt f.d f.a w
  | 0x40 => f.withB false fun o _ => .tdec f.d f.a o
  | 0x41 => f.withB false fun o _ => .tenc f.d f.a o
  | 0x42 => f.withB false fun o _ => .npack f.d f.a o
  | 0x43 => f.withB false fun o _ => .nunpk f.d f.a o
  | 0x44 => f.withB false fun o _ => .fxq f.d f.a o
  | 0x45 => f.withB false fun o _ => .fxdq f.d f.a o
  | 0x48 => f.withSrc fun o => .shfl f.d f.a o
  | 0x49 => f.need (f.m.extractLsb' 1 2 = 0) (.lred f.d f.a f.b (f.m.getLsbD 0))
  | 0x4A => f.need (f.m.getLsbD 2 = false) (.lscan f.d f.a f.b (f.m.getLsbD 0) (f.m.getLsbD 1))
  | 0x4B => f.need (f.b = 0 ∧ f.m.extractLsb' 1 2 = 0) (.matchv f.d f.a (f.m.getLsbD 0))
  | 0x4C => f.need (f.b = 0 ∧ f.m = 0) (.pset f.d f.a)
  | 0x4D => f.plain (.plog f.d f.a f.b f.m)
  | 0x4E => f.need (f.b = 0 ∧ f.m = 0) (.pmov f.d f.a)
  | 0x50 => f.need (f.b = 0 ∧ f.m = 0) (.qpush f.d f.a)
  | 0x51 => f.need (f.b = 0 ∧ f.m = 0) (.qpop f.d f.a)
  | 0x52 => f.withLit (f.d = 0 ∧ f.m = 2) fun w => .trc f.a f.b w
  | 0x53 => f.need (f.m = 0) (.oenter f.d f.a f.b)
  | 0x54 => f.need (f.d = 0 ∧ f.b = 0 ∧ f.m = 0) (.oleave f.a)
  | 0x55 => f.need (f.d = 0 ∧ f.m = 0) (.oskip f.a f.b)
  | 0x58 => f.need (f.b = 0 ∧ f.m = 0) (.scq f.d f.a)
  | 0x59 => f.need (f.d = 0 ∧ f.m = 0) (.scfill f.a f.b)
  | 0x5A => f.need (f.d = 0 ∧ f.b = 0 ∧ f.m = 0) (.scinv f.a)
  | 0x5C => f.plain (.ld8 f.d f.a (f.b ++ f.m))
  | 0x5D => f.plain (.ld16 f.d f.a (f.b ++ f.m))
  | 0x5E => f.plain (.ld32 f.d f.a (f.b ++ f.m))
  | 0x5F => f.plain (.ld64 f.d f.a (f.b ++ f.m))
  | 0x60 => f.plain (.ld128 f.d f.a (f.b ++ f.m))
  | 0x61 => f.plain (.st8 f.d f.a (f.b ++ f.m))
  | 0x62 => f.plain (.st16 f.d f.a (f.b ++ f.m))
  | 0x63 => f.plain (.st32 f.d f.a (f.b ++ f.m))
  | 0x64 => f.plain (.st64 f.d f.a (f.b ++ f.m))
  | 0x65 => f.plain (.st128 f.d f.a (f.b ++ f.m))
  | 0x66 => f.plain (.lds32 f.d f.a (f.b ++ f.m))
  | 0x67 => f.plain (.lds64 f.d f.a (f.b ++ f.m))
  | 0x68 => f.plain (.lds128 f.d f.a (f.b ++ f.m))
  | 0x69 => f.plain (.sts32 f.d f.a (f.b ++ f.m))
  | 0x6A => f.plain (.sts64 f.d f.a (f.b ++ f.m))
  | 0x6B => f.plain (.sts128 f.d f.a (f.b ++ f.m))
  | 0x6C => f.plain (.ldf f.d f.a (f.b ++ f.m))
  | 0x6D => f.plain (.ste f.d f.a (f.b ++ f.m))
  | 0x6E => f.plain (.ldfk f.d f.a (f.b ++ f.m))
  | 0x6F => f.plain (.ldc f.d f.a (f.b ++ f.m))
  | 0x70 => f.need (f.m = 1) (.smp f.d f.a f.b)
  | 0x71 => f.withB false fun o _ => .cpa f.d f.a o
  | 0x72 => f.withL fun o => .atadd f.d (f.a.extractLsb' 1 6) (f.a.getLsbD 0) o f.m
  | 0x73 => f.withL fun o => .atmin f.d (f.a.extractLsb' 1 6) (f.a.getLsbD 0) o f.m
  | 0x74 => f.withL fun o => .atmax f.d (f.a.extractLsb' 1 6) (f.a.getLsbD 0) o f.m
  | 0x75 => f.withL fun o => .atand f.d (f.a.extractLsb' 1 6) (f.a.getLsbD 0) o f.m
  | 0x76 => f.withL fun o => .ator f.d (f.a.extractLsb' 1 6) (f.a.getLsbD 0) o f.m
  | 0x77 => f.withL fun o => .atxor f.d (f.a.extractLsb' 1 6) (f.a.getLsbD 0) o f.m
  | 0x78 => f.withL fun o => .atxch f.d (f.a.extractLsb' 1 6) (f.a.getLsbD 0) o f.m
  | 0x79 => f.plain (.atcas f.d (f.a.extractLsb' 1 6) (f.a.getLsbD 0) f.b f.m)
  | 0x7A => f.withL fun o => .atfadd f.d (f.a.extractLsb' 1 6) (f.a.getLsbD 0) o f.m
  | 0x7B => f.withL fun o => .atfmin f.d (f.a.extractLsb' 1 6) (f.a.getLsbD 0) o f.m
  | 0x7C => f.withL fun o => .atfmax f.d (f.a.extractLsb' 1 6) (f.a.getLsbD 0) o f.m
  | 0x7D => alsoField (f.d = 0) (f.withL fun o => .redadd (f.a.extractLsb' 1 6) (f.a.getLsbD 0) o f.m)
  | 0x7E => alsoField (f.d = 0) (f.withL fun o => .redfadd (f.a.extractLsb' 1 6) (f.a.getLsbD 0) o f.m)
  | _ => .error .reservedOpcode

/-- The U-set opcodes of R71, field by field; a code that is not listed is reserved (R72). -/
def decodeU (f : Fields) : Except DecodeError Instr :=
  match f.op.toNat with
  | 0x00 => f.withU false fun o _ => .sadd f.d f.a o
  | 0x01 => f.withU false fun o _ => .ssub f.d f.a o
  | 0x02 => f.withU false fun o _ => .smul f.d f.a o
  | 0x03 => f.withU true fun o u => .smulhi f.d f.a o u
  | 0x04 => f.withU false fun o _ => .sand f.d f.a o
  | 0x05 => f.withU false fun o _ => .sor f.d f.a o
  | 0x06 => f.withU false fun o _ => .sxor f.d f.a o
  | 0x07 => f.withU false fun o _ => .sandn f.d f.a o
  | 0x08 => f.withU false fun o _ => .sshl f.d f.a o
  | 0x09 => f.withU false fun o _ => .sshr f.d f.a o
  | 0x0A => f.withU false fun o _ => .ssar f.d f.a o
  | 0x0B => f.withU true fun o u => .smin f.d f.a o u
  | 0x0C => f.withU true fun o u => .smax f.d f.a o u
  | 0x0D => f.need (f.b = 0 ∧ f.m = 0) (.spopc f.d f.a)
  | 0x0E => f.need (f.b = 0 ∧ f.m = 0) (.sclz f.d f.a)
  | 0x0F => f.withU true fun o u => .sbfx f.d f.a o u
  | 0x10 => f.withU false fun o _ => .sbfi f.d f.a o
  | 0x11 => f.plain (.saddi f.d f.a (f.b ++ f.m))
  | 0x12 => f.plain (.smovi f.d (f.a ++ f.b ++ f.m))
  | 0x13 => alsoField (f.a = 0) (f.withU false fun o _ => .smov f.d o)
  | 0x14 => f.need (f.m = 0) (.ssel f.d f.a f.b)
  | 0x15 => f.withL fun o => .scmp f.d f.a o f.m
  | 0x16 => f.withU true fun o u => .slea f.d f.a o u
  | 0x20 => f.plain (.sld32 f.d f.a (f.b ++ f.m))
  | 0x21 => f.plain (.sld64 f.d f.a (f.b ++ f.m))
  | 0x22 => f.plain (.sst32 f.d f.a (f.b ++ f.m))
  | 0x23 => f.plain (.sst64 f.d f.a (f.b ++ f.m))
  | 0x24 => f.plain (.sldc f.d f.a (f.b ++ f.m))
  | 0x25 => f.withL fun o => .satadd f.d (f.a.extractLsb' 1 6) (f.a.getLsbD 0) o f.m
  | 0x26 => f.plain (.satcas f.d (f.a.extractLsb' 1 6) (f.a.getLsbD 0) f.b f.m)
  | 0x27 => f.withL fun o => .satxch f.d (f.a.extractLsb' 1 6) (f.a.getLsbD 0) o f.m
  | 0x28 => f.need (f.b = 0) (.sldaq f.d (f.a.extractLsb' 1 6) (f.a.getLsbD 0) f.m)
  | 0x29 => f.need (f.b = 0) (.sstrl f.d (f.a.extractLsb' 1 6) (f.a.getLsbD 0) f.m)
  | 0x30 => f.need (f.d = 0 ∧ f.b = 0 ∧ f.m = 0) (.exset f.a)
  | 0x31 => f.need (f.d = 0 ∧ f.b = 0 ∧ f.m = 0) (.exand f.a)
  | 0x32 => f.need (f.d = 0 ∧ f.b = 0 ∧ f.m = 0) (.exandn f.a)
  | 0x33 => f.need (f.a = 0 ∧ f.b = 0 ∧ f.m = 0) (.exsave f.d)
  | 0x34 => f.need (f.d = 0 ∧ f.a = 0 ∧ f.b = 0 ∧ f.m = 0) .exall
  | 0x35 => f.need (f.a = 0 ∧ f.b = 0 ∧ f.m = 0) (.excnt f.d)
  | 0x36 => f.need (f.b = 0 ∧ f.m = 0) (.exany f.d f.a)
  | 0x37 => f.withSelr false fun n => .pballot f.d f.a n
  | 0x38 => f.withSelr false fun n => .pfill f.d f.a n
  | 0x39 => f.withSelr true fun n => .sget f.d f.a n
  | 0x3A => f.plain (.fork f.d (f.a ++ f.b ++ f.m))
  | 0x3B => f.plain (.pend (f.d ++ f.a ++ f.b ++ f.m))
  | 0x3C => f.need (f.d = 0 ∧ f.a = 0 ∧ f.b = 0 ∧ f.m = 0) .yld
  | 0x40 => f.plain (.bra (f.d ++ f.a ++ f.b ++ f.m))
  | 0x41 => f.plain (.brz f.d (f.a ++ f.b ++ f.m))
  | 0x42 => f.plain (.brnz f.d (f.a ++ f.b ++ f.m))
  | 0x43 => f.plain (.brex (f.d ++ f.a ++ f.b ++ f.m))
  | 0x44 => f.plain (.brnex (f.d ++ f.a ++ f.b ++ f.m))
  | 0x45 => f.plain (.call f.d (f.a ++ f.b ++ f.m))
  | 0x46 => f.need (f.d = 0 ∧ f.b = 0 ∧ f.m = 0) (.ret f.a)
  | 0x47 => f.need (f.d = 0 ∧ f.b = 0 ∧ f.m = 0) (.jmp f.a)
  | 0x48 => f.need (f.d = 0 ∧ f.a = 0 ∧ f.b = 0 ∧ f.m = 0) .exit
  | 0x49 => f.need (f.d = 0 ∧ f.a.getLsbD 6 = false) (.trap (f.a.extractLsb' 0 6 ++ f.b ++ f.m))
  | 0x4A => f.need (f.d = 0 ∧ f.a = 0 ∧ f.b = 0 ∧ f.m = 0) .brk
  | 0x50 => f.need (f.d = 0 ∧ f.b = 0 ∧ f.m = 0) (.bar f.a)
  | 0x51 => f.need (f.m = 0) (.barrv f.d f.a f.b)
  | 0x52 => f.need (f.d = 0 ∧ f.b = 0 ∧ f.m = 0) (.barw f.a)
  | 0x53 => alsoField (f.d = 0) (f.withU false fun o _ => .barpend f.a o)
  | 0x54 => f.need (f.d = 0 ∧ f.a = 0 ∧ f.b = 0) (.fence f.m)
  | 0x55 => f.need (f.d = 0 ∧ f.a = 0 ∧ f.b.extractLsb' 1 6 = 0) (.pfence (f.b.extractLsb' 0 1 ++ f.m))
  | 0x56 => f.need (f.m = 0) (.wait f.d f.a f.b)
  | 0x57 => f.need (f.d = 0 ∧ f.a = 0 ∧ f.b = 0 ∧ f.m = 0) .ctcommit
  | 0x58 => f.need (f.d = 0 ∧ f.a = 0 ∧ f.m = 0) (.ctwait f.b)
  | 0x59 => f.need (f.b = 0 ∧ f.m = 0) (.fwait f.d f.a)
  | 0x5A => f.need (f.b = 0 ∧ f.m = 0) (.ftest f.d f.a)
  | 0x5B => f.need (f.b = 0 ∧ f.m = 0) (.fcancel f.d f.a)
  | 0x60 => f.need (f.m = 0) (.job f.d f.a f.b)
  | 0x61 => f.need (f.m = 0) (.spawn f.d f.a f.b)
  | 0x62 => f.need (f.d = 0 ∧ f.b = 0 ∧ f.m = 0) (.scframe f.a)
  | 0x63 => f.need (f.d = 0 ∧ f.b = 0 ∧ f.m = 0) (.mfmt f.a)
  | 0x64 => f.need (f.b = 0 ∧ f.m = 0) (.wbld f.d f.a)
  | 0x65 => f.withSelr false fun n => .mma f.d f.a n
  | 0x66 => f.need (f.a = 0 ∧ f.b = 0 ∧ f.m = 0) (.mzero f.d)
  | 0x67 => f.need (f.a = 0 ∧ f.b = 0 ∧ f.m = 0) (.mdrain f.d)
  | 0x68 => alsoField (f.d = 0 ∧ f.a = 0) (f.withSelr false fun n => .mburst n)
  | 0x69 => f.need (f.a = 0 ∧ f.b = 0 ∧ f.m = 0) (.mwait f.d)
  | 0x70 => f.need (f.b = 0 ∧ f.m = 0) (.chash f.d f.a)
  | 0x71 => f.need (f.b = 0 ∧ f.m = 0) (.cput f.d f.a)
  | 0x72 => f.need (f.d = 0 ∧ f.m = 0) (.cget f.a f.b)
  | 0x73 => f.need (f.d = 0 ∧ f.b = 0 ∧ f.m = 0) (.cref f.a)
  | 0x74 => f.need (f.d = 0 ∧ f.b = 0 ∧ f.m = 0) (.cdrop f.a)
  | 0x75 => f.plain (.cswap f.d f.a f.b f.m)
  | 0x78 => f.need (f.a = 0 ∧ f.m = 0) (.srd f.d f.b)
  | 0x79 => f.need (f.d = 0 ∧ f.m = 0) (.swr f.a f.b)
  | 0x7A => f.need (f.d = 0 ∧ f.a = 0 ∧ f.b = 0 ∧ f.m = 0) .nop
  | 0x7B => f.need (f.d = 0 ∧ f.a = 0 ∧ f.b = 0 ∧ f.m = 0) .rtt
  | _ => .error .reservedOpcode

/-- The instruction that a word with its literal stands for, or the name of what is wrong with it. -/
def decodeFields (f : Fields) : Except DecodeError Instr :=
  if f.u then decodeU f else decodeL f

/-- The decoder of one slot: the word and the literal of the next slot where LIT marks it. -/
def decode (w : Word) (lit : Option Word) : Except DecodeError Instr := decodeFields (Fields.ofWord w lit)

/-- How an instruction word stands to a literal slot after it (R58). -/
inductive LitRule where
  | never
  | always
  | optional
  deriving DecidableEq, Repr

/-- R58 by the decoder itself: a word takes a literal always, never, or when one is marked. A word the decoder refuses
in both forms takes none, but one whose refusal without a literal is that the literal is missing. -/
def litRule (w : Word) : LitRule :=
  match decode w none, decode w (some 0) with
  | .error .literalMissing, _ => .always
  | _, .error .literalUnexpected => .never
  | _, .error .reservedOpcode => .never
  | _, _ => .optional

/-- The instruction that the decoder reads from a word of the opcode table: a required literal is the following word, all
zero (bits above `nbits` are 0). -/
def decodeTableWord (nbits w : Nat) : Option Instr :=
  if nbits < 32 then none
  else
    let word := BitVec.ofNat 32 w
    let next := BitVec.ofNat 32 (w >>> 32)
    match (if litRule word = .always then decode word (some next) else decode word none) with
    | .ok i => some i
    | .error _ => none

/-- Lay out an L-set "sel" operand (R57). -/
def encB (u : Bool) (op : BitVec 7) (d a : RegNo) (o : OpB) (flag : Bool) : Fields :=
  match o with
  | .reg b => ⟨u, op, d, a, b, BitVec.ofBool flag ++ 0#2, none⟩
  | .uni b => ⟨u, op, d, a, b, BitVec.ofBool flag ++ 1#2, none⟩
  | .lit w => ⟨u, op, d, a, 0, BitVec.ofBool flag ++ 2#2, some w⟩
  | .pat b w => ⟨u, op, d, a, b, BitVec.ofBool flag ++ 3#2, some w⟩

/-- Lay out a U-set "sel" operand (R57). -/
def encU (u : Bool) (op : BitVec 7) (d a : RegNo) (o : OpU) (flag : Bool) : Fields :=
  match o with
  | .reg b => ⟨u, op, d, a, b, BitVec.ofBool flag ++ 0#2, none⟩
  | .lit w => ⟨u, op, d, a, 0, BitVec.ofBool flag ++ 2#2, some w⟩

/-- Lay out a "lit" operand (R58). -/
def encL (u : Bool) (op : BitVec 7) (d a : RegNo) (o : OpL) (m : BitVec 3) : Fields :=
  match o with
  | .reg b => ⟨u, op, d, a, b, m, none⟩
  | .lit w => ⟨u, op, d, a, 0, m, some w⟩

/-- Lay out the lane source of `shfl` (R135). -/
def encSrc (u : Bool) (op : BitVec 7) (d a : RegNo) (o : LaneSrc) : Fields :=
  match o with
  | .reg b => ⟨u, op, d, a, b, 0, none⟩
  | .uni b => ⟨u, op, d, a, b, 1, none⟩
  | .lit w => ⟨u, op, d, a, 0, 2, some w⟩
  | .pat w => ⟨u, op, d, a, 0, 3, some w⟩

/-- Lay out a selector (R64). -/
def encSelr (u : Bool) (op : BitVec 7) (d a : RegNo) (n : Selr) : Fields :=
  match n with
  | .imm b => ⟨u, op, d, a, b, 0, none⟩
  | .uni b => ⟨u, op, d, a, b, 1, none⟩
  | .lit w => ⟨u, op, d, a, 0, 2, some w⟩

/-- The fields of the word of an instruction, with its literal, as R70 and R71 lay them out; a machine event has no word. -/
def encode : Instr → Option Fields
  | .iadd d a o => some (encB false 0x00 d a o false)
  | .isub d a o => some (encB false 0x01 d a o false)
  | .imul d a o => some (encB false 0x02 d a o false)
  | .imulhi d a o u => some (encB false 0x03 d a o u)
  | .imac d a o => some (encB false 0x04 d a o false)
  | .imin d a o u => some (encB false 0x05 d a o u)
  | .imax d a o u => some (encB false 0x06 d a o u)
  | .iabsd d a o u => some (encB false 0x07 d a o u)
  | .iaddsat d a o u => some (encB false 0x08 d a o u)
  | .isubsat d a o u => some (encB false 0x09 d a o u)
  | .and d a o => some (encB false 0x0A d a o false)
  | .or d a o => some (encB false 0x0B d a o false)
  | .xor d a o => some (encB false 0x0C d a o false)
  | .andn d a o => some (encB false 0x0D d a o false)
  | .shl d a o => some (encB false 0x0E d a o false)
  | .shr d a o => some (encB false 0x0F d a o false)
  | .sar d a o => some (encB false 0x10 d a o false)
  | .popc d a => some (⟨false, 0x11, d, a, 0, 0, none⟩)
  | .clz d a => some (⟨false, 0x12, d, a, 0, 0, none⟩)
  | .brev d a => some (⟨false, 0x13, d, a, 0, 0, none⟩)
  | .bfx d a o u => some (encB false 0x14 d a o u)
  | .bfi d a o => some (encB false 0x15 d a o false)
  | .iaddi d a imm => some (⟨false, 0x16, d, a, imm.extractLsb' 3 7, imm.extractLsb' 0 3, none⟩)
  | .movi d imm => some (⟨false, 0x17, d, imm.extractLsb' 10 7, imm.extractLsb' 3 7, imm.extractLsb' 0 3, none⟩)
  | .mov d o => some (encB false 0x18 d 0 o false)
  | .sel d a b => some (⟨false, 0x19, d, a, b, 0, none⟩)
  | .lea d a o u => some (encB false 0x1A d a o u)
  | .icmp d a o c => some (encL false 0x1B d a o c)
  | .fadd d a o u => some (encB false 0x20 d a o u)
  | .fsub d a o u => some (encB false 0x21 d a o u)
  | .fmul d a o u => some (encB false 0x22 d a o u)
  | .ffma d a o u => some (encB false 0x23 d a o u)
  | .fmin d a o u => some (encB false 0x24 d a o u)
  | .fmax d a o u => some (encB false 0x25 d a o u)
  | .fminnm d a o u => some (encB false 0x26 d a o u)
  | .fmaxnm d a o u => some (encB false 0x27 d a o u)
  | .fcmp d a o c => some (encL false 0x28 d a o c)
  | .frcp d a => some (⟨false, 0x29, d, a, 0, 0, none⟩)
  | .frsq d a => some (⟨false, 0x2A, d, a, 0, 0, none⟩)
  | .fsqrt d a => some (⟨false, 0x2B, d, a, 0, 0, none⟩)
  | .fex2 d a => some (⟨false, 0x2C, d, a, 0, 0, none⟩)
  | .flg2 d a => some (⟨false, 0x2D, d, a, 0, 0, none⟩)
  | .fsin d a => some (⟨false, 0x2E, d, a, 0, 0, none⟩)
  | .fcos d a => some (⟨false, 0x2F, d, a, 0, 0, none⟩)
  | .fclass d a => some (⟨false, 0x30, d, a, 0, 0, none⟩)
  | .pkadd d a o u => some (encB false 0x31 d a o u)
  | .pkmul d a o u => some (encB false 0x32 d a o u)
  | .pkfma d a o u => some (encB false 0x33 d a o u)
  | .pkbfma d a o u => some (encB false 0x34 d a o u)
  | .pkdot d a o u => some (encB false 0x35 d a o u)
  | .dadd d a o u => some (encB false 0x36 d a o u)
  | .dmul d a o u => some (encB false 0x37 d a o u)
  | .dfma d a o u => some (encB false 0x38 d a o u)
  | .dcmp d a o c => some (encL false 0x39 d a o c)
  | .cvt d a spec => some (⟨false, 0x3A, d, a, 0, 2, some spec⟩)
  | .tdec d a o => some (encB false 0x40 d a o false)
  | .tenc d a o => some (encB false 0x41 d a o false)
  | .npack d a o => some (encB false 0x42 d a o false)
  | .nunpk d a o => some (encB false 0x43 d a o false)
  | .fxq d a o => some (encB false 0x44 d a o false)
  | .fxdq d a o => some (encB false 0x45 d a o false)
  | .shfl d a src => some (encSrc false 0x48 d a src)
  | .lred d a k team => some (⟨false, 0x49, d, a, k, 0#2 ++ BitVec.ofBool team, none⟩)
  | .lscan d a k team excl => some (⟨false, 0x4A, d, a, k, 0#1 ++ BitVec.ofBool excl ++ BitVec.ofBool team, none⟩)
  | .matchv d a team => some (⟨false, 0x4B, d, a, 0, 0#2 ++ BitVec.ofBool team, none⟩)
  | .pset d a => some (⟨false, 0x4C, d, a, 0, 0, none⟩)
  | .plog d a b m => some (⟨false, 0x4D, d, a, b, m, none⟩)
  | .pmov d a => some (⟨false, 0x4E, d, a, 0, 0, none⟩)
  | .qpush d a => some (⟨false, 0x50, d, a, 0, 0, none⟩)
  | .qpop d a => some (⟨false, 0x51, d, a, 0, 0, none⟩)
  | .trc a b spec => some (⟨false, 0x52, 0, a, b, 2, some spec⟩)
  | .oenter d a b => some (⟨false, 0x53, d, a, b, 0, none⟩)
  | .oleave a => some (⟨false, 0x54, 0, a, 0, 0, none⟩)
  | .oskip a b => some (⟨false, 0x55, 0, a, b, 0, none⟩)
  | .scq d a => some (⟨false, 0x58, d, a, 0, 0, none⟩)
  | .scfill a b => some (⟨false, 0x59, 0, a, b, 0, none⟩)
  | .scinv a => some (⟨false, 0x5A, 0, a, 0, 0, none⟩)
  | .ld8 d a disp => some (⟨false, 0x5C, d, a, disp.extractLsb' 3 7, disp.extractLsb' 0 3, none⟩)
  | .ld16 d a disp => some (⟨false, 0x5D, d, a, disp.extractLsb' 3 7, disp.extractLsb' 0 3, none⟩)
  | .ld32 d a disp => some (⟨false, 0x5E, d, a, disp.extractLsb' 3 7, disp.extractLsb' 0 3, none⟩)
  | .ld64 d a disp => some (⟨false, 0x5F, d, a, disp.extractLsb' 3 7, disp.extractLsb' 0 3, none⟩)
  | .ld128 d a disp => some (⟨false, 0x60, d, a, disp.extractLsb' 3 7, disp.extractLsb' 0 3, none⟩)
  | .st8 d a disp => some (⟨false, 0x61, d, a, disp.extractLsb' 3 7, disp.extractLsb' 0 3, none⟩)
  | .st16 d a disp => some (⟨false, 0x62, d, a, disp.extractLsb' 3 7, disp.extractLsb' 0 3, none⟩)
  | .st32 d a disp => some (⟨false, 0x63, d, a, disp.extractLsb' 3 7, disp.extractLsb' 0 3, none⟩)
  | .st64 d a disp => some (⟨false, 0x64, d, a, disp.extractLsb' 3 7, disp.extractLsb' 0 3, none⟩)
  | .st128 d a disp => some (⟨false, 0x65, d, a, disp.extractLsb' 3 7, disp.extractLsb' 0 3, none⟩)
  | .lds32 d a disp => some (⟨false, 0x66, d, a, disp.extractLsb' 3 7, disp.extractLsb' 0 3, none⟩)
  | .lds64 d a disp => some (⟨false, 0x67, d, a, disp.extractLsb' 3 7, disp.extractLsb' 0 3, none⟩)
  | .lds128 d a disp => some (⟨false, 0x68, d, a, disp.extractLsb' 3 7, disp.extractLsb' 0 3, none⟩)
  | .sts32 d a disp => some (⟨false, 0x69, d, a, disp.extractLsb' 3 7, disp.extractLsb' 0 3, none⟩)
  | .sts64 d a disp => some (⟨false, 0x6A, d, a, disp.extractLsb' 3 7, disp.extractLsb' 0 3, none⟩)
  | .sts128 d a disp => some (⟨false, 0x6B, d, a, disp.extractLsb' 3 7, disp.extractLsb' 0 3, none⟩)
  | .ldf d a disp => some (⟨false, 0x6C, d, a, disp.extractLsb' 3 7, disp.extractLsb' 0 3, none⟩)
  | .ste d a disp => some (⟨false, 0x6D, d, a, disp.extractLsb' 3 7, disp.extractLsb' 0 3, none⟩)
  | .ldfk d a disp => some (⟨false, 0x6E, d, a, disp.extractLsb' 3 7, disp.extractLsb' 0 3, none⟩)
  | .ldc d a disp => some (⟨false, 0x6F, d, a, disp.extractLsb' 3 7, disp.extractLsb' 0 3, none⟩)
  | .smp d a b => some (⟨false, 0x70, d, a, b, 1, none⟩)
  | .cpa d a o => some (encB false 0x71 d a o false)
  | .atadd d a w o ord => some (encL false 0x72 d (a ++ BitVec.ofBool w) o ord)
  | .atmin d a w o ord => some (encL false 0x73 d (a ++ BitVec.ofBool w) o ord)
  | .atmax d a w o ord => some (encL false 0x74 d (a ++ BitVec.ofBool w) o ord)
  | .atand d a w o ord => some (encL false 0x75 d (a ++ BitVec.ofBool w) o ord)
  | .ator d a w o ord => some (encL false 0x76 d (a ++ BitVec.ofBool w) o ord)
  | .atxor d a w o ord => some (encL false 0x77 d (a ++ BitVec.ofBool w) o ord)
  | .atxch d a w o ord => some (encL false 0x78 d (a ++ BitVec.ofBool w) o ord)
  | .atcas d a w b ord => some (⟨false, 0x79, d, a ++ BitVec.ofBool w, b, ord, none⟩)
  | .atfadd d a w o ord => some (encL false 0x7A d (a ++ BitVec.ofBool w) o ord)
  | .atfmin d a w o ord => some (encL false 0x7B d (a ++ BitVec.ofBool w) o ord)
  | .atfmax d a w o ord => some (encL false 0x7C d (a ++ BitVec.ofBool w) o ord)
  | .redadd a w o ord => some (encL false 0x7D 0 (a ++ BitVec.ofBool w) o ord)
  | .redfadd a w o ord => some (encL false 0x7E 0 (a ++ BitVec.ofBool w) o ord)
  | .sadd d a o => some (encU true 0x00 d a o false)
  | .ssub d a o => some (encU true 0x01 d a o false)
  | .smul d a o => some (encU true 0x02 d a o false)
  | .smulhi d a o u => some (encU true 0x03 d a o u)
  | .sand d a o => some (encU true 0x04 d a o false)
  | .sor d a o => some (encU true 0x05 d a o false)
  | .sxor d a o => some (encU true 0x06 d a o false)
  | .sandn d a o => some (encU true 0x07 d a o false)
  | .sshl d a o => some (encU true 0x08 d a o false)
  | .sshr d a o => some (encU true 0x09 d a o false)
  | .ssar d a o => some (encU true 0x0A d a o false)
  | .smin d a o u => some (encU true 0x0B d a o u)
  | .smax d a o u => some (encU true 0x0C d a o u)
  | .spopc d a => some (⟨true, 0x0D, d, a, 0, 0, none⟩)
  | .sclz d a => some (⟨true, 0x0E, d, a, 0, 0, none⟩)
  | .sbfx d a o u => some (encU true 0x0F d a o u)
  | .sbfi d a o => some (encU true 0x10 d a o false)
  | .saddi d a imm => some (⟨true, 0x11, d, a, imm.extractLsb' 3 7, imm.extractLsb' 0 3, none⟩)
  | .smovi d imm => some (⟨true, 0x12, d, imm.extractLsb' 10 7, imm.extractLsb' 3 7, imm.extractLsb' 0 3, none⟩)
  | .smov d o => some (encU true 0x13 d 0 o false)
  | .ssel d a b => some (⟨true, 0x14, d, a, b, 0, none⟩)
  | .scmp d a o c => some (encL true 0x15 d a o c)
  | .slea d a o u => some (encU true 0x16 d a o u)
  | .sld32 d a disp => some (⟨true, 0x20, d, a, disp.extractLsb' 3 7, disp.extractLsb' 0 3, none⟩)
  | .sld64 d a disp => some (⟨true, 0x21, d, a, disp.extractLsb' 3 7, disp.extractLsb' 0 3, none⟩)
  | .sst32 d a disp => some (⟨true, 0x22, d, a, disp.extractLsb' 3 7, disp.extractLsb' 0 3, none⟩)
  | .sst64 d a disp => some (⟨true, 0x23, d, a, disp.extractLsb' 3 7, disp.extractLsb' 0 3, none⟩)
  | .sldc d a disp => some (⟨true, 0x24, d, a, disp.extractLsb' 3 7, disp.extractLsb' 0 3, none⟩)
  | .satadd d a w o ord => some (encL true 0x25 d (a ++ BitVec.ofBool w) o ord)
  | .satcas d a w b ord => some (⟨true, 0x26, d, a ++ BitVec.ofBool w, b, ord, none⟩)
  | .satxch d a w o ord => some (encL true 0x27 d (a ++ BitVec.ofBool w) o ord)
  | .sldaq d a w ord => some (⟨true, 0x28, d, a ++ BitVec.ofBool w, 0, ord, none⟩)
  | .sstrl d a w ord => some (⟨true, 0x29, d, a ++ BitVec.ofBool w, 0, ord, none⟩)
  | .exset a => some (⟨true, 0x30, 0, a, 0, 0, none⟩)
  | .exand a => some (⟨true, 0x31, 0, a, 0, 0, none⟩)
  | .exandn a => some (⟨true, 0x32, 0, a, 0, 0, none⟩)
  | .exsave d => some (⟨true, 0x33, d, 0, 0, 0, none⟩)
  | .exall  => some (⟨true, 0x34, 0, 0, 0, 0, none⟩)
  | .excnt d => some (⟨true, 0x35, d, 0, 0, 0, none⟩)
  | .exany d a => some (⟨true, 0x36, d, a, 0, 0, none⟩)
  | .pballot d a n => some (encSelr true 0x37 d a n)
  | .pfill d a n => some (encSelr true 0x38 d a n)
  | .sget d a n => some (encSelr true 0x39 d a n)
  | .fork c t => some (⟨true, 0x3A, c, t.extractLsb' 10 7, t.extractLsb' 3 7, t.extractLsb' 0 3, none⟩)
  | .pend t => some (⟨true, 0x3B, t.extractLsb' 17 7, t.extractLsb' 10 7, t.extractLsb' 3 7, t.extractLsb' 0 3, none⟩)
  | .yld  => some (⟨true, 0x3C, 0, 0, 0, 0, none⟩)
  | .bra t => some (⟨true, 0x40, t.extractLsb' 17 7, t.extractLsb' 10 7, t.extractLsb' 3 7, t.extractLsb' 0 3, none⟩)
  | .brz c t => some (⟨true, 0x41, c, t.extractLsb' 10 7, t.extractLsb' 3 7, t.extractLsb' 0 3, none⟩)
  | .brnz c t => some (⟨true, 0x42, c, t.extractLsb' 10 7, t.extractLsb' 3 7, t.extractLsb' 0 3, none⟩)
  | .brex t => some (⟨true, 0x43, t.extractLsb' 17 7, t.extractLsb' 10 7, t.extractLsb' 3 7, t.extractLsb' 0 3, none⟩)
  | .brnex t => some (⟨true, 0x44, t.extractLsb' 17 7, t.extractLsb' 10 7, t.extractLsb' 3 7, t.extractLsb' 0 3, none⟩)
  | .call c t => some (⟨true, 0x45, c, t.extractLsb' 10 7, t.extractLsb' 3 7, t.extractLsb' 0 3, none⟩)
  | .ret a => some (⟨true, 0x46, 0, a, 0, 0, none⟩)
  | .jmp a => some (⟨true, 0x47, 0, a, 0, 0, none⟩)
  | .exit  => some (⟨true, 0x48, 0, 0, 0, 0, none⟩)
  | .trap code => some (⟨true, 0x49, 0, 0#1 ++ code.extractLsb' 10 6, code.extractLsb' 3 7, code.extractLsb' 0 3, none⟩)
  | .brk  => some (⟨true, 0x4A, 0, 0, 0, 0, none⟩)
  | .bar a => some (⟨true, 0x50, 0, a, 0, 0, none⟩)
  | .barrv d a b => some (⟨true, 0x51, d, a, b, 0, none⟩)
  | .barw a => some (⟨true, 0x52, 0, a, 0, 0, none⟩)
  | .barpend a o => some (encU true 0x53 0 a o false)
  | .fence ord => some (⟨true, 0x54, 0, 0, 0, ord, none⟩)
  | .pfence mask => some (⟨true, 0x55, 0, 0, 0#6 ++ mask.extractLsb' 3 1, mask.extractLsb' 0 3, none⟩)
  | .wait d a b => some (⟨true, 0x56, d, a, b, 0, none⟩)
  | .ctcommit  => some (⟨true, 0x57, 0, 0, 0, 0, none⟩)
  | .ctwait b => some (⟨true, 0x58, 0, 0, b, 0, none⟩)
  | .fwait d a => some (⟨true, 0x59, d, a, 0, 0, none⟩)
  | .ftest d a => some (⟨true, 0x5A, d, a, 0, 0, none⟩)
  | .fcancel d a => some (⟨true, 0x5B, d, a, 0, 0, none⟩)
  | .job d a b => some (⟨true, 0x60, d, a, b, 0, none⟩)
  | .spawn d a b => some (⟨true, 0x61, d, a, b, 0, none⟩)
  | .scframe a => some (⟨true, 0x62, 0, a, 0, 0, none⟩)
  | .mfmt a => some (⟨true, 0x63, 0, a, 0, 0, none⟩)
  | .wbld d a => some (⟨true, 0x64, d, a, 0, 0, none⟩)
  | .mma d a n => some (encSelr true 0x65 d a n)
  | .mzero d => some (⟨true, 0x66, d, 0, 0, 0, none⟩)
  | .mdrain d => some (⟨true, 0x67, d, 0, 0, 0, none⟩)
  | .mburst n => some (encSelr true 0x68 0 0 n)
  | .mwait d => some (⟨true, 0x69, d, 0, 0, 0, none⟩)
  | .chash d a => some (⟨true, 0x70, d, a, 0, 0, none⟩)
  | .cput d a => some (⟨true, 0x71, d, a, 0, 0, none⟩)
  | .cget a b => some (⟨true, 0x72, 0, a, b, 0, none⟩)
  | .cref a => some (⟨true, 0x73, 0, a, 0, 0, none⟩)
  | .cdrop a => some (⟨true, 0x74, 0, a, 0, 0, none⟩)
  | .cswap d a b m => some (⟨true, 0x75, d, a, b, m, none⟩)
  | .srd d b => some (⟨true, 0x78, d, 0, b, 0, none⟩)
  | .swr a b => some (⟨true, 0x79, 0, a, b, 0, none⟩)
  | .nop  => some (⟨true, 0x7A, 0, 0, 0, 0, none⟩)
  | .rtt  => some (⟨true, 0x7B, 0, 0, 0, 0, none⟩)
  | .waitReturn _ _ => none
  | .bundleFetch _ => none
  | .safePointRedirection _ => none
  | .trapEntry _ _ _ _ => none
  | .pathSwitch _ => none
  | .resultResolve _ _ => none
  | .copyLanding _ _ => none
  | .teamEnd _ => none
  | .gridEnd _ _ => none
  | .launch _ _ _ _ _ _ _ _ _ => none
  | .gangPlacement _ => none
  | .preemptionRequest _ => none
  | .gangSave _ => none
  | .gangRestore _ => none
  | .preemptionTimeout _ => none
  | .deckDispatch _ => none
  | .stealAttempt _ => none
  | .jobStart _ => none
  | .jobLanding _ _ _ => none
  | .fillfullStep _ _ _ => none
  | .jobCompletion _ _ => none
  | .collectiveResult _ _ _ => none
  | .apertureSubmit _ _ _ _ => none
  | .yrdAbort _ _ => none
  | .pageWalk _ _ _ => none
  | .faultRetry _ _ => none
  | .faultReject _ _ => none
  | .matrixChunkStart _ => none
  | .matrixChunkEnd _ => none
  | .weightLoadEnd _ _ => none
  | .drainBeat _ => none
  | .rampupEnd _ => none
  | .rampdownEnd _ => none
  | .warmToCold _ => none
  | .mxaInj _ _ _ => none
  | .oenterArrival _ _ _ => none
  | .oleaveArrival _ _ _ => none
  | .oskipArrival _ _ _ => none
  | .sectionTimeout _ _ => none
  | .waiterRetry _ _ _ => none
  | .secReset _ => none
  | .secFree _ => none
  | .secQuery _ => none
  | .clearall _ => none
  | .secBadOp _ => none
  | .cascadeStep _ => none
  | .rayEnd _ _ => none
  | .uncorrectedError _ => none
  | .consumption _ _ _ => none
  | .checkpoint _ _ => none
  | .rasInj _ _ => none
  | .clusterRemoval _ => none
  | .dbgHalt _ => none
  | .dbgResume _ => none
  | .dbgStep _ => none
  | .dbgQuery _ => none
  | .dbgRead _ => none
  | .dbgEdit _ => none
  | .dbgDiscard _ => none
  | .dbgBadOp _ => none
  | .stepHalt _ => none
  | .haltEvent _ => none
  | .dbgWpWrite _ _ _ _ => none
  | .dbgPulse _ _ => none
  | .triggerPin _ => none
  | .stallSample _ _ _ => none
  | .ctxcfg _ _ _ _ => none
  | .inval _ _ _ _ _ => none
  | .kill _ _ _ _ => none
  | .term _ _ _ => none
  | .evread _ _ _ _ _ => none
  | .domainCreate _ _ _ _ _ _ => none
  | .domainDelete _ _ _ _ => none
  | .svcrole _ _ _ _ => none
  | .debugGrant _ _ _ _ _ _ => none
  | .debugRevoke _ _ _ => none
  | .attest _ _ _ _ => none
  | .configure => none
  | .teardown => none
  | .mgtRead => none
  | .mgtBadOp => none
  | .registerWrite _ _ => none
  | .startUp => none
  | .powerLoss => none
  | .thermalThrottle _ => none
  | .thermalShutdown _ => none
  | .bypass => none
  | .idcode => none
  | .samplePreload => none
  | .extest => none
  | .clamp => none
  | .highz => none
  | .correctedError _ => none
  | .linkLevelReplay _ => none
  | .commandRefused _ _ _ _ => none
  | .partialSums _ _ _ _ => none

/-- Whether an instruction has a literal, which is then the slot after it (R46). -/
def Instr.hasLit (i : Instr) : Bool :=
  match encode i with
  | some f => f.lit.isSome
  | none => false

/-- Whether an instruction is of the U-set (bit 31, R53); events are of neither set. -/
def Instr.isU (i : Instr) : Bool :=
  match encode i with
  | some f => f.u
  | none => false

/-- Set bit and opcode as the illegal-instruction trap reports them (R72). -/
def opInfo (w : Word) : Nat := (w.extractLsb' 24 8).toNat

/-- The set bit and opcode of an instruction (R72). -/
def Instr.info (i : Instr) : Nat :=
  match encode i with
  | some f => opInfo f.word
  | none => 0

/-- The control word of a bundle (R45). -/
structure Control where
  kind   : BitVec 2
  lit    : BitVec 3
  stall1 : BitVec 4
  stall2 : BitVec 4
  stall3 : BitVec 4
  yieldH : BitVec 3
  spidx  : BitVec 12
  deriving DecidableEq, Repr

/-- Cut a control word into its fields (R45). -/
def Control.ofWord (w : Word) : Control :=
  ⟨w.extractLsb' 30 2, w.extractLsb' 27 3, w.extractLsb' 23 4, w.extractLsb' 19 4, w.extractLsb' 15 4,
   w.extractLsb' 12 3, w.extractLsb' 0 12⟩

/-- The control word whose fields these are. -/
def Control.word (c : Control) : Word :=
  c.kind ++ c.lit ++ c.stall1 ++ c.stall2 ++ c.stall3 ++ c.yieldH ++ c.spidx

/-- Word `i` of the 16 bytes of a bundle, word 0 the control word (R44). -/
def bundleWord (b : BitVec 128) (i : Nat) : Word := b.extractLsb' (32 * i) 32

/-- The stall field of slot `i`, 1 to 3 (R45). -/
def Control.stall (c : Control) (i : Nat) : Nat :=
  match i with
  | 1 => c.stall1.toNat
  | 2 => c.stall2.toNat
  | _ => c.stall3.toNat

/-- Whether slot `i` (1 to 3) is a literal slot: bit i of LIT marks slot i + 1 (R45). -/
def Control.isLit (c : Control) (i : Nat) : Bool := c.lit.getLsbD (i - 1)

/-- The literal of slot `i` where the next slot is marked (R46). -/
def slotLit (b : BitVec 128) (c : Control) (i : Nat) : Option Word :=
  if i < 3 ∧ c.isLit (i + 1) then some (bundleWord b (i + 1)) else none

/-- Whether the literal arrangement of slot `i` breaks R52. -/
def slotLitBad (b : BitVec 128) (c : Control) (i : Nat) : Bool :=
  if c.isLit i then c.stall i != 0
  else
    match litRule (bundleWord b i), slotLit b c i with
    | .never, some _ => true
    | .always, none => true
    | _, _ => false

/-- The conditions of R52 on the 16 bytes of a bundle that is not padding; `spCount` is SPCOUNT. -/
def bundleBad (b : BitVec 128) (spCount : Nat) : Bool :=
  let c := Control.ofWord (bundleWord b 0)
  c.kind == 3#2 || b == 0#128 || c.isLit 1 || c.lit == 6#3 ||
  slotLitBad b c 1 || slotLitBad b c 2 || slotLitBad b c 3 ||
  (c.kind == 0#2 && c.spidx != 0#12) || (c.kind == 1#2 && decide (spCount ≤ c.spidx.toNat))

end Sys2Proof
end

