-- ==== Sys2Proof/Config.lean ====
section
/-! DEFINITION. What the manual leaves open: constants without a body. Nothing proves a value of one, so a statement holds
whatever they are. Each takes a counter of the state (a fresh value at each use) or the arguments it depends on. -/

namespace Sys2Proof.Config

/-- Which of several due things comes about next (R47, R257, R287, R308; log entry 6). -/
opaque pick : Nat → Nat
/-- How many clk after its earliest clk a slot issues (R47: stall counts are minimums; log entry 7). -/
opaque issueDelay : Nat → Nat
/-- Which of the lines of a full set, or of the translations of a full filter, is given up for a new one (R281, R292, R293; log entry 11). -/
opaque victim : Nat → Nat
/-- The set of a path cache's line (R281): from the number of its sets, its context and its virtual line (log entry 11). -/
opaque cacheSet : Nat → Nat → Nat → Nat
/-- The home slice of a private L2 name, and its set, by the fixed hash (R285, R286; log entry 12). -/
opaque homePrivate : Nat → Nat → Nat × Nat
/-- The home slice of a canonical L2 name, and its set, by the fixed hash (R285, R286; log entry 12). -/
opaque homeCanonical : Nat → Nat × Nat
/-- The memory controller that translates a virtual page of a context, by a fixed hash (R292; log entry 12). -/
opaque controllerOf : Nat → Nat → Nat
/-- The salt of a domain of a partition group, one of those drawn from the random source (R394; log entry 13). -/
opaque salt : DWord → Nat → Nat → BitVec 256
/-- The heap slot that an allocation takes among the free ones (R426; log entry 13). -/
opaque heapChoice : Nat → Nat
/-- The physical address of the frame that holds a 4 KiB page of a domain's shading window (R422; log entry 13). -/
opaque windowPhys : Nat → Nat → Nat → Nat
/-- The physical base of the frames that hold a domain's line table (R391; log entry 13). -/
opaque linePhys : Nat → Nat → Nat
/-- The physical base of the frames that hold a domain's meta array (R391; log entry 13). -/
opaque metaPhys : Nat → Nat → Nat
/-- The trigger lines that the firmware grants with the debug right (R462 states no choice; log entry 14). -/
opaque grantLines : Nat → BitVec 64
/-- The 64-bit words of an attestation report for a nonce (R500; log entry 16). -/
opaque report : BitVec 256 → Nat → Nat → Nat → List DWord
/-- The result of a step of start-up: whether it fails, and with which code (R501, R502; log entry 16). -/
opaque startFails : Nat → Nat → Option (BitVec 8)
/-- The place from which a free job slot of a class is sought (R21 names no order; log entry 14). -/
opaque jobSlot : Nat → Nat
/-- The number from which a free GRID identifier is sought (R326; log entry 14). -/
opaque gridId : Nat → Nat
/-- The rounding mode by which a coordinate of the centroid of three vertices takes its FP32 value, which R418 does not state (log entry
15). -/
opaque centroidMode : Word → Word → Word → BitVec 2
/-- The depth of a tile continuation, which R420 does not state (log entry 15). -/
opaque tileDepth : Nat → Nat
/-- The cause of a RAST job that fails at a key cell, for which R304 lists none (log entry 15). -/
opaque sectionCause : Nat → Nat
/-- RAS_ADDR of the consumption of a register's error, which R455 does not state (log entry 15). -/
opaque rasAddr : Nat → BitVec 64
/-- The interpolation weight of a bilinear sample at an infinite coordinate, which R176 does not state (log entry 15). -/
opaque infiniteWeight : Word → Word

end Sys2Proof.Config
end

