-- ==== Sys2Proof/Machine/Memory.lean ====
section
/-! DEFINITION. Package memory by physical byte address (R2), poison (R440), the lines of the L2 (R285 to R288), page walks (R289 to
R291), the permission check and the frame rule (R293, R294), the path caches (R281 to R284), the accesses on their way (R257 to R264)
and the held stores of a rollback crew (R274). -/

namespace Sys2Proof.Machine

/-- What an address that no pair lists reads as (log entry 3). -/
def Memory.dflt : Byte := 0
/-- The canonical form of a memory. -/
def Memory.wf (m : SMap Byte) : Bool := SMap.wf Memory.dflt m
/-- One byte of memory. -/
def Memory.read (m : SMap Byte) (a : Nat) : Byte := m.get Memory.dflt a
/-- Memory after a byte is written. -/
def Memory.write (m : SMap Byte) (a : Nat) (b : Byte) : SMap Byte := m.set Memory.dflt a b
/-- Memory after bytes are written from an address up. -/
def Memory.writes (m : SMap Byte) (a : Nat) : List Byte → SMap Byte
  | [] => m
  | b :: bs => Memory.writes (Memory.write m a b) (a + 1) bs

/-- The number whose little-endian bytes these are (R2). -/
def leNat : List Byte → Nat
  | [] => 0
  | b :: bs => b.toNat + 256 * leNat bs
/-- The `n` little-endian bytes of a number (R2). -/
def leBytes : Nat → Nat → List Byte
  | 0, _ => []
  | n + 1, v => BitVec.ofNat 8 v :: leBytes n (v / 256)
/-- Bytes `off` to `off + n - 1` of a record read as a little-endian number. -/
def field (r off n : Nat) : Nat := r / 256 ^ off % 256 ^ n
/-- A word as 4 bytes. -/
def wordBytes (w : Word) : List Byte := leBytes 4 w.toNat
/-- A double word as 8 bytes. -/
def dwordBytes (d : DWord) : List Byte := leBytes 8 d.toNat

/-- `n` bytes of memory from a physical address up. -/
def State.readBytes (s : State) (pa n : Nat) : List Byte := (List.range n).map fun k => Memory.read s.mem (pa + k)
/-- `n` bytes of memory as a little-endian number. -/
def State.readNat (s : State) (pa n : Nat) : Nat := leNat (s.readBytes pa n)

/-- The poison marks after bytes are written: a whole 16-byte piece is cleared, a part of one keeps its mark (R440). -/
def clearPoison (p : SMap Bool) (pa n : Nat) : SMap Bool :=
  (List.range ((pa + n) / 16 - (pa + 15) / 16)).foldl (fun p k => p.erase ((pa + 15) / 16 + k)) p
/-- Whether one of the pieces that `n` bytes touch is poisoned. -/
def State.poisoned (s : State) (pa n : Nat) : Bool :=
  n != 0 && !s.poison.isEmpty && (List.range ((pa + n - 1) / 16 - pa / 16 + 1)).any fun k => s.poison.get false (pa / 16 + k)
/-- Poison the pieces that `n` bytes touch. -/
def State.setPoison (s : State) (pa n : Nat) : State :=
  { s with poison := (List.range ((pa + n - 1) / 16 - pa / 16 + 1)).foldl (fun p k => p.set false (pa / 16 + k) true) s.poison }

/-- A context, if it is configured and not terminated. -/
def State.context? (s : State) (ctx : Nat) : Option Context :=
  match s.contexts.find ctx with
  | some c => if c.configured && !c.terminated then some c else none
  | none => none
/-- The state with a context changed. -/
def State.updContext (s : State) (ctx : Nat) (f : Context → Context) : State :=
  match s.contexts.find ctx with
  | some c => { s with contexts := s.contexts.insert ctx (f c) }
  | none => s
/-- The partition of a context. -/
def State.partitionOf (s : State) (ctx : Nat) : Option Partition :=
  match s.contexts.find ctx with
  | some c => s.partitions.find c.part
  | none => none

/-- Whether `n` bytes from a physical address lie in the memory ranges of a partition (R291). -/
def Partition.spans (p : Partition) (pa n : Nat) : Bool := p.ranges.any fun r => decide (r.1 ≤ pa) && decide (pa + n ≤ r.1 + r.2)
/-- Whether `n` bytes from a physical address lie in the memory ranges of a context's partition (R291). -/
def State.inRanges (s : State) (ctx pa n : Nat) : Bool :=
  match s.partitionOf ctx with
  | none => false
  | some p => p.spans pa n

/-- The name under which the L2 holds a physical line (R286): private while a private name has claimed its frame, else canonical. -/
def State.lineName (s : State) (pa : Nat) : LineName :=
  match s.frames.get .free (pa / 4096) with
  | .claimed c v => .priv c (32 * v + pa / 128 % 32)
  | _ => .canon (pa / 128)
/-- The home slice of a name among the 384 slices of the package, and its set among the slice's 1,024 (R285, R286). -/
def LineName.home (n : LineName) : Nat × Nat :=
  let h := match n with | .priv c v => Config.homePrivate c v | .canon p => Config.homeCanonical p
  (h.1 % 384, h.2 % 1024)
/-- The ways of a set that a fill for a context may take: those of its partition's mask without the quarantined ones (R288, R451). A
fill for no context takes those of the partition that owns the line. -/
def State.fillWays (s : State) (ctx : Option Nat) (pa slice set : Nat) : List Nat :=
  let part := match ctx with
    | some c => s.partitionOf c
    | none => (s.partitions.find? fun (p : Nat × Partition) => p.2.spans pa 1).map Prod.snd
  match part with
  | none => []
  | some p => (List.range 16).filter fun w => p.ways / 2 ^ w % 2 == 1 && !s.quarantined.contains (slice, set, w)
/-- An access reaches a line's home slice (R285, R288): a line held becomes the most recently used one; else it is filled into a free way
or in place of the least recently used line of the ways that it may take. A write (`own`) makes it dirty in the name of a context. -/
def State.touchLine (s : State) (ctx : Option Nat) (pa : Nat) (own : Option (Option Nat)) : State :=
  let name := s.lineName pa
  let mark (l : L2Line) : L2Line := match own with | some o => { l with dirty := true, owner := o } | none => l
  match s.l2.find? (·.name == name) with
  | some l => { s with l2 := mark l :: s.l2.filter (·.name != name) }
  | none =>
    let (slice, set) := name.home
    let here := s.l2.filter fun l => l.slice == slice && l.set == set
    let ways := s.fillWays ctx pa slice set
    let new (w : Nat) : L2Line := mark ⟨slice, set, w, name, pa / 128, false, none⟩
    match ways.find? fun w => here.all (·.way != w) with
    | some w => { s with l2 := new w :: s.l2 }
    | none =>
      match (here.filter fun l => ways.contains l.way).getLast? with
      | some v => { s with l2 := new v.way :: s.l2.erase v }
      | none => s
/-- The lines that `n` bytes touch, by an address in each. -/
def lineAddrs (pa n : Nat) : List Nat :=
  if n = 0 then [] else (List.range ((pa + n - 1) / 128 - pa / 128 + 1)).map fun k => 128 * (pa / 128 + k)
/-- The lines of some bytes are read at their home slices. -/
def State.touchRead (s : State) (ctx : Option Nat) (pa n : Nat) : State :=
  (lineAddrs pa n).foldl (fun s a => s.touchLine ctx a none) s
/-- Bytes are performed at the home slice (R285, R287); `own` is the context whose store dirties the line, if any. -/
def State.writeBytes (s : State) (pa : Nat) (bs : List Byte) (own : Option Nat) : State :=
  let s := (lineAddrs pa bs.length).foldl (fun (s : State) a => s.touchLine own a (some own)) s
  { s with
    mem := Memory.writes s.mem pa bs
    poison := if s.poison.isEmpty then s.poison else clearPoison s.poison pa bs.length }

/-- The end of a page walk: a leaf's page, or the KIND, LEVEL and ENTRY of a fault (R291, R297). -/
inductive Walk where
  | page (vbase size pbase : Nat) (r w : Bool) (cls domain : Nat)
  | fault (kind level : Nat) (entry : DWord)
  deriving DecidableEq, Repr

/-- The index of a table entry and, for a leaf, the page size at a level (R289). -/
def walkIndex (va level : Nat) (g64 : Bool) : Nat × Nat :=
  match level with
  | 0 => (va / 2 ^ 48 % 16, 0)
  | 1 => (va / 2 ^ 39 % 512, 0)
  | 2 => (va / 2 ^ 30 % 512, 2 ^ 30)
  | 3 => (va / 2 ^ 21 % 512, 2 ^ 21)
  | _ => if g64 then (va / 2 ^ 16 % 32, 2 ^ 16) else (va / 2 ^ 12 % 512, 2 ^ 12)

/-- Whether a valid entry is malformed at a level (R290, R291). -/
def entryMalformed (e : DWord) (level size : Nat) : Bool :=
  let leaf := e.getLsbD 1
  let cls := (e.extractLsb' 8 4).toNat
  e.extractLsb' 48 4 != 0#4 || e.extractLsb' 5 3 != 0#3 || decide (5 ≤ cls) ||
  (leaf && decide (level ≤ 1)) || (!leaf && decide (4 ≤ level)) ||
  (e.getLsbD 4 && (leaf || level != 3)) || (e.getLsbD 3 && !e.getLsbD 2) ||
  (!(leaf && decide (2 ≤ cls)) && e.extractLsb' 52 12 != 0#12) ||
  (leaf && size != 0 && (4096 * (e.extractLsb' 12 36).toNat) % size != 0)

/-- Walk the tables from a level down (R289 to R291); the entries are read through the L2 as they stand. -/
def State.walkFrom (s : State) (ctx va : Nat) : Nat → Nat → Nat → Bool → Walk
  | 0, level, _, _ => .fault 2 level 0
  | fuel + 1, level, table, g64 =>
    let (idx, size) := walkIndex va level g64
    let e : DWord := BitVec.ofNat 64 (s.readNat (table + 8 * idx) 8)
    if !e.getLsbD 0 then .fault 1 level e
    else if entryMalformed e level size then .fault 2 level e
    else
      let addr := 4096 * (e.extractLsb' 12 36).toNat
      if e.getLsbD 1 then
        if s.inRanges ctx (addr + va % size) 1 then
          .page (va / size * size) size addr (e.getLsbD 2) (e.getLsbD 3) (e.extractLsb' 8 4).toNat (e.extractLsb' 52 12).toNat
        else .fault 3 level e
      else if s.inRanges ctx addr 4096 then s.walkFrom ctx va fuel (level + 1) addr (e.getLsbD 4)
      else .fault 3 level e
/-- The page walk of a context's virtual address (R291). -/
def State.walk (s : State) (ctx va : Nat) : Walk :=
  match s.contexts.find ctx with
  | none => .fault 1 0 0
  | some c => s.walkFrom ctx va 5 0 c.root false

/-- What an access does (R293). -/
inductive Access where
  | read
  | write
  | rmw
  | fetch
  deriving DecidableEq, Repr
/-- The ACCESS code of a fault record (R297). -/
def Access.code : Access → Nat
  | .read => 0
  | .write => 1
  | .rmw => 2
  | .fetch => 3
/-- Whether an access writes. -/
def Access.writes : Access → Bool
  | .write => true
  | .rmw => true
  | _ => false

/-- Whether a domain is the context's write domain or one of its read domains. -/
def Context.mayRead (c : Context) (d : Nat) : Bool := c.wdom == some d || c.rdoms.contains d

/-- A page through which an access goes. -/
def Translation.covers (x : Translation) (unit ctx va : Nat) : Bool :=
  x.unit == unit && x.ctx == ctx && decide (x.vbase ≤ va) && decide (va < x.vbase + x.size)
/-- The physical address of a virtual address of the page. -/
def Translation.phys (x : Translation) (va : Nat) : Nat := x.pbase + (va - x.vbase)
/-- A private name: CLASS 0 with W = 1 (R286). -/
def Translation.isPrivate (x : Translation) : Bool := x.cls == 0 && x.w

/-- Rows 2 and 3 of R293: the trap cause of an access to a page, if any. -/
def pageTrap (c : Context) (x : Translation) (a : Access) : Option Nat :=
  if a.writes && x.cls == 3 then some 0x0A
  else if !x.r || (a.writes && !x.w) || (decide (2 ≤ x.cls) && !c.mayRead x.domain) ||
      (a.writes && (x.cls == 2 || x.cls == 4) && c.wdom != some x.domain) then some 0x08
  else none
/-- The frame rule (R294): the frame's state after an access by a page's name, or none for a mapping trap. -/
def frameRule (f : FrameState) (x : Translation) (va : Nat) : Option FrameState :=
  match f with
  | .free => some (if x.isPrivate then .claimed x.ctx (va / 4096) else .canonical)
  | .claimed c v => if x.isPrivate && c == x.ctx && v == va / 4096 then some f else none
  | .canonical => if x.isPrivate then none else some f
  | .unit => none

/-- The number of the unit that stands for memory controller `k` (R292). -/
def controller (k : Nat) : Nat := 100000 + k % 16
/-- The controller that translates an address of a context (R292). -/
def controllerFor (ctx va : Nat) : Nat := controller (Config.controllerOf ctx (va / 4096))
/-- The unit number of core `core` of a cluster; 4 is the control core, 5 the yarder, 6 the intersection unit. -/
def unitOf (cluster core : Nat) : Nat := 8 * cluster + core
/-- The entries that a unit's filter, or a controller, can hold (R292, R293). -/
def filterSize (unit : Nat) : Nat := if 100000 ≤ unit then 8192 else 512
/-- A translation goes into a filter; a full one gives another up. -/
def State.fill (s : State) (x : Translation) : State :=
  if s.translations.any fun y => y.unit == x.unit && y.ctx == x.ctx && y.vbase == x.vbase && y.size == x.size then s
  else
    let mine := s.translations.filter (·.unit == x.unit)
    if mine.length < filterSize x.unit then { s with translations := x :: s.translations }
    else
      let others := match mine[Config.victim s.tick % mine.length]? with
        | some y => s.translations.erase y
        | none => s.translations
      { s with tick := s.tick + 1, translations := x :: others }

/-- Whether an address lies in the context's register window (R497). -/
def Context.inWindow (c : Context) (va : Nat) : Bool := c.regva != 0 && decide (c.regva ≤ va) && decide (va < c.regva + 524288)

/-- The outcome of an access to one address (R293): permitted under a page, a trap, a page fault, a page that the unit's
filter does not hold, or the register window (R497). -/
inductive Looked where
  | ok (pa : Nat) (page : Translation)
  | trap (cause : Nat)
  | fault (kind level : Nat) (entry : DWord)
  | miss
  | window (off : Nat)
  deriving DecidableEq, Repr

/-- The outcome of an access under a page (rows 2 to 5 of R293). -/
def State.checkPage (s : State) (c : Context) (x : Translation) (va : Nat) (a : Access) : Looked :=
  match pageTrap c x a with
  | some cause => .trap cause
  | none =>
    match frameRule (s.frames.get .free (x.phys va / 4096)) x va with
    | none => .trap 0x09
    | some _ => .ok (x.phys va) x

/-- The page that the copied fields of an L1 line stand for: the line's own 128 bytes (R281, R293). -/
def CacheLine.page (l : CacheLine) : Translation := ⟨l.unit, l.ctx, 128 * l.vline, 128, 128 * l.pline, l.r, l.w, l.cls, l.domain⟩
/-- The line of a path cache, if it is held (R281). -/
def State.line? (s : State) (kind : CacheKind) (unit ctx vline : Nat) : Option CacheLine :=
  s.caches.find? fun l => l.kind == kind && l.unit == unit && l.ctx == ctx && l.vline == vline
/-- The page under which a unit settles an access: one of its filter, or for a read the copied fields of an L1 line (R293). -/
def State.heldPage (s : State) (unit ctx va : Nat) (a : Access) : Option Translation :=
  match s.translations.find? (·.covers unit ctx va) with
  | some x => some x
  | none => if a == .read then (s.line? .l1 unit ctx (va / 128)).map (·.page) else none
/-- Look an address up in a unit's permission filter; an answered walk that found no page is held as a page of size 0 until
the access takes it. -/
def State.look (s : State) (unit ctx va : Nat) (a : Access) : Looked :=
  match s.context? ctx with
  | none => .miss
  | some c =>
    if c.inWindow va then .window (va - c.regva)
    else
      match s.heldPage unit ctx va a with
      | some x => s.checkPage c x va a
      | none =>
        match s.faulted.find? (fun w => w.unit == unit && w.ctx == ctx && w.vpage == va / 4096) with
        | some w => .fault w.kind w.level w.entry
        | none => .miss

/-- A permitted access through a page claims or marks the frame that it touches (R294). -/
def State.claim (s : State) (pa : Nat) (x : Translation) : State :=
  match frameRule (s.frames.get .free (pa / 4096)) x (x.vbase + (pa - x.pbase)) with
  | some f => { s with frames := s.frames.set .free (pa / 4096) f }
  | none => s
/-- A permitted access of a unit that waited for its own walk: the frame is claimed, and the unit's filter and the controller hold the
page from now on (R292 to R294). -/
def State.letIn (s : State) (ctx pa : Nat) (x : Translation) : State :=
  ((s.claim pa x).fill { x with unit := controllerFor ctx (x.vbase + (pa - x.pbase)) }).fill x

/-- Look an address up for a unit that waits for its own walk (an engine, a device write): a page of its filter, one that the
controller holds, or the walk's answer, under the same checks (R292, R293). -/
def State.lookWalk (s : State) (unit ctx va : Nat) (a : Access) : Looked :=
  match (if 2 ^ 52 ≤ va then none else s.context? ctx) with
  | none => .trap 0x08
  | some c =>
    if c.inWindow va then .window (va - c.regva)
    else
      match (s.translations.find? (·.covers unit ctx va)).or (s.translations.find? (·.covers (controllerFor ctx va) ctx va)) with
      | some x => s.checkPage c { x with unit := unit } va a
      | none =>
        match s.walk ctx va with
        | .fault k l e => .fault k l e
        | .page vb size pb r w cls dom => s.checkPage c ⟨unit, ctx, vb, size, pb, r, w, cls, dom⟩ va a
/-- Look an address up for a unit with a filter, or for the device itself (none), which has none but the controllers'. -/
def State.lookVia (s : State) (unit : Option Nat) (ctx va : Nat) (a : Access) : Looked :=
  s.lookWalk (unit.getD (controllerFor ctx va)) ctx va a
/-- Look an address up for the device itself. -/
def State.lookDevice (s : State) (ctx va : Nat) (a : Access) : Looked := s.lookVia none ctx va a

/-- Read `n` bytes of a context's memory for a unit; the first failing outcome stops it. -/
def State.readVia (s : State) (unit : Option Nat) (ctx va : Nat) : Nat → Except Looked (List Byte)
  | 0 => .ok []
  | n + 1 =>
    match s.lookVia unit ctx va .read with
    | .ok pa _ =>
      match s.readVia unit ctx (va + 1) n with
      | .ok bs => .ok (Memory.read s.mem pa :: bs)
      | .error e => .error e
    | e => .error e
/-- Read `n` bytes of a context's memory for the device. -/
def State.devRead (s : State) (ctx va n : Nat) : Except Looked (List Byte) := s.readVia none ctx va n
/-- The addresses that stand for the pages of `n` bytes. -/
def pageStarts (va n : Nat) : List Nat :=
  if n = 0 then [] else va :: (List.range ((va + n - 1) / 4096 - va / 4096)).map fun k => 4096 * (va / 4096 + 1 + k)
/-- The first outcome that keeps a unit from `n` bytes of a context's memory, with its address. -/
def State.barsVia (s : State) (unit : Option Nat) (ctx va n : Nat) (a : Access) : Option (Nat × Looked) :=
  (pageStarts va n).findSome? fun p =>
    match s.lookVia unit ctx p a with
    | .ok _ _ => none
    | r => some (p, r)
/-- The first outcome that keeps the device from `n` bytes of a context's memory, with its address. -/
def State.devBars (s : State) (ctx va n : Nat) (a : Access) : Option (Nat × Looked) := s.barsVia none ctx va n a
/-- A unit's permitted access to `n` bytes: frames are claimed, the unit's filter and the controllers hold the pages (R292 to R294), and a
read reaches its lines. -/
def State.touchVia (s : State) (unit : Option Nat) (ctx va n : Nat) (a : Access) : State :=
  let s := (pageStarts va n).foldl (fun (s : State) p => match s.lookVia unit ctx p a with | .ok pa x => s.letIn ctx pa x | _ => s) s
  if a.writes then s
  else (lineAddrs va n).foldl (fun (s : State) p => match s.lookVia unit ctx (max va p) a with | .ok pa _ => s.touchLine (some ctx) pa none | _ => s) s
/-- The device's permitted access to `n` bytes. -/
def State.touch (s : State) (ctx va n : Nat) (a : Access) : State := s.touchVia none ctx va n a
/-- Whether a byte that a unit reads is poisoned. -/
def State.poisonVia (s : State) (unit : Option Nat) (ctx va n : Nat) : Bool :=
  !s.poison.isEmpty && (List.range n).any fun k => match s.lookVia unit ctx (va + k) .read with | .ok pa _ => s.poisoned pa 1 | _ => false
/-- Bytes from an address, cut at multiples of 16 (R163); `n` bounds the number of pieces. -/
def pieces16 : Nat → Nat → List Byte → List (Nat × List Byte)
  | 0, _, _ => []
  | _, _, [] => []
  | n + 1, va, bs =>
    let k := 16 - va % 16
    (va, bs.take k) :: pieces16 n (va + k) (bs.drop k)

/-- A register of a context's register window as it is stored (R497). -/
def State.winReg (s : State) (ctx off : Nat) : DWord :=
  match s.contexts.find ctx with | some c => c.regs.get 0 off | none => 0
/-- Store a register of a context's register window. -/
def State.setReg (s : State) (ctx off : Nat) (v : DWord) : State :=
  s.updContext ctx fun c => { c with regs := c.regs.set 0 off v }
/-- Add 1 to a saturating counter field of `n` bits at bit `lo` of a window register. -/
def State.bumpReg (s : State) (ctx off lo n : Nat) : State :=
  let r := (s.winReg ctx off).toNat
  if r / 2 ^ lo % 2 ^ n = 2 ^ n - 1 then s else s.setReg ctx off (BitVec.ofNat 64 (r + 2 ^ lo))

/-- An armed injection of RAS_INJ meets the first write of its context to its piece (R456): two bits of the piece flip, and the slice
checks the line at once: nothing else comes about before the check. -/
def State.injected (s : State) (ctx va pa n : Nat) : State :=
  let r := s.winReg ctx 0xD8
  if r.getLsbD 63 && n != 0 && decide (va / 16 ≤ (r.extractLsb' 4 48).toNat) && decide ((r.extractLsb' 4 48).toNat ≤ (va + n - 1) / 16) then
    let piece := pa / 16 + ((r.extractLsb' 4 48).toNat - va / 16)
    let pos := match s.l2.find? (·.name == s.lineName pa) with
      | some l => (l.slice, l.set, l.way)
      | none => ((s.lineName pa).home.1, (s.lineName pa).home.2, 0)
    let s := (s.setReg ctx 0xD8 (r &&& 0x7FFFFFFFFFFFFFFF#64)).setPoison (16 * piece) 16
    { s with checks := s.checks ++ [.l2 ctx (piece / 8) pos.1 pos.2.1 pos.2.2] }
  else s
/-- A write of a context is performed at the home slice, where an armed injection may meet it (R285, R287, R456). -/
def State.storeBytes (s : State) (ctx va pa : Nat) (bs : List Byte) : State :=
  (s.writeBytes pa bs (some ctx)).injected ctx va pa bs.length

/-- Write bytes of a context's memory for a unit, piece by piece; pages that are not present or not writable are passed over. -/
def State.writeVia (s : State) (unit : Option Nat) (ctx va : Nat) (bs : List Byte) : State :=
  (pieces16 (bs.length + 1) va bs).foldl (fun (s : State) (x : Nat × List Byte) =>
    match s.lookVia unit ctx x.1 .write with
    | .ok pa p => (s.letIn ctx pa p).storeBytes ctx x.1 pa x.2
    | _ => s) s
/-- Write bytes of a context's memory for the device. -/
def State.devWrite (s : State) (ctx va : Nat) (bs : List Byte) : State := s.writeVia none ctx va bs
/-- Poison a piece of a context's memory for a unit that carries poison there (R440). -/
def State.poisonAt (s : State) (unit : Option Nat) (ctx va n : Nat) : State :=
  match s.lookVia unit ctx va .write with
  | .ok pa _ => s.setPoison pa n
  | _ => s
/-- Whether a device agent may write an address of a context (R474). -/
def State.devWritable (s : State) (ctx va : Nat) : Bool :=
  match s.lookDevice ctx va .write with
  | .ok _ _ => true
  | _ => false
/-- A number of `n` bytes of a context's memory, 0 where it cannot be read. -/
def State.devNat (s : State) (ctx va n : Nat) : Nat :=
  match s.devRead ctx va n with
  | .ok bs => leNat bs
  | .error _ => 0

/-- The sets and ways of a path cache (R281). -/
def CacheKind.shape (k : CacheKind) : Nat × Nat :=
  match k with
  | .l1 => (128, 8)
  | .code => (64, 4)
  | .constant => (32, 4)
  | .sampler => (64, 8)
  | .tile => (128, 16)
/-- The set of a path cache that a line of a context falls into. -/
def CacheKind.setOf (k : CacheKind) (ctx vline : Nat) : Nat := Config.cacheSet k.shape.1 ctx vline % k.shape.1
/-- Fill a line: a full set gives one of its lines up (R281, the order of replacement is open). -/
def State.fillLine (s : State) (l : CacheLine) : State :=
  let mine := s.caches.filter fun o => o.kind == l.kind && o.unit == l.unit && l.kind.setOf o.ctx o.vline == l.kind.setOf l.ctx l.vline
  if mine.length < l.kind.shape.2 then { s with caches := l :: s.caches }
  else
    let others := match mine[Config.victim s.tick % mine.length]? with
      | some o => s.caches.erase o
      | none => s.caches
    { s with tick := s.tick + 1, caches := l :: others }
/-- The bytes of a 128-byte line of memory. -/
def State.lineBytes (s : State) (pa : Nat) : BitVec 1024 := BitVec.ofNat 1024 (s.readNat (pa / 128 * 128) 128)
/-- Read `n` bytes within a line through a path cache: the line held, or the line filled with the bytes `fresh` that its home slice gives
(R282). A line that is poisoned anywhere is not kept. -/
def State.cacheRead (s : State) (kind : CacheKind) (unit ctx va pa n : Nat) (x : Translation) (fresh : BitVec 1024) :
    List Byte × State :=
  let cut (bytes : BitVec 1024) := leBytes n (bytes.toNat / 256 ^ (va % 128))
  match s.line? kind unit ctx (va / 128) with
  | some l => (cut l.bytes, s)
  | none =>
    let s := s.touchLine (some ctx) pa none
    if s.poisoned (pa / 128 * 128) 128 then (cut fresh, s)
    else (cut fresh, s.fillLine ⟨kind, unit, ctx, va / 128, pa / 128, x.r, x.w, x.cls, x.domain, fresh⟩)
/-- A store writes its bytes into the L1 line where that line is held (R282). -/
def CacheLine.patch (l : CacheLine) (off : Nat) (bs : List Byte) : CacheLine :=
  let m : BitVec 1024 := BitVec.ofNat 1024 ((256 ^ bs.length - 1) * 256 ^ off)
  { l with bytes := (l.bytes &&& ~~~m) ||| (BitVec.ofNat 1024 (leNat bs * 256 ^ off) &&& m) }
/-- Whether a line is an L1 line of a context in one of some units that came from a physical line: a virtual name of its own for each
(R281, R284). -/
def CacheLine.isL1Of (l : CacheLine) (units : List Nat) (ctx pline : Nat) : Bool :=
  l.kind == .l1 && units.contains l.unit && l.ctx == ctx && l.pline == pline
/-- A performed store updates the L1 lines of its own core, or of its gang's fused L1, that hold its bytes (R268, R282). -/
def State.patchL1 (s : State) (units : List Nat) (ctx pa : Nat) (bs : List Byte) : State :=
  { s with caches := s.caches.map fun l => if l.isL1Of units ctx (pa / 128) then l.patch (pa % 128) bs else l }
/-- An access past the L1 makes the lines of its address invalid there (R282). -/
def State.dropL1 (s : State) (units : List Nat) (ctx pa : Nat) : State :=
  { s with caches := s.caches.filter fun l => !l.isL1Of units ctx (pa / 128) }
/-- Drop the lines of a context in caches of a kind of some units. -/
def State.dropLines (s : State) (kind : CacheKind) (units : List Nat) (ctx : Nat) : State :=
  { s with caches := s.caches.filter fun l => !(l.kind == kind && units.contains l.unit && l.ctx == ctx) }
/-- Drop one line of a unit's cache. -/
def State.dropLine (s : State) (kind : CacheKind) (unit ctx vline : Nat) : State :=
  { s with caches := s.caches.filter fun l => !(l.kind == kind && l.unit == unit && l.ctx == ctx && l.vline == vline) }

/-- A team's gang. -/
def State.gangOf (s : State) (t : Team) : Option Gang := s.gangs.find t.gang
/-- Whether a team's gang runs with a fused L1 (R284). -/
def Gang.fused (g : Gang) : Bool := g.kernel.fuse && decide (2 ≤ g.size)
/-- The unit whose L1 holds a team's line at a virtual address (R284); the control core's L1 belongs to no fused L1 (R354). -/
def State.l1Unit (s : State) (t : Team) (va : Nat) : Nat :=
  match s.gangOf t with
  | some g => if g.fused && !t.isCtl then unitOf g.cluster (g.baseCore + va / 128 % g.size) else unitOf t.cluster t.core
  | none => unitOf t.cluster t.core
/-- Every unit of a team's L1. -/
def State.l1Units (s : State) (t : Team) : List Nat :=
  match s.gangOf t with
  | some g => if g.fused && !t.isCtl then (List.range g.size).map fun i => unitOf g.cluster (g.baseCore + i) else [unitOf t.cluster t.core]
  | none => [unitOf t.cluster t.core]
/-- Acquire invalidation of the generic L1 lines of a team's context (R283). -/
def State.acquire (s : State) (t : Team) : State := s.dropLines .l1 (s.l1Units t) t.ctx

/-- A crew of a gang. -/
def Gang.crew? (g : Gang) (k : Nat) : Option Crew := g.crews[k]?
/-- A write to word `w` of a window sets both dirty bits of its granule (R446). -/
def Crew.soiled (c : Crew) (w : Nat) : Crew := { c with rb := { c.rb with dirty := c.rb.dirty.set 0 (w / 64) 3 } }
/-- The state with a gang changed. -/
def State.updGang (s : State) (id : Nat) (f : Gang → Gang) : State :=
  match s.gangs.find id with
  | some g => { s with gangs := s.gangs.insert id (f g) }
  | none => s
/-- The state with a crew changed. -/
def State.updCrew (s : State) (gang k : Nat) (f : Crew → Crew) : State :=
  s.updGang gang fun g => { g with crews := g.crews.modify k f }
/-- A team's crew. -/
def State.crewOf (s : State) (t : Team) : Option Crew := (s.gangOf t).bind (·.crew? t.crew)
/-- A due event that waits for no other: it has a stream of its own. -/
def State.post (s : State) (delay : Nat) (ev : Ev) : State :=
  { s with serial := s.serial + 1, agenda := s.agenda ++ [⟨s.serial, s.clk + delay, ev⟩] }
/-- A due event behind the earlier events of a stream. -/
def State.postIn (s : State) (stream delay : Nat) (ev : Ev) : State :=
  { s with agenda := s.agenda ++ [⟨stream, s.clk + delay, ev⟩] }
/-- The stores that a team's crew holds back (R274). -/
def State.heldOf (s : State) (t : Team) : List (Nat × Nat × Byte) :=
  if t.kernel.rollback then match s.crewOf t with | some c => c.rb.held | none => [] else []
/-- Bytes as a team of a rollback crew reads them: its held stores lie over what memory and the L1 give (R274). -/
def overlay (held : List (Nat × Nat × Byte)) (pa : Nat) (bs : List Byte) : List Byte :=
  if held.isEmpty then bs
  else bs.mapIdx fun k b => match held.find? (·.2.1 == pa + k) with | some h => h.2.2 | none => b

/-- The physical line of an access, none for a register of the window. -/
def Op.line (o : Op) : Option Nat := match o.place with | .mem pa _ _ => some (pa / 128) | .reg _ => none
/-- The home slice of an access (R287); the register windows are a place of their own. -/
def Op.slice (o : Op) : Nat := match o.place with | .mem _ k _ => k | .reg _ => 384
/-- Whether an access only reads through a cache. -/
def Op.isLoad (o : Op) : Bool := match o.kind with | .load _ => true | _ => false
/-- Whether an access is a store to memory that its own core's loads read from the write buffer (R282). -/
def Op.buffered (o : Op) : Bool := match o.kind, o.place with | .store _, .mem _ _ _ => true | _, _ => false
/-- Whether an access is issued by a core. -/
def Op.ofCore (o : Op) (cluster core : Nat) : Bool := o.cluster == cluster && o.core == core
/-- Whether an access takes a ticket of a sequencer (R61, R183, R209). -/
def Op.ticketed (o : Op) : Bool := match o.ord with | some c => decide (6 ≤ c.toNat) | none => false
/-- Whether an access is a release of cluster scope or wider: `sstrl`, or an atomic or reduction of codes 4 to 7 (R183, R209, R262). -/
def Op.releases (o : Op) : Bool :=
  match o.kind, o.ord with
  | .storePast _, _ => true
  | .rmw _ _ _, some c => decide (4 ≤ c.toNat)
  | _, _ => false
/-- Whether an access is an acquire of cluster scope or wider: `sldaq`, or a return form of codes 4 to 7 (R183, R209, R262). -/
def Op.acquires (o : Op) : Bool :=
  match o.kind, o.ord with
  | .loadPast, _ => true
  | .rmw _ _ _, some c => decide (4 ≤ c.toNat) && o.dest.isSome
  | _, _ => false
/-- The scope of an order-and-scope code (R61): 0 crew, 1 cluster, 2 device or system, which agree within one package. -/
def reachOf (ord : BitVec 3) : Nat := match ord.toNat with | 0 => 0 | 1 => 1 | 4 => 1 | _ => 2

/-- Whether the accesses `ops` of a team's core have been performed at a scope, of all the traffic `all` (R258, R282). At crew scope a store in
the core's write buffer is; at cluster scope one that the cluster's teams read. At a wider scope nothing that teams of the cluster
may have read is still on its way. -/
def quietIn (all ops : List Op) (team cluster core scope : Nat) : Bool :=
  let mine (o : Op) : Bool := o.team == team || (o.ofCore cluster core && o.buffered)
  match scope with
  | 0 => ops.all fun o => !(o.team == team) || o.buffered
  | 1 => ops.all fun o => !mine o || o.seen.contains cluster
  | _ => ops.all (fun o => !mine o) && all.all fun o => !o.seen.contains cluster
/-- Whether a team's earlier accesses have been performed at a scope (R233). A crew whose teams run on two cores, or a handoff between the
members of a gang, reaches beyond one write buffer. -/
def State.quiet (s : State) (id : Nat) (t : Team) (scope : Nat) : Bool := quietIn s.traffic s.traffic id t.cluster t.core scope
/-- Whether an earlier access holds a later one back: one team's accesses to one slice arrive in order (R287), and so do the stores and
ordered accesses of one core to a line (R282). -/
def Op.holds (old o : Op) : Bool :=
  (old.team == o.team && (old.slice == o.slice || (old.ticketed && o.ticketed))) ||
  (old.ofCore o.cluster o.core && old.line == o.line && old.line.isSome && !old.isLoad && !o.isLoad)
/-- Whether a store on its way covers the byte at a physical address. -/
def Op.covers (o : Op) (a : Nat) : Bool :=
  match o.kind, o.place with
  | .store d, .mem q _ _ => decide (q ≤ a) && decide (a < q + d.length)
  | _, _ => false
/-- The stores of its own team that a load reads are those issued before it. -/
def Op.before (older : List Op) (o p : Op) : Bool := p.team != o.team || older.any (·.serial == p.serial)
/-- The stores of a core's write buffer to a line that a team's load reads: `own` cuts the team's own at the load (R282). -/
def State.buffer (s : State) (cluster core line : Nat) (own : Op → Bool) : List Op :=
  s.traffic.filter fun o => o.buffered && o.ofCore cluster core && o.line == some line && own o
/-- Whether a generic load needs no slice: its L1 holds its line, or its core's write buffer all of its bytes (R282). -/
def State.servedHere (s : State) (older : List Op) (o : Op) : Bool :=
  match o.kind, o.place with
  | .load .l1, .mem pa _ _ => (s.line? .l1 o.unit o.ctx (o.va / 128)).isSome ||
      (List.range o.n).all fun k => (s.buffer o.cluster o.core (pa / 128) (o.before older)).any (·.covers (pa + k))
  | _, _ => false
/-- Whether an access can be performed now, with `older` the traffic issued before it: the earlier accesses that hold it back are done,
but that a load which needs no slice passes the stores of its core's write buffer, a release's at its scope, and no store that its cluster's teams read already is on its way to the line that it writes. -/
def State.performable (s : State) (older : List Op) (o : Op) : Bool :=
  older.all (fun p => !p.holds o || (p.buffered && s.servedHere older o)) &&
  (!o.releases || quietIn s.traffic older o.team o.cluster o.core (match o.ord with | some c => reachOf c | none => 0)) &&
  (o.isLoad || s.traffic.all fun p => p.serial == o.serial || !(p.line == o.line && p.line.isSome && p.seen.contains o.cluster))
/-- Whether the teams of cluster `c` can come to read a store before the others do: no relation orders them (R258, R268); a ticketed
store is performed for all at once (R270). -/
def State.spreadable (s : State) (older : List Op) (o : Op) (c : Nat) : Bool :=
  (match o.kind with | .store _ => true | .storePast _ => !o.ticketed | _ => false) && o.line.isSome && !o.seen.contains c &&
  s.performable older o && s.traffic.all fun p => p.serial == o.serial || !(p.line == o.line && !p.seen.isEmpty)

/-- Bytes from a physical address with the bytes of a store laid over them. -/
def Op.lay (o : Op) (pa : Nat) (bs : List Byte) : List Byte :=
  let lay (q : Nat) (d : List Byte) : List Byte :=
    bs.mapIdx fun k b => if q ≤ pa + k && pa + k < q + d.length then d.getD (pa + k - q) b else b
  match o.kind, o.place with
  | .store d, .mem q _ _ => lay q d
  | .storePast d, .mem q _ _ => lay q d
  | _, _ => bs
/-- The bytes of memory from a physical address as the teams of a cluster read them at the slices: with the stores that they see already. -/
def State.seenBytes (s : State) (cluster pa n : Nat) : List Byte :=
  let near := s.traffic.filter fun o => o.line == some (pa / 128) && o.seen.contains cluster
  near.foldl (fun bs o => o.lay pa bs) (s.readBytes pa n)
/-- A read of a core through the L1 of a unit: the line held, or filled from the slices, under the core's write buffer and the held stores of
its crew (R274, R282). -/
def State.readL1 (s : State) (unit cluster core ctx va pa n : Nat) (x : Translation) (own : Op → Bool)
    (held : List (Nat × Nat × Byte)) : List Byte × State :=
  let fresh : BitVec 1024 := BitVec.ofNat 1024 (leNat (s.seenBytes cluster (128 * (pa / 128)) 128))
  let (bs, s') := s.cacheRead .l1 unit ctx va pa n x fresh
  (overlay held pa ((s.buffer cluster core (pa / 128) own).foldl (fun bs o => o.lay pa bs) bs), s')
/-- Whether a read of a core meets poison: the piece is poisoned and neither the L1, the write buffer nor the crew's held stores give
its bytes (R274, R282, R441). -/
def State.meetsPoison (s : State) (unit cluster core ctx va pa n : Nat) (own : Op → Bool) (held : List (Nat × Nat × Byte)) : Bool :=
  s.poisoned pa n && (s.line? .l1 unit ctx (va / 128)).isNone &&
  !((List.range n).all fun k => held.any (·.2.1 == pa + k) ||
    (s.buffer cluster core (pa / 128) own).any (·.covers (pa + k)))

/-- A store of the traffic is performed for everyone (R282, R285): the L1 lines of its core take it, or give their bytes up where it went past
the L1. -/
def State.performStore (s : State) (o : Op) (units : List Nat) (pa : Nat) (bs : List Byte) (past : Bool) : State :=
  (if past then s.dropL1 units o.ctx pa else s.patchL1 units o.ctx pa bs).storeBytes o.ctx o.va pa bs
/-- The L1s of the core, or of the fused gang, that issued an access. -/
def State.opUnits (s : State) (o : Op) : List Nat :=
  match s.teams.find o.team with
  | some t => s.l1Units t
  | none => [o.unit]
/-- An access leaves the traffic. -/
def State.takeOp (s : State) (o : Op) : State := { s with traffic := s.traffic.filter (·.serial != o.serial) }
/-- The stores that the teams of a cluster read already are performed for everyone. -/
def State.settleSeen (s : State) (cluster : Nat) : State :=
  (s.traffic.filter (·.seen.contains cluster)).foldl (fun (s : State) o =>
    match o.kind, o.place with
    | .store bs, .mem pa _ _ => (s.takeOp o).performStore o (s.opUnits o) pa bs false
    | .storePast bs, .mem pa _ _ => (s.takeOp o).performStore o (s.opUnits o) pa bs true
    | _, _ => s) s

/-- The L1s that the teams of crew `k` of a gang read through (R284, R354). -/
def Gang.crewUnits (g : Gang) (k : Nat) (c : Crew) : List Nat :=
  (if g.fused then (List.range g.size).map fun i => unitOf g.cluster (g.baseCore + i) else [unitOf g.cluster c.core]) ++
    (if g.kernel.hasCtl && k == 0 then [unitOf g.cluster 4] else [])
/-- Held bytes, oldest first, gathered into the stores of the runs in which they follow one another within a 16-byte piece: a whole piece
is one store again (R163, R440). -/
def heldRuns : List (Nat × Nat × Byte) → List (Nat × Nat × List Byte)
  | [] => []
  | (va, pa, b) :: hs =>
    match heldRuns hs with
    | (va', pa', bs) :: rs =>
      if pa + 1 = pa' && va + 1 = va' && pa % 16 != 15 then (va, pa, b :: bs) :: rs else (va, pa, [b]) :: (va', pa', bs) :: rs
    | [] => [(va, pa, [b])]
/-- Held bytes in their final state: for each physical byte its newest store, by rising address. -/
def heldFinal (held : List (Nat × Nat × Byte)) : List (Nat × Nat × Byte) :=
  let m : SMap (Nat × Byte) := held.reverse.foldl (fun m h => m.insert h.2.1 (h.1, h.2.2)) []
  m.map fun p => (p.2.1, p.1, p.2.2)
/-- The held stores of a crew drain: they are performed together, and the lines of the crew's own L1 take them
(R274, R282). -/
def State.drainHeld (s : State) (gang k : Nat) : State :=
  match s.gangs.find gang with
  | none => s
  | some g =>
    match g.crew? k with
    | none => s
    | some c =>
      ((heldRuns (heldFinal c.rb.held)).foldl (fun (s : State) (h : Nat × Nat × List Byte) =>
        (s.patchL1 (g.crewUnits k c) g.ctx h.2.1 h.2.2).storeBytes g.ctx h.1 h.2.1 h.2.2) (s.settleSeen g.cluster)).updCrew gang k
          fun c => { c with rb := { c.rb with held := [] } }
/-- The entries of a core's interval store buffer: the 16-byte pieces that each rollback crew of the core holds (R448). -/
def State.heldEntries (s : State) (cluster core : Nat) : Nat :=
  ((s.gangs.flatMap fun g => if g.2.cluster = cluster && (match g.2.residency with | .saved _ => false | _ => true) then g.2.crews.filter (·.core == core) else []).map
    fun c => (c.rb.held.map (·.2.1 / 16)).eraseDups.length).foldl (· + ·) 0

end Sys2Proof.Machine
end

