-- ==== Sys2Proof/Machine/Report.lean ====
section
/-! DEFINITION. What the device reports: context events (R493), trace records and trigger pulses (R475, R476, R478, R479),
halts and their event records (R469, R474), page-fault records (R297). -/

namespace Sys2Proof.Machine

/-- The eight 8-byte words of an event flit (R493). -/
def eventWords (e : EventRec) (ctx part : Nat) : List DWord :=
  [BitVec.ofNat 64 (e.sn % 2 ^ 32 + 2 ^ 32 * e.kind + 2 ^ 48 * ctx + 2 ^ 56 * part), BitVec.ofNat 64 e.time] ++
  ((List.range 6).map fun k => e.args.getD k 0)
/-- Raise an event of a context: it takes the context's next sequence number, is kept among the last 4,096 and is sent to the
node of the channel that configured the context (R493). -/
def State.raise (s : State) (ctx kind : Nat) (args : List DWord) : State :=
  match s.contexts.find ctx with
  | none => s
  | some c =>
    let e : EventRec := ⟨c.eventSeq, kind, s.clk, args⟩
    let all := c.events ++ [e]
    { s with
      contexts := s.contexts.insert ctx { c with eventSeq := (c.eventSeq + 1) % 2 ^ 32, events := all.drop (all.length - 4096) }
      sent := s.sent ++ [⟨c.channel, eventWords e ctx c.part⟩] }

/-- The status page of a channel (R494): offset and value of each word. -/
def State.statusPage (s : State) (ch : Nat) : List (Nat × Word) :=
  match s.channels.find ch with
  | none => []
  | some c => [(0, c.lastAcc), (4, c.lastDone)] ++
      s.contexts.filterMap fun x => if x.2.channel = ch then some (8 + 4 * x.1, BitVec.ofNat 32 (x.2.eventSeq - 1)) else none

/-- DBG register offsets in the register window (R480, R497). -/
def dbg (off : Nat) : Nat := 0x800 + off
/-- The lines of a capture field of DBG_CAP that a pulse meets: enabled and on its line (R479). -/
def capHit (cap lines : DWord) (lo : Nat) : Bool :=
  cap.getLsbD (lo + 7) && lines.getLsbD (cap.extractLsb' lo 6).toNat
/-- DBG_CAP as its fields read: RUN and GATE read 1 while START and FILTER are disabled (R479). -/
def capRead (cap : DWord) : DWord :=
  cap ||| (if cap.getLsbD 15 then 0#64 else 1#64 <<< 62) ||| (if cap.getLsbD 7 then 0#64 else 1#64 <<< 61)
/-- DBG_CAP after pulses on granted lines, in the order FREEZE, STOP, START, FILTER (R479); `now` are the lines that pulse in this clk, so a
START that has come in the same clk outlasts a STOP. -/
def capPulse (cap lines now : DWord) : DWord :=
  let cap := if capHit cap lines 24 then cap ||| (1#64 <<< 63) else cap
  let cap := if capHit cap lines 16 && !capHit cap now 8 then cap &&& ~~~(1#64 <<< 62) else cap
  let cap := if capHit cap lines 8 then cap ||| (1#64 <<< 62) else cap
  if capHit cap lines 0 then cap ^^^ (1#64 <<< 61) else cap
/-- Whether a context's capture runs (R479). -/
def capRuns (cap : DWord) : Bool := (capRead cap).getLsbD 62 && (capRead cap).getLsbD 61 && !cap.getLsbD 63

/-- Whether trace records, samples and triggers of a context are permitted: its debug right includes TRACE (R462, R464). -/
def State.mayTrace (s : State) (ctx : Nat) : Bool := (s.winReg ctx (dbg 0)).getLsbD 3
/-- Produce a 32-byte record in a ring of a context (R475); `buf` and `ptr` are the offsets of DBG_TBUF or DBG_SBUF and of
its counter. Records at or above the entry count of a ring that does not wrap are counted and not written. -/
def State.ringRecord (s : State) (ctx buf ptr : Nat) (bytes : List Byte) : State :=
  let b := s.winReg ctx buf
  let c := (s.winReg ctx ptr).toNat
  let log := (b.extractLsb' 0 5).toNat
  if decide (12 ≤ log) && decide (log ≤ 30) then
    let n := 2 ^ log / 32
    let s := if b.getLsbD 6 || decide (c < n) then
      s.devWrite ctx (4096 * (b.extractLsb' 12 40).toNat + 32 * (c % n)) bytes else s
    s.setReg ctx ptr (BitVec.ofNat 64 (c + 1))
  else s

/-- The lines that a context's trigger slots pulse for a source and its argument (R478). -/
def State.trigLines (s : State) (ctx src arg : Nat) : DWord :=
  (List.range 8).foldl (fun acc i =>
    let r := s.winReg ctx (dbg (0x100 + 8 * i))
    let want := (r.extractLsb' 0 32).toNat
    let line := (r.extractLsb' 32 6).toNat
    let hit := match src with
      | 1 => want % 256 == 0 || want % 256 == arg
      | 2 => want == arg
      | 3 => want == 0 || want == arg
      | _ => true
    if r.getLsbD 63 && s.mayTrace ctx && (r.extractLsb' 48 8).toNat == src && hit && (s.winReg ctx (dbg 0x08)).getLsbD line
    then acc ||| (1#64 <<< line) else acc) 0
/-- Whether a context produces a trace record of code `code` now (R475, R479). -/
def State.traces (s : State) (ctx code : Nat) : Bool :=
  s.mayTrace ctx && (s.winReg ctx (dbg 0x60)).getLsbD 63 && (s.winReg ctx (dbg 0x60)).getLsbD code && capRuns (s.winReg ctx (dbg 0x38))
/-- Whether the trace ring of a context, which does not wrap, has become full since `s0` (R475, R478). -/
def State.ringFilled (s s0 : State) (ctx : Nat) : Bool :=
  let b := s.winReg ctx (dbg 0x40)
  !b.getLsbD 6 && s.winReg ctx (dbg 0x50) != s0.winReg ctx (dbg 0x50) &&
    s.winReg ctx (dbg 0x50) == BitVec.ofNat 64 (2 ^ (b.extractLsb' 0 5).toNat / 32)

/-- A context's capture after pulses on lines, of which it meets those it is granted (R478). -/
def Context.capture (c : Context) (lines now : DWord) : Context :=
  let granted := c.regs.get 0 (dbg 0x08)
  { c with regs := c.regs.set 0 (dbg 0x38) (capPulse (c.regs.get 0 (dbg 0x38)) (lines &&& granted) (now &&& granted)) }
/-- A trigger marker of a context: a trace record of code 14 where its capture and mask ask for it (R476). Answers the lines that the event makes
its trigger slots pulse in their turn: those of source 2, and of source 6 where the record fills the ring (R478). -/
def State.marker (s : State) (ctx line : Nat) : State × DWord :=
  if s.traces ctx 14 then
    let s1 := s.ringRecord ctx (dbg 0x40) (dbg 0x50)
      (leBytes 8 0 ++ leBytes 8 s.clk ++ leBytes 12 0 ++ leBytes 1 14 ++ leBytes 1 0xFF ++ leBytes 2 line)
    (s1, s1.trigLines ctx 2 14 ||| (if s1.ringFilled s ctx then s1.trigLines ctx 6 0 else 0))
  else (s, s.trigLines ctx 2 14)
/-- The trigger markers of a context for pulses on its granted lines. -/
def State.markers (s : State) (ctx : Nat) (lines : DWord) : State × DWord :=
  ((List.range 64).filter fun l => lines.getLsbD l && (s.winReg ctx (dbg 0x08)).getLsbD l).foldl (fun x l =>
    let y := x.1.marker ctx l
    (y.1, x.2 ||| y.2)) (s, 0)
/-- The lines of a mask for which a condition on the line holds. -/
def linesWhere (lines : DWord) (f : Nat → Bool) : DWord :=
  ((List.range 64).filter fun l => lines.getLsbD l && f l).foldl (fun m l => m ||| (1#64 <<< l)) 0
/-- Whether a pulse on a line is one of its own: it comes 4 clk or more after the line's last one, else the two merge (R478, log entry 22). -/
def State.lineRests (s : State) (line : Nat) : Bool :=
  match s.pulsed.find line with
  | none => true
  | some k => decide (k + 4 ≤ s.clk)
/-- The lines pulse at this clk. -/
def State.markPulsed (s : State) (lines : DWord) : State :=
  { s with pulsed := ((List.range 64).filter fun l => lines.getLsbD l).foldl (fun m l => m.insert l s.clk) s.pulsed }
/-- Every context's capture meets the pulses on the lines that it is granted (R478, R479). -/
def State.captures (s : State) (lines : DWord) : State :=
  let now := linesWhere (BitVec.allOnes 64) fun l => s.pulsed.find l == some s.clk
  { s with contexts := s.contexts.map fun (p : Nat × Context) => (p.1, p.2.capture lines now) }
/-- Pulses on trigger lines (R478): those that do not merge into an earlier pulse reach every context's capture, and their markers are trace events that may
pulse further lines. A line pulses once in a clk, so 65 rounds are enough. -/
def State.pulses : Nat → State → DWord → State
  | 0, s, _ => s
  | n + 1, s, lines =>
    if lines = 0 then s
    else
      let fresh := linesWhere lines s.lineRests
      let s := (s.markPulsed lines).captures fresh
      let x := s.contexts.foldl (fun (x : State × DWord) (p : Nat × Context) =>
        let y := x.1.markers p.1 fresh
        (y.1, x.2 ||| y.2)) (s, 0)
      State.pulses n x.1 x.2
/-- Pulses on trigger lines and all that they lead to. -/
def State.pulse (s : State) (lines : DWord) : State := State.pulses 65 s lines
/-- A trigger source of a context fires (R478). -/
def State.trigger (s : State) (ctx src arg : Nat) : State := s.pulse (s.trigLines ctx src arg)

/-- The lowest nonzero word of a mask: its index and value (R474). -/
def lowWord (m : Mask) : Nat × Word :=
  match (List.range 32).find? (fun w => maskWord m w != 0) with
  | some w => (w, maskWord m w)
  | none => (0xFF, 0)
/-- A trace event of a team at a clk (R476): a record where the context's capture and mask ask for it, and the trigger source 2. -/
def State.traceAt (s : State) (time : Nat) (t : Team) (pc : Word) (code detail : Nat) : State :=
  let s1 :=
    if s.traces t.ctx code then
      let (i, w) := lowWord t.ex
      let s1 := s.ringRecord t.ctx (dbg 0x40) (dbg 0x50) (dwordBytes t.ident ++ leBytes 8 time ++ wordBytes pc ++
        wordBytes (summary t.ex) ++ wordBytes w ++ leBytes 1 code ++ leBytes 1 i ++ leBytes 2 detail)
      if s1.ringFilled s t.ctx then s1.trigger t.ctx 6 0 else s1
    else s
  s1.trigger t.ctx 2 code
/-- A trace event of a team now. -/
def State.trace (s : State) (t : Team) (pc : Word) (code detail : Nat) : State := s.traceAt s.clk t pc code detail

/-- The AGENT word of a team (R297). -/
def Team.agentWord (t : Team) : Nat :=
  if t.isCtl then 2 ^ 14 + 16 * t.cluster
  else 16 * t.cluster + 4 * t.core + t.datapath + 2 ^ 16 * t.rindex

/-- Halt a team (R469). A halt by the debugger, reasons 1 to 5, waits until the results in flight are ready: that is the clk of the halt, and no
slot issues before it (R68). Reasons 2 to 7 leave an event record that is written when the mailbox has room (R474); `index`, `wpset`,
`group`, `wmask` and `woff` are the record's watchpoint fields. -/
def State.haltWith (s : State) (id reason index wpset group : Nat) (wmask woff : Word) : State :=
  match s.teams.find id with
  | none => s
  | some t =>
    let time := if decide (1 ≤ reason) && decide (reason ≤ 5) then max s.clk t.settledAt else s.clk
    let s := s.setTeam id { t with
      halt := reason, haltFrom := if t.halt = 0 then time else t.haltFrom, earliest := max t.earliest t.settledAt }
    let s := s.traceAt time t t.pc 12 reason
    let s := s.trigger t.ctx 1 reason
    if decide (2 ≤ reason) then
      let (i, w) := lowWord t.ex
      s.updContext t.ctx fun c => { c with haltRecs := c.haltRecs ++
        [⟨t.ident, time, t.pc, reason, index, wpset, group, summary t.ex, w, i, wmask, woff⟩] }
    else s
/-- Halt a team for a reason that no watchpoint gives. -/
def State.haltTeam (s : State) (id reason index : Nat) : State := s.haltWith id reason index 0 0xFF 0 0
/-- The halt that the debugger has asked for while a team could not take it comes now (R469). -/
def State.haltAsked (s : State) (id : Nat) : State :=
  match s.teams.find id with
  | some t => if t.haltWanted then (s.setTeam id { t with haltWanted := false }).haltTeam id 1 0 else s
  | none => s

/-- The 64 bytes of a page-fault record (R297). -/
def faultBytes (sn : Nat) (va : DWord) (kind level access source agent : Nat) (pc : Word) (entry : DWord) : List Byte :=
  leBytes 8 sn ++ dwordBytes va ++ [BitVec.ofNat 8 kind, BitVec.ofNat 8 level, BitVec.ofNat 8 access, BitVec.ofNat 8 source] ++
  leBytes 4 agent ++ wordBytes pc ++ leBytes 4 0 ++ dwordBytes entry ++ leBytes 24 0
/-- The address of a context's fault record (R297). -/
def Context.faultSlot (c : Context) (sn : Nat) : Nat := c.fring + 64 * ((sn - 1) % 2 ^ c.flog)
/-- Write the records that wait for their index of the ring: an index is free unless it holds a record whose RESP is 0 (R297); an answer that its
agent has not taken yet stays that record's. -/
def State.flushFaults (s : State) : List FaultRec → State
  | [] => s
  | f :: fs =>
    let s := match s.contexts.find f.ctx with
      | none => s
      | some c =>
        if f.written then s
        else if c.flog ≠ 0 && s.devNat f.ctx (c.faultSlot f.sn) 8 ≠ 0 && s.devNat f.ctx (c.faultSlot f.sn + 0x28) 8 = 0 then s
        else
          let at_ := c.faultSlot f.sn
          let old := s.devNat f.ctx (at_ + 0x28) 8
          let s := s.devWrite f.ctx at_ (f.words.flatMap dwordBytes)
          let note (g : FaultRec) : FaultRec :=
            if g.ctx != f.ctx then g
            else if g.sn == f.sn then { g with written := true }
            else if g.written && g.resp.isNone && c.faultSlot g.sn == at_ then { g with resp := some old }
            else g
          let s := { s with faults := s.faults.map note }
          s.raise f.ctx 4 [BitVec.ofNat 64 f.sn]
    s.flushFaults fs
/-- The bytes of a record as eight words. -/
def packWords : Nat → List Byte → List DWord
  | 0, _ => []
  | n + 1, bs => BitVec.ofNat 64 (leNat (bs.take 8)) :: packWords n (bs.drop 8)
/-- A page fault of an agent: the record takes the context's next fault sequence and is written when its index is free, with
a page-fault event (R297). Answers the state and the sequence. -/
def State.pageFault (s : State) (ctx : Nat) (agent : FaultAgent) (va : DWord) (kind level access source word : Nat) (pc : Word)
    (entry : DWord) : State × Nat :=
  match s.contexts.find ctx with
  | none => (s, 0)
  | some c =>
    let sn := c.faultSeq
    let f : FaultRec := ⟨ctx, sn, va, agent, packWords 8 (faultBytes sn va kind level access source word pc entry), false, none⟩
    let s := s.updContext ctx fun c => { c with faultSeq := c.faultSeq + 1 }
    (State.flushFaults { s with faults := s.faults ++ [f] } [f], sn)

end Sys2Proof.Machine
end

