-- ==== Sys2Proof/Machine/Ops.lean ====
section
/-! DEFINITION. What every instruction slot shares: the checks of R74, blocking and path switches (R27), the scoreboard (R66),
taking a trap (R30) and returning from one (R254), and the end of a slot (R46 to R48). -/

namespace Sys2Proof.Machine

/-- The current team, the one whose slot issues. -/
def State.me (s : State) : Option Team := s.teams.find s.cur
/-- The state with the current team changed. -/
def State.updMe (s : State) (f : Team → Team) : State := s.updTeam s.cur f

/-- The tags whose batches `ctwait k` waits for: every committed batch but the k newest (R236). -/
def Team.oldTags (t : Team) (k : Nat) : List Nat := (List.range (8 - k)).map fun j => (t.nextTag + j) % 8
/-- Whether the batch in a tag has completed. -/
def Team.tagFree (t : Team) (tag : Nat) : Bool :=
  match t.tags[tag]? with
  | some b => !b.inUse
  | none => true
/-- A copy whose deferred outcome stops the slot that waits for its batch (R179): `all` also looks at the open batch. Of several it is the
oldest, and of one instruction's the one of the lowest lane: the manual names no order (log entry 70). -/
def Team.stuckCopy (t : Team) (tags : List Nat) (all : Bool) : Option Copy :=
  t.copies.find? fun c =>
    (match c.fate with | .flying => false | _ => true) &&
    (match c.tag with | some g => tags.contains g | none => all)
/-- The pending registers that the end of a team waits for (R222, R342). -/
def Team.drained (t : Team) (futures : Bool) : Bool :=
  t.copies.isEmpty && t.pends.all fun p => p.isFuture && !futures
/-- Whether an acquire of a team is on its way: an `oenter` that has not resolved, or an acquiring access (R189, R209, R267). -/
def State.acquiring (s : State) (id : Nat) (t : Team) : Bool :=
  (t.pends.any fun p => match p.data with | .entering _ => true | _ => false) || s.traffic.any fun o => o.team == id && o.acquires

/-- The cards of a cluster's yarder, its deck and its rays. -/
def State.clusterOf (s : State) (n : Nat) : Option Cluster := s.clusters.find n
/-- The state with a cluster changed. -/
def State.updCluster (s : State) (n : Nat) (f : Cluster → Cluster) : State :=
  { s with clusters := s.clusters.insert n (f (match s.clusters.find n with | some c => c | none => ⟨[], [], [], 0, 0, []⟩)) }
/-- The key of a future job slot of a class (R21). -/
def futKey (cls slot : Nat) : Nat := 131072 * cls + slot
/-- A free job slot of a class, sought from `start` on (R21): one whose job has completed, or that has never been used. -/
def Context.freeSlot (c : Context) (cls start : Nat) : Option Nat :=
  ((List.range (min 131072 (c.futures.length + 1))).map fun k => (start + k) % 131072).find? fun k =>
    match c.futures.find (futKey cls k) with | some f => !f.live | none => true

/-- The commands of an array that are not over: an `mdrain` that streams, then those in its queue (R244, R363). -/
def Array.queued (a : Array) : List Cmd := (a.draining.map Cmd.drain).toList ++ a.cmds
/-- Whether an array has no command and does nothing (R246). -/
def Array.idle (a : Array) : Bool := a.cmds.isEmpty && a.draining.isNone && a.chunk.isNone && a.slots.all fun w => w.loading.isNone

/-- Whether a walk of a page for a unit is on its way. -/
def State.walking (s : State) (unit ctx vpage : Nat) : Bool :=
  s.agenda.any fun d => match d.ev with | .pageWalk u c va => u == unit && c == ctx && va / 4096 == vpage | _ => false
/-- Whether what a path waits for has come about (R27, R65). -/
def condHolds (s : State) (id : Nat) (t : Team) (c : Cond) : Bool :=
  match c with
  | .reg f n => match t.pendOf f n with | some p => p.isFuture && t.saving | none => true
  | .scoreboard n => decide (t.pending + n ≤ 32)
  | .phase k count =>
    match s.crewOf t with
    | some cr =>
      match cr.barriers[k]? with
      | some b => decide (count < b.count) && cr.rb.wanted.isNone
      | none => true
    | none => true
  | .words full ws =>
    match s.gangOf t with
    | some g => ws.any fun w => match g.crew? w.1 with | some cr => cr.full.get false w.2 == full | none => true
    | none => true
  | .queueRoom q mine =>
    match (s.gangOf t).bind (·.array) with
    | some a =>
      (match a.queues[q]? with | some l => decide (l.length < 64) | none => true) && (a.pushers.getD q []).head? == mine
    | none => true
  | .commandRoom => match (s.gangOf t).bind (·.array) with | some a => decide (a.queued.length < 16) | none => true
  | .arrayIdle => match (s.gangOf t).bind (·.array) with | some a => a.idle | none => true
  | .rayRoom => match s.clusterOf t.cluster with | some c => decide (c.rays.length < 2048) | none => true
  | .cardRoom =>
    match s.clusterOf t.cluster, s.contexts.find t.ctx with
    | some c, some x => decide (c.cards.length < 64) && (x.freeSlot 1 0).isSome
    | _, _ => true
  | .deckRoom =>
    match s.clusterOf t.cluster, s.contexts.find t.ctx with
    | some c, some x => decide (c.deck.length < 4096) && (x.freeSlot 2 0).isSome
    | _, _ => true
  | .acquires => !s.acquiring id t
  | .checkpoint => match s.crewOf t with | some cr => cr.rb.allow == some id | none => true
  | .page unit vp => !s.walking unit t.ctx vp
  | .batch tag => t.tagFree tag || (t.stuckCopy [tag] false).isSome
  | .batches k => (t.oldTags k).all t.tagFree || (t.stuckCopy (t.oldTags k) false).isSome
  | .drained futures => t.drained futures || (t.stuckCopy (List.range 8) true).isSome || !t.sectTraps.isEmpty
  | .quiet scope => s.quiet id t scope

/-- Whether a deferred path is unblocked: it waits for nothing, or for something that has come about (R27). -/
def slotReady (s : State) (id : Nat) (t : Team) (p : PathSlot) : Bool :=
  p.v && match p.blk with | none => true | some c => condHolds s id t c
/-- The deferred path that comes in when a switch is due: unblocked, the largest AGE, then the lowest slot (R27 rule 4); none in a
team that is ending (R222), and none while a checkpoint of its crew waits for its running path's slot (R446). -/
def bestSlot (s : State) (id : Nat) (t : Team) : Option Nat :=
  if t.live == 0#1024 || (match t.blk with | some (.drained _) => true | _ => false) || (t.kernel.rollback && condHolds s id t .checkpoint) then none else
  ((List.range t.slots.length).foldl (fun best i =>
    match t.slots[i]? with
    | none => best
    | some p =>
      if slotReady s id t p then
        match best with
        | some (_, age) => if age < p.age then some (i, p.age) else best
        | none => some (i, p.age)
      else best) none).map (·.1)
/-- An unused path slot. -/
def PathSlot.empty : PathSlot := ⟨false, none, 0, 0, 0, 0, 0, 0, none, []⟩
/-- The running path as it goes into a slot (R27). -/
def Team.outgoing (t : Team) (blk : Option Cond) : PathSlot :=
  ⟨true, blk, t.level, 0, t.pc, (match t.levels[t.level]? with | some l => l.join | none => 0), t.ex, t.done, t.mark, t.kept⟩
/-- A deferred path becomes the running path; its slot takes `old` (R27). The first slot waits for the results in flight (R68). -/
def Team.bring (t : Team) (i : Nat) (old : PathSlot) : Team :=
  match t.slots[i]? with
  | none => t
  | some p =>
    { t with
      slots := t.slots.set i old, pc := p.pc, ex := p.mask &&& t.live, level := p.lvl, done := p.done, mark := p.mark, kept := p.kept,
      blk := none, noPath := false, earliest := max t.earliest t.settledAt }
/-- Switch the running path out, blocked on `blk` or not, for the path in slot `i` (R27 rules 2 and 3). -/
def State.switchPath (s : State) (id i : Nat) (blk : Option Cond) : State :=
  match s.teams.find id with
  | none => s
  | some t =>
    let t' := t.bring i (if t.noPath then PathSlot.empty else t.outgoing blk)
    (s.setTeam id t').trace t' t'.pc 7 i

/-- The running path of the current team blocks at its slot: it is switched out where a deferred path can run, but not in a
trap handler (R27 rule 3, R218). -/
def State.blockOn (s : State) (c : Cond) : State :=
  match s.me with
  | none => s
  | some t =>
    match (if t.tlevel then none else bestSlot s s.cur t) with
    | some i => s.switchPath s.cur i (some c)
    | none => s.setTeam s.cur { t with blk := some c }

/-- The INFO and CODE fields of TCAUSE (R30). -/
def causeWord (cause info : Nat) : Word := BitVec.ofNat 32 (65536 * (info % 65536) + cause % 256)

/-- The slot of an operation that a checkpoint preceded is over: the checkpoint is closed once the operation has been performed (R389, R446). -/
def State.endAllow (s : State) (id : Nat) : State :=
  match s.teams.find id with
  | none => s
  | some t =>
    if t.kernel.rollback then
      s.updCrew t.gang t.crew fun c =>
        if c.rb.allow == some id then { c with rb := { c.rb with allow := none, closing := some id } } else c
    else s

/-- A section trap is reported: the fault record of its context takes it, or counts it (R396, R507). -/
def State.sectionRecord (s : State) (ctx : Nat) (x : SectTrap) : State :=
  let r := s.winReg ctx 0x18
  if r.getLsbD 63 then s.setReg ctx 0x18 (r ||| (1#64 <<< 62))
  else
    ((s.setReg ctx 0x18 (BitVec.ofNat 64 (2 ^ 63 + 2 ^ 48 * (x.cause % 256) + 2 ^ 38 * (x.lane % 1024) + x.sq.toNat))).setReg ctx 0x20
      x.holder).setReg ctx 0x28 (BitVec.ofNat 64 (2 ^ 32 * (x.cellState % 16) + x.next.toNat))
/-- Whether a trap is the report of a decided section trap. -/
def SectTrap.reports (x : SectTrap) (cause info : Nat) (addr : DWord) : Bool := x.cause == cause && x.lane == info && x.key == addr
/-- What a trap of the current team settles with the unit that owed it: a section trap is reported (R507), an array's trap is
raised (R245). -/
def State.owedTrap (s : State) (cause info : Nat) (addr : DWord) : State :=
  match s.me with
  | none => s
  | some t =>
    if 0x10 ≤ cause && cause ≤ 0x14 then
      match t.sectTraps.find? (·.reports cause info addr) with
      | some x => (s.setTeam s.cur { t with sectTraps := t.sectTraps.erase x }).sectionRecord t.ctx x
      | none => s
    else if cause = 0x16 then
      s.updGang t.gang fun g => { g with array := g.array.map fun a => { a with trapDue := none } }
    else s

/-- The numbers of a team's `qpush`es that wait for their queues: the running path's, and with `all` those of the deferred paths. -/
def Team.pushMarks (t : Team) (all : Bool) : List Nat :=
  let of (blk : Option Cond) (mark : Option Nat) : List Nat := match blk, mark with | some (.queueRoom _ _), some m => [m] | _, _ => []
  of t.blk t.mark ++ if all then t.slots.flatMap fun p => if p.v then of p.blk p.mark else [] else []
/-- Some `qpush`es no longer wait for their turn at the queues of a gang's array (R186). -/
def State.leaveQueues (s : State) (gang : Nat) (ms : List Nat) : State :=
  if ms.isEmpty then s
  else s.updGang gang fun g => { g with array := g.array.map fun a => { a with pushers := a.pushers.map fun l => l.filter fun m => !ms.contains m } }
/-- TAKING A TRAP (R30): the team enters its trap entry with the saved state, or, at TLEVEL 1 or without a trap entry, halts on
a double trap with its event (R351). A trap abandons the slot, so this starts from the state before it. INFO and TADDR are 0 where R31 shows a
dash (log entry 80). -/
def State.takeTrap (s : State) (cause info : Nat) (addr : DWord) : State :=
  let s := s.owedTrap cause info addr
  match s.me with
  | none => s
  | some t =>
    let s := (s.endAllow s.cur).leaveQueues t.gang (t.pushMarks false)
    let word := causeWord cause info
    let t := { t with blk := none, done := 0, mark := none, kept := [], stepState := if t.stepState = 1 then 2 else t.stepState }
    match t.tlevel, t.kernel.trapEntry with
    | false, some entry =>
      let t := { t with
        tpc := t.pc, tcause := word, tex := t.ex, taddr := addr, tlevel := true, pc := entry + 4,
        earliest := max (max t.earliest s.clk) t.settledAt + 4, zeroStall := false }
      ((s.setTeam s.cur t).trace t t.tpc 9 cause).trigger t.ctx 3 cause
    | false, none =>
      let t := { t with tpc := t.pc, tcause := word, tex := t.ex, taddr := addr }
      let s := (s.setTeam s.cur t).raise t.ctx 5
        [word.setWidth 64, addr, 0, t.pc.setWidth 64, t.ident, BitVec.ofNat 64 t.agentWord]
      s.haltTeam s.cur 6 0
    | true, _ =>
      let s := (s.setTeam s.cur t).raise t.ctx 5
        [word ++ t.tcause, t.taddr, addr, t.pc ++ t.tpc, t.ident, BitVec.ofNat 64 t.agentWord]
      s.haltTeam s.cur 6 0

/-- A team returns from its trap handler (R254): EX comes back, TLEVEL falls, and the slot that TPC names is next. -/
def Team.trapReturn (t : Team) : Team :=
  { t with ex := t.tex &&& t.live, tlevel := false, pc := if t.tpc.extractLsb' 2 2 = 0#2 then t.tpc + 4 else t.tpc }

/-- What the body of an instruction comes to. -/
inductive Res where
  /-- the effect is in the state, and no register waits for a result -/
  | done (s : State)
  /-- results of a fixed latency, with the FSTAT flags they raise (R63, R64) -/
  | fixed (s : State) (lat : Nat) (ws : List RegWrite) (flags : BitVec 5)
  /-- a result of variable latency: the destination becomes pending (R65) -/
  | later (s : State) (reason : Nat) (data : PendData)
  /-- a transfer of control to a PC, with the code and detail of its trace event, 0 for none (R48, R476) -/
  | moved (s : State) (pc : Word) (code detail : Nat)
  /-- a trap; nothing of the slot takes effect (R30) -/
  | trap (cause info : Nat) (addr : DWord)
  /-- a trap that keeps what earlier attempts of the slot performed (R166, R179) -/
  | trapIn (s : State) (cause info : Nat) (addr : DWord)
  /-- the path blocks at the slot -/
  | block (s : State) (c : Cond)
  /-- the slot ends otherwise: a halt, a path's end, a team's end -/
  | stop (s : State)

/-- Slots that write EX or LIVE, after which a stall count of 0 acts as 1 (R47). -/
def writesMask (i : Instr) : Bool :=
  match i with
  | .exset _ => true
  | .exand _ => true
  | .exandn _ => true
  | .exall => true
  | .exit => true
  | .fork _ _ => true
  | .pend _ => true
  | .rtt => true
  | _ => false
/-- The externally visible operations before which a rollback crew takes a checkpoint (R445); `sldaq` and `wait` take one by R275. -/
def isVisible (i : Instr) : Bool :=
  match i with
  | .fence ord => ord != 0#3
  | .sstrl _ _ _ _ => true
  | .atadd _ _ _ _ _ => true
  | .atmin _ _ _ _ _ => true
  | .atmax _ _ _ _ _ => true
  | .atand _ _ _ _ _ => true
  | .ator _ _ _ _ _ => true
  | .atxor _ _ _ _ _ => true
  | .atxch _ _ _ _ _ => true
  | .atcas _ _ _ _ _ => true
  | .atfadd _ _ _ _ _ => true
  | .atfmin _ _ _ _ _ => true
  | .atfmax _ _ _ _ _ => true
  | .redadd _ _ _ _ => true
  | .redfadd _ _ _ _ => true
  | .satadd _ _ _ _ _ => true
  | .satcas _ _ _ _ _ => true
  | .satxch _ _ _ _ _ => true
  | .cswap _ _ _ _ => true
  | .oenter _ _ _ => true
  | .oleave _ => true
  | .oskip _ _ => true
  | .job _ _ _ => true
  | .spawn _ _ _ => true
  | .trc _ _ _ => true
  | .scq _ _ => true
  | .scfill _ _ => true
  | .scinv _ => true
  | .scframe _ => true
  | .cput _ _ => true
  | .cref _ => true
  | .cdrop _ => true
  | .qpush _ _ => true
  | .qpop _ _ => true
  | .mfmt _ => true
  | .wbld _ _ => true
  | .mma _ _ _ => true
  | .mzero _ => true
  | .mdrain _ => true
  | .mburst _ => true
  | .mwait _ => true
  | .swr _ _ => true
  | .sldaq _ _ _ _ => true
  | .wait _ _ _ => true
  | _ => false
/-- The matrix instructions, legal on the control core alone (R73). -/
def isMatrix (i : Instr) : Bool :=
  match i with
  | .mfmt _ => true
  | .wbld _ _ => true
  | .mma _ _ _ => true
  | .mzero _ => true
  | .mdrain _ => true
  | .mburst _ => true
  | .mwait _ => true
  | _ => false
/-- The slots that an unresolved `oenter` holds back, since its acquire comes before them (R267): those that reach
memory, scratchpad words, engines or other agents. -/
def isAccess (i : Instr) : Bool :=
  match i with
  | .ldc _ _ _ => true
  | .smp _ _ _ => true
  | .cpa _ _ _ => true
  | .ld8 _ _ _ => true
  | .ld16 _ _ _ => true
  | .ld32 _ _ _ => true
  | .ld64 _ _ _ => true
  | .ld128 _ _ _ => true
  | .st8 _ _ _ => true
  | .st16 _ _ _ => true
  | .st32 _ _ _ => true
  | .st64 _ _ _ => true
  | .st128 _ _ _ => true
  | .lds32 _ _ _ => true
  | .lds64 _ _ _ => true
  | .lds128 _ _ _ => true
  | .sts32 _ _ _ => true
  | .sts64 _ _ _ => true
  | .sts128 _ _ _ => true
  | .ldf _ _ _ => true
  | .ste _ _ _ => true
  | .ldfk _ _ _ => true
  | .sld32 _ _ _ => true
  | .sld64 _ _ _ => true
  | .sst32 _ _ _ => true
  | .sst64 _ _ _ => true
  | .sldc _ _ _ => true
  | .sldaq _ _ _ _ => true
  | .fence _ => true
  | .pfence _ => true
  | .wait _ _ _ => true
  | .chash _ _ => true
  | .cget _ _ => true
  | .bar _ => true
  | .barrv _ _ _ => true
  | .barw _ => true
  | .ctwait _ => true
  | .oenter _ _ _ => false
  | .oleave _ => false
  | .oskip _ _ => false
  | .swr _ _ => false
  | .qpush _ _ => false
  | .qpop _ _ => false
  | i => isVisible i

/-- What the checks of a slot come to. -/
inductive Verdict where
  | go
  /-- an L-set slot with EX = 0 has no effect (R15) -/
  | idle
  | trap (cause info : Nat) (addr : DWord)
  | block (c : Cond)
  deriving DecidableEq, Repr

/-- Check 2 of R74: the core on which a slot may issue (R73). -/
def coreIllegal (i : Instr) (t : Team) : Bool := if t.isCtl then !i.isU else isMatrix i
/-- The section trap that a slot reports: it reads or writes pD (R507). -/
def reportsTrap (i : Instr) (t : Team) : Option SectTrap :=
  t.sectTraps.find? fun x => (i.reads ++ i.writes).any fun u => useMeets u .p x.pd 1

/-- The trap that the array of a `ctl` team's gang owes it: tile and chunk (R245); a restored team takes it once it has passed its
safe point (R369). -/
def State.matrixTrap (s : State) (t : Team) : Option Nat :=
  if t.isCtl && t.reinstate.isNone then (((s.gangOf t).bind (·.array)).bind (·.trapDue)).map fun d => d.1 % 4 + 4 * (d.2 % 16384) else none

/-- How far the accesses issued before a slot must have been performed before it acts, if it asks for that (R258, R262, R264): it releases,
or it reads memory at its issue or, for the array of its gang, with a place at its issue (R264). A handoff inside a crew reaches the cluster where the crew's teams run on two cores, or where
members of the gang share words (R172). -/
def releaseScope (i : Instr) (s : State) (t : Team) : Option Nat :=
  let crew (gang : Bool) : Nat := match s.gangOf t with
    | some g => if (g.kernel.hasCtl && t.crew == 0) || (gang && decide (2 ≤ g.size)) then 1 else 0
    | none => 0
  match i with
  | .fence ord => some (if ord = 0#3 then crew true else reachOf ord)
  | .pfence _ => some 2
  | .bar _ => some (crew false)
  | .barrv _ _ _ => some (crew false)
  | .ste _ _ _ => some (crew true)
  | .oleave _ => some 2
  | .job _ _ _ => some 2
  | .spawn _ _ _ => some 2
  | .trc _ _ _ => some 2
  | .scfill _ _ => some 2
  | .scinv _ => some 2
  | .scframe _ => some 2
  | .cput _ _ => some 2
  | .cswap _ _ _ _ => some 2
  | .smp _ _ _ => some 2
  | .mfmt _ => some 2
  | .wbld _ _ => some 2
  | .mma _ _ _ => some 2
  | .wait _ _ _ => some 2
  | _ => none
/-- Instructions that make their destination pending and act on memory or words in parts before they complete: room on the scoreboard is asked
for before any part (R66). -/
def actsInParts (i : Instr) : Bool :=
  match i with
  | .ld8 _ _ _ => true
  | .ld16 _ _ _ => true
  | .ld32 _ _ _ => true
  | .ld64 _ _ _ => true
  | .ld128 _ _ _ => true
  | .lds32 _ _ _ => true
  | .lds64 _ _ _ => true
  | .lds128 _ _ _ => true
  | .ldf _ _ _ => true
  | .ldfk _ _ _ => true
  | .ldc _ _ _ => true
  | .smp _ _ _ => true
  | .sld32 _ _ _ => true
  | .sld64 _ _ _ => true
  | .sldc _ _ _ => true
  | .sldaq _ _ _ _ => true
  | .satadd _ _ _ _ _ => true
  | .satxch _ _ _ _ _ => true
  | .satcas _ _ _ _ _ => true
  | .qpop _ _ => true
  | .cget _ _ => true
  | i => isVisible i && !i.isU
/-- The pending entry of the accesses that earlier attempts of the slot began, if any: the slot does not wait for it (R165). -/
def Team.ownGroup (t : Team) : Option Nat := if t.done == 0#1024 then none else t.mark
/-- The scoreboard without the slot's own entry. -/
def Team.others (t : Team) : Team :=
  match t.ownGroup with
  | some g => { t with pends := t.pends.filter (·.serial != g) }
  | none => t
/-- The number of registers that an instruction marks pending. -/
def markCount (i : Instr) : Nat := match i.writes with | u :: _ => u.cnt | [] => 0
/-- Whether a slot would mark a 33rd register pending: then it blocks (R66). -/
def State.overfull (s : State) (i : Instr) : Bool :=
  match s.me with
  | some t => decide (32 < (t.others.dropFutures i.writes).pending + markCount i)
  | none => false

/-- The checks of R74 from core legality on, with the scoreboard's blocks (R66). A section trap (R507) is reported after the register
ranges, where the manual gives it no place (log entry 71); a slot that would both trap and mark a 33rd register traps (log entry 72). -/
def slotCheck (id : Nat) (i : Instr) (t : Team) (s : State) : Verdict :=
  let early := if t.check then t.undersized s.clk i.reads else none
  if coreIllegal i t || !i.wf then .trap 0x01 i.info 0
  else if !i.isU && t.ex == 0#1024 then .idle
  else
    match t.outOfRange (i.reads ++ i.writes) with
    | some info => .trap 0x05 info 0
    | none =>
      if let some info := s.matrixTrap t then
        match early with
        | some (info, pc) => .trap 0x04 info (pc.setWidth 64)
        | none => .trap 0x16 info 0
      else
      match reportsTrap i t with
      | some x => .trap x.cause x.lane x.key
      | none =>
        match t.others.waitsFor i.reads false with
        | some (f, n) => .block (.reg f n)
        | none =>
          match t.others.waitsFor i.writes true with
          | some (f, n) => .block (.reg f n)
          | none =>
            if s.acquiring id t && isAccess i then .block .acquires
            else if t.kernel.rollback && isVisible i && t.mark.isNone && !condHolds s id t .checkpoint then
              (match t.sectTraps.head? with | some x => .trap x.cause x.lane x.key | none => .block .checkpoint)
            else
              match early with
              | some (info, pc) => .trap 0x04 info (pc.setWidth 64)
              | none =>
                if actsInParts i && s.overfull i then .block (.scoreboard (markCount i))
                else
                  match (if t.done == 0#1024 && t.mark.isNone then releaseScope i s t else none) with
                  | some scope => if s.quiet id t scope then .go else .block (.quiet scope)
                  | none => .go

/-- The stall count of the current slot, from the bundle that was fetched (R45, R47). -/
def Team.stallHere (t : Team) : Nat :=
  match t.bundle with
  | some (_, b) => (Control.ofWord (bundleWord b 0)).stall (t.pc.extractLsb' 2 2).toNat
  | none => 0
/-- The YIELD window of the current bundle in clk (R49). -/
def Team.yieldHere (t : Team) : Nat :=
  match t.bundle with
  | some (_, b) => 4 * (Control.ofWord (bundleWord b 0)).yieldH.toNat
  | none => 0
/-- The PC of the next instruction slot: literal slots are skipped, and after slot 3 the next bundle begins (R46, R48). -/
def nextPc (pc : Word) (hasLit : Bool) : Word :=
  let k := (pc.extractLsb' 2 2).toNat + (if hasLit then 2 else 1)
  (pc &&& 0xFFFFFFF0#32) + (if k ≤ 3 then BitVec.ofNat 32 (4 * k) else 20)
/-- The bundle of a PC. -/
def bundleOf (pc : Word) : Word := pc &&& 0xFFFFFFF0#32

/-- Slots that leave the ages of the deferred paths: `rtt` (R218), and `fork`, which has aged them before its own path entered (R215). -/
def keepsAges (i : Instr) : Bool := match i with | .rtt => true | .fork _ _ => true | _ => false
/-- The deferred paths after the team has issued a slot: each that is unblocked grows older (R27 rule 1); in a trap handler the
ages stay (R218). -/
def agedSlots (s : State) (id : Nat) (t : Team) (still : Bool) : List PathSlot :=
  if t.tlevel || still then t.slots
  else t.slots.map fun p => if slotReady s id t p then { p with blk := none, age := min 256 (p.age + 1) } else p
/-- At a bundle boundary: the switch that AGE or `yld` makes due (R27 rule 2, R217). Whether a deferred path is unblocked is asked here and not
when `yld` issues; a switch or a trap in the bundle leaves the wish standing (log entry 73). -/
def State.bundleEnd (s : State) (id : Nat) : State :=
  match s.teams.find id with
  | none => s
  | some t =>
    let due := t.yielded || t.slots.any (fun p => p.v && slotReady s id t p && p.age == 256)
    let s := s.setTeam id { t with yielded := false, yieldUntil := if t.yieldHere = 0 then t.yieldUntil else s.clk + t.yieldHere }
    if due && !t.tlevel then
      match bestSlot s id t with
      | some i => s.switchPath id i none
      | none => s
    else s
/-- Halts that a finished slot leaves: a watchpoint's, else the end of a STEP is due (R470, R473). -/
def State.afterSlot (s : State) (id : Nat) : State :=
  match s.teams.find id with
  | none => s
  | some t =>
    match t.watchHit with
    | some (set, group, mask, off) =>
      let idx := ((List.range 4).find? fun k => set / 2 ^ k % 2 == 1).getD 0
      (s.setTeam id { t with watchHit := none, stepState := 0 }).haltWith id 5 idx set group mask off
    | none => if t.stepState = 1 then s.setTeam id { t with stepState := 2 } else s
/-- The slot at `pc` has issued and the team goes on at `next`; `boundary` says that a bundle has ended (R47, R48). -/
def State.advance (s : State) (i : Instr) (next : Word) (transfer : Bool) : State :=
  match s.me with
  | none => s
  | some t =>
    let stall := t.stallHere
    let t' := { t with
      pc := next
      blk := none, done := 0, mark := none, kept := []
      slots := agedSlots s s.cur t (keepsAges i)
      earliest := s.clk + (if transfer then max stall 2 else if writesMask i then max stall 1 else stall)
      zeroStall := stall == 0 && !transfer && !writesMask i
      lastSetU := i.isU
      lastIssue := s.clk
      spSkip := if t.spSkip && bundleOf next == bundleOf t.pc && !transfer then t.spSkip else false }
    let s := (s.setTeam s.cur t').endAllow s.cur
    let s := if transfer || bundleOf next != bundleOf t.pc then s.bundleEnd s.cur else s
    s.afterSlot s.cur
/-- The end of a slot that goes on at the next one. -/
def State.retire (s : State) (i : Instr) : State :=
  match s.me with
  | none => s
  | some t => s.advance i (nextPc t.pc i.hasLit) false

/-- Fixed-latency results are on their way: the registers take them, and what they held before is kept until they are ready
(R63, R67). -/
def Team.deliver (t : Team) (i : Instr) (clk lat : Nat) (ws : List RegWrite) (flags : BitVec 5) : Team :=
  let t := t.dropFutures i.writes
  let news : List Inflight := (i.writes.flatMap useRegs).map fun r =>
    ⟨r.1, r.2, clk + lat, t.pc, (ws.filter fun w => w.file == r.1 && w.n == r.2).map fun w => (w.lane, t.reg w.file w.n w.lane)⟩
  let live := t.inflight.filter fun e => decide (clk < e.ready)
  { t.puts ws with inflight := news ++ (if live.isEmpty then [] else t.inflight), fstat := t.fstat ||| flags }
/-- A variable-latency result is on its way: its destination becomes pending (R65, R66). -/
def State.markPending (s : State) (i : Instr) (reason : Nat) (data : PendData) : State :=
  match s.me, i.writes with
  | some t, u :: _ =>
    let t := t.dropFutures i.writes
    { s.setTeam s.cur { t with pends := t.pends ++ [⟨s.serial, u.file, u.n, u.cnt, reason, t.pc, data, []⟩] } with
      serial := s.serial + 1 }
  | _, _ => s

/-- Apply what the body of an instruction came to. -/
def settle (i : Instr) (s : State) (r : Res) : State :=
  match r with
  | .done s => (s.updMe fun t => t.dropFutures i.writes).retire i
  | .fixed s lat ws flags => (s.updMe fun t => t.deliver i s.clk lat ws flags).retire i
  | .later s' reason data =>
    if s.overfull i then s.blockOn (.scoreboard (markCount i)) else (s'.markPending i reason data).retire i
  | .moved s pc code detail =>
    let s' := s.advance i pc true
    match s'.me with
    | some t => if code = 0 then s' else s'.trace t (match s.me with | some t => t.pc | none => 0) code detail
    | none => s'
  | .trap cause info addr => s.takeTrap cause info addr
  | .trapIn s cause info addr => s.takeTrap cause info addr
  | .block s c => s.blockOn c
  | .stop s => s

/-- An instruction slot of the current team: the checks of R74, then the instruction's own body, which reads the registers as
they stand for this slot (`r`) and changes the team `t` of the state. -/
def slot (i : Instr) (body : (r t : Team) → State → Res) (s : State) : Host.Outcome State Fault Refusal :=
  match s.me with
  | none => .fault .noRunningTeam
  | some t =>
    .next (match slotCheck s.cur i t s with
      | .go => settle i s (body (t.viewAt s.clk) t s)
      | .idle => s.retire i
      | .trap cause info addr => s.takeTrap cause info addr
      | .block c =>
        (match c with
          | .checkpoint => s.updCrew t.gang t.crew fun c => { c with rb := { c.rb with wanted := some s.cur } }
          | _ => s).blockOn c)

/-- A lane instruction whose results have the fixed latency `lat` (R64). -/
def laneFixed (i : Instr) (lat : Nat) (f : (r : Team) → List RegWrite × BitVec 5) (s : State) :
    Host.Outcome State Fault Refusal :=
  slot i (fun r _ s => .fixed s lat (f r).1 (f r).2) s
/-- A lane instruction with a "sel" operand: a lane-group pattern adds 2 clk, and a team-scope pattern makes the result
variable (R64, R65 reason 11). -/
def laneSel (i : Instr) (lat : Nat) (o : OpB) (f : (r : Team) → List RegWrite × BitVec 5) (s : State) :
    Host.Outcome State Fault Refusal :=
  slot i (fun r _ s =>
    if teamPat o then .later s 11 (.values (f r).1 (f r).2)
    else .fixed s (if groupPat o then lat + 2 else lat) (f r).1 (f r).2) s
/-- A lane instruction whose result has variable latency for the reason given (R65). -/
def laneLater (i : Instr) (reason : Nat) (f : (r : Team) → List RegWrite × BitVec 5) (s : State) :
    Host.Outcome State Fault Refusal :=
  slot i (fun r _ s => .later s reason (.values (f r).1 (f r).2)) s

end Sys2Proof.Machine
end

