-- ==== Sys2Proof/Machine/Preempt.lean ====
section
/-! DEFINITION. The control block of a team (R349), the redirection of a team into its save routine (R342), the
reinstatement of a restored team (R346) and the debugger's edits (R471). -/

namespace Sys2Proof.Machine

/-- A mask as 128 bytes, mask word 0 first. -/
def maskBytes (m : Mask) : List Byte := leBytes 128 m.toNat
/-- A bit as a number. -/
def bit (b : Bool) : Nat := if b then 1 else 0

/-- Word 0 of a path slot of a control block (R349). -/
def PathSlot.word (p : PathSlot) : Word :=
  BitVec.ofNat 32 (bit p.v + 2 * bit p.blk.isSome + 4 * (p.lvl % 4) + 16 * (p.age % 512))
/-- A path slot in a control block (R349). -/
def PathSlot.bytes (p : PathSlot) : List Byte := wordBytes p.word ++ wordBytes p.pc ++ wordBytes p.join ++ leBytes 4 0 ++ maskBytes p.mask
/-- A level record in a control block (R349). -/
def Level.bytes (l : Level) : List Byte :=
  leBytes 4 (bit l.opened + 2 * (l.parent % 8) + 16 * bit l.jset + 32 * (l.n % 8)) ++ wordBytes l.join ++ leBytes 8 0 ++ maskBytes l.jm
/-- The MODES word of a team (R349). -/
def Team.modes (t : Team) : Nat :=
  t.fmode.toNat + 4 * t.fstat.toNat + 128 * bit t.check + 256 * (t.depth % 16) + 4096 * (t.nextTag % 8) + 65536 * (t.level % 8)
/-- The 2,048 bytes of a control block (R349), for the gang size, a safe-point index and the bundle's offset. -/
def Team.controlBlock (t : Team) (gsize spidx : Nat) (pc : Word) : List Byte :=
  [BitVec.ofNat 8 gsize, BitVec.ofNat 8 t.crew, 0, 0] ++ leBytes 4 spidx ++ wordBytes pc ++ leBytes 4 t.modes ++ leBytes 48 0 ++
  maskBytes t.ex ++ maskBytes t.live ++ (t.slots.flatMap PathSlot.bytes) ++ (t.levels.flatMap Level.bytes) ++ leBytes 576 0

/-- The level of a path inside no fork (R215, R349). -/
def baseLevel : Nat := 7
/-- An unused level record. -/
def Level.empty : Level := ⟨false, baseLevel, false, 0, 0, 0⟩
/-- Four unused path slots. -/
def noSlots : List PathSlot := List.replicate 4 PathSlot.empty
/-- Four unused level records. -/
def noLevels : List Level := List.replicate 4 Level.empty

/-- A path slot from word 0 and the rest of its bytes (R349); BLK is cleared (R346). -/
def slotOfBytes (bs : List Byte) : PathSlot :=
  let w := leNat (bs.take 4)
  ⟨w % 2 == 1, none, w / 4 % 4, w / 16 % 512, BitVec.ofNat 32 (leNat ((bs.drop 4).take 4)),
    BitVec.ofNat 32 (leNat ((bs.drop 8).take 4)), BitVec.ofNat 1024 (leNat ((bs.drop 16).take 128)), 0, none, []⟩
/-- A level record from its bytes (R349). -/
def levelOfBytes (bs : List Byte) : Level :=
  let w := leNat (bs.take 4)
  ⟨w % 2 == 1, w / 2 % 8, w / 16 % 2 == 1, BitVec.ofNat 32 (leNat ((bs.drop 4).take 4)), w / 32 % 8,
    BitVec.ofNat 1024 (leNat ((bs.drop 16).take 128))⟩

/-- Whether a team may leave at a safe point as far as its paths go: none has begun the slot at which it stands, for which the control block has no
place, and the running one does not wait for full/empty bits (R173, R344, R346). -/
def Team.unbegun (t : Team) : Bool :=
  t.done == 0#1024 && t.mark.isNone && (match t.blk with | some (.words _ _) => false | _ => true) &&
  t.slots.all fun p => !p.v || (p.done == 0#1024 && p.mark.isNone)

/-- The answered walks that a unit's accesses of a context took (R297). -/
def State.dropFaulted (s : State) (unit ctx : Nat) : State :=
  { s with faulted := s.faulted.filter fun w => !(w.unit == unit && w.ctx == ctx) }
/-- The current team halts on a page fault at its slot (R165, R296). -/
def State.teamFault (s : State) (va kind level access : Nat) (entry : DWord) : State :=
  match s.me with
  | none => s
  | some t =>
    let (s, sn) := s.pageFault t.ctx (.team s.cur) (BitVec.ofNat 64 va) kind level access 0 t.agentWord t.pc entry
    (s.updMe fun t => { t with faultSeq := some sn }).haltTeam s.cur 7 0

/-- One debugger edit is applied (R471). -/
def Team.edit (t : Team) (e : DWord × DWord) : Team :=
  let lane := (e.1.extractLsb' 16 10).toNat
  let index := (e.1.extractLsb' 8 8).toNat
  let w : Word := e.2.extractLsb' 0 32
  let reg (file : RFile) (ws : List RegWrite) : Team :=
    match t.pendOf file index with
    | some p =>
      if p.isFuture then { t with pends := t.pends.filter (·.serial != p.serial) }.puts ws
      else { t with pends := t.pends.map fun q => if q.serial = p.serial then { q with after := q.after ++ ws } else q }
    | none => t.puts ws
  match (e.1.extractLsb' 0 4).toNat with
  | 0 => reg .v [⟨.v, index, lane, w⟩]
  | 1 => reg .s [⟨.s, index, 0, w⟩]
  | 2 => reg .p ((List.range 32).map fun k => ⟨.p, index, lane / 32 * 32 + k, if w.getLsbD k then 1 else 0⟩)
  | 3 => { t with ex := ((t.ex &&& ~~~((0xFFFFFFFF#32).setWidth 1024 <<< (32 * (index % 32)))) |||
            (w.setWidth 1024 <<< (32 * (index % 32)))) &&& t.live }
  | 5 => { t with pc := w, blk := none, done := 0, mark := none, kept := [], bundle := none }
  | 6 => { t with tpc := w }
  | 9 => { t.setFstat (w.extractLsb' 2 5) with
      fmode := w.extractLsb' 0 2, fstat := w.extractLsb' 2 5, check := w.getLsbD 7, depth := (w.extractLsb' 8 4).toNat }
  | _ => t
/-- The edits of a team's buffer are applied in order, and the buffer is free (R471). -/
def Team.applyEdits (t : Team) : Team := { t.edits.foldl Team.edit t with edits := [] }

/-- A restored team gets back the control state of its redirection; a halt asked for while it was saved comes now (R346, R469). -/
def State.reinstateTeam (s : State) (id : Nat) (r : Reinstate) : State :=
  match s.teams.find id with
  | none => s
  | some t =>
    let t := { t with
      ex := r.ex &&& t.live, slots := r.slots, levels := r.levels, level := r.level, reinstate := none, spSkip := true }
    let s := s.setTeam id t.applyEdits
    s.haltAsked id

/-- The current team is redirected at a safe-point bundle into the save routine of entry `spidx` (R51, R342). The table entry
is read and the control block written as accesses of the team; one that cannot be made faults or traps at the bundle. -/
def State.redirect (s : State) (spidx : Nat) : State :=
  match s.me with
  | none => s
  | some t =>
    let entry := t.kernel.kbase + t.kernel.spTable + 8 * spidx
    let bars (va n : Nat) (a : Access) : Option (Nat × Looked × Access) := (s.devBars t.ctx va n a).map fun r => (r.1, r.2, a)
    match (bars entry 8 .read).or (bars (t.saveBase - 2048) 2048 .write) with
    | some (va, .fault k l e, a) => s.teamFault va k l a.code e
    | some (va, .trap c, _) => s.takeTrap c 0xFFFF (BitVec.ofNat 64 va)
    | some (va, _, _) => s.takeTrap 0x08 0xFFFF (BitVec.ofNat 64 va)
    | none =>
      let gsize := match s.gangOf t with | some g => g.size | none => 1
      let t := { t with earliest := max t.earliest t.settledAt, inflight := [] }
      let s := s.devWrite t.ctx (t.saveBase - 2048) (t.controlBlock gsize spidx (bundleOf t.pc))
      let t' := { t with
        ex := t.live, slots := noSlots, levels := noLevels, level := baseLevel, saving := true, saveIdx := spidx
        pc := BitVec.ofNat 32 (s.devNat t.ctx entry 4) + 4, bundle := none, blk := none, done := 0, mark := none, kept := []
        stepState := if t.stepState = 1 then 2 else t.stepState }
      (s.setTeam s.cur t').trace t' t.pc 11 spidx

end Sys2Proof.Machine
end

