-- ==== Sys2Proof/Machine/Fetch.lean ====
section
/-! DEFINITION. Fetching the next slot of a team: the bundle through the instruction cache and the permission filter (R44, R281,
R293), padding (R50), the bundle checks (R52), breakpoints (R470) and the safe-point check (R51). -/

namespace Sys2Proof.Machine

/-- What a fetch comes to: a slot's word with its literal, or a state in which the team issues nothing of the bundle now. -/
inductive Fetched where
  | go (s : State) (w : Word) (lit : Option Word)
  | stop (s : State)

/-- The team's unit for translation and path caches (R281, R293). -/
def Team.unit (t : Team) : Nat := unitOf t.cluster (if t.isCtl then 4 else t.core)
/-- Ask the controllers for a page: a request for a page that is being walked joins that walk (R292). -/
def State.askPage (s : State) (unit ctx va : Nat) : State :=
  if s.walking unit ctx (va / 4096) then s else s.post 0 (.pageWalk unit ctx va)
/-- The current team consumes poison at its slot: it issues no further slot, and the consumption is due (R441). -/
def State.consumeHere (s : State) (storage : Nat) (addr : DWord) : State :=
  (s.updMe fun t => { t with pends := t.pends ++ [⟨s.serial, .v, 0, 0, 1, t.pc, .poison storage addr, []⟩] }) |>
    fun s => { s with serial := s.serial + 1 }

/-- The enabled breakpoint of a context on a bundle's address, if any (R470, R481); breakpoints are permitted with HALT (R462). -/
def State.breakpointAt (s : State) (ctx va : Nat) : Option Nat :=
  (List.range 8).find? fun k =>
    let r := s.winReg ctx (dbg (0x80 + 8 * k))
    r.getLsbD 63 && (s.winReg ctx (dbg 0)).getLsbD 0 && 16 * (r.extractLsb' 4 48).toNat == va

/-- The bundle at an offset, read by the current team: its 16 bytes and the state after the reads, or where the team stops (R52,
R293, R296, R441). -/
def State.readBundle (s : State) (t : Team) (off : Nat) : Except State (BitVec 128 × State) :=
  let va := t.kernel.kbase + off
  let s0 := s.updMe fun t => { t with bundle := none }
  if off < 0x80 || 0x80 + t.kernel.codeSize ≤ off then .error (s0.takeTrap 0x02 0 0)
  else
    match s.look t.unit t.ctx va .fetch with
    | .window _ => .error (s0.takeTrap 0x08 0xFFFF (BitVec.ofNat 64 va))
    | .trap c => .error (s0.takeTrap c 0xFFFF (BitVec.ofNat 64 va))
    | .miss => .error ((s0.askPage t.unit t.ctx va).blockOn (.page t.unit (va / 4096)))
    | .fault k l e => .error ((s0.dropFaulted t.unit t.ctx).teamFault va k l Access.fetch.code e)
    | .ok pa x =>
      let s := s.claim pa x
      if (s.line? .code t.unit t.ctx (va / 128)).isNone && s.poisoned pa 16 then .error (s.consumeHere 5 (BitVec.ofNat 64 va))
      else
        let (bs, s) := s.cacheRead .code t.unit t.ctx va pa 16 x (s.lineBytes pa)
        .ok (BitVec.ofNat 128 (leNat bs), s)

/-- A slot of a bundle: a literal slot that a resume names is an illegal bundle (R254). -/
def State.slotOf (s : State) (t : Team) (b : BitVec 128) : Fetched :=
  let c := Control.ofWord (bundleWord b 0)
  let k := (t.pc.extractLsb' 2 2).toNat
  if c.isLit k then .stop (s.takeTrap 0x02 c.kind.toNat 0)
  else .go s (bundleWord b k) (slotLit b c k)

/-- The breakpoint check before slot 1 of a bundle (R470): the state in which the team has halted, if it does. -/
def State.breakCheck (s : State) (t : Team) : Except State State :=
  match (if t.tlevel || t.bpSkip || t.stepState == 1 then none
      else s.breakpointAt t.ctx (t.kernel.kbase + (bundleOf t.pc).toNat)) with
  | some k => .error (s.haltTeam s.cur 2 k)
  | none => .ok (s.updMe fun t => { t with bpSkip := false })
/-- The safe-point check before slot 1 of a safe-point bundle issues: a restored team gets its control state back and makes no
check (R51, R346); a team with a request is redirected. A slot that has begun is not given up. -/
def State.safePointCheck (s : State) (t : Team) (c : Control) : Except State State :=
  if c.kind != 1#2 || !t.unbegun then .ok s
  else
    match t.reinstate with
    | some r =>
      let s := s.reinstateTeam s.cur r
      match s.me with
      | some t => if t.halt = 0 then .ok s else .error s
      | none => .error s
    | none => if t.spReq && !t.spSkip && !t.tlevel && !t.saving then .error (s.redirect c.spidx.toNat) else .ok s

/-- BUNDLE FETCH: the next slot of the current team. A slot at which the team was blocked is read from the bundle it holds. -/
def State.fetch (s : State) : Fetched :=
  match s.me with
  | none => .stop s
  | some t =>
    let off := (bundleOf t.pc).toNat
    let first := t.pc.extractLsb' 2 2 == 1#2
    match (match t.bundle with | some (o, b) => if o == off && (!first || t.blk.isSome) then some b else none | none => none) with
    | some b =>
      match (if first then s.safePointCheck t (Control.ofWord (bundleWord b 0)) else .ok s : Except State State) with
      | .error s => .stop s
      | .ok s => s.slotOf t b
    | none =>
      match s.readBundle t off with
      | .error s => .stop s
      | .ok (b, s) =>
        let c := Control.ofWord (bundleWord b 0)
        if c.kind == 2#2 then .stop (s.updMe fun t => { t with pc := BitVec.ofNat 32 (off + 20), bundle := none, blk := none })
        else if bundleBad b t.kernel.spCount then .stop (s.takeTrap 0x02 c.kind.toNat 0)
        else
          let s := s.updMe fun t => { t with bundle := some (off, b) }
          match (if first then
              match s.breakCheck t with
              | .error s => .error s
              | .ok s => s.safePointCheck t c
            else .ok s : Except State State) with
          | .error s => .stop s
          | .ok s => s.slotOf t b

end Sys2Proof.Machine
end

