-- ==== Sys2Proof/Machine/Place.lean ====
section
/-! DEFINITION. A team as it starts (R19), and the smallest machine that runs one instruction: one context, one gang of one
crew of one team. -/

namespace Sys2Proof.Machine

/-- A kernel with the code base and code size given and no further needs. -/
def Kernel.plain (kbase codeSize : Nat) (trapEntry : Option Word) (ctl : Bool) : Kernel :=
  ⟨kbase, codeSize, trapEntry, 0, 0, false, true, false, ctl, 1024⟩

/-- A team of `lanes` lanes as it starts (R19): v0 holds the lane index; `live` are its lanes. -/
def Team.start (ctx lanes : Nat) (isCtl : Bool) (k : Kernel) (entry : Word) (param : DWord) (live : Mask) : Team where
  ctx := ctx
  gang := 0
  crew := 0
  role := 0
  idx := 0
  roleTeams := 1
  lanes := lanes
  isCtl := isCtl
  cluster := 0
  core := 0
  datapath := 0
  rindex := 0
  gangReg := 0
  gridReg := 0
  ident := 0
  prio := 0
  kernel := k
  vregs := 8
  sregs := 8
  saveBase := 0
  taskSlot := none
  taskFutures := []
  v := ((List.range lanes).filter (· != 0)).map fun l => (l, BitVec.ofNat 32 l)
  s := SMap.set 0 (SMap.set 0 [] 0 (param.extractLsb' 0 32)) 1 (param.extractLsb' 32 32)
  p := []
  ex := live
  live := live
  pc := entry + 4
  bundle := none
  slots := noSlots
  levels := noLevels
  level := baseLevel
  blk := none
  done := 0
  kept := []
  mark := none
  yielded := false
  noPath := false
  openCount := 0
  nextTag := 0
  tags := List.replicate 8 ⟨0, false⟩
  copies := []
  fmode := 0
  fstat := 0
  depth := 0
  check := false
  clockh := 0
  tpc := 0
  tcause := 0
  tex := 0
  taddr := 0
  tlevel := false
  pends := []
  inflight := []
  earliest := 0
  lastSetU := false
  zeroStall := false
  placed := 0
  lastIssue := 0
  yieldUntil := 0
  enters := []
  sectTraps := []
  halt := 0
  haltFrom := 0
  haltClk := 0
  faultSeq := none
  bpSkip := false
  stepState := 0
  watchHit := none
  spReq := false
  spSkip := false
  reinstate := none
  saving := false
  saveIdx := 0
  gone := false
  ended := false
  edits := []
  haltWanted := false

/-- A barrier of a new crew whose team count is `n` (R229). -/
def Barrier.new (n : Nat) : Barrier := ⟨n, 0, 0, 0, 0⟩
/-- No checkpoint yet (R445). -/
def Rollback.none : Rollback := ⟨0, true, false, Option.none, Option.none, Option.none, [], [], Option.none, [], [], [], []⟩
/-- A crew as it is placed (R229, R278): an empty window, sixteen barriers. -/
def Crew.new (core scratch teams : Nat) : Crew :=
  ⟨core, scratch, [], [], [], List.replicate 16 (Barrier.new teams), Rollback.none⟩
/-- An unused weight slot. -/
def WeightSlot.empty : WeightSlot := ⟨false, none, 0, [], 0, 0⟩
/-- The matrix array as a gang gets it (R355). -/
def Array.new : Array where
  cmds := []
  queues := List.replicate 8 []
  pushers := List.replicate 8 []
  tiles := []
  tilePoison := []
  kc := [0, 0, 0, 0]
  slots := List.replicate 8 WeightSlot.empty
  fmt := none
  mmaskip := false
  wblderr := false
  fmtrej := false
  corr := 0
  ramp := .cold
  idleFrom := 0
  burst := 0
  mmaDone := 0
  burstTaken := false
  draining := none
  drained := 0
  chunk := none
  trapDue := none
  halted := none

/-- A context as it is configured, its descriptor all zero but for the root table. -/
def Context.blank (part channel root : Nat) : Context where
  configured := true
  terminated := false
  part := part
  channel := channel
  root := root
  fring := 0
  flog := 0
  tmpl := 0
  tgt := 0
  tcount := 0
  mbox := 0
  secBase := 0
  secLog := 0
  homePkg := 0
  pkgIdx := 0
  wdom := none
  rdoms := []
  regva := 0
  tpool := 0
  tpcount := 0
  tpsize := 0
  desc := 0
  dcount := 0
  sectime := 0x01000000
  regs := []
  eventSeq := 1
  events := []
  faultSeq := 1
  taskSerial := 0
  taskSlots := []
  futures := []
  service := none
  streams := []
  haltRecs := []
  wpAdmitted := []

/-- A cluster with idle engines. -/
def Cluster.idle : Cluster := ⟨[], [], [], 0, 0, []⟩
/-- A gang of one crew of one team with kernel `k`. -/
def Gang.single (k : Kernel) (array : Option Array) : Gang where
  ctx := 0
  part := 0
  grid := 0
  number := 0
  task := false
  prio := 0
  size := 1
  cluster := 0
  baseCore := 0
  crews := [Crew.new 0 1024 1]
  array := array
  residency := .resident
  requested := none
  stopFrom := none
  timeoutSent := false
  placedClk := 0
  area := 0
  param := 0
  kernel := k

/-- The machine with one team that is about to fetch a bundle of one instruction: context 0, code base 0, the bundle at offset
0x80, a trap entry at offset 0x100, all of page 0 mapped for reads and writes at frame 0. -/
def State.withTeam (s : State) (isCtl : Bool) (bundle : List Byte) : State :=
  let k := Kernel.plain 0 0x200 (some 0x100) isCtl
  let t := Team.start 0 (if isCtl then 0 else 32) isCtl k 0x80 0 (if isCtl then 0 else 0xFFFFFFFF)
  { s with
    cur := 0
    teams := [(0, t)]
    gangs := [(0, Gang.single k (if isCtl then some Array.new else none))]
    clusters := [(0, Cluster.idle)]
    contexts := [(0, Context.blank 0 0 0x10000)]
    translations := [⟨unitOf 0 (if isCtl then 4 else 0), 0, 0, 4096, 0, true, true, 0, 0⟩]
    mem := Memory.writes s.mem 0x80 bundle }

end Sys2Proof.Machine
end

