-- ==== Sys2Proof/Machine/Cards.lean ====
section
/-! DEFINITION. The geometry of a yarder card (R300 to R303, R306, R308 to R312): its fields, its landings and the bytes that each
moves, its regions, and the permits that a FILLFULL job waits for (R309). -/

namespace Sys2Proof.Machine

/-- A field of a card (R300). -/
def Card.f (c : Card) (off n : Nat) : Nat := field c.bytes.toNat off n
/-- A field of a card's shape record (R302). -/
def Card.sf (c : Card) (off n : Nat) : Nat := field c.shape.toNat off n
/-- KIND (R300): 1 COPY, 2 GATHER, 3 SCATTER, 4 FILL, 5 TREEOUT, 6 RAST, 7 XRED. -/
def Card.kind (c : Card) : Nat := c.f 0 1
/-- A bit of FLAGS (R301): 0 FILLFULL, 1 MCAST, 2 BARRIER, 3 SPAD, 4 STORE. -/
def Card.flag (c : Card) (k : Nat) : Bool := c.f 1 1 / 2 ^ k % 2 == 1
/-- Whether the box is the destination: COPY with STORE, or SCATTER. -/
def Card.outward (c : Card) : Bool := (c.kind == 1 && c.flag 4) || c.kind == 3
/-- Whether the job writes into scratchpad windows. -/
def Card.fillsPad (c : Card) : Bool := c.flag 3 && !c.outward
/-- Whether the job steps full/empty bits (R309). -/
def Card.steps (c : Card) : Bool := c.flag 0 && c.fillsPad
/-- The rows of the linear side: the rows of the box, or the indices. -/
def Card.rows (c : Card) : Nat := if c.kind = 1 || c.kind = 4 then c.f 0x14 2 * c.f 0x16 2 else c.f 0x30 4
/-- The bytes of a row. -/
def Card.width (c : Card) : Nat := c.f 0x10 4
/-- The crew and byte offset that DST names as a scratchpad offset (R170). -/
def Card.pad (c : Card) : Nat × Nat := decodeOffset c.crew (BitVec.ofNat 32 (c.f 0x18 4))
/-- The crews whose windows the linear side lies in: MCAST writes every crew's, and a window that is read is the one that DST names (R301,
R309, R320). -/
def Card.members (c : Card) (size : Nat) : List Nat := if c.flag 1 && !c.outward then List.range size else [c.pad.1]
/-- The number of a card's landings for a gang of `size` crews: runs of up to 128 bytes of a row, or word steps. -/
def Card.landings (c : Card) (size : Nat) : Nat :=
  if c.steps then c.rows * (c.width / 4) * (c.members size).length else c.rows * ((c.width + 127) / 128)
/-- The row, the first byte in the row and the number of bytes of a landing. -/
def Card.part (c : Card) (size piece : Nat) : Nat × Nat × Nat :=
  if c.steps then
    let j := piece / (c.members size).length
    (j / (c.width / 4), 4 * (j % (c.width / 4)), 4)
  else
    let n := (c.width + 127) / 128
    (piece / n, 128 * (piece % n), min 128 (c.width - 128 * (piece % n)))
/-- The distance of a row from the start of the linear side (R302, R310). -/
def Card.rowAt (c : Card) (row : Nat) : Nat :=
  if c.kind = 1 || c.kind = 4 then
    row / c.f 0x14 2 * c.f 0x24 4 + row % c.f 0x14 2 * c.f 0x20 4
  else row * c.f 0x20 4
/-- The bytes of the linear side from its start (R304): 0 for an empty box or no index. -/
def Card.span (c : Card) : Nat :=
  if c.rows = 0 || c.width = 0 then 0
  else if c.kind = 1 || c.kind = 4 then
    (c.f 0x16 2 - 1) * c.f 0x24 4 + (c.f 0x14 2 - 1) * c.f 0x20 4 + c.width
  else (c.rows - 1) * c.f 0x20 4 + c.width

/-- A side of a landing. -/
inductive Side where
  | none
  | mem (va : Nat)
  | pad (crews : List Nat) (off : Nat)
  deriving DecidableEq, Repr
/-- What a landing moves: `n` bytes from `src`, or the bytes `lit`, then `zeros` zero bytes, to `dst`; `count` bytes of the linear
side are counted off a barrier (R308, R310, R312, R320). -/
structure Move where
  src : Side
  n : Nat
  lit : List Byte
  zeros : Nat
  dst : Side
  count : Nat
  deriving DecidableEq, Repr
/-- The move of a landing; `idx` is the index read for its row (R310). -/
def Card.move (c : Card) (size piece idx : Nat) : Move :=
  let (row, x0, len) := c.part size piece
  let at_ := c.rowAt row + x0
  let crews := if c.steps then [(c.members size).getD (piece % (c.members size).length) 0] else c.members size
  let lin : Side := if c.flag 3 then .pad crews (c.pad.2 + at_) else .mem (c.f 0x18 8 + at_)
  if c.kind = 4 then ⟨.none, 0, (List.range len).map fun k => BitVec.ofNat 8 (c.f (0x28 + (x0 + k) % 8) 1), 0, lin, len⟩
  else
    let x := c.f 8 4 + x0
    let y := if c.kind = 1 then c.f 0xC 2 + row % c.f 0x14 2 else idx
    let z := if c.kind = 1 then c.f 0xE 2 + row / c.f 0x14 2 else c.f 0xE 2
    let inside := if y < c.sf 0xC 4 && z < c.sf 0x18 4 then min len (c.sf 8 4 - x) else 0
    let box : Side := .mem (c.sf 0 8 + z * c.sf 0x1C 4 + y * c.sf 0x14 4 + x)
    if c.outward then ⟨lin, inside, [], 0, box, len⟩ else ⟨box, inside, [], len - inside, lin, len⟩

/-- The regions of a card (R306): the space (0 generic, 1 the crew's scratchpad), the bytes, or all of the space. -/
structure Region where
  space : Nat
  all : Bool
  lo : Nat
  hi : Nat
  deriving DecidableEq, Repr
/-- The regions in use among `n` from an offset. -/
def Card.regions (c : Card) (off n : Nat) : List Region :=
  (List.range n).filterMap fun i =>
    let r := c.f (off + 8 * i) 8
    let line := r / 128 % 2 ^ 45
    if r % 2 = 1 then some ⟨r / 2 % 2, r / 4 % 2 == 1, 128 * line, 128 * (line + r / 2 ^ 52 + 1)⟩ else none
/-- Whether a region breaks R306. -/
def Card.badRegion (c : Card) (i : Nat) : Bool :=
  let r := c.f (0x40 + 8 * i) 8
  r / 8 % 16 != 0 || (r % 2 == 0 && r != 0) || (c.aperture && r / 2 % 2 == 1)
/-- The space of a card's region: scratchpads of different crews are different spaces. -/
def Card.place (c : Card) (r : Region) : Option (Option Nat × Nat) := if r.space = 1 then some (c.gang, c.crew) else none
/-- Whether regions of two cards overlap (R307). -/
def overlaps (a b : Card) (r q : Region) : Bool :=
  a.place r == b.place q && (r.all || q.all || (decide (r.lo < q.hi) && decide (q.lo < r.hi)))
/-- Whether two cards conflict (R307). -/
def conflicts (a b : Card) : Bool :=
  let hit (x y : Card) : Bool := (x.regions 0x60 2).any fun r => (y.regions 0x40 6).any fun q => overlaps x y r q
  hit a b || hit b a

/-- The size of a card's gang. -/
def State.cardSize (s : State) (c : Card) : Nat :=
  match c.gang.bind fun g => s.gangs.find g with | some g => g.size | none => 1
/-- Whether the word of a step is empty (R309). -/
def State.permit (s : State) (c : Card) (piece : Nat) : Bool :=
  match (c.move (s.cardSize c) piece 0).dst with
  | .pad (k :: _) off =>
    match c.gang.bind fun g => (s.gangs.find g).bind (·.crew? k) with
    | some cr => !cr.full.get false (off / 4)
    | none => true
  | _ => true
/-- Whether a job waits on a permit (R325): steps are left, and no word of one is empty. -/
def State.waitsPermit (s : State) (c : Card) : Bool :=
  c.started && c.fail.isNone && c.halted.isNone && c.steps && decide (c.landed.length < c.landings (s.cardSize c)) &&
  !((List.range (c.landings (s.cardSize c))).any fun p => !c.landed.get false p && s.permit c p)

end Sys2Proof.Machine
end

