-- ==== Sys2Proof/Machine/Registers.lean ====
section
/-! DEFINITION. The register window of a context (R497): what a read of each register gives, what a write does (R390, R396, R397,
R322 to R325, R370 to R373, R431 to R434, R454 to R456, R462 to R481). -/

namespace Sys2Proof.Machine

/-- A field of a register: `n` bits of `v` at bit `lo`. -/
def fld (lo n v : Nat) : DWord := BitVec.ofNat 64 (v % 2 ^ n * 2 ^ lo)
/-- A register's value after a write that changes the bits of a mask. -/
def masked (old v m : DWord) : DWord := (old &&& ~~~m) ||| (v &&& m)
/-- A write to a register whose VALID bit 63 a written 1 clears, MORE with it (R323, R396, R432, R454). -/
def clearValid (old v : DWord) : DWord := if v.getLsbD 63 then old &&& 0x3FFFFFFFFFFFFFFF#64 else old

/-- Visible cluster number `v` of a context's partition: the physical cluster (R453). -/
def State.physCluster (s : State) (ctx v : Nat) : Option Nat := (s.partitionOf ctx).bind (·.clusters[v]?)
/-- The visible number of a physical cluster in a context's partition (R33, R453). -/
def State.visCluster (s : State) (ctx cluster : Nat) : Nat :=
  match s.partitionOf ctx with | some p => p.clusters.findIdx (· == cluster) | none => 0
/-- The window offset under which the state keeps a register of a physical cluster's part. -/
def clusterReg (cluster off : Nat) : Nat := 0x1000 + 512 * cluster + off
/-- The key of a job stream of a context (R305). -/
def streamKey (cluster chan : Nat) : Nat := 16 * cluster + chan
/-- The next sequence number of a job stream (R305, R322). -/
def Context.nextSeq (c : Context) (cluster chan : Nat) : Nat := c.streams.get 1 (streamKey cluster chan)

/-- SEC_AREA (R396). -/
def Context.secArea (c : Context) : DWord :=
  if c.secLog = 0 then 0
  else fld 32 32 (c.secBase / 65536) ||| fld 28 4 c.homePkg ||| fld 24 4 c.pkgIdx ||| fld 19 5 c.secLog ||| 1
/-- SHC_DOMS (R433). -/
def Context.shcDoms (c : Context) : DWord :=
  (match c.wdom with | some d => fld 59 1 1 ||| fld 0 12 d | none => 0) ||| fld 56 3 c.rdoms.length |||
  fld 36 12 (c.rdoms.getD 2 0) ||| fld 24 12 (c.rdoms.getD 1 0) ||| fld 12 12 (c.rdoms.getD 0 0)
/-- The domains of a context, its write domain first (R393, R423). -/
def Context.domains (c : Context) : List Nat := (match c.wdom with | some d => [d] | none => []) ++ c.rdoms
/-- The number under which the state keeps a sharing domain of a partition. -/
def domKey (part id : Nat) : Nat := 4096 * part + id
/-- The valid lines of a domain's table (R397). -/
def State.linesInUse (s : State) (d : Nat) : Nat := match s.domains.find d with | some x => x.table.length | none => 0
/-- The queued cascade steps of a context's domains (R397). -/
def State.cascades (s : State) (c : Context) : Nat := (s.cascade.filter fun e => (c.domains.map (domKey c.part)).contains e.2.1).length
/-- MXA_STAT of a cluster's array (R370). -/
def State.mxaStat (s : State) (ctx cluster : Nat) : DWord :=
  match s.gangs.find? fun g => g.2.cluster == cluster && g.2.ctx == ctx && g.2.array.isSome &&
      (match g.2.residency with | .resident => true | .leaving => true | _ => false) with
  | none => 0
  | some g =>
    match g.2.array with
    | none => 0
    | some a =>
      fld 32 8 a.burst ||| fld 27 5 a.queued.length ||| fld 26 1 (bit a.halted.isSome) ||| fld 25 1 (bit (match a.chunk with | some c => c.stopped | none => false)) |||
      fld 22 3 (match a.ramp with | .cold => 0 | .rampUp => 1 | .active => 2 | .rampDown => 3 | .warm => 4)

/-- Whether a cluster's array serves a resident gang of a context: only then are writes to MXA_INJ heeded (R370, R373). -/
def State.arrayHere (s : State) (ctx cluster : Nat) : Bool :=
  s.gangs.any fun g => g.2.cluster == cluster && g.2.ctx == ctx && g.2.array.isSome &&
    (match g.2.residency with | .resident => true | .leaving => true | _ => false)

/-- The fields of DBG_RIGHT (R462). -/
def holderKind (r : DWord) : Nat := (r.extractLsb' 62 2).toNat
/-- Whether a right bit is granted: 0 HALT, 1 EDIT, 2 WATCH, 3 TRACE (R462). -/
def State.hasRight (s : State) (ctx k : Nat) : Bool := (s.winReg ctx (dbg 0)).getLsbD k
/-- Whether a team belongs to its context's service role (R33, R462). -/
def State.inService (s : State) (t : Team) : Bool :=
  match s.contexts.find t.ctx with
  | some c => match c.service with | some g => t.taskSlot.isNone && BitVec.ofNat 32 g == t.gridReg | none => false
  | none => false
/-- Whether an agent holds the debug right of a context (R463). -/
def State.holds (s : State) (who : Agent) (ctx : Nat) : Bool :=
  let r := s.winReg ctx (dbg 0)
  match who with
  | .host n => holderKind r == 1 && (r.extractLsb' 32 16).toNat == n
  | .team id => holderKind r == 2 && (match s.teams.find id with | some t => t.ctx == ctx && s.inService t | none => false)

/-- Whether a team is resident. -/
def State.residentTeam (s : State) (t : Team) : Bool :=
  !t.ended && !t.gone && (match s.gangs.find t.gang with
    | some g => (match g.residency with | .resident => true | .leaving => true | _ => false)
    | none => false)
/-- The core of the crew that watchpoint `k` of a context watches, while it is enabled and the crew resident (R473). -/
def State.watched (s : State) (ctx k : Nat) : Option (Nat × Nat) :=
  if (s.winReg ctx (dbg (0xC0 + 8 * k))).getLsbD 63 then
    let ident := s.winReg ctx (dbg (0xE0 + 8 * k))
    (s.teams.find? fun (p : Nat × Team) =>
      p.2.ctx == ctx && p.2.ident >>> 10 == ident >>> 10 && s.residentTeam p.2).map fun p => (p.2.cluster, p.2.core)
  else none
/-- Decide again which watchpoints are admitted (R473): those that were keep their places, then each free place of a core goes to
the first enabled one in the order of context and index. -/
def State.admitSets (s : State) : State :=
  let kept : List (Nat × Nat) := s.contexts.flatMap fun (c : Nat × Context) =>
    (c.2.wpAdmitted.filter fun k => (s.watched c.1 k).isSome).map fun k => (c.1, k)
  let all : List (Nat × Nat) := s.contexts.flatMap fun (c : Nat × Context) => (List.range 4).map fun k => (c.1, k)
  let adm := all.foldl (fun (adm : List (Nat × Nat)) w =>
    if adm.contains w then adm
    else
      match s.watched w.1 w.2 with
      | some place => if (adm.filter fun v => s.watched v.1 v.2 == some place).length < 4 then adm ++ [w] else adm
      | none => adm) kept
  { s with contexts := s.contexts.map fun (c : Nat × Context) =>
      (c.1, { c.2 with wpAdmitted := (adm.filter (·.1 == c.1)).map (·.2) }) }

/-- The value of a register of the package part. -/
def State.readPackage (s : State) (who : Agent) (ctx : Nat) (c : Context) (off : Nat) : DWord :=
  if off < 0x800 then
    match off with
    | 0x00 => c.secArea
    | 0x40 => (s.winReg ctx 0x40 &&& 0xFFFFFFFF#64) ||| fld 32 32 (match c.wdom with | some d => s.linesInUse (domKey c.part d) | none => 0)
    | 0x48 => fld 0 32 (s.cascades c)
    | 0x80 => c.shcDoms
    | _ => if off < 0x38 || off == 0x88 || (0xC0 ≤ off && off < 0xE0) then s.winReg ctx off else 0
  else
    let d := off - 0x800
    if d < 0x10 then s.winReg ctx off
    else if !s.holds who ctx then 0
    else if d == 0x30 then 0
    else if d == 0x38 then capRead (s.winReg ctx off)
    else if 0xC0 ≤ d && d < 0xE0 then
      let k := (d - 0xC0) / 8
      masked (s.winReg ctx off) (if (s.watched ctx k).isSome && !c.wpAdmitted.contains k then fld 60 1 1 else 0) (fld 60 1 1)
    else if d < 0x68 || (0x80 ≤ d && d < 0x140) then s.winReg ctx off else 0
/-- The value of a register of a cluster part, or of its aperture (R322). -/
def State.readCluster (s : State) (ctx : Nat) (c : Context) (cluster off : Nat) : DWord :=
  if 0x100 ≤ off && off < 0x180 then BitVec.ofNat 64 (c.nextSeq cluster ((off - 0x100) / 8))
  else
    match off with
    | 0x10 =>
      (s.winReg ctx (clusterReg cluster off) &&& 0xFFFFFFFFFFFF0000#64) ||| fld 0 16 (min 0xFFFF
        (match s.clusters.find cluster with | some k => (k.cards.filter fun x => x.ctx == ctx && s.waitsPermit x).length | none => 0))
    | 0x18 => 0
    | 0x40 => s.mxaStat ctx cluster
    | _ => if off < 0x10 || (0x48 ≤ off && off < 0x60) || (0x80 ≤ off && off < 0x90) then s.winReg ctx (clusterReg cluster off) else 0
/-- A read of a register of a context's window by an agent: only an aligned 8-byte read acts (R497). -/
def State.regRead (s : State) (who : Agent) (ctx off n : Nat) : DWord :=
  match s.contexts.find ctx with
  | none => 0
  | some c =>
    if n ≠ 8 || off % 8 ≠ 0 then 0
    else if off < 0x1000 then s.readPackage who ctx c off
    else
      match s.physCluster ctx ((off - 0x1000) / 512) with
      | some k => s.readCluster ctx c k ((off - 0x1000) % 512)
      | none => 0

/-- A write of GO to a command register: the register with its fields, or as it is where a command runs (R396, R468, R506). -/
def goWrite (old v m : DWord) : DWord := if old.getLsbD 63 then old else masked old v m
/-- Whether a write starts a command. -/
def goStarts (old v : DWord) : Bool := !old.getLsbD 63 && v.getLsbD 63

/-- The section command of an OP (R390). -/
def secEv (ctx op : Nat) : Ev :=
  match op with
  | 1 => .secReset ctx
  | 2 => .secFree ctx
  | 3 => .secQuery ctx
  | 4 => .clearall ctx
  | _ => .secBadOp ctx
/-- The debug command of an OP (R468). -/
def dbgEv (ctx op : Nat) : Ev :=
  match op with
  | 1 => .dbgHalt ctx
  | 2 => .dbgResume ctx
  | 3 => .dbgStep ctx
  | 4 => .dbgQuery ctx
  | 5 => .dbgRead ctx
  | 6 => .dbgEdit ctx
  | 7 => .dbgDiscard ctx
  | _ => .dbgBadOp ctx

/-- An injection into the errors of a context replaces the armed one (R456). -/
def State.setRasInj (s : State) (ctx : Nat) (v : DWord) : State := s.setReg ctx 0xD8 (v &&& 0x800FFFFFFFFFFFF0#64)
/-- An injection into a cluster's matrix array (R373): its chunks are counted from here; a BIT above 591 arms nothing. -/
def State.setMxaInj (s : State) (ctx cluster : Nat) (v : DWord) : State :=
  if !s.arrayHere ctx cluster then s
  else
    let v := v &&& 0xC0FFFFFF003FF000#64
    let v := if 591 < (v.extractLsb' 12 10).toNat then v &&& 0x7FFFFFFFFFFFFFFF#64 else v
    (s.setReg ctx (clusterReg cluster 0x58) v).setReg ctx (clusterReg cluster 0x5C) (v.extractLsb' 48 8 |>.setWidth 64)
/-- Pulses by DBG_PULSE on the granted lines (R478). -/
def State.dbgPulseWrite (s : State) (ctx : Nat) (v : DWord) : State := s.pulse (v &&& s.winReg ctx (dbg 0x08))
/-- A watchpoint register is written, and the admission of its core decided again (R473). -/
def State.dbgWpWrite (s : State) (ctx off : Nat) (v : DWord) : State :=
  let m : DWord := if off < dbg 0xE0 then 0xEFFFFFFFFFFFFFFF#64 else 0xFFFFFFFFFFFFFFFF#64
  (s.setReg ctx off (masked (s.winReg ctx off) v m)).admitSets

/-- A write to a register of the package part. -/
def State.writePackage (s : State) (who : Agent) (ctx off : Nat) (v : DWord) : State :=
  let old := s.winReg ctx off
  if off < 0x800 then
    match off with
    | 0x08 => s.setReg ctx off v
    | 0x10 =>
      let s' := s.setReg ctx off (goWrite old v 0xF0000000FFFFFFFF#64)
      if goStarts old v then s'.post 0 (secEv ctx (v.extractLsb' 60 3).toNat) else s'
    | 0x18 => s.setReg ctx off (clearValid old v)
    | 0x30 => s.setReg ctx off v
    | 0x40 => s.setReg ctx off (v &&& 0xFFFFFFFF#64)
    | 0x88 => s.setReg ctx off v
    | 0xC0 => s.setReg ctx off (clearValid old v)
    | 0xD0 => s.setReg ctx off v
    | 0xD8 => s.setRasInj ctx v
    | _ => s
  else
    let d := off - 0x800
    if d < 0x10 || !s.holds who ctx then s
    else if d == 0x10 || d == 0x18 || d == 0x20 then s.setReg ctx off v
    else if d == 0x28 then
      let s' := s.setReg ctx off (goWrite old v 0xF800000000000000#64)
      if goStarts old v then s'.post 0 (dbgEv ctx (v.extractLsb' 59 4).toNat) else s'
    else if 0x80 ≤ d && d < 0xC0 then
      if s.hasRight ctx 0 then s.setReg ctx off (v &&& 0x800FFFFFFFFFFFF0#64) else s
    else if 0xC0 ≤ d && d < 0x100 then
      if s.hasRight ctx 2 then s.dbgWpWrite ctx off v else s
    else if !s.hasRight ctx 3 then s
    else if d == 0x30 then s.dbgPulseWrite ctx v
    else if d == 0x38 then
      s.setReg ctx off (masked (if v.getLsbD 63 then old &&& 0x7FFFFFFFFFFFFFFF#64 else old) v 0x1FFFFFFFFFFFFFFF#64)
    else if d == 0x50 || d == 0x58 then if (s.winReg ctx (dbg 0x38)).getLsbD 63 then s else s.setReg ctx off v
    else if d == 0x40 || d == 0x48 || d == 0x60 || (0x100 ≤ d && d < 0x140) then s.setReg ctx off v
    else s
/-- A store to an aperture is counted and discarded (R322). -/
def State.apErr (s : State) (ctx cluster : Nat) : State := s.bumpReg ctx (clusterReg cluster 0x10) 16 16
/-- The stream of an agent's posted aperture submissions: they keep their order. -/
def agentStream (who : Agent) : Nat :=
  match who with
  | .team id => 2 ^ 60 + 2 * id
  | .host n => 2 ^ 60 + 2 * n + 1
/-- A write to a register of a cluster part, or a store to its aperture (R322). -/
def State.writeCluster (s : State) (who : Agent) (ctx cluster off : Nat) (v : DWord) : State :=
  let key := clusterReg cluster off
  let old := s.winReg ctx key
  if 0x100 ≤ off && off < 0x180 then
    if v.extractLsb' 8 56 = 0#56 then s.postIn (agentStream who) 0 (.apertureSubmit ctx cluster ((off - 0x100) / 8) v) else s.apErr ctx cluster
  else
    match off with
    | 0x00 => s.setReg ctx key (clearValid old v)
    | 0x10 => s.setReg ctx key (v &&& 0xFFFFFFFFFFFF0000#64)
    | 0x18 => s.post 0 (.yrdAbort ctx v)
    | 0x48 => s.setReg ctx key v
    | 0x50 => s.setReg ctx key (if v.getLsbD 63 then old &&& 0x7FFFFFFFFFFFFFFF#64 else old)
    | 0x58 => s.setMxaInj ctx cluster v
    | 0x80 => s.setReg ctx key v
    | 0x88 => s.setReg ctx key (clearValid old v)
    | _ => s
/-- A write of `n` bytes to a context's window by an agent: only an aligned 8-byte write acts; a discarded store to an aperture is
counted (R322, R497). -/
def State.regWrite (s : State) (who : Agent) (ctx off n : Nat) (v : DWord) : State :=
  match s.contexts.find ctx with
  | none => s
  | some _ =>
    if off < 0x1000 then if n = 8 && off % 8 = 0 then s.writePackage who ctx off v else s
    else
      match s.physCluster ctx ((off - 0x1000) / 512) with
      | none => s
      | some k =>
        let o := (off - 0x1000) % 512
        if n = 8 && off % 8 = 0 then s.writeCluster who ctx k o v
        else if 0x100 ≤ o && o < 0x180 then s.apErr ctx k else s

end Sys2Proof.Machine
end

