-- ==== Sys2Proof/Machine/Access.lean ====
section
/-! DEFINITION. The accesses of a team's slot: the address checks of R162 and R163, the permission check of a whole instruction
(R164, R293), its elements with the done mask of a page fault (R165) and how they join the traffic (R257), and scratchpad words (R170, R172) with their watchpoints
(R473). -/

namespace Sys2Proof.Machine

/-- The lane number that INFO holds for an access of no lane (R226). -/
def noLane : Nat := 0xFFFF

/-- The checks of a generic address: bits 63:52, then the alignment (R162, R163). -/
def addrCheck (a : DWord) (align : Nat) : Option Nat :=
  if a.extractLsb' 52 12 != 0#12 then some 0x08 else if a.toNat % align != 0 then some 0x07 else none
/-- The first element, in lane order, that fails the address checks: cause, lane and address (R162). -/
def firstBad (es : List (Nat × DWord)) (align : Nat) : Option (Nat × Nat × DWord) :=
  es.findSome? fun e => (addrCheck e.2 align).map fun c => (c, e.1, e.2)

/-- What an element of a generic instruction comes to. -/
inductive Perf where
  /-- it is performed: the state, the values on their way, the flags that arrive with them -/
  | ok (s : State) (ws : List RegWrite) (flags : BitVec 5)
  /-- it meets poison at an address (R441) -/
  | poison (s : State) (addr : DWord)

/-- What a whole generic instruction comes to. -/
inductive Acc where
  /-- every element is performed -/
  | all (s : State) (ws : List RegWrite) (flags : BitVec 5)
  /-- an element met poison, with storage code and address -/
  | poison (s : State) (storage : Nat) (addr : DWord) (ws : List RegWrite)
  | res (r : Res)

/-- The lane's bit of the done mask. -/
def laneBit (l : Nat) : Mask := if l = noLane then 1#1024 else 1#1024 <<< l
/-- How a look-up of one address of an instruction stands: `w` says whether the instruction may reach the register window
(R497). -/
def lookFor (s : State) (t : Team) (a : Access) (w : Bool) (addr : DWord) : Looked :=
  if addr.extractLsb' 52 12 != 0#12 then .trap 0x08
  else
    match s.look t.unit t.ctx addr.toNat a with
    | .window off => if w then .window off else .trap 0x08
    | r => r

/-- An element of a generic instruction: its lane and the addresses that it touches. -/
abbrev Elem := Nat × List DWord
/-- An element with its look-ups. -/
abbrev Seen := Nat × List (DWord × Looked)
/-- The first address of an element whose look-up satisfies a test. -/
def Seen.first (e : Seen) (p : Looked → Bool) : Option (Nat × DWord × Looked) :=
  (e.2.find? fun (x : DWord × Looked) => p x.2).map fun x => (e.1, x.1, x.2)
/-- A page that the filter lacks. -/
def Looked.isMiss (k : Looked) : Bool := match k with | .miss => true | _ => false
/-- A trap outcome. -/
def Looked.isTrap (k : Looked) : Bool := match k with | .trap _ => true | _ => false
/-- A page fault. -/
def Looked.isFault (k : Looked) : Bool := match k with | .fault _ _ _ => true | _ => false

/-- Perform elements in order; the first that meets poison ends the slot. -/
def performAll (f : State → Nat → List (DWord × Looked) → Perf) : List Seen → State → List RegWrite → BitVec 5 → Acc
  | [], s, ws, fl => .all s ws fl
  | e :: es, s, ws, fl =>
    match f s e.1 e.2 with
    | .ok s ws' fl' => performAll f es s (ws ++ ws') (fl ||| fl')
    | .poison s addr => .poison s 5 addr ws

/-- The frames that a permitted page's access claims (R294). -/
def State.claimOf (s : State) (k : Looked) : State := match k with | .ok pa x => s.claim pa x | _ => s
/-- Look an element's addresses up in order, each under the claims of those before it. -/
def seeElem (t : Team) (a : Access) (w : Bool) : List DWord → State → List (DWord × Looked) × State
  | [], s => ([], s)
  | x :: xs, s =>
    let k := lookFor s t a w x
    let (ks, s) := seeElem t a w xs (s.claimOf k)
    ((x, k) :: ks, s)
/-- Look the elements of an instruction up in lane order: the first of two names of a free frame claims it, so that the second breaks the
frame rule (R164, R294). -/
def seeAll (t : Team) (a : Access) (w : Bool) : List Elem → State → List Seen × State
  | [], s => ([], s)
  | e :: es, s =>
    let (ks, s) := seeElem t a w e.2 s
    let (rest, s) := seeAll t a w es s
    ((e.1, ks) :: rest, s)
/-- The elements of a slot that earlier attempts have not done (R165). -/
def Team.todo {α : Type} (t : Team) (es : List (Nat × α)) : List (Nat × α) := es.filter fun e => t.done &&& laneBit e.1 == 0#1024

/-- How the elements of a generic instruction stand before any is performed. -/
inductive Sight where
  /-- elements on permitted pages, the state with their frames claimed, and a page that is not present: address, KIND, LEVEL and ENTRY -/
  | go (s : State) (good : List Seen) (bad : Option (DWord × Nat × Nat × DWord))
  | res (r : Res)
/-- The check of a generic instruction of the current team: those elements done in earlier attempts are left out; a page that the filter
lacks blocks the slot before any element; a trap performs none (R164, R165, R293). -/
def sight (t : Team) (s : State) (a : Access) (w : Bool) (es : List Elem) : Sight :=
  let (seen, s') := seeAll t a w (t.todo es) s
  match seen.findSome? (Seen.first · Looked.isMiss) with
  | some (_, addr, _) => .res (.block (s.askPage t.unit t.ctx addr.toNat) (.page t.unit (addr.toNat / 4096)))
  | none =>
    match seen.findSome? (Seen.first · Looked.isTrap) with
    | some (l, addr, k) => .res (.trap (match k with | .trap c => c | _ => 0) l addr)
    | none => .go s' (seen.filter fun e => (Seen.first e Looked.isFault).isNone)
        (match seen.findSome? (Seen.first · Looked.isFault) with
          | some (_, addr, .fault k lv en) => some (addr, k, lv, en)
          | _ => none)
/-- The done mask with the lanes of performed elements (R165). -/
def markDone (m : Mask) (good : List Seen) : Mask := good.foldl (fun (m : Mask) (e : Seen) => m ||| laneBit e.1) m
/-- The current team halts at a slot part of whose elements are done (R165, R297). -/
def State.haltPart (s : State) (t : Team) (a : Access) (good : List Seen) (group : Option Nat) (bad : DWord × Nat × Nat × DWord) : State :=
  let s := s.updMe fun t => { t with done := markDone t.done good, mark := if good.isEmpty then t.mark else group }
  (s.dropFaulted t.unit t.ctx).teamFault bad.1.toNat bad.2.1 bad.2.2.1 a.code bad.2.2.2

/-- The elements `es` of a generic instruction that act at its issue: those on permitted pages are performed by `f`, and a page
that is not present then halts the team (R164, R165, R293, R297). -/
def genericMany (t : Team) (s : State) (a : Access) (w : Bool) (es : List Elem)
    (f : State → Nat → List (DWord × Looked) → Perf) : Acc :=
  match sight t s a w es with
  | .res r => .res r
  | .go s good bad =>
    match performAll f good s [] 0 with
    | .all s ws fl =>
      match bad with
      | some b => .res (.stop ((s.updMe fun t => (t.land ws).raise fl).haltPart t a good t.mark b))
      | none => .all s ws fl
    | r => r

/-- The accesses of a slot belong to one pending result: that of earlier attempts (R165), or a new one. A slot without a result only takes
a serial number. -/
def State.openGroup (s : State) (t : Team) (i : Instr) (reason : Option Nat) : State × Nat :=
  match t.ownGroup with
  | some g => (s, g)
  | none =>
    match reason with
    | some r => (s.markPending i r .arriving, s.serial)
    | none => ({ s with serial := s.serial + 1 }, s.serial)
/-- An access to where an address has been found to lie. -/
def placeOf (s : State) (k : Looked) : Option Place :=
  match k with
  | .ok pa x => some (.mem pa (s.lineName pa).home.1 x)
  | .window off => some (.reg off)
  | _ => none
/-- An access of a team joins the traffic (R257). -/
def State.issue (s : State) (t : Team) (group unit : Nat) (addr : DWord) (k : Looked) (n : Nat) (kind : OpKind) (ord : Option (BitVec 3))
    (dest : Option (RFile × Nat)) (lane : Nat) : State :=
  match placeOf s k with
  | none => s
  | some p =>
    { s with
      serial := s.serial + 1
      traffic := s.traffic ++ [⟨s.serial, s.cur, t.ctx, group, unit, t.cluster, t.core, t.pc, addr.toNat, p, n, kind, ord, dest, lane, [], none⟩] }
/-- The elements of an instruction that touch one address for each lane join the traffic, in lane order; a page that is not present
then halts the team (R164, R165, R168, R297). `f` issues one element under the number of the slot's result. -/
def accesses (i : Instr) (t : Team) (s : State) (a : Access) (w : Bool) (reason : Option Nat) (es : List (Nat × DWord))
    (f : State → Nat → Nat → DWord → Looked → State) : Res :=
  match sight t s a w (es.map fun e => (e.1, [e.2])) with
  | .res r => r
  | .go s good bad =>
    let (s, g) := if good.isEmpty then (s, 0) else s.openGroup t i reason
    let s := good.foldl (fun (s : State) (e : Seen) => match e.2 with | (addr, k) :: _ => f s g e.1 addr k | [] => s) s
    match bad with
    | some b => .stop (s.haltPart t a good (some g) b)
    | none => .done s

/-- A team reads a line at its issue, through its core's L1 and under its write buffer (R282). -/
def State.readNow (s : State) (t : Team) (va pa n : Nat) (x : Translation) : State × Option Nat :=
  let held := s.heldOf t
  if s.meetsPoison (s.l1Unit t va) t.cluster t.core t.ctx va pa n (fun _ => true) held then (s, none)
  else
    let (bs, s) := s.readL1 (s.l1Unit t va) t.cluster t.core t.ctx va pa n x (fun _ => true) held
    (s, some (leNat bs))
/-- A load of `n` bytes by a team at its issue: the bytes as a number, or poison. -/
def State.teamLoad (s : State) (t : Team) (addr : DWord) (n : Nat) (k : Looked) : State × Option Nat :=
  match k with
  | .ok pa x => s.readNow t addr.toNat pa n x
  | _ => (s, some 0)
/-- A generic load's element joins the traffic (R168, R207). -/
def State.issueLoad (s : State) (t : Team) (group : Nat) (addr : DWord) (n : Nat) (k : Looked) (dest : RFile × Nat) (lane : Nat) : State :=
  s.issue t group (s.l1Unit t addr.toNat) addr k n (.load .l1) none (some dest) lane
/-- The bytes of a store go into the interval store buffer of a rollback crew (R274). -/
def State.holdStore (s : State) (t : Team) (va pa : Nat) (bs : List Byte) : State :=
  s.updCrew t.gang t.crew fun c =>
    { c with rb := { c.rb with held := (bs.mapIdx fun k b => (va + k, pa + k, b)).reverse ++ c.rb.held } }
/-- A plain store's element: held in an eligible interval of a rollback crew while the buffer has room, else it joins the traffic (R274, R282,
R448). -/
def State.issueStore (s : State) (t : Team) (group : Nat) (addr : DWord) (bs : List Byte) (k : Looked) (lane : Nat) : State :=
  let go (s : State) : State := s.issue t group (s.l1Unit t addr.toNat) addr k bs.length (.store bs) none none lane
  match k, (if t.kernel.rollback then s.crewOf t else none) with
  | .ok pa _, some c =>
    if !c.rb.eligible then go s
    else if decide (s.heldEntries t.cluster c.core < 1024) || c.rb.held.any (fun h => h.2.1 / 16 == pa / 16) then s.holdStore t addr.toNat pa bs
    else
      let s := s.drainHeld t.gang t.crew
      let s := s.updCrew t.gang t.crew fun c => { c with rb := { c.rb with eligible := false } }
      go (s.bumpReg t.ctx 0xD0 32 16)
  | _, _ => go s

/-- A load's result, `later` with its reason, or the poison on its way to the destination (R441). -/
def Acc.toLoad (r : Acc) (reason : Nat) : Res :=
  match r with
  | .all s ws fl => .later s reason (.values ws fl)
  | .poison s st addr _ => .later s reason (.poison st addr)
  | .res r => r
/-- A posted instruction's result. -/
def Acc.toDone (r : Acc) : Res :=
  match r with
  | .all s _ _ => .done s
  | .poison s st addr ws => .stop ((s.updMe fun t => t.land ws).consumeHere st addr)
  | .res r => r
/-- Whether `n` bytes at an offset lie in the window that it names (R170). -/
def State.inWindow (s : State) (t : Team) (o : Word) (n : Nat) : Bool :=
  let (c, off) := decodeOffset t.crew o
  match s.gangOf t with
  | some g =>
    o.extractLsb' 21 11 == 0#11 && decide (c < g.size) &&
    (match g.crew? c with | some cr => decide (off + n ≤ cr.scratch) | none => false)
  | none => false
/-- The first scratchpad offset, in lane order, that fails the checks of R162: bounds, then alignment. -/
def State.badOffset (s : State) (t : Team) (es : List (Nat × Word)) (n align : Nat) : Option (Nat × Nat × DWord) :=
  es.findSome? fun e =>
    if !s.inWindow t e.2 n then some (0x06, e.1, e.2.setWidth 64)
    else if e.2.toNat % align != 0 then some (0x07, e.1, e.2.setWidth 64)
    else none
/-- A word of a crew's window. -/
def Crew.word (c : Crew) (w : Nat) : Word := c.window.get 0 w
/-- A store of a whole word: its poison is cleared (R440). -/
def Crew.setWord (c : Crew) (w : Nat) (x : Word) : Crew :=
  Crew.soiled { c with window := c.window.set 0 w x, poison := c.poison.set false w false } w
/-- The crew at an offset of a team. -/
def State.crewAt (s : State) (t : Team) (o : Word) : Option Crew :=
  (s.gangOf t).bind (·.crew? (decodeOffset t.crew o).1)
/-- A word read through a team's offset: word number `k` from it. -/
def State.spadWord (s : State) (t : Team) (o : Word) (k : Nat) : Word :=
  match s.crewAt t o with | some c => c.word ((decodeOffset t.crew o).2 / 4 + k) | none => 0
/-- Whether one of `n` words at an offset is poisoned. -/
def State.spadPoison (s : State) (t : Team) (o : Word) (n : Nat) : Bool :=
  match s.crewAt t o with
  | some c => (List.range n).any fun k => c.poison.get false ((decodeOffset t.crew o).2 / 4 + k)
  | none => false
/-- The offset of the first poisoned word among `n` words from an offset, which RAS_ADDR names (R455). -/
def State.spadPoisonAt (s : State) (t : Team) (o : Word) (n : Nat) : Option Word :=
  ((List.range n).find? fun k => s.spadPoison t (o + BitVec.ofNat 32 (4 * k)) 1).map fun k => o + BitVec.ofNat 32 (4 * k)
/-- Words written through a team's offset. -/
def State.spadStore (s : State) (t : Team) (o : Word) (ws : List Word) : State :=
  let (c, off) := decodeOffset t.crew o
  s.updCrew t.gang c fun c => (ws.mapIdx fun k w => (off / 4 + k, w)).foldl (fun c w => c.setWord w.1 w.2) c
/-- The full/empty bit at an offset. -/
def State.isFull (s : State) (t : Team) (o : Word) : Bool :=
  match s.crewAt t o with | some c => c.full.get false ((decodeOffset t.crew o).2 / 4) | none => false
/-- Set or clear the full/empty bit at an offset. -/
def State.setFull (s : State) (t : Team) (o : Word) (b : Bool) : State :=
  let (c, off) := decodeOffset t.crew o
  s.updCrew t.gang c fun c => Crew.soiled { c with full := c.full.set false (off / 4) b } (off / 4)

/-- The admitted watchpoints of a context that an access of one window offset meets (R473): `wr` says that it writes. Watchpoints
are permitted with WATCH (R462). -/
def State.watchSet (s : State) (t : Team) (o : Word) (n : Nat) (wr : Bool) : Nat :=
  match s.contexts.find t.ctx with
  | none => 0
  | some c =>
    if c.wpAdmitted.isEmpty || !(s.winReg t.ctx (dbg 0)).getLsbD 2 then 0
    else
      let (k, off) := decodeOffset t.crew o
      c.wpAdmitted.foldl (fun acc i =>
        let r := s.winReg t.ctx (dbg (0xC0 + 8 * i))
        let ident := s.winReg t.ctx (dbg (0xE0 + 8 * i))
        let same := (ident >>> 12 == t.ident >>> 12) && (ident.extractLsb' 10 2).toNat == k
        let mask := (r.extractLsb' 40 20).setWidth 32 &&& 0xFFFFC#32
        let hit := (List.range n).any fun j =>
          (BitVec.ofNat 32 (off + 4 * j) ^^^ (r.extractLsb' 0 20).setWidth 32) &&& mask == 0#32
        if same && hit && r.getLsbD (if wr then 61 else 62) then acc ||| 2 ^ i else acc) 0
/-- The watchpoints that a scratchpad slot met, kept until the slot completes (R473). -/
def State.noteWatch (s : State) (t : Team) (es : List (Nat × Word)) (n : Nat) (wr : Bool) : State :=
  let hits := (es.map fun e => (e.1, e.2, s.watchSet t e.2 n wr)).filter (·.2.2 != 0)
  match hits with
  | [] => s
  | h :: _ =>
    let group := h.1 / 32
    let set := hits.foldl (fun acc e => acc ||| e.2.2) 0
    let mask := hits.foldl (fun acc e => if e.1 / 32 = group then acc ||| (1#32 <<< (e.1 % 32)) else acc) 0#32
    s.updMe fun t => { t with watchHit :=
      match t.watchHit with
      | some (set', g, m, o) => some (set' ||| set, g, if g = group then m ||| mask else m, o)
      | none => some (set, group, mask, h.2.1) }

/-- The descriptor slot of a handle, read by the current team as a generic read (R25, R496): its 64 bytes, or what the slot comes
to. `lane` is the lane that a trap names. -/
def State.readSlot (s : State) (t : Team) (handle : Word) (lane reason : Nat) : Except Res (State × Nat) :=
  match s.contexts.find t.ctx with
  | none => .error (.trap 0x0B 0 (handle.setWidth 64))
  | some c =>
    let k := handle.toNat / 4096
    let va : DWord := BitVec.ofNat 64 (c.desc + 64 * k)
    if c.dcount ≤ k || c.inWindow va.toNat then .error (.trap 0x0B 0 (handle.setWidth 64))
    else
      match lookFor s t .read false va with
      | .miss => .error (.block (s.askPage t.unit t.ctx va.toNat) (.page t.unit (va.toNat / 4096)))
      | .trap cause => .error (.trap cause lane va)
      | .fault kd lv en => .error (.stop ((s.dropFaulted t.unit t.ctx).teamFault va.toNat kd lv 0 en))
      | x =>
        match (s.claimOf x).teamLoad t va 64 x with
        | (s, some n) => .ok (s, n)
        | (s, none) => .error (.later s reason (.poison 5 va))
/-- Whether a descriptor slot holds no record of a kind under the handle's generation (R496): GEN, the reserved bytes, KIND. -/
def slotStale (r : Nat) (handle : Word) (kind : Nat) : Bool :=
  field r 0x20 2 != handle.toNat % 4096 || field r 0x20 2 == 0 || field r 0x22 30 != 0 || field r 0x10 1 != kind

/-- Whether a scratchpad slot of a rollback crew must wait for its checkpoint: it reaches a member's window through bit 20
(R445). -/
def State.needsCheckpoint (s : State) (t : Team) (es : List (Nat × Word)) : Bool :=
  t.kernel.rollback && es.any (·.2.getLsbD 20) && !condHolds s s.cur t .checkpoint
/-- The slot of the current team asks for a checkpoint and blocks (R445). -/
def State.wantCheckpoint (s : State) (t : Team) : Res :=
  .block (s.updCrew t.gang t.crew fun c => { c with rb := { c.rb with wanted := some s.cur } }) .checkpoint

/-- What a copy's deferred outcome does at a slot that waits for its batch (R179): a page fault halts the team there; a trap is
raised there, and the batch is discarded. -/
def State.copyOutcome (s : State) (t : Team) (tags : List Nat) (all : Bool) : Option Res :=
  (t.stuckCopy tags all).map fun c =>
    match c.fate with
    | .trapped cause =>
      let s := s.updMe fun t => { t with
        copies := t.copies.filter fun k => k.tag != c.tag
        openCount := if c.tag.isNone then 0 else t.openCount
        tags := match c.tag with | some g => t.tags.set g ⟨0, false⟩ | none => t.tags }
      .trapIn s cause c.lane c.src
    | _ =>
      match s.lookWalk t.unit t.ctx c.src.toNat .read with
      | .fault k l e => .stop (s.teamFault c.src.toNat k l 0 e)
      | _ => .stop (s.updMe fun t => { t with copies := t.copies.map fun k => if k.serial = c.serial then { k with fate := .flying } else k })

end Sys2Proof.Machine
end

