-- ==== Sys2Proof/Machine/Sections.lean ====
section
/-! DEFINITION. Ordered sections (R187 to R193, R378 to R390, R507): the section area, what the arrival of each operation
decides at its cell, and the meanings of `oenter`, `oleave`, `oskip` and of the events of the section unit. -/

namespace Sys2Proof.Machine

/-- The top `n` bits of the hash of a key (R380). -/
def sectHash (k : DWord) (n : Nat) : Nat := (k * 0x9E3779B97F4A7C15#64).toNat / 2 ^ (64 - n)
/-- The eight probes of a key in a table of 2^n entries (R380). -/
def sectProbes (k : DWord) (n : Nat) : List Nat := (List.range 8).map fun i => (sectHash k n + i) % 2 ^ n
/-- The physical address of a cell (R378, R379). -/
def Area.cellAt (a : Area) (i : Nat) : Nat := a.base + 65536 + 16 * i
/-- An empty cell. -/
def Cell.empty : Cell := ⟨0, 0, false, false, false, false, 0⟩
/-- An empty holder-table entry. -/
def Holder.empty : Holder := ⟨0, 0, false, false⟩
/-- VALID, TOMB, HELD and BROKEN as bits 3 to 0 (R379, R396). -/
def Cell.bits (c : Cell) : Nat := 8 * bit c.valid + 4 * bit c.tomb + 2 * bit c.held + bit c.broken
/-- A cell of an area. -/
def Area.cell (a : Area) (i : Nat) : Cell := a.cells.get Cell.empty i
/-- A holder-table entry of an area. -/
def Area.holder (a : Area) (i : Nat) : Holder := a.holders.get Holder.empty i
/-- The area with a cell changed. -/
def Area.setCell (a : Area) (i : Nat) (c : Cell) : Area := { a with cells := a.cells.set Cell.empty i c }
/-- Look a key up along its probes (R380). -/
def Area.lookAlong (a : Area) (key : DWord) : List Nat → Option Nat
  | [] => none
  | i :: is =>
    let c := a.cell i
    if c.valid && c.key == key then some i else if !c.valid && !c.tomb then none else a.lookAlong key is
/-- The cell of a key, if it has one (R380). -/
def Area.find (a : Area) (key : DWord) : Option Nat := a.lookAlong key (sectProbes key a.logn)
/-- The cell that an absent key takes (R380). -/
def Area.room (a : Area) (key : DWord) : Option Nat := (sectProbes key a.logn).find? fun i => !(a.cell i).valid
/-- A cell as it is allocated (R380). -/
def Cell.fresh (key : DWord) : Cell := ⟨key, 0, true, false, false, false, 0⟩
/-- The cells that a look-up of a key reads (R380). -/
def Area.readFor (a : Area) (key : DWord) : List Nat :=
  let is := sectProbes key a.logn
  is.take (is.findIdx (fun i => let c := a.cell i; (c.valid && c.key == key) || (!c.valid && !c.tomb)) + 1)
/-- Look an identity up along its probes (R382). -/
def Area.holderAlong (a : Area) (ident : DWord) : List Nat → Option Nat
  | [] => none
  | i :: is =>
    let h := a.holder i
    if h.used && h.ident == ident then some i else if !h.used && !h.tomb then none else a.holderAlong ident is
/-- The holder-table entry of an identity (R382). -/
def Area.holderOf (a : Area) (ident : DWord) : Option Nat := a.holderAlong ident (sectProbes ident 12)
/-- The entry that an identity without one takes (R382). -/
def Area.holderRoom (a : Area) (ident : DWord) : Option Nat := (sectProbes ident 12).find? fun i => !(a.holder i).used
/-- A holder has left a key: at 0 keys its entry is freed as a tomb (R382). -/
def Area.release (a : Area) (i : Nat) : Area :=
  let h := a.holder i
  let h' : Holder := if h.hcnt ≤ 1 then ⟨h.ident, 0, false, true⟩ else { h with hcnt := h.hcnt - 1 }
  { a with holders := a.holders.set Holder.empty i h' }
/-- A team enters a cell (R382): its entry counts one more key. -/
def Area.take (a : Area) (i h : Nat) (ident : DWord) : Area :=
  let e := a.holder h
  let n := if e.used then e.hcnt + 1 else 1
  { a.setCell i { a.cell i with held := true, holder := h } with
    holders := a.holders.set Holder.empty h ⟨ident, n, true, false⟩ }
/-- The identity that a cell's HOLDER names, or 0 (R396). -/
def Area.heldBy (a : Area) (c : Cell) : DWord := if c.held then (a.holder c.holder).ident else 0

/-- The holder identity of a team (R382). -/
def identity (pkg grid gang crew role idx : Nat) : DWord :=
  BitVec.ofNat 64 (2 ^ 60 * (pkg % 16) + 2 ^ 36 * (grid % 2 ^ 24) + 2 ^ 12 * (gang % 2 ^ 24) + 2 ^ 10 * (crew % 4) + 2 ^ 8 * (role % 4) + 4 * (idx % 64))

/-- The number under which the state keeps a context's section area (R378): its base in the memory of its home package, which is this package or
another one of the partition group. -/
def State.areaKey (s : State) (c : Context) : Nat :=
  if c.homePkg = c.pkgIdx then c.secBase
  else 2 ^ 48 * (16 * (match s.partitions.find c.part with | some p => p.group.toNat | none => 0) + c.homePkg + 1) + c.secBase
/-- A context's section area, all zero until something is written (R379); none where EN = 0 (R396). -/
def State.areaOf (s : State) (ctx : Nat) : Option (Nat × Area) :=
  match s.contexts.find ctx with
  | none => none
  | some c =>
    if c.secLog = 0 then none
    else some (s.areaKey c, match s.areas.find (s.areaKey c) with | some a => a | none => ⟨c.secBase, c.secLog, [], [], []⟩)
/-- Store a section area. -/
def State.setArea (s : State) (k : Nat) (a : Area) : State := { s with areas := s.areas.insert k a }
/-- Count in SEC_CNT (R397). -/
def State.secCount (s : State) (ctx lo : Nat) : State := s.bumpReg ctx 0x30 lo 16

/-- Change one `oenter` of a team. -/
def Team.updEnter (t : Team) (serial : Nat) (f : Enter → Enter) : Team :=
  { t with enters := t.enters.map fun e => if e.serial = serial then f e else e }
/-- An `oenter` of a team. -/
def State.enter? (s : State) (team serial : Nat) : Option (Team × Enter) :=
  match s.teams.find team with
  | none => none
  | some t => (t.enters.find? (·.serial == serial)).map fun e => (t, e)
/-- The predicate values of an `oenter` (R189). -/
def Enter.values (e : Enter) : List RegWrite :=
  e.lanes.map fun l => ⟨.p, e.pd, l.lane, if e.winners.contains l.lane then 1 else 0⟩
/-- An `oenter` whose every key has been entered: its predicate is on its way (R189). -/
def Team.enterDone (t : Team) (serial : Nat) : Team :=
  match t.enters.find? (·.serial == serial) with
  | none => t
  | some e =>
    if e.coming.isEmpty && e.waiting.isEmpty then
      { t with
        enters := t.enters.filter (·.serial != serial)
        pends := t.pends.map fun p => if p.serial = serial then { p with data := .values e.values 0 } else p }
    else t
/-- Whether a look-up of a key reads a poisoned cell (R441). -/
def State.cellPoison (s : State) (a : Area) (key : DWord) : Bool := (a.readFor key).any fun i => s.poisoned (a.cellAt i) 16
/-- A team consumes the poison of a cell (R441): through the predicate of an `oenter`, by its number, else by a mark of its own. RAS_ADDR is
an open value, since R455 names no address for a cell. -/
def State.cellConsumed (s : State) (team : Nat) (enter : Option Nat) : State :=
  let addr := Config.rasAddr s.tick
  { s.updTeam team fun t =>
      match enter with
      | some n => { t with
          enters := t.enters.filter (·.serial != n), pends := t.pends.map fun p => if p.serial = n then { p with data := .poison 5 addr } else p }
      | none => { t with pends := t.pends ++ [⟨s.serial, .v, 0, 0, 1, t.pc, .poison 5 addr, []⟩] } with
    tick := s.tick + 1, serial := s.serial + 1 }
/-- The team that consumes the poison which a posted operation meets (R441): the one with the holder's identity where the operation names it,
else the first of the context (log entry 78). -/
def State.poster (s : State) (ctx : Nat) (ident : Option DWord) : Option Nat :=
  ((s.teams.find? fun (p : Nat × Team) => p.2.ctx == ctx && ident == some p.2.ident).or
    (s.teams.find? fun (p : Nat × Team) => p.2.ctx == ctx)).map (·.1)
/-- An `oenter` that traps: pD keeps its value and waits no more, and the trap is owed (R507). -/
def Team.enterFailed (t : Team) (serial : Nat) (x : SectTrap) : Team :=
  if t.enters.any (·.serial == serial) then
    { t with
      enters := t.enters.filter (·.serial != serial), pends := t.pends.filter (·.serial != serial), sectTraps := t.sectTraps ++ [x] }
  else t

/-- Whether a valid cell's key was placed beyond an entry of the table along its probes (R380). -/
def Area.passed (a : Area) (i : Nat) : Bool :=
  a.cells.any fun (p : Nat × Cell) => p.2.valid && ((sectProbes p.2.key a.logn).takeWhile (· != p.1)).contains i
/-- A cell that a trapping `oenter` had allocated for a key is as it found it (R192), where nothing else has come to the cell since; an
empty cell that a later key has passed becomes a tomb, so that lookups still reach that key. -/
def Area.unmake (a : Area) (key : DWord) (was : Cell) : Area :=
  match a.find key with
  | none => a
  | some i =>
    let c := a.cell i
    if c.held || c.broken || c.next != 0 || a.queue.any fun w => w.key == key then a
    else a.setCell i { was with tomb := was.tomb || a.passed i }
/-- A section trap of an `oenter` is decided at a cell (R192, R384, R386, R507): the keys that it entered are released with NEXT
unchanged, and the cells that it allocated are free again. Answers the cells to compare again. -/
def State.failEnter (s : State) (k team serial cause : Nat) (lane : EnterLane) (c : Cell) : State × List Nat :=
  match s.enter? team serial, s.areas.find k with
  | some (t, e), some a =>
    let x : SectTrap := ⟨e.pd, cause, lane.lane, lane.key, lane.sq, a.heldBy c, c.bits, c.next⟩
    let s := if cause = 0x11 then s.secCount t.ctx 32 else if cause = 0x13 then s.secCount t.ctx 0 else s
    let a := { a with queue := a.queue.filter fun w => !(!w.skip && w.team == team && w.serial == serial) }
    let cells := e.entered.filterMap fun key => (a.find key).bind fun i =>
      if (a.cell i).held && !(a.cell i).broken && a.holderOf t.ident == some (a.cell i).holder then some i else none
    let a := cells.foldl (fun (a : Area) i => (a.release (a.cell i).holder).setCell i { a.cell i with held := false }) a
    let a := e.made.foldl (fun (a : Area) x => a.unmake x.1 x.2) a
    ((s.setArea k a).updTeam team fun t => t.enterFailed serial x, cells)
  | _, _ => (s, [])

/-- A lane whose turn has come enters its cell (R189, R382): its core's L1 is invalidated; a team that cannot get a holder-table
entry traps. Answers the cells to compare again. -/
def State.enterCell (s : State) (k i : Nat) (w : Waiter) : State × List Nat :=
  match s.enter? w.team w.serial, s.areas.find k with
  | some (t, e), some a =>
    match (a.holderOf t.ident).or (a.holderRoom t.ident) with
    | none => s.failEnter k w.team w.serial 0x13 ⟨w.lane, w.key, w.sq⟩ (a.cell i)
    | some h =>
      let a := { a.take i h t.ident with queue := a.queue.erase w }
      let s := (s.setArea k a).acquire t
      (s.updTeam w.team fun t => (t.updEnter e.serial fun e => { e with
        waiting := e.waiting.filter (·.key != w.key), entered := e.entered ++ [w.key], winners := e.winners ++ [w.lane] }).enterDone e.serial, [])
  | _, some a => (s.setArea k { a with queue := a.queue.erase w }, [])
  | _, none => (s, [])

/-- Compare one thing that waits at a cell with it (R384): what it comes to, or none where everything goes on waiting. The first
answer counts in order of arrival. -/
def State.settleOne (s : State) (k i : Nat) : Option (State × List Nat) :=
  match s.areas.find k with
  | none => none
  | some a =>
    let c := a.cell i
    let here := a.queue.filter fun w => w.key == c.key
    let stale (w : Waiter) : Bool := (w.sq - c.next).getLsbD 31
    if !c.valid then none
    else if c.broken then
      (here.find? (!·.skip)).map fun w => s.failEnter k w.team w.serial 0x12 ⟨w.lane, w.key, w.sq⟩ c
    else
      match here.find? stale with
      | some w =>
        some (if w.skip then ((s.setArea k { a with queue := a.queue.erase w }).secCount w.ctx 48, [])
          else s.failEnter k w.team w.serial 0x14 ⟨w.lane, w.key, w.sq⟩ c)
      | none =>
        if c.held then none
        else
          (here.find? fun w => w.sq == c.next).map fun w =>
            if w.skip then (s.setArea k { a.setCell i { c with next := c.next + 1 } with queue := a.queue.erase w }, [])
            else s.enterCell k i w
/-- Compare what waits at some cells again until nothing changes (R384, R390). -/
def State.settleCells : Nat → Nat → List Nat → State → State
  | 0, _, _, s => s
  | _, _, [], s => s
  | n + 1, k, i :: is, s =>
    match s.settleOne k i with
    | some (s, more) => State.settleCells n k (i :: is ++ more) s
    | none => State.settleCells n k is s
/-- Compare what waits at some cells of an area again. Each comparison that changes something takes one thing from the queue,
and each entered key is released once. -/
def State.compare (s : State) (k : Nat) (cells : List Nat) : State :=
  let waiting := match s.areas.find k with | some a => a.queue.length | none => 0
  let keys := (s.teams.map fun (p : Nat × Team) => (p.2.enters.map (·.lanes.length)).foldl (· + ·) 0).foldl (· + ·) 0
  State.settleCells (2 * waiting + keys + cells.length + 1) k cells s

/-- The home slice of a cell (R381). -/
def Area.slice (a : Area) (i : Nat) : Nat := (LineName.canon (a.cellAt i / 128)).home.1
/-- Whether a slice has an entry free for one more waiter or skip, of all contexts together (R385). -/
def State.sliceRoom (s : State) (slice : Nat) (skip : Bool) : Bool :=
  let here := s.areas.foldl (fun (n : Nat) (p : Nat × Area) => n + (p.2.queue.filter fun w =>
    w.skip == skip && (match p.2.find w.key with | some i => p.2.slice i == slice | none => false)).length) 0
  decide (here < if skip then 512 else 256)

/-- The stream of a team's operations on a key: they arrive in issue order (R187, R381). -/
def sectStream (team : Nat) (key : DWord) : Nat := 2 ^ 128 * (team + 1) + key.toNat
/-- Whether a stream carries section operations of a team. -/
def isSectStream (team stream : Nat) : Bool := stream / 2 ^ 128 == team + 1
/-- A message that must come again before the later ones of its stream (R385). -/
def State.again (s : State) (stream delay : Nat) (ev : Ev) : State :=
  { s with agenda := ⟨stream, s.clk + delay, ev⟩ :: s.agenda }

/-- OENTER ARRIVAL: everything that R189 names is decided at the key's cell as the operation finds it. -/
def State.oenterArrives (s : State) (team serial : Nat) (key : DWord) : State :=
  match s.enter? team serial with
  | none => s
  | some (t, e) =>
    match s.areaOf t.ctx with
    | none => s
    | some (k, a0) =>
      if s.cellPoison a0 key then s.cellConsumed team (some serial)
      else
      let lanes := e.lanes.filter (·.key == key)
      let low := lanes.headD ⟨0, key, 0⟩
      let s0 := s.setArea k a0
      match (a0.find key).or (a0.room key) with
      | none =>
        let (s, more) := s0.failEnter k team serial 0x13 low Cell.empty
        s.compare k more
      | some i =>
        let c := if (a0.find key).isSome then a0.cell i else Cell.fresh key
        let stop (cause : Nat) (l : EnterLane) : State :=
          let (s, more) := s0.failEnter k team serial cause l c
          s.compare k more
        if c.broken then stop 0x12 low
        else if c.held && a0.holderOf t.ident == some c.holder then stop 0x10 low
        else
          match lanes.find? fun l => (l.sq - c.next).getLsbD 31 with
          | some l => stop 0x14 l
          | none =>
            let dist (l : EnterLane) : Nat := (l.sq - c.next).toNat
            let first := lanes.foldl (fun (m : EnterLane) l => if dist l < dist m then l else m) low
            if (c.held || dist first != 0) && !s.sliceRoom (a0.slice i) false then
              s.again (sectStream team key) 64 (.waiterRetry team serial key)
            else
              let a := { a0.setCell i c with queue := a0.queue ++ [⟨false, t.ctx, team, serial, key, first.sq, first.lane⟩] }
              ((s.setArea k a).updTeam team fun t => t.updEnter serial fun e => { e with
                coming := e.coming.filter (· != key), waiting := e.waiting ++ [first],
                made := if (a0.find key).isSome then e.made else e.made ++ [(key, a0.cell i)] }).compare k [i]
/-- OLEAVE ARRIVAL (R190). -/
def State.oleaveArrives (s : State) (ctx : Nat) (ident key : DWord) : State :=
  match s.areaOf ctx with
  | none => s.secCount ctx 48
  | some (k, a) =>
    match a.find key, (if s.cellPoison a key then s.poster ctx (some ident) else none) with
    | _, some id => s.cellConsumed id none
    | none, none => s.secCount ctx 48
    | some i, none =>
      let c := a.cell i
      if c.held && !c.broken && a.holderOf ident == some c.holder then
        (s.setArea k ((a.release c.holder).setCell i { c with next := c.next + 1, held := false })).compare k [i]
      else s.secCount ctx 48
/-- OSKIP ARRIVAL (R191): posted by `stream`'s team. -/
def State.oskipArrives (s : State) (ctx : Nat) (key : DWord) (sq : Word) : State :=
  match s.areaOf ctx with
  | none => s.secCount ctx 0
  | some (k, a) =>
    match (a.find key).or (a.room key), (if s.cellPoison a key then s.poster ctx none else none) with
    | _, some id => s.cellConsumed id none
    | none, none => s.secCount ctx 0
    | some i, none =>
      let c := if (a.find key).isSome then a.cell i else Cell.fresh key
      let due := !c.held && sq == c.next
      if c.broken || (sq - c.next).getLsbD 31 then (s.setArea k (a.setCell i c)).secCount ctx 48
      else if !due && !s.sliceRoom (a.slice i) true then s.post 1 (.oskipArrival ctx key sq)
      else
        (s.setArea k { a.setCell i c with queue := a.queue ++ [⟨true, ctx, 0, 0, key, sq, 0⟩] }).compare k [i]

/-- Whether a posted skip must be held at its sender: it would wait, and its slice has no free entry (R385). -/
def State.skipHeld (s : State) (ctx : Nat) (key : DWord) (sq : Word) : Bool :=
  match s.areaOf ctx with
  | none => false
  | some (_, a) =>
    match (a.find key).or (a.room key) with
    | none => false
    | some i =>
      let c := if (a.find key).isSome then a.cell i else Cell.fresh key
      !c.broken && !(sq - c.next).getLsbD 31 && (c.held || sq != c.next) && !s.sliceRoom (a.slice i) true

/-- The unhalted clk of a team (R386). -/
def Team.ownClk (t : Team) (clk : Nat) : Nat := (if t.halt = 0 then clk else t.haltFrom) - t.haltClk
/-- A team's halt ends. -/
def Team.unhalt (t : Team) (clk : Nat) : Team :=
  if t.halt = 0 then t else { t with halt := 0, haltClk := t.haltClk + (clk - t.haltFrom) }
/-- Whether the timeout of an `oenter` is due (R386). -/
def State.sectDue (s : State) (t : Team) (e : Enter) : Bool :=
  t.halt == 0 && !(e.waiting.isEmpty && e.coming.isEmpty) &&
  (match s.contexts.find t.ctx with | some c => decide (c.sectime.toNat < t.ownClk s.clk - e.issued) | none => false)
/-- The lanes that wait at cells, or, where none does, those on their way or refused for want of a waiter entry (R385). -/
def Enter.pending (e : Enter) : List EnterLane :=
  if e.waiting.isEmpty then e.lanes.filter fun l => e.coming.contains l.key else e.waiting
/-- SECTION TIMEOUT (R386): the lowest lane that waits at a cell is named. -/
def State.sectTimeout (s : State) (team serial : Nat) : State :=
  match s.enter? team serial with
  | none => s
  | some (t, e) =>
    if s.sectDue t e then
      match s.areaOf t.ctx, e.pending with
      | some (k, a), w :: ws =>
        let low := ws.foldl (fun (m : EnterLane) l => if l.lane < m.lane then l else m) w
        let c := match a.find low.key with | some i => a.cell i | none => Cell.empty
        let (s, more) := s.failEnter k team serial 0x11 low c
        s.compare k more
      | _, _ => s
    else s

/-- The section unit hears of the end of an identity (R383): the keys that it holds become broken, each mark a section operation,
and its holder-table entry is freed. -/
def State.sectionBreak (s : State) (ctx : Nat) (ident : DWord) : State :=
  match s.areaOf ctx with
  | none => s
  | some (k, a) =>
    match a.holderOf ident with
    | none => s
    | some h =>
      let cells := (a.cells.filter fun (p : Nat × Cell) => p.2.valid && p.2.held && !p.2.broken && p.2.holder == h).map (·.1)
      let a := cells.foldl (fun (a : Area) i => a.setCell i { a.cell i with broken := true }) a
      let a := { a with holders := a.holders.set Holder.empty h ⟨ident, 0, false, true⟩ }
      let s := cells.foldl (fun (s : State) _ => s.secCount ctx 16) (s.setArea k a)
      s.compare k cells

/-- The keys of an instruction's lanes. -/
def laneKeys (r : Team) (a : RegNo) : List (Nat × DWord) := r.actives.map fun l => (l, r.V64 l a.toNat)
/-- The trap of `oleave` and `oskip` where the context has no area (R396): section-area-full, counted and recorded; `oleave` names no
sequence, and its record holds 0. -/
def State.noArea (s : State) (t : Team) (ks : List (Nat × DWord × Word)) : Option Res :=
  if (s.areaOf t.ctx).isSome then none
  else ks.head?.map fun p =>
    .trapIn ((s.secCount t.ctx 0).updMe fun t => { t with sectTraps := ⟨0, 0x13, p.1, p.2.1, p.2.2, 0, 0, 0⟩ :: t.sectTraps }) 0x13 p.1 p.2.1
/-- OENTER (R189): its operations travel to the cells of their keys. -/
def execOenter (d a b : RegNo) (s : State) : Host.Outcome State Fault Refusal :=
  slot (.oenter d a b) (fun r t s =>
    let lanes : List EnterLane := (laneKeys r a).map fun p => ⟨p.1, p.2, r.V p.1 b.toNat⟩
    match s.areaOf t.ctx, lanes with
    | none, l :: _ =>
      .done ((s.updMe fun t => { t with
        sectTraps := t.sectTraps ++ [⟨d.toNat, 0x13, l.lane, l.key, l.sq, 0, 0, 0⟩] }).secCount t.ctx 0)
    | _, _ =>
      let keys := (lanes.map (·.key)).eraseDups
      let s' := s.updMe fun t => { t with
        enters := t.enters ++ [⟨s.serial, d.toNat, t.ownClk s.clk, lanes, keys, [], [], [], []⟩] }
      let s' := keys.foldl (fun (s' : State) key => s'.postIn (sectStream s.cur key) 0 (.oenterArrival s.cur s.serial key)) s'
      .later s' 7 (.entering s.serial)) s
/-- OLEAVE (R190). -/
def execOleave (a : RegNo) (s : State) : Host.Outcome State Fault Refusal :=
  slot (.oleave a) (fun r t s =>
    match s.noArea t ((laneKeys r a).map fun p => (p.1, p.2, 0)) with
    | some x => x
    | none => .done ((laneKeys r a).foldl (fun (s : State) p =>
        s.postIn (sectStream s.cur p.2) 0 (.oleaveArrival t.ctx t.ident p.2)) s)) s
/-- OSKIP (R191). -/
def execOskip (a b : RegNo) (s : State) : Host.Outcome State Fault Refusal :=
  slot (.oskip a b) (fun r t s =>
    match s.noArea t ((laneKeys r a).map fun p => (p.1, p.2, r.V p.1 b.toNat)) with
    | some x => x
    | none => .done ((laneKeys r a).foldl (fun (s : State) p =>
        s.postIn (sectStream s.cur p.2) 0 (.oskipArrival t.ctx p.2 (r.V p.1 b.toNat))) s)) s

/-- OENTER ARRIVAL. -/
def execOenterArrival (team serial : Nat) (key : DWord) (s : State) : Host.Outcome State Fault Refusal :=
  .next (s.oenterArrives team serial key)
/-- OLEAVE ARRIVAL. -/
def execOleaveArrival (ctx : Nat) (holder key : DWord) (s : State) : Host.Outcome State Fault Refusal :=
  .next (s.oleaveArrives ctx holder key)
/-- OSKIP ARRIVAL. -/
def execOskipArrival (ctx : Nat) (key : DWord) (sq : Word) (s : State) : Host.Outcome State Fault Refusal :=
  .next (s.oskipArrives ctx key sq)
/-- SECTION TIMEOUT. -/
def execSectionTimeout (team serial : Nat) (s : State) : Host.Outcome State Fault Refusal := .next (s.sectTimeout team serial)
/-- WAITER RETRY (R385): a refused lane comes to its cell again. -/
def execWaiterRetry (team serial : Nat) (key : DWord) (s : State) : Host.Outcome State Fault Refusal :=
  .next (s.oenterArrives team serial key)

/-- A section command is done with a result (R390). -/
def State.secResult (s : State) (ctx result state : Nat) (value : Option Word) : State :=
  let v := s.winReg ctx 0x10
  let v := v &&& 0x700FFFFFFFFFFFFF#64 ||| fld 56 4 result ||| fld 52 4 state
  s.setReg ctx 0x10 (match value with | some w => v.extractLsb' 32 32 ++ w | none => v)
/-- The cell that SEC_CMDKEY names. -/
def State.secTarget (s : State) (ctx : Nat) : Option (Nat × Area × Nat) :=
  match s.areaOf ctx with
  | none => none
  | some (k, a) => (a.find (s.winReg ctx 0x08)).map fun i => (k, a, i)
/-- SEC RESET (R390). -/
def execSecReset (ctx : Nat) (s : State) : Host.Outcome State Fault Refusal :=
  .next (match s.secTarget ctx with
    | none => s.secResult ctx 1 0 none
    | some (k, a, i) =>
      let c := a.cell i
      let a := if c.held && !c.broken then a.release c.holder else a
      let a := a.setCell i { c with next := (s.winReg ctx 0x10).extractLsb' 0 32, held := false, broken := false }
      ((s.setArea k a).compare k [i]).secResult ctx 0 0 none)
/-- SEC FREE (R390). -/
def execSecFree (ctx : Nat) (s : State) : Host.Outcome State Fault Refusal :=
  .next (match s.secTarget ctx with
    | none => s.secResult ctx 1 0 none
    | some (k, a, i) =>
      let c := a.cell i
      if c.held || a.queue.any (·.key == c.key) then s.secResult ctx 2 0 none
      else (s.setArea k (a.setCell i { c with valid := false, tomb := true })).secResult ctx 0 0 none)
/-- SEC QUERY (R390). -/
def execSecQuery (ctx : Nat) (s : State) : Host.Outcome State Fault Refusal :=
  .next (match s.secTarget ctx with
    | none => s.secResult ctx 1 0 none
    | some (_, a, i) => s.secResult ctx 0 (a.cell i).bits (some (a.cell i).next))
/-- SEC CLEARALL (R390). -/
def execClearall (ctx : Nat) (s : State) : Host.Outcome State Fault Refusal :=
  .next (match s.areaOf ctx with
    | none => s.secResult ctx 0 0 none
    | some (k, a) =>
      if a.cells.any (fun (p : Nat × Cell) => p.2.held) || !a.queue.isEmpty then s.secResult ctx 2 0 none
      else (s.setArea k { a with cells := [], holders := [] }).secResult ctx 0 0 none)
/-- A SEC_CMD operation that R390 gives no effect. -/
def execSecBadOp (ctx : Nat) (s : State) : Host.Outcome State Fault Refusal := .next (s.secResult ctx 3 0 none)

end Sys2Proof.Machine
end

