-- ==== Sys2Proof/Machine/Float.lean ====
section
/-! DEFINITION. Number formats and exact arithmetic (R75 to R81): values are exact, and every result is rounded once. -/

namespace Sys2Proof.Machine

/-- A binary format (R75): its width, the bits of its fraction and its bias. -/
structure Fmt where
  width : Nat
  frac  : Nat
  bias  : Nat
  deriving DecidableEq, Repr

/-- FP64 (R75). -/
def fp64 : Fmt := ⟨64, 52, 1023⟩
/-- FP32 (R75). -/
def fp32 : Fmt := ⟨32, 23, 127⟩
/-- FP16 (R75). -/
def fp16 : Fmt := ⟨16, 10, 15⟩
/-- BF16 (R75). -/
def bf16 : Fmt := ⟨16, 7, 127⟩

/-- A number as a format holds it: a NaN (signalling or quiet), an infinity, or (-1)^s m 2^e. -/
inductive Num where
  | nan (signalling : Bool)
  | inf (s : Bool)
  | fin (s : Bool) (m : Nat) (e : Int)
  deriving DecidableEq, Repr

/-- The largest exponent field. -/
def Fmt.top (f : Fmt) : Nat := 2 ^ (f.width - 1 - f.frac) - 1
/-- The sign bit where `s`. -/
def Fmt.sign (f : Fmt) (s : Bool) : Nat := if s then 2 ^ (f.width - 1) else 0
/-- The canonical quiet NaN (R75, R78). -/
def Fmt.qnan (f : Fmt) : Nat := f.top * 2 ^ f.frac + 2 ^ (f.frac - 1)
/-- An infinity. -/
def Fmt.infinity (f : Fmt) (s : Bool) : Nat := f.sign s + f.top * 2 ^ f.frac
/-- The largest finite value. -/
def Fmt.largest (f : Fmt) (s : Bool) : Nat := f.sign s + f.top * 2 ^ f.frac - 1
/-- The number that bits stand for (R75). -/
def Fmt.num (f : Fmt) (x : Nat) : Num :=
  let fr := x % 2 ^ f.frac
  let ex := x / 2 ^ f.frac % (f.top + 1)
  let s := x / 2 ^ (f.width - 1) % 2 == 1
  if ex = f.top then
    if fr = 0 then .inf s else .nan (fr < 2 ^ (f.frac - 1))
  else if ex = 0 then .fin s fr (1 - (f.bias : Int) - f.frac)
  else .fin s (fr + 2 ^ f.frac) ((ex : Int) - f.bias - f.frac)

/-- Whether a magnitude n + rem / 2^sh is rounded up to n + 1 (R77 rule 2). -/
def roundsUp (mode : BitVec 2) (s : Bool) (n rem sh : Nat) : Bool :=
  match mode.toNat with
  | 0 => decide (2 ^ sh < 2 * rem) || (decide (2 * rem = 2 ^ sh) && n % 2 == 1)
  | 1 => false
  | 2 => rem != 0 && !s
  | _ => rem != 0 && s
/-- m 2^e as a multiple of 2^q: the rounded multiple, and whether it differs. -/
def quantize (mode : BitVec 2) (s : Bool) (m : Nat) (e q : Int) : Nat × Bool :=
  if q ≤ e then (m * 2 ^ (e - q).toNat, false)
  else
    let sh := (q - e).toNat
    let n := m / 2 ^ sh
    let rem := m % 2 ^ sh
    (if roundsUp mode s n rem sh then n + 1 else n, rem != 0)

/-- `round` of a nonzero (-1)^s m 2^e (R77): the bits and the flags. -/
def Fmt.roundFin (f : Fmt) (mode : BitVec 2) (s : Bool) (m : Nat) (e : Int) : Nat × BitVec 5 :=
  let p : Int := f.frac + 1
  let emax : Int := f.bias
  let qmin : Int := 1 - (f.bias : Int) - f.frac
  let msb : Int := e + Nat.log2 m
  let overflowed : Nat × BitVec 5 :=
    ((match mode.toNat with
      | 0 => f.infinity s
      | 1 => f.largest s
      | 2 => if s then f.largest s else f.infinity s
      | _ => if s then f.infinity s else f.largest s), flagOverflow ||| flagInexact)
  if emax < msb then overflowed
  else if msb < qmin - 1 then
    (f.sign s + (if roundsUp mode s 0 1 2 then 1 else 0), flagUnderflow ||| flagInexact)
  else
    let q := msb - (p - 1)
    let y := quantize mode s m e q
    let ytop : Int := if y.1 = 2 ^ (f.frac + 1) then msb + 1 else msb
    if emax < ytop then overflowed
    else
      let tiny := decide (ytop < 1 - (f.bias : Int))
      let q' := if q < qmin then qmin else q
      let r := if q < qmin then quantize mode s m e qmin else y
      let bits := f.sign s + (q' - qmin).toNat * 2 ^ f.frac + r.1
      (bits, (if r.2 then flagInexact else 0) ||| (if tiny && r.2 then flagUnderflow else 0))

/-- The bits of an exact result, rounded where it is finite (R77, R78). -/
def Fmt.pack (f : Fmt) (mode : BitVec 2) (x : Num) : Nat × BitVec 5 :=
  match x with
  | .nan _ => (f.qnan, 0)
  | .inf s => (f.infinity s, 0)
  | .fin s 0 _ => (f.sign s, 0)
  | .fin s m e => f.roundFin mode s m e

/-- Whether a number is a signalling NaN. -/
def Num.isSnan : Num → Bool
  | .nan s => s
  | _ => false
/-- Whether a number is a NaN. -/
def Num.isNan : Num → Bool
  | .nan _ => true
  | _ => false
/-- Invalid where a signalling NaN is read as a number (R78). -/
def snanFlag (xs : List Num) : BitVec 5 := if xs.any Num.isSnan then flagInvalid else 0
/-- The number with its sign flipped. -/
def Num.neg : Num → Num
  | .nan s => .nan s
  | .inf s => .inf (!s)
  | .fin s m e => .fin (!s) m e
/-- The sign of an exact zero sum (R78). -/
def zeroSign (mode : BitVec 2) (signs : List Bool) : Bool :=
  match signs with
  | [] => false
  | s :: ss => if ss.all (· == s) then s else mode == 3#2
/-- An integer multiple of 2^e as a number; an exact zero takes the sign given. -/
def Num.ofInt (z : Int) (e : Int) (zs : Bool) : Num :=
  if z = 0 then .fin zs 0 0 else .fin (decide (z < 0)) z.natAbs e

/-- The exact sum of numbers that are not NaN, with invalid for infinities of opposite sign (R78, R145, R151). -/
def sumNums (mode : BitVec 2) (xs : List Num) : Num × Bool :=
  let infs := xs.filterMap fun x => match x with | .inf s => some s | _ => none
  match infs with
  | s :: ss => if ss.all (· == s) then (.inf s, false) else (.nan false, true)
  | [] =>
    let e0 : Int := xs.foldl (fun a x => match x with | .fin _ m e => if m = 0 then a else min a e | _ => a) 0
    let e1 : Int := xs.foldl (fun a x => match x with | .fin _ m e => if m = 0 then a else min a e | _ => a) 100000
    let low := if e1 = 100000 then e0 else e1
    let z : Int := xs.foldl (fun a x =>
      match x with
      | .fin s m e => if m = 0 then a else a + (if s then -((m * 2 ^ (e - low).toNat : Nat) : Int) else ((m * 2 ^ (e - low).toNat : Nat) : Int))
      | _ => a) 0
    let zeros := xs.map fun x => match x with | .fin s _ _ => s | _ => false
    let allZero := xs.all fun x => match x with | .fin _ m _ => m == 0 | _ => false
    (Num.ofInt z low (if allZero then zeroSign mode zeros else mode == 3#2), false)
/-- The exact product of numbers that are not NaN, with invalid for 0 × ∞ (R145). -/
def mulNums (x y : Num) : Num × Bool :=
  match x, y with
  | .fin s m e, .fin s' m' e' => (.fin (s != s') (m * m') (e + e'), false)
  | .fin s m _, .inf s' => if m = 0 then (.nan false, true) else (.inf (s != s'), false)
  | .inf s, .fin s' m _ => if m = 0 then (.nan false, true) else (.inf (s != s'), false)
  | .inf s, .inf s' => (.inf (s != s'), false)
  | _, _ => (.nan false, false)

/-- The flags of an exact result: invalid where it is marked so, and those of its rounding. -/
def Fmt.finish (f : Fmt) (mode : BitVec 2) (r : Num × Bool) : Nat × BitVec 5 :=
  let (bits, fl) := f.pack mode r.1
  (bits, fl ||| if r.2 then flagInvalid else 0)
/-- round(x + y) (R145). -/
def Fmt.add (f : Fmt) (mode : BitVec 2) (x y : Nat) : Nat × BitVec 5 :=
  let a := f.num x
  let b := f.num y
  if a.isNan || b.isNan then (f.qnan, snanFlag [a, b]) else f.finish mode (sumNums mode [a, b])
/-- round(x - y) (R145). -/
def Fmt.sub (f : Fmt) (mode : BitVec 2) (x y : Nat) : Nat × BitVec 5 :=
  let a := f.num x
  let b := f.num y
  if a.isNan || b.isNan then (f.qnan, snanFlag [a, b]) else f.finish mode (sumNums mode [a, b.neg])
/-- round(x × y) (R145). -/
def Fmt.mul (f : Fmt) (mode : BitVec 2) (x y : Nat) : Nat × BitVec 5 :=
  let a := f.num x
  let b := f.num y
  if a.isNan || b.isNan then (f.qnan, snanFlag [a, b]) else f.finish mode (mulNums a b)
/-- round(x × y + z), rounded once (R146). -/
def Fmt.fma (f : Fmt) (mode : BitVec 2) (x y z : Nat) : Nat × BitVec 5 :=
  let a := f.num x
  let b := f.num y
  let c := f.num z
  let p := if a.isNan || b.isNan then (Num.nan false, false) else mulNums a b
  if a.isNan || b.isNan || c.isNan || p.2 then
    (f.qnan, snanFlag [a, b, c] ||| if p.2 then flagInvalid else 0)
  else f.finish mode (sumNums mode [p.1, c])

/-- The order of numbers that are not NaN, zeros equal: -1, 0 or 1. -/
def cmpNums (x y : Num) : Int :=
  match x, y with
  | .inf s, .inf s' => if s == s' then 0 else if s then -1 else 1
  | .inf s, _ => if s then -1 else 1
  | _, .inf s => if s then 1 else -1
  | .fin s m e, .fin s' m' e' =>
    let low := min e e'
    let a : Int := (m * 2 ^ (e - low).toNat : Nat)
    let b : Int := (m' * 2 ^ (e' - low).toNat : Nat)
    let d := (if s then -a else a) - (if s' then -b else b)
    if d < 0 then -1 else if d = 0 then 0 else 1
  | _, _ => 0
/-- The minimum or maximum; `number` takes the other operand where one is a NaN (R81). -/
def Fmt.minmax (f : Fmt) (isMax number : Bool) (x y : Nat) : Nat × BitVec 5 :=
  let a := f.num x
  let b := f.num y
  let fl := snanFlag [a, b]
  if a.isNan && b.isNan then (f.qnan, fl)
  else if a.isNan then (if number then y else f.qnan, fl)
  else if b.isNan then (if number then x else f.qnan, fl)
  else
    let c := cmpNums a b
    let negX := x / 2 ^ (f.width - 1) % 2 == 1
    let xLess := decide (c < 0) || (c == 0 && negX)
    (if xLess != isMax then x else y, fl)
/-- The conditions of a floating-point compare (R60, R147). -/
def Fmt.cmp (f : Fmt) (c : BitVec 3) (x y : Nat) : Bool × BitVec 5 :=
  let a := f.num x
  let b := f.num y
  if a.isNan || b.isNan then
    match c.toNat with
    | 0 => (false, 0)
    | 1 => (true, 0)
    | 6 => (true, snanFlag [a, b])
    | 7 => (false, snanFlag [a, b])
    | _ => (false, flagInvalid)
  else
    let o := cmpNums a b
    match c.toNat with
    | 0 => (o == 0, 0)
    | 1 => (o != 0, 0)
    | 2 => (decide (o < 0), 0)
    | 3 => (decide (o ≤ 0), 0)
    | 4 => (decide (0 < o), 0)
    | 5 => (decide (0 ≤ o), 0)
    | 6 => (false, 0)
    | _ => (true, 0)
/-- The one-hot class of an FP32 value (R148). -/
def fclassW (x : Word) : Word :=
  match fp32.num x.toNat with
  | .nan true => 0x001
  | .nan false => 0x002
  | .inf true => 0x004
  | .inf false => 0x200
  | .fin s m _ =>
    if m = 0 then (if s then 0x020 else 0x040)
    else if m < 2 ^ 23 then (if s then 0x010 else 0x080)
    else (if s then 0x008 else 0x100)

/-- A number rounded to an integer (R154): the integer and whether it differs. -/
def toInteger (mode : BitVec 2) (s : Bool) (m : Nat) (e : Int) : Int × Bool :=
  let (n, d) := quantize mode s m e 0
  (if s then -(n : Int) else n, d)
/-- Float to integer within bounds (R154). -/
def floatToInt (mode : BitVec 2) (x : Num) (lo hi : Int) : Int × BitVec 5 :=
  match x with
  | .nan _ => (0, flagInvalid)
  | .inf s => (if s then lo else hi, flagInvalid)
  | .fin s m e =>
    let (y, d) := toInteger mode s m e
    if y < lo then (lo, flagInvalid) else if hi < y then (hi, flagInvalid)
    else (y, if d then flagInexact else 0)

/-- The floor of the `k`-th root of `n`, from the bits below `b` (digit by digit). -/
def rootFrom (k n : Nat) : Nat → Nat → Nat
  | 0, r => r
  | b + 1, r => rootFrom k n b (if (r + 2 ^ b) ^ k ≤ n then r + 2 ^ b else r)
/-- The floor of the `k`-th root. -/
def root (k n : Nat) : Nat := rootFrom k n (Nat.log2 n / k + 1) 0
/-- A truncated value with a mark of what was cut off, below every rounding boundary. -/
def sticky (n : Nat) (exact : Bool) (e : Int) : Nat × Int := (if exact then 2 * n else 2 * n + 1, e - 1)

/-- A function result from a NaN operand (R149). -/
def nanResult (a : Num) : Word × BitVec 5 := (0x7FC00000, snanFlag [a])
/-- A rounded FP32 result as a word. -/
def asWord (r : Nat × BitVec 5) : Word × BitVec 5 := (BitVec.ofNat 32 r.1, r.2)

/-- `frcp` (R80, R149). -/
def frcpW (mode : BitVec 2) (x : Word) : Word × BitVec 5 :=
  match fp32.num x.toNat with
  | .nan s => nanResult (.nan s)
  | .inf s => (BitVec.ofNat 32 (fp32.sign s), 0)
  | .fin s 0 _ => (BitVec.ofNat 32 (fp32.infinity s), flagDivZero)
  | .fin s m e =>
    let (n, e') := sticky (2 ^ 80 / m) (2 ^ 80 % m == 0) (-80 - e)
    asWord (fp32.roundFin mode s n e')
/-- `fsqrt` (R80, R149). -/
def fsqrtW (mode : BitVec 2) (x : Word) : Word × BitVec 5 :=
  match fp32.num x.toNat with
  | .nan s => nanResult (.nan s)
  | .inf true => (0x7FC00000, flagInvalid)
  | .inf false => (0x7F800000, 0)
  | .fin s 0 _ => (BitVec.ofNat 32 (fp32.sign s), 0)
  | .fin true _ _ => (0x7FC00000, flagInvalid)
  | .fin false m e =>
    let odd := (e % 2).toNat
    let n := m * 2 ^ (60 + odd)
    let r := root 2 n
    let (k, e') := sticky r (r * r == n) ((e - odd - 60) / 2)
    asWord (fp32.roundFin mode false k e')
/-- `frsq` (R80, R149). -/
def frsqW (mode : BitVec 2) (x : Word) : Word × BitVec 5 :=
  match fp32.num x.toNat with
  | .nan s => nanResult (.nan s)
  | .inf true => (0x7FC00000, flagInvalid)
  | .inf false => (0, 0)
  | .fin s 0 _ => (BitVec.ofNat 32 (fp32.infinity s), flagDivZero)
  | .fin true _ _ => (0x7FC00000, flagInvalid)
  | .fin false m e =>
    let odd := (e % 2).toNat
    let m' := m * 2 ^ odd
    let r := root 2 (2 ^ 160 / m')
    let (k, e') := sticky r (m' * r * r == 2 ^ 160) (-80 - (e - odd) / 2)
    asWord (fp32.roundFin mode false k e')

/-- π/2 × 2^400, cut off. -/
def halfPi400 : Nat := 0x1921fb54442d18469898cc51701b839a252049c1114cf98e804177d4c76273644a29410f31c6809bbdf2a33679a7486366056
/-- ln 2 × 2^400, cut off. -/
def ln2400 : Nat := 0xb17217f7d1cf79abc9e3b39803f2f6af40f343267298b62d8a0d175b8baafa2be7b876206debac98559552fb4afa1b10ed2e
/-- The terms of a power series in `y` × 2^-400 from term `t` on: term k follows from the one before by `y` / k, `steps` factors
at a time; the signs alternate where `alt`. -/
def series (y : Nat) (alt : Bool) (steps : Nat) : Nat → Nat → Nat → Bool → Int
  | 0, _, _, _ => 0
  | fuel + 1, k, t, neg =>
    let t' := (List.range steps).foldl (fun t j => t * y / 2 ^ 400 / (k + j)) t
    (if neg then -(t : Int) else t) + series y alt steps fuel (k + steps) t' (neg != alt)
/-- The first 300 digits below the point of z × 2^-400. -/
def first300 (z : Int) : Nat := (z / 2 ^ 100).toNat
/-- An irrational value, known by its digits cut off at 2^e, rounded (R80): it lies between two neighbours of the last digit, and
log entry 77 says why no rounding boundary of FP32 does. -/
def roundDigits (mode : BitVec 2) (s : Bool) (digits : Nat) (e : Int) : Word × BitVec 5 :=
  asWord (fp32.roundFin mode s (2 * digits + 1) (e - 1))

/-- `fex2` (R80, R149): 2^x = 2^n exp(f ln 2) with 0 ≤ f < 1. -/
def fex2W (mode : BitVec 2) (x : Word) : Word × BitVec 5 :=
  match fp32.num x.toNat with
  | .nan s => nanResult (.nan s)
  | .inf true => (0, 0)
  | .inf false => (0x7F800000, 0)
  | .fin s m e =>
    if m = 0 then (0x3F800000, 0)
    else if 9 ≤ e + Nat.log2 m then asWord (fp32.roundFin mode false 1 (if s then -1000 else 1000))
    else
      let z : Int := if 0 ≤ e then (m * 2 ^ e.toNat : Nat) else m
      let z := if s then -z else z
      let d : Nat := if 0 ≤ e then 0 else (-e).toNat
      let n := z / 2 ^ d
      let f := (z - n * 2 ^ d).toNat
      if f = 0 then asWord (fp32.roundFin mode false 1 n)
      else
        let y := f * ln2400 / 2 ^ d
        roundDigits mode false (first300 (series y false 1 90 1 (2 ^ 400) false)) (n - 300)
/-- The binary logarithm of y × 2^-400 between 1 and 2, by repeated squaring: its first `fuel` digits below the point, after
those of `acc`. -/
def log2Digits : Nat → Nat → Nat → Nat
  | 0, _, acc => acc
  | fuel + 1, y, acc =>
    let z := y * y / 2 ^ 400
    if 2 ^ 401 ≤ z then log2Digits fuel (z / 2) (2 * acc + 1) else log2Digits fuel z (2 * acc)
/-- `flg2` (R80, R149). -/
def flg2W (mode : BitVec 2) (x : Word) : Word × BitVec 5 :=
  match fp32.num x.toNat with
  | .nan s => nanResult (.nan s)
  | .inf true => (0x7FC00000, flagInvalid)
  | .inf false => (0x7F800000, 0)
  | .fin _ 0 _ => (0xFF800000, flagDivZero)
  | .fin true _ _ => (0x7FC00000, flagInvalid)
  | .fin false m e =>
    let b := Nat.log2 m
    let n : Int := e + b
    if m = 2 ^ b then
      (if n = 0 then (0, 0) else asWord (fp32.roundFin mode (decide (n < 0)) n.natAbs 0))
    else
      let z : Int := n * 2 ^ 100 + log2Digits 100 (m * 2 ^ (400 - b)) 0
      if 0 ≤ z then roundDigits mode false z.toNat (-100)
      else roundDigits mode true (-z - 1).toNat (-100)

/-- sin(π/2 × m 2^-d) for 0 < m 2^-d ≤ 1/2, to 300 digits. -/
def sinDigits (m d : Nat) : Nat :=
  let y := m * halfPi400 / 2 ^ d
  first300 (series y true 2 60 2 y false)
/-- cos(π/2 × m 2^-d) for 0 < m 2^-d ≤ 1/2, to 300 digits. -/
def cosDigits (m d : Nat) : Nat :=
  let y := m * halfPi400 / 2 ^ d
  first300 (series y true 2 60 1 (2 ^ 400) false)
/-- sin (or cos) of a quarter turn times m 2^-d, for 0 < m 2^-d < 1. -/
def quarter (cosine : Bool) (m d : Nat) : Nat :=
  if 2 * m ≤ 2 ^ d then (if cosine then cosDigits m d else sinDigits m d)
  else if cosine then sinDigits (2 ^ d - m) d else cosDigits (2 ^ d - m) d
/-- `fsin` and `fcos` of an argument in turns (R80). -/
def trigW (cosine : Bool) (mode : BitVec 2) (x : Word) : Word × BitVec 5 :=
  match fp32.num x.toNat with
  | .nan s => nanResult (.nan s)
  | .inf _ => (0x7FC00000, flagInvalid)
  | .fin s m e =>
    let one : Word × BitVec 5 := (0x3F800000, 0)
    let zero : Word × BitVec 5 := if cosine then (0, 0) else (BitVec.ofNat 32 (fp32.sign s), 0)
    let d : Nat := if 0 ≤ e then 0 else (-e).toNat
    let t := if 0 ≤ e then 0 else 4 * (m % 2 ^ d)
    let q := t / 2 ^ d
    let r := t % 2 ^ d
    let neg := if cosine then q == 1 || q == 2 else (decide (2 ≤ q) != s)
    let swap := cosine != (q % 2 == 1)
    if r = 0 then
      (if swap then (if neg then (0xBF800000, 0) else one) else zero)
    else roundDigits mode neg (quarter swap r d) (-300)

end Sys2Proof.Machine
end

