-- ==== Sys2Proof/Machine/Atomics.lean ====
section
/-! DEFINITION. The meanings of the lane atomics and reductions (R180 to R184) and the functions of their read-modify-writes. -/

namespace Sys2Proof.Machine

/-- The new value of a read-modify-write from the old one and operand y, with its flags; `w` selects 64 bits (R181). -/
abbrev Rmw := (w : Bool) → (old y : Nat) → Nat × BitVec 5

/-- The bytes of an atomic: 8 with W = 1, else 4 (R55). -/
def atomBytes (w : Bool) : Nat := if w then 8 else 4
/-- old + y, wrapping (R181). -/
def rmwAdd : Rmw := fun w old y => ((old + y) % 256 ^ atomBytes w, 0)
/-- The signed value of an atomic's operand. -/
def signedAt (w : Bool) (x : Nat) : Int := if w then (BitVec.ofNat 64 x).toInt else (BitVec.ofNat 32 x).toInt
/-- The signed minimum (R181). -/
def rmwMin : Rmw := fun w old y => (if signedAt w old ≤ signedAt w y then old else y, 0)
/-- The signed maximum (R181). -/
def rmwMax : Rmw := fun w old y => (if signedAt w old ≤ signedAt w y then y else old, 0)
/-- old ∧ y (R181). -/
def rmwAnd : Rmw := fun _ old y => (old &&& y, 0)
/-- old ∨ y (R181). -/
def rmwOr : Rmw := fun _ old y => (old ||| y, 0)
/-- old ⊕ y (R181). -/
def rmwXor : Rmw := fun _ old y => (old ^^^ y, 0)
/-- y (R181). -/
def rmwXch : Rmw := fun _ _ y => (y, 0)
/-- n if old = c bitwise, else old (R181); y holds c below n. -/
def rmwCas : Rmw := fun w old y => (if old = y % 256 ^ atomBytes w then y / 256 ^ atomBytes w else old, 0)
/-- The format of a floating-point atomic. -/
def atomFmt (w : Bool) : Fmt := if w then fp64 else fp32
/-- round(old + y), RNE (R181, R182). -/
def rmwFadd : Rmw := fun w old y => (atomFmt w).add 0 old y
/-- The IEEE minimum (R181, R81). -/
def rmwFmin : Rmw := fun w old y => (atomFmt w).minmax false false old y
/-- The IEEE maximum (R181, R81). -/
def rmwFmax : Rmw := fun w old y => (atomFmt w).minmax true false old y

/-- The function of a read-modify-write. -/
def RmwOp.fn (op : RmwOp) : Rmw :=
  match op with
  | .add => rmwAdd
  | .min => rmwMin
  | .max => rmwMax
  | .and => rmwAnd
  | .or => rmwOr
  | .xor => rmwXor
  | .xch => rmwXch
  | .cas => rmwCas
  | .fadd => rmwFadd
  | .fmin => rmwFmin
  | .fmax => rmwFmax

/-- An element of an atomic or reduction joins the traffic; the issuing core's L1 line for its address is made invalid (R181, R282). -/
def State.issueRmw (s : State) (t : Team) (group : Nat) (addr : DWord) (k : Looked) (w : Bool) (op : RmwOp) (y : Nat) (ord : BitVec 3)
    (dest : Option (RFile × Nat)) (lane : Nat) : State :=
  let s := match k with | .ok pa _ => s.dropL1 (s.l1Units t) t.ctx pa | _ => s
  s.issue t group (s.l1Unit t addr.toNat) addr k (atomBytes w) (.rmw w op y) (some ord) dest lane
/-- Whether an order-and-scope code makes an acquire of cluster scope or wider (R61, R183). -/
def acquires (ord : BitVec 3) : Bool := decide (4 ≤ ord.toNat)

/-- A lane atomic or reduction (R180 to R184): its elements are performed one by one at their home slices, those of one location in
increasing lane order; the forms without a return leave no pending register. -/
def laneAtomic (i : Instr) (d : RegNo) (a : BitVec 6) (w : Bool) (y : (r : Team) → Nat → Nat) (ord : BitVec 3) (op : RmwOp)
    (s : State) : Host.Outcome State Fault Refusal :=
  slot i (fun r t s =>
    let es := r.actives.map fun l => (l, r.V64 l (2 * a.toNat))
    match firstBad (t.todo es) (atomBytes w) with
    | some (c, l, addr) => .trap c l addr
    | none =>
      accesses i t s .rmw false (if d = 0 then none else some 4) es fun s g l addr k =>
        s.issueRmw t g addr k w op (y r l) ord (if d = 0 then none else some (.v, d.toNat)) l) s
/-- Operand y of a lane atomic: a register, a pair with W = 1, or the literal (R58, R180). -/
def atomY (o : OpL) (w fp : Bool) (r : Team) (l : Nat) : Nat := if w then (r.oplV64 l o fp).toNat else (r.oplV l o).toNat

/-- ATADD (R181). -/
def execAtadd (d : RegNo) (a : BitVec 6) (w : Bool) (o : OpL) (ord : BitVec 3) (s : State) : Host.Outcome State Fault Refusal :=
  laneAtomic (.atadd d a w o ord) d a w (atomY o w false) ord .add s
/-- ATMIN (R181). -/
def execAtmin (d : RegNo) (a : BitVec 6) (w : Bool) (o : OpL) (ord : BitVec 3) (s : State) : Host.Outcome State Fault Refusal :=
  laneAtomic (.atmin d a w o ord) d a w (atomY o w false) ord .min s
/-- ATMAX (R181). -/
def execAtmax (d : RegNo) (a : BitVec 6) (w : Bool) (o : OpL) (ord : BitVec 3) (s : State) : Host.Outcome State Fault Refusal :=
  laneAtomic (.atmax d a w o ord) d a w (atomY o w false) ord .max s
/-- ATAND (R181). -/
def execAtand (d : RegNo) (a : BitVec 6) (w : Bool) (o : OpL) (ord : BitVec 3) (s : State) : Host.Outcome State Fault Refusal :=
  laneAtomic (.atand d a w o ord) d a w (atomY o w false) ord .and s
/-- ATOR (R181). -/
def execAtor (d : RegNo) (a : BitVec 6) (w : Bool) (o : OpL) (ord : BitVec 3) (s : State) : Host.Outcome State Fault Refusal :=
  laneAtomic (.ator d a w o ord) d a w (atomY o w false) ord .or s
/-- ATXOR (R181). -/
def execAtxor (d : RegNo) (a : BitVec 6) (w : Bool) (o : OpL) (ord : BitVec 3) (s : State) : Host.Outcome State Fault Refusal :=
  laneAtomic (.atxor d a w o ord) d a w (atomY o w false) ord .xor s
/-- ATXCH (R181). -/
def execAtxch (d : RegNo) (a : BitVec 6) (w : Bool) (o : OpL) (ord : BitVec 3) (s : State) : Host.Outcome State Fault Refusal :=
  laneAtomic (.atxch d a w o ord) d a w (atomY o w false) ord .xch s
/-- ATFADD (R182). -/
def execAtfadd (d : RegNo) (a : BitVec 6) (w : Bool) (o : OpL) (ord : BitVec 3) (s : State) : Host.Outcome State Fault Refusal :=
  laneAtomic (.atfadd d a w o ord) d a w (atomY o w true) ord .fadd s
/-- ATFMIN (R182). -/
def execAtfmin (d : RegNo) (a : BitVec 6) (w : Bool) (o : OpL) (ord : BitVec 3) (s : State) : Host.Outcome State Fault Refusal :=
  laneAtomic (.atfmin d a w o ord) d a w (atomY o w true) ord .fmin s
/-- ATFMAX (R182). -/
def execAtfmax (d : RegNo) (a : BitVec 6) (w : Bool) (o : OpL) (ord : BitVec 3) (s : State) : Host.Outcome State Fault Refusal :=
  laneAtomic (.atfmax d a w o ord) d a w (atomY o w true) ord .fmax s
/-- ATCAS (R181): the compare value below the new value. -/
def execAtcas (d : RegNo) (a : BitVec 6) (w : Bool) (b : RegNo) (ord : BitVec 3) (s : State) : Host.Outcome State Fault Refusal :=
  laneAtomic (.atcas d a w b ord) d a w
    (fun r l => if w then (r.V64 l (b.toNat + 2) ++ r.V64 l b.toNat).toNat else (r.V64 l b.toNat).toNat) ord .cas s
/-- REDADD (R184). -/
def execRedadd (a : BitVec 6) (w : Bool) (o : OpL) (ord : BitVec 3) (s : State) : Host.Outcome State Fault Refusal :=
  laneAtomic (.redadd a w o ord) 0 a w (atomY o w false) ord .add s
/-- REDFADD (R182, R184): elements are applied one at a time. -/
def execRedfadd (a : BitVec 6) (w : Bool) (o : OpL) (ord : BitVec 3) (s : State) : Host.Outcome State Fault Refusal :=
  laneAtomic (.redfadd a w o ord) 0 a w (atomY o w true) ord .fadd s

end Sys2Proof.Machine
end

