-- ==== Sys2Proof/Machine/LaneMem.lean ====
section
/-! DEFINITION. The meanings of the lane loads and stores, the scratchpad and full/empty instructions, the constant and sampler
paths and lane copies (R167 to R179). -/

namespace Sys2Proof.Machine

/-- The byte displacement of form M (R56). -/
def dispOf (disp : BitVec 10) (z : Nat) : DWord := disp.signExtend 64 * BitVec.ofNat 64 z
/-- The generic addresses of the active lanes (R162). -/
def laneAddrs (r : Team) (a : RegNo) (disp : BitVec 10) (z : Nat) : List (Nat × DWord) :=
  r.actives.map fun l => (l, r.V64 l a.toNat + dispOf disp z)
/-- The scratchpad offsets of the active lanes, modulo 2^32 (R162). -/
def laneOffsets (r : Team) (a : RegNo) (disp : BitVec 10) (z : Nat) : List (Nat × Word) :=
  r.actives.map fun l => (l, r.V l a.toNat + (dispOf disp z).setWidth 32)
/-- The low `z` bytes of a lane's data group (R168). -/
def dataBytes (r : Team) (d : RegNo) (l z : Nat) : List Byte :=
  if z < 4 then leBytes z (r.V l d.toNat).toNat else (List.range (z / 4)).flatMap fun k => wordBytes (r.V l (d.toNat + k))

/-- A generic lane load of `z` bytes (R168): each active lane's element brings its own value. -/
def laneLoad (i : Instr) (d a : RegNo) (disp : BitVec 10) (z : Nat) (s : State) : Host.Outcome State Fault Refusal :=
  slot i (fun r t s =>
    let es := laneAddrs r a disp z
    match firstBad (t.todo es) z with
    | some (c, l, addr) => .trap c l addr
    | none => accesses i t s .read true (some 1) es fun s g l addr k => s.issueLoad t g addr z k (.v, d.toNat) l) s
/-- A generic lane store of `z` bytes (R168). -/
def laneStore (i : Instr) (d a : RegNo) (disp : BitVec 10) (z : Nat) (s : State) : Host.Outcome State Fault Refusal :=
  slot i (fun r t s =>
    let es := laneAddrs r a disp z
    match firstBad (t.todo es) z with
    | some (c, l, addr) => .trap c l addr
    | none => accesses i t s .write true none es fun s g l addr k => s.issueStore t g addr (dataBytes r d l z) k l) s

/-- LD8 (R168). -/
def execLd8 (d a : RegNo) (disp : BitVec 10) (s : State) : Host.Outcome State Fault Refusal := laneLoad (.ld8 d a disp) d a disp 1 s
/-- LD16 (R168). -/
def execLd16 (d a : RegNo) (disp : BitVec 10) (s : State) : Host.Outcome State Fault Refusal := laneLoad (.ld16 d a disp) d a disp 2 s
/-- LD32 (R168). -/
def execLd32 (d a : RegNo) (disp : BitVec 10) (s : State) : Host.Outcome State Fault Refusal := laneLoad (.ld32 d a disp) d a disp 4 s
/-- LD64 (R168). -/
def execLd64 (d a : RegNo) (disp : BitVec 10) (s : State) : Host.Outcome State Fault Refusal := laneLoad (.ld64 d a disp) d a disp 8 s
/-- LD128 (R168). -/
def execLd128 (d a : RegNo) (disp : BitVec 10) (s : State) : Host.Outcome State Fault Refusal := laneLoad (.ld128 d a disp) d a disp 16 s
/-- ST8 (R168). -/
def execSt8 (d a : RegNo) (disp : BitVec 10) (s : State) : Host.Outcome State Fault Refusal := laneStore (.st8 d a disp) d a disp 1 s
/-- ST16 (R168). -/
def execSt16 (d a : RegNo) (disp : BitVec 10) (s : State) : Host.Outcome State Fault Refusal := laneStore (.st16 d a disp) d a disp 2 s
/-- ST32 (R168). -/
def execSt32 (d a : RegNo) (disp : BitVec 10) (s : State) : Host.Outcome State Fault Refusal := laneStore (.st32 d a disp) d a disp 4 s
/-- ST64 (R168). -/
def execSt64 (d a : RegNo) (disp : BitVec 10) (s : State) : Host.Outcome State Fault Refusal := laneStore (.st64 d a disp) d a disp 8 s
/-- ST128 (R168). -/
def execSt128 (d a : RegNo) (disp : BitVec 10) (s : State) : Host.Outcome State Fault Refusal := laneStore (.st128 d a disp) d a disp 16 s

/-- A scratchpad lane load of `z` bytes (R171). -/
def spadLoad (i : Instr) (d a : RegNo) (disp : BitVec 10) (z : Nat) (s : State) : Host.Outcome State Fault Refusal :=
  slot i (fun r t s =>
    let es := laneOffsets r a disp z
    match s.badOffset t es z z with
    | some (c, l, o) => .trap c l o
    | none =>
      if s.needsCheckpoint t es then s.wantCheckpoint t
      else
        let s := s.noteWatch t es (z / 4) false
        match es.findSome? fun (e : Nat × Word) => s.spadPoisonAt t e.2 (z / 4) with
        | some o => .later s 2 (.poison 2 (o.setWidth 64))
        | none => .later s 2 (.values (es.flatMap fun (e : Nat × Word) =>
            (List.range (z / 4)).map fun k => ⟨.v, d.toNat + k, e.1, s.spadWord t e.2 k⟩) 0)) s
/-- A scratchpad lane store of `z` bytes, in lane order (R171). -/
def spadStore (i : Instr) (d a : RegNo) (disp : BitVec 10) (z : Nat) (s : State) : Host.Outcome State Fault Refusal :=
  slot i (fun r t s =>
    let es := laneOffsets r a disp z
    match s.badOffset t es z z with
    | some (c, l, o) => .trap c l o
    | none =>
      if s.needsCheckpoint t es then s.wantCheckpoint t
      else
        .done (es.foldl (fun (s : State) (e : Nat × Word) =>
          s.spadStore t e.2 ((List.range (z / 4)).map fun k => r.V e.1 (d.toNat + k))) (s.noteWatch t es (z / 4) true))) s

/-- LDS32 (R171). -/
def execLds32 (d a : RegNo) (disp : BitVec 10) (s : State) : Host.Outcome State Fault Refusal := spadLoad (.lds32 d a disp) d a disp 4 s
/-- LDS64 (R171). -/
def execLds64 (d a : RegNo) (disp : BitVec 10) (s : State) : Host.Outcome State Fault Refusal := spadLoad (.lds64 d a disp) d a disp 8 s
/-- LDS128 (R171). -/
def execLds128 (d a : RegNo) (disp : BitVec 10) (s : State) : Host.Outcome State Fault Refusal := spadLoad (.lds128 d a disp) d a disp 16 s
/-- STS32 (R171). -/
def execSts32 (d a : RegNo) (disp : BitVec 10) (s : State) : Host.Outcome State Fault Refusal := spadStore (.sts32 d a disp) d a disp 4 s
/-- STS64 (R171). -/
def execSts64 (d a : RegNo) (disp : BitVec 10) (s : State) : Host.Outcome State Fault Refusal := spadStore (.sts64 d a disp) d a disp 8 s
/-- STS128 (R171). -/
def execSts128 (d a : RegNo) (disp : BitVec 10) (s : State) : Host.Outcome State Fault Refusal := spadStore (.sts128 d a disp) d a disp 16 s

/-- The three full/empty instructions (R172). -/
inductive FullOp where
  | ldf
  | ste
  | ldfk
  deriving DecidableEq, Repr

/-- The steps of the lanes `es` in lane order (R172): a lane steps when its word's bit is as it waits for and no earlier lane
waits at the word. Answers the state, the lanes stepped, the values read, the lanes that wait, and a poisoned offset met. -/
def fullSteps (op : FullOp) (t : Team) (d : RegNo) (x : Nat → Word) :
    List (Nat × Word) → State → List (Nat × Word) → State × List (Nat × Word) × List RegWrite × List (Nat × Word) × Option Word
  | [], s, waiting => (s, [], [], waiting, none)
  | (l, o) :: es, s, waiting =>
    let ready := (s.isFull t o != (op == .ste)) && !waiting.any fun (w : Nat × Word) => decodeOffset t.crew w.2 == decodeOffset t.crew o
    if !ready then fullSteps op t d x es s (waiting ++ [(l, o)])
    else if op != .ste && s.spadPoison t o 1 then (s, [], [], waiting, some o)
    else
      let v := s.spadWord t o 0
      let s := match op with
        | .ldf => s.setFull t o false
        | .ldfk => s
        | .ste => (s.spadStore t o [x l]).setFull t o true
      let (s, ls, ws, w, p) := fullSteps op t d x es s waiting
      (s, (l, o) :: ls, (if op == .ste then ws else ⟨.v, d.toNat, l, v⟩ :: ws), w, p)

/-- A handoff that members of a gang can make reaches the reader's core (R172, R264): its L1 lines are made invalid. -/
def State.gangAcquire (s : State) (t : Team) : State :=
  match s.gangOf t with
  | some g => if 2 ≤ g.size || (g.kernel.hasCtl && t.crew == 0) then s.acquire t else s
  | none => s
/-- A full/empty slot (R172, R173): the path blocks until every lane's step has been performed; steps are never repeated, and the values
of `ldf` and `ldfk` go to their registers together with the last step. -/
def fullEmpty (op : FullOp) (i : Instr) (d a : RegNo) (disp : BitVec 10) (s : State) : Host.Outcome State Fault Refusal :=
  slot i (fun r t s =>
    let es := t.todo (laneOffsets r a disp 4)
    match s.badOffset t es 4 4 with
    | some (c, l, o) => .trap c l o
    | none =>
      if s.needsCheckpoint t es then s.wantCheckpoint t
      else
        let (s, ls, ws, waiting, bad) := fullSteps op t d (fun l => r.V l d.toNat) es s []
        let s := s.noteWatch t ls 1 (op == .ste)
        let s := if op == .ste || ls.isEmpty then s else s.gangAcquire t
        let ws := t.kept ++ ws
        match bad with
        | some o => .stop (s.consumeHere 2 (o.setWidth 64))
        | none =>
          if waiting.isEmpty then (if op == .ste then .done s else .later s 3 (.values ws 0))
          else
            let done := ls.foldl (fun (m : Mask) (e : Nat × Word) => m ||| (1#1024 <<< e.1)) t.done
            .block (s.updMe fun t => { t with done := done, kept := ws })
              (.words (op != .ste) (waiting.map fun (e : Nat × Word) =>
                ((decodeOffset t.crew e.2).1, (decodeOffset t.crew e.2).2 / 4)))) s

/-- LDF (R172). -/
def execLdf (d a : RegNo) (disp : BitVec 10) (s : State) : Host.Outcome State Fault Refusal := fullEmpty .ldf (.ldf d a disp) d a disp s
/-- STE (R172). -/
def execSte (d a : RegNo) (disp : BitVec 10) (s : State) : Host.Outcome State Fault Refusal := fullEmpty .ste (.ste d a disp) d a disp s
/-- LDFK (R172). -/
def execLdfk (d a : RegNo) (disp : BitVec 10) (s : State) : Host.Outcome State Fault Refusal := fullEmpty .ldfk (.ldfk d a disp) d a disp s

/-- A read of `n` bytes of one line at its issue through a path cache of a team's core, or poison (R281, R441). -/
def State.pathLoad (s : State) (kind : CacheKind) (t : Team) (addr : DWord) (n : Nat) (k : Looked) : State × Option Nat :=
  match k with
  | .ok pa x =>
    if s.poisoned pa n && (s.line? kind t.unit t.ctx (addr.toNat / 128)).isNone then (s, none)
    else
      let (bs, s) := s.cacheRead kind t.unit t.ctx addr.toNat pa n x (s.lineBytes pa)
      (s, some (leNat bs))
  | _ => (s, some 0)

/-- LDC (R174). -/
def execLdc (d a : RegNo) (disp : BitVec 10) (s : State) : Host.Outcome State Fault Refusal :=
  slot (.ldc d a disp) (fun r t s =>
    let es := laneAddrs r a disp 4
    match firstBad (t.todo es) 4 with
    | some (c, l, addr) => .trap c l addr
    | none => accesses (.ldc d a disp) t s .read false (some 1) es fun s g l addr k =>
        s.issue t g t.unit addr k 4 (.load .constant) none (some (.v, d.toNat)) l) s

/-- Whether a texture record breaks R175. -/
def textureBad (r : Nat) : Bool :=
  field r 0 8 % 128 != 0 || decide (16384 ≤ field r 8 2) || decide (16384 ≤ field r 0x0A 2) || field r 0x0C 4 % 16 != 0 ||
  decide (3 < field r 0x11 1) || decide (1 < field r 0x12 1) || decide (1 < field r 0x13 1) || field r 0x14 12 != 0
/-- The floor of a finite number. -/
def floorNum (x : Num) : Int :=
  match x with
  | .fin s m e =>
    let z : Int := if s then -(m : Int) else m
    if 0 ≤ e then z * 2 ^ e.toNat else z / 2 ^ (-e).toNat
  | _ => 0
/-- A finite number less an integer, exactly. -/
def lessInt (x : Num) (i : Int) : Num :=
  match x with
  | .fin s m e =>
    let z : Int := if s then -(m : Int) else m
    if 0 ≤ e then Num.ofInt (z * 2 ^ e.toNat - i) 0 false else Num.ofInt (z - i * 2 ^ (-e).toNat) e false
  | x => x
/-- A texel index under WRAP (R176). -/
def wrapIndex (rep : Bool) (i : Int) (n : Nat) : Nat := if rep then (i % n).toNat else (min (max i 0) (n - 1 : Nat)).toNat
/-- One coordinate of a sample (R176): the two texel indices and the weight between them. -/
def sampleAxis (u : Word) (n : Nat) (bilinear rep : Bool) : Nat × Nat × Num :=
  let c := if (fp32.num u.toNat).isNan then 0 else u.toNat
  let w := (fp32.pack 0 (.fin false n 0)).1
  let x := fp32.num (if bilinear then (fp32.fma 0 c w 0xBF000000).1 else (fp32.mul 0 c w).1)
  match x with
  | .fin _ _ _ =>
    let i := floorNum x
    (wrapIndex rep i n, wrapIndex rep (i + 1) n, lessInt x i)
  | .inf s =>
    let i := if rep then 0 else if s then 0 else n - 1
    (i, i, fp32.num (Config.infiniteWeight u).toNat)
  | .nan _ => (0, 0, .fin false 0 0)
/-- round(w × round(q - p) + p), in FP32 and RNE (R176). -/
def lerpW (p q : Nat) (w : Num) : Nat :=
  let d := fp32.num (fp32.sub 0 q p).1
  let b := fp32.num p
  if d.isNan || b.isNan || w.isNan || (mulNums w d).2 then fp32.qnan
  else (fp32.finish 0 (sumNums 0 [(mulNums w d).1, b])).1
/-- A half as FP32. -/
def halfToSingle (x : Nat) : Nat := (fp32.pack 0 (fp16.num (x % 65536))).1
/-- A number of 255ths as FP32 (R176): 255 times the value lies between two halves of its last place. -/
def unorm8 (c : Nat) : Nat :=
  if c = 0 then 0 else
    let (n, e) := sticky (c * 2 ^ 40 / 255) (c * 2 ^ 40 % 255 == 0) (-40)
    (fp32.roundFin 0 false n e).1
/-- The size of a texel (R175). -/
def texelSize (fmt : Nat) : Nat := if fmt = 0 then 8 else 4
/-- A texel's components in FP32: a missing G or B is 0, a missing A is 1.0 (R176). -/
def texel (fmt x : Nat) : List Nat :=
  match fmt with
  | 0 => [halfToSingle x, halfToSingle (x / 2 ^ 16), halfToSingle (x / 2 ^ 32), halfToSingle (x / 2 ^ 48)]
  | 1 => [unorm8 (x % 256), unorm8 (x / 256 % 256), unorm8 (x / 65536 % 256), unorm8 (x / 2 ^ 24 % 256)]
  | 2 => [x % 2 ^ 32, 0, 0, 0x3F800000]
  | _ => [halfToSingle x, halfToSingle (x / 2 ^ 16), 0, 0x3F800000]
/-- The address of texel (i, j) of a texture record (R176). -/
def texelAddr (r i j : Nat) : DWord := BitVec.ofNat 64 (field r 0 8 + j * field r 0x0C 4 + i * texelSize (field r 0x11 1))
/-- The texels of a sample at (u, v): one for nearest, four for bilinear, and the weights (R176). -/
def sampleTexels (r : Nat) (u v : Word) : List DWord × Num × Num :=
  let bil := field r 0x12 1 == 1
  let rep := field r 0x13 1 == 1
  let (i, i', α) := sampleAxis u (field r 8 2 + 1) bil rep
  let (j, j', β) := sampleAxis v (field r 0x0A 2 + 1) bil rep
  if bil then ([texelAddr r i j, texelAddr r i' j, texelAddr r i j', texelAddr r i' j'], α, β) else ([texelAddr r i j], α, β)
/-- The four components of a sample from its texels (R176). -/
def sampleColour (ts : List (List Nat)) (α β : Num) : List Nat :=
  match ts with
  | [a, b, c, d] =>
    (List.range 4).map fun k =>
      lerpW (lerpW (a.getD k 0) (b.getD k 0) α) (lerpW (c.getD k 0) (d.getD k 0) α) β
  | a :: _ => a
  | [] => []
/-- Read the texels at their addresses, in order; the address of the first that is poisoned, where one is. -/
def State.readTexels (s : State) (t : Team) (fmt : Nat) : List (DWord × Looked) → State × Except DWord (List (List Nat))
  | [] => (s, .ok [])
  | (a, k) :: xs =>
    match s.pathLoad .sampler t a (texelSize fmt) k with
    | (s, none) => (s, .error a)
    | (s, some x) =>
      match s.readTexels t fmt xs with
      | (s, .ok ts) => (s, .ok (texel fmt x :: ts))
      | (s, .error a) => (s, .error a)

/-- SMP (R175, R176). -/
def execSmp (d a b : RegNo) (s : State) : Host.Outcome State Fault Refusal :=
  slot (.smp d a b) (fun r t s =>
    let handle := r.S b.toNat
    match s.readSlot t handle (r.actives.headD 0) 1 with
    | .error x => x
    | .ok (s, rec) =>
      if slotStale rec handle 1 || textureBad rec then .trap 0x0B 0 (handle.setWidth 64)
      else
        let es : List (Nat × List DWord × Num × Num) := r.actives.map fun l =>
          (l, sampleTexels rec (r.V l a.toNat) (r.V l (a.toNat + 1)))
        (genericMany t s .read false (es.map fun (e : Nat × List DWord × Num × Num) => (e.1, e.2.1)) fun s l xs =>
          match s.readTexels t (field rec 0x11 1) xs with
          | (s, .error a) => .poison s a
          | (s, .ok ts) =>
            let (_, α, β) := sampleTexels rec (r.V l a.toNat) (r.V l (a.toNat + 1))
            .ok s ((sampleColour ts α β).mapIdx fun k c => ⟨.v, d.toNat + k, l, BitVec.ofNat 32 c⟩) 0).toLoad 1) s

/-- The checks of a lane copy, in lane order: both addresses by R162 over 32 bytes. -/
def State.copyBad (s : State) (t : Team) (es : List (Nat × DWord × Word)) : Option (Nat × Nat × DWord) :=
  es.findSome? fun (e : Nat × DWord × Word) =>
    if e.2.1.extractLsb' 52 12 != 0#12 then some (0x08, e.1, e.2.1)
    else if !s.inWindow t e.2.2 32 then some (0x06, e.1, e.2.2.setWidth 64)
    else if e.2.1.toNat % 32 != 0 then some (0x07, e.1, e.2.1)
    else if e.2.2.toNat % 32 != 0 then some (0x07, e.1, e.2.2.setWidth 64)
    else none
/-- CPA (R177, R178): the copies join the open batch; each lands later. -/
def execCpa (d a : RegNo) (o : OpB) (s : State) : Host.Outcome State Fault Refusal :=
  slot (.cpa d a o) (fun r t s =>
    let es : List (Nat × DWord × Word) := r.actives.map fun l => (l, r.V64 l a.toNat, r.V l d.toNat)
    match s.copyBad t es with
    | some (c, l, x) => .trap c l x
    | none =>
      if s.needsCheckpoint t (es.map fun (e : Nat × DWord × Word) => (e.1, e.2.2)) then s.wantCheckpoint t
      else
        let copies : List Copy := es.mapIdx fun k (e : Nat × DWord × Word) =>
          let (c, off) := decodeOffset t.crew e.2.2
          ⟨s.serial + k, e.1, e.2.1, min 32 (r.opb e.1 o).toNat, c, off, none, .flying⟩
        .done ({ s with serial := s.serial + es.length }.updMe fun t =>
          { t with copies := t.copies ++ copies, openCount := t.openCount + es.length })) s

end Sys2Proof.Machine
end

