-- ==== Sys2Proof/Machine/UniMem.lean ====
section
/-! DEFINITION. The meanings of the scalar memory instructions (R206 to R209): one element, no lane. -/

namespace Sys2Proof.Machine

/-- The data bytes of a uniform store. -/
def uniBytes (r : Team) (d : RegNo) (z : Nat) : List Byte := (List.range (z / 4)).flatMap fun k => wordBytes (r.S (d.toNat + k))
/-- The address of a scalar access of form M. -/
def uniAddr (r : Team) (a : RegNo) (disp : BitVec 10) (z : Nat) : DWord := r.S64 a.toNat + dispOf disp z

/-- One generic scalar access at an address, checked first (R206). -/
def scalar (i : Instr) (t : Team) (s : State) (a : Access) (w : Bool) (reason : Option Nat) (addr : DWord) (z : Nat)
    (f : State → Nat → Looked → State) : Res :=
  match firstBad [(noLane, addr)] z with
  | some (c, l, x) => .trap c l x
  | none => accesses i t s a w reason [(noLane, addr)] fun s g _ _ k => f s g k

/-- A scalar load of `z` bytes (R207). -/
def uniLoad (i : Instr) (d a : RegNo) (disp : BitVec 10) (z : Nat) (s : State) : Host.Outcome State Fault Refusal :=
  slot i (fun r t s =>
    let addr := uniAddr r a disp z
    scalar i t s .read true (some 9) addr z fun s g k => s.issueLoad t g addr z k (.s, d.toNat) 0) s
/-- A scalar store of `z` bytes (R207). -/
def uniStore (i : Instr) (d a : RegNo) (disp : BitVec 10) (z : Nat) (s : State) : Host.Outcome State Fault Refusal :=
  slot i (fun r t s =>
    let addr := uniAddr r a disp z
    scalar i t s .write true none addr z fun s g k => s.issueStore t g addr (uniBytes r d z) k 0) s

/-- SLD32 (R207). -/
def execSld32 (d a : RegNo) (disp : BitVec 10) (s : State) : Host.Outcome State Fault Refusal := uniLoad (.sld32 d a disp) d a disp 4 s
/-- SLD64 (R207). -/
def execSld64 (d a : RegNo) (disp : BitVec 10) (s : State) : Host.Outcome State Fault Refusal := uniLoad (.sld64 d a disp) d a disp 8 s
/-- SST32 (R207). -/
def execSst32 (d a : RegNo) (disp : BitVec 10) (s : State) : Host.Outcome State Fault Refusal := uniStore (.sst32 d a disp) d a disp 4 s
/-- SST64 (R207). -/
def execSst64 (d a : RegNo) (disp : BitVec 10) (s : State) : Host.Outcome State Fault Refusal := uniStore (.sst64 d a disp) d a disp 8 s
/-- SLDC (R174, R207). -/
def execSldc (d a : RegNo) (disp : BitVec 10) (s : State) : Host.Outcome State Fault Refusal :=
  slot (.sldc d a disp) (fun r t s =>
    let addr := uniAddr r a disp 4
    scalar (.sldc d a disp) t s .read false (some 9) addr 4 fun s g k =>
      s.issue t g t.unit addr k 4 (.load .constant) none (some (.s, d.toNat)) 0) s

/-- A scalar atomic (R208): the single element of the lane atomic of the same name. -/
def uniAtomic (i : Instr) (d : RegNo) (a : BitVec 6) (w : Bool) (y : (r : Team) → Nat) (ord : BitVec 3) (op : RmwOp) (s : State) :
    Host.Outcome State Fault Refusal :=
  slot i (fun r t s =>
    let addr := r.S64 (2 * a.toNat)
    scalar i t s .rmw false (if d = 0 then none else some 9) addr (atomBytes w) fun s g k =>
      s.issueRmw t g addr k w op (y r) ord (if d = 0 then none else some (.s, d.toNat)) 0) s
/-- Operand b of a scalar atomic (R208). -/
def uniY (o : OpL) (w : Bool) (r : Team) : Nat := if w then (r.oplS64 o).toNat else (r.oplS o).toNat
/-- SATADD (R208). -/
def execSatadd (d : RegNo) (a : BitVec 6) (w : Bool) (o : OpL) (ord : BitVec 3) (s : State) : Host.Outcome State Fault Refusal :=
  uniAtomic (.satadd d a w o ord) d a w (uniY o w) ord .add s
/-- SATXCH (R208). -/
def execSatxch (d : RegNo) (a : BitVec 6) (w : Bool) (o : OpL) (ord : BitVec 3) (s : State) : Host.Outcome State Fault Refusal :=
  uniAtomic (.satxch d a w o ord) d a w (uniY o w) ord .xch s
/-- SATCAS (R208): the compare value below the new value. -/
def execSatcas (d : RegNo) (a : BitVec 6) (w : Bool) (b : RegNo) (ord : BitVec 3) (s : State) : Host.Outcome State Fault Refusal :=
  uniAtomic (.satcas d a w b ord) d a w
    (fun r => if w then (r.S64 (b.toNat + 2) ++ r.S64 b.toNat).toNat else (r.S64 b.toNat).toNat) ord .cas s

/-- SLDAQ (R209): a load past the L1 that is an acquire. -/
def execSldaq (d : RegNo) (a : BitVec 6) (w : Bool) (ord : BitVec 3) (s : State) : Host.Outcome State Fault Refusal :=
  slot (.sldaq d a w ord) (fun r t s =>
    let addr := r.S64 (2 * a.toNat)
    scalar (.sldaq d a w ord) t s .read false (some 9) addr (atomBytes w) fun s g k =>
      s.issue t g (s.l1Unit t addr.toNat) addr k (atomBytes w) .loadPast (some ord) (some (.s, d.toNat)) 0) s
/-- SSTRL (R209): a store past the L1 that is a release. -/
def execSstrl (d : RegNo) (a : BitVec 6) (w : Bool) (ord : BitVec 3) (s : State) : Host.Outcome State Fault Refusal :=
  slot (.sstrl d a w ord) (fun r t s =>
    let addr := r.S64 (2 * a.toNat)
    scalar (.sstrl d a w ord) t s .write false none addr (atomBytes w) fun s g k =>
      s.issue t g (s.l1Unit t addr.toNat) addr k (atomBytes w) (.storePast (uniBytes r d (atomBytes w))) (some ord) none 0) s

end Sys2Proof.Machine
end

