-- ==== Sys2Proof/Machine/Content.lean ====
section
/-! DEFINITION. The content region (R247 to R252, R391 to R395): names by SHA-256, the line tables, and the meanings of `chash`,
`cput`, `cget`, `cref`, `cdrop`, `cswap` and of a cascade step. -/

namespace Sys2Proof.Machine

/-- The first 64 primes, from which SHA-256 takes its constants. -/
def shaPrimes : List Nat :=
  [2, 3, 5, 7, 11, 13, 17, 19, 23, 29, 31, 37, 41, 43, 47, 53, 59, 61, 67, 71, 73, 79, 83, 89, 97, 101, 103, 107, 109, 113, 127, 131] ++
  [137, 139, 149, 151, 157, 163, 167, 173, 179, 181, 191, 193, 197, 199, 211, 223, 227, 229, 233, 239, 241, 251, 257, 263, 269, 271, 277] ++
  [281, 283, 293, 307, 311]
/-- The first 32 bits of the fraction of the `k`-th root of a prime: a round constant for k = 3, a word of the first hash value for k = 2. -/
def rootBits (k p : Nat) : Word := BitVec.ofNat 32 (root k (p * 2 ^ (32 * k)))
/-- The exclusive or of a word rotated to the right by some distances. -/
def turns (x : Word) (ns : List Nat) : Word := ns.foldl (fun y n => y ^^^ x.rotateRight n) 0
/-- A place of a list of words. -/
def wordAt (ws : List Word) (k : Nat) : Word := ws.getD k 0
/-- The words of a block's schedule, sixteen at first, each later one from the sixteen before it. -/
def shaExtend (ws : List Word) (n : Nat) : List Word :=
  let back (k : Nat) : Word := wordAt ws (n - k)
  ws ++ [turns (back 2) [17, 19] ^^^ (back 2) >>> 10, back 7, turns (back 15) [7, 18] ^^^ (back 15) >>> 3, back 16].foldl (· + ·) 0 :: []
/-- A round of SHA-256 on the eight working words, with the sum of its constant and its schedule word: every word moves on by one place, the
fifth with what the round mixes, the first with that and the majority. -/
def shaRound (x : List Word) (kw : Word) : List Word :=
  let choose := wordAt x 4 &&& wordAt x 5 ||| ~~~wordAt x 4 &&& wordAt x 6
  let mixed := wordAt x 7 + turns (wordAt x 4) [6, 11, 25] + choose + kw
  let most := wordAt x 0 &&& (wordAt x 1 ||| wordAt x 2) ||| wordAt x 1 &&& wordAt x 2
  (mixed + turns (wordAt x 0) [2, 13, 22] + most) :: (x.take 7).modify 3 (· + mixed)
/-- The hash value after a block of 64 bytes, read as big-endian words. -/
def shaBlock (h : List Word) (block : List Byte) : List Word :=
  let first := (List.range 16).map fun k => BitVec.ofNat 32 (leNat ((block.drop (4 * k)).take 4).reverse)
  let words := (List.range' 16 48).foldl shaExtend first
  List.zipWith (· + ·) h ((List.zipWith (· + ·) (shaPrimes.map (rootBits 3)) words).foldl shaRound h)
/-- SHA-256 of bytes: eight big-endian words. -/
def sha256 (bs : List Byte) : List Word :=
  let tail := (leBytes 8 (8 * bs.length)).reverse
  let whole := bs ++ 0x80 :: List.replicate ((119 - bs.length % 64) % 64) 0 ++ tail
  (List.range (whole.length / 64)).foldl (fun h k => shaBlock h (whole.drop (64 * k))) ((shaPrimes.take 8).map (rootBits 2))

/-- A sharing domain of a partition that has a line table on the package (R391). -/
def State.tableOf (s : State) (part id : Nat) : Option Domain :=
  (s.domains.find (domKey part id)).bind fun d => if d.lines = 0 then none else some d
/-- The bucket of a name or prefix in a table of 2^m lines (R392). -/
def nameBucket (name : DWord) (m : Nat) : Nat := name.toNat / 2 ^ (64 - (m - 4))
/-- The slot of a name (R392). -/
def nameSlot (name : DWord) (m : Nat) : Nat := 16 * nameBucket name m + name.toNat % 16
/-- A valid line that bears a name (R393). -/
def Domain.line? (d : Domain) (name : DWord) : Option Line :=
  match d.table.find (nameSlot name d.lines) with
  | some l => if l.name = name then some l else none
  | none => none
/-- The number of the first of a context's domains whose table has a name (R393): its key in the state and the domain. -/
def State.findName (s : State) (ctx : Nat) (name : DWord) : Option (Nat × Domain) :=
  match s.contexts.find ctx with
  | none => none
  | some c => c.domains.findSome? fun id =>
      (s.tableOf c.part id).bind fun d => if (d.line? name).isSome then some (domKey c.part id, d) else none
/-- The physical address of a slot's 128 bytes (R391). -/
def Domain.dataAt (d : Domain) (slot : Nat) : Nat := Config.linePhys d.part d.id + 128 * slot
/-- The physical address of a slot's meta entry (R391). -/
def Domain.metaAt (d : Domain) (slot : Nat) : Nat := Config.metaPhys d.part d.id + 16 * slot
/-- The state with a domain changed. -/
def State.updDomain (s : State) (k : Nat) (f : Domain → Domain) : State :=
  match s.domains.find k with
  | some d => { s with domains := s.domains.insert k (f d) }
  | none => s
/-- A count at which a line stays for ever (R251). -/
def saturated : Word := 0xFFFFFFFF
/-- Add 1 to the count of a name in a domain, saturating (R251). -/
def State.countUp (s : State) (k : Nat) (name : DWord) : State :=
  s.updDomain k fun d =>
    match d.line? name with
    | some l => { d with table := d.table.insert (nameSlot name d.lines) { l with count := if l.count = saturated then l.count else l.count + 1 } }
    | none => d
/-- The sixteen child names of a node line's bytes, from a number (R249). -/
def childNames (bytes : Nat) : List DWord :=
  ((List.range 16).map fun i => BitVec.ofNat 64 (bytes / 2 ^ (64 * i))).filter (· != 0)
/-- The die of a bucket's home slice (R285, R392). -/
def dieOf (d : Domain) (name : DWord) : Nat :=
  (LineName.canon ((Config.metaPhys d.part d.id + 16 * 16 * nameBucket name d.lines) / 128)).home.1 / 48
/-- Subtract 1 from the count of a name in a domain: at 0 the line becomes absent, its slot reads as zeros, and a node's children
are queued as cascade steps (R251, R395). -/
def State.countDown (s : State) (k : Nat) (name : DWord) : State :=
  match s.domains.find k with
  | none => s
  | some d =>
    match d.line? name with
    | none => s
    | some l =>
      let slot := nameSlot name d.lines
      if l.count = saturated then s
      else if 1 < l.count.toNat then s.updDomain k fun d => { d with table := d.table.insert slot { l with count := l.count - 1 } }
      else
        let kids := if l.node then childNames (s.readNat (d.dataAt slot) 128) else []
        let s := { s with cascade := s.cascade ++ kids.map fun c => (dieOf d name, k, c) }
        (s.updDomain k fun d => { d with table := d.table.erase slot }).writeBytes (d.dataAt slot) (leBytes 128 0) none

/-- The prefix of a line's digest in bits 63:4, bits 3:0 zero (R248). -/
def namePrefix (salt : BitVec 256) (bytes : List Byte) : DWord :=
  match sha256 (leBytes 32 salt.toNat ++ bytes) with
  | a :: b :: _ => (a ++ b) &&& 0xFFFFFFFFFFFFFFF0#64
  | _ => 0
/-- What a probe of the sixteen names of a prefix finds (R249). -/
structure Probed where
  /-- the first name whose line has the bytes and the NODE flag -/
  same : Option Nat
  /-- the first name without a line -/
  free : Option Nat
  deriving DecidableEq, Repr
/-- Probe the names of a prefix for a line (R249, R392): for prefix 0, probe 0 is never used. -/
def State.probe (s : State) (d : Domain) (p : DWord) (bytes : Nat) (node : Bool) : Probed :=
  let is := (List.range 16).filter fun i => !(p == 0 && i == 0)
  let slot (i : Nat) : Nat := 16 * nameBucket p d.lines + i
  ⟨is.find? fun i => match d.table.find (slot i) with
      | some l => l.node == node && s.readNat (d.dataAt (slot i)) 128 == bytes
      | none => false,
    is.find? fun i => (d.table.find (slot i)).isNone⟩
/-- The probe at which an insertion ends: the identical line or the empty name that comes first (R249). -/
def Probed.first (x : Probed) : Option Nat :=
  match x.same, x.free with
  | some a, some b => some (min a b)
  | a, b => a.or b
/-- The collisions that a probe passes are counted (R397): the lines of its prefix below the probe where it stops. -/
def State.countCollisions (s : State) (ctx : Nat) (d : Domain) (p : DWord) (stop : Option Nat) : State :=
  ((List.range (stop.getD 16)).filter fun i => (d.table.find (16 * nameBucket p d.lines + i)).isSome).foldl
    (fun (s : State) _ => s.bumpReg ctx 0x40 16 16) s

/-- Whether a probe meets poison up to probe `last` of a prefix, in a meta entry or in the bytes of a line: the operation consumes it
(R441). -/
def State.probePoison (s : State) (d : Domain) (p : DWord) (last : Nat) : Bool :=
  (List.range (last + 1)).any fun i =>
    let slot := 16 * nameBucket p d.lines + i
    !(p == 0 && i == 0) && (s.poisoned (d.metaAt slot) 16 || ((d.table.find slot).isSome && s.poisoned (d.dataAt slot) 128))
/-- Whether a look-up of a name meets a poisoned meta entry (R393, R441): in the tables that it reads up to the one that has the name. -/
def State.namePoison (s : State) (ctx : Nat) (name : DWord) : Bool :=
  match s.contexts.find ctx with
  | none => false
  | some c =>
    let ds := c.domains.filterMap (s.tableOf c.part)
    (ds.take (ds.findIdx (fun d => (d.line? name).isSome) + 1)).any fun d => s.poisoned (d.metaAt (nameSlot name d.lines)) 16
/-- A content operation without a result meets poison (R441); the address is an open value, as above. -/
def State.nameConsumed (s : State) : Res := .stop (State.consumeHere { s with tick := s.tick + 1 } 5 (Config.rasAddr s.tick))
/-- A content operation with a result pair meets poisoned bytes (R441): its result is consumed. RAS_ADDR is an open value, since R455
names no address for a line of the content region. -/
def State.linePoison (s : State) : Res := .later { s with tick := s.tick + 1 } 14 (.poison 5 (Config.rasAddr s.tick))
/-- Whether counting a name down would free a node line whose bytes, the names of its children, are poisoned (R441, R395). -/
def State.dropPoison (s : State) (k : Nat) (name : DWord) : Bool :=
  match s.domains.find k with
  | none => false
  | some d =>
    match d.line? name with
    | none => false
    | some l => l.node && decide (l.count.toNat ≤ 1) && s.poisoned (d.dataAt (nameSlot name d.lines)) 128

/-- What `cput` and `chash` read before their probe: the write domain's table and the line's 128 bytes, or what the slot comes to
(R248, R249). -/
def State.lineOperand (s : State) (t : Team) (x : Word) : Except Res (Nat × Domain × List Byte) :=
  let off := x &&& 0xFFFFFF80#32
  if !s.inWindow t off 128 then .error (.trap 0x06 noLane (off.setWidth 64))
  else if x.extractLsb' 1 6 != 0#6 then .error (.trap 0x07 noLane (x.setWidth 64))
  else
    match s.contexts.find t.ctx with
    | none => .error (.trap 0x08 noLane 0)
    | some c =>
      match c.wdom with
      | none => .error (.trap 0x08 noLane 0)
      | some id =>
        match s.tableOf c.part id with
        | none => .error (.trap 0x08 noLane (BitVec.ofNat 64 id))
        | some d =>
          match s.spadPoisonAt t off 32 with
          | some o => .error (.stop (s.consumeHere 2 (o.setWidth 64)))
          | none =>
          if s.needsCheckpoint t [(0, off)] then .error (s.wantCheckpoint t)
          else .ok (domKey c.part id, d, (List.range 32).flatMap fun k => wordBytes (s.spadWord t off k))
/-- The salt of a domain of a context's partition group (R248, R394). -/
def State.saltOf (s : State) (ctx : Nat) (d : Domain) : BitVec 256 :=
  Config.salt (match s.partitionOf ctx with | some p => p.group | none => 0) d.id d.saltGen
/-- The trap of a table with no name for a line (R249, R397). -/
def State.nameFull (s : State) (ctx : Nat) (p : DWord) : Res := .trapIn (s.bumpReg ctx 0x40 0 16) 0x15 0 p

/-- CHASH (R249): the name of the identical line, else the lowest name without a line. -/
def execChash (d a : RegNo) (s : State) : Host.Outcome State Fault Refusal :=
  slot (.chash d a) (fun r t s =>
    match s.lineOperand t (r.S a.toNat) with
    | .error x => x
    | .ok (_, dom, bytes) =>
      let p := namePrefix (s.saltOf t.ctx dom) bytes
      let x := s.probe dom p (leNat bytes) ((r.S a.toNat).getLsbD 0)
      let s := s.countCollisions t.ctx dom p (x.same.or x.free)
      if s.probePoison dom p (x.same.getD 15) then s.linePoison
      else match x.same.or x.free with
      | none => s.nameFull t.ctx p
      | some i => .later s 14 (.values (uniWrite64 d (p ||| BitVec.ofNat 64 i)) 0)) s
/-- CPUT (R249). -/
def execCput (d a : RegNo) (s : State) : Host.Outcome State Fault Refusal :=
  slot (.cput d a) (fun r t s =>
    match s.lineOperand t (r.S a.toNat) with
    | .error x => x
    | .ok (k, dom, bytes) =>
      let node := (r.S a.toNat).getLsbD 0
      let p := namePrefix (s.saltOf t.ctx dom) bytes
      let x := s.probe dom p (leNat bytes) node
      let s := s.countCollisions t.ctx dom p x.first
      if s.probePoison dom p (x.first.getD 15) then s.linePoison
      else match x.first with
      | none => s.nameFull t.ctx p
      | some i =>
        let name := p ||| BitVec.ofNat 64 i
        if x.same == some i then .later (s.countUp k name) 14 (.values (uniWrite64 d name) 0)
        else
          let kids := if node then childNames (leNat bytes) else []
          match kids.find? fun m => (dom.line? m).isNone with
          | some m => .trap 0x08 noLane m
          | none =>
            if kids.any fun m => s.poisoned (dom.metaAt (nameSlot m dom.lines)) 16 then s.linePoison else
            let s := kids.foldl (fun (s : State) m => s.countUp k m) s
            let slot := nameSlot name dom.lines
            let s := s.updDomain k fun d => { d with table := d.table.insert slot ⟨name, 1, node⟩ }
            .later (s.writeBytes (dom.dataAt slot) bytes none) 14 (.values (uniWrite64 d name) 0)) s
/-- CGET (R250): the bytes land with their poison, and no full/empty bit changes. -/
def execCget (a b : RegNo) (s : State) : Host.Outcome State Fault Refusal :=
  slot (.cget a b) (fun r t s =>
    let off := r.S a.toNat
    let name := r.S64 b.toNat
    if !s.inWindow t off 128 then .trap 0x06 noLane (off.setWidth 64)
    else if off.toNat % 128 != 0 then .trap 0x07 noLane (off.setWidth 64)
    else
      match s.findName t.ctx name with
      | none => .trap 0x08 noLane name
      | some (_, d) =>
        if s.needsCheckpoint t [(0, off)] then s.wantCheckpoint t
        else if s.namePoison t.ctx name then s.nameConsumed
        else
          let pa := d.dataAt (nameSlot name d.lines)
          let s' := (s.acquire t).spadStore t off ((List.range 32).map fun k => BitVec.ofNat 32 (s.readNat (pa + 4 * k) 4))
          let (c, o) := decodeOffset t.crew off
          .done ((List.range 32).foldl (fun (s' : State) k =>
            if s'.poisoned (pa + 4 * k) 4 then s'.updCrew t.gang c fun cr => { cr with poison := cr.poison.set false (o / 4 + k) true }
            else s') s')) s
/-- A count operation on a name (R248, R251): finding the line is an acquire (R264). -/
def countName (i : Instr) (a : RegNo) (f : (t : Team) → State → Nat → DWord → Res) (s : State) : Host.Outcome State Fault Refusal :=
  slot i (fun r t s =>
    let name := r.S64 a.toNat
    if name = 0 then .done s
    else if s.namePoison t.ctx name then s.nameConsumed
    else
      match s.findName t.ctx name with
      | none => .trap 0x08 noLane name
      | some (k, _) => f t (s.acquire t) k name) s
/-- CREF (R251). -/
def execCref (a : RegNo) (s : State) : Host.Outcome State Fault Refusal := 
  countName (.cref a) a (fun _ s k name => .done (s.countUp k name)) s
/-- CDROP (R251). -/
def execCdrop (a : RegNo) (s : State) : Host.Outcome State Fault Refusal := 
  countName (.cdrop a) a (fun _ s k name =>
    if s.dropPoison k name then s.nameConsumed
    else .done (s.countDown k name)) s
/-- The name that keeps a `cswap` from a cell that holds its expected name: the new one where no line bears it in the context's domains, else
the expected one (R248, R252). The null name is never absent. -/
def State.swapAbsent (s : State) (ctx : Nat) (e m : DWord) : Option DWord :=
  [m, e].find? fun n => n != 0 && (s.findName ctx n).isNone && !s.namePoison ctx n
/-- The step of a `cswap` at its cell (R252): M's count rises, the cell takes M, and E's count falls. Poison met in E's line stops it. -/
def State.swapCell (s : State) (t : Team) (d : RegNo) (addr : DWord) (pa : Nat) (e m : DWord) : Perf :=
  let s := s.dropL1 (s.l1Units t) t.ctx pa
  if s.poisoned pa 8 then .poison s addr
  else if BitVec.ofNat 64 (s.readNat pa 8) != e then .ok s [⟨.s, d.toNat, 0, 0⟩] 0
  else if [e, m].any fun n => n != 0 && s.namePoison t.ctx n then .poison { s with tick := s.tick + 1 } (Config.rasAddr s.tick)
  else
    let s := match s.findName t.ctx m with | some (k, _) => s.countUp k m | none => s
    let s := (s.storeBytes t.ctx addr.toNat pa (dwordBytes m)).acquire t
    match s.findName t.ctx e with
    | some (k, _) =>
      if s.dropPoison k e then .poison { s with tick := s.tick + 1 } (Config.rasAddr s.tick)
      else .ok (s.countDown k e) [⟨.s, d.toNat, 0, 1⟩] 0
    | none => .ok s [⟨.s, d.toNat, 0, 1⟩] 0
/-- CSWAP (R252): an acquire where its code is one, and where it finds a line (R264). -/
def execCswap (d a b : RegNo) (m : BitVec 3) (s : State) : Host.Outcome State Fault Refusal :=
  slot (.cswap d a b m) (fun r t s =>
    let addr := r.S64 a.toNat
    let old := r.S64 b.toNat
    let new := r.S64 (b.toNat + 2)
    match firstBad [(noLane, addr)] 8 with
    | some (c, l, x) => .trap c l x
    | none =>
      match (match lookFor s t .rmw false addr with
          | .ok pa _ => if !s.poisoned pa 8 && BitVec.ofNat 64 (s.readNat pa 8) == old then s.swapAbsent t.ctx old new else none
          | _ => none) with
      | some name => .trap 0x08 noLane name
      | none =>
        match genericMany t s .rmw false [(noLane, [addr])] fun s _ xs =>
            match xs with
            | (_, .ok pa _) :: _ => s.swapCell t d addr pa old new
            | _ => .ok s [] 0 with
        | .all s ws fl => .later (if acquires m then s.acquire t else s) 14 (.values ws fl)
        | x => x.toLoad 14) s

/-- CASCADE STEP (R395): the oldest step of a die's queue is performed as a `cdrop` at the child's bucket. -/
def execCascadeStep (die : Nat) (s : State) : Host.Outcome State Fault Refusal :=
  .next (match s.cascade.find? (·.1 == die) with
    | none => s
    | some e => State.countDown { s with cascade := s.cascade.erase e } e.2.1 e.2.2)

end Sys2Proof.Machine
end

