-- ==== Sys2Proof/Machine/Barrier.lean ====
section
/-! DEFINITION. The crew barriers (R229 to R231) and the wish of a rollback crew for a checkpoint (R445). -/

namespace Sys2Proof.Machine

/-- The number that stands for no team where a crew wants a checkpoint for no team's operation. -/
def noTeam : Nat := 2 ^ 40
/-- A crew of a rollback kernel wants a checkpoint for no team's operation: a phase has completed, or a team has ended (R445). -/
def State.wantPhaseCheckpoint (s : State) (gang k : Nat) : State :=
  match s.gangs.find gang with
  | some g =>
    if g.kernel.rollback then
      s.updCrew gang k fun c => { c with rb := { c.rb with wanted := c.rb.wanted.or (some noTeam) } }
    else s
  | none => s
/-- `barrv` results of a completed phase are on their way (R229). -/
def Team.sumReady (t : Team) (k : Nat) (sum : Word) : Team :=
  { t with pends := t.pends.map fun (p : Pend) => match p.data with
    | .sum j => if j = k then { p with data := .values [⟨.s, p.n, 0, sum⟩] 0 } else p
    | _ => p }
/-- The L1s that a crew reads through give their lines up where a phase brings in what those L1s have not seen: a job's landings, or what the teams of
two cores wrote (R231, R264, R354). -/
def State.phaseAcquire (s : State) (gang crew : Nat) (job : Bool) : State :=
  match s.gangs.find gang with
  | none => s
  | some g =>
    match g.crew? crew with
    | none => s
    | some c => if job || (g.kernel.hasCtl && crew == 0) then s.dropLines .l1 (g.crewUnits crew c) g.ctx else s
/-- PHASE COMPLETE: the check that the barrier unit makes after every operation (R229); `job` says that a job's bytes were counted. -/
def State.checkBarrier (s : State) (gang crew k : Nat) (job : Bool) : State :=
  match (s.gangs.find gang).bind (·.crew? crew) with
  | none => s
  | some c =>
    match c.barriers[k]? with
    | none => s
    | some b =>
      if b.expect ≤ b.arrived && b.pend == 0#32 then
        let s := s.updCrew gang crew fun c =>
          { c with barriers := c.barriers.set k { b with arrived := 0, sum := 0, count := b.count + 1 } }
        let s := { s with teams := s.teams.map fun (p : Nat × Team) =>
          if p.2.gang = gang && p.2.crew = crew then (p.1, p.2.sumReady k b.sum) else p }
        (s.phaseAcquire gang crew job).wantPhaseCheckpoint gang crew
      else s
/-- Change a barrier of a crew, then check it (R229). -/
def State.barrierOp (s : State) (gang crew k : Nat) (job : Bool) (f : Barrier → Barrier) : State :=
  (s.updCrew gang crew fun c => { c with barriers := c.barriers.modify k f }).checkBarrier gang crew k job
/-- A barrier of a team's crew. -/
def State.barrier? (s : State) (t : Team) (k : Nat) : Option Barrier := (s.crewOf t).bind (·.barriers[k]?)
/-- A landing's bytes are counted off a barrier: more than PEND make it 0 and are counted as an overrun of the context on a
cluster (R231). -/
def State.barrierBytes (s : State) (ctx cluster gang crew k n : Nat) : State :=
  match (s.gangs.find gang).bind (·.crew? crew) with
  | none => s
  | some c =>
    match c.barriers[k]? with
    | none => s
    | some b =>
      let s := if b.pend.toNat < n then s.bumpReg ctx (clusterReg cluster 0x10) 48 16 else s
      s.barrierOp gang crew k true fun b => { b with pend := BitVec.ofNat 32 (b.pend.toNat - n) }
/-- A team of a crew ends: EXPECT of every barrier falls by 1, and each is checked (R230). -/
def State.barrierLeave (s : State) (gang crew : Nat) : State :=
  (List.range 16).foldl (fun (s : State) k => s.barrierOp gang crew k false fun b => { b with expect := b.expect - 1 }) s

end Sys2Proof.Machine
end

