-- ==== Sys2Proof/Machine/Sync.lean ====
section
/-! DEFINITION. The meanings of the barrier, fence, wait and batch instructions (R226 to R236) and of `fwait` and `ftest`
(R237). -/

namespace Sys2Proof.Machine

/-- The number of phases that a barrier of the current team's crew has completed. -/
def State.phases (s : State) (t : Team) (k : Nat) : Nat := match s.barrier? t k with | some b => b.count | none => 0
/-- Where an arrival leaves the path: it goes on if the phase has completed, else it blocks with its arrival marked (R230). -/
def State.afterArrival (s : State) (t : Team) (k count : Nat) : Res :=
  if count < s.phases t k && condHolds s s.cur t (.phase k count) then .done s
  else .block (s.updMe fun t => { t with mark := some count }) (.phase k count)
/-- BAR (R230). -/
def execBar (a : RegNo) (s : State) : Host.Outcome State Fault Refusal :=
  slot (.bar a) (fun _ t s =>
    match t.mark with
    | some n => if condHolds s s.cur t (.phase a.toNat n) then .done s else .block s (.phase a.toNat n)
    | none =>
      (s.barrierOp t.gang t.crew a.toNat false fun b => { b with arrived := b.arrived + 1 }).afterArrival t a.toNat (s.phases t a.toNat)) s
/-- BARRV (R230): the destination is pending until the phase completes and its SUM is written. -/
def execBarrv (d a b : RegNo) (s : State) : Host.Outcome State Fault Refusal :=
  slot (.barrv d a b) (fun r t s =>
    match t.mark with
    | some n => if condHolds s s.cur t (.phase a.toNat n) then .done s else .block s (.phase a.toNat n)
    | none =>
      if s.overfull (.barrv d a b) then .block s (.scoreboard 1)
      else
        let s' := s.markPending (.barrv d a b) 13 (.sum a.toNat)
        (s'.barrierOp t.gang t.crew a.toNat false fun k =>
          { k with arrived := k.arrived + 1, sum := k.sum + r.S b.toNat }).afterArrival t a.toNat (s.phases t a.toNat)) s
/-- BARW (R230): it returns at once where the barrier is idle after a completed phase. -/
def execBarw (a : RegNo) (s : State) : Host.Outcome State Fault Refusal :=
  slot (.barw a) (fun _ t s =>
    match t.mark with
    | some n => if condHolds s s.cur t (.phase a.toNat n) then .done s else .block s (.phase a.toNat n)
    | none =>
      match s.barrier? t a.toNat with
      | none => .done s
      | some b =>
        if b.arrived = 0 && b.pend == 0#32 && b.count != 0 then .done s
        else .block (s.updMe fun t => { t with mark := some b.count }) (.phase a.toNat b.count)) s
/-- BARPEND (R230). -/
def execBarpend (a : RegNo) (o : OpU) (s : State) : Host.Outcome State Fault Refusal :=
  slot (.barpend a o) (fun r t s =>
    .done (s.barrierOp t.gang t.crew a.toNat false fun b => { b with pend := b.pend + r.opu o })) s

/-- FENCE (R233): the team's earlier accesses have been performed; codes 4 to 7 invalidate the L1's generic lines. -/
def execFence (ord : BitVec 3) (s : State) : Host.Outcome State Fault Refusal :=
  slot (.fence ord) (fun _ t s => .done (if 4 ≤ ord.toNat then s.acquire t else s)) s
/-- PFENCE (R234): bits 0 generic, 1 constant, 2 sampler, 3 tile. -/
def execPfence (mask : BitVec 4) (s : State) : Host.Outcome State Fault Refusal :=
  slot (.pfence mask) (fun _ t s =>
    let s := if mask.getLsbD 0 then s.acquire t else s
    let s := if mask.getLsbD 1 then s.dropLines .constant [t.unit] t.ctx else s
    let s := if mask.getLsbD 2 then s.dropLines .sampler [t.unit] t.ctx else s
    .done (if mask.getLsbD 3 then s.dropLines .tile [unitOf t.cluster 5] t.ctx else s)) s

/-- The entries of a `wait`: address and expected value (R235). -/
def waitEntries (r : Team) (a b : RegNo) : List (DWord × DWord) :=
  (List.range b.toNat).map fun k => (r.S64 (a.toNat + 4 * k), r.S64 (a.toNat + 4 * k + 2))
/-- A `wait` has begun: S(d) is pending until the return, and the path stays blocked at the slot until then (R235, R484). -/
def State.armWait (s : State) (i : Instr) (d : RegNo) (data : PendData) : Res :=
  if s.overfull i then .block s (.scoreboard (markCount i))
  else
    let s := (s.markPending i 13 data).updMe fun t => { t with mark := some 0 }
    .block (s.endAllow s.cur) (.reg .s d.toNat)
/-- WAIT (R235): every entry is checked and translated, and the words are armed; the return is an event of its own, and the path
goes on after it. -/
def execWait (d a b : RegNo) (s : State) : Host.Outcome State Fault Refusal :=
  slot (.wait d a b) (fun r t s =>
    if t.mark.isSome then .done s
    else
    let es := waitEntries r a b
    match firstBad (es.map fun (e : DWord × DWord) => (noLane, e.1)) 8 with
    | some (c, l, x) => .trap c l x
    | none =>
      match genericMany t s .read false [(noLane, es.map (·.1))] fun s _ _ => .ok s [] 0 with
      | .all s _ _ => s.armWait (.wait d a b) d (.armed es)
      | x => x.toLoad 13) s
/-- What a re-read of an armed word comes to. -/
inductive Armed where
  /-- it is as expected -/
  | same
  | differs
  | poison
  /-- its page no longer permits the read: the slot is to be issued again -/
  | barred
  deriving DecidableEq, Repr
/-- A re-read of an armed word, under the translation of now (R235, R274, R295). -/
def State.armedLook (s : State) (t : Team) (e : DWord × DWord) : Armed :=
  match s.lookWalk t.unit t.ctx e.1.toNat .read with
  | .ok pa _ =>
    if s.poisoned pa 8 then .poison
    else if BitVec.ofNat 64 (leNat (overlay (s.heldOf t) pa (s.seenBytes t.cluster pa 8))) == e.2 then .same
    else .differs
  | _ => .barred
/-- The lowest entry of armed words that is not as it was expected, with what it is (R235). -/
def State.armedDiffers (s : State) (t : Team) (es : List (DWord × DWord)) : Option (Nat × Armed) :=
  (es.mapIdx fun k e => (k, s.armedLook t e)).find? fun x => x.2 != Armed.same
/-- CTCOMMIT (R28, R236): the open batch takes tag NEXT, once the batch in that tag has completed. -/
def execCtcommit (s : State) : Host.Outcome State Fault Refusal :=
  slot .ctcommit (fun _ t s =>
    if t.tagFree t.nextTag then
      .done (s.updMe fun t => { t with
        copies := t.copies.map fun (c : Copy) => if c.tag.isNone then { c with tag := some t.nextTag } else c
        tags := t.tags.set t.nextTag ⟨t.openCount, t.openCount != 0⟩
        openCount := 0, nextTag := (t.nextTag + 1) % 8 })
    else (s.copyOutcome t [t.nextTag] false).getD (.block s (.batch t.nextTag))) s
/-- CTWAIT (R236): it waits for every committed batch but the k newest. -/
def execCtwait (b : RegNo) (s : State) : Host.Outcome State Fault Refusal :=
  slot (.ctwait b) (fun _ t s =>
    match s.copyOutcome t (t.oldTags b.toNat) false with
    | some r => r
    | none => if (t.oldTags b.toNat).all t.tagFree then .done s else .block s (.batches b.toNat)) s

/-- How a handle stands in its context (R21, R23): the status that it resolves to, or none while its job goes on. -/
def Context.handleStatus (c : Context) (h : Word) : Option Word :=
  let cls := (h.extractLsb' 29 3).toNat
  if cls = 1 || cls = 2 then
    match c.futures.find (futKey cls (h.extractLsb' 12 17).toNat) with
    | some f => if f.gen = h.toNat % 4096 then f.status else some 3
    | none => some 3
  else some 4
/-- The raw handle that a future instruction reads, or the block on a register that another producer holds (R22, R66). -/
def rawHandle (t : Team) (a : RegNo) : Option Cond :=
  match t.pendOf .s a.toNat with
  | some p => if p.isFuture then none else some (.reg .s a.toNat)
  | none => none
/-- FWAIT (R237). -/
def execFwait (d a : RegNo) (s : State) : Host.Outcome State Fault Refusal :=
  slot (.fwait d a) (fun r t s =>
    match rawHandle t a with
    | some c => .block s c
    | none =>
      let h := r.S a.toNat
      match (match s.contexts.find t.ctx with | some c => c.handleStatus h | none => some 3) with
      | some st => .later s 6 (.values [⟨.s, d.toNat, 0, st⟩] 0)
      | none => .later (s.updMe fun t => t.landS d.toNat h) 6 .future) s
/-- FTEST (R237): fixed at 2 clk where the register is not pending, else of variable latency. -/
def execFtest (d a : RegNo) (s : State) : Host.Outcome State Fault Refusal :=
  slot (.ftest d a) (fun r t s =>
    match rawHandle t a with
    | some c => .block s c
    | none =>
      let y : Word := match s.contexts.find t.ctx with
        | some c => if (c.handleStatus (r.S a.toNat)).isSome then 1 else 0
        | none => 1
      match t.pendOf .s a.toNat with
      | none => .fixed s 2 (uniWrite d y) 0
      | some _ => .later s 13 (.values [⟨.s, d.toNat, 0, y⟩] 0)) s

end Sys2Proof.Machine
end

