-- ==== Sys2Proof/Machine/Yarder.lean ====
section
/-! DEFINITION. The yarder (R239, R299 to R325): forming and checking cards, starting jobs, their landings, progress words and
stamps, collectives, completion and futures, and the meanings of `job` and of the yarder's events. -/

namespace Sys2Proof.Machine

/-- What a read by an engine comes to. -/
inductive EngineRead where
  | bytes (bs : List Byte)
  | trap (addr : Nat)
  | fault (addr kind level : Nat) (entry : DWord)
  | poison (addr : Nat)
/-- Read bytes of a context's memory for an engine that interprets them (R293, R319, R442). -/
def State.engineRead (s : State) (unit : Option Nat) (ctx va n : Nat) : EngineRead :=
  match s.barsVia unit ctx va n .read with
  | some (p, .fault k l e) => .fault p k l e
  | some (p, _) => .trap p
  | none =>
    match (List.range n).find? fun k => s.poisonVia unit ctx (va + k) 1 with
    | some k => .poison (va + k)
    | none =>
      match s.readVia unit ctx va n with
      | .ok bs => .bytes bs
      | .error _ => .trap va
/-- The unit of a cluster's yarder. -/
def yardUnit (cluster : Nat) : Option Nat := some (unitOf cluster 5)

/-- The handle of a future (R21). -/
def futureHandle (cls slot gen : Nat) : Word := BitVec.ofNat 32 (2 ^ 29 * cls + 4096 * slot + gen)
/-- The generation after a reuse (R21). -/
def nextGen (g : Nat) : Nat := if g + 1 < 4096 then g + 1 else 1
/-- Take a job slot of a class (R21): the state, the slot and the handle. The generation of a slot's first use, which R21 does not state, is 1
(log entry 79). -/
def State.newFuture (s : State) (ctx cls : Nat) : Option (State × Nat × Word) :=
  match s.contexts.find ctx with
  | none => none
  | some c =>
    (c.freeSlot cls (Config.jobSlot s.tick % 131072)).map fun slot =>
      let g := nextGen (match c.futures.find (futKey cls slot) with | some f => f.gen | none => 0)
      ({ s with tick := s.tick + 1 }.updContext ctx fun c =>
          { c with futures := c.futures.insert (futKey cls slot) ⟨g, true, false, none⟩ }, slot, futureHandle cls slot g)
/-- The state with a job slot changed. -/
def State.updFuture (s : State) (ctx cls slot : Nat) (f : FutSlot → FutSlot) : State :=
  s.updContext ctx fun c =>
    match c.futures.find (futKey cls slot) with
    | some x => { c with futures := c.futures.insert (futKey cls slot) (f x) }
    | none => c
/-- A register that holds the handle of a completed job gets the job's status (R22, R237). -/
def Team.futureDone (t : Team) (h status : Word) : Team :=
  { t with pends := t.pends.map fun (p : Pend) =>
      if p.isFuture && t.S p.n == h then { p with data := .values [⟨.s, p.n, 0, status⟩] 0 } else p }
/-- A job completes with a status: its slot keeps the status, and the registers that wait for it get it (R22 to R24). -/
def State.completeFuture (s : State) (ctx cls slot : Nat) (status : Word) : State :=
  match (s.contexts.find ctx).bind fun c => c.futures.find (futKey cls slot) with
  | none => s
  | some f =>
    let s := s.updContext ctx fun c => { c with futures := c.futures.insert (futKey cls slot) { f with live := false, status := some status } }
    let h := futureHandle cls slot f.gen
    { s with teams := s.teams.map fun (p : Nat × Team) =>
        if p.2.ctx = ctx && !p.2.saving then (p.1, p.2.futureDone h status) else p }

/-- A card of a cluster. -/
def State.card? (s : State) (cluster serial : Nat) : Option Card :=
  (s.clusters.find cluster).bind fun k => k.cards.find? (·.serial == serial)
/-- The state with a card changed. -/
def State.updCard (s : State) (cluster serial : Nat) (f : Card → Card) : State :=
  s.updCluster cluster fun k => { k with cards := k.cards.map fun c => if c.serial = serial then f c else c }
/-- YRD_FSTAT and YRD_FADDR take a fault, or count that there was a further one (R323, R324). -/
def State.yardFault (s : State) (cluster : Nat) (c : Card) (cause : Nat) (addr : DWord) : State :=
  let key := clusterReg cluster 0x00
  let r := s.winReg c.ctx key
  if r.getLsbD 63 then s.setReg c.ctx key (r ||| (1#64 <<< 62))
  else
    (s.setReg c.ctx key (fld 63 1 1 ||| fld 45 17 (c.future.getD 0) ||| fld 41 4 c.chan ||| fld 33 8 c.tmpl ||| fld 0 8 cause)).setReg
      c.ctx (clusterReg cluster 0x08) addr
/-- A job fails with a cause (R304); the first failure counts. -/
def State.failCard (s : State) (cluster serial cause : Nat) (addr : Nat) : State :=
  match s.card? cluster serial with
  | none => s
  | some c =>
    if c.fail.isSome then s
    else
      (s.updCard cluster serial fun c => { c with fail := some cause, failAddr := BitVec.ofNat 64 addr }).yardFault cluster c cause
        (BitVec.ofNat 64 addr)

/-- What forming a card comes to (R299, R304). -/
inductive Formed where
  | ok (c : Card)
  | stale (handle : Word)
  | fault (addr kind level : Nat) (entry : DWord)
/-- Override fields of a card (R303): the card's number and the parameter block's; none where the block breaks R303. -/
def overrideCard (card block : Nat) : Option Nat :=
  let mask := field block 0 4
  let set := (List.range 16).filter fun i => mask / 2 ^ i % 2 == 1
  if 2 ^ 16 ≤ mask || field block 4 4 != 0 || decide (3 < set.length) then none
  else
    some ((set.mapIdx fun k i => (i, field block (8 + 8 * k) 8)).foldl (fun (n : Nat) (p : Nat × Nat) =>
      n - field n (8 * p.1) 8 * 256 ^ (8 * p.1) + p.2 * 256 ^ (8 * p.1)) card)
/-- Whether a shape record breaks R302. -/
def shapeBad (r : Nat) : Bool := field r 8 4 == 0 || field r 0xC 4 == 0 || field r 0x11 3 != 0 || field r 0x18 4 == 0
/-- The defect of a formed card, with the address that R324 records: CARD, then SPAD (R304). -/
def State.cardDefect (s : State) (c : Card) : Option (Nat × Nat) :=
  let k := c.kind
  let dst := c.f 0x18 8
  if decide (7 < k) || c.f 3 1 != 0 || c.f 0x34 4 != 0 || c.f 0x78 8 != 0 || decide (32 ≤ c.f 1 1) || decide (15 < c.f 2 1) ||
      (List.range 6).any c.badRegion || c.f 0x38 8 % 8 != 0 || c.f 0x70 8 % 8 != 0 || (c.flag 3 && decide (2 ^ 32 ≤ dst)) ||
      ((k == 2 || k == 3) && c.f 0x28 8 % 4 != 0) || ((k == 6 || k == 7) && c.f 0x28 8 % 64 != 0) || (k == 5 && dst % 128 != 0) then
    some (0x02, 0)
  else if ((c.flag 0 || c.flag 1 || c.flag 2) && !c.flag 3) || (c.flag 3 && decide (5 ≤ k)) ||
      (c.flag 0 && (dst % 4 != 0 || c.width % 4 != 0 || c.f 0x20 4 % 4 != 0 || c.f 0x24 4 % 4 != 0)) ||
      (c.aperture && (c.flag 3 || c.flag 1 || c.flag 2)) then some (0x04, dst)
  else if c.flag 3 && c.span != 0 then
    match c.gang.bind fun g => s.gangs.find g with
    | none => some (0x04, dst)
    | some g =>
      if decide (2 ^ 21 ≤ dst) || (c.members g.size).any fun m =>
          match g.crew? m with | some cr => decide (cr.scratch < c.pad.2 + c.span) | none => true then some (0x04, dst)
      else none
  else none
/-- The bytes of a card template with the poisoned pieces left out: a stamp address in a piece that is intact still holds (R318, R442). -/
def State.intactBytes (s : State) (cluster ctx va n : Nat) : List Byte :=
  (List.range n).map fun k =>
    if s.poisonVia (yardUnit cluster) ctx (va + k) 1 then 0
    else match s.readVia (yardUnit cluster) ctx (va + k) 1 with | .ok (b :: _) => b | _ => 0
/-- Form a card from its template (R299, R302 to R304); R324 records for a parameter block its scratchpad offset. -/
def State.formCard (s : State) (cluster : Nat) (c : Card) : Formed :=
  let bad (cause addr : Nat) : Formed := .ok { c with formed := true, fail := some cause, failAddr := BitVec.ofNat 64 addr }
  match s.contexts.find c.ctx with
  | none => bad 0x05 0
  | some x =>
    let va := x.tmpl + 128 * c.tmpl
    match s.engineRead (yardUnit cluster) c.ctx va 128 with
    | .trap a => bad 0x05 a
    | .fault a k l e => .fault a k l e
    | .poison a => .ok { c with
        bytes := BitVec.ofNat 1024 (leNat (s.intactBytes cluster c.ctx va 128)), formed := true, fail := some 0x0A, failAddr := BitVec.ofNat 64 a }
    | .bytes bs =>
      let c0 := { c with bytes := BitVec.ofNat 1024 (leNat bs), formed := true }
      let bad (cause addr : Nat) : Formed := .ok { c0 with fail := some cause, failAddr := BitVec.ofNat 64 addr }
      if c0.kind = 0 then bad 0x01 va
      else if c.poisoned then bad 0x0A c.block
      else
        match (match c.override with | some b => overrideCard c0.bytes.toNat b.toNat | none => some c0.bytes.toNat) with
        | none => bad 0x03 c.block
        | some n =>
          let c1 := { c0 with bytes := BitVec.ofNat 1024 n }
          if c1.kind = 0 then .ok { c1 with fail := some 0x01, failAddr := BitVec.ofNat 64 va }
          else
            let finish (c : Card) : Formed :=
              match s.cardDefect c with
              | some (cause, addr) => .ok { c with fail := some cause, failAddr := BitVec.ofNat 64 addr }
              | none => .ok c
            if 1 ≤ c1.kind && c1.kind ≤ 3 then
              let h : Word := BitVec.ofNat 32 (c1.f 4 4)
              let slotVa := x.desc + 64 * (h.toNat / 4096)
              if x.dcount ≤ h.toNat / 4096 || x.inWindow slotVa then .stale h
              else
                match s.engineRead (yardUnit cluster) c.ctx slotVa 64 with
                | .fault a k l e => .fault a k l e
                | .trap a => .ok { c1 with fail := some 0x05, failAddr := BitVec.ofNat 64 a }
                | .poison a => .ok { c1 with fail := some 0x0A, failAddr := BitVec.ofNat 64 a }
                | .bytes d =>
                  if slotStale (leNat d) h 2 || shapeBad (leNat d) then .stale h
                  else finish { c1 with shape := BitVec.ofNat 256 (leNat d) }
            else finish c1

/-- A page fault of a job is recorded (R319). -/
def State.jobRecord (s : State) (cluster : Nat) (c : Card) (va kind level access : Nat) (entry : DWord) : State × Nat :=
  s.pageFault c.ctx (.job cluster c.serial) (BitVec.ofNat 64 va) kind level access 1 (cluster + 1024 * (c.future.getD 0)) 0 entry
/-- A job halts on a page fault with a record (R319). -/
def State.jobFault (s : State) (cluster serial va kind level access : Nat) (entry : DWord) : State :=
  match s.card? cluster serial with
  | none => s
  | some c =>
    let (s, sn) := s.jobRecord cluster c va kind level access entry
    s.updCard cluster serial fun c => { c with halted := some sn }
/-- Write 8 bytes of a job's own: done, a trap outcome or a page fault. -/
def State.jobWord (s : State) (cluster ctx va : Nat) (v : DWord) : Except Looked State :=
  match s.lookVia (yardUnit cluster) ctx va .write with
  | .ok pa x => .ok ((s.letIn ctx pa x).storeBytes ctx va pa (dwordBytes v))
  | e => .error e
/-- The progress word is written with a value (R311). -/
def State.writeProgress (s : State) (cluster : Nat) (c : Card) (v : Nat) : State :=
  match s.jobWord cluster c.ctx (c.f 0x70 8) (BitVec.ofNat 64 v) with
  | .ok s => s.updCard cluster c.serial fun c => { c with progDue := false }
  | .error (.fault k l e) =>
    let (s, sn) := s.jobRecord cluster c (c.f 0x70 8) k l 1 e
    s.updCard cluster c.serial fun c => { c with progDue := true, progHalt := some sn }
  | .error _ => s.failCard cluster c.serial 0x05 (c.f 0x70 8)
/-- Whether a card keeps a progress word (R311). -/
def Card.counts (c : Card) : Bool := (c.kind == 2 || c.kind == 3) && c.f 0x70 8 != 0
/-- A job halts on a page fault: the progress word is written too, or has its own record (R311, R319). -/
def State.haltJob (s : State) (cluster : Nat) (c : Card) (va kind level access : Nat) (entry : DWord) : State :=
  let s := s.jobFault cluster c.serial va kind level access entry
  if c.counts then s.writeProgress cluster c c.lead else s
/-- A job halts on a page fault, or fails on a trap outcome, at an address (R304, R319). -/
def State.jobBar (s : State) (cluster : Nat) (c : Card) (va access : Nat) (r : Looked) : State :=
  match r with
  | .fault k l e => s.haltJob cluster c va k l access e
  | _ => s.failCard cluster c.serial 0x05 va

/-- A byte of a window, and whether its word is poisoned. -/
def Crew.byte (c : Crew) (off : Nat) : Byte × Bool :=
  ((c.word (off / 4)).extractLsb' (8 * (off % 4)) 8, c.poison.get false (off / 4))
/-- Bytes land in a window from an offset: whole words replace their poison marks, a part of a word keeps its word's (R440). -/
def Crew.land (c : Crew) (off : Nat) (bs : List (Byte × Bool)) : Crew :=
  let first := off / 4
  let n := (off + bs.length + 3) / 4 - first
  (List.range n).foldl (fun (c : Crew) k =>
    let w := first + k
    let cell (j : Nat) : Byte × Bool :=
      if 4 * w + j < off || off + bs.length ≤ 4 * w + j then c.byte (4 * w + j) else bs.getD (4 * w + j - off) (0, false)
    let cells := (List.range 4).map cell
    Crew.soiled { c with
      window := c.window.set 0 w (BitVec.ofNat 32 (leNat (cells.map (·.1))))
      poison := c.poison.set false w (cells.any (·.2)) } w) c
/-- A byte of a job's payload on the tile path, with its poison (R281, R440). -/
def State.tileByte (s : State) (cluster ctx va : Nat) : State × (Byte × Bool) :=
  match s.lookVia (yardUnit cluster) ctx va .read with
  | .ok pa x =>
    let s := s.letIn ctx pa x
    let held := (s.line? .tile (unitOf cluster 5) ctx (va / 128)).isSome
    let (bs, s') := s.cacheRead .tile (unitOf cluster 5) ctx va pa 1 x (s.lineBytes pa)
    (s', (bs.headD 0, !held && s.poisoned pa 1))
  | _ => (s, (0, false))
/-- Bytes of a job's payload on the tile path. -/
def State.tileBytes (s : State) (cluster ctx va : Nat) : Nat → State × List (Byte × Bool)
  | 0 => (s, [])
  | n + 1 =>
    let (s, b) := s.tileByte cluster ctx va
    let (s, bs) := s.tileBytes cluster ctx (va + 1) n
    (s, b :: bs)
/-- A job's payload is written: its poison goes with it (R440), and the cluster's tile lines of these bytes are given up, so that a
later job of the stream reads what this one wrote (R265, R266). -/
def State.jobWrite (s : State) (cluster ctx va : Nat) (bs : List (Byte × Bool)) : State :=
  let s := s.writeVia (yardUnit cluster) ctx va (bs.map (·.1))
  let s := (bs.mapIdx fun k b => (va + k, b.2)).foldl (fun (s : State) (x : Nat × Bool) =>
    if x.2 then match s.lookVia (yardUnit cluster) ctx x.1 .write with | .ok pa _ => s.setPoison pa 1 | _ => s else s) s
  (List.range ((va + bs.length + 127) / 128 - va / 128)).foldl (fun (s : State) k =>
    s.dropLine .tile (unitOf cluster 5) ctx (va / 128 + k)) s

/-- What bars a side of a move: an address with its look-up, and the access. -/
def State.sideBar (s : State) (cluster ctx : Nat) (d : Side) (n : Nat) (a : Access) : Option (Nat × Looked × Nat) :=
  match d with
  | .mem va => (s.barsVia (yardUnit cluster) ctx va n a).map fun x => (x.1, x.2, a.code)
  | _ => none
/-- A move is made: what it reads lands with its poison, and the bytes that landed in windows, or left them, are counted off the
barrier (R309, R320, R440). -/
def State.makeMove (s : State) (cluster : Nat) (c : Card) (m : Move) : State :=
  let gang := c.gang.getD 0
  let (s, bs) : State × List (Byte × Bool) := match m.src with
    | .mem va => s.tileBytes cluster c.ctx va m.n
    | .pad (k :: _) off =>
      (s, match (s.gangs.find gang).bind (·.crew? k) with
        | some cr => (List.range m.n).map fun j => cr.byte (off + j)
        | none => [])
    | _ => (s, m.lit.map fun b => (b, false))
  let bs := bs ++ List.replicate m.zeros (0, false)
  let s := match m.dst with
    | .mem va => s.jobWrite cluster c.ctx va bs
    | .pad ks off => ks.foldl (fun (s : State) k => s.updCrew gang k fun cr =>
        let cr := cr.land off bs
        if c.steps then { cr with full := cr.full.set false (off / 4) true } else cr) s
    | .none => s
  if c.flag 2 && m.count != 0 then
    let ks := match m.dst, m.src with | .pad ks _, _ => ks | _, .pad ks _ => ks | _, _ => []
    ks.foldl (fun (s : State) k => s.barrierBytes c.ctx cluster gang k (c.f 2 1) m.count) s
  else s
/-- Whether every landing of a row has been performed. -/
def Card.rowLanded (c : Card) (size row : Nat) : Bool :=
  let per := if c.steps then c.width / 4 * (c.members size).length else (c.width + 127) / 128
  (List.range per).all fun k => c.landed.get false (row * per + k)
/-- The leading rows that have landed, from `lead` on (R311). -/
def leadRows (c : Card) (size : Nat) : Nat → Nat → Nat
  | 0, lead => lead
  | n + 1, lead => if decide (lead < c.rows) && c.rowLanded size lead then leadRows c size n (lead + 1) else lead
/-- A landing of a GATHER or SCATTER is over: rows are counted, and the progress word written as its value passes a multiple of 32
(R311). -/
def State.countRows (s : State) (cluster serial size : Nat) : State :=
  match s.card? cluster serial with
  | none => s
  | some c =>
    let lead := leadRows c size (c.landed.length + 1) c.lead
    let s := s.updCard cluster serial fun c => { c with lead := lead }
    if c.counts && decide (c.lead / 32 < lead / 32) then s.writeProgress cluster { c with lead := lead } lead else s
/-- The next index that a GATHER or SCATTER has still to read: step 1 reads them all (R310). -/
def Card.indexDue (c : Card) : Option Nat :=
  if c.kind = 2 || c.kind = 3 then (List.range c.rows).find? fun r => (c.idx.find r).isNone else none
/-- An index is read, as memory holds it now (R310). -/
def State.readIndex (s : State) (cluster : Nat) (c : Card) (row : Nat) : State :=
  match s.engineRead (yardUnit cluster) c.ctx (c.f 0x28 8 + 4 * row) 4 with
  | .trap a => s.failCard cluster c.serial 0x05 a
  | .poison a => s.failCard cluster c.serial 0x0A a
  | .fault a k l e => s.haltJob cluster c a k l 0 e
  | .bytes bs => (s.touchVia (yardUnit cluster) c.ctx (c.f 0x28 8 + 4 * row) 4 .read).updCard cluster c.serial fun c =>
      { c with idx := c.idx.insert row (leNat bs) }
/-- A GATHER that resumes reads the indices of the rows that have not landed again (R319). -/
def Card.resumed (c : Card) (size : Nat) : Card :=
  { c with halted := none, idx := if c.kind = 2 then c.idx.filter fun (p : Nat × Nat) => c.rowLanded size p.1 else c.idx }
/-- A landing of a COPY, GATHER, SCATTER or FILL job (R308 to R312, R319, R320). -/
def State.landPiece (s : State) (cluster : Nat) (c : Card) (piece : Nat) : State :=
  let size := s.cardSize c
  let (row, _, _) := c.part size piece
  let go (s : State) (c : Card) (idx : Nat) : State :=
    let m := c.move size piece idx
    match (s.sideBar cluster c.ctx m.src m.n .read).or (s.sideBar cluster c.ctx m.dst (if c.outward then m.n else m.n + m.lit.length + m.zeros) .write) with
    | some (va, r, a) => s.jobBar cluster c va a r
    | none =>
      let fresh := (c.kind == 2 || c.kind == 3) && decide (c.sf 0xC 4 ≤ idx) &&
        !(c.landed.any fun (p : Nat × Bool) => (c.part size p.1).1 == row)
      let s := if fresh then s.bumpReg c.ctx (clusterReg cluster 0x10) 32 16 else s
      let s := s.makeMove cluster c m
      (s.updCard cluster c.serial fun c => { c with landed := c.landed.set false piece true }).countRows cluster c.serial size
  match c.indexDue with
  | some r => s.readIndex cluster c r
  | none => go s c ((c.idx.find row).getD 0)

/-- The leaves of a content tree in walk order, at most `limit` of them, and the cause and the name at which the walk stops, if
it does: TREE, or POISON at a node (R304, R313). -/
def State.treeWalk (s : State) (ctx : Nat) : Nat → List DWord → Nat → List (Domain × Nat) → List (Domain × Nat) × Option (Nat × DWord)
  | 0, names, _, acc => (acc, (names.find? (· != 0)).map fun n => (0x06, n))
  | fuel + 1, names, limit, acc =>
    names.foldl (fun (r : List (Domain × Nat) × Option (Nat × DWord)) name =>
      if r.2.isSome || name = 0 || limit ≤ r.1.length then r
      else
        match s.findName ctx name with
        | none => (r.1, some (0x06, name))
        | some (_, d) =>
          match d.line? name with
          | none => (r.1, some (0x06, name))
          | some l =>
            let slot := nameSlot name d.lines
            if s.namePoison ctx name then (r.1, some (0x0A, name))
            else if l.node then
              if s.poisoned (d.dataAt slot) 128 then (r.1, some (0x0A, name)) else
              s.treeWalk ctx fuel ((List.range 16).map fun i => BitVec.ofNat 64 (s.readNat (d.dataAt slot + 8 * i) 8)) limit r.1
            else (r.1 ++ [(d, slot)], none)) (acc, none)
/-- A step of a TREEOUT job: its next leaf is written, or the job has come to its end (R313). -/
def State.landLeaf (s : State) (cluster : Nat) (c : Card) : State :=
  let j := c.lead
  let (leaves, stop) := s.treeWalk c.ctx 17 [BitVec.ofNat 64 (c.f 0x28 8)] (j + 1) []
  match leaves[j]? with
  | none =>
    match stop with
    | some (cause, name) => s.failCard cluster c.serial cause name.toNat
    | none => s.updCard cluster c.serial fun c => { c with joined := true }
  | some (d, slot) =>
    let va := c.f 0x18 8 + 128 * j
    if c.f 0x30 4 < 128 * (j + 1) then s.failCard cluster c.serial 0x07 va
    else
      match s.barsVia (yardUnit cluster) c.ctx va 128 .write with
      | some (p, r) => s.jobBar cluster c p 1 r
      | none =>
        let bs := (List.range 128).map fun k => (Memory.read s.mem (d.dataAt slot + k), s.poisoned (d.dataAt slot + k) 1)
        (s.jobWrite cluster c.ctx va bs).updCard cluster c.serial fun c => { c with lead := j + 1 }

/-- The group in which a context's collectives meet: a partition of GROUP 0 is a group of its own (R499). -/
def State.groupOf (s : State) (ctx : Nat) : DWord :=
  match s.contexts.find ctx with
  | none => 0
  | some c =>
    match s.partitions.find c.part with
    | some p => if p.group = 0 then BitVec.ofNat 64 (2 ^ 63 + p.num) else p.group
    | none => 0
/-- Whether an XRED descriptor breaks R315. -/
def xredBad (r : Nat) : Bool :=
  let al := if field r 0xC 1 = 2 then 1 else 8
  decide (field r 8 2 = 0) || decide (4096 < field r 8 2) || decide (field r 8 2 ≤ field r 0xA 2) || decide (2 < field r 0xC 1) ||
  field r 0xD 3 != 0 || field r 0x24 28 != 0 || field r 0x10 8 % al != 0 || field r 0x18 8 % al != 0
/-- The size of an element of a mode (R315). -/
def elemSize (mode : Nat) : Nat := if mode = 2 then 1 else 8
/-- The elements of source bytes. -/
def elemsOf (mode : Nat) : Nat → List Byte → List DWord
  | 0, _ => []
  | n + 1, bs => BitVec.ofNat 64 (leNat (bs.take (elemSize mode))) :: elemsOf mode n (bs.drop (elemSize mode))
/-- Two contributions to an element (R316). -/
def combine (mode : Nat) (a b : DWord) : DWord :=
  match mode with
  | 0 => a + b
  | 1 => if a = 0x8000000000000000 || b = 0x8000000000000000 then 0x8000000000000000 else a + b
  | _ => if (a.extractLsb' 0 8).slt (b.extractLsb' 0 8) then b else a
/-- The result of the contributions of all ranks: under SUMN, a marker anywhere gives the marker (R316). -/
def reduceAll (mode : Nat) (parts : List RankPart) : List DWord :=
  match parts with
  | [] => []
  | p :: _ =>
    (List.range p.elems.length).map fun i =>
      let xs := parts.map fun q => q.elems.getD i 0
      if mode = 1 then
        if xs.any (· == 0x8000000000000000) then 0x8000000000000000 else xs.foldl (· + ·) 0
      else match xs with | x :: ys => ys.foldl (combine mode) x | [] => 0
/-- Whether ranks agree in NRANK, MODE and COUNT, and none is repeated (R316, R499). -/
def ranksAgree (parts : List RankPart) : Bool :=
  match parts with
  | [] => true
  | p :: _ => parts.all (fun q => q.nrank == p.nrank && q.mode == p.mode && q.count == p.count) &&
      decide ((parts.map (·.rank)).eraseDups.length = parts.length)
/-- Whether a collective is the one that three numbers name. -/
def Collective.named (x : Collective) (group : DWord) (ctx : Nat) (coll : DWord) : Bool :=
  x.group == group && x.ctx == ctx && x.coll == coll
/-- The state with parts of ranks, and a local job, added to a collective (R499). -/
def State.joinCollective (s : State) (group : DWord) (ctx : Nat) (coll : DWord) (parts : List RankPart)
    (jobs : List (Nat × Nat × Nat)) : State :=
  let old := match s.collectives.find? (·.named group ctx coll) with | some x => x | none => ⟨group, ctx, coll, [], [], false⟩
  let all := old.parts ++ parts
  let new := { old with parts := all, jobs := old.jobs ++ jobs, disagree := old.disagree || !ranksAgree all }
  { s with collectives := (s.collectives.filter fun (x : Collective) => !x.named group ctx coll) ++ [new] }
/-- Whether the package's table has an entry for one more collective (R499). -/
def State.collectiveRoom (s : State) (c : Card) : Bool :=
  decide (s.collectives.length < 256) || s.collectives.any fun x => x.group == s.groupOf c.ctx && x.ctx == c.ctx
/-- A step of an XRED job: it joins its collective once its source has been read, or writes a run of its result; its descriptor is read
once (R315, R316). -/
def State.landXred (s : State) (cluster : Nat) (c : Card) : State :=
  match c.result with
  | some bs =>
    let va := c.sf 0x18 8 + 128 * c.lead
    let now := (bs.drop (128 * c.lead)).take 128
    (match s.barsVia (yardUnit cluster) c.ctx va now.length .write with
    | some (p, x) => s.jobBar cluster c p 1 x
    | none => (s.jobWrite cluster c.ctx va (now.map fun b => (b, false))).updCard cluster c.serial fun c => { c with lead := c.lead + 1 })
  | none =>
    if c.joined || !s.collectiveRoom c then s
    else
      match s.engineRead (yardUnit cluster) c.ctx (c.f 0x28 8) 64 with
      | .trap a => s.failCard cluster c.serial 0x05 a
      | .poison a => s.failCard cluster c.serial 0x0A a
      | .fault a k l e => s.haltJob cluster c a k l 0 e
      | .bytes d =>
        let r := leNat d
        if xredBad r then s.failCard cluster c.serial 0x08 (c.f 0x28 8)
        else
          let mode := field r 0xC 1
          let n := field r 0x20 4
          match s.engineRead (yardUnit cluster) c.ctx (field r 0x10 8) (n * elemSize mode) with
          | .trap a => s.failCard cluster c.serial 0x05 a
          | .poison a => s.failCard cluster c.serial 0x0A a
          | .fault a k l e => s.haltJob cluster c a k l 0 e
          | .bytes bs =>
            let part : RankPart := ⟨field r 0xA 2, field r 8 2, mode, n, elemsOf mode n bs⟩
            let s := s.joinCollective (s.groupOf c.ctx) c.ctx (BitVec.ofNat 64 (field r 0 8)) [part] [(cluster, c.serial, part.rank)]
            s.updCard cluster c.serial fun c => { c with joined := true, shape := BitVec.ofNat 256 r }
/-- COLLECTIVE RESULT (R316, R499): every rank of this package gets the result, or fails. -/
def State.giveResult (s : State) (group ctx : Nat) (coll : DWord) : State :=
  match s.collectives.find? (·.named (BitVec.ofNat 64 group) ctx coll) with
  | none => s
  | some x =>
    let full := match x.parts with | p :: _ => decide (x.parts.length = p.nrank) | [] => false
    if x.disagree then
      let s := { s with collectives := s.collectives.erase x }
      x.jobs.foldl (fun (s : State) (j : Nat × Nat × Nat) => s.failCard j.1 j.2.1 0x08 coll.toNat) s
    else if full then
      let mode := match x.parts with | p :: _ => p.mode | [] => 0
      let bs := (reduceAll mode x.parts).flatMap fun d => leBytes (elemSize mode) d.toNat
      let s := { s with collectives := s.collectives.erase x }
      x.jobs.foldl (fun (s : State) (j : Nat × Nat × Nat) => s.updCard j.1 j.2.1 fun c => { c with result := some bs }) s
    else s
/-- Whether a collective has its result or its failure (R316). -/
def Collective.due (x : Collective) : Bool :=
  x.disagree || (match x.parts with | p :: _ => decide (x.parts.length = p.nrank) | [] => false)

/-- Whether every payload landing of a job has been made. -/
def State.allLanded (s : State) (c : Card) : Bool :=
  match c.kind with
  | 5 => c.joined
  | 6 => c.joined
  | 7 => match c.result with | some bs => decide ((bs.length + 127) / 128 ≤ c.lead) | none => false
  | _ => decide (c.landings (s.cardSize c) ≤ c.landed.length)
/-- Whether a job can complete: it has failed or been cancelled, or has landed everything (R317). -/
def State.completes (s : State) (c : Card) : Bool :=
  c.halted.isNone && c.progHalt.isNone && (c.fail.isSome || c.cancelled || (c.started && !c.progDue && s.allLanded c))
/-- The completion status of a job (R23). -/
def Card.status (c : Card) : Word := if c.fail.isSome then 2 else if c.cancelled then 1 else 0
/-- The stamp of a job is written (R318). -/
def State.writeStamp (s : State) (cluster : Nat) (c : Card) : Except Looked State :=
  let va := c.f 0x38 8
  if va = 0 || va % 8 ≠ 0 then .ok s
  else
    match s.lookVia (yardUnit cluster) c.ctx va .rmw with
    | .ok pa x =>
      let v : Nat := c.seqNo % 2 ^ 63 + if c.status = 0 then 0 else 2 ^ 63
      .ok ((s.letIn c.ctx pa x).storeBytes c.ctx va pa (leBytes 8 (max (s.readNat pa 8) v)))
    | e => .error e
/-- The holder identity of a RAST job (R419). -/
def State.rastIdent (s : State) (c : Card) : DWord :=
  identity (match s.contexts.find c.ctx with | some x => x.pkgIdx | none => 0) 0xFFFFFE (c.future.getD 0) 0 0 0
/-- A job's card is removed, and its future resolves (R317); a RAST job that ends FAULTED breaks the keys that it holds (R383, R419). -/
def State.finishCard (s : State) (cluster : Nat) (c : Card) : State :=
  let s := s.updCluster cluster fun k => { k with cards := k.cards.filter fun x => x.serial != c.serial }
  let s := if c.fail.isSome then s.trigger c.ctx 5 0 else s
  let s := if c.kind = 6 && c.fail.isSome then s.sectionBreak c.ctx (s.rastIdent c) else s
  match c.future with
  | some slot => s.completeFuture c.ctx 1 slot c.status
  | none => s
/-- A TREEOUT job gives back its count on the root (R313). -/
def State.dropRoot (s : State) (c : Card) : State :=
  if c.kind = 5 && c.started then
    match s.findName c.ctx (BitVec.ofNat 64 (c.f 0x28 8)) with
    | some (k, _) => s.countDown k (BitVec.ofNat 64 (c.f 0x28 8))
    | none => s
  else s
/-- JOB COMPLETION (R311, R317, R318): the last progress word, the stamp, then the future. -/
def execJobCompletion (cluster card : Nat) (s : State) : Host.Outcome State Fault Refusal :=
  .next (match s.card? cluster card with
    | none => s
    | some c =>
      if !s.completes c then s
      else
        let word (s : State) : Except Looked State :=
          if c.counts && c.status = 0 && !c.stamping then s.jobWord cluster c.ctx (c.f 0x70 8) (BitVec.ofNat 64 (c.f 0x30 4)) else .ok s
        match word s with
        | .error (.fault k l e) => s.jobFault cluster card (c.f 0x70 8) k l 1 e
        | .error _ => s.failCard cluster card 0x05 (c.f 0x70 8)
        | .ok s =>
          match s.writeStamp cluster c with
          | .ok s => (s.dropRoot c).finishCard cluster c
          | .error (.fault k l e) =>
            let s := s.updCard cluster card fun c => { c with stamping := true }
            if c.status = 0 || c.stamping then s.jobFault cluster card (c.f 0x38 8) k l 2 e
            else s.haltJob cluster c (c.f 0x38 8) k l 2 e
          | .error _ =>
            let s := (s.failCard cluster card 0x05 (c.f 0x38 8)).dropRoot c
            s.finishCard cluster { c with fail := some 0x05 })

/-- The card of a submission (R299, R305), before it is formed. -/
def Card.new (serial ctx chan seqNo tmpl : Nat) (override : Option (BitVec 256)) (poisoned : Bool) (future : Option Nat)
    (gang : Option Nat) (crew depth prio block : Nat) (aperture : Bool) : Card where
  serial := serial
  ctx := ctx
  chan := chan
  seqNo := seqNo
  tmpl := tmpl
  bytes := 0
  shape := 0
  formed := false
  override := override
  poisoned := poisoned
  block := block
  future := future
  gang := gang
  crew := crew
  depth := depth
  prio := prio
  aperture := aperture
  started := false
  cancelled := false
  fail := none
  failAddr := 0
  landed := []
  idx := []
  lead := 0
  spot := 0
  entered := []
  progDue := false
  progHalt := none
  stamping := false
  halted := none
  joined := false
  result := none
/-- A card, formed or halted on its template's page, joins its cluster's yarder and its stream (R299, R304, R305). -/
def State.submit (s : State) (cluster : Nat) (c : Card) (r : Formed) : State :=
  let s := s.updContext c.ctx fun x => { x with streams := x.streams.set 1 (streamKey cluster c.chan) (c.seqNo + 1) }
  let put (c : Card) : State := s.updCluster cluster fun k => { k with cards := k.cards ++ [c] }
  match r with
  | .ok c =>
    match c.fail with
    | some cause => (put c).yardFault cluster c cause c.failAddr
    | none => put c
  | .fault a k l e => (put c).jobFault cluster c.serial a k l 0 e
  | .stale h =>
    let c := { c with formed := true, fail := some 0x02, failAddr := h.setWidth 64 }
    (put c).yardFault cluster c 0x02 (h.setWidth 64)
/-- Form a halted card again (R299): a SHAPE that has become stale fails the job. -/
def State.reform (s : State) (cluster : Nat) (c : Card) : State :=
  match s.formCard cluster { c with halted := none } with
  | .ok c' =>
    let s := s.updCard cluster c.serial fun _ => c'
    match c'.fail with | some cause => s.yardFault cluster c' cause c'.failAddr | none => s
  | .fault a k l e => (s.updCard cluster c.serial fun c => { c with halted := none }).jobFault cluster c.serial a k l 0 e
  | .stale h => (s.updCard cluster c.serial fun c => { c with halted := none, formed := true }).failCard cluster c.serial 0x02 h.toNat

/-- The parameter block or record of 32 bytes at a scratchpad offset of the current team, or what the slot comes to (R226, R239,
R240); the second part says that it is poisoned. -/
def State.record32 (s : State) (t : Team) (off : Word) : Except Res (BitVec 256 × Bool) :=
  if !s.inWindow t off 32 then .error (.trap 0x06 noLane (off.setWidth 64))
  else if off.toNat % 32 != 0 then .error (.trap 0x07 noLane (off.setWidth 64))
  else .ok (BitVec.ofNat 256 (leNat ((List.range 8).flatMap fun k => wordBytes (s.spadWord t off k))), s.spadPoison t off 8)
/-- JOB (R239): the card is formed and submitted; the future's handle is pending. -/
def execJob (d a b : RegNo) (s : State) : Host.Outcome State Fault Refusal :=
  slot (.job d a b) (fun r t s =>
    match (if r.S b.toNat = 0xFFFFFFFF then .ok (none, false)
        else match s.record32 t (r.S b.toNat) with | .ok (x, p) => .ok (some x, p) | .error e => .error e :
          Except Res (Option (BitVec 256) × Bool)) with
    | .error e => e
    | .ok (block, poisoned) =>
      if !condHolds s s.cur t .cardRoom then .block s .cardRoom
      else
        match s.contexts.find t.ctx, s.newFuture t.ctx 1 with
        | some x, some (s', slot, h) =>
          let chan := ((r.S a.toNat).extractLsb' 8 4).toNat
          let c := Card.new s.serial t.ctx chan (x.nextSeq t.cluster chan) ((r.S a.toNat).extractLsb' 0 8).toNat block poisoned
            (some slot) (some t.gang) t.crew t.depth t.prio (r.S b.toNat).toNat false
          match s.formCard t.cluster c with
          | .stale h => .trap 0x0B 0 (h.setWidth 64)
          | f =>
            if s.overfull (.job d a b) then .block s (.scoreboard 1)
            else
              let s' := { s' with serial := s'.serial + 1 }.submit t.cluster c f
              .later (s'.updMe fun t => (t.dropFutures (Instr.job d a b).writes).landS d.toNat h) 6 .future
        | _, _ => .block s .cardRoom) s
/-- Entries that the tag store has held for a cluster's deck go into it while there is room (R428). -/
def State.refillDeck (s : State) (cluster : Nat) : State :=
  s.tagHeld.foldl (fun (s : State) x =>
    match s.clusters.find cluster with
    | some k =>
      if x.1 = cluster && decide (k.deck.length < 4096) then
        State.updCluster { s with tagHeld := s.tagHeld.erase x, serial := s.serial + 1 } cluster fun k =>
          { k with deck := k.deck ++ [{ x.2 with enqueued := s.clk, serial := s.serial }] }
      else s
    | none => s) s
/-- The state of a class-2 future: whether its deck entry still waits, with its cluster. -/
def State.deckWait (s : State) (ctx slot : Nat) : Option Nat :=
  (s.clusters.find? fun (p : Nat × Cluster) => p.2.deck.any fun (e : DeckEntry) =>
    !e.cont && e.ctx == ctx && e.future == some slot).map (·.1)
/-- FCANCEL (R237): a job is cancelled if it has not started. -/
def execFcancel (d a : RegNo) (s : State) : Host.Outcome State Fault Refusal :=
  slot (.fcancel d a) (fun r t s =>
    match rawHandle t a with
    | some c => .block s c
    | none =>
      let h := r.S a.toNat
      let cls := (h.extractLsb' 29 3).toNat
      let slot := (h.extractLsb' 12 17).toNat
      let live := match (s.contexts.find t.ctx).bind fun c => c.futures.find (futKey cls slot) with
        | some f => f.live && f.gen == h.toNat % 4096
        | none => false
      let no : Res := .later s 6 (.values [⟨.s, d.toNat, 0, 0⟩] 0)
      let yes (s : State) : Res := .later s 6 (.values [⟨.s, d.toNat, 0, 1⟩] 0)
      if !live then no
      else if cls = 1 then
        match s.clusters.findSome? fun (p : Nat × Cluster) => (p.2.cards.find? fun (c : Card) =>
            c.ctx == t.ctx && c.future == some slot && !c.started && c.fail.isNone && !c.cancelled).map fun c => (p.1, c) with
        | some (cl, c) => yes (s.updCard cl c.serial fun c => { c with cancelled := true, halted := none })
        | none => no
      else
        match s.deckWait t.ctx slot with
        | some cl =>
          yes ((s.updCluster cl fun k => { k with deck := k.deck.filter fun (e : DeckEntry) =>
            !(!e.cont && e.ctx == t.ctx && e.future == some slot) }).refillDeck cl |>.completeFuture t.ctx 2 slot 1)
        | none => no) s

/-- APERTURE SUBMIT (R322): a store to an aperture submits a template on a channel. -/
def execApertureSubmit (ctx cluster chan : Nat) (value : DWord) (s : State) : Host.Outcome State Fault Refusal :=
  .next (match s.context? ctx with
    | none => s
    | some x =>
      if value.extractLsb' 8 56 != 0#56 then s.apErr ctx cluster
      else if decide (64 ≤ (match s.clusters.find cluster with | some k => k.cards.length | none => 0)) then
        s.post 1 (.apertureSubmit ctx cluster chan value)
      else
        let c := Card.new s.serial ctx (chan % 16) (x.nextSeq cluster (chan % 16)) (value.extractLsb' 0 8).toNat none false none none 0 0 0 0 true
        { s with serial := s.serial + 1 }.submit cluster c (s.formCard cluster c))
/-- YRD ABORT (R316, R325, R499): every joined rank of a collective of the context fails. -/
def execYrdAbort (ctx : Nat) (coll : DWord) (s : State) : Host.Outcome State Fault Refusal :=
  .next (match s.collectives.find? (·.named (s.groupOf ctx) ctx coll) with
    | none => s
    | some x =>
      x.jobs.foldl (fun (s : State) (j : Nat × Nat × Nat) => s.failCard j.1 j.2.1 0x09 coll.toNat)
        { s with collectives := s.collectives.erase x })
/-- COLLECTIVE RESULT. -/
def execCollectiveResult (group ctx : Nat) (coll : DWord) (s : State) : Host.Outcome State Fault Refusal :=
  .next (s.giveResult group ctx coll)
/-- PARTIAL SUMS (R499): the parts of ranks of other packages arrive. -/
def execPartialSums (group ctx : Nat) (coll : DWord) (parts : List RankPart) (s : State) : Host.Outcome State Fault Refusal :=
  .next (s.joinCollective (BitVec.ofNat 64 group) ctx coll parts [])

/-- Whether a card may start (R307): formed, and in conflict with no earlier card of its stream that has neither completed nor been cancelled; one
whose template has not been read yet (R299) may conflict. -/
def mayStart (cards : List Card) (c : Card) : Bool :=
  c.formed && !c.started && c.fail.isNone && !c.cancelled && c.halted.isNone &&
  !(cards.any fun e => decide (e.serial < c.serial) && !e.cancelled && e.ctx == c.ctx && e.chan == c.chan && (!e.formed || conflicts e c))
/-- The card that starts next on a cluster: the oldest that may, while fewer than eight run (R305, R307). -/
def Cluster.nextCard (k : Cluster) : Option Card :=
  if 8 ≤ (k.cards.filter (·.started)).length then none
  else (k.cards.filter (mayStart k.cards)).foldl (fun m c => match m with
    | some e => if c.serial < e.serial then some c else some e
    | none => some c) none
/-- JOB START (R307, R313): a TREEOUT job counts its root. -/
def execJobStart (cluster : Nat) (s : State) : Host.Outcome State Fault Refusal :=
  .next (match (s.clusters.find cluster).bind (·.nextCard) with
    | none => s
    | some c =>
      let s := s.updCard cluster c.serial fun c => { c with started := true }
      let s := match c.future with
        | some slot => s.updFuture c.ctx 1 slot fun f => { f with started := true }
        | none => s
      if c.kind = 5 then
        let root := BitVec.ofNat 64 (c.f 0x28 8)
        if s.namePoison c.ctx root then (s.updCard cluster c.serial fun c => { c with started := false }).failCard cluster c.serial 0x0A root.toNat
        else match (if root = 0 then none else s.findName c.ctx root) with
        | some (k, _) => s.countUp k root
        | none => (s.updCard cluster c.serial fun c => { c with started := false }).failCard cluster c.serial 0x06 root.toNat
      else s)
/-- FILLFULL STEP (R309): a word that is empty is written and set full. -/
def execFillfullStep (cluster card piece : Nat) (s : State) : Host.Outcome State Fault Refusal :=
  .next (match s.card? cluster card with
    | none => s
    | some c =>
      if c.started && c.fail.isNone && c.halted.isNone && !c.progDue && c.steps && decide (piece < c.landings (s.cardSize c)) &&
          !c.landed.get false piece && s.permit c piece then s.landPiece cluster c piece
      else s)

/-- The first landing from `start` on, around the end, for which a test holds. -/
def pickPiece (n start : Nat) (p : Nat → Bool) : Option Nat :=
  ((List.range n).find? fun k => p ((start + k) % n)).map fun k => (start + k) % n
/-- The landing that a running job makes next: a SCATTER in order of its rows (R310), else any that is left;
a RAST job's are the intersection unit's. -/
def State.nextLanding (s : State) (cluster : Nat) (c : Card) : Option Ev :=
  let n := c.landings (s.cardSize c)
  if !c.started || c.fail.isSome || c.halted.isSome || c.progDue then none
  else
    match c.kind with
    | 5 => if c.joined then none else some (.jobLanding cluster c.serial c.lead)
    | 6 => none
    | 7 =>
      (match c.result with
        | some bs => if 128 * c.lead < bs.length then some (.jobLanding cluster c.serial c.lead) else none
        | none => if !c.joined && s.collectiveRoom c then some (.jobLanding cluster c.serial 0) else none)
    | _ =>
      if n ≤ c.landed.length then none
      else if c.kind = 3 then some (.jobLanding cluster c.serial c.landed.length)
      else
        (pickPiece n (Config.pick s.tick) fun p => !c.landed.get false p && (!c.steps || s.permit c p)).map fun p =>
          if c.steps then .fillfullStep cluster c.serial p else .jobLanding cluster c.serial p

end Sys2Proof.Machine
end

