-- ==== Sys2Proof/Machine/Gangs.lean ====
section
/-! DEFINITION. Kernel headers (R36 to R39), the layout of gang areas (R280, R348), the residency of crews on cores (R328, R330,
R331), the placement of a gang's teams (R19), and the ends of teams, gangs and grids (R222, R230, R383, R457). -/

namespace Sys2Proof.Machine

/-- What a kernel's header gives (R36, R37). -/
structure Header where
  kernel : Kernel
  pref : Nat
  fall : Nat
  check : Bool
  roles : List Role
  deriving DecidableEq, Repr
/-- Role entry `i` of a header (R37). -/
def roleOf (h i : Nat) : Role :=
  let o := 0x40 + 16 * i
  ⟨field h o 2, field h (o + 2) 2, field h (o + 4) 1, field h (o + 5) 1, field h (o + 6) 1 == 2, BitVec.ofNat 32 (field h (o + 8) 4)⟩
/-- Whether a budget is a multiple of 8 from 8 to 128. -/
def budgetOk (n : Nat) : Bool := decide (8 ≤ n) && decide (n ≤ 128) && n % 8 == 0
/-- Whether role entry `i` of a header keeps R37. -/
def roleOk (h i : Nat) : Bool :=
  let r := roleOf h i
  let kind := field h (0x40 + 16 * i + 6) 1
  field h (0x40 + 16 * i + 7) 1 == 0 && r.entry.toNat % 16 == 0 && budgetOk r.sregs &&
  match kind with
  | 1 => decide (32 ≤ r.lanes) && decide (r.lanes ≤ 1024) && r.lanes % 32 == 0 && decide (1 ≤ r.teams) && decide (r.teams ≤ 64) && budgetOk r.vregs
  | 2 => r.lanes == 0 && r.teams == 1 && r.vregs == 0
  | _ => false
/-- The number of `ctl` roles among some roles. -/
def ctlCount (rs : List Role) : Nat := (rs.filter (·.ctl)).length
/-- A kernel's header from its 128 bytes, unless it breaks R36, R37 or R39's rule of one `ctl` role. -/
def parseHeader (kbase h : Nat) : Option Header :=
  let f := field h
  let n := f 0x0E 1
  let roles := (List.range n).map (roleOf h)
  if f 0 4 == 0x314B4854 && f 4 2 == 1 && decide (f 6 1 ≤ 1) && decide (f 7 1 ≤ 1) && decide (f 8 4 < 4) && decide (1 ≤ f 0xC 1) &&
      decide (f 0xC 1 ≤ 4) && decide (1 ≤ f 0xD 1) && decide (f 0xD 1 ≤ f 0xC 1) && decide (1 ≤ n) && decide (n ≤ 4) && f 0xF 1 == 0 &&
      f 0x10 4 % 256 == 0 && decide (f 0x10 4 ≤ 262144) && (f 0x14 4 == 0xFFFFFFFF || f 0x14 4 % 16 == 0) && f 0x18 4 % 8 == 0 &&
      decide (f 0x1C 2 ≤ 4096) && f 0x1E 2 == 0 && f 0x28 24 == 0 && (List.range n).all (roleOk h) &&
      (List.range 4).all (fun i => decide (i < n) || field h (0x46 + 16 * i) 2 == 0) && decide (ctlCount roles ≤ 1) then
    some ⟨⟨kbase, f 0x20 4, if f 0x14 4 = 0xFFFFFFFF then none else some (BitVec.ofNat 32 (f 0x14 4)), f 0x18 4, f 0x1C 2, f 7 1 == 1,
      f 6 1 == 1, f 8 4 % 2 == 1, decide (0 < ctlCount roles), f 0x10 4⟩, f 0xC 1, f 0xD 1, f 8 4 / 2 % 2 == 1, roles⟩
  else none
/-- What the read of a record by the device comes to: a record, none that is good, or a page fault. -/
inductive RecordRead (α : Type) where
  | ok (x : α)
  | bad
  | fault (va kind level : Nat) (entry : DWord)
/-- Read a kernel's header through a context's translation (R39, R333). -/
def State.readHeader (s : State) (ctx kbase : Nat) : RecordRead Header :=
  if kbase % 128 ≠ 0 then .bad
  else
    match s.engineRead none ctx kbase 128 with
    | .bytes bs => match parseHeader kbase (leNat bs) with | some h => .ok h | none => .bad
    | .fault a k l e => .fault a k l e
    | _ => .bad

/-- Rounded up to a multiple. -/
def roundUp (n m : Nat) : Nat := (n + m - 1) / m * m
/-- The bytes of a window record (R280) and the barrier record behind it (R348). -/
def crewRecord (scratch : Nat) : Nat := roundUp (scratch + scratch / 32) 128 + 256
/-- The bytes of a team slot (R348). -/
def teamSlotSize (lanes vregs sregs : Nat) : Nat := 2048 + roundUp (lanes * vregs * 4 + lanes * 16 + sregs * 4 + 128) 128
/-- A team of a gang: crew, role number, role, index in the role. -/
structure Post where
  crew : Nat
  roleNo : Nat
  role : Role
  idx : Nat
  deriving DecidableEq, Repr
/-- The teams of a gang of `m` crews, in crew, role and team order (R9, R348). -/
def postsOf (roles : List Role) (m : Nat) : List Post :=
  (List.range m).flatMap fun c => (roles.mapIdx fun i r => (i, r)).flatMap fun (p : Nat × Role) =>
    if p.2.ctl && c != 0 then [] else (List.range p.2.teams).map fun k => ⟨c, p.1, p.2, k⟩
/-- The teams of a gang with the offsets of their slots, from `off` on. -/
def slotsFrom : Nat → List Post → List (Post × Nat)
  | _, [] => []
  | off, p :: ps => (p, off) :: slotsFrom (off + teamSlotSize p.role.lanes p.role.vregs p.role.sregs) ps
/-- The bytes of the team slots of some teams. -/
def slotBytes (ps : List Post) : Nat := ps.foldl (fun n p => n + teamSlotSize p.role.lanes p.role.vregs p.role.sregs) 0
/-- The bytes of a matrix record (R369). -/
def matrixRecord : Nat := 2428928
/-- The bytes of a shadow buffer of a crew (R447). -/
def shadowBuffer (scratch : Nat) (ps : List Post) : Nat := 0x100 + slotBytes ps + 264 * (scratch / 256)
/-- The bytes of a gang's shadow area (R447). -/
def shadowSize (scratch m : Nat) (ps : List Post) : Nat :=
  (List.range m).foldl (fun n c => n + 2 * shadowBuffer scratch (ps.filter (·.crew == c))) 0
/-- The size of each gang area of a grid (R348). -/
def gangAreaSize (h : Header) : Nat :=
  let ps := postsOf h.roles h.pref
  roundUp (h.pref * crewRecord h.kernel.scratch + slotBytes ps + (if h.kernel.hasCtl then matrixRecord else 0) +
    (if h.kernel.rollback then shadowSize h.kernel.scratch h.pref ps else 0)) 4096

/-- Whether a gang is resident. -/
def Gang.here (g : Gang) : Bool := match g.residency with | .resident => true | .leaving => true | .saved _ => false
/-- The lane teams on a core. -/
def State.coreTeams (s : State) (cluster core : Nat) : List Team :=
  (s.teams.filter fun (p : Nat × Team) => p.2.cluster == cluster && p.2.core == core && !p.2.isCtl && !p.2.ended &&
    match s.gangs.find p.2.gang with | some g => g.here | none => false).map (·.2)
/-- The register rows of a team (R18). -/
def rowsOf (lanes vregs : Nat) : Nat := lanes / 32 * vregs
/-- The teams and the register rows in use on each datapath of a core: a team past its save routine has released its registers. -/
def datapathLoad (ts : List Team) : List (Nat × Nat) :=
  (List.range 4).map fun d =>
    let here := ts.filter (·.datapath == d)
    (here.length, here.foldl (fun n t => if t.gone then n else n + rowsOf t.lanes t.vregs) 0)
/-- Bind a team to the datapath with the most free rows that takes it, ties to the lowest number (R330). -/
def bindOne (load : List (Nat × Nat)) (rows : Nat) : Option Nat :=
  ((List.range 4).foldl (fun (best : Option (Nat × Nat)) d =>
    match load[d]? with
    | some (n, used) =>
      if n < 16 && decide (used + rows ≤ 1536) then
        match best with
        | some (_, u) => if used < u then some (d, used) else best
        | none => some (d, used)
      else best
    | none => best) none).map (·.1)
/-- Bind teams one after another: the datapath of each. -/
def bindAll : List (Nat × Nat) → List Nat → Option (List Nat)
  | _, [] => some []
  | load, r :: rs =>
    match bindOne load r with
    | none => none
    | some d => (bindAll (load.modify d fun x => (x.1 + 1, x.2 + r)) rs).map (d :: ·)
/-- A lane team's needs: register rows and uniform words. -/
abbrev Needs := List (Nat × Nat)
/-- The binding of a crew's teams on a core with a load, if the crew fits (R330). -/
def coreFits (ts : List Team) (window : Nat) (needs : Needs) (scratch : Nat) : Option (List Nat) :=
  let words := ts.foldl (fun n t => if t.gone then n else n + t.sregs) 0 + needs.foldl (fun n p => n + p.2) 0
  if ts.length + needs.length ≤ 64 && decide (words ≤ 8192) && decide (window + scratch ≤ 262144) then
    bindAll (datapathLoad ts) (needs.map (·.1))
  else none
/-- The window bytes in use on a core. -/
def State.coreWindow (s : State) (cluster core : Nat) : Nat :=
  s.gangs.foldl (fun (n : Nat) (p : Nat × Gang) =>
    if p.2.here && p.2.cluster == cluster then
      p.2.crews.foldl (fun n c => if c.core = core then n + c.scratch else n) n else n) 0
/-- The binding of a crew on a core, if it fits. -/
def State.coreFit (s : State) (cluster core : Nat) (needs : Needs) (scratch : Nat) : Option (List Nat) :=
  coreFits (s.coreTeams cluster core) (s.coreWindow cluster core) needs scratch
/-- Whether a header's crew fits an empty core (R39). -/
def Header.fitsEmpty (h : Header) : Bool :=
  (coreFits [] 0 (((postsOf h.roles 1).filter (!·.role.ctl)).map fun p => (rowsOf p.role.lanes p.role.vregs, p.role.sregs)) h.kernel.scratch).isSome

/-- Whether a crew of a resident gang is on a core. -/
def State.coreBusy (s : State) (cluster core : Nat) : Bool :=
  s.gangs.any fun (p : Nat × Gang) => p.2.here && p.2.cluster == cluster && p.2.crews.any (·.core == core)
/-- Whether a cluster's control core has a `ctl` gang (R9). -/
def State.ctlBusy (s : State) (cluster : Nat) : Bool :=
  s.gangs.any fun (p : Nat × Gang) => p.2.here && p.2.cluster == cluster && p.2.kernel.hasCtl
/-- The lowest base core of a cluster for a gang of `m` crews with given needs (R328). -/
def State.baseFor (s : State) (cluster m : Nat) (needs : Nat → Needs) (scratch : Nat) (ctl : Bool) : Option Nat :=
  if s.removing.contains cluster || (ctl && s.ctlBusy cluster) then none
  else (List.range (5 - m)).find? fun c => (List.range m).all fun i => (s.coreFit cluster (c + i) (needs i) scratch).isSome

/-- The die of a cluster (R506). -/
def dieOfCluster (c : Nat) : Nat := c / 84
/-- The clusters of a partition on a die, from the one after its last placement on (R329). -/
def Partition.onDie (p : Partition) (die : Nat) : List Nat :=
  let cs := p.clusters.filter fun c => dieOfCluster c == die
  let last := p.lastPlaced.get 0 die
  cs.filter (fun c => last ≤ c) ++ cs.filter (fun c => c < last)
/-- The dies of a partition, those with more free cores first, ties to the lower number (R329). -/
def State.diesOf (s : State) (p : Partition) : List Nat :=
  let free (d : Nat) : Nat := ((p.clusters.filter fun c => dieOfCluster c == d).map fun c =>
    ((List.range 4).filter fun k => !s.coreBusy c k).length).foldl (· + ·) 0
  let dies := (List.range 8).filter fun d => p.clusters.any fun c => dieOfCluster c == d
  orderBy (fun a b => decide (free b < free a) || (free a == free b && decide (a ≤ b))) dies
/-- The first cluster and base core of a partition that take a gang of `m` crews (R329). -/
def State.spotFor (s : State) (p : Partition) (m : Nat) (needs : Nat → Needs) (scratch : Nat) (ctl : Bool) : Option (Nat × Nat) :=
  ((s.diesOf p).flatMap p.onDie).findSome? fun c => (s.baseFor c m needs scratch ctl).map fun b => (c, b)

/-- The lowest resident index that is free among some (R331). -/
def freeIndex (used : List Nat) : Nat := ((List.range 64).find? fun k => !used.contains k).getD 0
/-- `n` resident indices, one after another. -/
def freeIndices : Nat → List Nat → List Nat
  | 0, _ => []
  | n + 1, used => freeIndex used :: freeIndices n (freeIndex used :: used)
/-- Where a team stands after its placement. -/
structure Seat where
  core : Nat
  datapath : Nat
  rindex : Nat
  deriving DecidableEq, Repr
/-- The seats of a crew's lane teams on a core. -/
def State.seats (s : State) (cluster core : Nat) (needs : Needs) (scratch : Nat) : List Seat :=
  let dps := (s.coreFit cluster core needs scratch).getD []
  let idx := freeIndices dps.length ((s.coreTeams cluster core).map (·.rindex))
  (dps.zip idx).map fun p => ⟨core, p.1, p.2⟩

/-- The GRID of task and continuation teams (R33). -/
def taskGrid : Nat := 0xFFFFFF
/-- The clk that clearing a window takes (R278). -/
def clearTime (scratch : Nat) : Nat := (scratch + 1023) / 1024
/-- A team of a gang as it starts (R19). -/
def Team.launched (g : Gang) (id pkg : Nat) (p : Post) (check : Bool) (param : DWord) (live : Mask) (seat : Seat) (save clk : Nat) : Team :=
  { Team.start g.ctx p.role.lanes p.role.ctl g.kernel p.role.entry param live with
    gang := id, crew := p.crew, role := p.roleNo, idx := p.idx, roleTeams := p.role.teams, cluster := g.cluster
    core := seat.core, datapath := seat.datapath, rindex := seat.rindex
    gangReg := BitVec.ofNat 32 g.number, gridReg := BitVec.ofNat 32 g.grid, ident := identity pkg g.grid g.number p.crew p.roleNo p.idx
    prio := g.prio, vregs := p.role.vregs, sregs := p.role.sregs, saveBase := save, check := check
    placed := clk, lastIssue := clk, earliest := clk + clearTime g.kernel.scratch }
/-- Insert new teams, with numbers from the state's counter on. -/
def State.addTeams (s : State) (ts : List Team) : State :=
  ts.foldl (fun (s : State) t => { s with serial := s.serial + 1, teams := s.teams.insert s.serial t }) s
/-- The bytes of bits, eight to a byte, the first in bit 0. -/
def bitBytes : Nat → List Bool → List Byte
  | 0, _ => []
  | n + 1, bs => BitVec.ofNat 8 ((bs.take 8).foldr (fun b m => bit b + 2 * m) 0) :: bitBytes n (bs.drop 8)
/-- The key of a grid in the state. -/
def gridKey (ctx grid : Nat) : Nat := 2 ^ 24 * ctx + grid
/-- A shadow buffer of a crew (R447): its address, that of its granules, and its size. -/
structure ShadowPlace where
  at_ : Nat
  granules : Nat
  size : Nat
  deriving DecidableEq, Repr
/-- The place of shadow buffer `b` of crew `k` of a gang (R447). A task gang has one team. -/
def State.shadowPlace (s : State) (id : Nat) (g : Gang) (k b : Nat) : ShadowPlace :=
  let scratch := g.kernel.scratch
  let gr := if g.task then none else s.grids.find (gridKey g.ctx g.grid)
  let posts := match gr with
    | some gr => postsOf gr.roles gr.pref
    | none => (s.teams.filter fun (p : Nat × Team) => p.2.gang == id).map fun (p : Nat × Team) => ⟨0, 0, ⟨p.2.lanes, 1, p.2.vregs, p.2.sregs, false, 0⟩, 0⟩
  let pref := match gr with | some gr => gr.pref | none => 1
  let here := posts.filter (·.crew == k)
  let at_ := g.area + pref * crewRecord scratch + slotBytes posts + (if g.kernel.hasCtl then matrixRecord else 0) +
    shadowSize scratch k posts + b * shadowBuffer scratch here
  ⟨at_, at_ + 0x100 + slotBytes here, shadowBuffer scratch here⟩
/-- The place of a team's slot in a shadow buffer (R447): its crew's slots stand in role and team order. -/
def State.shadowSlot (s : State) (id : Nat) (g : Gang) (b : Nat) (t : Team) : Nat :=
  let before := match (if g.task then none else s.grids.find (gridKey g.ctx g.grid)) with
    | some gr => (postsOf gr.roles gr.pref).filter fun p =>
        p.crew == t.crew && (decide (p.roleNo < t.role) || (p.roleNo == t.role && decide (p.idx < t.idx)))
    | none => []
  (s.shadowPlace id g t.crew b).at_ + 0x100 + slotBytes before
/-- The registers of a team as a shadow buffer holds them behind the control block (R446, R447): vector registers, each with its lanes in
order, predicates, uniform registers; the manual gives the sizes and not the places (log entry 74). -/
def Team.registerBytes (t : Team) : List Byte :=
  ((List.range t.vregs).flatMap fun n => (List.range t.lanes).flatMap fun l => wordBytes (t.V l n)) ++
    ((List.range 128).flatMap fun n => leBytes (t.lanes / 8) (t.P n).toNat) ++ (List.range t.sregs).flatMap fun n => wordBytes (t.S n)
/-- A team's slot of a shadow buffer takes its control state and registers (R446, R447). -/
def State.writeShadowTeam (s : State) (id : Nat) (g : Gang) (b : Nat) (t : Team) : State :=
  s.devWrite g.ctx (s.shadowSlot id g b t) (t.controlBlock g.size t.saveIdx t.pc ++ t.registerBytes)
/-- The shadow of a rollback crew at its start: checkpoint 0 of the cleared window, in buffer 0 (R445, R447). -/
def State.firstShadow (s : State) (gang : Nat) : State :=
  match s.gangs.find gang with
  | none => s
  | some g =>
    if g.kernel.rollback then
      (List.range g.crews.length).foldl (fun (s : State) k =>
        let mine := s.teams.filter fun (p : Nat × Team) => p.2.gang == gang && p.2.crew == k
        let s := s.updCrew gang k fun c => { c with rb := { c.rb with barriers := c.barriers, teams := mine } }
        let s := s.devWrite g.ctx (s.shadowPlace gang g k 0).at_ (leBytes 8 0 ++ leBytes 4 1 ++ leBytes 244 0)
        let s := s.devWrite g.ctx (s.shadowPlace gang g k 1).at_ (leBytes 256 0)
        mine.foldl (fun (s : State) (p : Nat × Team) => s.writeShadowTeam gang g 0 p.2) s) s
    else s
/-- The control blocks of a gang's teams are written (R349). -/
def State.writeBlocks (s : State) (gang size : Nat) : State :=
  s.teams.foldl (fun (s' : State) (p : Nat × Team) =>
    if p.2.gang = gang then s'.devWrite p.2.ctx (p.2.saveBase - 2048) (p.2.controlBlock size 0 0) else s') s

/-- The lanes of a team at its launch (R12, R326). -/
def Grid.liveOf (gr : Grid) (number size : Nat) (p : Post) : Mask :=
  firstLanes (if gr.tail != 0 && number + 1 == gr.gangs && p.crew + 1 == size && p.roleNo == 0 && p.idx + 1 == p.role.teams then gr.tail else p.role.lanes)
/-- The header-like part of a grid. -/
def Grid.header (gr : Grid) : Header := ⟨gr.kernel, gr.pref, gr.fall, gr.check, gr.roles⟩
/-- The needs of crew `i`'s lane teams. -/
def needsOf (ps : List Post) (i : Nat) : Needs :=
  (ps.filter fun p => p.crew == i && !p.role.ctl).map fun p => (rowsOf p.role.lanes p.role.vregs, p.role.sregs)
/-- Pair the teams of a gang with seats, crew by crew. -/
def State.seatPosts (s : State) (cluster base scratch : Nat) (ps : List Post) (m : Nat) : List (Post × Seat) :=
  (List.range m).flatMap fun i =>
    let here := ps.filter (·.crew == i)
    ((here.filter (!·.role.ctl)).zip (s.seats cluster (base + i) (needsOf ps i) scratch)) ++
    ((here.filter (·.role.ctl)).map fun p => (p, ⟨4, 0, 0⟩))
/-- Place the next gang of a grid with `m` crews on a cluster from core `base` on (R328 to R331). -/
def State.placeGang (s : State) (gr : Grid) (m cluster base : Nat) : State :=
  let ps := postsOf gr.roles m
  let id := s.serial
  let pkg := match s.contexts.find gr.ctx with | some c => c.pkgIdx | none => 0
  let g : Gang := { Gang.single gr.kernel (if gr.kernel.hasCtl then some Array.new else none) with
    ctx := gr.ctx, part := gr.part, grid := gr.id, number := gr.nextGang, prio := gr.prio, size := m, cluster := cluster, baseCore := base
    crews := (List.range m).map fun i => Crew.new (base + i) gr.kernel.scratch (ps.filter (·.crew == i)).length
    placedClk := s.clk, area := gr.swap + gr.nextGang * gangAreaSize gr.header, param := gr.param }
  let offs := slotsFrom (gr.pref * crewRecord gr.kernel.scratch) ps
  let off (p : Post) : Nat := match offs.find? (·.1 == p) with | some x => x.2 | none => 0
  let ts := (s.seatPosts cluster base gr.kernel.scratch ps m).map fun (x : Post × Seat) =>
    Team.launched g id pkg x.1 gr.check gr.param (if x.1.role.ctl then 0 else gr.liveOf gr.nextGang m x.1) x.2 (g.area + off x.1 + 2048) s.clk
  let s := { s with
    serial := s.serial + 1, gangs := s.gangs.insert id g
    grids := s.grids.insert (gridKey gr.ctx gr.id) { gr with nextGang := gr.nextGang + 1 }
    partitions := match s.partitions.find gr.part with
      | some p => s.partitions.insert gr.part { p with lastPlaced := p.lastPlaced.set 0 (dieOfCluster cluster) (cluster + 1) }
      | none => s.partitions }
  (((s.addTeams ts).firstShadow id).writeBlocks id m).admitSets

/-- A team's halt ends; a requested gang's timeout does not count the time in which one of its teams was halted (R345). -/
def State.unhaltTeam (s : State) (id : Nat) : State :=
  match s.teams.find id with
  | none => s
  | some t =>
    if t.halt = 0 then s
    else
      let others := s.teams.any fun (p : Nat × Team) => p.1 != id && p.2.gang == t.gang && p.2.halt != 0 && p.2.halt != 6
      let s := s.setTeam id (t.unhalt s.clk)
      s.updGang t.gang fun g =>
        match g.requested with
        | none => g
        | some r =>
          let from_ := match g.stopFrom with | some f => min f t.haltFrom | none => t.haltFrom
          if t.halt = 6 then g
          else if others then { g with stopFrom := some from_ }
          else { g with requested := some (r + (s.clk - max r from_)), stopFrom := none }

/-- The section operations that a removed team has posted are performed in their order (R187, R383); its `oenter`s go with it. -/
def State.flushSections (s : State) (team : Nat) : State :=
  let mine := s.agenda.filter fun d => isSectStream team d.stream
  mine.foldl (fun (s : State) d => match d.ev with
    | .oleaveArrival c h k => s.oleaveArrives c h k
    | .oskipArrival c k q => s.oskipArrives c k q
    | _ => s) { s with agenda := s.agenda.filter fun d => !isSectStream team d.stream }
/-- What waits at cells for a team is there no more. -/
def State.dropWaiters (s : State) (team : Nat) : State :=
  { s with areas := s.areas.map fun (p : Nat × Area) => (p.1, { p.2 with queue := p.2.queue.filter fun w => w.skip || w.team != team }) }
/-- A gang without teams retires: its cores and windows are free, and its grid counts it (R10, R326). -/
def State.retireGang (s : State) (gang : Nat) : State :=
  match s.gangs.find gang with
  | none => s
  | some g =>
    if s.teams.any fun (p : Nat × Team) => p.2.gang == gang then s
    else
      let s := { s with gangs := s.gangs.erase gang }
      if g.task then s
      else
        match s.grids.find (gridKey g.ctx g.grid) with
        | some gr => { s with grids := s.grids.insert (gridKey g.ctx g.grid) { gr with retired := gr.retired + 1 } }
        | none => s
/-- A team is gone for good: its barriers no longer expect it (R230), the keys that it holds are broken (R383), its task futures
resolve with a status (R337), its task slot is free (R338), and its gang retires with its last team. -/
def State.dropTeam (s : State) (id : Nat) (status : Word) : State :=
  match s.teams.find id with
  | none => s
  | some t =>
    let s := ((s.unhaltTeam id).flushSections id).dropWaiters id
    let s : State := { s with teams := s.teams.erase id }
    let s := s.dropFaulted t.unit t.ctx
    let s := s.updCrew t.gang t.crew fun c => { c with rb := { c.rb with
      teams := c.rb.teams.filter (·.1 != id)
      wanted := if c.rb.wanted == some id then none else c.rb.wanted
      allow := if c.rb.allow == some id then none else c.rb.allow
      closing := if c.rb.allow == some id then some id else c.rb.closing } }
    let s := s.leaveQueues t.gang (t.pushMarks true)
    let s := (s.barrierLeave t.gang t.crew).sectionBreak t.ctx t.ident
    let s := t.taskFutures.foldl (fun (s : State) slot => s.completeFuture t.ctx 2 slot status) s
    let s := match t.taskSlot with
      | some k => s.updContext t.ctx fun c => { c with taskSlots := c.taskSlots.erase k }
      | none => s
    (s.retireGang t.gang).admitSets
/-- Whether a team that has ended can be retired: its accesses have been performed, and the keys that it left have been released. -/
def State.teamEnds (s : State) (id : Nat) (t : Team) : Bool :=
  t.ended && s.traffic.all (·.team != id) && !(s.agenda.any fun d => isSectStream id d.stream && match d.ev with | .oleaveArrival _ _ _ => true | _ => false)
/-- TEAM END (R222). -/
def execTeamEnd (team : Nat) (s : State) : Host.Outcome State Fault Refusal :=
  .next (match s.teams.find team with
    | none => s
    | some t => if s.teamEnds team t then s.dropTeam team 0 else s)

/-- Whether a grid's last gang has retired. -/
def Grid.over (gr : Grid) : Bool := gr.gangs ≤ gr.retired
/-- GRID END (R326, R457): the grid's teams have ended, and every write of theirs has been applied. -/
def execGridEnd (ctx grid : Nat) (s : State) : Host.Outcome State Fault Refusal :=
  .next (match s.grids.find (gridKey ctx grid) with
    | none => s
    | some gr =>
      if gr.over then
        let s := { s with grids := s.grids.erase (gridKey ctx grid) }
        let s := s.updContext ctx fun c => if c.service == some grid then { c with service := none } else c
        s.raise ctx 1 [BitVec.ofNat 64 grid, 0]
      else s)

end Sys2Proof.Machine
end

