-- ==== Sys2Proof/Machine/Alu.lean ====
section
/-! DEFINITION. The integer functions of one lane (R126 to R134), which the uniform ALU computes as well (R204). -/

namespace Sys2Proof.Machine

/-- The exact integer of a word, unsigned or signed (R126). -/
def extend (u : Bool) (x : Word) : Int := if u then (x.toNat : Int) else x.toInt
/-- An exact integer clamped to 32 bits, unsigned or signed (R42 `sat_s`, `sat_u`). -/
def clamp (u : Bool) (x : Int) : Word :=
  if u then BitVec.ofInt 32 (min (max x 0) 0xFFFFFFFF) else BitVec.ofInt 32 (min (max x (-0x80000000)) 0x7FFFFFFF)
/-- Bits 63:32 of the product (R126). -/
def mulHi (u : Bool) (x y : Word) : Word :=
  if u then (x.setWidth 64 * y.setWidth 64).extractLsb' 32 32 else (x.signExtend 64 * y.signExtend 64).extractLsb' 32 32
/-- The minimum (R126). -/
def minW (u : Bool) (x y : Word) : Word := if extend u x ≤ extend u y then x else y
/-- The maximum (R126). -/
def maxW (u : Bool) (x y : Word) : Word := if extend u x ≤ extend u y then y else x
/-- The absolute difference, 0 to 2^32 - 1 (R126). -/
def absDiff (u : Bool) (x y : Word) : Word := BitVec.ofInt 32 ((extend u x - extend u y).natAbs)
/-- Shift left by the unmasked count (R127). -/
def shlW (x y : Word) : Word := if 32 ≤ y.toNat then 0 else x <<< y.toNat
/-- Logical shift right by the unmasked count (R127). -/
def shrW (x y : Word) : Word := if 32 ≤ y.toNat then 0 else x >>> y.toNat
/-- Arithmetic shift right by the unmasked count (R127). -/
def sarW (x y : Word) : Word := x.sshiftRight (min y.toNat 32)
/-- The number of 1 bits (R128). -/
def popcW (x : Word) : Word := BitVec.ofNat 32 ((List.range 32).filter fun i => x.getLsbD i).length
/-- The number of 0 bits above the highest 1 bit (R128). -/
def clzW (x : Word) : Word :=
  match (List.range 32).find? fun i => x.getLsbD (31 - i) with
  | some i => BitVec.ofNat 32 i
  | none => 32
/-- Bit i of the result is bit 31 - i (R128). -/
def brevW (x : Word) : Word := x.reverse
/-- Position and length of a field control (R129). -/
def fieldOf (ctl : Word) : Nat × Nat :=
  let p := (ctl.extractLsb' 0 5).toNat
  let w := (ctl.extractLsb' 8 6).toNat
  (p, min (min w 32) (32 - p))
/-- Extract a bit field (R129). -/
def bfxW (u : Bool) (x ctl : Word) : Word :=
  let (p, n) := fieldOf ctl
  let f := x.toNat / 2 ^ p % 2 ^ n
  if n = 0 then 0
  else if u || f / 2 ^ (n - 1) = 0 then BitVec.ofNat 32 f
  else BitVec.ofNat 32 (f + 2 ^ 32 - 2 ^ n)
/-- Insert the low bits of `x` as a bit field of `old` (R129). -/
def bfiW (old x ctl : Word) : Word :=
  let (p, n) := fieldOf ctl
  let m : Word := BitVec.ofNat 32 ((2 ^ n - 1) * 2 ^ p)
  (old &&& ~~~m) ||| ((x <<< p) &&& m)
/-- An address plus a 32-bit offset, modulo 2^64 (R133). -/
def leaW (u : Bool) (base : DWord) (off : Word) : DWord := base + if u then off.setWidth 64 else off.signExtend 64
/-- The conditions of an integer compare (R60, R134). -/
def condInt (c : BitVec 3) (x y : Word) : Bool :=
  match c.toNat with
  | 0 => x == y
  | 1 => x != y
  | 2 => x.slt y
  | 3 => x.sle y
  | 4 => y.slt x
  | 5 => y.sle x
  | 6 => x.ult y
  | _ => y.ule x
/-- The logic functions of `plog` (R61, R140). -/
def plogB (m : BitVec 3) (a b : Bool) : Bool :=
  match m.toNat with
  | 0 => a && b
  | 1 => a || b
  | 2 => a != b
  | 3 => a && !b
  | 4 => a || !b
  | 5 => !(a && b)
  | 6 => !(a || b)
  | _ => a == b

/-- A result in each active lane, without flags. -/
def perLane (r : Team) (d : RegNo) (f : Nat → Word) : List RegWrite × BitVec 5 := (laneWrites r.actives d f, 0)
/-- A pair result in each active lane, without flags. -/
def perLane64 (r : Team) (d : RegNo) (f : Nat → DWord) : List RegWrite × BitVec 5 := (laneWrites64 r.actives d f, 0)
/-- A predicate result in each active lane, without flags. -/
def perLaneP (r : Team) (d : RegNo) (f : Nat → Bool) : List RegWrite × BitVec 5 := (predWrites r.actives d f, 0)

end Sys2Proof.Machine
end

