-- ==== Sys2Proof/Machine/LaneFloat.lean ====
section
/-! DEFINITION. The meanings of the L-set floating-point and conversion instructions (R145 to R154). -/

namespace Sys2Proof.Machine

/-- A result with flags in each active lane; the flags are ORed (R29, R79). -/
def perLaneF (r : Team) (d : RegNo) (f : Nat → Word × BitVec 5) : List RegWrite × BitVec 5 :=
  (laneWrites r.actives d fun l => (f l).1, orFlags (r.actives.map fun l => (f l).2))
/-- A pair result with flags in each active lane. -/
def perLaneF64 (r : Team) (d : RegNo) (f : Nat → DWord × BitVec 5) : List RegWrite × BitVec 5 :=
  (laneWrites64 r.actives d fun l => (f l).1, orFlags (r.actives.map fun l => (f l).2))
/-- A predicate result with flags in each active lane. -/
def perLaneFP (r : Team) (d : RegNo) (f : Nat → Bool × BitVec 5) : List RegWrite × BitVec 5 :=
  (predWrites r.actives d fun l => (f l).1, orFlags (r.actives.map fun l => (f l).2))

/-- Operand b after the negation of mod[2] in FP32 (R59, R142). -/
def negW (u : Bool) (y : Word) : Word := if u then y ^^^ 0x80000000#32 else y
/-- Operand b after the negation of both packed elements (R142). -/
def negPk (u : Bool) (y : Word) : Word := if u then y ^^^ 0x80008000#32 else y
/-- Operand b after the negation in FP64 (R142). -/
def negD (u : Bool) (y : DWord) : DWord := if u then y ^^^ 0x8000000000000000#64 else y
/-- An FP32 operation on words. -/
def onW (f : Nat → Nat → Nat × BitVec 5) (x y : Word) : Word × BitVec 5 := asWord (f x.toNat y.toNat)
/-- A rounded FP64 result as a double word. -/
def asDWord (r : Nat × BitVec 5) : DWord × BitVec 5 := (BitVec.ofNat 64 r.1, r.2)
/-- Element `i` of a packed register (R76). -/
def pkElem (x : Word) (i : Nat) : Nat := (x.extractLsb' (16 * i) 16).toNat
/-- A packed operation on both elements (R76, R150). -/
def onPk (f : Nat → Nat × BitVec 5) : Word × BitVec 5 :=
  let e0 := f 0
  let e1 := f 1
  (BitVec.ofNat 32 (e0.1 + 65536 * e1.1), e0.2 ||| e1.2)
/-- `pkdot` of one lane (R151): two exact products and the accumulator, rounded once. -/
def pkdotW (mode : BitVec 2) (x y z : Word) : Word × BitVec 5 :=
  let n (w : Word) (i : Nat) := fp16.num (pkElem w i)
  let c := fp32.num z.toNat
  let ops := [n x 0, n x 1, n y 0, n y 1, c]
  let prod (a b : Num) := if a.isNan || b.isNan then (Num.nan false, false) else mulNums a b
  let p0 := prod (n x 0) (n y 0)
  let p1 := prod (n x 1) (n y 1)
  let terms := [p0.1, p1.1, c].filter fun t => !t.isNan
  let sum := sumNums mode terms
  let bad := p0.2 || p1.2 || sum.2
  if bad || ops.any Num.isNan then (0x7FC00000, snanFlag ops ||| if bad then flagInvalid else 0)
  else asWord (fp32.pack mode sum.1)

/-- FADD (R145). -/
def execFadd (d a : RegNo) (o : OpB) (u : Bool) (s : State) : Host.Outcome State Fault Refusal :=
  laneSel (.fadd d a o u) 6 o
    (fun r => perLaneF r d fun l => onW (fp32.add r.fmode) (r.V l a.toNat) (negW u (r.opb l o))) s
/-- FSUB (R145). -/
def execFsub (d a : RegNo) (o : OpB) (u : Bool) (s : State) : Host.Outcome State Fault Refusal :=
  laneSel (.fsub d a o u) 6 o
    (fun r => perLaneF r d fun l => onW (fp32.sub r.fmode) (r.V l a.toNat) (negW u (r.opb l o))) s
/-- FMUL (R145). -/
def execFmul (d a : RegNo) (o : OpB) (u : Bool) (s : State) : Host.Outcome State Fault Refusal :=
  laneSel (.fmul d a o u) 6 o
    (fun r => perLaneF r d fun l => onW (fp32.mul r.fmode) (r.V l a.toNat) (negW u (r.opb l o))) s
/-- FFMA (R146): the addend is the old destination. -/
def execFfma (d a : RegNo) (o : OpB) (u : Bool) (s : State) : Host.Outcome State Fault Refusal :=
  laneSel (.ffma d a o u) 6 o
    (fun r => perLaneF r d fun l =>
      asWord (fp32.fma r.fmode (r.V l a.toNat).toNat (negW u (r.opb l o)).toNat (r.V l d.toNat).toNat)) s
/-- FMIN (R81, R145). -/
def execFmin (d a : RegNo) (o : OpB) (u : Bool) (s : State) : Host.Outcome State Fault Refusal :=
  laneSel (.fmin d a o u) 6 o
    (fun r => perLaneF r d fun l => onW (fp32.minmax false false) (r.V l a.toNat) (negW u (r.opb l o))) s
/-- FMAX (R81, R145). -/
def execFmax (d a : RegNo) (o : OpB) (u : Bool) (s : State) : Host.Outcome State Fault Refusal :=
  laneSel (.fmax d a o u) 6 o
    (fun r => perLaneF r d fun l => onW (fp32.minmax true false) (r.V l a.toNat) (negW u (r.opb l o))) s
/-- FMINNM (R81, R145). -/
def execFminnm (d a : RegNo) (o : OpB) (u : Bool) (s : State) : Host.Outcome State Fault Refusal :=
  laneSel (.fminnm d a o u) 6 o
    (fun r => perLaneF r d fun l => onW (fp32.minmax false true) (r.V l a.toNat) (negW u (r.opb l o))) s
/-- FMAXNM (R81, R145). -/
def execFmaxnm (d a : RegNo) (o : OpB) (u : Bool) (s : State) : Host.Outcome State Fault Refusal :=
  laneSel (.fmaxnm d a o u) 6 o
    (fun r => perLaneF r d fun l => onW (fp32.minmax true true) (r.V l a.toNat) (negW u (r.opb l o))) s
/-- FCMP (R147). -/
def execFcmp (d a : RegNo) (o : OpL) (c : BitVec 3) (s : State) : Host.Outcome State Fault Refusal :=
  laneFixed (.fcmp d a o c) 4
    (fun r => perLaneFP r d fun l => fp32.cmp c (r.V l a.toNat).toNat (r.oplV l o).toNat) s
/-- FRCP (R80, R149). -/
def execFrcp (d a : RegNo) (s : State) : Host.Outcome State Fault Refusal :=
  laneFixed (.frcp d a) 14 (fun r => perLaneF r d fun l => frcpW r.fmode (r.V l a.toNat)) s
/-- FRSQ (R80, R149). -/
def execFrsq (d a : RegNo) (s : State) : Host.Outcome State Fault Refusal :=
  laneFixed (.frsq d a) 14 (fun r => perLaneF r d fun l => frsqW r.fmode (r.V l a.toNat)) s
/-- FSQRT (R80, R149). -/
def execFsqrt (d a : RegNo) (s : State) : Host.Outcome State Fault Refusal :=
  laneFixed (.fsqrt d a) 14 (fun r => perLaneF r d fun l => fsqrtW r.fmode (r.V l a.toNat)) s
/-- FEX2 (R80, R149). -/
def execFex2 (d a : RegNo) (s : State) : Host.Outcome State Fault Refusal :=
  laneFixed (.fex2 d a) 14 (fun r => perLaneF r d fun l => fex2W r.fmode (r.V l a.toNat)) s
/-- FLG2 (R80, R149). -/
def execFlg2 (d a : RegNo) (s : State) : Host.Outcome State Fault Refusal :=
  laneFixed (.flg2 d a) 14 (fun r => perLaneF r d fun l => flg2W r.fmode (r.V l a.toNat)) s
/-- FSIN (R80, R149). -/
def execFsin (d a : RegNo) (s : State) : Host.Outcome State Fault Refusal :=
  laneFixed (.fsin d a) 14 (fun r => perLaneF r d fun l => trigW false r.fmode (r.V l a.toNat)) s
/-- FCOS (R80, R149). -/
def execFcos (d a : RegNo) (s : State) : Host.Outcome State Fault Refusal :=
  laneFixed (.fcos d a) 14 (fun r => perLaneF r d fun l => trigW true r.fmode (r.V l a.toNat)) s
/-- FCLASS (R148). -/
def execFclass (d a : RegNo) (s : State) : Host.Outcome State Fault Refusal :=
  laneFixed (.fclass d a) 4 (fun r => perLane r d fun l => fclassW (r.V l a.toNat)) s
/-- PKADD (R150). -/
def execPkadd (d a : RegNo) (o : OpB) (u : Bool) (s : State) : Host.Outcome State Fault Refusal :=
  laneSel (.pkadd d a o u) 6 o
    (fun r => perLaneF r d fun l => onPk fun i =>
      fp16.add r.fmode (pkElem (r.V l a.toNat) i) (pkElem (negPk u (r.opb l o)) i)) s
/-- PKMUL (R150). -/
def execPkmul (d a : RegNo) (o : OpB) (u : Bool) (s : State) : Host.Outcome State Fault Refusal :=
  laneSel (.pkmul d a o u) 6 o
    (fun r => perLaneF r d fun l => onPk fun i =>
      fp16.mul r.fmode (pkElem (r.V l a.toNat) i) (pkElem (negPk u (r.opb l o)) i)) s
/-- PKFMA (R150). -/
def execPkfma (d a : RegNo) (o : OpB) (u : Bool) (s : State) : Host.Outcome State Fault Refusal :=
  laneSel (.pkfma d a o u) 6 o
    (fun r => perLaneF r d fun l => onPk fun i =>
      fp16.fma r.fmode (pkElem (r.V l a.toNat) i) (pkElem (negPk u (r.opb l o)) i) (pkElem (r.V l d.toNat) i)) s
/-- PKBFMA (R150). -/
def execPkbfma (d a : RegNo) (o : OpB) (u : Bool) (s : State) : Host.Outcome State Fault Refusal :=
  laneSel (.pkbfma d a o u) 6 o
    (fun r => perLaneF r d fun l => onPk fun i =>
      bf16.fma r.fmode (pkElem (r.V l a.toNat) i) (pkElem (negPk u (r.opb l o)) i) (pkElem (r.V l d.toNat) i)) s
/-- PKDOT (R151). -/
def execPkdot (d a : RegNo) (o : OpB) (u : Bool) (s : State) : Host.Outcome State Fault Refusal :=
  laneSel (.pkdot d a o u) 8 o
    (fun r => perLaneF r d fun l => pkdotW r.fmode (r.V l a.toNat) (negPk u (r.opb l o)) (r.V l d.toNat)) s
/-- DADD (R152). -/
def execDadd (d a : RegNo) (o : OpB) (u : Bool) (s : State) : Host.Outcome State Fault Refusal :=
  laneLater (.dadd d a o u) 10
    (fun r => perLaneF64 r d fun l =>
      asDWord (fp64.add r.fmode (r.V64 l a.toNat).toNat (negD u (r.opb64 l o)).toNat)) s
/-- DMUL (R152). -/
def execDmul (d a : RegNo) (o : OpB) (u : Bool) (s : State) : Host.Outcome State Fault Refusal :=
  laneLater (.dmul d a o u) 10
    (fun r => perLaneF64 r d fun l =>
      asDWord (fp64.mul r.fmode (r.V64 l a.toNat).toNat (negD u (r.opb64 l o)).toNat)) s
/-- DFMA (R152). -/
def execDfma (d a : RegNo) (o : OpB) (u : Bool) (s : State) : Host.Outcome State Fault Refusal :=
  laneLater (.dfma d a o u) 10
    (fun r => perLaneF64 r d fun l =>
      asDWord (fp64.fma r.fmode (r.V64 l a.toNat).toNat (negD u (r.opb64 l o)).toNat (r.V64 l d.toNat).toNat)) s
/-- DCMP (R147, R152). -/
def execDcmp (d a : RegNo) (o : OpL) (c : BitVec 3) (s : State) : Host.Outcome State Fault Refusal :=
  laneLater (.dcmp d a o c) 10
    (fun r => perLaneFP r d fun l => fp64.cmp c (r.V64 l a.toNat).toNat (r.oplV64 l o true).toNat) s

/-- The floating-point format of a code of `cvt` (R153). -/
def cvtFmt (c : Nat) : Fmt :=
  match c with
  | 0 => fp32
  | 1 => fp16
  | 2 => bf16
  | _ => fp64
/-- The bounds of an integer format of `cvt` (R153). -/
def cvtBounds (c : Nat) : Int × Int :=
  match c with
  | 4 => (-2 ^ 31, 2 ^ 31 - 1)
  | 5 => (0, 2 ^ 32 - 1)
  | 6 => (-2 ^ 63, 2 ^ 63 - 1)
  | _ => (0, 2 ^ 64 - 1)
/-- The rounding mode of a specification (R153). -/
def cvtMode (spec : Word) (fmode : BitVec 2) : BitVec 2 :=
  if (spec.extractLsb' 8 3).toNat = 4 then fmode else spec.extractLsb' 8 2
/-- A source value of `cvt` as a number (R153, R154): `x` holds the register or the pair. The
integer 0 is +0, whose sign no rule states (log entry 83). -/
def cvtSource (spec : Word) (x : DWord) : Num :=
  match (spec.extractLsb' 0 4).toNat with
  | 0 => fp32.num (x.extractLsb' 0 32).toNat
  | 1 => fp16.num (x.extractLsb' (if spec.getLsbD 11 then 16 else 0) 16).toNat
  | 2 => bf16.num (x.extractLsb' (if spec.getLsbD 11 then 16 else 0) 16).toNat
  | 3 => fp64.num x.toNat
  | 4 => Num.ofInt (x.extractLsb' 0 32).toInt 0 false
  | 5 => Num.ofInt (x.extractLsb' 0 32).toNat 0 false
  | 6 => Num.ofInt x.toInt 0 false
  | _ => Num.ofInt x.toNat 0 false
/-- `cvt` of one lane (R154). -/
def cvtW (spec : Word) (fmode : BitVec 2) (x : DWord) : DWord × BitVec 5 :=
  let mode := cvtMode spec fmode
  let dst := (spec.extractLsb' 4 4).toNat
  let n := cvtSource spec x
  if dst < 4 then
    let f := cvtFmt dst
    if n.isNan then (BitVec.ofNat 64 f.qnan, snanFlag [n])
    else
      let r := f.pack mode n
      (BitVec.ofNat 64 r.1, r.2)
  else
    let (lo, hi) := cvtBounds dst
    let (y, fl) := floatToInt mode n lo hi
    (if dst < 6 then (BitVec.ofInt 32 y).setWidth 64 else BitVec.ofInt 64 y, fl)
/-- CVT (R153, R154). -/
def execCvt (d a : RegNo) (spec : Word) (s : State) : Host.Outcome State Fault Refusal :=
  let src := spec.extractLsb' 0 4
  let dst := spec.extractLsb' 4 4
  let f (r : Team) : List RegWrite × BitVec 5 :=
    let x (l : Nat) : DWord := if cvtWidth src = 2 then r.V64 l a.toNat else (r.V l a.toNat).setWidth 64
    if cvtWidth dst = 2 then perLaneF64 r d fun l => cvtW spec r.fmode (x l)
    else perLaneF r d fun l => ((cvtW spec r.fmode (x l)).1.extractLsb' 0 32, (cvtW spec r.fmode (x l)).2)
  if src = 3 ∨ dst = 3 then laneLater (.cvt d a spec) 10 f s else laneFixed (.cvt d a spec) 6 f s

end Sys2Proof.Machine
end

