-- ==== Sys2Proof/Machine/Narrow.lean ====
section
/-! DEFINITION. The tapered formats (R83 to R88), fixed point (R95, R96), and the meanings of the narrow and fixed-point
instructions (R155 to R159). -/

namespace Sys2Proof.Machine

/-- The length of the run of bit `r` from bit `k - 1` of `c` down (R83). -/
def runLength (c : Nat) (r : Nat) : Nat → Nat
  | 0 => 0
  | k + 1 => if c / 2 ^ k % 2 = r then runLength c r k + 1 else 0
/-- A positive code's value m 2^e (R83). -/
def tfMagnitude (c n es : Nat) : Nat × Int :=
  let r := c / 2 ^ (n - 2) % 2
  let m := runLength c r (n - 1)
  let k : Int := if r = 1 then (m : Int) - 1 else -m
  let left := n - 1 - (m + 1)
  let rest := c % 2 ^ left
  let e := if es ≤ left then rest / 2 ^ (left - es) else rest * 2 ^ (es - left)
  let fl := left - es
  let f := if es ≤ left then rest % 2 ^ fl else 0
  (2 ^ fl + f, k * (2 ^ es : Nat) + e - fl)
/-- `tf_decode` (R83): none for NaR; sign, m and e of the value. -/
def tfDecode (c n es : Nat) : Option (Bool × Nat × Int) :=
  if c = 0 then some (false, 0, 0)
  else if c = 2 ^ (n - 1) then none
  else
    let s := c / 2 ^ (n - 1) % 2 == 1
    let v := tfMagnitude (if s then 2 ^ n - c else c) n es
    some (s, v.1, v.2)
/-- A value m 2^e in units of 2^-300. -/
def units300 (m : Nat) (e : Int) : Nat := m * 2 ^ (e + 300).toNat
/-- The positive code whose value is nearest to `a` (units of 2^-300), ties to the even code, from code `c` up (R86);
the fuel reaches to the code of maxpos. -/
def tfNearest (a n es : Nat) : Nat → Nat → Nat
  | 0, c => c
  | fuel + 1, c =>
    let v := tfMagnitude c n es
    let w := tfMagnitude (c + 1) n es
    let x := units300 v.1 v.2
    let y := units300 w.1 w.2
    if 2 * a < x + y ∨ (2 * a = x + y ∧ c % 2 = 0) then c
    else tfNearest a n es fuel (c + 1)
/-- `tf_encode` of a finite nonzero value m 2^e (R86). -/
def tfEncodeFin (s : Bool) (m : Nat) (e : Int) (n es : Nat) : Nat × BitVec 5 :=
  let a := units300 m e
  let top := 2 ^ (n - 1) - 1
  let vmax := tfMagnitude top n es
  let vmin := tfMagnitude 1 n es
  let hi := units300 vmax.1 vmax.2
  let lo := units300 vmin.1 vmin.2
  let c := if hi ≤ a then top else if a ≤ lo then 1 else tfNearest a n es (2 ^ (n - 1) - 2) 1
  let v := tfMagnitude c n es
  let fl := (if hi < a then flagOverflow else 0) ||| (if a < lo then flagUnderflow else 0) |||
    (if units300 v.1 v.2 = a then 0 else flagInexact)
  (if s then 2 ^ n - c else c, fl)
/-- `tf_encode` of a number times 2^-sh (R86, R156). -/
def tfEncode (x : Num) (sh : Int) (n es : Nat) : Nat × BitVec 5 :=
  match x with
  | .nan sig => (2 ^ (n - 1), if sig then flagInvalid else 0)
  | .inf _ => (2 ^ (n - 1), flagInvalid)
  | .fin s m e => if m = 0 then (0, 0) else tfEncodeFin s m (e - sh) n es

/-- The width and exponent size that FMT selects (R155). -/
def tfFormat (ctl : Word) : Nat × Nat := if ctl.getLsbD 0 then (6, 0) else (8, 1)
/-- The block scale of a control word (R155). -/
def tfScale (ctl : Word) : Int := (ctl.extractLsb' 8 8).toInt
/-- `tdec` of one lane (R157). -/
def tdecW (mode : BitVec 2) (x ctl : Word) : Word × BitVec 5 :=
  let (n, es) := tfFormat ctl
  if tfScale ctl = -128 then (0x7FC00000, 0)
  else
    match tfDecode (x.toNat % 2 ^ n) n es with
    | none => (0x7FC00000, 0)
    | some (s, m, e) => asWord (fp32.pack mode (.fin s m (e + tfScale ctl)))
/-- `tenc` of one lane (R156). -/
def tencW (x ctl : Word) : Word × BitVec 5 :=
  let (n, es) := tfFormat ctl
  if tfScale ctl = -128 then (BitVec.ofNat 32 (2 ^ (n - 1)), 0)
  else
    let r := tfEncode (fp32.num x.toNat) (tfScale ctl) n es
    (BitVec.ofNat 32 r.1, r.2)
/-- `npack` (R158). -/
def npackW (x y : Word) : Word :=
  y.extractLsb' 8 8 ++ x.extractLsb' 8 8 ++ y.extractLsb' 0 8 ++ x.extractLsb' 0 8
/-- `nunpk` (R158). -/
def nunpkW (x y : Word) : Word :=
  y.extractLsb' 16 8 ++ y.extractLsb' 0 8 ++ x.extractLsb' 16 8 ++ x.extractLsb' 0 8
/-- `fxq` of one lane (R95). -/
def fxqW (x : Word) (e : Int) : DWord × BitVec 5 :=
  match fp32.num x.toNat with
  | .nan _ => (0x8000000000000000, flagInvalid)
  | .inf s => (if s then 0x8000000000000001 else 0x7FFFFFFFFFFFFFFF, flagInvalid)
  | .fin s m ex =>
    if m = 0 then (0, 0)
    else if 64 ≤ ex - e then (if s then 0x8000000000000001 else 0x7FFFFFFFFFFFFFFF, flagInvalid)
    else if ex - e ≤ -64 then (0, flagInexact)
    else
      let (n, d) := quantize 0 s m (ex - e) 0
      if 2 ^ 63 ≤ n then (if s then 0x8000000000000001 else 0x7FFFFFFFFFFFFFFF, flagInvalid)
      else (BitVec.ofInt 64 (if s then -(n : Int) else n), if d then flagInexact else 0)
/-- `fxdq` of one lane (R96); it gives +0 for 0, whose sign no rule states (log entry 83). -/
def fxdqW (q : DWord) (e : Int) : Word × BitVec 5 :=
  if q = 0x8000000000000000 then (0x7FC00000, 0)
  else asWord (fp32.pack 0 (Num.ofInt q.toInt e false))

/-- TDEC (R157). -/
def execTdec (d a : RegNo) (o : OpB) (s : State) : Host.Outcome State Fault Refusal :=
  laneSel (.tdec d a o) 6 o (fun r => perLaneF r d fun l => tdecW r.fmode (r.V l a.toNat) (r.opb l o)) s
/-- TENC (R156). -/
def execTenc (d a : RegNo) (o : OpB) (s : State) : Host.Outcome State Fault Refusal :=
  laneSel (.tenc d a o) 6 o (fun r => perLaneF r d fun l => tencW (r.V l a.toNat) (r.opb l o)) s
/-- NPACK (R158). -/
def execNpack (d a : RegNo) (o : OpB) (s : State) : Host.Outcome State Fault Refusal :=
  laneSel (.npack d a o) 6 o (fun r => perLane r d fun l => npackW (r.V l a.toNat) (r.opb l o)) s
/-- NUNPK (R158). -/
def execNunpk (d a : RegNo) (o : OpB) (s : State) : Host.Outcome State Fault Refusal :=
  laneSel (.nunpk d a o) 6 o (fun r => perLane r d fun l => nunpkW (r.V l a.toNat) (r.opb l o)) s
/-- FXQ (R95, R159). -/
def execFxq (d a : RegNo) (o : OpB) (s : State) : Host.Outcome State Fault Refusal :=
  laneSel (.fxq d a o) 8 o (fun r => perLaneF64 r d fun l => fxqW (r.V l a.toNat) (r.opb l o).toInt) s
/-- FXDQ (R96, R159). -/
def execFxdq (d a : RegNo) (o : OpB) (s : State) : Host.Outcome State Fault Refusal :=
  laneSel (.fxdq d a o) 8 o (fun r => perLaneF r d fun l => fxdqW (r.V64 l a.toNat) (r.opb l o).toInt) s

end Sys2Proof.Machine
end

