-- ==== Sys2Proof/Machine/Queues.lean ====
section
/-! DEFINITION. The matrix queues (R185, R186): the meanings of `qpush` and `qpop`, and how beats reach a popping team. -/

namespace Sys2Proof.Machine

/-- The state with a gang's array changed. -/
def State.updArray (s : State) (gang : Nat) (f : Array → Array) : State :=
  s.updGang gang fun g => { g with array := g.array.map f }
/-- The array of a team's gang. -/
def State.arrayOf (s : State) (t : Team) : Option Array := (s.gangOf t).bind (·.array)
/-- The lane groups of a mask, in increasing order (R13). -/
def groupsOf (m : Mask) : List Nat := (List.range 32).filter fun w => maskWord m w != 0
/-- The beat of a lane group: zero for lanes outside EX (R186). -/
def pushBeat (r : Team) (n w : Nat) : BitVec 1024 :=
  BitVec.ofNat 1024 (leNat ((List.range 32).flatMap fun p =>
    wordBytes (if r.ex.getLsbD (32 * w + p) then r.V (32 * w + p) n else 0)))
/-- The queue's turn list with a `qpush` in it, behind those that reached the queue before it (R186). -/
def joinTurn (l : List Nat) (me : Nat) : List Nat := if l.contains me then l else l ++ [me]
/-- QPUSH (R186): beats go into the queue while there is room, those of one instruction one after another; the instructions are served in the
order in which they reach the queue. -/
def execQpush (d a : RegNo) (s : State) : Host.Outcome State Fault Refusal :=
  slot (.qpush d a) (fun r t s =>
    let q := d.toNat
    match (if t.kernel.hasCtl then s.arrayOf t else none) with
    | none => .trap 0x01 (Instr.qpush d a).info 0
    | some x =>
      let me := t.mark.getD s.serial
      let turn := joinTurn (x.pushers.getD q []) me
      let left := (groupsOf t.ex).filter fun w => t.done &&& laneBit (32 * w) == 0#1024
      let now := if turn.head? = some me then left.take (64 - (x.queues.getD q []).length) else []
      let whole := now.length == left.length
      let s := State.updArray { s with serial := max s.serial (me + 1) } t.gang fun x => { x with
        queues := x.queues.modify q fun l => l ++ now.map fun w => (pushBeat r a.toNat w, 0)
        pushers := x.pushers.set q (if whole then turn.tail else turn) }
      if whole then .done s
      else
        let mark (m : Mask) : Mask := now.foldl (fun (m : Mask) w => m ||| laneBit (32 * w)) m
        .block (s.updMe fun t => { t with done := mark t.done, mark := some me }) (.queueRoom q (some me))) s
/-- QPOP (R186): the destination is pending until every beat has been taken. -/
def execQpop (d a : RegNo) (s : State) : Host.Outcome State Fault Refusal :=
  slot (.qpop d a) (fun _ t s =>
    match (if t.kernel.hasCtl then s.arrayOf t else none) with
    | none => .trap 0x01 (Instr.qpop d a).info 0
    | some _ => .later s 5 (.beats a.toNat t.ex)) s

/-- The serial number of the oldest pop of a gang's queue: pops are served in order (R186). -/
def State.firstPop (s : State) (gang q : Nat) : Option Nat :=
  (s.teams.flatMap fun (p : Nat × Team) =>
    if p.2.gang = gang then p.2.pends.filterMap fun (e : Pend) =>
      match e.data with | .beats q' _ => if q' = q then some e.serial else none | _ => none
    else []).foldl (fun m n => match m with | some k => some (min k n) | none => some n) none
/-- Whether a pop can take a beat: it is the oldest of its queue, and either a beat is there or none is wanted. -/
def State.popReady (s : State) (t : Team) (e : Pend) : Bool :=
  match e.data with
  | .beats q ex =>
    s.firstPop t.gang q == some e.serial &&
    (ex == 0#1024 || (match s.arrayOf t with | some x => !(x.queues.getD q []).isEmpty | none => false))
  | _ => false
/-- A pop takes one beat: the lanes of the lowest lane group left get their words; a poisoned word is consumed (R186, R368,
R441). When no lane group is left, the register is pending no more. -/
def State.popBeat (s : State) (id : Nat) (t : Team) (e : Pend) : State :=
  match e.data with
  | .beats q ex =>
    match groupsOf ex with
    | [] => s.updTeam id fun t => { (t.land e.after) with pends := t.pends.filter (·.serial != e.serial) }
    | w :: ws =>
      match (s.arrayOf t).bind fun x => (x.queues.getD q []).head? with
      | none => s
      | some (beat, poison) =>
        let s := s.updArray t.gang fun x => { x with queues := x.queues.modify q fun l => l.tail }
        let lanes := (List.range 32).filter fun p => ex.getLsbD (32 * w + p)
        let put (t : Team) : Team := t.land (lanes.map fun p => ⟨.v, e.n, 32 * w + p, maskWord beat p⟩)
        let next : PendData :=
          if lanes.any (fun p => poison.getLsbD p) then .poison 6 0
          else .beats q (ex &&& ~~~((0xFFFFFFFF#32).setWidth 1024 <<< (32 * w)))
        let done := ws.isEmpty && !lanes.any (fun p => poison.getLsbD p)
        s.updTeam id fun t =>
          let t := put t
          if done then { (t.land e.after) with pends := t.pends.filter (·.serial != e.serial) }
          else { t with pends := t.pends.map fun p => if p.serial = e.serial then { p with data := next } else p }
  | _ => s

end Sys2Proof.Machine
end

