-- ==== Sys2Proof/Machine/Matrix.lean ====
section
/-! DEFINITION. The matrix array (R242 to R246, R354 to R373): its commands, chunks, weight images, checksums and power states,
and the meanings of the matrix instructions and events. -/

namespace Sys2Proof.Machine

/-- An element as the array holds it (R89), finite magnitudes in units of 2^-140. -/
inductive Mx where
  | fin (neg : Bool) (m : Nat)
  | inf (neg : Bool)
  | nan
  deriving DecidableEq, Repr

/-- An element from a number (R89). -/
def Mx.ofNum (x : Num) : Mx :=
  match x with
  | .fin s m e => .fin s (m * 2 ^ (e + 140).toNat)
  | .inf s => .inf s
  | .nan _ => .nan
/-- An element from a code of a format and its block scale (R88, R89, R356): 0 TF8, 1 TF6, 2 FP16, 3 BF16. In a block of
scale 0x80 every element is NaR, an absent one of R360 too (log entry 82). -/
def Mx.ofCode (fmt code : Nat) (scale : Byte) : Mx :=
  match fmt with
  | 2 => Mx.ofNum (fp16.num code)
  | 3 => Mx.ofNum (bf16.num code)
  | _ =>
    if scale = 0x80 then .nan
    else
      match (if fmt = 0 then tfDecode code 8 1 else tfDecode (code % 64) 6 0) with
      | none => .nan
      | some (s, m, e) => .fin s (m * 2 ^ (e + scale.toInt + 140).toNat)
/-- Whether an element is finite. -/
def Mx.isFin (x : Mx) : Bool := match x with | .fin _ _ => true | _ => false
/-- The value of a finite element in units of 2^-140. -/
def Mx.int (x : Mx) : Int := match x with | .fin s m => if s then -(m : Int) else m | _ => 0
/-- The sign of an element. -/
def Mx.neg (x : Mx) : Bool := match x with | .fin s _ => s | .inf s => s | .nan => false
/-- A product (R91): 0 × ∞ is NaN; a finite product in units of 2^-280. -/
def Mx.mul (x y : Mx) : Mx :=
  match x, y with
  | .fin s m, .fin t n => .fin (s != t) (m * n)
  | .nan, _ => .nan
  | _, .nan => .nan
  | .fin s m, .inf t => if m = 0 then .nan else .inf (s != t)
  | .inf s, .fin t n => if n = 0 then .nan else .inf (s != t)
  | .inf s, .inf t => .inf (s != t)
/-- The products of a row of A and a column of B. -/
def products (row col : List Mx) : List Mx := List.zipWith Mx.mul row col
/-- F(i, j): the exact sum of the finite products (R365). -/
def finSum (ps : List Mx) : Int := ps.foldl (fun z p => z + p.int) 0
/-- The chunk sum S from the products and the adder's finite sum (R91). -/
def chunkSum (ps : List Mx) (f : Int) : Num :=
  let infs := ps.filter fun p => match p with | .inf _ => true | _ => false
  if ps.any fun p => p == .nan then .nan false
  else
    match infs with
    | p :: qs => if qs.any fun q => q.neg != p.neg then .nan false else .inf p.neg
    | [] => Num.ofInt f (-280) (ps.all fun p => p == .fin true 0)
/-- acc ← round(acc + S, FP32, RNE) (R92). -/
def accumulate (acc : Word) (x : Num) : Word :=
  let a := fp32.num acc.toNat
  BitVec.ofNat 32 (if a.isNan || x.isNan then fp32.qnan else (fp32.finish 0 (sumNums 0 [a, x])).1)

/-- Byte `i` of a beat. -/
def beatByte (b : BitVec 1024) (i : Nat) : Nat := (b.extractLsb' (8 * i) 8).toNat
/-- The code of A(i, k) in a chunk's beats (R356). -/
def aCode (fmt : Nat) (beats : List (BitVec 1024)) (i k : Nat) : Nat :=
  if fmt ≤ 1 then beatByte (beats.getD k 0) i
  else
    let b := beats.getD (2 * k + i / 64) 0
    beatByte b (2 * (i % 64)) + 256 * beatByte b (2 * (i % 64) + 1)
/-- The length of a code in bytes (R360). -/
def codeSize (fmt : Nat) : Nat := if fmt ≤ 1 then 1 else 2
/-- The block scale of position `k` of row or column `i` (R358, R361); 0 where there are none. -/
def scaleAt (scales : List Byte) (blk i k : Nat) : Byte := if blk = 0 then 0 else scales.getD (i * (32 / blk) + k / blk) 0
/-- The number of bits set in a mask. -/
def popWord (w : Nat) : Nat := ((List.range 32).filter fun k => w / 2 ^ k % 2 == 1).length
/-- The presence masks at the start of a chunk record (R360). -/
def recordMasks : Nat → List Byte → List Nat
  | 0, _ => []
  | n + 1, bs => leNat (bs.take 4) :: recordMasks n (bs.drop 4)
/-- The length of the chunk record at the start of some bytes (R360). -/
def recordLength (fmt : Nat) (bs : List Byte) : Nat :=
  (512 + codeSize fmt * ((recordMasks 128 bs).map popWord).foldl (· + ·) 0 + 15) / 16 * 16
/-- A column's codes from its mask and the codes stored: an absent element is +0 (R360). Answers the column and the codes left. -/
def columnCodes (fmt mask : Nat) : List Nat → List Byte → List Nat × List Byte
  | [], bs => ([], bs)
  | k :: ks, bs =>
    if mask / 2 ^ k % 2 = 1 then
      let (xs, left) := columnCodes fmt mask ks (bs.drop (codeSize fmt))
      (leNat (bs.take (codeSize fmt)) :: xs, left)
    else
      let (xs, left) := columnCodes fmt mask ks bs
      (0 :: xs, left)
/-- The columns of a chunk record (R360). -/
def recordColumns (fmt : Nat) : List Nat → List Byte → List (List Nat) × List Byte
  | [], bs => ([], bs)
  | m :: ms, bs =>
    let (c, left) := columnCodes fmt m (List.range 32) bs
    let (cs, left) := recordColumns fmt ms left
    (c :: cs, left)
/-- Skip chunk records. -/
def skipRecords (fmt : Nat) : Nat → List Byte → List Byte
  | 0, bs => bs
  | n + 1, bs => skipRecords fmt n (bs.drop (recordLength fmt bs))
/-- The columns of codes of chunk `c` of a stored image (R360). -/
def WeightSlot.columns (w : WeightSlot) (c : Nat) : List (List Nat) :=
  let bs := skipRecords w.fmt c (w.image.drop 128)
  (recordColumns w.fmt (recordMasks 128 bs) (bs.drop 512)).1
/-- Whether a chunk record is well formed: zero padding, and TF6 codes below 64 (R360). -/
def recordGood (fmt : Nat) (bs : List Byte) : Bool :=
  let (cols, left) := recordColumns fmt (recordMasks 128 bs) (bs.drop 512)
  let used := 512 + (bs.length - 512 - left.length)
  (left.take (recordLength fmt bs - used)).all (· == 0) && (fmt != 1 || cols.all fun c => c.all fun x => decide (x < 64))
/-- Whether `n` chunk records fill the bytes exactly, each well formed (R360). -/
def recordsGood (fmt : Nat) : Nat → List Byte → Bool
  | 0, bs => bs.isEmpty
  | n + 1, bs => decide (recordLength fmt bs ≤ bs.length) && recordGood fmt (bs.take (recordLength fmt bs)) &&
      recordsGood fmt n (bs.drop (recordLength fmt bs))
/-- Whether the header of a weight image is well formed (R359, R360). -/
def headerGood (h : List Byte) : Bool :=
  let x := leNat h
  field x 0 4 == 0x31425757 && decide (field x 4 1 ≤ 3) && field x 5 3 == 0 && decide (1 ≤ field x 8 4) && decide (field x 8 4 ≤ 511) &&
  field x 12 4 % 16 == 0 && decide (128 ≤ field x 12 4) && decide (field x 12 4 ≤ 262144) && field x 16 112 == 0

/-- The number of an accepted format block's field. -/
def Array.fmtField (a : Array) (off n : Nat) : Nat := match a.fmt with | some b => field b.toNat off n | none => 0
/-- Whether a format block keeps the table of R243. -/
def fmtGood (b : BitVec 256) : Bool :=
  let x := b.toNat
  let narrow (f : Nat) : Bool := decide (f ≤ 1)
  let af := field x 0 1
  let bf := field x 1 1
  let blk := field x 2 1
  decide (af ≤ 3) && decide (bf ≤ 3) && decide (field x 3 1 ≤ 2) && decide (field x 4 4 ≤ 3) && field x 24 8 == 0 &&
  ((narrow af && narrow bf && (blk == 16 || blk == 32)) || (!narrow af && af == bf && blk == 0 && field x 4 4 == 0))
/-- The beats that a chunk takes under the accepted format (R356). -/
def Array.chunkBeats (a : Array) : Nat := if a.fmtField 0 1 ≤ 1 then 32 else 64
/-- Whether the array lacks what a whole `mma` of a slot needs: a format, a valid slot of its B format (R244, R361). -/
def Array.mmaBarred (a : Array) (slot : Nat) : Bool :=
  a.fmt.isNone || (match a.slots[slot]? with
    | some w => !w.valid || (w.loading.isNone && w.fmt != a.fmtField 1 1)
    | none => true)
/-- The head command is over. -/
def Array.pop (a : Array) : Array := { a with cmds := a.cmds.tail, mmaDone := 0, burstTaken := false }
/-- The head `mma` is skipped (R244). -/
def Array.skip (a : Array) : Array := { a.pop with mmaskip := true }
/-- A cold array begins its filler (R364). -/
def Array.rampFrom (a : Array) (clk : Nat) : Array := if a.ramp = .cold then { a with ramp := .rampUp, idleFrom := clk } else a
/-- Whether the chunk at the head of the queue is ready (R357, R364). -/
def Array.chunkReady (a : Array) : Bool :=
  a.chunk.isNone && a.halted.isNone &&
  match a.cmds with
  | .mma t w n _ :: _ =>
    decide (a.mmaDone < n) && a.draining != some t && !a.mmaBarred w && decide (a.chunkBeats ≤ (a.queues.getD t []).length) &&
    (match a.slots[w]? with | some x => x.loading.isNone && decide (x.next < x.chunks) | none => false)
  | _ => false
/-- Whether a command keeps a later `mdrain` of a tile waiting (R363): one on the tile, a format, or another drain. -/
def Cmd.keepsDrain (t : Nat) (c : Cmd) : Bool :=
  match c with
  | .fmt _ => true
  | .mma t' _ _ _ => t' == t
  | .zero t' => t' == t
  | .drain _ => true
  | .wbld _ _ _ => false
  | .burst _ => false
/-- An `mdrain` begins to stream once the earlier commands on its tile are over, while those of other tiles go on (R363). -/
def Array.startDrain (a : Array) : Option Array :=
  let i := a.cmds.findIdx fun c => match c with | .drain _ => true | _ => false
  match a.cmds[i]? with
  | some (.drain t) =>
    if a.draining.isNone && (a.cmds.take i).all (fun c => !c.keepsDrain t) && (match a.chunk with | some c => c.tile != t | none => true) then
      some { a with cmds := a.cmds.eraseIdx i, draining := some t }
    else none
  | _ => none
/-- What the command at the head of the queue comes to at once, if it does (R244, R363, R364). What an `mdrain` that streams depends on
waits for its end. -/
def Array.headStep (a : Array) (clk : Nat) : Option Array :=
  if a.chunk.isSome || a.halted.isSome then none
  else
    match a.cmds with
    | .fmt b :: _ => if a.draining.isSome then none else some (if fmtGood b then { a.pop with fmt := some b } else { a.pop with fmtrej := true })
    | .zero t :: _ =>
      let here (k : Nat) : Bool := k / 16384 == t
      if a.draining = some t then none
      else some { a.pop with
        tiles := a.tiles.filter fun (p : Nat × Word) => !here p.1
        tilePoison := a.tilePoison.filter fun (p : Nat × Bool) => !here p.1
        kc := a.kc.set t 0 }
    | .burst n :: _ => some (if n = 0 then a.pop else { a.pop.rampFrom clk with burst := n })
    | .wbld w addr pc :: _ =>
      match a.slots[w]? with
      | some x =>
        if x.loading.isSome then none
        else some { a.pop with slots := a.slots.set w { WeightSlot.empty with valid := true, loading := some (addr, pc) } }
      | none => some a.pop
    | .mma t w n _ :: _ =>
      if a.ramp = .cold then some (a.rampFrom clk)
      else if n ≤ a.mmaDone then some a.pop
      else if a.draining = some t then none
      else
        match a.slots[w]? with
        | none => some a.skip
        | some x =>
          if a.fmt.isNone || !x.valid then some a.skip
          else if x.loading.isSome then none
          else if a.mmaBarred w || x.chunks ≤ x.next then some a.skip
          else none
    | .drain _ :: _ => none
    | [] => none
/-- Commands that take effect at once do so, in order. -/
def Array.runHeads (a : Array) (clk : Nat) : Nat → Array
  | 0 => a
  | n + 1 => match a.startDrain.or (a.headStep clk) with | some a' => a'.runHeads clk n | none => a
/-- The state after the array of a gang has gone as far as it goes at once. -/
def State.kick (s : State) (gang : Nat) : State := s.updArray gang fun a => a.runHeads s.clk (2 * a.cmds.length + 2)

/-- The resident gang that a cluster's array serves (R355). -/
def State.arrayGang (s : State) (cluster : Nat) : Option (Nat × Gang × Array) :=
  s.gangs.findSome? fun (p : Nat × Gang) =>
    if p.2.cluster = cluster && (match p.2.residency with | .resident => true | .leaving => true | _ => false) then
      p.2.array.map fun a => (p.1, p.2, a)
    else none

/-- A command joins the queue of the current team's array, or its path blocks while the queue is full (R244). -/
def State.command (s : State) (t : Team) (c : Cmd) : Res :=
  match s.arrayOf t with
  | some a =>
    if a.queued.length < 16 then .done ((s.updArray t.gang fun a => { a with cmds := a.cmds ++ [c] }).kick t.gang)
    else .block s .commandRoom
  | none => .done s
/-- MFMT (R243): the block is read at issue; a poisoned block is rejected (R442). -/
def execMfmt (a : RegNo) (s : State) : Host.Outcome State Fault Refusal :=
  slot (.mfmt a) (fun r t s =>
    if !condHolds s s.cur t .commandRoom then .block s .commandRoom
    else
      let addr := r.S64 a.toNat
      match firstBad [(noLane, addr)] 32 with
      | some (c, l, x) => .trap c l x
      | none =>
        match genericMany t s .read false [(noLane, [addr])] fun s _ xs =>
            match xs with
            | (_, k) :: _ =>
              (match s.teamLoad t addr 32 k with
                | (s, some x) => .ok s ((List.range 8).map fun i => ⟨.s, i, 0, BitVec.ofNat 32 (x / 2 ^ (32 * i))⟩) 0
                | (s, none) => .ok s [⟨.s, 0, 0, 0xFFFFFFFF⟩] 0)
            | [] => .ok s [] 0 with
        | .all s ws _ => s.command t (.fmt (BitVec.ofNat 256 (leNat (ws.flatMap fun w => wordBytes w.val))))
        | x => x.toLoad 9) s
/-- WBLD (R244): only the address itself is checked at issue (R362). -/
def execWbld (d a : RegNo) (s : State) : Host.Outcome State Fault Refusal :=
  slot (.wbld d a) (fun r t s =>
    let addr := r.S64 a.toNat
    match addrCheck addr 128 with
    | some c => .trap c noLane addr
    | none => s.command t (.wbld d.toNat addr t.pc)) s
/-- MMA (R244). -/
def execMma (d a : RegNo) (n : Selr) (s : State) : Host.Outcome State Fault Refusal :=
  slot (.mma d a n) (fun r t s => s.command t (.mma d.toNat a.toNat (r.selr n 7) t.pc)) s
/-- MZERO (R244). -/
def execMzero (d : RegNo) (s : State) : Host.Outcome State Fault Refusal :=
  slot (.mzero d) (fun _ t s => s.command t (.zero d.toNat)) s
/-- MDRAIN (R244). -/
def execMdrain (d : RegNo) (s : State) : Host.Outcome State Fault Refusal :=
  slot (.mdrain d) (fun _ t s => s.command t (.drain d.toNat)) s
/-- MBURST (R244). -/
def execMburst (n : Selr) (s : State) : Host.Outcome State Fault Refusal :=
  slot (.mburst n) (fun r t s => s.command t (.burst (r.selr n 7))) s
/-- The status that `mwait` writes (R246). -/
def Array.status (a : Array) : Word := BitVec.ofNat 32 (a.corr + 256 * bit a.fmtrej + 512 * bit a.wblderr + 1024 * bit a.mmaskip)
/-- MWAIT (R246). -/
def execMwait (d : RegNo) (s : State) : Host.Outcome State Fault Refusal :=
  slot (.mwait d) (fun _ t s =>
    match s.arrayOf t with
    | none => .later s 13 (.values (uniWrite d 0) 0)
    | some a =>
      if !a.idle then .block s .arrayIdle
      else .later (s.updArray t.gang fun a => { a with corr := 0, fmtrej := false, wblderr := false, mmaskip := false }) 13
        (.values (uniWrite d a.status) 0)) s

/-- What a read of an array for its `ctl` team comes to. -/
inductive ArrayRead where
  | bytes (bs : List Byte)
  /-- a trap outcome or poison -/
  | bad
  | fault (va kind level : Nat) (entry : DWord)
/-- The unit of a cluster's control core, through which the array reads for its `ctl` team (R264, R358, R362). -/
def ctlUnit (cluster : Nat) : Option Nat := some (unitOf cluster 4)
/-- Read bytes for an array (R358, R362). -/
def State.arrayRead (s : State) (cluster ctx va n : Nat) : ArrayRead :=
  match s.barsVia (ctlUnit cluster) ctx va n .read with
  | some (p, .fault k l e) => .fault p k l e
  | some _ => .bad
  | none =>
    match s.readVia (ctlUnit cluster) ctx va n with
    | .ok bs => if s.poisonVia (ctlUnit cluster) ctx va n then .bad else .bytes bs
    | .error _ => .bad
/-- The array of a gang halts on a page fault (R362). -/
def State.arrayFault (s : State) (gang : Nat) (g : Gang) (va kind level : Nat) (entry : DWord) (pc : Word) : State :=
  let (s, sn) := s.pageFault g.ctx (.array gang) (BitVec.ofNat 64 va) kind level 0 0 (2 ^ 14 + 16 * g.cluster) pc entry
  s.updArray gang fun a => { a with halted := some sn }
/-- The reads of two runs of scale bytes (R358, R361), each in two pieces where the first wraps in its 2^20 bytes. -/
def scaleReads (a : Array) (t w slotChunk : Nat) : List (Nat × Nat) × List (Nat × Nat) :=
  let blk := a.fmtField 2 1
  let n := if blk = 0 then 0 else 128 * (32 / blk)
  let aOff := (a.kc.getD t 0) * n % 2 ^ 20
  let aBase := a.fmtField 8 8 + t * 2 ^ 20
  (if a.fmtField 4 1 % 2 = 1 then [(aBase + aOff, n)] else [],
   if a.fmtField 4 1 / 2 % 2 = 1 then [(a.fmtField 16 8 + w * 2 ^ 20 + slotChunk * n, n)] else [])
/-- Several reads of an array one after another. -/
def State.arrayReads (s : State) (cluster ctx : Nat) : List (Nat × Nat) → ArrayRead
  | [] => .bytes []
  | (va, n) :: rs =>
    match s.arrayRead cluster ctx va n with
    | .bytes bs => match s.arrayReads cluster ctx rs with | .bytes cs => .bytes (bs ++ cs) | e => e
    | e => e

/-- MATRIX CHUNK START (R357, R358, R361, R364, R373): the chunk's beats leave the queue and its scales are read; a scale that
cannot be read ends the `mma`, or halts the array. -/
def execMatrixChunkStart (cluster : Nat) (s : State) : Host.Outcome State Fault Refusal :=
  .next (match s.arrayGang cluster with
    | none => s
    | some (id, g, a) =>
      if !a.chunkReady || a.ramp = .cold || a.ramp = .rampUp then s
      else
        match a.cmds with
        | .mma t w _ pc :: _ =>
          let x := a.slots.getD w WeightSlot.empty
          let (ra, rb) := scaleReads a t w x.next
          match s.arrayReads cluster g.ctx ra, s.arrayReads cluster g.ctx rb with
          | .bytes sa, .bytes sb =>
            let s := (ra ++ rb).foldl (fun (s : State) x => s.touchVia (ctlUnit cluster) g.ctx x.1 x.2 .read) s
            let key := clusterReg cluster 0x58
            let inj := s.winReg g.ctx key
            let meets := inj.getLsbD 63 && (inj.extractLsb' 46 2).toNat == t
            let after := s.winReg g.ctx (clusterReg cluster 0x5C)
            let s := if meets && after != 0 then s.setReg g.ctx (clusterReg cluster 0x5C) (after - 1) else s
            let q := a.queues.getD t []
            s.updArray id fun a => { a with
              queues := a.queues.set t (q.drop a.chunkBeats)
              ramp := .active
              burst := if a.burstTaken then a.burst else a.burst - 1
              burstTaken := true
              chunk := some ⟨t, w, a.mmaDone, x.next, (q.take a.chunkBeats).map (·.1), sa, sb, s.clk,
                if meets && after == 0 then some inj else none, false⟩ }
          | .fault va k l e, _ => s.arrayFault id g va k l e pc
          | _, .fault va k l e => s.arrayFault id g va k l e pc
          | _, _ => (s.updArray id Array.skip).kick id
        | _ => s)

/-- A flip of an adder bit (R373). -/
def flipAdder (f : Int) (b : Nat) : Int := (BitVec.ofInt 592 f ^^^ (1#592 <<< b)).toInt
/-- The checksums of a chunk (R365): mismatching rows and columns, and the corrected value for element (i, j). -/
structure Checked where
  rows : List Nat
  cols : List Nat
  deriving DecidableEq, Repr
/-- The sum of a list of integers. -/
def sumInts (zs : List Int) : Int := zs.foldl (· + ·) 0
/-- The rows of A or columns of B that are not exempt (R365). -/
def notExempt (xs : List (List Mx)) : List Nat :=
  (List.range 128).filter fun i => (xs.getD i []).all Mx.isFin
/-- Compare the checks of a chunk (R365): rows of A, columns of B, and the adder's sums F. -/
def checkChunk (as bs : List (List Mx)) (f : Nat → Nat → Int) : Checked :=
  let ri := notExempt as
  let cj := notExempt bs
  let at_ (xs : List (List Mx)) (i k : Nat) : Int := ((xs.getD i []).getD k .nan).int
  let bSum := (List.range 32).map fun k => sumInts (cj.map fun j => at_ bs j k)
  let aSum := (List.range 32).map fun k => sumInts (ri.map fun i => at_ as i k)
  ⟨ri.filter fun i => sumInts (cj.map fun j => f i j) != sumInts ((List.range 32).map fun k => at_ as i k * bSum.getD k 0),
   cj.filter fun j => sumInts (ri.map fun i => f i j) != sumInts ((List.range 32).map fun k => aSum.getD k 0 * at_ bs j k)⟩
/-- The row check of row i less the other elements of the row (R366). -/
def correctedValue (as bs : List (List Mx)) (f : Nat → Nat → Int) (i j : Nat) : Int :=
  let cj := notExempt bs
  let at_ (xs : List (List Mx)) (i k : Nat) : Int := ((xs.getD i []).getD k .nan).int
  sumInts ((List.range 32).map fun k => at_ as i k * sumInts (cj.map fun j => at_ bs j k)) -
    sumInts ((cj.filter (· != j)).map fun j => f i j)
/-- The rows of A of a chunk (R356, R358). -/
def Array.chunkRows (a : Array) (c : Chunk) : List (List Mx) :=
  (List.range 128).map fun i => (List.range 32).map fun k =>
    Mx.ofCode (a.fmtField 0 1) (aCode (a.fmtField 0 1) c.beats i k) (scaleAt c.aScales (a.fmtField 2 1) i k)
/-- The columns of B of a chunk (R360, R361). -/
def Array.chunkColumns (a : Array) (c : Chunk) : List (List Mx) :=
  ((a.slots.getD c.slot WeightSlot.empty).columns c.slotChunk).mapIdx fun j codes =>
    codes.mapIdx fun k code => Mx.ofCode (a.fmtField 1 1) code (scaleAt c.bScales (a.fmtField 2 1) j k)
/-- The chunk is added to its tile: `f` gives the adder's sums (R92, R358). A poisoned word stays poisoned (R368). -/
def Array.addChunk (a : Array) (c : Chunk) (as bs : List (List Mx)) (f : Nat → Nat → Int) : Array :=
  let tiles := (List.range 128).foldl (fun (m : SMap Word) i => (List.range 128).foldl (fun (m : SMap Word) j =>
    let key := 16384 * c.tile + 128 * i + j
    m.set 0 key (accumulate (m.get 0 key) (chunkSum (products (as.getD i []) (bs.getD j [])) (f i j)))) m) a.tiles
  { a with
    tiles := tiles, kc := a.kc.modify c.tile (· + 1), chunk := none, mmaDone := a.mmaDone + 1
    slots := a.slots.modify c.slot fun w => { w with next := w.next + 1 } }
/-- A chunk has ended (R364). -/
def Array.afterChunk (a : Array) (clk : Nat) : Array :=
  let a := a.runHeads clk (2 * a.cmds.length + 2)
  { a with ramp := if a.chunkReady then .active else .rampDown, idleFrom := clk }
/-- MATRIX CHUNK END (R365 to R367, R371 to R373): an injection is made, the checks compared, and the chunk added, corrected
or held. -/
def execMatrixChunkEnd (cluster : Nat) (s : State) : Host.Outcome State Fault Refusal :=
  .next (match s.arrayGang cluster with
    | none => s
    | some (id, g, a) =>
      match a.chunk with
      | none => s
      | some c =>
        if c.stopped then s
        else
          let as := a.chunkRows c
          let bs := a.chunkColumns c
          let f0 (i j : Nat) : Int := finSum (products (as.getD i []) (bs.getD j []))
          let hits : List (Nat × Nat × Nat) := match c.inject with
            | none => []
            | some v =>
              let row := (v.extractLsb' 39 7).toNat
              let col := (v.extractLsb' 32 7).toNat
              let b := (v.extractLsb' 12 10).toNat
              (row, col, b) :: (if v.getLsbD 62 then [((row + 1) % 128, (col + 1) % 128, b)] else [])
          let key := clusterReg cluster 0x58
          let s := match c.inject with
            | some v => if s.winReg g.ctx key = v then s.setReg g.ctx key (v &&& 0x7FFFFFFFFFFFFFFF#64) else s
            | none => s
          let f (i j : Nat) : Int :=
            match hits.find? fun h => h.1 == i && h.2.1 == j with | some h => flipAdder (f0 i j) h.2.2 | none => f0 i j
          let x := checkChunk as bs f
          match x.rows, x.cols with
          | [], [] => s.updArray id fun a => (a.addChunk c as bs f).afterChunk s.clk
          | [i], [j] =>
            let v := correctedValue as bs f i j
            (s.updArray id fun a => ({ a with corr := min 255 (a.corr + 1) }.addChunk c as bs fun i' j' =>
              if i' = i && j' = j then v else f i' j').afterChunk s.clk).bumpReg g.ctx (clusterReg cluster 0x48) 48 16
          | [_], [] => (s.updArray id fun a => (a.addChunk c as bs f).afterChunk s.clk).bumpReg g.ctx (clusterReg cluster 0x48) 32 16
          | [], [_] => (s.updArray id fun a => (a.addChunk c as bs f).afterChunk s.clk).bumpReg g.ctx (clusterReg cluster 0x48) 32 16
          | rows, cols =>
            ((s.updArray id fun a => { a with
              chunk := some { c with stopped := true, inject := none }, trapDue := some (c.tile, c.index) }).bumpReg g.ctx
                (clusterReg cluster 0x48) 16 16).setReg g.ctx (clusterReg cluster 0x50)
              (fld 63 1 1 ||| fld 61 2 c.tile ||| fld 47 14 c.index ||| fld 44 3 c.slot ||| fld 36 8 (min 255 rows.length) |||
                fld 28 8 (min 255 cols.length) ||| fld 21 7 (rows.headD 0) ||| fld 14 7 (cols.headD 0)))

/-- A slot whose load has failed (R244, R362). -/
def Array.loadFailed (a : Array) (w : Nat) : Array := { a with slots := a.slots.set w WeightSlot.empty, wblderr := true }
/-- WEIGHT LOAD END (R359, R360, R362). -/
def execWeightLoadEnd (cluster slot : Nat) (s : State) : Host.Outcome State Fault Refusal :=
  .next (match s.arrayGang cluster with
    | none => s
    | some (id, g, a) =>
      match (a.slots[slot]?).bind (·.loading) with
      | none => s
      | some (addr, pc) =>
        if a.halted.isSome then s
        else
          match s.arrayRead cluster g.ctx addr.toNat 128 with
          | .fault va k l e => s.arrayFault id g va k l e pc
          | .bad => (s.updArray id fun a => a.loadFailed slot).kick id
          | .bytes h =>
            let s := s.touchVia (ctlUnit cluster) g.ctx addr.toNat 128 .read
            if !headerGood h then (s.updArray id fun a => a.loadFailed slot).kick id
            else
              match s.arrayRead cluster g.ctx addr.toNat (field (leNat h) 12 4) with
              | .fault va k l e => s.arrayFault id g va k l e pc
              | .bad => (s.updArray id fun a => a.loadFailed slot).kick id
              | .bytes img =>
                let s := s.touchVia (ctlUnit cluster) g.ctx addr.toNat (field (leNat h) 12 4) .read
                let fmt := field (leNat h) 4 1
                let n := field (leNat h) 8 4
                if recordsGood fmt n (img.drop 128) then
                  (s.updArray id fun a => { a with slots := a.slots.set slot ⟨true, none, fmt, img, n, 0⟩ }).kick id
                else (s.updArray id fun a => a.loadFailed slot).kick id)

/-- An element of a tile in the drain format (R244): FP32, FP16 or BF16. -/
def drainCode (drain : Nat) (x : Word) : Nat :=
  match drain with
  | 0 => x.toNat
  | 1 => (fp16.pack 0 (fp32.num x.toNat)).1
  | _ => (bf16.pack 0 (fp32.num x.toNat)).1
/-- The keys of the elements in word `p` of beat `i` of a drain (R244). -/
def drainKeys (drain tile i p : Nat) : List Nat :=
  if drain = 0 then [16384 * tile + 128 * (i / 4) + 32 * (i % 4) + p]
  else [16384 * tile + 128 * (i / 2) + 64 * (i % 2) + 2 * p, 16384 * tile + 128 * (i / 2) + 64 * (i % 2) + 2 * p + 1]
/-- Beat `i` of a drain with its poison (R244, R368). -/
def Array.beatOf (a : Array) (tile i : Nat) : BitVec 1024 × Word :=
  let d := a.fmtField 3 1
  let word (p : Nat) : Nat := match drainKeys d tile i p with
    | [k] => (a.tiles.get 0 k).toNat
    | k :: k' :: _ => drainCode d (a.tiles.get 0 k) + 65536 * drainCode d (a.tiles.get 0 k')
    | [] => 0
  (BitVec.ofNat 1024 (leNat ((List.range 32).flatMap fun p => leBytes 4 (word p))),
   (List.range 32).foldl (fun (m : Word) p =>
     if (drainKeys d tile i p).any fun k => a.tilePoison.get false k then m ||| (1#32 <<< p) else m) 0)
/-- Whether the drain that streams can push a beat (R244). -/
def Array.drainReady (a : Array) : Bool :=
  (match a.chunk with | some c => !c.stopped | none => true) && a.halted.isNone &&
  match a.draining with | some t => decide ((a.queues.getD (4 + t) []).length < 64) | none => false
/-- DRAIN BEAT (R244, R363). -/
def execDrainBeat (cluster : Nat) (s : State) : Host.Outcome State Fault Refusal :=
  .next (match s.arrayGang cluster with
    | none => s
    | some (id, _, a) =>
      if !a.drainReady then s
      else
        match a.draining with
        | some t =>
          let n := if a.fmtField 3 1 = 0 then 512 else 256
          (s.updArray id fun a =>
            let a := { a with queues := a.queues.modify (4 + t) fun l => l ++ [a.beatOf t a.drained], drained := a.drained + 1 }
            if n ≤ a.drained then { a with draining := none, drained := 0 } else a).kick id
        | none => s)

/-- RAMPUP END (R364). -/
def execRampupEnd (cluster : Nat) (s : State) : Host.Outcome State Fault Refusal :=
  .next (match s.arrayGang cluster with
    | some (id, _, a) =>
      if a.ramp = .rampUp then
        s.updArray id fun a => { a with ramp := if a.chunkReady then .active else .warm, idleFrom := s.clk }
      else s
    | none => s)
/-- RAMPDOWN END (R364). -/
def execRampdownEnd (cluster : Nat) (s : State) : Host.Outcome State Fault Refusal :=
  .next (match s.arrayGang cluster with
    | some (id, _, a) => if a.ramp = .rampDown then s.updArray id fun a => { a with ramp := .warm } else s
    | none => s)
/-- WARM TO COLD (R364). -/
def execWarmToCold (cluster : Nat) (s : State) : Host.Outcome State Fault Refusal :=
  .next (match s.arrayGang cluster with
    | some (id, _, a) => if a.ramp = .warm then (s.updArray id fun a => { a with ramp := .cold, burst := 0 }).kick id else s
    | none => s)
/-- MXA INJ (R373): an injection is armed in a cluster's array for a context. -/
def execMxaInj (ctx cluster : Nat) (value : DWord) (s : State) : Host.Outcome State Fault Refusal :=
  .next (s.setMxaInj ctx cluster value)

/-- The events of a cluster's array that are due (R357, R363, R364). -/
def State.arrayEvents (s : State) (cluster : Nat) : List Ev :=
  match s.arrayGang cluster with
  | none => []
  | some (_, _, a) =>
    let idle := s.clk - a.idleFrom
    (if a.chunkReady && a.ramp != .cold && a.ramp != .rampUp then [.matrixChunkStart cluster] else []) ++
    (match a.chunk with
      | some c => if !c.stopped && decide (c.start + a.chunkBeats ≤ s.clk) then [.matrixChunkEnd cluster] else []
      | none => []) ++
    ((List.range 8).filterMap fun w =>
      if ((a.slots[w]?).bind (·.loading)).isSome && a.halted.isNone then some (.weightLoadEnd cluster w) else none) ++
    (if a.drainReady then [.drainBeat cluster] else []) ++
    (if a.ramp = .rampUp && decide (48 ≤ idle) then [.rampupEnd cluster] else []) ++
    (if a.ramp = .rampDown && decide (32 ≤ idle) then [.rampdownEnd cluster] else []) ++
    (if a.ramp = .warm && a.chunk.isNone && decide ((if a.burst = 0 then 64 else 4096) ≤ idle) then [.warmToCold cluster] else [])

end Sys2Proof.Machine
end

