-- ==== Sys2Proof/Machine/Sched.lean ====
section
/-! DEFINITION. Launches (R326, R39), the dispatcher's choice and the placement of gangs (R327 to R329), requests to leave
(R341, R345, R350), and the save and restore of gangs (R280, R343, R346, R348, R349, R369). -/

namespace Sys2Proof.Machine

/-- A launch is rejected with a cause (R39, R493). -/
def State.launchError (s : State) (ctx seq cause : Nat) : State := s.raise ctx 2 [BitVec.ofNat 64 seq, BitVec.ofNat 64 cause]
/-- A GRID identifier that no live grid of the context has, sought from `start` on (R326). -/
def State.freeGrid (s : State) (ctx start : Nat) : Nat :=
  let n := 0xFFFFFE
  let live := (s.grids.filter fun (p : Nat × Grid) => p.2.ctx == ctx).map fun (p : Nat × Grid) => p.2.id
  (((List.range (live.length + 1)).map fun k => (start + k) % n).find? fun k => !live.contains k).getD 0
/-- A launch command is performed (R326). -/
def State.launch (s : State) (seq ctx kbase gangs tail prio : Nat) (param : DWord) (swap : Nat) : State :=
  match s.context? ctx with
  | none => s.launchError ctx seq 3
  | some c =>
    if kbase % 128 ≠ 0 || gangs = 0 || decide (2 ^ 24 < gangs) || decide (7 < prio) || param.toNat % 8 ≠ 0 || swap % 4096 ≠ 0 then
      s.launchError ctx seq 4
    else
      match s.readHeader ctx kbase with
      | .ok h =>
        if tail ≠ 0 && decide ((h.roles.headD ⟨0, 0, 0, 0, false, 0⟩).lanes ≤ tail) then s.launchError ctx seq 4
        else if !h.fitsEmpty then s.launchError ctx seq 2
        else
          let id := s.freeGrid ctx (Config.gridId s.tick % 0xFFFFFE)
          { s with
            tick := s.tick + 1, serial := s.serial + 1
            grids := s.grids.insert (gridKey ctx id)
              ⟨ctx, c.part, id, s.serial, prio, gangs, tail, param, swap, h.pref, h.fall, h.check, h.roles, h.kernel, 0, 0, false⟩ }
      | _ => s.launchError ctx seq 1

/-- What waits for a place: a gang that was swapped out, or the next gang of a grid (R327). -/
inductive Waiting where
  | saved (gang : Nat)
  | fresh (gr : Grid)
/-- The first of some gangs in the order in which they were swapped out. -/
def firstSaved (gs : List (Nat × Gang)) : Option Nat :=
  (gs.foldl (fun (best : Option (Nat × Nat)) (p : Nat × Gang) => match p.2.residency, best with
    | .saved o, some (_, o') => if o < o' then some (p.1, o) else best
    | .saved o, none => some (p.1, o)
    | _, _ => best) none).map (·.1)
/-- The swapped-out task gangs of a partition at a priority (R338). -/
def State.savedTasks (s : State) (part prio : Nat) : List (Nat × Gang) :=
  s.gangs.filter fun (p : Nat × Gang) => p.2.task && p.2.part == part && p.2.prio == prio && !p.2.here
/-- The swapped-out gangs of a grid. -/
def State.savedOf (s : State) (gr : Grid) : List (Nat × Gang) :=
  s.gangs.filter fun (p : Nat × Gang) => !p.2.task && p.2.ctx == gr.ctx && p.2.grid == gr.id && !p.2.here
/-- Whether a grid has a gang that waits (R327, R341). -/
def State.gridWaits (s : State) (gr : Grid) : Bool := decide (gr.nextGang < gr.gangs) || !(s.savedOf gr).isEmpty
/-- What the dispatcher of a partition places next at a priority (R327). -/
def State.nextAt (s : State) (part prio : Nat) : Option Waiting :=
  match firstSaved (s.savedTasks part prio) with
  | some g => some (.saved g)
  | none =>
    let grids := (s.grids.filter fun (p : Nat × Grid) => p.2.part == part && p.2.prio == prio && s.gridWaits p.2).map (·.2)
    (grids.foldl (fun (m : Option Grid) g => match m with | some x => if g.order < x.order then some g else m | none => some g) none).map
      fun gr => match firstSaved (s.savedOf gr) with | some g => .saved g | none => .fresh gr
/-- What the dispatcher of a partition places next, with its priority (R327). -/
def State.nextWaiting (s : State) (part : Nat) : Option (Nat × Waiting) :=
  [7, 6, 5, 4, 3, 2, 1, 0].findSome? fun p => (s.nextAt part p).map fun w => (p, w)

/-- The needs of a saved gang's crews: those of the teams that it still has. -/
def State.savedNeeds (s : State) (gang i : Nat) : Needs :=
  (s.teams.filter fun (p : Nat × Team) => p.2.gang == gang && p.2.crew == i && !p.2.isCtl).map fun (p : Nat × Team) =>
    (rowsOf p.2.lanes p.2.vregs, p.2.sregs)
/-- Where a waiting gang can be placed: its size, cluster and base core (R329, R346). -/
def State.spot (s : State) (p : Partition) (w : Waiting) : Option (Nat × Nat × Nat) :=
  match w with
  | .fresh gr =>
    let try_ (m : Nat) : Option (Nat × Nat × Nat) :=
      (s.spotFor p m (needsOf (postsOf gr.roles m)) gr.kernel.scratch gr.kernel.hasCtl).map fun x => (m, x.1, x.2)
    (try_ gr.pref).or (try_ gr.fall)
  | .saved g =>
    match s.gangs.find g with
    | some x => (s.spotFor p x.size (s.savedNeeds g) x.kernel.scratch x.kernel.hasCtl).map fun y => (x.size, y.1, y.2)
    | none => none
/-- What a partition's dispatcher can place now, with its place. -/
def State.placeable (s : State) (part : Nat) : Option (Waiting × Nat × Nat × Nat) :=
  match s.partitions.find part, s.nextWaiting part with
  | some p, some (_, w) => (s.spot p w).map fun x => (w, x)
  | _, _ => none
/-- GANG PLACEMENT (R327 to R331): the next waiting gang of the partition, if it is one that has never been placed. -/
def execGangPlacement (part : Nat) (s : State) : Host.Outcome State Fault Refusal :=
  .next (match s.placeable part with
    | some (.fresh gr, m, cluster, base) => s.placeGang gr m cluster base
    | _ => s)

/-- A gang is requested to leave (R341). -/
def State.request (s : State) (gang : Nat) : State :=
  match s.gangs.find gang with
  | none => s
  | some g =>
    match g.residency with
    | .resident =>
      let s := s.updGang gang fun g => { g with residency := .leaving, requested := some s.clk, stopFrom := none, timeoutSent := false }
      { s with teams := s.teams.map fun (p : Nat × Team) => if p.2.gang = gang then (p.1, { p.2 with spReq := true }) else p }
    | _ => s
/-- Whether something waits that a gang of class `swap` makes place for in turn (R40, R338, R341). -/
def State.gangAwaited (s : State) (g : Gang) : Bool :=
  if g.task then
    (s.gangs.any fun (p : Nat × Gang) => p.2.task && p.2.ctx == g.ctx && !p.2.here) ||
    (s.clusters.any fun (p : Nat × Cluster) => p.2.deck.any fun e => e.ctx == g.ctx)
  else match s.grids.find (gridKey g.ctx g.grid) with | some gr => s.gridWaits gr | none => false
/-- The state as it would be without some gangs. -/
def State.withoutGangs (s : State) (gs : List Nat) : State :=
  { s with gangs := s.gangs.filter fun (p : Nat × Gang) => !gs.contains p.1, teams := s.teams.filter fun (p : Nat × Team) => !gs.contains p.2.gang }
/-- Victims in order until enough are taken that the waiting gang has a place (R350). -/
def State.victims (s : State) (p : Partition) (w : Waiting) : List Nat → List Nat → Option (List Nat)
  | [], taken => if ((s.withoutGangs taken).spot p w).isSome then some taken else none
  | v :: vs, taken => if ((s.withoutGangs taken).spot p w).isSome then some taken else s.victims p w vs (taken ++ [v])
/-- The gangs that must leave so that the dispatcher's next gang can be placed (R350). -/
def State.preempted (s : State) (part : Nat) : List Nat :=
  match s.partitions.find part, s.nextWaiting part with
  | some p, some (prio, w) =>
    if (s.spot p w).isSome then []
    else
      let saved := match w with | .saved g => [g] | .fresh _ => []
      let here := s.gangs.filter fun (q : Nat × Gang) => q.2.here && q.2.part == part && !saved.contains q.1
      let leaving := (here.filter fun (q : Nat × Gang) => q.2.requested.isSome).map (·.1)
      let halted (g : Nat) : Bool := s.teams.any fun (q : Nat × Team) => q.2.gang == g && q.2.halt != 0
      let low := orderBy
        (fun (a b : Nat × Gang) => decide (a.2.prio < b.2.prio) || (a.2.prio == b.2.prio && decide (b.2.placedClk ≤ a.2.placedClk)))
        (here.filter fun (q : Nat × Gang) => q.2.requested.isNone && decide (q.2.prio < prio) && !halted q.1)
      match s.victims p w (low.map (·.1)) leaving with
      | some taken => taken.filter fun g => !leaving.contains g
      | none => []
  | _, _ => []
/-- The requests that the scheduler makes now (R341). -/
def State.requestsDue (s : State) : List Nat :=
  ((s.gangs.filter fun (p : Nat × Gang) => p.2.residency == .resident && !p.2.kernel.run &&
      decide (p.2.placedClk + 2 ^ 20 ≤ s.clk) && s.gangAwaited p.2).map (·.1)) ++
  (s.partitions.flatMap fun (p : Nat × Partition) => s.preempted p.1)
/-- PREEMPTION REQUEST (R341). -/
def execPreemptionRequest (gang : Nat) (s : State) : Host.Outcome State Fault Refusal := .next (s.request gang)

/-- The teams of a gang that have not reached their save routines (R345). -/
def State.late (s : State) (gang : Nat) : List Team :=
  (s.teams.filter fun (p : Nat × Team) => p.2.gang == gang && !p.2.saving && !p.2.gone && !p.2.ended).map (·.2)
/-- Whether the timeout of a gang's request is due (R345): a team has not reached its save routine, or a job holds the gang (R321). -/
def State.timeoutDue (s : State) (gang : Nat) (g : Gang) : Bool :=
  match g.requested with
  | some r =>
    !g.timeoutSent && decide (r + 600000 ≤ s.clk) &&
    !(s.teams.any fun (p : Nat × Team) => p.2.gang == gang && p.2.halt != 0 && p.2.halt != 6)
  | none => false
/-- PREEMPTION TIMEOUT (R345). -/
def execPreemptionTimeout (gang : Nat) (s : State) : Host.Outcome State Fault Refusal :=
  .next (match s.gangs.find gang with
    | none => s
    | some g =>
      if s.timeoutDue gang g then
        let mask := (s.late gang).foldl (fun (m : DWord) t => m ||| (1#64 <<< t.rindex)) 0
        (s.updGang gang fun g => { g with timeoutSent := true }).raise g.ctx 6 [BitVec.ofNat 64 g.grid, BitVec.ofNat 64 g.number, mask]
      else s)

/-- The record of a window (R280). -/
def Crew.record (c : Crew) : List Byte :=
  let n := c.scratch / 4
  ((List.range n).flatMap fun w => wordBytes (c.word w)) ++ bitBytes (n / 8) ((List.range n).map fun w => c.full.get false w)
/-- A barrier's entry of a barrier record (R348). -/
def Barrier.bytes (b : Barrier) : List Byte :=
  leBytes 4 (b.expect % 2 ^ 30 + 2 ^ 30 * bit (b.count != 0) + 2 ^ 31 * (b.count % 2)) ++ leBytes 4 b.arrived ++ wordBytes b.pend ++ wordBytes b.sum
/-- The places of a crew's records in a gang area: window and barriers. -/
def crewAreas (area scratch i : Nat) : Nat × Nat :=
  (area + i * crewRecord scratch, area + i * crewRecord scratch + crewRecord scratch - 256)
/-- A crew's window and barriers go to its gang's area, the window's poison with it (R280, R348, R440). -/
def State.saveCrew (s : State) (g : Gang) (i : Nat) (c : Crew) : State :=
  let (w, b) := crewAreas g.area g.kernel.scratch i
  let s := (s.devWrite g.ctx w (c.record ++ List.replicate (crewRecord c.scratch - 256 - c.scratch - c.scratch / 32) 0)).devWrite g.ctx b
    (c.barriers.flatMap Barrier.bytes)
  c.poison.foldl (fun (s : State) (p : Nat × Bool) => s.poisonAt none g.ctx (w + 4 * p.1) 4) s
/-- A beat as 128 bytes. -/
def beatBytes (b : BitVec 1024) : List Byte := leBytes 128 b.toNat
/-- A command's entry of a matrix record: its opcode, tile, slot, PC and the address or count (R369; the manual gives the size alone, log entry 53). -/
def Cmd.entry (c : Cmd) : List Byte :=
  let e (op tile slot : Nat) (pc : Word) (x : Nat) : List Byte := leBytes 1 op ++ leBytes 1 tile ++ leBytes 2 slot ++ wordBytes pc ++ leBytes 8 x
  match c with
  | .fmt _ => e 1 0 0 0 0
  | .wbld w a pc => e 2 0 w pc a.toNat
  | .mma t w n pc => e 3 t w pc n
  | .zero t => e 4 t 0 0 0
  | .drain t => e 5 t 0 0 0
  | .burst n => e 6 0 0 0 n
/-- A command from its entry; the block of an `mfmt` has no room in it and stays the one that the state keeps. -/
def Cmd.ofEntry (kept : Option Cmd) (n : Nat) : Option Cmd :=
  match field n 0 1 with
  | 1 => some (match kept with | some (.fmt b) => .fmt b | _ => .fmt 0)
  | 2 => some (.wbld (field n 2 2) (BitVec.ofNat 64 (field n 8 8)) (BitVec.ofNat 32 (field n 4 4)))
  | 3 => some (.mma (field n 1 1) (field n 2 2) (field n 8 8) (BitVec.ofNat 32 (field n 4 4)))
  | 4 => some (.zero (field n 1 1))
  | 5 => some (.drain (field n 1 1))
  | 6 => some (.burst (field n 8 8))
  | _ => none
/-- The STOPPED word of a matrix record: bit 31, with the chunk in bits 15:2 and the tile in bits 1:0. -/
def Array.stoppedWord (a : Array) : Nat :=
  match a.chunk with | some c => if c.stopped then 2 ^ 31 + 4 * (c.index % 16384) + c.tile % 4 else 0 | none => 0
/-- The state page of a matrix record (R369). -/
def Array.statePage (a : Array) : List Byte :=
  let pad (n : Nat) (bs : List Byte) : List Byte := bs ++ List.replicate (n - bs.length) 0
  pad 4096 (pad 0x100 (a.queued.flatMap Cmd.entry) ++ pad 0x20 (leBytes 4 a.queued.length) ++
    pad 0x20 (match a.fmt with | some f => leBytes 32 f.toNat | none => []) ++ pad 0x20 (a.kc.flatMap (leBytes 4)) ++
    pad 0x40 (a.slots.flatMap fun w => leBytes 4 (bit w.valid) ++ leBytes 4 w.next) ++ wordBytes a.status ++ leBytes 4 a.stoppedWord ++
    pad 0x18 (leBytes 4 a.burst) ++ a.queues.flatMap fun q => leBytes 4 q.length)
/-- The matrix record (R369): the state page, the tiles, the queues and the weight slots; poison goes with its words (R440). -/
def State.saveArray (s : State) (ctx at_ : Nat) (a : Array) : State :=
  let s := s.devWrite ctx at_ a.statePage
  let s := (List.range 65536).foldl (fun (s : State) k => s.devWrite ctx (at_ + 0x1000 + 4 * k) (wordBytes (a.tiles.get 0 k))) s
  let s := (a.queues.mapIdx fun q l => (q, l)).foldl (fun (s : State) x =>
    s.devWrite ctx (at_ + 0x41000 + 8192 * x.1) (x.2.flatMap fun b => beatBytes b.1)) s
  let s := (a.slots.mapIdx fun w x => (w, x)).foldl (fun (s : State) x =>
    s.devWrite ctx (at_ + 0x51000 + 262144 * x.1) x.2.image) s
  let marks := (a.tilePoison.map fun (p : Nat × Bool) => 0x1000 + 4 * p.1) ++ (a.queues.mapIdx fun q l => (q, l)).flatMap fun x =>
    (x.2.mapIdx fun i b => (i, b.2)).flatMap fun y =>
      ((List.range 32).filter fun k => y.2.getLsbD k).map fun k => 0x41000 + 8192 * x.1 + 128 * y.1 + 4 * k
  marks.foldl (fun (s : State) o => s.poisonAt none ctx (at_ + o) 4) s
/-- A part of a matrix record as it stands in memory, or what the state keeps of it where it cannot be read or is poisoned. -/
def State.recordPart {α : Type} (s : State) (ctx va n : Nat) (kept : α) (f : List Byte → α) : α :=
  match s.engineRead none ctx va n with | .bytes bs => f bs | _ => kept
/-- An array as its matrix record holds it (R369); a part that cannot be read stays what the state keeps. -/
def State.restoreArray (s : State) (ctx at_ : Nat) (a : Array) : Array :=
  let num (off n old : Nat) : Nat := s.recordPart ctx (at_ + off) n old leNat
  let tile (m : SMap Word) (k : Nat) : SMap Word :=
    s.recordPart ctx (at_ + 0x1000 + 4 * k) 4 m fun bs => m.set 0 k (BitVec.ofNat 32 (leNat bs))
  let cmd (k : Nat) : Option Cmd := s.recordPart ctx (at_ + 16 * k) 16 a.cmds[k]? fun bs => Cmd.ofEntry a.cmds[k]? (leNat bs)
  let beat (q i : Nat) (l : List (BitVec 1024 × Word)) : BitVec 1024 × Word :=
    let b := l.getD i (0, 0)
    s.recordPart ctx (at_ + 0x41000 + 8192 * q + 128 * i) 128 b fun bs => (BitVec.ofNat 1024 (leNat bs), b.2)
  let stopped := num 0x1A4 4 a.stoppedWord
  let status := num 0x1A0 4 a.status.toNat
  { a with
    cmds := (List.range (min 16 (num 0x100 4 a.cmds.length))).filterMap cmd
    fmt := a.fmt.map fun f => s.recordPart ctx (at_ + 0x120) 32 f fun bs => BitVec.ofNat 256 (leNat bs)
    kc := a.kc.mapIdx fun k old => num (0x140 + 4 * k) 4 old
    corr := status % 256, fmtrej := status / 256 % 2 == 1, wblderr := status / 512 % 2 == 1, mmaskip := status / 1024 % 2 == 1
    chunk := a.chunk.map fun c => { c with stopped := decide (2 ^ 31 ≤ stopped), tile := stopped % 4, index := stopped / 4 % 16384 }
    burst := num 0x1A8 4 a.burst % 256
    tiles := (List.range 65536).foldl tile a.tiles
    queues := a.queues.mapIdx fun q l => (List.range (min 64 (num (0x1C0 + 4 * q) 4 l.length))).map fun i => beat q i l
    slots := a.slots.mapIdx fun w x =>
      { x with
        valid := num (0x160 + 8 * w) 4 (bit x.valid) % 2 == 1, next := num (0x164 + 8 * w) 4 x.next
        image := s.recordPart ctx (at_ + 0x51000 + 262144 * w) x.image.length x.image id } }
/-- An array as it is kept while its gang is away: halted loads start again, an `mdrain` goes on where it was, and it starts COLD (R369). -/
def Array.away (a : Array) (clk : Nat) : Array := { a with cmds := a.queued, draining := none, halted := none, ramp := .cold, burst := a.burst, idleFrom := clk }
/-- Whether an array lets its gang be saved: no chunk runs, and no load but one that has halted (R369). -/
def Array.rests (a : Array) : Bool :=
  (match a.chunk with | some c => c.stopped | none => true) && (a.halted.isSome || a.slots.all fun w => w.loading.isNone)
/-- Whether a job that is not finished has a side in a gang's windows (R321). -/
def State.jobsIn (s : State) (gang : Nat) : Bool :=
  s.clusters.any fun (p : Nat × Cluster) => p.2.cards.any fun c => c.gang == some gang && (c.flag 3 || !c.formed)
/-- Whether nothing is on its way from the teams of a gang, nor seen by its cluster alone (R282, R343). -/
def State.gangQuiet (s : State) (gang : Nat) (g : Gang) : Bool :=
  s.traffic.all fun o => !o.seen.contains g.cluster && !s.teams.any fun (p : Nat × Team) => p.1 == o.team && p.2.gang == gang
/-- Whether a gang can be saved (R343). -/
def State.canSave (s : State) (gang : Nat) (g : Gang) : Bool :=
  g.residency == .leaving && s.gangQuiet gang g && s.teams.all (fun (p : Nat × Team) => p.2.gang != gang || p.2.gone) && !s.jobsIn gang &&
  g.crews.all (fun c => c.rb.wanted.isNone && c.rb.allow.isNone && c.rb.closing.isNone) && (match g.array with | some a => a.rests | none => true)
/-- The offset of a gang's matrix record in its area: behind the last team slot (R369). -/
def State.matrixAt (s : State) (g : Gang) : Nat :=
  match s.grids.find (gridKey g.ctx g.grid) with
  | some gr => g.area + gr.pref * crewRecord g.kernel.scratch + slotBytes (postsOf gr.roles gr.pref)
  | none => g.area
/-- GANG SAVE (R280, R343, R348, R369). -/
def execGangSave (gang : Nat) (s : State) : Host.Outcome State Fault Refusal :=
  .next (match s.gangs.find gang with
    | none => s
    | some g =>
      if !s.canSave gang g then s
      else
        let s := (g.crews.mapIdx fun i c => (i, c)).foldl (fun (s : State) x => s.saveCrew g x.1 x.2) s
        let s := match g.array with | some a => s.saveArray g.ctx (s.matrixAt g) a | none => s
        ({ s with serial := s.serial + 1 }.updGang gang fun g => { g with
          residency := .saved s.serial, requested := none, array := g.array.map fun (a : Array) => a.away s.clk }).admitSets)

/-- A window's words and bits from a record (R280). -/
def Crew.ofRecord (c : Crew) (bs : List Byte) : Crew :=
  let n := c.scratch / 4
  let words := leNat (bs.take c.scratch)
  let bits := leNat ((bs.drop c.scratch).take (c.scratch / 32))
  { c with
    window := (List.range n).foldl (fun (m : SMap Word) w => m.set 0 w (BitVec.ofNat 32 (words / 2 ^ (32 * w)))) []
    full := (List.range n).foldl (fun (m : SMap Bool) w => m.set false w (bits / 2 ^ w % 2 == 1)) [] }
/-- A barrier from its entry (R348); it keeps its count of phases where DONE and the phase bit agree with it. -/
def Barrier.ofBytes (b : Barrier) (bs : List Byte) : Barrier :=
  let e := leNat (bs.take 4)
  let done := e / 2 ^ 30 % 2
  let phase := e / 2 ^ 31 % 2
  ⟨e % 2 ^ 30, leNat ((bs.drop 4).take 4), BitVec.ofNat 32 (leNat ((bs.drop 8).take 4)), BitVec.ofNat 32 (leNat ((bs.drop 12).take 4)),
    if bit (b.count != 0) = done && b.count % 2 = phase then b.count else if done = 0 then 0 else 2 - phase⟩
/-- A crew's records as they stand in its gang's area; a record that cannot be read whole leaves what was saved. -/
def State.restoreCrew (s : State) (g : Gang) (i : Nat) (c : Crew) : Crew :=
  let (w, b) := crewAreas g.area g.kernel.scratch i
  let c := match s.engineRead none g.ctx w (c.scratch + c.scratch / 32) with | .bytes bs => c.ofRecord bs | _ => c
  match s.engineRead none g.ctx b 256 with
  | .bytes bs => { c with barriers := c.barriers.mapIdx fun k x => x.ofBytes ((bs.drop (16 * k)).take 16) }
  | _ => c
/-- Whether a control block holds a reserved value (R349); a `ctl` team has no LIVE bit. -/
def blockBad (t : Team) (n : Nat) : Bool :=
  field n 2 2 != 0 || field n 0x10 48 != 0 || field n 0x5C0 576 != 0 || decide (8 < field n 0xC 4 / 256 % 16) ||
  (List.range 4).any (fun k => field n (0x140 + 144 * k + 12) 4 != 0 || field n (0x380 + 144 * k + 8) 8 != 0) ||
  (!t.isCtl && field n 0xC0 128 == 0) || decide (2 ^ t.lanes ≤ field n 0xC0 128)
/-- The 144 bytes of record `k` of a control block from an offset. -/
def blockPart (n off k : Nat) : List Byte := leBytes 144 (field n (off + 144 * k) 144)
/-- A team as it is restored from its control block at a new seat (R346, R349). -/
def Team.restored (t : Team) (param : DWord) (cluster : Nat) (seat : Seat) (n restore clk : Nat) : Team :=
  let modes := field n 0xC 4
  let live : Mask := BitVec.ofNat 1024 (field n 0xC0 128)
  { Team.start t.ctx t.lanes t.isCtl t.kernel 0 param live with
    gang := t.gang, crew := t.crew, role := t.role, idx := t.idx, roleTeams := t.roleTeams, cluster := cluster
    core := seat.core, datapath := seat.datapath, rindex := seat.rindex, gangReg := t.gangReg, gridReg := t.gridReg, ident := t.ident
    prio := t.prio, vregs := t.vregs, sregs := t.sregs, saveBase := t.saveBase, taskSlot := t.taskSlot, taskFutures := t.taskFutures
    fmode := BitVec.ofNat 2 modes, fstat := BitVec.ofNat 5 (modes / 4), check := modes / 128 % 2 == 1, depth := modes / 256 % 16
    pc := BitVec.ofNat 32 restore + 4, placed := clk, lastIssue := clk, earliest := clk + clearTime t.kernel.scratch
    edits := t.edits, haltWanted := t.haltWanted
    reinstate := some ⟨BitVec.ofNat 1024 (field n 0x40 128), (List.range 4).map fun k => slotOfBytes (blockPart n 0x140 k),
      (List.range 4).map fun k => levelOfBytes (blockPart n 0x380 k), modes / 65536 % 8⟩ }
/-- Move a team to a seat. -/
def Team.seated (t : Team) (cluster : Nat) (seat : Seat) : Team :=
  { t with cluster := cluster, core := seat.core, datapath := seat.datapath, rindex := seat.rindex }
/-- A team of a restored gang starts its restore routine, or is removed as after a double trap (R346, R349). -/
def State.restoreTeam (s : State) (g : Gang) (id cluster : Nat) (seat : Seat) : State :=
  match s.teams.find id with
  | none => s
  | some t =>
    match s.devRead t.ctx (t.saveBase - 2048) 2048 with
    | .error _ => s.dropTeam id 2
    | .ok bs =>
      let n := leNat bs
      if blockBad t n then s.dropTeam id 2
      else
        let entry := s.devNat t.ctx (t.kernel.kbase + t.kernel.spTable + 8 * (field n 4 4 % 4096) + 4) 4
        let s := s.setTeam id (t.restored g.param cluster seat n entry s.clk)
        s.updCrew t.gang t.crew fun c => { c with rb := { c.rb with
          teams := c.rb.teams.map fun p => if p.1 = id then (id, p.2.seated cluster seat) else p } }
/-- An array as it is written back: a chunk that it has stopped on owes its trap again (R369). -/
def Array.back (a : Array) : Array :=
  match a.chunk with | some c => if c.stopped then { a with trapDue := some (c.tile, c.index) } else a | none => a
/-- Restore a saved gang on a cluster from core `base` on (R346). The L1s there hold no line older than what its teams have read or written elsewhere
(R268). -/
def State.restoreGang (s : State) (gang cluster base : Nat) : State :=
  match s.gangs.find gang with
  | none => s
  | some g =>
    let seats : List (Nat × Seat) := (List.range g.size).flatMap fun i =>
      let here := (s.teams.filter fun (p : Nat × Team) => p.2.gang == gang && p.2.crew == i)
      (((here.filter fun (p : Nat × Team) => !p.2.isCtl).map (·.1)).zip (s.seats cluster (base + i) (s.savedNeeds gang i) g.kernel.scratch)) ++
      ((here.filter fun (p : Nat × Team) => p.2.isCtl).map fun (p : Nat × Team) => (p.1, ⟨4, 0, 0⟩))
    let crews := g.crews.mapIdx fun i c => { s.restoreCrew g i c with core := base + i }
    let g' := { g with
      cluster := cluster, baseCore := base, crews := crews, residency := .resident, requested := none, timeoutSent := false, placedClk := s.clk
      array := g.array.map fun (a : Array) => (s.restoreArray g.ctx (s.matrixAt g) a).back }
    let s : State := { s with gangs := s.gangs.insert gang g' }
    let s := s.dropLines .l1 ((List.range g.size).map (fun i => unitOf cluster (base + i)) ++ [unitOf cluster 4]) g.ctx
    let s := seats.foldl (fun (s : State) x => s.restoreTeam g' x.1 cluster x.2) s
    let s := { s with partitions := match s.partitions.find g.part with
      | some p => s.partitions.insert g.part { p with lastPlaced := p.lastPlaced.set 0 (dieOfCluster cluster) (cluster + 1) }
      | none => s.partitions }
    (s.kick gang).admitSets
/-- GANG RESTORE (R327, R346): the dispatcher's next gang, if it is this one. -/
def execGangRestore (gang : Nat) (s : State) : Host.Outcome State Fault Refusal :=
  .next (match s.gangs.find gang with
    | none => s
    | some g =>
      match s.placeable g.part with
      | some (.saved k, _, cluster, base) => if k = gang then s.restoreGang gang cluster base else s
      | _ => s)

/-- The scheduler's events that are due. -/
def State.schedEvents (s : State) : List Ev :=
  (s.partitions.filterMap fun (p : Nat × Partition) => (s.placeable p.1).map fun x =>
    match x.1 with | .fresh _ => .gangPlacement p.1 | .saved g => .gangRestore g) ++
  (s.requestsDue.map .preemptionRequest) ++
  (s.gangs.flatMap fun (p : Nat × Gang) =>
    (if s.canSave p.1 p.2 then [.gangSave p.1] else []) ++ (if s.timeoutDue p.1 p.2 then [.preemptionTimeout p.1] else [])) ++
  (s.teams.filterMap fun (p : Nat × Team) => if s.teamEnds p.1 p.2 then some (.teamEnd p.1) else none) ++
  (s.grids.filterMap fun (p : Nat × Grid) => if p.2.over then some (.gridEnd p.2.ctx p.2.id) else none)

end Sys2Proof.Machine
end

