-- ==== Sys2Proof/Machine/Deck.lean ====
section
/-! DEFINITION. The decks (R240, R333 to R340): target entries, dispatch keys, the meaning of `spawn`, dispatch and stealing. -/

namespace Sys2Proof.Machine

/-- A task's kernel: its target's, of class `swap`, without roles and with the target's window (R333). -/
def Kernel.forTask (k : Kernel) (scratch : Nat) : Kernel := { k with run := false, hasCtl := false, scratch := scratch }
/-- Read target entry `x` of a context and the header that it names (R333). -/
def State.readTarget (s : State) (ctx x : Nat) : RecordRead Target :=
  match s.contexts.find ctx with
  | none => .bad
  | some c =>
    if c.tcount ≤ x then .bad
    else
      match s.engineRead none ctx (c.tgt + 32 * x) 32 with
      | .fault a k l e => .fault a k l e
      | .bytes bs =>
        let n := leNat bs
        if field n 8 4 % 16 ≠ 0 || !budgetOk (field n 0xC 1) || !budgetOk (field n 0xD 1) || decide (1 < field n 0xE 1) || field n 0xF 1 ≠ 0 ||
            field n 0x10 4 % 256 ≠ 0 || decide (262144 < field n 0x10 4) || field n 0x14 4 ≠ 0 then .bad
        else
          match s.readHeader ctx (field n 0 8) with
          | .fault a k l e => .fault a k l e
          | .bad => .bad
          | .ok h =>
            if field n 8 4 < 0x80 || decide (0x80 + h.kernel.codeSize ≤ field n 8 4) || !h.fitsEmpty then .bad
            else .ok ⟨h.kernel.forTask (field n 0x10 4), BitVec.ofNat 32 (field n 8 4), field n 0xC 1, field n 0xD 1, field n 0xE 1 == 1,
              BitVec.ofNat 64 (field n 0x18 8)⟩
      | _ => .bad

/-- The dispatch key of an entry (R335). -/
def DeckEntry.key (e : DeckEntry) (clk : Nat) : Int := e.stamp.toNat - 65536 * (min ((clk - e.enqueued) / 4096) 65535 : Nat)
/-- Entries in the order of their keys, earlier ones first among equals (R335). -/
def keyOrder (clk : Nat) (es : List DeckEntry) : List DeckEntry :=
  orderBy (fun (a b : DeckEntry) => decide (a.key clk < b.key clk) || (a.key clk == b.key clk && decide (a.enqueued ≤ b.enqueued))) es
/-- Put a new entry at the end of a cluster's deck. -/
def State.enqueue (s : State) (cluster : Nat) (e : DeckEntry) : State :=
  State.updCluster { s with serial := s.serial + 1 } cluster fun k => { k with deck := k.deck ++ [{ e with serial := s.serial }] }
/-- A deck entry's work can never be done: a task's future resolves to FAULTED; a continuation is discarded (R333). -/
def State.failEntry (s : State) (e : DeckEntry) : State :=
  match e.future with
  | some slot => if e.cont then s else s.completeFuture e.ctx 2 slot 2
  | none => s
/-- SPAWN (R240). -/
def execSpawn (d a b : RegNo) (s : State) : Host.Outcome State Fault Refusal :=
  slot (.spawn d a b) (fun r t s =>
    if t.depth = 8 then .trap 0x0F 0 0
    else
      match s.record32 t (r.S b.toNat) with
      | .error e => e
      | .ok (rec, poisoned) =>
        if poisoned then .stop (s.consumeHere 2 ((r.S b.toNat).setWidth 64))
        else if !condHolds s s.cur t .deckRoom then .block s .deckRoom
        else if s.overfull (.spawn d a b) then .block s (.scoreboard 1)
        else
          match s.newFuture t.ctx 2 with
          | none => .block s .deckRoom
          | some (s', slot, h) =>
            let x := (r.S a.toNat).toNat % 65536
            let words : List Word := (List.range 8).map fun k => rec.extractLsb' (32 * k) 32
            let count := match s.contexts.find t.ctx with | some c => c.tcount | none => 0
            let s' := if count ≤ x then (s'.completeFuture t.ctx 2 slot 2).raise t.ctx 7 [BitVec.ofNat 64 x]
              else s'.enqueue t.cluster ⟨t.ctx, x, words.headD 0, words, false, t.depth + 1, some slot, t.prio, s.clk, none, none, none, 0⟩
            if count ≤ x then .later s' 6 (.values [⟨.s, d.toNat, 0, 2⟩] 0)
            else .later (s'.updMe fun t => (t.dropFutures (Instr.spawn d a b).writes).landS d.toNat h) 6 .future) s

/-- The entries that a deck can dispatch or give away: not those that wait for a fault record or belong to a bin. -/
def Cluster.freeEntries (k : Cluster) : List DeckEntry := k.deck.filter fun e => e.held.isNone && e.bin.isNone
/-- What the deck dispatches next: a bin that has been formed and waits no more, else the lowest-key entry (R336, R338). -/
def Cluster.headEntry (k : Cluster) (clk : Nat) : Option DeckEntry :=
  match k.deck.find? fun e => e.bin.isSome && e.held.isNone with
  | some e => some e
  | none => (keyOrder clk k.freeEntries).head?
/-- The entries that may join an entry's bin, in key order, itself first (R336). -/
def Cluster.binOf (k : Cluster) (clk : Nat) (e : DeckEntry) : List DeckEntry :=
  match e.bin with
  | some n => k.deck.filter fun x => x.ctx == e.ctx && x.bin == some n
  | none => e :: (keyOrder clk k.freeEntries).filter fun x => x != e && x.ctx == e.ctx && x.target == e.target && x.depth == e.depth
/-- The cores of a cluster that can host a task team of `b` tasks of a target. -/
def State.hosts (s : State) (cluster b : Nat) (tg : Target) : List Nat :=
  if s.removing.contains cluster then []
  else (List.range 4).filter fun c => (s.coreFit cluster c [(b * tg.vregs, tg.sregs)] tg.kernel.scratch).isSome
/-- The largest number of tasks, at most `n`, that fit one team on some core (R336). -/
def State.binSize (s : State) (cluster : Nat) (tg : Target) : Nat → Nat
  | 0 => 0
  | n + 1 => if n + 1 ≤ 32 && decide ((n + 1) * tg.vregs ≤ 1536) && !(s.hosts cluster (n + 1) tg).isEmpty then n + 1 else s.binSize cluster tg n
/-- The bytes of a task slot for a team of `b` tasks (R338). -/
def taskArea (b : Nat) (tg : Target) : Nat :=
  let post : Post := ⟨0, 0, ⟨32 * b, 1, tg.vregs, tg.sregs, false, tg.entry⟩, 0⟩
  crewRecord tg.kernel.scratch + slotBytes [post] + (if tg.kernel.rollback then shadowSize tg.kernel.scratch 1 [post] else 0)
/-- The lowest free task slot of a context (R338). -/
def Context.freeTask (c : Context) : Option Nat := (List.range (min c.tpcount (c.taskSlots.length + 1))).find? fun k => !c.taskSlots.get false k
/-- Whether a swapped-out task team of an entry's priority waits for a place in its partition (R338). -/
def State.yieldsTo (s : State) (e : DeckEntry) : Bool :=
  match s.contexts.find e.ctx with
  | some c => !(s.savedTasks c.part e.prio).isEmpty
  | none => false
/-- Some entries leave a deck. -/
def State.takeEntries (s : State) (cluster : Nat) (es : List DeckEntry) : State :=
  (s.updCluster cluster fun k => { k with deck := es.foldl (fun d e => d.erase e) k.deck }).refillDeck cluster
/-- A bad target: entries leave the deck without a team, with one event (R333, R338). -/
def State.badTarget (s : State) (cluster ctx target : Nat) (es : List DeckEntry) : State :=
  (es.foldl State.failEntry (s.takeEntries cluster es)).raise ctx 7 [BitVec.ofNat 64 target]
/-- Entries wait in the deck for the answer to a fault record (R333, R338). -/
def State.holdEntries (s : State) (cluster ctx : Nat) (es : List DeckEntry) (bin : Option (Nat × Target)) (va kind level access : Nat) (entry : DWord) : State :=
  let (s, sn) := s.pageFault ctx (.deck cluster) (BitVec.ofNat 64 va) kind level access 3 cluster 0 entry
  s.updCluster cluster fun k => { k with deck := k.deck.map fun e => if es.contains e then { e with held := some sn, bin := bin } else e }
/-- The next task serial of a context, shared with no live team (R382). -/
def State.nextSerial (s : State) (ctx start : Nat) : Nat :=
  let live := (s.teams.filter fun (p : Nat × Team) => p.2.ctx == ctx && p.2.gridReg == BitVec.ofNat 32 taskGrid).map fun (p : Nat × Team) => p.2.gangReg.toNat
  (((List.range (live.length + 1)).map fun k => (start + k) % 2 ^ 24).find? fun k => !live.contains k).getD 0
/-- The vector registers of a task team at its start (R337): `vals` of task i in v1 up of lane group i. -/
def taskRegs (vregs : Nat) (es : List DeckEntry) (v : SMap Word) : SMap Word :=
  (es.mapIdx fun i e => (i, e)).foldl (fun (v : SMap Word) x =>
    (x.2.vals.mapIdx fun j w => (j + 1, w)).foldl (fun (v : SMap Word) y =>
      if y.1 < vregs then (List.range 32).foldl (fun (v : SMap Word) p => v.set 0 (1024 * y.1 + 32 * x.1 + p) y.2) v else v) v) v
/-- Place the team of a bin on a core (R336 to R339). Its start is an acquire of what started it (R264, R283). -/
def State.placeTask (s : State) (cluster core : Nat) (tg : Target) (slot : Nat) (es : List DeckEntry) : State :=
  match es, s.contexts.find (match es with | e :: _ => e.ctx | [] => 0) with
  | e :: _, some c =>
    let b := es.length
    let num := s.nextSerial e.ctx c.taskSerial
    let id := s.serial
    let area := c.tpool + slot * c.tpsize
    let g : Gang := { Gang.single tg.kernel none with
      ctx := e.ctx, part := c.part, grid := taskGrid, number := num, task := true, prio := e.prio, cluster := cluster, baseCore := core
      crews := [Crew.new core tg.kernel.scratch 1], placedClk := s.clk, area := area, param := tg.param }
    let seat := (s.seats cluster core [(b * tg.vregs, tg.sregs)] tg.kernel.scratch).headD ⟨core, 0, 0⟩
    let post : Post := ⟨0, 0, ⟨32 * b, 1, tg.vregs, tg.sregs, false, tg.entry⟩, 0⟩
    let t := Team.launched g id c.pkgIdx post tg.check tg.param (firstLanes (32 * b)) seat (area + crewRecord tg.kernel.scratch + 2048) s.clk
    let first := es.foldl (fun m x => max m (x.enqueued + 150)) 0
    let t := { t with
      v := taskRegs tg.vregs es t.v, depth := e.depth, taskSlot := some slot
      taskFutures := es.filterMap fun (x : DeckEntry) => if x.cont then none else x.future
      earliest := max s.clk first + clearTime tg.kernel.scratch }
    let t := (t.setS 2 (BitVec.ofNat 32 b)).setS 3 (BitVec.ofNat 32 e.target)
    let s : State := { s with serial := s.serial + 1, gangs := s.gangs.insert id g }
    let s := s.dropLines .l1 [unitOf cluster core] e.ctx
    let s := s.updContext e.ctx fun c => { c with taskSerial := (num + 1) % 2 ^ 24, taskSlots := c.taskSlots.set false slot true }
    let s := (es.filterMap fun (x : DeckEntry) => if x.cont then none else x.future).foldl (fun (s : State) k =>
      s.updFuture e.ctx 2 k fun f => { f with started := true }) s
    (((s.takeEntries cluster es).addTeams [t]).firstShadow id).writeBlocks id 1
  | _, _ => s
/-- The tasks that a deck puts into one team at its next dispatch, with a core that hosts them (R336): none where no core does. -/
def State.binFor (s : State) (cluster : Nat) (k : Cluster) (e : DeckEntry) (tg : Target) : Option (List DeckEntry × Nat) :=
  let all := k.binOf s.clk e
  let n := s.binSize cluster tg (min all.length 32)
  if n = 0 || (e.bin.isSome && decide (n < all.length)) then none
  else
    let cores := s.hosts cluster n tg
    some (all.take n, cores.getD (Config.pick s.tick % cores.length) 0)
/-- A bin's team gets its task slot's control block and is placed, or its entries wait for a page (R338). -/
def State.dispatchBin (s : State) (cluster : Nat) (c : Context) (e : DeckEntry) (tg : Target) (es : List DeckEntry) (core slot : Nat) : State :=
  let bind (s : State) (b : Bool) : State := s.updContext e.ctx fun c => { c with taskSlots := c.taskSlots.set false slot b }
  match s.devBars e.ctx (c.tpool + slot * c.tpsize + crewRecord tg.kernel.scratch) 2048 .write with
  | some (va, .fault kd l en) => bind (s.holdEntries cluster e.ctx es (some (slot, tg)) va kd l 1 en) true
  | some _ => bind (s.badTarget cluster e.ctx e.target es) false
  | none =>
    ({ s with tick := s.tick + 1 }.placeTask cluster core tg slot es).updCluster cluster fun k => { k with nextDispatch := s.clk + 4 }
/-- What a deck does with its next entry (R336 to R338); `none` where it waits. A bin that has been formed keeps its target and slot: after a retry only
the write is made again. -/
def State.dispatch (s : State) (cluster : Nat) : Option State :=
  match s.clusters.find cluster with
  | none => none
  | some k =>
    match k.headEntry s.clk with
    | none => none
    | some e =>
      match (if s.clk < k.nextDispatch || s.yieldsTo e then none else s.contexts.find e.ctx) with
      | none => none
      | some c =>
        match e.bin with
        | some (slot, tg) => (s.binFor cluster k e tg).map fun x => s.dispatchBin cluster c e tg x.1 x.2 slot
        | none =>
          match s.readTarget e.ctx e.target with
          | .bad => some (s.badTarget cluster e.ctx e.target [e])
          | .fault va kd l en => some (s.holdEntries cluster e.ctx [e] none va kd l 0 en)
          | .ok tg =>
            match s.binFor cluster k e tg with
            | none => none
            | some x =>
              if c.tpcount = 0 || c.tpsize < taskArea x.1.length tg then some (s.badTarget cluster e.ctx e.target x.1)
              else c.freeTask.map fun slot => s.dispatchBin cluster c e tg x.1 x.2 slot
/-- The entries that a deck's own dispatch takes now (R340). -/
def State.dispatching (s : State) (cluster : Nat) (k : Cluster) : List DeckEntry :=
  match k.headEntry s.clk with
  | none => []
  | some e =>
    if (s.dispatch cluster).isNone then []
    else match (match e.bin with | some (_, tg) => some tg | none => match s.readTarget e.ctx e.target with | .ok tg => some tg | _ => none) with
      | some tg => (match s.binFor cluster k e tg with | some x => x.1 | none => [])
      | none => [e]
/-- DECK DISPATCH (R336). -/
def execDeckDispatch (cluster : Nat) (s : State) : Host.Outcome State Fault Refusal := .next ((s.dispatch cluster).getD s)

/-- Whether a deck is idle (R340). -/
def State.deckIdle (s : State) (cluster : Nat) : Bool :=
  (match s.clusters.find cluster with | some k => k.deck.isEmpty | none => true) &&
  (List.range 4).any fun c => (s.coreFit cluster c [(8, 0)] 0).isSome
/-- The decks that a cluster's deck steals from, in order (R340). -/
def State.victimDecks (s : State) (cluster : Nat) : List Nat :=
  match s.partitions.find? fun (p : Nat × Partition) => p.2.clusters.contains cluster with
  | none => []
  | some p =>
    let here := p.2.clusters.filter fun c => dieOfCluster c == dieOfCluster cluster
    let n := here.length
    let c := here.findIdx (· == cluster)
    ([(c + 1) % n, (c + n - 1) % n, (c + 2) % n, (c + 2 * n - 2) % n].map fun i => here.getD i cluster).eraseDups.filter (· != cluster)
/-- The entries of a victim that a thief can take: not those that the victim's own dispatch selects (R340). -/
def State.loot (s : State) (v : Nat) : List DeckEntry :=
  match s.clusters.find v with
  | none => []
  | some k =>
    let own := s.dispatching v k
    k.freeEntries.filter fun e => !own.contains e
/-- The first victim with entries. -/
def State.victimOf (s : State) (cluster : Nat) : Option Nat := (s.victimDecks cluster).find? fun v => !(s.loot v).isEmpty
/-- The entries that a thief takes of a victim's, highest key first (R340). -/
def stolen (clk : Nat) (es : List DeckEntry) : List DeckEntry :=
  match (keyOrder clk es).reverse with
  | [] => []
  | h :: rest =>
    let n := (es.filter fun e => e.ctx == h.ctx).length
    ((h :: rest).filter fun e => e.ctx == h.ctx && e.target == h.target && e.depth == h.depth).take (min 32 ((n + 1) / 2))
/-- STEAL ATTEMPT (R340). -/
def execStealAttempt (cluster : Nat) (s : State) : Host.Outcome State Fault Refusal :=
  .next (if s.deckIdle cluster && !s.removing.contains cluster then
      match s.victimOf cluster with
      | none => s
      | some v =>
        let es := stolen s.clk (s.loot v)
        (s.takeEntries v es).updCluster cluster fun k => { k with deck := k.deck ++ es, nextSteal := s.clk + 64 }
    else s)

/-- The decks' events that are due. -/
def State.deckEvents (s : State) : List Ev :=
  (s.clusters.filterMap fun (p : Nat × Cluster) => if (s.dispatch p.1).isSome then some (.deckDispatch p.1) else none) ++
  (s.partitions.flatMap fun (p : Nat × Partition) => p.2.clusters.filterMap fun c =>
    if (match s.clusters.find c with | some k => decide (k.nextSteal ≤ s.clk) | none => true) && s.deckIdle c &&
      !s.removing.contains c && (s.victimOf c).isSome then some (.stealAttempt c) else none)

end Sys2Proof.Machine
end

