-- ==== Sys2Proof/Machine/Rays.lean ====
section
/-! DEFINITION. The intersection unit's rays (R198, R199, R402 to R415): the meaning of `trc`, one visit of a ray's traversal, and the
continuation that a ray's end forms. -/

namespace Sys2Proof.Machine

/-- FP32 operations of the unit: RNE, without flags (R402). -/
def fadd (a b : Word) : Word := BitVec.ofNat 32 (fp32.add 0 a.toNat b.toNat).1
/-- Difference. -/
def fsub (a b : Word) : Word := BitVec.ofNat 32 (fp32.sub 0 a.toNat b.toNat).1
/-- Product. -/
def fmul (a b : Word) : Word := BitVec.ofNat 32 (fp32.mul 0 a.toNat b.toNat).1
/-- Reciprocal. -/
def frecip (a : Word) : Word := (frcpW 0 a).1
/-- The lower of two values. -/
def flow (a b : Word) : Word := BitVec.ofNat 32 (fp32.minmax false false a.toNat b.toNat).1
/-- The higher of two values. -/
def fhigh (a b : Word) : Word := BitVec.ofNat 32 (fp32.minmax true false a.toNat b.toNat).1
/-- a < b; false where one is a NaN. -/
def flt (a b : Word) : Bool := (fp32.cmp 2 a.toNat b.toNat).1
/-- a ≤ b; false where one is a NaN. -/
def fle (a b : Word) : Bool := (fp32.cmp 3 a.toNat b.toNat).1
/-- Whether a word is a NaN. -/
def fnan (a : Word) : Bool := (fp32.num a.toNat).isNan
/-- Whether a word is a zero of either sign. -/
def fzero (a : Word) : Bool := a &&& 0x7FFFFFFF#32 == 0#32
/-- Negative infinity. -/
def negInf : Word := 0xFF800000
/-- Positive infinity. -/
def posInf : Word := 0x7F800000
/-- The instance index of what lies outside any instance (R407). -/
def noInst : Word := 0xFFFFFFFF

/-- A vector of three words. -/
abbrev V3 := Word × Word × Word
/-- Component differences. -/
def V3.sub (a b : V3) : V3 := (fsub a.1 b.1, fsub a.2.1 b.2.1, fsub a.2.2 b.2.2)
/-- A dot product (R409). -/
def V3.dot (a b : V3) : Word := fadd (fadd (fmul a.1 b.1) (fmul a.2.1 b.2.1)) (fmul a.2.2 b.2.2)
/-- A cross product (R409). -/
def V3.cross (a b : V3) : V3 :=
  (fsub (fmul a.2.1 b.2.2) (fmul a.2.2 b.2.1), fsub (fmul a.2.2 b.1) (fmul a.1 b.2.2), fsub (fmul a.1 b.2.1) (fmul a.2.1 b.1))
/-- Three words of a record from an offset. -/
def vec3 (n off : Nat) : V3 := (BitVec.ofNat 32 (field n off 4), BitVec.ofNat 32 (field n (off + 4) 4), BitVec.ofNat 32 (field n (off + 8) 4))
/-- The origin and the direction of a ray's words (R199). -/
def rayOrigin (r : List Word) : V3 := (r.getD 0 0, r.getD 1 0, r.getD 2 0)
/-- The direction of a ray's words. -/
def rayDir (r : List Word) : V3 := (r.getD 4 0, r.getD 5 0, r.getD 6 0)

/-- One axis of the box test (R408): whether it passes, with the values that it contributes. -/
def boxAxis (lo hi o d : Word) : Option (Word × Word) :=
  if fnan lo || fnan hi then none
  else if fzero d then (if fle lo o && fle o hi then some (negInf, posInf) else none)
  else
    let r := frecip d
    let t0 := fmul (fsub lo o) r
    let t1 := fmul (fsub hi o) r
    some (flow t0 t1, fhigh t0 t1)
/-- The box test (R408): tnear of a box that the ray hits. -/
def boxTest (lo hi o d : V3) (tmin t : Word) : Option Word :=
  match boxAxis lo.1 hi.1 o.1 d.1, boxAxis lo.2.1 hi.2.1 o.2.1 d.2.1, boxAxis lo.2.2 hi.2.2 o.2.2 d.2.2 with
  | some x, some y, some z =>
    let near := fhigh (fhigh x.1 y.1) z.1
    let far := flow (flow x.2 y.2) z.2
    if fle near far && fle tmin far && fle near t then some near else none
  | _, _, _ => none

/-- A triangle's candidate hit (R409): t, u, v and FRONT. -/
def triTest (v0 v1 v2 o d : V3) (tmin t : Word) (cull : Bool) : Option (Word × Word × Word × Bool) :=
  let e1 := v1.sub v0
  let e2 := v2.sub v0
  let p := V3.cross d e2
  let det := e1.dot p
  if fzero det || fnan det || (cull && flt det 0) then none
  else
    let x := V3.sub o v0
    let q := x.cross e1
    let i := frecip det
    let u := fmul (x.dot p) i
    let v := fmul (V3.dot d q) i
    let t' := fmul (e2.dot q) i
    if fle 0 u && fle 0 v && fle (fadd u v) 0x3F800000 && fle tmin t' && fle t' t then some (t', u, v, flt 0 det) else none

/-- What a step of a ray comes to. -/
inductive Visit where
  | next (s : State) (r : Ray)
  | done (s : State) (r : Ray) (status : Nat)
  /-- malformed or unreadable data at an address, STATUS 2; poisoned data, STATUS 3 (R413) -/
  | bad (s : State) (status addr : Nat)
  | fault (s : State) (va kind level : Nat) (entry : DWord)
/-- The unit of a cluster's intersection unit. -/
def rayUnit (cluster : Nat) : Option Nat := some (unitOf cluster 6)
/-- The pieces that the cache of an intersection unit holds: 256 KiB (R402). -/
def rayCacheSize : Nat := 16384
/-- A piece is read into the unit's cache; a full one gives another up. -/
def State.fillPiece (s : State) (cluster : Nat) (p : RayPiece) : State :=
  let held := match s.clusters.find cluster with | some k => k.pieces | none => []
  if held.length < rayCacheSize then s.updCluster cluster fun k => { k with pieces := p :: k.pieces }
  else
    { s with tick := s.tick + 1 }.updCluster cluster fun k =>
      { k with pieces := p :: (match k.pieces[Config.victim s.tick % k.pieces.length]? with | some q => k.pieces.erase q | none => k.pieces) }
/-- The state with a ray changed. -/
def State.updRay (s : State) (cluster serial : Nat) (f : Ray → Ray) : State :=
  s.updCluster cluster fun k => { k with rays := k.rays.map fun r => if r.serial = serial then f r else r }
/-- A piece of memory comes to the unit's cache (R273, R402). -/
def State.loadPiece (s : State) (cluster : Nat) (r : Ray) (piece pa : Nat) (x : Translation) : State × BitVec 128 :=
  let b : BitVec 128 := BitVec.ofNat 128 (s.readNat pa 16)
  (((s.letIn r.ctx pa x).touchLine (some r.ctx) pa none).fillPiece cluster ⟨r.ctx, piece, s.serial, b⟩, b)
/-- A piece of the unit's cache that a ray may use: it was read after the ray's `trc` (R402). -/
def State.heldPiece (s : State) (cluster : Nat) (r : Ray) (piece : Nat) : Option RayPiece :=
  (s.clusters.find cluster).bind fun k => k.pieces.find? fun p => p.ctx == r.ctx && p.piece == piece && decide (r.serial < p.stamp)
/-- What a read of a ray comes to. -/
inductive RayRead where
  | bytes (bs : List Byte)
  | bad (status addr : Nat)
  | fault (va kind level : Nat) (entry : DWord)
/-- A ray reads a piece, whose first wanted byte is at `va`: one that it read before this visit's page fault stays as it is; another comes from
the unit's cache, or else from memory (R273, R402, R413). -/
def State.readPiece (s : State) (cluster : Nat) (r : Ray) (piece va : Nat) : State × RayRead :=
  match r.got.find? (·.1 == piece) with
  | some g => (s, .bytes (leBytes 16 g.2.toNat))
  | none =>
    match s.lookVia (rayUnit cluster) r.ctx va .read with
    | .fault k l e => (s, .fault va k l e)
    | .ok pa x =>
      let take (s : State) (b : BitVec 128) : State × RayRead :=
        (s.updRay cluster r.serial fun r => { r with got := (piece, b) :: r.got }, .bytes (leBytes 16 b.toNat))
      (match s.heldPiece cluster r piece with
        | some p => take s p.bytes
        | none =>
          if s.poisoned (pa / 16 * 16) 16 then (s, .bad 3 va)
          else match s.loadPiece cluster r piece (pa / 16 * 16) x with | (s, b) => take s b)
    | _ => (s, .bad 2 va)
/-- A ray reads pieces in order, from the first byte that it wants. -/
def State.readPieces (s : State) (cluster : Nat) (r : Ray) (va : Nat) : List Nat → State × RayRead
  | [] => (s, .bytes [])
  | p :: ps =>
    match s.readPiece cluster r p (max va (16 * p)) with
    | (s, .bytes b) =>
      (match s.readPieces cluster r va ps with
        | (s, .bytes bs) => (s, .bytes (b ++ bs))
        | x => x)
    | x => x
/-- A ray reads `n` bytes at an address (R273, R402, R413). -/
def State.rayBytes (s : State) (cluster : Nat) (r : Ray) (va n : Nat) : State × RayRead :=
  match s.readPieces cluster r va ((List.range ((va + n - 1) / 16 - va / 16 + 1)).map fun k => va / 16 + k) with
  | (s, .bytes bs) => (s, .bytes ((bs.drop (va % 16)).take n))
  | x => x
/-- Read a record for a ray. -/
def State.rayRead (s : State) (cluster : Nat) (r : Ray) (va n : Nat) (k : State → Nat → Visit) : Visit :=
  match s.rayBytes cluster r va n with
  | (s, .bytes bs) => k s (leNat bs)
  | (s, .bad st a) => .bad s st a
  | (s, .fault a kd l e) => .fault s a kd l e
/-- Add 1 to a field of IXU_CNT (R431). -/
def State.ixuCount (s : State) (ctx cluster lo : Nat) : State := s.bumpReg ctx (clusterReg cluster 0x80) lo 16

/-- The ray goes on with the next entry of its stack whose tnear does not exceed T, if there is one (R411). -/
def popEntry (t : Word) : List RayEntry → Option RayEntry × List RayEntry
  | [] => (none, [])
  | e :: es => if flt t e.tnear then popEntry t es else (some e, es)
/-- The ray with its next entry taken up. -/
def Ray.pop (r : Ray) : Ray :=
  let (e, es) := popEntry r.tmax r.stack
  { r with cur := e, stack := es }
/-- A child of a node: its type and index (R405). -/
def childOf (n i : Nat) : Nat × Nat := (field n (4 * i) 4 / 2 ^ 29, field n (4 * i) 4 % 2 ^ 29)
/-- Whether a node breaks R404 or R405. -/
def nodeBad (n : Nat) : Bool :=
  let count := field n 0x70 1
  decide (count < 1) || decide (4 < count) || field n 0x71 15 != 0 ||
  (List.range 4).any fun i => decide (4 < (childOf n i).1) || ((childOf n i).1 == 0 && (childOf n i).2 != 0) ||
    (decide (count ≤ i) && (childOf n i).1 != 0)
/-- The box of child `i` of a node (R404). -/
def childBox (n i : Nat) : V3 × V3 :=
  let w (off : Nat) : Word := BitVec.ofNat 32 (field n (off + 4 * i) 4)
  ((w 0x10, w 0x20, w 0x30), (w 0x40, w 0x50, w 0x60))
/-- Whether one custom candidate goes before another (R412). -/
def customBefore (a b : RayHit) : Bool :=
  flt a.t b.t || (!flt b.t a.t && (decide (a.inst.toNat < b.inst.toNat) || (a.inst == b.inst && decide (a.prim.toNat < b.prim.toNat))))
/-- Put entries on a stack, the last first; none where one finds it full (R411). -/
def pushAll : List RayEntry → List RayEntry → Option (List RayEntry)
  | [], st => some st
  | e :: es, st =>
    match pushAll es st with
    | some st => if st.length < 64 then some (e :: st) else none
    | none => none
/-- A ray's NOCUSTOM, CULLBACK, FIRSTHIT and OPAQUE flags: bits 3 to 0 (R198). -/
def Ray.flag (r : Ray) (k : Nat) : Bool := r.flags / 2 ^ k % 2 == 1
/-- A node is visited (R404, R405, R411, R412). -/
def State.visitNode (s : State) (cluster : Nat) (r : Ray) (e : RayEntry) : Visit :=
  let va := e.arena.toNat + 128 * e.index
  s.rayRead cluster r va 128 fun s n =>
    if nodeBad n then .bad s 2 va
    else
      let hits : List (Nat × Word) := (List.range (field n 0x70 1)).filterMap fun i =>
        let (lo, hi) := childBox n i
        if (childOf n i).1 = 0 then none
        else (boxTest lo hi (rayOrigin e.ray) (rayDir e.ray) (e.ray.getD 3 0) r.tmax).map fun t => (i, t)
      let nested := e.inst != noInst
      let s := (List.range 4).foldl (fun (s : State) i => if (childOf n i).1 = 4 && nested then s.ixuCount r.ctx cluster 0 else s) s
      let customs : List RayHit := hits.filterMap fun h =>
        if (childOf n h.1).1 = 3 && !r.flag 3 then
          some ⟨fhigh h.2 (e.ray.getD 3 0), 0, 0, e.inst, BitVec.ofNat 32 (childOf n h.1).2, 0, 0, false⟩
        else none
      let cand := customs.foldl (fun m c => match m with | some b => if customBefore c b then some c else m | none => some c) r.cand
      let kids := orderBy (fun (a b : Nat × Word) => !flt b.2 a.2)
        (hits.filter fun h => (childOf n h.1).1 == 1 || (childOf n h.1).1 == 2 || ((childOf n h.1).1 == 4 && !nested))
      let entries : List RayEntry := kids.map fun h =>
        { e with kind := (childOf n h.1).1, index := (childOf n h.1).2, tnear := h.2 }
      match entries with
      | [] => .next s { r with cand := cand }.pop
      | x :: xs =>
        match pushAll xs r.stack with
        | none => .done s { r with cand := cand } 1
        | some st => .next s { r with cand := cand, cur := some x, stack := st }
/-- A row of an instance's matrix applied to a vector: ((a·x + b·y) + c·z) (R407). -/
def rowTimes (n k : Nat) (v : V3) : Word :=
  let a (j : Nat) : Word := BitVec.ofNat 32 (field n (16 * k + 4 * j) 4)
  fadd (fadd (fmul (a 0) v.1) (fmul (a 1) v.2.1)) (fmul (a 2) v.2.2)
/-- A ray in an instance's space (R407). -/
def instanceRay (n : Nat) (r : List Word) : List Word :=
  let d (k : Nat) : Word := BitVec.ofNat 32 (field n (16 * k + 12) 4)
  let o (k : Nat) : Word := fadd (rowTimes n k (rayOrigin r)) (d k)
  [o 0, o 1, o 2, r.getD 3 0, rowTimes n 0 (rayDir r), rowTimes n 1 (rayDir r), rowTimes n 2 (rayDir r), r.getD 7 0]
/-- An instance is entered (R407, R413). -/
def State.visitInstance (s : State) (cluster : Nat) (r : Ray) (e : RayEntry) : Visit :=
  let va := r.insts.toNat + 64 * e.index
  if r.ninst ≤ e.index then .bad s 2 va
  else
    s.rayRead cluster r va 64 fun s n =>
      if field n 0x30 8 % 128 ≠ 0 || decide (1 < field n 0x38 4) || field n 0x3C 4 ≠ 0 then .bad s 2 va
      else .next s { r with cur := some ⟨1, 0, BitVec.ofNat 64 (field n 0x30 8), e.tnear, BitVec.ofNat 32 e.index, instanceRay n e.ray,
        field n 0x38 4 == 1⟩ }

/-- What an alpha test comes to (R410). -/
inductive Alpha where
  | accept
  | reject
  | badTexture
  | bad (status addr : Nat)
  | fault (va kind level : Nat) (entry : DWord)
/-- The texels of a sample read by a ray. -/
def State.rayTexels (s : State) (cluster : Nat) (r : Ray) (fmt : Nat) : List DWord → State × Except Alpha (List (List Nat))
  | [] => (s, .ok [])
  | a :: as =>
    match s.rayBytes cluster r a.toNat (texelSize fmt) with
    | (s, .bytes bs) =>
      (match s.rayTexels cluster r fmt as with
        | (s, .ok ts) => (s, .ok (texel fmt (leNat bs) :: ts))
        | (s, .error e) => (s, .error e))
    | (s, .bad st a) => (s, .error (.bad st a))
    | (s, .fault a k l e) => (s, .error (.fault a k l e))
/-- The alpha test of a candidate of a triangle record (R410). -/
def State.alphaTest (s : State) (cluster : Nat) (r : Ray) (n : Nat) (u v : Word) : State × Alpha :=
  let h : Word := BitVec.ofNat 32 (field n 0x34 4)
  match s.contexts.find r.ctx with
  | none => (s, .badTexture)
  | some c =>
    let va := c.desc + 64 * (h.toNat / 4096)
    if c.dcount ≤ h.toNat / 4096 || c.inWindow va then (s, .badTexture)
    else
      match s.rayBytes cluster r va 64 with
      | (s, .bad st a) => (s, .bad st a)
      | (s, .fault a k l e) => (s, .fault a k l e)
      | (s, .bytes bs) =>
        let rec_ := leNat bs
        if slotStale rec_ h 1 || textureBad rec_ then (s, .badTexture)
        else
          let half (off : Nat) : Word := BitVec.ofNat 32 (halfToSingle (field n off 2))
          let w := fsub 0x3F800000 (fadd u v)
          let coord (o : Nat) : Word := fadd (fadd (fmul w (half (0x24 + o))) (fmul u (half (0x28 + o)))) (fmul v (half (0x2C + o)))
          let (as, α, β) := sampleTexels rec_ (coord 0) (coord 2)
          match s.rayTexels cluster r (field rec_ 0x11 1) as with
          | (s, .error e) => (s, e)
          | (s, .ok ts) => (s, if fle (half 0x38) (BitVec.ofNat 32 ((sampleColour ts α β).getD 3 0)) then .accept else .reject)
/-- An accepted triangle becomes the best hit where it goes before the one so far (R411). -/
def Ray.accept (r : Ray) (h : RayHit) : Ray :=
  let better := match r.best with
    | none => true
    | some b => flt h.t b.t || (h.t == b.t && (decide (h.inst.toNat < b.inst.toNat) || (h.inst == b.inst && decide (h.prim.toNat < b.prim.toNat))))
  if better then { r with best := some h, tmax := h.t } else r
/-- A triangle is tested (R406, R409 to R411). -/
def State.visitTriangle (s : State) (cluster : Nat) (r : Ray) (e : RayEntry) : Visit :=
  let va := e.arena.toNat + 64 * e.index
  s.rayRead cluster r va 64 fun s n =>
    match triTest (vec3 n 0) (vec3 n 0x0C) (vec3 n 0x18) (rayOrigin e.ray) (rayDir e.ray) (e.ray.getD 3 0) r.tmax
        (r.flag 2 && field n 0x3C 4 / 2 % 2 == 0) with
    | none => .next s r.pop
    | some (t, u, v, front) =>
      let h : RayHit := ⟨t, u, v, e.inst, BitVec.ofNat 32 (field n 0x30 4), BitVec.ofNat 64 va, field n 0x3A 2, front⟩
      let yes (s : State) : Visit := if r.flag 1 then .done s (r.accept h) 0 else .next s (r.accept h).pop
      if field n 0x34 4 = 0 || r.flag 0 || e.opq || field n 0x3C 4 % 2 = 1 then yes s
      else
        match s.alphaTest cluster r n u v with
        | (s, .accept) => yes s
        | (s, .reject) => .next s r.pop
        | (s, .badTexture) => yes (s.ixuCount r.ctx cluster 16)
        | (s, .bad st a) => .bad s st a
        | (s, .fault a k l en) => .fault s a k l en

/-- A ray's end forms a deck entry at its cluster (R414, R415): the registers v1 up. -/
def Ray.entry (r : Ray) (status clk cluster : Nat) : DeckEntry :=
  let stamp := r.payload.headD 0
  let miss : List Word := [BitVec.ofNat 32 (16 * status), r.ray.getD 7 0, 0, 0, noInst, 0xFFFFFFFF, 0]
  let hitVals (kind : Nat) (h : RayHit) : List Word :=
    [BitVec.ofNat 32 (kind + 4 * bit h.front + 65536 * h.geom), h.t, h.u, h.v, h.inst, h.prim, h.addr.extractLsb' 0 32]
  let (target, vals) : Nat × List Word :=
    if status ≠ 0 then (r.missTarget, miss)
    else
      match r.cand, r.best with
      | some c, best => if fle c.t r.tmax then (r.hitTarget, hitVals 2 c)
        else match best with | some h => (r.hitTarget, hitVals 1 h) | none => (r.missTarget, miss)
      | none, some h => (r.hitTarget, hitVals 1 h)
      | none, none => (r.missTarget, miss)
  ⟨r.ctx, target, stamp, stamp :: vals ++ r.payload, true, min 8 (r.depth + 1), none, r.prio, clk, none, none, some cluster, 0⟩
/-- Whether a cluster's deck and its unit's payload store take one more continuation (R414). -/
def State.continuationRoom (s : State) (cluster : Nat) : Bool :=
  (match s.clusters.find cluster with | some k => decide (k.deck.length < 4096) | none => true) &&
  decide (s.clusters.foldl (fun (n : Nat) (p : Nat × Cluster) => n + (p.2.deck.filter fun e => e.unit == some cluster).length) 0 < 8192)
/-- A continuation joins a deck, or is discarded where its target lies beyond the table (R199). -/
def State.continue_ (s : State) (cluster : Nat) (e : DeckEntry) : State :=
  match s.contexts.find e.ctx with
  | none => s
  | some c => if c.tcount ≤ e.target then s.raise e.ctx 7 [BitVec.ofNat 64 e.target] else s.enqueue cluster e
/-- A ray ends: its continuation is formed, and it leaves the unit. -/
def State.endRay (s : State) (cluster : Nat) (r : Ray) (status : Nat) : State :=
  (s.updCluster cluster fun k => { k with rays := k.rays.filter fun x => x.serial != r.serial }).continue_ cluster (r.entry status s.clk cluster)
/-- IXU_FREC takes an address, or counts that there was a further one (R432). -/
def State.ixuRecord (s : State) (ctx cluster addr : Nat) : State :=
  let key := clusterReg cluster 0x88
  let r := s.winReg ctx key
  if r.getLsbD 63 then s.setReg ctx key (r ||| (1#64 <<< 62)) else s.setReg ctx key (BitVec.ofNat 64 (2 ^ 63 + addr % 2 ^ 52))
/-- One visit of a ray's traversal. -/
def State.visit (s : State) (cluster : Nat) (r : Ray) : Visit :=
  match r.cur with
  | none => .done s r 0
  | some e =>
    match e.kind with
    | 1 => s.visitNode cluster r e
    | 2 => s.visitTriangle cluster r e
    | _ => s.visitInstance cluster r e
/-- The ray visits one entry, or ends and forms its continuation (R411 to R415); after a page fault it goes on at the read that faulted, with
what it had read. -/
def State.stepRay (s : State) (cluster : Nat) (r : Ray) : State :=
  match s.visit cluster r with
  | .next s r => s.updRay cluster r.serial fun _ => { r with got := [] }
  | .done s r st => (if st = 1 then s.ixuCount r.ctx cluster 48 else s).endRay cluster r st
  | .bad s st a => ((s.ixuCount r.ctx cluster 32).ixuRecord r.ctx cluster a).endRay cluster r st
  | .fault s va k l e =>
    let (s, sn) := s.pageFault r.ctx (.ray cluster r.serial) (BitVec.ofNat 64 va) k l 0 2 cluster 0 e
    s.updRay cluster r.serial fun r => { r with halted := some sn }
/-- Whether a ray can go on: it is not halted, and there is room for the continuation that it may form. -/
def State.rayReady (s : State) (cluster : Nat) (r : Ray) : Bool := r.halted.isNone && s.continuationRoom cluster
/-- The pieces that the next visit of a ray reads. -/
def Ray.ahead (r : Ray) : List Nat :=
  match r.cur with
  | none => []
  | some e =>
    let (va, n) := match e.kind with
      | 1 => (e.arena.toNat + 128 * e.index, 8)
      | 2 => (e.arena.toNat + 64 * e.index, 4)
      | _ => (r.insts.toNat + 64 * e.index, if r.ninst ≤ e.index then 0 else 4)
    (List.range n).map fun k => va / 16 + k
/-- The unit reads one piece of a line that a ray visits next: the pieces of a line come from memory one by one, in no order (R273). -/
def State.readAhead (s : State) (cluster serial piece : Nat) : State :=
  match (s.clusters.find cluster).bind fun k => k.rays.find? (·.serial == serial) with
  | none => s
  | some r =>
    if r.halted.isSome || !r.ahead.contains piece || (r.got.find? (·.1 == piece)).isSome || (s.heldPiece cluster r piece).isSome then s
    else
      match s.lookVia (rayUnit cluster) r.ctx (16 * piece) .read with
      | .ok pa x => if s.poisoned (pa / 16 * 16) 16 then s else (s.loadPiece cluster r piece (pa / 16 * 16) x).1
      | _ => s
/-- RAY END (R411). -/
def execRayEnd (cluster ray : Nat) (s : State) : Host.Outcome State Fault Refusal :=
  .next (match (s.clusters.find cluster).bind fun k => k.rays.find? (·.serial == ray) with
    | none => s
    | some r => if s.rayReady cluster r then s.stepRay cluster r else s)

/-- Whether a descriptor slot's record breaks R403. -/
def rootBad (r : Nat) : Bool := field r 0 8 % 128 != 0 || field r 8 8 % 64 != 0 || field r 0x11 3 != 0 || field r 0x18 8 != 0
/-- Whether a ray becomes a miss without traversal (R199). -/
def rayVoid (w : List Word) : Bool :=
  w.any fnan || flt (w.getD 7 0) (w.getD 3 0) || (fzero (w.getD 4 0) && fzero (w.getD 5 0) && fzero (w.getD 6 0))
/-- A ray as `trc` hands it over (R198, R199). -/
def Ray.new (serial : Nat) (t : Team) (w payload : List Word) (spec targets : Word) (n : Nat) : Ray where
  serial := serial
  ctx := t.ctx
  depth := t.depth
  prio := t.prio
  ray := w
  payload := payload
  flags := (spec.extractLsb' 4 4).toNat
  hitTarget := (targets.extractLsb' 0 16).toNat
  missTarget := (targets.extractLsb' 16 16).toNat
  root := BitVec.ofNat 64 (field n 0 8)
  insts := BitVec.ofNat 64 (field n 8 8)
  ninst := field n 0x14 4
  cur := if rayVoid w then none else some ⟨1, 0, BitVec.ofNat 64 (field n 0 8), negInf, noInst, w, false⟩
  stack := []
  tmax := w.getD 7 0
  best := none
  cand := none
  halted := none
  got := []
/-- What `trc` reads once at its issue, kept by a path that blocks with rays still to hand over (R199): the handle, the targets and the
record's 16 words. -/
def trcKept (handle targets : Word) (n : Nat) : List RegWrite :=
  (handle :: targets :: (List.range 16).map fun k => BitVec.ofNat 32 (field n (4 * k) 4)).mapIdx fun k w => ⟨.s, k, 0, w⟩
/-- The targets and the record of a path that blocked at its `trc`. -/
def trcAgain (ws : List RegWrite) : Word × Nat :=
  let w (k : Nat) : Word := match ws[k]? with | some x => x.val | none => 0
  (w 1, leNat ((List.range 16).flatMap fun k => wordBytes (w (k + 2))))
/-- The rays of a `trc` enter the unit in lane order as there is room (R199). -/
def State.handRays (s : State) (r t : Team) (a b : RegNo) (spec handle targets : Word) (n : Nat) : Res :=
  let left := r.actives.filter fun l => t.done &&& laneBit l == 0#1024
  let room := 2048 - (match s.clusters.find t.cluster with | some k => k.rays.length | none => 0)
  let now := left.take room
  let ray (k l : Nat) : Ray := Ray.new (s.serial + k) t ((List.range 8).map fun j => r.V l (a.toNat + j))
    ((List.range (spec.extractLsb' 0 4).toNat).map fun j => r.V l (b.toNat + j)) spec targets n
  let rays := now.mapIdx ray
  let s := { s with serial := s.serial + now.length }.updCluster t.cluster fun k => { k with rays := k.rays ++ rays }
  if left.length ≤ room then .done s
  else if now.isEmpty then .block s .rayRoom
  else
    let mark (m : Mask) : Mask := now.foldl (fun (m : Mask) l => m ||| laneBit l) m
    .block (s.updMe fun t => { t with done := mark t.done, kept := if t.kept.isEmpty then trcKept handle targets n else t.kept }) .rayRoom
/-- TRC (R198, R199). -/
def execTrc (a b : RegNo) (spec : Word) (s : State) : Host.Outcome State Fault Refusal :=
  slot (.trc a b spec) (fun r t s =>
    let sreg := (spec.extractLsb' 8 7).toNat
    let handle := r.S sreg
    if !t.kept.isEmpty then s.handRays r t a b spec handle (trcAgain t.kept).1 (trcAgain t.kept).2
    else
      match s.readSlot t handle (r.actives.headD 0) 5 with
      | .error x => x
      | .ok (s, n) =>
        if slotStale n handle 3 || rootBad n then .trap 0x0B 0 (handle.setWidth 64)
        else s.handRays r t a b spec handle (r.S (sreg + 1)) n) s

end Sys2Proof.Machine
end

