-- ==== Sys2Proof/Machine/Traffic.lean ====
section
/-! DEFINITION. How the accesses on their way are performed (R257 to R264, R281 to R287): the value of a load, the write of a store, the
read-modify-write, and what each brings to its team. -/

namespace Sys2Proof.Machine

/-- The registers that a value of `n` bytes goes to: a pair for 8, a quad for 16 (R168, R181, R207). -/
def Op.values (o : Op) (x : Nat) : List RegWrite :=
  match o.dest with
  | some (f, d) => (List.range (max 1 (o.n / 4))).map fun k => ⟨f, d + k, o.lane, BitVec.ofNat 32 (x / 2 ^ (32 * k))⟩
  | none => []
/-- A team's pending result takes the value of one of its accesses, and FSTAT its flags (R165, R168, R182). -/
def Team.takeValue (t : Team) (o : Op) (x : Nat) (fl : BitVec 5) : Team :=
  if t.pends.any (·.serial == o.group) then (t.land (o.values x)).raiseLate o.group o.muted fl else t
/-- An access brings its value to its team. -/
def State.give (s : State) (o : Op) (x : Nat) (fl : BitVec 5) : State := s.updTeam o.team fun t => t.takeValue o x fl
/-- Poison comes to a team (R441): its pending result becomes a consumption when it arrives; where nothing waits for a result, the team stops. -/
def Team.takePoison (t : Team) (o : Op) (serial : Nat) : Team :=
  { t with pends :=
      if t.pends.any (·.serial == o.group) then
        t.pends.map fun (p : Pend) => if p.serial == o.group then { p with data := .poison 5 (BitVec.ofNat 64 o.va) } else p
      else t.pends ++ [⟨serial, .v, 0, 0, 1, o.pc, .poison 5 (BitVec.ofNat 64 o.va), []⟩] }
/-- An access has met poison. -/
def State.giveBad (s : State) (o : Op) : State :=
  State.updTeam { s with serial := s.serial + 1 } o.team fun t => t.takePoison o s.serial
/-- The acquire of a performed access makes the L1 lines of its team's context invalid (R183, R209, R283). -/
def State.acquireOp (s : State) (o : Op) : State :=
  if o.acquires then s.dropLines .l1 (s.opUnits o) o.ctx else s

/-- The held stores under which an access reads (R274). -/
def State.heldFor (s : State) (o : Op) : List (Nat × Nat × Byte) :=
  match s.teams.find o.team with | some t => s.heldOf t | none => []
/-- A load is performed: through its cache, under the write buffer where it is generic (R274, R282). -/
def State.performLoad (s : State) (o : Op) (older : List Op) (path : CacheKind) (pa : Nat) (x : Translation) : State :=
  match path with
  | .l1 =>
    if s.meetsPoison o.unit o.cluster o.core o.ctx o.va pa o.n (o.before older) (s.heldFor o) then s.giveBad o
    else
      let (bs, s) := s.readL1 o.unit o.cluster o.core o.ctx o.va pa o.n x (o.before older) (s.heldFor o)
      s.give o (leNat bs) 0
  | kind =>
    if s.poisoned pa o.n && (s.line? kind o.unit o.ctx (o.va / 128)).isNone then s.giveBad o
    else
      let (bs, s) := s.cacheRead kind o.unit o.ctx o.va pa o.n x (s.lineBytes pa)
      s.give o (leNat bs) 0
/-- A load past the L1 is performed at the home slice (R209, R282). -/
def State.performPast (s : State) (o : Op) (pa : Nat) : State :=
  if s.poisoned pa o.n then s.giveBad o
  else
    let s := s.touchLine (some o.ctx) pa none
    (s.give o (leNat (overlay (s.heldFor o) pa (s.seenBytes o.cluster pa o.n))) 0).acquireOp o
/-- A read-modify-write is performed at the home slice, as one event (R181, R269, R441). -/
def State.performRmw (s : State) (o : Op) (pa : Nat) (w : Bool) (op : RmwOp) (y : Nat) : State :=
  let s := s.dropL1 (s.opUnits o) o.ctx pa
  if s.poisoned pa o.n then s.giveBad o
  else
    let old := s.readNat pa o.n
    let new := op.fn w old y
    ((s.storeBytes o.ctx o.va pa (leBytes o.n new.1)).give o old (if o.dest.isSome then new.2 else 0)).acquireOp o
/-- AN ACCESS IS PERFORMED (R257, R282, R285, R497): it leaves the traffic with its effect. -/
def State.performOp (s : State) (o : Op) : State :=
  let older := s.traffic.takeWhile (·.serial != o.serial)
  let s := s.takeOp o
  match o.place with
  | .reg off =>
    (match o.kind with
      | .store bs => s.regWrite (.team o.team) o.ctx off bs.length (BitVec.ofNat 64 (leNat bs))
      | _ => s.give o (s.regRead (.team o.team) o.ctx off o.n).toNat 0)
  | .mem pa _ x =>
    match o.kind with
    | .load path => s.performLoad o older path pa x
    | .loadPast => s.performPast o pa
    | .store bs => s.performStore o (s.opUnits o) pa bs false
    | .storePast bs => s.performStore o (s.opUnits o) pa bs true
    | .rmw w op y => s.performRmw o pa w op y
/-- The access of a serial number is performed, if it can be now. -/
def State.perform (s : State) (serial : Nat) : State :=
  match s.traffic.find? (·.serial == serial) with
  | some o => if s.performable (s.traffic.takeWhile (·.serial != serial)) o then s.performOp o else s
  | none => s
/-- The teams of a cluster come to read a store before the others do, if they can (R258, R268). -/
def State.spread (s : State) (serial c : Nat) : State :=
  match s.traffic.find? (·.serial == serial) with
  | some o =>
    if s.spreadable (s.traffic.takeWhile (·.serial != serial)) o c then
      { s with traffic := s.traffic.map fun p => if p.serial == serial then { p with seen := p.seen ++ [c] } else p }
    else s
  | none => s
/-- Every access of a context on its way is performed, in the order of issue, after the stores that other teams read already (R295, R458). -/
def State.performAllOf (s : State) (mine : Op → Bool) : State :=
  let s := (s.traffic.filter fun o => !o.seen.isEmpty).foldl (fun (s : State) o => s.performOp o) s
  (s.traffic.filter mine).foldl (fun (s : State) o => s.performOp o) s

end Sys2Proof.Machine
end

