-- ==== Sys2Proof/Machine/Candidates.lean ====
section
/-! DEFINITION. What can come about next: the teams that can issue (R332), the messages on their way and the machine events that
the state makes due. -/

namespace Sys2Proof.Machine

/-- What a step takes up. -/
inductive Cand where
  /-- the due event number `k` of the agenda -/
  | due (k : Nat)
  /-- a machine event that the state makes due -/
  | ev (e : Ev)
  /-- the first input from outside -/
  | input
  /-- a team issues its next slot -/
  | team (id : Nat)
  /-- an access on its way is performed (R257) -/
  | access (serial : Nat)
  /-- the teams of a cluster come to read a store before the others do (R258) -/
  | spread (serial cluster : Nat)
  /-- an intersection unit reads a piece of a line that a ray visits next (R273) -/
  | ahead (cluster ray piece : Nat)
  /-- a slice checks the line that an injection has met, before anything else (R456) -/
  | check
  deriving DecidableEq, Repr

/-- The first due events of each stream, by their places in the agenda, but for those that their senders hold. -/
def firstDue (held : Ev → Bool) : List Due → Nat → List Nat → List Cand
  | [], _, _ => []
  | d :: ds, k, seen =>
    if seen.contains d.stream then firstDue held ds (k + 1) seen
    else (if held d.ev then [] else [.due k]) ++ firstDue held ds (k + 1) (d.stream :: seen)

/-- Whether a team has met a poisoned value at a slot and issues no further one (R441). -/
def Team.stopped (t : Team) : Bool := t.pends.any fun p => p.cnt == 0 && match p.data with | .poison _ _ => true | _ => false
/-- Whether a team stands at slot 1 of a safe-point bundle with a request pending, nothing performed of a slot at which one of its paths is blocked
(R51, R344). -/
def Team.atSafePoint (t : Team) : Bool :=
  t.spReq && !t.spSkip && !t.tlevel && !t.saving && t.unbegun && t.pc.extractLsb' 2 2 == 1#2 &&
  (match t.bundle with
    | some (o, b) => o == (bundleOf t.pc).toNat && (Control.ofWord (bundleWord b 0)).kind == 1#2
    | none => false)
/-- Whether the crew's checkpoint leaves a team free to issue (R446). -/
def State.crewOpen (s : State) (id : Nat) (t : Team) : Bool :=
  if t.kernel.rollback then
    match s.crewOf t with
    | some c => c.rb.allow == some id || (c.rb.allow.isNone && c.rb.closing.isNone && (c.rb.wanted.isNone || c.rb.wanted == some id && t.blk.isNone))
    | none => true
  else true
/-- Whether a team can issue a slot (R332). -/
def State.eligible (s : State) (id : Nat) (t : Team) : Bool :=
  t.halt == 0 && !t.gone && !t.ended && !t.noPath && t.stepState != 2 && !t.stopped && s.crewOpen id t &&
  (match t.blk with
    | none => true
    | some c => condHolds s id t c || t.atSafePoint || (s.matrixTrap t).isSome)

/-- The steps of the memory system that can come about. -/
def State.moves (s : State) : List Cand :=
  let clusters := (s.gangs.map fun (p : Nat × Gang) => p.2.cluster).eraseDups
  s.traffic.flatMap fun o =>
    let older := s.traffic.takeWhile (·.serial != o.serial)
    (if s.performable older o then [.access o.serial] else []) ++
      (clusters.filter (s.spreadable older o)).map (.spread o.serial)
/-- The pieces that the intersection units can read ahead of their rays. -/
def State.readsAhead (s : State) : List Cand :=
  s.clusters.flatMap fun (p : Nat × Cluster) => p.2.rays.flatMap fun r =>
    (r.ahead.filter fun q => r.halted.isNone && (r.got.find? (·.1 == q)).isNone && (s.heldPiece p.1 r q).isNone).map (.ahead p.1 r.serial)
/-- The teams that can issue. -/
def State.issuers (s : State) : List Cand :=
  s.teams.filterMap fun (p : Nat × Team) => if s.eligible p.1 p.2 then some (.team p.1) else none

end Sys2Proof.Machine
end

