-- ==== Sys2Proof/Machine/Rast.lean ====
section
/-! DEFINITION. RAST jobs (R314, R417 to R420): coverage and depth of a pixel, one 8 × 8 block of a job at its turn, tile
continuations, and the landing of a piece of any job. -/

namespace Sys2Proof.Machine

/-- Whether a RAST descriptor breaks R417. -/
def rastBad (r : Nat) : Bool :=
  let size (n : Nat) : Bool := n % 8 == 0 && decide (8 ≤ n) && decide (n ≤ 16384)
  field r 0 8 % 16 != 0 || !size (field r 0xC 2) || !size (field r 0xE 2) || field r 0x10 8 % 8 != 0 || decide (3 < field r 0x1A 2) ||
  field r 0x28 24 != 0
/-- The number of 64 × 64 tiles of a visibility buffer (R419). -/
def tileCount (r : Nat) : Nat := (field r 0xE 2 + 63) / 64 * ((field r 0xC 2 + 63) / 64)
/-- Block `b` of a tile: tiles in raster order, the blocks of a tile in raster order (R419). -/
def blockAt (r tile b : Nat) : Nat × Nat :=
  let tw := (field r 0xC 2 + 63) / 64
  (8 * (tile % tw) + b % 8, 8 * (tile / tw) + b / 8)
/-- Whether a block lies in the buffer. -/
def blockInside (r : Nat) (b : Nat × Nat) : Bool := decide (8 * b.1 < field r 0xC 2) && decide (8 * b.2 < field r 0xE 2)

/-- A primitive of a RAST job (R417): its vertices and its PRIM. -/
structure Prim where
  v0 : V3
  v1 : V3
  v2 : V3
  prim : Word
  deriving DecidableEq, Repr
/-- A primitive from its record of 48 bytes. -/
def primOf (bs : List Byte) : Prim :=
  let p := leNat bs
  ⟨vec3 p 0, vec3 p 0x0C, vec3 p 0x18, BitVec.ofNat 32 (field p 0x24 4)⟩
/-- The edge value of the edge from `a` to `b` at a point (R418). -/
def edgeAt (a b : V3) (cx cy : Word) : Word := fsub (fmul (fsub b.1 a.1) (fsub cy a.2.1)) (fmul (fsub b.2.1 a.2.1) (fsub cx a.1))
/-- Whether the edge from `a` to `b` is a top-left edge (R418). -/
def topLeft (a b : V3) : Bool := flt b.2.1 a.2.1 || ((fp32.cmp 0 b.2.1.toNat a.2.1.toNat).1 && flt b.1 a.1)
/-- The three edge values at a point. -/
def Prim.edges (p : Prim) (cx cy : Word) : Word × Word × Word := (edgeAt p.v0 p.v1 cx cy, edgeAt p.v1 p.v2 cx cy, edgeAt p.v2 p.v0 cx cy)
/-- A coordinate of the centroid of three vertices: their exact mean, as FP32 (R418). -/
def meanOf (x y z : Word) : Word :=
  let mode := Config.centroidMode x y z
  let ns := [fp32.num x.toNat, fp32.num y.toNat, fp32.num z.toNat]
  if ns.any Num.isNan then 0x7FC00000
  else match (sumNums mode ns).1 with
    | .fin s m e =>
      let (n, e') := sticky (m * 2 ^ 40 / 3) (m * 2 ^ 40 % 3 == 0) (e - 40)
      BitVec.ofNat 32 (fp32.pack mode (.fin s n e')).1
    | n => BitVec.ofNat 32 (fp32.pack mode n).1
/-- The area of a primitive: its edge values at the centroid, summed in order (R418). -/
def Prim.area (p : Prim) : Word :=
  let e := p.edges (meanOf p.v0.1 p.v1.1 p.v2.1) (meanOf p.v0.2.1 p.v1.2.1 p.v2.2.1)
  fadd (fadd e.1 e.2.1) e.2.2
/-- A pixel's centre coordinate (R418). -/
def pixelCentre (x : Nat) : Word := BitVec.ofNat 32 (fp32.pack 0 (.fin false (2 * x + 1) (-1))).1
/-- The depth of a primitive at a pixel that it covers (R418). -/
def Prim.depthAt (p : Prim) (cull : Bool) (x y : Nat) : Option Word :=
  let d := p.area
  let e := p.edges (pixelCentre x) (pixelCentre y)
  let inside (pos : Bool) (v : Word) (a b : V3) : Bool :=
    (if pos then flt 0 v else flt v 0) || (fzero v && (if pos then topLeft a b else topLeft b a))
  let all (pos : Bool) : Bool := inside pos e.1 p.v0 p.v1 && inside pos e.2.1 p.v1 p.v2 && inside pos e.2.2 p.v2 p.v0
  if (flt 0 d && all true) || (flt d 0 && !cull && all false) then
    some (fmul (fadd (fadd (fmul e.2.1 p.v0.2.2) (fmul e.2.2 p.v1.2.2)) (fmul e.1 p.v2.2.2)) (frecip d))
  else none
/-- The pixels of a block that a primitive covers, by their numbers in raster order, with its depth there. -/
def Prim.covers (p : Prim) (cull : Bool) (b : Nat × Nat) : List (Nat × Word) :=
  (List.range 64).filterMap fun k => (p.depthAt cull (8 * b.1 + k % 8) (8 * b.2 + k / 8)).map fun z => (k, z)

/-- The key of a block (R419). -/
def blockKey (r : Nat) (b : Nat × Nat) : DWord := BitVec.ofNat 64 (2 ^ 32 * field r 0x1C 4 + 2 ^ 16 * b.2 + b.1)
/-- How a job stands at a block's key cell. -/
inductive Turn where
  | come (k i h : Nat)
  | wait
  | fail (code : Nat)
/-- Whether the job's turn has come at a key (R189, R419). -/
def State.turnAt (s : State) (ctx : Nat) (ident key : DWord) (sq : Word) : Turn :=
  match s.areaOf ctx with
  | none => .fail 0x13
  | some (k, a) =>
    match (a.find key).or (a.room key) with
    | none => .fail 0x13
    | some i =>
      let c := if (a.find key).isSome then a.cell i else Cell.fresh key
      if c.broken then .fail 0x12
      else if (sq - c.next).getLsbD 31 then .fail 0x14
      else if c.held || sq != c.next then .wait
      else match (a.holderOf ident).or (a.holderRoom ident) with | some h => .come k i h | none => .fail 0x13
/-- A job enters a key at its turn, as `oenter` does (R189, R419). -/
def State.enterKey (s : State) (ctx : Nat) (ident key : DWord) (i h : Nat) : State :=
  match s.areaOf ctx with
  | none => s
  | some (k, a) =>
    let c := if (a.find key).isSome then a.cell i else Cell.fresh key
    s.setArea k ((a.setCell i c).take i h ident)

/-- What a job does next at its place in a tile. -/
inductive Block where
  | over
  | fail (cause addr : Nat)
  | fault (va kind level : Nat) (entry : DWord)
  /-- nothing to do here: the block lies outside the buffer, or the primitive does not cover it -/
  | pass
  /-- the tile is finished -/
  | tileEnd
  /-- the block, never written, is skipped without waiting -/
  | skip (key : DWord) (sq : Word)
  | wait
  /-- pixels of the block are drawn; its key is entered first, at its cell and holder entry, where the job does not hold it yet -/
  | draw (r : Nat) (b : Nat × Nat) (prim : Word) (px : List (Nat × Word)) (key : DWord) (enter : Option (Nat × Nat))
  /-- the block's key is left, entered first where a job with LAST never wrote it -/
  | leave (r : Nat) (b : Nat × Nat) (key : DWord) (enter : Option (Nat × Nat))
/-- Whether a cluster's deck takes another continuation. -/
def State.deckTakes (s : State) (cluster : Nat) : Bool :=
  match s.clusters.find cluster with | some k => decide (k.deck.length < 4096) | none => true
/-- What a RAST job does next (R417, R419, R420): in each tile every primitive at every block, in array order, then every block is left or
skipped. A job with LAST waits for its turn at every block. -/
def State.nextBlock (s : State) (cluster : Nat) (c : Card) : Block :=
  match s.engineRead (yardUnit cluster) c.ctx (c.f 0x28 8) 64 with
  | .trap a => .fail 0x05 a
  | .poison a => .fail 0x0A a
  | .fault a k l e => .fault a k l e
  | .bytes bs =>
    let r := leNat bs
    let n := field r 8 4
    let b := blockAt r c.lead (c.spot % 64)
    let key := blockKey r b
    let sq : Word := BitVec.ofNat 32 (field r 0x20 4)
    let last := field r 0x1A 2 / 2 % 2 == 1
    let held := c.entered.contains (c.spot % 64)
    let turn (go : Option (Nat × Nat) → Block) : Block :=
      if held then go none
      else match s.turnAt c.ctx (s.rastIdent c) key sq with
        | .fail code => .fail (Config.sectionCause code % 256) key.toNat
        | .wait => .wait
        | .come _ i h => go (some (i, h))
    if rastBad r then .fail 0x02 (c.f 0x28 8)
    else if tileCount r ≤ c.lead then .over
    else if 64 * (n + 1) ≤ c.spot then .tileEnd
    else if !blockInside r b then .pass
    else if 64 * n ≤ c.spot then
      if !held && !last then .skip key sq
      else if last && !s.deckTakes cluster then .wait
      else turn (.leave r b key)
    else
      match s.engineRead (yardUnit cluster) c.ctx (field r 0 8 + 48 * (c.spot / 64)) 48 with
      | .trap a => .fail 0x05 a
      | .poison a => .fail 0x0A a
      | .fault a k l e => .fault a k l e
      | .bytes ps =>
        let p := primOf ps
        match p.covers (field r 0x1A 2 % 2 == 1) b with
        | [] => .pass
        | px => turn (.draw r b p.prim px key)
/-- The address of a pixel's sample in a visibility buffer (R417): pixel `k` of a block in raster order. -/
def sampleAddr (r : Nat) (b : Nat × Nat) (k : Nat) : Nat :=
  field r 0x10 8 + 8 * ((8 * b.2 + k / 8) * field r 0xC 2 + 8 * b.1 + k % 8)
/-- A tile continuation (R420). -/
def tileEntry (c : Card) (r : Nat) (b : Nat × Nat) (mask : DWord) (depth clk : Nat) : DeckEntry :=
  let w (off : Nat) : Word := BitVec.ofNat 32 (field r off 4)
  ⟨c.ctx, field r 0x18 2, w 0x24, [w 0x24, 3, BitVec.ofNat 32 b.1, BitVec.ofNat 32 b.2, mask.extractLsb' 0 32, mask.extractLsb' 32 32, w 0x20 + 1, 0],
    true, depth, none, c.prio, clk, none, none, none, 0⟩
/-- The samples of a block whose PRIM is not all ones (R420). -/
def liveMask (vs : List DWord) : DWord :=
  (vs.mapIdx fun k v => (k, v)).foldl (fun (m : DWord) x => if x.2.extractLsb' 0 32 = 0xFFFFFFFF#32 then m else m ||| (1#64 <<< x.1)) 0
/-- A RAST job goes on to the next place of its tile. -/
def State.rastOn (s : State) (cluster : Nat) (c : Card) : State := s.updCard cluster c.serial fun c => { c with spot := c.spot + 1 }
/-- A RAST job draws pixels of a block (R418): a sample is replaced by (depth, PRIM) where the depth is less than the stored one. -/
def State.drawBlock (s : State) (cluster : Nat) (c : Card) (r : Nat) (b : Nat × Nat) (prim : Word) (px : List (Nat × Word)) : State :=
  let unit := yardUnit cluster
  let px := px.map fun x => (sampleAddr r b x.1, x.2)
  let bars (xs : List (Nat × Word)) (a : Access) : Option (Nat × Looked) := xs.findSome? fun x => s.barsVia unit c.ctx x.1 8 a
  match bars px .read with
  | some (va, r) => s.jobBar cluster c va 0 r
  | none =>
    match px.find? fun x => s.poisonVia unit c.ctx x.1 8 with
    | some x => s.failCard cluster c.serial 0x0A x.1
    | none =>
      let nearer := px.filter fun x => flt x.2 (BitVec.ofNat 32 (s.devNat c.ctx (x.1 + 4) 4))
      match bars nearer .write with
      | some (va, r) => s.jobBar cluster c va 1 r
      | none =>
        (nearer.foldl (fun (s : State) (x : Nat × Word) =>
          s.jobWrite cluster c.ctx x.1 ((dwordBytes (x.2 ++ prim)).map fun y => (y, false))) s).rastOn cluster c
/-- A RAST job leaves a block (R190, R419); with LAST it forms the block's continuation if a sample is not empty (R420). -/
def State.leaveBlock (s : State) (cluster : Nat) (c : Card) (r : Nat) (b : Nat × Nat) (key : DWord) : State :=
  let as := (List.range 64).map (sampleAddr r b)
  match (if field r 0x1A 2 / 2 % 2 = 1 then as.findSome? fun va => s.barsVia (yardUnit cluster) c.ctx va 8 .read else none) with
  | some (va, x) => s.jobBar cluster c va 0 x
  | none =>
    let mask := liveMask (as.map fun va => BitVec.ofNat 64 (s.devNat c.ctx va 8))
    let s := (s.oleaveArrives c.ctx (s.rastIdent c) key).rastOn cluster c
    if field r 0x1A 2 / 2 % 2 = 1 && mask != 0 then
      { s with tick := s.tick + 1 }.continue_ cluster (tileEntry c r b mask (Config.tileDepth s.tick % 9) s.clk)
    else s
/-- A step of a RAST job. -/
def State.landBlock (s : State) (cluster : Nat) (c : Card) : State :=
  let entering (key : DWord) (x : Option (Nat × Nat)) : State :=
    match x with
    | none => s
    | some (i, h) => (s.enterKey c.ctx (s.rastIdent c) key i h).updCard cluster c.serial fun c => { c with entered := c.entered ++ [c.spot % 64] }
  match s.nextBlock cluster c with
  | .over => s.updCard cluster c.serial fun c => { c with joined := true }
  | .fail cause a => s.failCard cluster c.serial cause a
  | .fault va k l e => s.haltJob cluster c va k l 0 e
  | .pass => s.rastOn cluster c
  | .tileEnd => s.updCard cluster c.serial fun c => { c with lead := c.lead + 1, spot := 0, entered := [] }
  | .skip key sq => (s.post 0 (.oskipArrival c.ctx key sq)).rastOn cluster c
  | .wait => s
  | .draw r b prim px key x => (entering key x).drawBlock cluster c r b prim px
  | .leave r b key x => (entering key x).leaveBlock cluster c r b key
/-- Whether a running RAST job can take its next step. -/
def State.rastReady (s : State) (cluster : Nat) (c : Card) : Bool :=
  c.started && c.kind == 6 && c.fail.isNone && c.halted.isNone && !c.joined &&
  match s.nextBlock cluster c with | .wait => false | _ => true

/-- JOB LANDING (R308 to R316, R319, R320, R417 to R420): a running job makes its next landing. -/
def execJobLanding (cluster card piece : Nat) (s : State) : Host.Outcome State Fault Refusal :=
  .next (match s.card? cluster card with
    | none => s
    | some c =>
      if !c.started || c.fail.isSome || c.halted.isSome || c.progDue then s
      else
        match c.kind with
        | 5 => if c.joined then s else s.landLeaf cluster c
        | 6 => if c.joined then s else s.landBlock cluster c
        | 7 => s.landXred cluster c
        | _ => if c.steps || decide (c.landings (s.cardSize c) ≤ piece) || c.landed.get false piece then s else s.landPiece cluster c piece)

/-- The yarder's and the intersection unit's events of a cluster that are due. -/
def State.engineEvents (s : State) (cluster : Nat) (k : Cluster) : List Ev :=
  (if k.nextCard.isSome then [.jobStart cluster] else []) ++
  (k.cards.filterMap fun c => if s.completes c then some (.jobCompletion cluster c.serial) else none) ++
  (k.cards.filterMap fun c => if s.rastReady cluster c then some (.jobLanding cluster c.serial c.lead) else s.nextLanding cluster c) ++
  (k.rays.filterMap fun r => if s.rayReady cluster r then some (.rayEnd cluster r.serial) else none)
/-- The package's collectives that have a result (R499). -/
def State.collectiveEvents (s : State) : List Ev :=
  s.collectives.filterMap fun x => if x.due then some (.collectiveResult x.group.toNat x.ctx x.coll) else none

end Sys2Proof.Machine
end

