-- ==== Sys2Proof/Machine/Shading.lean ====
section
/-! DEFINITION. The shading cache (R194 to R197, R241, R421 to R434): object records, tags, state words, the service's work, and the
meanings of `scq`, `scfill`, `scinv` and `scframe`. -/

namespace Sys2Proof.Machine

/-- The physical address of an offset of a domain's shading window (R422). -/
def Domain.winPhys (d : Domain) (off : Nat) : Nat := Config.windowPhys d.part d.id (off / 4096) + off % 4096
/-- Window offsets: state words, object records, the domain header and the service ring (R422). -/
def stateOff (h : Nat) : Nat := 0x200000000 + 8 * h
/-- The window offset of an object record (R422). -/
def objectOff (n : Nat) : Nat := 0x300000000 + 16 * n
/-- The window offset of the domain header (R422). -/
def headerOff : Nat := 0x310000000
/-- The window offset of an entry of the service ring (R422, R429). -/
def ringOff (k : Nat) : Nat := 0x310000100 + 32 * (k % 65536)
/-- A number of `n` bytes of a domain's window. -/
def State.winNat (s : State) (d : Domain) (off n : Nat) : Nat := s.readNat (d.winPhys off) n
/-- Write `n` bytes of a domain's window. -/
def State.winWrite (s : State) (d : Domain) (off n v : Nat) : State := s.writeBytes (d.winPhys off) (leBytes n v) none
/-- FRAME of a domain (R422). -/
def State.frameOf (s : State) (d : Domain) : Nat := s.winNat d (headerOff + 16) 2
/-- The object of a key (R421). -/
def keyObject (k : DWord) : Nat := (k.extractLsb' 40 24).toNat
/-- An object record: VERSION, whether it is VALID, RING and TARGET (R423). -/
def State.object (s : State) (d : Domain) (n : Nat) : Nat × Bool × Bool × Nat :=
  let r := s.winNat d (objectOff n) 16
  (field r 0 2, field r 2 2 % 2 == 1, field r 2 2 / 2 % 2 == 1, field r 4 2)
/-- The domain of a key for a context (R423): its position among the context's domains, its number in the state, the domain. -/
def State.keyDomain (s : State) (c : Context) (key : DWord) : Option (Nat × Nat × Domain) :=
  (c.domains.mapIdx fun i id => (i, domKey c.part id)).findSome? fun (x : Nat × Nat) =>
    (s.domains.find x.2).bind fun d => if (s.object d (keyObject key)).2.1 then some ((if c.wdom.isSome then x.1 else x.1 + 1), x.2, d) else none

/-- The set of a key (R424). -/
def tagSet (key : DWord) : Nat := ((key &&& 0xFFFFFFFFFFFFFFF0#64) * 0x9E3779B97F4A7C15#64).toNat / 2 ^ 46
/-- The tag at a place, unless it is invalid. -/
def State.tagAt (s : State) (k : Nat) : Option Tag := (s.tags.find k).bind fun t => if t.state == TagState.invalid then none else some t
/-- The tags of a set with their places, in way order. -/
def State.setTags (s : State) (set : Nat) : List (Nat × Tag) := (List.range 16).filterMap fun w => (s.tagAt (16 * set + w)).map fun t => (16 * set + w, t)
/-- The tags of a key in a domain. -/
def State.keyTags (s : State) (key : DWord) (dom : Nat) : List (Nat × Tag) :=
  (s.setTags (tagSet key)).filter fun (p : Nat × Tag) => p.2.key == (key &&& 0xFFFFFFFFFFFFFFF0#64) && p.2.domain == dom
/-- The code of a tag's state (R424). -/
def TagState.code : TagState → Nat
  | .invalid => 0
  | .inFlight => 1
  | .valid => 2
  | .poisoned => 3
/-- The state word of a slot is written (R426); `alloc` counts GEN. -/
def State.writeState (s : State) (d : Domain) (t : Tag) (alloc : Bool) : State :=
  let gen := (s.winNat d (stateOff t.heap + 6) 2 + bit alloc) % 65536
  s.winWrite d (stateOff t.heap) 8 (t.state.code + 2 ^ 16 * (t.version % 65536) + 2 ^ 32 * (t.frame % 65536) + 2 ^ 48 * gen)
/-- A tag changes its state, and its state word is written (R426). -/
def State.setTag (s : State) (k : Nat) (t : Tag) (alloc : Bool) : State :=
  let s := { s with tags := if t.state == TagState.invalid then s.tags.erase k else s.tags.insert k t }
  match s.domains.find t.domain with
  | some d => s.writeState d t alloc
  | none => s
/-- A tag becomes invalid and its slot is freed (R426). -/
def State.dropTag (s : State) (k : Nat) (t : Tag) : State :=
  (s.setTag k { t with state := .invalid } false).updDomain t.domain fun d => { d with heapUsed := d.heapUsed.set false t.heap false }
/-- The eviction age of a tag (R427). -/
def State.evictAge (s : State) (t : Tag) : Nat :=
  match s.domains.find t.domain with
  | some d => (s.frameOf d + 65536 - t.used % 65536) % 65536
  | none => 0
/-- The way that an allocation in a set takes (R427): its place, with the entry that stands there. -/
def State.wayFor (s : State) (set : Nat) : Option (Nat × Option Tag) :=
  match (List.range 16).find? fun w => match s.tagAt (16 * set + w) with | none => true | some t => t.state == TagState.poisoned with
  | some w => some (16 * set + w, s.tagAt (16 * set + w))
  | none =>
    ((s.setTags set).filter fun (p : Nat × Tag) => p.2.state == TagState.valid && decide (2 ≤ s.evictAge p.2)).foldl
      (fun (m : Option (Nat × Option Tag)) (p : Nat × Tag) => match m with
        | some (_, some t) => if s.evictAge t < s.evictAge p.2 then some (p.1, some p.2) else m
        | _ => some (p.1, some p.2)) none
/-- A free heap slot of a domain: the first allocation of a domain takes slot 0, the later ones take any (R426, R436). -/
def State.heapFree (s : State) (d : Domain) : Option Nat :=
  if !d.allocated then (if d.hslots = 0 then none else some 0)
  else pickPiece d.hslots (Config.heapChoice s.tick) fun h => !d.heapUsed.get false h
/-- Allocate a tag for a key (R427): the state and the new tag with its place, or none. -/
def State.allocTag (s : State) (key : DWord) (dom : Nat) (d : Domain) (version : Nat) : Option (State × Nat × Tag) :=
  match s.wayFor (tagSet key) with
  | none => none
  | some (k, old) =>
    match (match old with | some t => if t.domain = dom then some t.heap else s.heapFree d | none => s.heapFree d) with
    | none => none
    | some h =>
      let s := match old with | some t => s.dropTag k t | none => s
      let f := s.frameOf d
      let t : Tag := ⟨key &&& 0xFFFFFFFFFFFFFFF0#64, .inFlight, dom, version, f, f, h, s.serial⟩
      let s := { s with serial := s.serial + 1, tick := s.tick + 1 }.updDomain dom fun d => { d with heapUsed := d.heapUsed.set false h true, allocated := true }
      some (s.setTag k t true, k, t)
/-- The context that holds a domain as its write domain (R423). -/
def State.serviceOf (s : State) (d : Domain) : Option (Nat × Context) :=
  s.contexts.find? fun (p : Nat × Context) => p.2.part == d.part && p.2.wdom == some d.id && p.2.configured && !p.2.terminated
/-- The priority of a context's highest-priority grid (R428). -/
def State.topPrio (s : State) (ctx : Nat) : Nat :=
  (s.grids.filter fun (p : Nat × Grid) => p.2.ctx == ctx).foldl (fun m (p : Nat × Grid) => max m p.2.prio) 0
/-- Service work is posted for a miss (R428, R429): a task for the service context's deck, or a ring entry; where there is no service
context, or the ring is full, the entry is freed (R426). -/
def State.postService (s : State) (ctx : Nat) (key : DWord) (d : Domain) (k : Nat) (t : Tag) : State :=
  let (_, _, ring, target) := s.object d (keyObject key)
  let args : List Word := [t.key.extractLsb' 0 32, t.key.extractLsb' 32 32, BitVec.ofNat 32 t.heap, BitVec.ofNat 32 t.version, BitVec.ofNat 32 ctx, 0, 0]
  let stamp : Word := BitVec.ofNat 32 (s.frameOf d)
  match s.serviceOf d with
  | none => s.dropTag k t
  | some (c, x) =>
    if ring then
      let tail := s.winNat d headerOff 8
      if (tail + 2 ^ 64 - s.winNat d (headerOff + 8) 8) % 2 ^ 64 = 65536 then (s.dropTag k t).bumpReg ctx 0x88 16 16
      else
        (s.winWrite d (ringOff tail) 32 (leNat ((args ++ [stamp]).flatMap wordBytes))).winWrite d headerOff 8 ((tail + 1) % 2 ^ 64)
    else
      match s.partitions.find x.part with
      | none => s
      | some p =>
        let cluster := p.clusters.getD (tagSet key % p.clusters.length) 0
        let e : DeckEntry := ⟨c, target, stamp, stamp :: args, false, 1, none, s.topPrio c, s.clk, none, none, none, 0⟩
        let full := match s.clusters.find cluster with | some k => decide (4096 ≤ k.deck.length) | none => false
        if full then { s with tagHeld := s.tagHeld ++ [(cluster, e)] } else s.enqueue cluster e

/-- A look-up of one key by a team (R195, R425): the state, the status and the entry reference. -/
def State.lookupTile (s : State) (t : Team) (key : DWord) : State × Word × Word :=
  match (s.contexts.find t.ctx).bind fun c => s.keyDomain c key with
  | none => (s.bumpReg t.ctx 0x88 16 16, 3, 0)
  | some (pos, dom, d) =>
    let version := (s.object d (keyObject key)).1
    let here := (s.keyTags key dom).filter fun (p : Nat × Tag) => p.2.version == version
    let ref (x : Tag) (age : Nat) : Word := BitVec.ofNat 32 (x.heap % 2 ^ 24 + 2 ^ 24 * pos + 2 ^ 26 * age)
    match here.find? fun (p : Nat × Tag) => p.2.state == TagState.valid with
    | some (k, x) =>
      let f := s.frameOf d
      let s := { s with tags := s.tags.insert k { x with used := f } }
      (s.bumpReg t.ctx 0x88 48 16, 0, ref x (min 63 ((f + 65536 - x.frame % 65536) % 65536)))
    | none =>
      match here.find? fun (p : Nat × Tag) => p.2.state == TagState.inFlight with
      | some (_, x) => (s, 1, ref x 0)
      | none =>
        match s.allocTag key dom d version with
        | none => (s.bumpReg t.ctx 0x88 16 16, 3, 0)
        | some (s, k, x) => ((s.bumpReg t.ctx 0x88 32 16).postService t.ctx key d k x, 2, ref x 0)
/-- Look-ups of lanes in increasing order, with the values for the destination pair. -/
def State.lookupTiles (s : State) (t : Team) (d : Nat) : List (Nat × DWord) → State × List RegWrite
  | [] => (s, [])
  | (l, key) :: ks =>
    let (s, st, w) := s.lookupTile t key
    let (s, ws) := s.lookupTiles t d ks
    (s, ⟨.v, d, l, st⟩ :: ⟨.v, d + 1, l, w⟩ :: ws)
/-- SCQ (R195): an acquire, of the fill that it finds and of the `scinv`s and `scframe`s on which its status rests (R264, R283). -/
def execScq (d a : RegNo) (s : State) : Host.Outcome State Fault Refusal :=
  slot (.scq d a) (fun r t s =>
    if s.overfull (.scq d a) then .block s (.scoreboard (markCount (.scq d a)))
    else
      let (s', ws) := (s.acquire t).lookupTiles t d.toNat (laneKeys r a)
      .later s' 8 (.values ws 0)) s

/-- The write domain of a team's context, with its number in the state. -/
def State.writeDomain (s : State) (t : Team) : Option (Nat × Domain) :=
  match s.contexts.find t.ctx with
  | none => none
  | some c => c.wdom.bind fun id => (s.domains.find (domKey c.part id)).map fun d => (domKey c.part id, d)
/-- The in-flight entry that a fill acts on (R425): the current one, else the one allocated earliest. -/
def State.fillEntry (s : State) (key : DWord) (dom : Nat) (d : Domain) : Option (Nat × Tag) :=
  let here := (s.keyTags key dom).filter fun (p : Nat × Tag) => p.2.state == TagState.inFlight
  let (version, valid, _, _) := s.object d (keyObject key)
  match here.find? fun (p : Nat × Tag) => valid && p.2.version == version with
  | some x => some x
  | none => here.foldl (fun (m : Option (Nat × Tag)) (p : Nat × Tag) => match m with
      | some x => if p.2.order < x.2.order then some p else m
      | none => some p) none
/-- One lane of a fill (R196). -/
def State.fillTile (s : State) (ctx : Nat) (key : DWord) (code : Word) (dom : Nat) (d : Domain) : State :=
  match s.fillEntry key dom d with
  | none => s.bumpReg ctx 0x88 0 16
  | some (k, x) =>
    let f := s.frameOf d
    if code = 0 then s.setTag k { x with state := .valid, frame := f, used := f } false
    else s.setTag k { x with state := .poisoned } false
/-- SCFILL (R196). -/
def execScfill (a b : RegNo) (s : State) : Host.Outcome State Fault Refusal :=
  slot (.scfill a b) (fun r t s =>
    if r.actives.any fun l => decide (1 < (r.V l b.toNat).toNat) then .trap 0x01 (Instr.scfill a b).info 0
    else
      match s.writeDomain t, laneKeys r a with
      | none, (l, key) :: _ => .trap 0x08 l key
      | some (dom, d), ks => .done (ks.foldl (fun (s : State) x => s.fillTile t.ctx x.2 (r.V x.1 b.toNat) dom d) s)
      | none, [] => .done s) s
/-- One lane of an invalidation (R197). -/
def State.invalidateObject (s : State) (ctx n : Nat) (d : Domain) : State :=
  let (version, valid, _, _) := s.object d n
  if valid then s.winWrite d (objectOff n) 2 ((version + 1) % 65536) else s.bumpReg ctx 0x88 0 16
/-- SCINV (R197). -/
def execScinv (a : RegNo) (s : State) : Host.Outcome State Fault Refusal :=
  slot (.scinv a) (fun r t s =>
    let os := r.actives.map fun l => (l, (r.V l a.toNat).toNat % 2 ^ 24)
    match s.writeDomain t, os with
    | none, (l, n) :: _ => .trap 0x08 l (BitVec.ofNat 64 n)
    | some (_, d), _ => .done (os.foldl (fun (s : State) (x : Nat × Nat) => s.invalidateObject t.ctx x.2 d) s)
    | none, [] => .done s) s
/-- SCFRAME (R241). -/
def execScframe (a : RegNo) (s : State) : Host.Outcome State Fault Refusal :=
  slot (.scframe a) (fun r t s =>
    let x := (r.S a.toNat).toNat % 4096
    match s.writeDomain t with
    | some (_, d) =>
      if d.id = x then .done (s.winWrite d (headerOff + 16) 2 ((s.frameOf d + 1) % 65536)) else .trap 0x08 noLane (BitVec.ofNat 64 x)
    | none => .trap 0x08 noLane (BitVec.ofNat 64 x)) s

/-- An uncorrected error in a tile's bytes poisons the valid entry of its slot, and is counted in the service context (R508). -/
def State.tileError (s : State) (pa n : Nat) : State :=
  match s.tags.find? fun (p : Nat × Tag) => p.2.state == TagState.valid && (match s.domains.find p.2.domain with
      | some d => decide (d.winPhys (512 * p.2.heap) < pa + n) && decide (pa < d.winPhys (512 * p.2.heap) + 512)
      | none => false) with
  | none => s
  | some (k, t) =>
    let s := s.setTag k { t with state := .poisoned } false
    match (s.domains.find t.domain).bind s.serviceOf with
    | some (c, _) => s.bumpReg c 0xD0 8 8
    | none => s
/-- The service of a context's write domain has ended: its entries in flight become invalid (R426). -/
def State.endService (s : State) (ctx : Nat) : State :=
  match s.contexts.find ctx with
  | none => s
  | some c =>
    match c.wdom with
    | none => s
    | some id =>
      s.tags.foldl (fun (s : State) (p : Nat × Tag) =>
        if p.2.domain = domKey c.part id && p.2.state == TagState.inFlight then s.dropTag p.1 p.2 else s) s

end Sys2Proof.Machine
end

