-- ==== Sys2Proof/Machine/Contain.lean ====
section
/-! DEFINITION. Errors and what contains them (R436 to R457, R508): the termination of a context, consumption, checkpoints and
rollback, corrected and uncorrected errors, the removal of a cluster, and the answers to page-fault records (R298). -/

namespace Sys2Proof.Machine

/-- RAS_STAT and RAS_ADDR take an error event, or count that there was a further one (R454, R455). -/
def State.rasRecord (s : State) (ctx kind store : Nat) (pc : Word) (addr : DWord) : State :=
  let r := s.winReg ctx 0xC0
  let s := s.trigger ctx 4 0
  if r.getLsbD 63 then s.setReg ctx 0xC0 (r ||| (1#64 <<< 62))
  else (s.setReg ctx 0xC0 (fld 63 1 1 ||| fld 48 8 kind ||| fld 44 4 store ||| pc.setWidth 64)).setReg ctx 0xC8 addr
/-- A started job is stopped and completes FAULTED (R450). -/
def State.stopJob (s : State) (cluster : Nat) (c : Card) : State :=
  let c := { c with fail := some (c.fail.getD 0) }
  let s := match s.writeStamp cluster c with | .ok s => s | .error _ => s
  (s.dropRoot c).finishCard cluster c
/-- The engines' work of a context is over (R450): started jobs complete FAULTED, the rest is dropped. -/
def State.stopEngines (s : State) (ctx : Nat) : State :=
  s.clusters.foldl (fun (s : State) (p : Nat × Cluster) =>
    let s := (p.2.cards.filter fun c => c.ctx == ctx && c.started).foldl (fun (s : State) c => s.stopJob p.1 c) s
    s.updCluster p.1 fun k => { k with
      cards := k.cards.filter fun c => c.ctx != ctx, rays := k.rays.filter fun r => r.ctx != ctx, deck := k.deck.filter fun e => e.ctx != ctx })
    { s with tagHeld := s.tagHeld.filter fun x => x.2.ctx != ctx }
/-- Entries that the tag store holds go into the decks that have room (R428). -/
def State.refillDecks (s : State) : State := s.clusters.foldl (fun (s : State) (p : Nat × Cluster) => s.refillDeck p.1) s
/-- The stores of a context that have passed their checks are applied: those on their way and those that its rollback crews hold (R295,
R458). -/
def State.applyStores (s : State) (ctx : Nat) : State :=
  let s := s.performAllOf (·.ctx == ctx)
  (s.gangs.filter fun (p : Nat × Gang) => p.2.ctx == ctx).foldl (fun (s : State) (p : Nat × Gang) =>
    (List.range p.2.crews.length).foldl (fun (s : State) k => s.drainHeld p.1 k) s) s
/-- TERMINATE a context (R450): with KIND, storage code and address of the cause, and the PC where a team consumed. -/
def State.terminate (s : State) (ctx kind store : Nat) (pc : Word) (addr : DWord) : State :=
  match s.context? ctx with
  | none => s
  | some _ =>
    let s := s.applyStores ctx
    let s := s.teams.foldl (fun (s : State) (p : Nat × Team) => if p.2.ctx = ctx then s.dropTeam p.1 2 else s) s
    let s := { s with
      grids := s.grids.filter fun (p : Nat × Grid) => p.2.ctx != ctx
      agenda := s.agenda.filter fun d => match d.ev with | .pageWalk _ c _ => c != ctx | _ => true }
    let s := ((s.stopEngines ctx).refillDecks).endService ctx
    let s := { s with faults := s.faults.filter fun f => f.ctx != ctx }
    let s := s.raise ctx 3 [BitVec.ofNat 64 kind, BitVec.ofNat 64 store, addr]
    (s.rasRecord ctx kind store pc addr).updContext ctx fun c => { c with terminated := true, haltRecs := [], service := none }

/-- A future mark of a restored team is made again: a job that has completed gives its status at once (R24, R449). -/
def State.remark (s : State) (t : Team) : Team :=
  match s.contexts.find t.ctx with
  | none => t
  | some c => { t with pends := t.pends.map fun (p : Pend) =>
      if p.isFuture then match c.handleStatus (t.S p.n) with | some st => { p with data := .values [⟨.s, p.n, 0, st⟩] 0 } | none => p else p }
/-- A team as a rollback leaves it: what its checkpoint recorded, with the placement, halts, requests and edits of now. -/
def Team.rolledBack (old now : Team) (clk : Nat) : Team :=
  { old with
    cluster := now.cluster, core := now.core, datapath := now.datapath, rindex := now.rindex, placed := now.placed, lastIssue := now.lastIssue
    yieldUntil := now.yieldUntil, halt := now.halt, haltFrom := now.haltFrom, haltClk := now.haltClk, faultSeq := now.faultSeq, spReq := now.spReq
    edits := now.edits, haltWanted := now.haltWanted, bpSkip := now.bpSkip, stepState := now.stepState, earliest := max now.earliest clk
    inflight := [], bundle := none }
/-- Whether a shadow buffer holds a granule (R447). -/
def State.granuleHeld (s : State) (ctx : Nat) (x : ShadowPlace) (q : Nat) : Bool :=
  (BitVec.ofNat 8 (s.devNat ctx (x.at_ + 0x80 + q / 8) 1)).getLsbD (q % 8)
/-- The first poisoned piece that a crew's rollback would read back from its shadow buffer: the header, the team slots and the valid
granules (R447). -/
def State.shadowPoison (s : State) (gang k : Nat) : Option Nat :=
  match s.gangs.find gang with
  | none => none
  | some g =>
    match g.crew? k with
    | none => none
    | some c =>
      let x := s.shadowPlace gang g k (c.rb.number % 2)
      let pieces (va n : Nat) : List Nat := (List.range ((va + n + 15) / 16 - va / 16)).map fun j => 16 * (va / 16 + j)
      (pieces x.at_ (x.granules - x.at_) ++
        ((List.range (c.scratch / 256)).filter (s.granuleHeld g.ctx x)).flatMap fun q => pieces (x.granules + 264 * q) 264).find? fun va =>
          s.poisonVia none g.ctx va 16
/-- A window as a shadow buffer holds it (R447, R449): every granule held, with its bits, and zeros, all empty, elsewhere; a granule that cannot be
read stays what the checkpoint recorded (log entry 74). -/
def State.shadowWindow (s : State) (ctx : Nat) (x : ShadowPlace) (c : Crew) : SMap Word × SMap Bool :=
  ((List.range (c.scratch / 256)).filter (s.granuleHeld ctx x)).foldl (fun (m : SMap Word × SMap Bool) q =>
    let put (w : Nat → Word) (f : Nat → Bool) : SMap Word × SMap Bool :=
      (List.range 64).foldl (fun (m : SMap Word × SMap Bool) k => (m.1.set 0 (64 * q + k) (w k), m.2.set false (64 * q + k) (f k))) m
    match s.devRead ctx (x.granules + 264 * q) 264 with
    | .ok bs =>
      let n := leNat (bs.take 256)
      let f := leNat (bs.drop 256)
      put (fun k => BitVec.ofNat 32 (n / 2 ^ (32 * k))) (fun k => f / 2 ^ k % 2 == 1)
    | .error _ => put (fun k => c.rb.window.get 0 (64 * q + k)) (fun k => c.rb.full.get false (64 * q + k))) ([], [])
/-- Bytes as 32-bit words. -/
def wordsOf : List Byte → List Word
  | a :: b :: c :: d :: bs => (d ++ c ++ b ++ a) :: wordsOf bs
  | _ => []
/-- A team as its slot of a shadow buffer holds it (R446, R447): the control state of R349 and the registers; what that layout has no place for
stays what the checkpoint recorded. -/
def Team.ofShadow (t : Team) (bs : List Byte) : Team :=
  let n := leNat (bs.take 2048)
  let ws := wordsOf (bs.drop 2048)
  let modes := field n 0xC 4
  let words := ws.take (t.lanes * t.vregs)
  let preds := leNat ((bs.drop (2048 + 4 * (t.lanes * t.vregs))).take (16 * t.lanes))
  let unis := (ws.drop (t.lanes * t.vregs + 4 * t.lanes)).take t.sregs
  let slot (k : Nat) (p : PathSlot) : PathSlot :=
    { slotOfBytes (leBytes 144 (field n (0x140 + 144 * k) 144)) with blk := p.blk, done := p.done, mark := p.mark, kept := p.kept }
  { t with
    v := (words.mapIdx fun k w => (1024 * (k / t.lanes) + k % t.lanes, w)).filter (·.2 != 0)
    p := ((List.range 128).map fun k => (k, (BitVec.ofNat 1024 (preds / 2 ^ (t.lanes * k) % 2 ^ t.lanes)))).filter (·.2 != 0)
    s := (unis.mapIdx fun k w => (k, w)).filter (·.2 != 0)
    pc := BitVec.ofNat 32 (field n 8 4), ex := BitVec.ofNat 1024 (field n 0x40 128), live := BitVec.ofNat 1024 (field n 0xC0 128)
    slots := t.slots.mapIdx slot
    levels := (List.range 4).map fun k => levelOfBytes (leBytes 144 (field n (0x380 + 144 * k) 144))
    level := modes / 65536 % 8, nextTag := modes / 4096 % 8
    fmode := BitVec.ofNat 2 modes, fstat := BitVec.ofNat 5 (modes / 4), check := modes / 128 % 2 == 1, depth := modes / 256 % 16 }
/-- A team of a crew as its shadow buffer holds it, or as the checkpoint recorded it where the buffer cannot be read (R449). -/
def State.shadowTeam (s : State) (gang : Nat) (g : Gang) (b : Nat) (t : Team) : Team :=
  match s.devRead g.ctx (s.shadowSlot gang g b t) (2048 + 4 * (t.lanes * t.vregs) + 16 * t.lanes + 4 * t.sregs) with
  | .ok bs => t.ofShadow bs
  | .error _ => t
/-- A shadow buffer's header says that it is complete, the other buffer's that it is not (R446). -/
def State.completeShadow (s : State) (gang : Nat) (g : Gang) (k number : Nat) : State :=
  (s.devWrite g.ctx (s.shadowPlace gang g k (number % 2)).at_ (leBytes 8 number ++ leBytes 4 1)).devWrite g.ctx
    ((s.shadowPlace gang g k (1 - number % 2)).at_ + 8) (leBytes 4 0)
/-- An access that a rolled-back team's state knows of: its writes, and those of results that it waits for (R449). -/
def Op.outlives (o : Op) (ts : List (Nat × Team)) : Bool :=
  !(ts.any (·.1 == o.team)) || (match o.kind with | .load _ => false | .loadPast => false | _ => true) ||
    ts.any fun (p : Nat × Team) => p.1 == o.team && p.2.pends.any (·.serial == o.group)
/-- ROLL BACK a crew (R449): the window, its bits and the teams come from the shadow buffer, the barriers from the checkpoint's record. A checkpoint
whose held stores have been performed is complete (log entry 75). -/
def State.rollback (s : State) (gang k : Nat) : State :=
  match s.gangs.find gang with
  | none => s
  | some g =>
    match g.crew? k with
    | none => s
    | some c =>
      let b := c.rb.number % 2
      let s := if c.rb.closing.isSome || c.rb.allow.isSome then s.completeShadow gang g k c.rb.number else s
      let w := s.shadowWindow g.ctx (s.shadowPlace gang g k b) c
      let teams := c.rb.teams.map fun (p : Nat × Team) => (p.1, s.shadowTeam gang g b p.2)
      let s := s.updCrew gang k fun c => { c with
        window := w.1, full := w.2, poison := [], barriers := c.rb.barriers
        rb := { c.rb with held := [], consumed := true, wanted := none, allow := none, closing := none, halted := none } }
      teams.foldl (fun (s : State) (p : Nat × Team) =>
        match s.teams.find p.1 with
        | some now => s.setTeam p.1 (s.remark (p.2.rolledBack now s.clk))
        | none => s) { s with traffic := s.traffic.filter (·.outlives teams) }
/-- The poison that a team consumes: its pending entry. -/
def Team.poisonPend (t : Team) : Option Pend := t.pends.find? fun p => match p.data with | .poison _ _ => true | _ => false
/-- CONSUMPTION (R441, R444, R449). -/
def execConsumption (team storage : Nat) (addr : DWord) (s : State) : Host.Outcome State Fault Refusal :=
  .next (match s.teams.find team with
    | none => s
    | some t =>
      match t.pends.find? fun (p : Pend) => p.data == .poison storage addr with
      | none => s
      | some p =>
        let rb := match s.crewOf t with | some c => c.rb | none => Rollback.none
        if !t.kernel.rollback then s.terminate t.ctx 1 storage p.pc addr
        else if rb.eligible && !rb.consumed then
          match s.shadowPoison t.gang t.crew with
          | some va => s.terminate t.ctx 5 5 0 (BitVec.ofNat 64 va)
          | none => ((s.rollback t.gang t.crew).rasRecord t.ctx 2 storage p.pc addr).bumpReg t.ctx 0xD0 48 16
        else s.terminate t.ctx 3 storage p.pc addr)

/-- Whether a pending register keeps a checkpoint waiting: every one but a future does (R446). -/
def Pend.holdsUp (p : Pend) : Bool := match p.data with | .future => false | _ => true
/-- The teams of a crew. -/
def State.crewTeams (s : State) (gang k : Nat) : List (Nat × Team) :=
  s.teams.filter fun (p : Nat × Team) => p.2.gang == gang && p.2.crew == k
/-- Whether a crew's checkpoint can be taken (R446): nothing is on its way to its teams or from them. -/
def State.checkpointReady (s : State) (gang k : Nat) (c : Crew) : Bool :=
  c.rb.wanted.isSome && c.rb.allow.isNone && c.rb.closing.isNone && c.rb.halted.isNone &&
  (s.crewTeams gang k).all fun (p : Nat × Team) =>
    p.2.pends.all (fun q => !q.holdsUp) && s.quiet p.1 p.2 2 &&
    p.2.copies.all fun x => match x.fate with | .trapped _ => true | _ => false
/-- Whether the operation that a written checkpoint waits for has been performed, its result with its team (R389, R446). A `wait` counts as
performed once its words are armed, and a posted operation once it has reached its cell (log entry 75). -/
def State.closable (s : State) (c : Crew) : Bool :=
  c.rb.halted.isNone &&
  match c.rb.closing with
  | none => false
  | some id =>
    match s.teams.find id with
    | none => true
    | some t =>
      t.pends.all (fun q => !q.holdsUp || match q.data with | .armed _ => true | _ => false) && s.quiet id t 2 &&
      s.agenda.all fun d => !isSectStream id d.stream
/-- The granules of a crew that go into shadow buffer `b`: those whose dirty bit for it is set (R446). -/
def Crew.dirtyGranules (c : Crew) (b : Nat) : List Nat := (c.rb.dirty.filter fun (p : Nat × Nat) => p.2 / 2 ^ b % 2 == 1).map (·.1)
/-- A granule as a shadow buffer holds it: 256 bytes and the full/empty bits (R447). -/
def Crew.granule (c : Crew) (g : Nat) : List Byte :=
  ((List.range 64).flatMap fun k => wordBytes (c.word (64 * g + k))) ++ bitBytes 8 ((List.range 64).map fun k => c.full.get false (64 * g + k))
/-- A shadow buffer takes a crew's teams and its dirty granules with their valid bits (R446, R447). -/
def State.writeShadow (s : State) (gang k number : Nat) : State :=
  match s.gangs.find gang with
  | none => s
  | some g =>
    match g.crew? k with
    | none => s
    | some c =>
      let b := number % 2
      let x := s.shadowPlace gang g k b
      let s := (s.crewTeams gang k).foldl (fun (s : State) (p : Nat × Team) => s.writeShadowTeam gang g b p.2) s
      (c.dirtyGranules b).foldl (fun (s : State) q =>
        let s := s.devWrite g.ctx (x.granules + 264 * q) (c.granule q)
        s.devWrite g.ctx (x.at_ + 0x80 + q / 8) (leBytes 1 (s.devNat g.ctx (x.at_ + 0x80 + q / 8) 1 ||| 2 ^ (q % 8)))) s
/-- The page fault that keeps the yarder from a crew's shadow buffers, if any (R447). -/
def State.shadowFault (s : State) (gang k number : Nat) : Option (Nat × Nat × Nat × DWord) :=
  match s.gangs.find gang with
  | none => none
  | some g =>
    let b := number % 2
    let x := s.shadowPlace gang g k b
    (pageStarts x.at_ x.size ++ pageStarts ((s.shadowPlace gang g k (1 - b)).at_ + 8) 4).findSome? fun va =>
      match s.lookDevice g.ctx va .write with
      | .fault kind level e => some (va, kind, level, e)
      | _ => none
/-- A checkpoint that meets a page fault halts with a record (R447). -/
def State.haltCheckpoint (s : State) (gang crew : Nat) (g : Gang) (va kind level : Nat) (e : DWord) : State :=
  let (s, sn) := s.pageFault g.ctx (.checkpoint gang crew) (BitVec.ofNat 64 va) kind level Access.write.code 1 g.cluster 0 e
  s.updCrew gang crew fun c => { c with rb := { c.rb with halted := some sn } }
/-- A checkpoint is complete: its buffer takes the result of the operation that it waited for, then its header (R389, R446). -/
def State.endCheckpoint (s : State) (gang crew : Nat) (g : Gang) (c : Crew) (op : Option Nat) : State :=
  let team := op.bind fun id => (s.teams.find id).map fun t => (id, t)
  let s := match team with | some x => s.writeShadowTeam gang g (c.rb.number % 2) x.2 | none => s
  (s.completeShadow gang g crew c.rb.number).updCrew gang crew fun c => { c with rb := { c.rb with
    closing := none, eligible := true, consumed := false
    teams := match team with | some x => c.rb.teams.map fun p => if p.1 = x.1 then x else p | none => c.rb.teams } }
/-- The crew's state goes into the shadow, and the interval's held stores are performed (R274, R445, R446). -/
def State.takeCheckpoint (s : State) (gang crew : Nat) (g : Gang) (c : Crew) : State :=
  let number := c.rb.number + 1
  let s := (s.drainHeld gang crew).writeShadow gang crew number
  let rb := { c.rb with
    number := number, held := [], wanted := none
    allow := if c.rb.wanted == some noTeam then none else c.rb.wanted
    dirty := (c.dirtyGranules (number % 2)).foldl (fun (m : SMap Nat) q => m.set 0 q (m.get 0 q - 2 ^ (number % 2))) c.rb.dirty
    teams := s.crewTeams gang crew, window := c.window, full := c.full, barriers := c.barriers }
  let s := s.updCrew gang crew fun c => { c with rb := rb }
  if rb.allow.isSome then s else s.endCheckpoint gang crew g { c with rb := rb } none
/-- CHECKPOINT (R389, R445, R446): a crew that wants one gets it once nothing is on its way; one that an operation follows is complete when that has
been performed. -/
def execCheckpoint (gang crew : Nat) (s : State) : Host.Outcome State Fault Refusal :=
  .next (match s.gangs.find gang with
    | none => s
    | some g =>
      match g.crew? crew with
      | none => s
      | some c =>
        let number := if c.rb.closing.isSome then c.rb.number else c.rb.number + 1
        if !(s.closable c || s.checkpointReady gang crew c) then s
        else
          match s.shadowFault gang crew number with
          | some (va, kind, level, e) => s.haltCheckpoint gang crew g va kind level e
          | none => if s.closable c then s.endCheckpoint gang crew g c c.rb.closing else s.takeCheckpoint gang crew g c)

/-- The context in whose storage an error is found (R439). -/
def State.siteCtx (s : State) (x : ErrSite) : Option Nat :=
  let owner (dom : Nat) : Option Nat := ((s.domains.find dom).bind s.serviceOf).map (·.1)
  match x with
  | .register t _ _ => (s.teams.find t).map (·.ctx)
  | .scratchpad g _ _ => (s.gangs.find g).map (·.ctx)
  | .cacheLine _ c _ => some c
  | .l2 c _ _ _ _ => some c
  | .hbm c _ => some c
  | .accumulator cl _ => (s.arrayGang cl).map fun (x : Nat × Gang × Array) => x.2.1.ctx
  | .tag set way => (s.tags.find (16 * set + way)).bind fun t => owner t.domain
  | .cell c _ => some c
  | .metaEntry d _ => owner d
/-- A strike, or a corrected error, at a position of the L2: at the count `n` the position is quarantined, and past sixteen of a
slice its whole way (R451); the lines there leave the L2, and the context whose line it was counts it. -/
def State.quarantine (s : State) (ctx : Option Nat) (pos : Nat × Nat × Nat) : State :=
  if s.quarantined.contains pos then s
  else
    let here := (s.quarantined.filter fun q => q.1 == pos.1).length
    let bad := if here < 16 then [pos] else (List.range 1024).map fun set => (pos.1, set, pos.2.2)
    let s := { s with quarantined := s.quarantined ++ bad, l2 := s.l2.filter fun l => !bad.contains (l.slice, l.set, l.way) }
    match ctx with | some c => s.bumpReg c 0xD0 0 8 | none => s
/-- A count by position with one more. -/
def countAt (l : List ((Nat × Nat × Nat) × Nat)) (pos : Nat × Nat × Nat) : Nat := match l.find? (·.1 == pos) with | some x => x.2 | none => 0
/-- A position's corrected errors: those within 2^30 clk (R451). -/
def State.correctedAt (s : State) (pos : Nat × Nat × Nat) : Nat :=
  (s.corrected.filter fun x => x.1 == pos && decide (s.clk < x.2 + 2 ^ 30)).length
/-- The context whose store last dirtied the line at a position of the L2 (R285). -/
def State.lineOwner (s : State) (pos : Nat × Nat × Nat) : Option Nat := (s.l2.find? fun l => (l.slice, l.set, l.way) == pos).bind (·.owner)
/-- CORRECTED ERROR (R439): a count, and for a cache line its refetch. -/
def execCorrectedError (site : ErrSite) (s : State) : Host.Outcome State Fault Refusal :=
  .next (match s.siteCtx site with
    | none => s
    | some ctx =>
      match site with
      | .accumulator cl _ => (s.bumpReg ctx (clusterReg cl 0x48) 0 16).bumpReg ctx 0xD0 16 16
      | .cacheLine unit c line =>
        { s.bumpReg ctx 0xD0 16 16 with caches := s.caches.filter fun l => !(l.unit == unit && l.ctx == c && l.vline == line) }
      | .l2 c _ slice set way =>
        let pos := (slice, set, way)
        let b : State := s.bumpReg ctx 0xD0 16 16
        let s : State := { b with corrected := s.corrected ++ [(pos, s.clk)] }
        if 16 ≤ s.correctedAt pos then s.quarantine (some ((s.lineOwner pos).getD c)) pos else s
      | _ => s.bumpReg ctx 0xD0 16 16)

/-- A partition's memory ranges without a 64 KiB granule (R451). -/
def Partition.retire (p : Partition) (granule : Nat) : Partition :=
  let lo := 65536 * granule
  { p with ranges := p.ranges.flatMap fun r =>
      if r.1 < lo + 65536 && lo < r.1 + r.2 then [(r.1, lo - r.1), (lo + 65536, r.1 + r.2 - (lo + 65536))].filter (·.2 != 0) else [r] }
/-- A dirty L2 line is lost (R451): it is poisoned and written back, its owner terminated, its granule retired, its position struck; `owner` is its
owner tag. -/
def State.loseLine (s : State) (owner : Option Nat) (line : Nat) (pos : Nat × Nat × Nat) : State :=
  let s := s.tileError (128 * line) 128
  let s := { s with
    l2 := s.l2.filter fun l => l.pline != line || (l.slice, l.set, l.way) != pos
    partitions := s.partitions.map fun (p : Nat × Partition) => (p.1, p.2.retire (line / 512)) }
  let s := match owner with | some c => s.terminate c 4 4 0 (BitVec.ofNat 64 (128 * line)) | none => s
  let n := countAt s.strikes pos + 1
  let s := { s with strikes := (pos, n) :: s.strikes.filter fun x => x.1 != pos }
  if 2 ≤ n then s.quarantine owner pos else s
/-- An uncorrected error in an L2 line (R439, R451): a clean line is fetched again; a dirty one is lost, with one of its pieces. `ctx` is the context
whose injection marked a line that the L2 could not hold. -/
def State.l2Error (s : State) (ctx line : Nat) (pos : Nat × Nat × Nat) : State :=
  match s.l2.find? fun l => l.pline == line && (l.slice, l.set, l.way) == pos with
  | none => if s.poisoned (128 * line) 128 then s.loseLine (some ctx) line pos else s
  | some l =>
    if !l.dirty then { s with l2 := s.l2.erase l }
    else
      let s := if s.poisoned (128 * line) 128 then s
        else State.setPoison { s with tick := s.tick + 1 } (128 * line + 16 * (Config.pick s.tick % 8)) 16
      s.loseLine l.owner line pos
/-- An error in a content meta entry is counted (R443, R455): in the context whose write domain it is; where there is none, in those that read the
domain (log entry 76). -/
def State.countMeta (s : State) (dom : Nat) : State :=
  match s.domains.find dom with
  | none => s
  | some d =>
    match s.serviceOf d with
    | some (c, _) => s.bumpReg c 0xD0 8 8
    | none => s.contexts.foldl (fun (s : State) (p : Nat × Context) =>
        if p.2.part == d.part && p.2.rdoms.contains d.id && p.2.configured && !p.2.terminated then s.bumpReg p.1 0xD0 8 8 else s) s
/-- UNCORRECTED ERROR (R439, R443, R451, R508). -/
def execUncorrectedError (site : ErrSite) (s : State) : Host.Outcome State Fault Refusal :=
  .next (match site with
    | .register team _ _ =>
      { s.updTeam team fun t => { t with pends := t.pends ++ [⟨s.serial, .v, 0, 0, 1, t.pc, .poison 1 (Config.rasAddr s.tick), []⟩] } with
        serial := s.serial + 1, tick := s.tick + 1 }
    | .scratchpad gang crew word => s.updCrew gang crew fun c => { c with poison := c.poison.set false word true }
    | .cacheLine unit ctx line => { s.bumpReg ctx 0xD0 16 16 with caches := s.caches.filter fun l => !(l.unit == unit && l.ctx == ctx && l.vline == line) }
    | .l2 ctx line slice set way => s.l2Error ctx line (slice, set, way)
    | .hbm _ piece => (s.setPoison (32 * (piece / 2)) 32).tileError (32 * (piece / 2)) 32
    | .accumulator cluster word =>
      (match s.arrayGang cluster with
        | some (id, _, _) => s.updArray id fun a => { a with tilePoison := a.tilePoison.set false word true }
        | none => s)
    | .tag set way => (match s.tagAt (16 * set + way) with | some t => s.dropTag (16 * set + way) t | none => s)
    | .cell ctx cell =>
      (match s.areaOf ctx with
        | some (k, a) =>
          ((s.setArea k (a.setCell cell { a.cell cell with broken := true })).bumpReg ctx 0xD0 8 8).compare k [cell]
        | none => s)
    | .metaEntry dom slot =>
      (match (s.domains.find dom).bind fun d => (d.table.find slot).map fun _ => d with
        | some d => (s.updDomain dom fun d => { d with table := d.table.erase slot }).writeBytes (d.dataAt slot) (leBytes 128 0) none
        | none => s).countMeta dom)
/-- RAS INJ (R456): an injection is armed for a context. -/
def execRasInj (ctx : Nat) (value : DWord) (s : State) : Host.Outcome State Fault Refusal := .next (s.setRasInj ctx value)

/-- A record is answered: it is closed, and records that waited for its index are written (R297, R298). -/
def State.closeFault (s : State) (ctx seq : Nat) : State :=
  let s := { s with faults := s.faults.filter fun f => !(f.ctx == ctx && f.sn == seq) }
  s.flushFaults (s.faults.filter fun f => f.ctx == ctx && !f.written)
/-- An agent's access goes on after a retry (R298). -/
def State.reissue (s : State) (f : FaultRec) : State :=
  match f.agent with
  | .team id =>
    ((s.unhaltTeam id).updTeam id fun t => { t with
      faultSeq := none, copies := t.copies.map fun c => match c.fate with | .faulted => { c with fate := .flying } | _ => c }).haltAsked id
  | .job cluster card =>
    (match s.card? cluster card with
      | none => s
      | some c =>
        if !c.formed then s.reform cluster c
        else if c.progHalt = some f.sn then (s.updCard cluster card fun c => { c with progHalt := none }).writeProgress cluster c c.lead
        else s.updCard cluster card fun c => c.resumed (s.cardSize c))
  | .ray cluster ray => s.updRay cluster ray fun r => { r with halted := none }
  | .deck _ =>
    let free (e : DeckEntry) : DeckEntry := if e.ctx == f.ctx && e.held == some f.sn then { e with held := none } else e
    s.clusters.foldl (fun (s : State) (p : Nat × Cluster) => s.updCluster p.1 fun k => { k with deck := k.deck.map free }) s
  | .array gang => (s.updArray gang fun a => { a with halted := none }).kick gang
  | .checkpoint gang crew => s.updCrew gang crew fun c => { c with rb := { c.rb with halted := none } }
  | .none => s
/-- An open record. -/
def State.fault? (s : State) (ctx seq : Nat) : Option FaultRec := s.faults.find? fun f => f.ctx == ctx && f.sn == seq
/-- RESP of a written record, where the supervisor has answered it (R297, R298); an answer is its own record's alone. -/
def State.answer (s : State) (f : FaultRec) : Option Nat :=
  match s.contexts.find f.ctx with
  | none => none
  | some c =>
    let r := f.resp.getD (s.devNat f.ctx (c.faultSlot f.sn + 0x28) 8)
    if f.written && r != 0 then some r else none
/-- FAULT RETRY (R298). -/
def execFaultRetry (ctx seq : Nat) (s : State) : Host.Outcome State Fault Refusal :=
  .next (match s.fault? ctx seq with
    | none => s
    | some f => if s.answer f = some 1 then (s.closeFault ctx seq).reissue f else s)
/-- FAULT REJECT (R298, R450). -/
def execFaultReject (ctx seq : Nat) (s : State) : Host.Outcome State Fault Refusal :=
  .next (match s.fault? ctx seq with
    | none => s
    | some f =>
      match s.answer f with
      | some r => if r = 1 then s else (s.closeFault ctx seq).terminate ctx 7 0 0 f.va
      | none => s)

/-- A cluster that is being removed has emptied: no gang, job, ray or deck entry is left on it (R452). -/
def State.clusterEmpty (s : State) (cluster : Nat) : Bool :=
  !(s.gangs.any fun (p : Nat × Gang) => p.2.here && p.2.cluster == cluster) &&
  (match s.clusters.find cluster with | some k => k.cards.isEmpty && k.rays.isEmpty && k.deck.isEmpty | none => true)
/-- The first deck among those that R340 names as a cluster's victims that takes another entry. -/
def State.roomyVictim (s : State) (cluster : Nat) : Option Nat :=
  (s.victimDecks cluster).find? fun v => match s.clusters.find v with | some k => decide (k.deck.length < 4096) | none => true
/-- The entries of a deck go to the decks that R340 names as victims, in their order while they have room, with their keys (R452); what the tag store
holds for the deck follows them. -/
def State.moveDeck (s : State) (cluster : Nat) : State :=
  match s.clusters.find cluster with
  | none => s
  | some k =>
    let s := k.deck.foldl (fun (s : State) e => match s.roomyVictim cluster with
      | some v => (s.updCluster cluster fun k => { k with deck := k.deck.erase e }).updCluster v fun w => { w with deck := w.deck ++ [e] }
      | none => s) s
    match s.victimDecks cluster with
    | v :: _ => State.refillDecks { s with tagHeld := s.tagHeld.map fun x => if x.1 = cluster then (v, x.2) else x }
    | [] => s
/-- A cluster leaves its partition, and its contexts hear of it (R453). -/
def State.leavePartition (s : State) (cluster : Nat) : State :=
  match s.partitions.find? fun (p : Nat × Partition) => p.2.clusters.contains cluster with
  | none => s
  | some (k, p) =>
    let p := { p with clusters := p.clusters.filter (· != cluster), topogen := p.topogen + 1 }
    let s := { s with partitions := s.partitions.insert k p, removing := s.removing.filter (· != cluster) }
    s.contexts.foldl (fun (s : State) (x : Nat × Context) =>
      if x.2.part = k && x.2.configured && !x.2.terminated then
        s.raise x.1 8 [BitVec.ofNat 64 p.clusters.length, BitVec.ofNat 64 p.topogen] else s) s
/-- The contexts whose gangs have not left a cluster within the pre-emption timeout (R345, R452). -/
def State.overdue (s : State) (cluster : Nat) : List Nat :=
  ((s.gangs.filter fun (p : Nat × Gang) => p.2.here && p.2.cluster == cluster && p.2.timeoutSent).map fun (p : Nat × Gang) => p.2.ctx).eraseDups
/-- CLUSTER REMOVAL (R452, R453): the firmware finds a cluster defective; later steps of a removal follow as they come due. -/
def execClusterRemoval (cluster : Nat) (s : State) : Host.Outcome State Fault Refusal :=
  .next (if s.removing.contains cluster then
      let s := ((s.overdue cluster).foldl (fun (s : State) c => s.terminate c 6 0 0 0) s).moveDeck cluster
      if s.clusterEmpty cluster then s.leavePartition cluster else s
    else
      let s := { s with removing := s.removing ++ [cluster] }
      let s := s.gangs.foldl (fun (s : State) (p : Nat × Gang) => if p.2.here && p.2.cluster = cluster then s.request p.1 else s) s
      s.moveDeck cluster)

/-- The events of errors, records and removals that are due. -/
def State.containEvents (s : State) : List Ev :=
  (s.teams.filterMap fun (p : Nat × Team) => p.2.poisonPend.bind fun q => match q.data with
    | .poison st a => some (.consumption p.1 st a)
    | _ => none) ++
  (s.gangs.flatMap fun (p : Nat × Gang) => (p.2.crews.mapIdx fun k c => (k, c)).filterMap fun x =>
    if p.2.here && (s.checkpointReady p.1 x.1 x.2 || s.closable x.2) then some (.checkpoint p.1 x.1) else none) ++
  (s.faults.filterMap fun f => (s.answer f).map fun r => if r = 1 then .faultRetry f.ctx f.sn else .faultReject f.ctx f.sn) ++
  (s.removing.filterMap fun c =>
    let moves := (match s.clusters.find c with | some k => !k.deck.isEmpty | none => false) && (s.roomyVictim c).isSome
    if s.clusterEmpty c || moves || !(s.overdue c).isEmpty then some (.clusterRemoval c) else none)

end Sys2Proof.Machine
end

