-- ==== Sys2Proof/Machine/Walks.lean ====
section
/-! DEFINITION. Page walks and what they fill (R291 to R293), and the invalidation of a virtual range (R295). -/

namespace Sys2Proof.Machine

/-- The answer of a page's controller: a translation that it holds, or a walk (R291, R292). -/
def State.answerWalk (s : State) (ctx va : Nat) : Walk :=
  match s.translations.find? (·.covers (controllerFor ctx va) ctx va) with
  | some x => .page x.vbase x.size x.pbase x.r x.w x.cls x.domain
  | none => s.walk ctx va
/-- The units whose requests for a page have joined one walk (R292). -/
def State.askers (s : State) (ctx va : Nat) : List Nat :=
  s.agenda.filterMap fun d => match d.ev with
    | .pageWalk u c va' => if c = ctx && va' / 4096 = va / 4096 then some u else none
    | _ => none
/-- PAGE WALK (R291, R292): the answer fills the page's controller and the filters of every unit that asked; a page that is not present,
malformed or out of range fills nothing. -/
def execPageWalk (unit ctx va : Nat) (s : State) : Host.Outcome State Fault Refusal :=
  .next (
    let units := (unit :: s.askers ctx va).eraseDups
    let s := { s with agenda := s.agenda.filter fun d => match d.ev with | .pageWalk _ c va' => !(c == ctx && va' / 4096 == va / 4096) | _ => true }
    match s.context? ctx with
    | none => s
    | some _ =>
      match s.answerWalk ctx va with
      | .page vb size pb r w cls dom =>
        (controllerFor ctx va :: units).foldl (fun (s : State) u => s.fill ⟨u, ctx, vb, size, pb, r, w, cls, dom⟩) s
      | .fault k l e => { s with faulted := (units.map fun u => ⟨u, ctx, va / 4096, k, l, e⟩) ++ s.faulted })

/-- Whether a translation of a context overlaps a virtual range. -/
def Translation.meets (x : Translation) (ctx base len : Nat) : Bool :=
  x.ctx == ctx && decide (x.vbase < base + len) && decide (base < x.vbase + x.size)
/-- Whether a cached line of a context lies in a virtual range. -/
def CacheLine.meets (l : CacheLine) (ctx base len : Nat) : Bool :=
  l.ctx == ctx && decide (128 * l.vline < base + len) && decide (base < 128 * l.vline + 128)
/-- The leaves of a range, in dropped translations and in the tables as they stand: for each page its frame and whether its name is private
(R295 steps 3 and 5). -/
def State.rangeFrames (s : State) (ctx base len : Nat) (dropped : List Translation) : List (Nat × Bool) :=
  (List.range (len / 4096)).flatMap fun k =>
    let va := base + 4096 * k
    ((dropped.filter fun x => decide (x.vbase ≤ va) && decide (va < x.vbase + x.size)).map fun x => (x.phys va / 4096, x.isPrivate)) ++
    match s.walk ctx va with
    | .page vb _ pb _ w cls _ => [((pb + (va - vb)) / 4096, cls == 0 && w)]
    | .fault _ _ _ => []
/-- Crews that hold a store of a range: their intervals become ineligible and the stores drain (R295 step 2, R448). -/
def State.drainRange (s : State) (ctx base len : Nat) : State :=
  (s.gangs.flatMap fun (p : Nat × Gang) => if p.2.ctx = ctx then (List.range p.2.crews.length).map fun k => (p.1, k) else []).foldl
    (fun (s : State) x =>
      match (s.gangs.find x.1).bind (·.crew? x.2) with
      | some c =>
        if c.rb.held.any fun h => decide (base ≤ h.1) && decide (h.1 < base + len) then
          ((s.drainHeld x.1 x.2).updCrew x.1 x.2 fun c => { c with rb := { c.rb with eligible := false } }).bumpReg ctx 0xD0 32 16
        else s
      | none => s) s
/-- Whether a private name of an L2 line belongs to a virtual range of a context. -/
def LineName.within (n : LineName) (ctx base len : Nat) : Bool :=
  match n with
  | .priv c v => c == ctx && decide (base ≤ 128 * v) && decide (128 * v < base + len)
  | .canon _ => false
/-- A virtual range of a context is unmapped and invalidated (R295): translations, filter entries and cached lines go at once; the context's
accesses that have passed their checks are performed; then the range's lines leave the L2 and its frames become free. -/
def State.invalidate (s : State) (ctx base len : Nat) : State :=
  let dropped := s.translations.filter (·.meets ctx base len)
  let leaves := s.rangeFrames ctx base len dropped
  let s := (s.performAllOf (·.ctx == ctx)).drainRange ctx base len
  let mine (f : Nat × FrameState) : Bool := match f.2 with
    | .claimed c v => c == ctx && decide (base ≤ 4096 * v) && decide (4096 * v < base + len)
    | .canonical => leaves.contains (f.1, false)
    | _ => false
  let gone (l : L2Line) : Bool := l.name.within ctx base len || (l.name == .canon l.pline && leaves.any (·.1 == l.pline / 32))
  { s with
    translations := s.translations.filter fun x => !x.meets ctx base len
    faulted := s.faulted.filter fun w => !(w.ctx == ctx && decide (base ≤ 4096 * w.vpage) && decide (4096 * w.vpage < base + len))
    caches := s.caches.filter fun l => !l.meets ctx base len
    l2 := s.l2.filter fun l => !gone l
    frames := s.frames.filter fun f => !mine f }

end Sys2Proof.Machine
end

