-- ==== Sys2Proof/Machine/Commands.lean ====
section
/-! DEFINITION. The host's commands (R491 to R495): the channel's acceptance rules, and what each command does. -/

namespace Sys2Proof.Machine

/-- A management register as it is stored (R506). -/
def State.mgtReg (s : State) (a : Nat) : DWord := s.mgt.get 0 a
/-- The partition of a channel. -/
def chanPart (ch : Nat) : Nat := ch % 16
/-- A channel's state; one that has carried nothing starts at 0. -/
def State.channel (s : State) (ch : Nat) : Channel := match s.channels.find ch with | some c => c | none => ⟨0, 0, 0, []⟩
/-- Whether a message of a channel reaches its partition: through a ready port on which the partition has a credit share (R489,
R503). -/
def State.reached (s : State) (ch : Nat) : Bool :=
  s.powered &&
  match s.partitions.find (chanPart ch) with
  | some p => (List.range 16).any fun i => (s.mgtReg 0x08).getLsbD (10 + i) && p.credit.getD i 0 != 0
  | none => false
/-- The acknowledgement that carries LASTACC is sent (R491). -/
def State.ack (s : State) (ch : Nat) : State :=
  let c := s.channel ch
  { s with channels := s.channels.insert ch { c with acks := c.acks ++ [c.lastAcc] } }
/-- The distance of a sequence from LASTACC (R491). -/
def seqDist (seq : Nat) (acc : Word) : Nat := (seq + 2 ^ 32 - acc.toNat) % 2 ^ 32
/-- A command message is accepted, performed and completed, or answered or dropped (R491). -/
def State.hostCommand (s : State) (ch seq : Nat) (body : State → State) : State :=
  if !s.reached ch then s
  else
    let c := s.channel ch
    let d := seqDist seq c.lastAcc
    if d = 1 then
      if c.outstanding < 64 then
        let s : State := { s with channels := s.channels.insert ch { c with lastAcc := BitVec.ofNat 32 seq, outstanding := c.outstanding + 1 } }
        let s := body (s.ack ch)
        let c := s.channel ch
        { s with channels := s.channels.insert ch { c with lastDone := BitVec.ofNat 32 seq, outstanding := c.outstanding - 1 } }
      else s
    else s.ack ch
/-- Whether a partition owns a configured context (R492). -/
def State.owns (s : State) (ch ctx : Nat) : Bool :=
  match s.contexts.find ctx with | some c => c.configured && c.part == chanPart ch | none => false
/-- A command is answered with an event of its context; where the partition owns no such context, the event bears no sequence of one (log entry
25). -/
def State.reply (s : State) (ch kind ctx : Nat) (args : List DWord) : State :=
  if s.owns ch ctx then s.raise ctx kind args
  else { s with sent := s.sent ++ [⟨ch, eventWords ⟨0, kind, s.clk, args⟩ ctx (chanPart ch)⟩] }
/-- A command is completed with a command-refused event (R492). -/
def State.refuse (s : State) (ch seq op ctx : Nat) : State := s.reply ch 9 ctx [BitVec.ofNat 64 seq, BitVec.ofNat 64 op]
/-- A command that names a context (R492). -/
def State.onContext (s : State) (ch seq op ctx : Nat) (f : Context → State → State) : Host.Outcome State Fault Refusal :=
  .next (s.hostCommand ch seq fun s =>
    match s.contexts.find ctx with
    | some c => if s.owns ch ctx then f c s else s.refuse ch seq op ctx
    | none => s.refuse ch seq op ctx)

/-- LAUNCH (R326, R39, R492): a context that the partition does not own breaks the Values column of R326, cause 4. -/
def execLaunch (ch seq ctx kbase gangs tail prio param swap : Nat) (s : State) : Host.Outcome State Fault Refusal :=
  .next (s.hostCommand ch seq fun s =>
    if s.owns ch ctx then s.launch seq ctx kbase gangs tail prio (BitVec.ofNat 64 param) swap
    else s.reply ch 2 ctx [BitVec.ofNat 64 seq, 4])
/-- COMMAND REFUSED (R492): an unknown OP, or a context that the partition does not own. -/
def execCommandRefused (ch seq op ctx : Nat) (s : State) : Host.Outcome State Fault Refusal :=
  .next (s.hostCommand ch seq fun s => s.refuse ch seq op ctx)

/-- Whether a message on its way belongs to a context. -/
def evOf (ctx : Nat) (e : Ev) : Bool :=
  match e with
  | .pageWalk _ c _ => c == ctx
  | .oleaveArrival c _ _ => c == ctx
  | .oskipArrival c _ _ => c == ctx
  | .secReset c => c == ctx
  | .secFree c => c == ctx
  | .secQuery c => c == ctx
  | .clearall c => c == ctx
  | .secBadOp c => c == ctx
  | .dbgHalt c => c == ctx
  | .dbgResume c => c == ctx
  | .dbgStep c => c == ctx
  | .dbgQuery c => c == ctx
  | .dbgRead c => c == ctx
  | .dbgEdit c => c == ctx
  | .dbgDiscard c => c == ctx
  | .dbgBadOp c => c == ctx
  | .yrdAbort c _ => c == ctx
  | .apertureSubmit c _ _ _ => c == ctx
  | _ => false
/-- A context ends without an event: its stores are applied, its teams, grids, engine work, records and messages are gone, and the L2's owner tags no
longer name it (R451, R492, R501). -/
def State.endContext (s : State) (ctx : Nat) : State :=
  let s := s.applyStores ctx
  let s := s.teams.foldl (fun (s : State) (p : Nat × Team) => if p.2.ctx = ctx then s.dropTeam p.1 2 else s) s
  let s := ((s.stopEngines ctx).refillDecks).endService ctx
  { s with
    l2 := s.l2.map fun l => if l.owner == some ctx then { l with owner := none } else l
    grids := s.grids.filter fun (p : Nat × Grid) => p.2.ctx != ctx
    faults := s.faults.filter fun f => f.ctx != ctx
    faulted := s.faulted.filter fun w => w.ctx != ctx
    agenda := s.agenda.filter fun d => !evOf ctx d.ev
    translations := s.translations.filter fun x => x.ctx != ctx
    caches := s.caches.filter fun l => l.ctx != ctx
    samples := s.samples.filter fun (p : Nat × (Nat × Nat)) => p.1 % 64 != ctx }

/-- The read domains of a descriptor (R495). -/
def descReads (d : Nat) : List Nat := (List.range (field d 0x3B 1)).map fun i => field d (0x3E + 2 * i) 2 % 4096
/-- Whether a descriptor keeps the table of R495. -/
def descOk (d : Nat) : Bool :=
  let f := field d
  f 0x24 4 == 0 && f 0x44 4 == 0 && f 0x6C 20 == 0 && f 0x08 8 / 16 % 256 == 0 && decide (f 0x08 8 % 16 ≤ 6) && decide (f 0x20 4 ≤ 65536) &&
  decide (f 0x3B 1 ≤ 3) && f 0x3C 2 / 4096 % 8 == 0 && f 0x48 8 % 524288 == 0 && f 0x50 8 % 4096 == 0 && decide (f 0x58 4 ≤ 65536) &&
  f 0x5C 4 % 4096 == 0 && f 0x60 8 % 64 == 0 && decide (f 0x68 4 ≤ 2 ^ 20) &&
  (f 0x38 1 == 0 || (decide (10 ≤ f 0x38 1) && decide (f 0x38 1 ≤ 20) && f 0x30 8 % 65536 == 0)) && decide (f 0x39 1 < 16) && decide (f 0x3A 1 < 16)
/-- Whether the domains that a descriptor names have been created in a partition (R495). -/
def State.descDomains (s : State) (part d : Nat) : Bool :=
  (field d 0x3C 2 < 32768 || (s.domains.find (domKey part (field d 0x3C 2 % 4096))).isSome) &&
  (descReads d).all fun r => (s.domains.find (domKey part r)).isSome
/-- The context of a descriptor (R495). -/
def contextOf (ch d : Nat) : Context :=
  let f := field d
  { Context.blank (chanPart ch) ch (f 0x00 8) with
    fring := f 0x08 8 / 4096 * 4096, flog := f 0x08 8 % 16 + 6, tmpl := f 0x10 8, tgt := f 0x18 8, tcount := f 0x20 4, mbox := f 0x28 8
    secBase := f 0x30 8, secLog := f 0x38 1, homePkg := f 0x39 1, pkgIdx := f 0x3A 1
    wdom := if f 0x3C 2 < 32768 then none else some (f 0x3C 2 % 4096)
    rdoms := descReads d, regva := f 0x48 8, tpool := f 0x50 8, tpcount := f 0x58 4, tpsize := f 0x5C 4, desc := f 0x60 8, dcount := f 0x68 4 }
/-- Frames from a physical address on are claimed by a unit of the device (R294, R378, R391). -/
def State.claimUnit (s : State) (pa n : Nat) : State :=
  { s with frames := (List.range ((n + 4095) / 4096)).foldl (fun (m : SMap FrameState) k => m.set .free (pa / 4096 + k) .unit) s.frames }
/-- A section area is configured at its home: every cell is zero, and its frames are the section unit's (R378, R379). -/
def State.newArea (s : State) (c : Context) : State :=
  if c.secLog = 0 || c.homePkg != c.pkgIdx then s
  else ({ s with areas := s.areas.erase (s.areaKey c) }).claimUnit c.secBase (65536 + 16 * 2 ^ c.secLog)
/-- CTXCFG (R492, R495). -/
def execCtxcfg (ch seq ctx : Nat) (desc : BitVec 1024) (s : State) : Host.Outcome State Fault Refusal :=
  .next (s.hostCommand ch seq fun s =>
    let d := desc.toNat
    if 64 ≤ ctx || ((s.contexts.find ctx).isSome && !s.owns ch ctx) || !descOk d || !s.descDomains (chanPart ch) d then s.refuse ch seq 2 ctx
    else
      let s := s.endContext ctx
      let c := contextOf ch d
      (State.newArea { s with contexts := s.contexts.insert ctx c } c).admitSets)

/-- INVAL (R295). -/
def execInval (ch seq ctx base len : Nat) (s : State) : Host.Outcome State Fault Refusal :=
  s.onContext ch seq 3 ctx fun _ s =>
    if base % 4096 = 0 && len % 4096 = 0 then s.invalidate ctx base len else s.refuse ch seq 3 ctx
/-- KILL (R383): the team that an identity names is removed. -/
def execKill (ch seq ctx : Nat) (ident : DWord) (s : State) : Host.Outcome State Fault Refusal :=
  s.onContext ch seq 4 ctx fun _ s =>
    match s.teams.find? fun (p : Nat × Team) => p.2.ctx == ctx && p.2.ident == ident with
    | some (id, _) => s.dropTeam id 2
    | none => s
/-- TERM (R450, R492). -/
def execTerm (ch seq ctx : Nat) (s : State) : Host.Outcome State Fault Refusal :=
  s.onContext ch seq 5 ctx fun c s => if c.terminated then s else s.terminate ctx 8 0 0 0
/-- EVREAD (R492, R493): held events are sent again; a request for an older one is refused. -/
def execEvread (ch seq ctx first count : Nat) (s : State) : Host.Outcome State Fault Refusal :=
  s.onContext ch seq 6 ctx fun c s =>
    let age := (c.eventSeq + 2 ^ 32 - first % 2 ^ 32) % 2 ^ 32
    if 64 < count || (c.events.length < age && age < 2 ^ 31) then s.refuse ch seq 6 ctx
    else if 2 ^ 31 ≤ age then s
    else { s with sent := s.sent ++ ((c.events.drop (c.events.length - age)).take count).map fun e => ⟨c.channel, eventWords e ctx c.part⟩ }

/-- The logarithm of a table size that R391 allows: 0 for no table. -/
def tableLog (lines : Nat) : Option Nat := if lines = 0 then some 0 else (List.range 29).find? fun m => decide (12 ≤ m) && lines == 2 ^ m
/-- Whether a number of heap slots is a power of two up to 2^24 (R422). -/
def heapOk (n : Nat) : Bool := (List.range 25).any fun m => n == 2 ^ m
/-- DOMAIN CREATE (R391, R422, R492): the window and the line table exist. The message's context byte names only who hears of a
refusal. -/
def execDomainCreate (ch seq ctx domain hslots lines : Nat) (s : State) : Host.Outcome State Fault Refusal :=
  .next (s.hostCommand ch seq fun s =>
    match (if decide (domain < 4096) && heapOk hslots then tableLog lines else none) with
    | none => s.refuse ch seq 7 ctx
    | some m =>
      let k := domKey (chanPart ch) domain
      if (s.domains.find k).isSome then s
      else
        let s : State := { s with serial := s.serial + 1, domains := s.domains.insert k ⟨domain, chanPart ch, hslots, m, s.serial, [], [], false⟩ }
        if m = 0 then s
        else
          let base := Config.linePhys (chanPart ch) domain
          let s : State := { s with mem := s.mem.filter fun (p : Nat × Byte) => !(decide (base ≤ p.1) && decide (p.1 < base + 128 * 2 ^ m)) }
          s.claimUnit (Config.metaPhys (chanPart ch) domain) (16 * 2 ^ m))
/-- Whether a physical address lies in a domain's window or line table (R391, R422). -/
def Domain.owns (d : Domain) (a : Nat) : Bool :=
  let within (base n : Nat) : Bool := decide (base ≤ a) && decide (a < base + n)
  (d.lines != 0 && (within (Config.linePhys d.part d.id) (128 * 2 ^ d.lines) || within (Config.metaPhys d.part d.id) (16 * 2 ^ d.lines))) ||
  (List.range (2 ^ 24)).any fun k => within (Config.windowPhys d.part d.id k) 4096
/-- A domain is scrubbed and freed (R492). -/
def State.dropDomain (s : State) (k : Nat) (d : Domain) : State :=
  { s with
    domains := s.domains.erase k
    mem := s.mem.filter fun (p : Nat × Byte) => !d.owns p.1
    poison := s.poison.filter fun (p : Nat × Bool) => !d.owns (16 * p.1)
    l2 := s.l2.filter fun l => !d.owns (128 * l.pline)
    frames := s.frames.filter fun (p : Nat × FrameState) => !(p.2 == FrameState.unit && d.owns (4096 * p.1))
    tags := s.tags.filter fun (p : Nat × Tag) => p.2.domain != k
    cascade := s.cascade.filter fun x => x.2.1 != k }
/-- Whether a live context of a partition names a domain (R492). -/
def State.domainNamed (s : State) (part domain : Nat) : Bool :=
  s.contexts.any fun (p : Nat × Context) => p.2.configured && !p.2.terminated && p.2.part == part && p.2.domains.contains domain
/-- DOMAIN DELETE (R492). -/
def execDomainDelete (ch seq ctx domain : Nat) (s : State) : Host.Outcome State Fault Refusal :=
  .next (s.hostCommand ch seq fun s =>
    if s.domainNamed (chanPart ch) domain then s.refuse ch seq 7 ctx
    else
      match s.domains.find (domKey (chanPart ch) domain) with
      | some d => s.dropDomain (domKey (chanPart ch) domain) d
      | none => s)
/-- SVCROLE (R492): the grid, which must be one of the context's, becomes the service role. -/
def execSvcrole (ch seq ctx grid : Nat) (s : State) : Host.Outcome State Fault Refusal :=
  s.onContext ch seq 8 ctx fun _ s =>
    if (s.grids.find (gridKey ctx grid)).isSome then s.updContext ctx fun c => { c with service := some grid } else s

/-- DEBUG GRANT (R462, R474, R492): the holder, its node and its rights, under the next generation. -/
def execDebugGrant (ch seq ctx holder node rights : Nat) (s : State) : Host.Outcome State Fault Refusal :=
  s.onContext ch seq 9 ctx fun c s =>
    if c.mbox = 0 || !(holder = 1 || holder = 2) then s.refuse ch seq 9 ctx
    else
      let gen := ((s.winReg ctx (dbg 0)).extractLsb' 16 16).toNat + 1
      let s := s.setReg ctx (dbg 0) (fld 62 2 holder ||| fld 32 16 node ||| fld 16 16 gen ||| fld 0 4 rights)
      { (s.setReg ctx (dbg 8) (Config.grantLines s.tick) : State) with tick := s.tick + 1 }
/-- A team as a revocation leaves it: no edits, no step, no halt that the debugger asked for (R464). -/
def State.releaseTeam (s : State) (id : Nat) : State :=
  match s.teams.find id with
  | none => s
  | some t =>
    let held := decide (1 ≤ t.halt) && decide (t.halt ≤ 5)
    let t' := { t with edits := [], haltWanted := false, stepState := 0, watchHit := none, pc := if t.halt = 3 then nextPc t.pc false else t.pc }
    let s := s.setTeam id t'
    if held then (s.unhaltTeam id).trace t' t'.pc 13 t.halt else s
/-- Commands that the stub has not answered are answered REVOKED, where the mailbox can be written (R464 step 6). -/
def State.revokeReplies (s : State) (ctx : Nat) (c : Context) : State :=
  if c.mbox = 0 || !s.devWritable ctx c.mbox then s
  else
    let cmd := s.devNat ctx c.mbox 8
    let ack := s.devNat ctx (c.mbox + 8) 8
    if cmd ≤ ack then s
    else
      let from_ := max (ack + 1) (cmd - 15)
      let s := (List.range (cmd + 1 - from_)).foldl (fun (s : State) k =>
        s.devWrite ctx (c.mbox + 0x800 + 64 * ((from_ + k - 1) % 16)) (leBytes 4 (from_ + k) ++ leBytes 4 11 ++ leBytes 56 0)) s
      s.devWrite ctx (c.mbox + 8) (leBytes 8 cmd)
/-- The registers that a revocation clears: breakpoints, watchpoints and trigger slots (R464 step 2). -/
def revokedRegs : List Nat :=
  ((List.range 8).map fun k => dbg (0x80 + 8 * k)) ++ ((List.range 4).map fun k => dbg (0xC0 + 8 * k)) ++ ((List.range 8).map fun k => dbg (0x100 + 8 * k))
/-- DEBUG REVOKE (R464), its seven steps. -/
def execDebugRevoke (ch seq ctx : Nat) (s : State) : Host.Outcome State Fault Refusal :=
  s.onContext ch seq 9 ctx fun c s =>
    let gen := ((s.winReg ctx (dbg 0)).extractLsb' 16 16).toNat + 1
    let s := revokedRegs.foldl (fun (s : State) off => s.setReg ctx off 0) s
    let s := s.teams.foldl (fun (s : State) (p : Nat × Team) => if p.2.ctx = ctx then s.releaseTeam p.1 else s) s
    let s := s.updContext ctx fun c => { c with haltRecs := c.haltRecs.filter fun h => decide (6 ≤ h.reason) }
    let s := (s.setReg ctx (dbg 0x38) 0).revokeReplies ctx c
    (s.setReg ctx (dbg 0) (fld 16 16 gen)).admitSets
/-- ATTEST (R500): a signature takes a fresh leaf; once the leaves are spent the command is refused. -/
def execAttest (ch seq ctx : Nat) (nonce : BitVec 256) (s : State) : Host.Outcome State Fault Refusal :=
  .next (s.hostCommand ch seq fun s =>
    if 2 ^ 20 ≤ s.lmsLeaf then s.refuse ch seq 10 ctx
    else { s with lmsLeaf := s.lmsLeaf + 1, sent := s.sent ++ [⟨ch, Config.report nonce (chanPart ch) s.bootCount s.lmsLeaf⟩] })

end Sys2Proof.Machine
end

