-- ==== Sys2Proof/Machine/Debug.lean ====
section
/-! DEFINITION. The debugger's commands on teams (R468 to R472), steps (R470), halt event records (R474), watchpoint writes (R473),
trigger pulses (R478) and stall samples (R477). -/

namespace Sys2Proof.Machine

/-- The team that DBG_TEAM names (R468). -/
def State.dbgTarget (s : State) (ctx : Nat) : Option (Nat × Team) :=
  s.teams.find? fun (p : Nat × Team) => p.2.ctx == ctx && p.2.ident == s.winReg ctx (dbg 0x10) && !p.2.ended
/-- Whether a team counts as saved: its gang is swapped out, or it is past its save routine (R468). -/
def State.isSaved (s : State) (t : Team) : Bool := t.gone || !s.residentTeam t
/-- The control block of a saved team as memory holds it (R349). -/
def State.blockField (s : State) (t : Team) (off n : Nat) : Nat := s.devNat t.ctx (t.saveBase - 2048 + off) n
/-- The STATE of a team (R468). -/
def State.dbgState (s : State) (t : Team) : Nat :=
  if s.isSaved t then (if t.haltWanted then 4 else 3) else if t.halt = 0 then 1 else 2
/-- The PC that a team shows: its safe-point PC when saved (R468). -/
def State.dbgPc (s : State) (t : Team) : Word := if s.isSaved t then BitVec.ofNat 32 (s.blockField t 8 4) else t.pc

/-- A command is done: GO reads 0, with RESULT and PEND (R468). -/
def State.dbgDone (s : State) (ctx result : Nat) (pend : Bool) : State :=
  let r := s.winReg ctx (dbg 0x28)
  s.setReg ctx (dbg 0x28) ((r &&& 0x7800FFFFFFFFFFFF#64) ||| fld 55 4 result ||| fld 54 1 (bit pend))
/-- The checks that every command on a team makes: the right, the team, the service role (R463, R468). -/
def State.dbgCommand (s : State) (ctx : Nat) (right : Option Nat) (f : Nat → Team → State → State) : Host.Outcome State Fault Refusal :=
  .next (
    if (match right with | some k => !(holderKind (s.winReg ctx (dbg 0)) != 0 && s.hasRight ctx k) | none => false) then s.dbgDone ctx 3 false
    else
      match s.dbgTarget ctx with
      | none => s.dbgDone ctx 1 false
      | some (id, t) => if s.inService t then s.dbgDone ctx 4 false else f id t s)

/-- DBG HALT (R469): a team that stands at a page fault halts when its slot would issue again (log entry 87). -/
def execDbgHalt (ctx : Nat) (s : State) : Host.Outcome State Fault Refusal :=
  s.dbgCommand ctx (some 0) fun id t s =>
    let s :=
      if s.isSaved t || t.halt = 7 then s.setTeam id { t with haltWanted := true }
      else if t.halt = 0 then s.haltTeam id 1 0
      else s
    s.dbgDone ctx 0 false
/-- Whether a team's halt is one of the debugger's (R469). -/
def Team.debugHalted (t : Team) : Bool := decide (1 ≤ t.halt) && decide (t.halt ≤ 5)
/-- A team goes on after a debugger's halt: after `brk` at the next slot, at a breakpoint without checking it again (R224, R470). -/
def State.resumeTeam (s : State) (id : Nat) (t : Team) (step : Nat) : State :=
  let t' := if t.halt = 3 then { t with pc := nextPc t.pc false } else t
  let t' := t'.applyEdits
  let t' := { t' with bpSkip := t.halt == 2 && t'.pc == t.pc, stepState := step }
  ((s.setTeam id t').unhaltTeam id).trace t' t'.pc 13 t.halt
/-- DBG RESUME (R469, R471). -/
def execDbgResume (ctx : Nat) (s : State) : Host.Outcome State Fault Refusal :=
  s.dbgCommand ctx (some 0) fun id t s =>
    if t.debugHalted && !s.isSaved t then (s.resumeTeam id t 0).dbgDone ctx 0 false else s.dbgDone ctx 2 false
/-- DBG STEP (R469, R470). -/
def execDbgStep (ctx : Nat) (s : State) : Host.Outcome State Fault Refusal :=
  s.dbgCommand ctx (some 0) fun id t s =>
    if t.debugHalted && !s.isSaved t then (s.resumeTeam id t 1).dbgDone ctx 0 false else s.dbgDone ctx 2 false
/-- STATE, HREASON and PC go into DBG_CTL (R468). -/
def State.dbgShow (s : State) (ctx state reason : Nat) (pc : Word) : State :=
  let r := s.winReg ctx (dbg 0x28)
  s.setReg ctx (dbg 0x28) ((r &&& 0xFFFF000000000000#64) ||| fld 40 8 reason ||| fld 32 8 state ||| pc.setWidth 64)
/-- DBG QUERY (R469). -/
def execDbgQuery (ctx : Nat) (s : State) : Host.Outcome State Fault Refusal :=
  .next (match s.dbgTarget ctx with
    | none => (s.dbgShow ctx 0 0 0).dbgDone ctx 1 false
    | some (_, t) =>
      if s.inService t then s.dbgDone ctx 4 false
      else (s.dbgShow ctx (s.dbgState t) t.halt (s.dbgPc t)).dbgDone ctx 0 false)

/-- The fields of DBG_ARG (R468). -/
structure DbgItem where
  kind : Nat
  index : Nat
  lane : Nat
  deriving DecidableEq, Repr
/-- The item that DBG_ARG names, unless a reserved bit is set or the register does not exist (R17, R468, R471). -/
def dbgItem (t : Team) (arg : DWord) : Option DbgItem :=
  let x : DbgItem := ⟨(arg.extractLsb' 0 4).toNat, (arg.extractLsb' 8 8).toNat, (arg.extractLsb' 16 10).toNat⟩
  let good := match x.kind with
    | 0 => decide (x.index < t.vregs) && decide (x.lane < t.lanes)
    | 1 => decide (x.index < t.sregs)
    | 2 => decide (x.index < 128) && decide (32 * (x.lane / 32) < t.lanes)
    | 3 => decide (x.index < 32)
    | 4 => decide (x.index < 32)
    | 10 => decide (x.index < 4)
    | k => decide (5 ≤ k) && decide (k ≤ 9)
  if arg.extractLsb' 26 38 = 0#38 && arg.extractLsb' 4 4 = 0#4 && good then some x else none
/-- The value of an item (R468, R469); the masks, PC and path slots of a saved team are those of its control block. -/
def State.dbgValue (s : State) (t : Team) (x : DbgItem) : DWord :=
  let saved := s.isSaved t
  match x.kind with
  | 0 => (t.V x.lane x.index).setWidth 64
  | 1 => (t.S x.index).setWidth 64
  | 2 => (maskWord (t.P x.index) (x.lane / 32)).setWidth 64
  | 3 => if saved then BitVec.ofNat 64 (s.blockField t (0x40 + 4 * x.index) 4) else (maskWord t.ex x.index).setWidth 64
  | 4 => if saved then BitVec.ofNat 64 (s.blockField t (0xC0 + 4 * x.index) 4) else (maskWord t.live x.index).setWidth 64
  | 5 => (s.dbgPc t).setWidth 64
  | 6 => t.tpc.setWidth 64
  | 7 => t.tcause.setWidth 64
  | 8 => t.taddr
  | 9 => BitVec.ofNat 64 t.modes
  | _ =>
    if saved then BitVec.ofNat 64 (s.blockField t (0x140 + 144 * x.index) 4)
    else match t.slots[x.index]? with | some p => p.word.setWidth 64 | none => 0
/-- Whether an item is a pending register (R468). -/
def Team.dbgPending (t : Team) (x : DbgItem) : Bool :=
  match x.kind with
  | 0 => (t.pendOf .v x.index).isSome
  | 1 => (t.pendOf .s x.index).isSome
  | 2 => (t.pendOf .p x.index).isSome
  | _ => false
/-- DBG READ (R469). -/
def execDbgRead (ctx : Nat) (s : State) : Host.Outcome State Fault Refusal :=
  s.dbgCommand ctx (some 1) fun _ t s =>
    if t.halt = 0 && !s.isSaved t then s.dbgDone ctx 2 false
    else
      match dbgItem t (s.winReg ctx (dbg 0x18)) with
      | none => s.dbgDone ctx 6 false
      | some x =>
        if s.isSaved t && (x.kind = 0 || x.kind = 1 || x.kind = 9) then s.dbgDone ctx 7 false
        else (s.setReg ctx (dbg 0x20) (s.dbgValue t x)).dbgDone ctx 0 (t.dbgPending x)
/-- Whether a value may be edited into an item (R471). -/
def editOk (x : DbgItem) (v : DWord) : Bool :=
  match x.kind with
  | 0 => true
  | 1 => true
  | 2 => true
  | 3 => true
  | 5 => v.extractLsb' 0 2 == 0#2 && v.extractLsb' 2 2 != 0#2
  | 6 => v.extractLsb' 0 2 == 0#2 && v.extractLsb' 2 2 != 0#2
  | 9 => v &&& ~~~0x77FFF#64 == 0#64 && decide ((v.extractLsb' 8 4).toNat ≤ 8)
  | _ => false
/-- The teams of a context that have an edit buffer (R471). -/
def State.editBuffers (s : State) (ctx : Nat) : Nat :=
  (s.teams.filter fun (p : Nat × Team) => p.2.ctx == ctx && !p.2.edits.isEmpty).length
/-- DBG EDIT (R469, R471). -/
def execDbgEdit (ctx : Nat) (s : State) : Host.Outcome State Fault Refusal :=
  s.dbgCommand ctx (some 1) fun id t s =>
    if t.halt = 0 && !s.isSaved t then s.dbgDone ctx 2 false
    else
      let v := s.winReg ctx (dbg 0x20)
      let arg := s.winReg ctx (dbg 0x18)
      match dbgItem t arg with
      | none => s.dbgDone ctx 6 false
      | some x =>
        if !editOk x v then s.dbgDone ctx 6 false
        else if 16 ≤ t.edits.length || (t.edits.isEmpty && decide (64 ≤ s.editBuffers ctx)) then s.dbgDone ctx 5 false
        else (s.setTeam id { t with edits := t.edits ++ [(arg, v)] }).dbgDone ctx 0 false
/-- DBG DISCARD (R469). -/
def execDbgDiscard (ctx : Nat) (s : State) : Host.Outcome State Fault Refusal :=
  s.dbgCommand ctx (some 1) fun id t s => (s.setTeam id { t with edits := [] }).dbgDone ctx 0 false
/-- DBG BAD OP (R468). -/
def execDbgBadOp (ctx : Nat) (s : State) : Host.Outcome State Fault Refusal := .next (s.dbgDone ctx 8 false)

/-- Whether a step of a team is over and its halt is due (R470). -/
def Team.stepOver (t : Team) : Bool := t.stepState == 2 && t.halt == 0
/-- STEP HALT (R470): the team halts with reason 4 before its next slot. -/
def execStepHalt (team : Nat) (s : State) : Host.Outcome State Fault Refusal :=
  .next (match s.teams.find team with
    | none => s
    | some t => if t.stepOver then (s.setTeam team { t with stepState := 0 }).haltTeam team 4 0 else s)

/-- The 64 bytes of a halt event record (R474). -/
def HaltRec.bytes (h : HaltRec) (seq : Nat) : List Byte :=
  leBytes 8 seq ++ dwordBytes h.team ++ leBytes 8 h.time ++ wordBytes h.pc ++ leBytes 1 h.reason ++ leBytes 1 h.index ++ leBytes 1 h.wpset ++
  leBytes 1 h.group ++ wordBytes h.exsum ++ wordBytes h.exw ++ leBytes 1 h.exi ++ leBytes 3 0 ++ wordBytes h.wmask ++ wordBytes h.woff ++ leBytes 12 0
/-- Whether a context's next halt record can be written: the mailbox page can be written, and the event ring has room (R474). -/
def State.haltRoom (s : State) (ctx : Nat) (c : Context) : Bool :=
  c.mbox != 0 && s.devWritable ctx c.mbox && decide (s.devNat ctx (c.mbox + 0x10) 8 - s.devNat ctx (c.mbox + 0x18) 8 < 16)
/-- HALT EVENT (R474): the first waiting record of a context is written, then EVSEQ. -/
def execHaltEvent (ctx : Nat) (s : State) : Host.Outcome State Fault Refusal :=
  .next (match s.context? ctx with
    | none => s
    | some c =>
      match c.haltRecs with
      | [] => s
      | h :: hs =>
        if s.haltRoom ctx c then
          let n := s.devNat ctx (c.mbox + 0x10) 8 + 1
          let s := s.updContext ctx fun c => { c with haltRecs := hs }
          (s.devWrite ctx (c.mbox + 0xC00 + 64 * ((n - 1) % 16)) (h.bytes n)).devWrite ctx (c.mbox + 0x10) (leBytes 8 n)
        else s)

/-- DBG WP WRITE (R473): a write to a watchpoint register by an agent. -/
def execDbgWpWrite (who : Agent) (ctx off : Nat) (value : DWord) (s : State) : Host.Outcome State Fault Refusal :=
  .next (if dbg 0xC0 ≤ off && off < dbg 0x100 then s.regWrite who ctx off 8 value else s)
/-- DBG PULSE (R463, R478): a write that counts is its holder's, under a right with TRACE. -/
def execDbgPulse (ctx : Nat) (value : DWord) (s : State) : Host.Outcome State Fault Refusal :=
  .next (if holderKind (s.winReg ctx (dbg 0)) != 0 && s.mayTrace ctx then s.dbgPulseWrite ctx value else s)
/-- TRIGGER PIN (R478, R505): a pin that is an input pulses its line. -/
def execTriggerPin (pin : Nat) (s : State) : Host.Outcome State Fault Refusal :=
  .next (if decide (pin < 8) && (s.mgt.get 0 0x20).toNat / 4 ^ pin % 4 = 1 then s.pulse (1#64 <<< (56 + pin)) else s)

/-- The stall reason of a condition that names no register (R65, R172, R186, R199, R244, R256, R293). -/
def condReason (c : Cond) : Nat :=
  match c with
  | .page _ _ => 1
  | .words _ _ => 3
  | .queueRoom _ _ => 5
  | .commandRoom => 5
  | .rayRoom => 5
  | .cardRoom => 6
  | .deckRoom => 6
  | _ => 13
/-- The pending entry that a blocked team is blamed on: of the register that it waits for, or the oldest (R66). -/
def Team.blamed (t : Team) (c : Cond) : Option Pend :=
  match c with
  | .reg f n => t.pendOf f n
  | .scoreboard _ => t.pends.head?
  | .acquires => t.pends.find? fun p => match p.data with | .entering _ => true | _ => false
  | _ => none
/-- The file code of a stall sample (R477). -/
def fileCode (f : RFile) : Nat := match f with | .v => 0 | .s => 1 | .p => 2
/-- BPC, REASON, FILE and REG of a stall sample of a team (R477). -/
def State.sampleOf (s : State) (id : Nat) (t : Team) : Word × Nat × Nat × Nat :=
  let cond := if t.noPath then ((t.slots.find? (·.v)).bind (·.blk)) else t.blk
  if t.halt = 6 || t.halt = 7 then (0, 19, 0xFF, 0)
  else if t.halt ≠ 0 then (0, 18, 0xFF, 0)
  else
    match cond with
    | some c =>
      if condHolds s id t c then (0, 17, 0xFF, 0)
      else
        match t.blamed c with
        | some p => (p.pc, p.reason, fileCode p.file, p.n)
        | none => (0, condReason c, 0xFF, 0)
    | none => if s.clk < t.earliest then (0, 16, 0xFF, 0) else if t.lastIssue = s.clk then (0, 0, 0xFF, 0) else (0, 17, 0xFF, 0)
/-- The PATHS word of a stall sample (R477). -/
def Team.pathBits (t : Team) : Nat :=
  (t.slots.mapIdx fun i p => 2 ^ i * bit p.v + 2 ^ (4 + i) * bit p.blk.isSome).foldl (· + ·) 0
/-- The key of a context's samples on a core. -/
def sampleKey (ctx cluster core : Nat) : Nat := 64 * unitOf cluster core + ctx
/-- A context's resident teams on a core, by resident index. -/
def State.sampled (s : State) (ctx cluster core : Nat) : List (Nat × Team) :=
  orderBy (fun (a b : Nat × Team) => decide (a.2.rindex ≤ b.2.rindex))
    (s.teams.filter fun (p : Nat × Team) => p.2.ctx == ctx && p.2.cluster == cluster && s.residentTeam p.2 &&
      (if p.2.isCtl then core == 4 else core == p.2.core && core != 4))
/-- The sample period of a context in clk, where it takes samples (R475, R479). -/
def State.samplePeriod (s : State) (ctx : Nat) : Option Nat :=
  let ctl := s.winReg ctx (dbg 0x60)
  let p := (ctl.extractLsb' 51 5).toNat
  if ctl.getLsbD 62 && s.mayTrace ctx && capRuns (s.winReg ctx (dbg 0x38)) && decide (8 ≤ p) && decide (p ≤ 24) then some (2 ^ p) else none
/-- Whether a core's stall sample of a context is due (R477). -/
def State.sampleDue (s : State) (ctx cluster core : Nat) : Bool :=
  match s.samplePeriod ctx with
  | none => false
  | some p => decide ((s.samples.get (0, 0) (sampleKey ctx cluster core)).2 + p ≤ s.clk) && !(s.sampled ctx cluster core).isEmpty
/-- STALL SAMPLE (R477): the next team in turn by resident index is sampled. -/
def execStallSample (ctx cluster core : Nat) (s : State) : Host.Outcome State Fault Refusal :=
  .next (if !s.sampleDue ctx cluster core then s
    else
      let ts := s.sampled ctx cluster core
      let turn := (s.samples.get (0, 0) (sampleKey ctx cluster core)).1
      match (ts.find? fun (p : Nat × Team) => decide (turn ≤ p.2.rindex)).or ts.head? with
      | none => s
      | some (id, t) =>
        let (bpc, reason, file, reg) := s.sampleOf id t
        let s := s.ringRecord ctx (dbg 0x48) (dbg 0x58) (dwordBytes t.ident ++ leBytes 8 s.clk ++ wordBytes t.pc ++ wordBytes bpc ++
          leBytes 1 reason ++ leBytes 1 file ++ leBytes 1 reg ++ leBytes 1 0 ++ leBytes 4 t.pathBits)
        { s with samples := s.samples.insert (sampleKey ctx cluster core) (t.rindex + 1, s.clk) })

/-- The debug unit's events that are due. -/
def State.debugEvents (s : State) : List Ev :=
  (s.teams.filterMap fun (p : Nat × Team) => if p.2.stepOver then some (.stepHalt p.1) else none) ++
  (s.contexts.filterMap fun (p : Nat × Context) =>
    if p.2.configured && !p.2.terminated && !p.2.haltRecs.isEmpty && s.haltRoom p.1 p.2 then some (.haltEvent p.1) else none) ++
  (((s.contexts.filter fun (p : Nat × Context) => (s.samplePeriod p.1).isSome).flatMap fun (p : Nat × Context) =>
    (s.teams.filter fun (q : Nat × Team) => q.2.ctx == p.1).map fun (q : Nat × Team) => (p.1, q.2.cluster, if q.2.isCtl then 4 else q.2.core)).eraseDups.filterMap
      fun (x : Nat × Nat × Nat) => if s.sampleDue x.1 x.2.1 x.2.2 then some (.stallSample x.1 x.2.1 x.2.2) else none)

end Sys2Proof.Machine
end

