-- ==== Sys2Proof/Machine/Exchange.lean ====
section
/-! DEFINITION. The meanings of the lane exchange and predicate instructions (R136 to R140), with the fixed reduction tree
(R93, R94). -/

namespace Sys2Proof.Machine

/-- An operator of `lred` and `lscan` on two words (R70, R137). -/
def redOp (mode : BitVec 2) (k : Nat) (x y : Word) : Word × BitVec 5 :=
  match k with
  | 0 => (x + y, 0)
  | 1 => (minW false x y, 0)
  | 2 => (maxW false x y, 0)
  | 3 => (minW true x y, 0)
  | 4 => (maxW true x y, 0)
  | 5 => (x &&& y, 0)
  | 6 => (x ||| y, 0)
  | 7 => (x ^^^ y, 0)
  | 8 => onW (fp32.add mode) x y
  | 9 => onW (fp32.minmax false true) x y
  | _ => onW (fp32.minmax true true) x y
/-- The value of an exclusive scan without a present leaf (R94). -/
def redEmpty (k : Nat) : Word :=
  match k with
  | 1 => 0x7FFFFFFF
  | 2 => 0x80000000
  | 3 => 0xFFFFFFFF
  | 5 => 0xFFFFFFFF
  | 9 => 0x7F800000
  | 10 => 0xFF800000
  | _ => 0
/-- The node over `2^level` leaves from leaf `base` up (R93); `leaf` is none for an absent leaf. -/
def redTree (mode : BitVec 2) (k : Nat) (leaf : Nat → Option Word) : Nat → Nat → Option (Word × BitVec 5)
  | 0, base => (leaf base).map fun x => (x, 0)
  | n + 1, base =>
    match redTree mode k leaf n base, redTree mode k leaf n (base + 2 ^ n) with
    | some (x, f), some (y, g) => let r := redOp mode k x y; some (r.1, f ||| g ||| r.2)
    | some x, none => some x
    | none, y => y
/-- The base leaf and depth of a lane's scope (R93). -/
def scopeOf (team : Bool) (l : Nat) : Nat × Nat := if team then (0, 10) else (32 * (l / 32), 5)
/-- The lanes of a lane's scope that are active. -/
def scopeLeaf (r : Team) (n : Nat) (m : Nat) : Option Word :=
  if r.ex.getLsbD m && decide (m < r.lanes) then some (r.V m n) else none
/-- A lane's value of `lred` (R137). -/
def lredW (r : Team) (a k : RegNo) (team : Bool) (l : Nat) : Word × BitVec 5 :=
  let (base, depth) := scopeOf team l
  (redTree r.fmode k.toNat (scopeLeaf r a.toNat) depth base).getD (0, 0)
/-- A lane's value of `lscan` (R94, R138). -/
def lscanW (r : Team) (a k : RegNo) (team excl : Bool) (l : Nat) : Word × BitVec 5 :=
  let (base, depth) := scopeOf team l
  (redTree r.fmode k.toNat
    (fun m => if m < l || (m == l && !excl) then scopeLeaf r a.toNat m else none) depth base).getD (redEmpty k.toNat, 0)

/-- The source lane of `shfl` (R136). -/
def shflSource (r : Team) (l : Nat) (src : LaneSrc) : Nat :=
  let index (j : Nat) := if j < r.lanes && r.live.getLsbD j then j else l
  match src with
  | .reg b => index (r.V l b.toNat).toNat
  | .uni b => index (r.S b.toNat).toNat
  | .lit w => index (w.extractLsb' 0 10).toNat
  | .pat w => xsrcLit r l w
/-- SHFL (R136): 6 clk for a lane-group pattern, else variable (R141). -/
def execShfl (d a : RegNo) (src : LaneSrc) (s : State) : Host.Outcome State Fault Refusal :=
  let f (r : Team) := perLane r d fun l => r.V (shflSource r l src) a.toNat
  match src with
  | .pat w => if w.getLsbD 3 then laneLater (.shfl d a src) 11 f s else laneFixed (.shfl d a src) 6 f s
  | _ => laneLater (.shfl d a src) 11 f s
/-- LRED (R137). -/
def execLred (d a k : RegNo) (team : Bool) (s : State) : Host.Outcome State Fault Refusal :=
  laneLater (.lred d a k team) 11 (fun r => perLaneF r d fun l => lredW r a k team l) s
/-- LSCAN (R138). -/
def execLscan (d a k : RegNo) (team excl : Bool) (s : State) : Host.Outcome State Fault Refusal :=
  laneLater (.lscan d a k team excl) 11 (fun r => perLaneF r d fun l => lscanW r a k team excl l) s
/-- MATCH (R139). -/
def execMatchv (d a : RegNo) (team : Bool) (s : State) : Host.Outcome State Fault Refusal :=
  laneLater (.matchv d a team) 11 (fun r => perLaneP r d fun l =>
    r.actives.all fun m => !(decide (m < l) && (team || m / 32 == l / 32) && r.V m a.toNat == r.V l a.toNat)) s
/-- PSET (R140). -/
def execPset (d a : RegNo) (s : State) : Host.Outcome State Fault Refusal :=
  laneFixed (.pset d a) 2 (fun r => perLaneP r d fun l => r.V l a.toNat != 0) s
/-- PLOG (R140). -/
def execPlog (d a b : RegNo) (m : BitVec 3) (s : State) : Host.Outcome State Fault Refusal :=
  laneFixed (.plog d a b m) 2
    (fun r => perLaneP r d fun l => plogB m ((r.P a.toNat).getLsbD l) ((r.P b.toNat).getLsbD l)) s
/-- PMOV (R140). -/
def execPmov (d a : RegNo) (s : State) : Host.Outcome State Fault Refusal :=
  laneFixed (.pmov d a) 2 (fun r => perLaneP r d fun l => (r.P a.toNat).getLsbD l) s

end Sys2Proof.Machine
end

