-- ==== Sys2Proof/Machine/LaneInt.lean ====
section
/-! DEFINITION. The meanings of the L-set integer and move instructions (R126 to R134). -/

namespace Sys2Proof.Machine

/-- IADD (R126). -/
def execIadd (d a : RegNo) (o : OpB) (s : State) : Host.Outcome State Fault Refusal :=
  laneSel (.iadd d a o) 4 o (fun r => perLane r d fun l => r.V l a.toNat + r.opb l o) s
/-- ISUB (R126). -/
def execIsub (d a : RegNo) (o : OpB) (s : State) : Host.Outcome State Fault Refusal :=
  laneSel (.isub d a o) 4 o (fun r => perLane r d fun l => r.V l a.toNat - r.opb l o) s
/-- IMUL (R126): the low 32 bits of the product. -/
def execImul (d a : RegNo) (o : OpB) (s : State) : Host.Outcome State Fault Refusal :=
  laneSel (.imul d a o) 6 o (fun r => perLane r d fun l => r.V l a.toNat * r.opb l o) s
/-- IMULHI (R126): the high 32 bits of the product. -/
def execImulhi (d a : RegNo) (o : OpB) (u : Bool) (s : State) : Host.Outcome State Fault Refusal :=
  laneSel (.imulhi d a o u) 6 o (fun r => perLane r d fun l => mulHi u (r.V l a.toNat) (r.opb l o)) s
/-- IMAC (R126): the destination is read before it is written. -/
def execImac (d a : RegNo) (o : OpB) (s : State) : Host.Outcome State Fault Refusal :=
  laneSel (.imac d a o) 6 o (fun r => perLane r d fun l => r.V l d.toNat + r.V l a.toNat * r.opb l o) s
/-- IMIN (R126). -/
def execImin (d a : RegNo) (o : OpB) (u : Bool) (s : State) : Host.Outcome State Fault Refusal :=
  laneSel (.imin d a o u) 4 o (fun r => perLane r d fun l => minW u (r.V l a.toNat) (r.opb l o)) s
/-- IMAX (R126). -/
def execImax (d a : RegNo) (o : OpB) (u : Bool) (s : State) : Host.Outcome State Fault Refusal :=
  laneSel (.imax d a o u) 4 o (fun r => perLane r d fun l => maxW u (r.V l a.toNat) (r.opb l o)) s
/-- IABSD (R126). -/
def execIabsd (d a : RegNo) (o : OpB) (u : Bool) (s : State) : Host.Outcome State Fault Refusal :=
  laneSel (.iabsd d a o u) 4 o (fun r => perLane r d fun l => absDiff u (r.V l a.toNat) (r.opb l o)) s
/-- IADDSAT (R126). -/
def execIaddsat (d a : RegNo) (o : OpB) (u : Bool) (s : State) : Host.Outcome State Fault Refusal :=
  laneSel (.iaddsat d a o u) 4 o
    (fun r => perLane r d fun l => clamp u (extend u (r.V l a.toNat) + extend u (r.opb l o))) s
/-- ISUBSAT (R126). -/
def execIsubsat (d a : RegNo) (o : OpB) (u : Bool) (s : State) : Host.Outcome State Fault Refusal :=
  laneSel (.isubsat d a o u) 4 o
    (fun r => perLane r d fun l => clamp u (extend u (r.V l a.toNat) - extend u (r.opb l o))) s
/-- AND (R127). -/
def execAnd (d a : RegNo) (o : OpB) (s : State) : Host.Outcome State Fault Refusal :=
  laneSel (.and d a o) 4 o (fun r => perLane r d fun l => r.V l a.toNat &&& r.opb l o) s
/-- OR (R127). -/
def execOr (d a : RegNo) (o : OpB) (s : State) : Host.Outcome State Fault Refusal :=
  laneSel (.or d a o) 4 o (fun r => perLane r d fun l => r.V l a.toNat ||| r.opb l o) s
/-- XOR (R127). -/
def execXor (d a : RegNo) (o : OpB) (s : State) : Host.Outcome State Fault Refusal :=
  laneSel (.xor d a o) 4 o (fun r => perLane r d fun l => r.V l a.toNat ^^^ r.opb l o) s
/-- ANDN (R127). -/
def execAndn (d a : RegNo) (o : OpB) (s : State) : Host.Outcome State Fault Refusal :=
  laneSel (.andn d a o) 4 o (fun r => perLane r d fun l => r.V l a.toNat &&& ~~~(r.opb l o)) s
/-- SHL (R127). -/
def execShl (d a : RegNo) (o : OpB) (s : State) : Host.Outcome State Fault Refusal :=
  laneSel (.shl d a o) 4 o (fun r => perLane r d fun l => shlW (r.V l a.toNat) (r.opb l o)) s
/-- SHR (R127). -/
def execShr (d a : RegNo) (o : OpB) (s : State) : Host.Outcome State Fault Refusal :=
  laneSel (.shr d a o) 4 o (fun r => perLane r d fun l => shrW (r.V l a.toNat) (r.opb l o)) s
/-- SAR (R127). -/
def execSar (d a : RegNo) (o : OpB) (s : State) : Host.Outcome State Fault Refusal :=
  laneSel (.sar d a o) 4 o (fun r => perLane r d fun l => sarW (r.V l a.toNat) (r.opb l o)) s
/-- POPC (R128). -/
def execPopc (d a : RegNo) (s : State) : Host.Outcome State Fault Refusal :=
  laneFixed (.popc d a) 4 (fun r => perLane r d fun l => popcW (r.V l a.toNat)) s
/-- CLZ (R128). -/
def execClz (d a : RegNo) (s : State) : Host.Outcome State Fault Refusal :=
  laneFixed (.clz d a) 4 (fun r => perLane r d fun l => clzW (r.V l a.toNat)) s
/-- BREV (R128). -/
def execBrev (d a : RegNo) (s : State) : Host.Outcome State Fault Refusal :=
  laneFixed (.brev d a) 4 (fun r => perLane r d fun l => brevW (r.V l a.toNat)) s
/-- BFX (R129). -/
def execBfx (d a : RegNo) (o : OpB) (u : Bool) (s : State) : Host.Outcome State Fault Refusal :=
  laneSel (.bfx d a o u) 4 o (fun r => perLane r d fun l => bfxW u (r.V l a.toNat) (r.opb l o)) s
/-- BFI (R129). -/
def execBfi (d a : RegNo) (o : OpB) (s : State) : Host.Outcome State Fault Refusal :=
  laneSel (.bfi d a o) 4 o (fun r => perLane r d fun l => bfiW (r.V l d.toNat) (r.V l a.toNat) (r.opb l o)) s
/-- IADDI (R130). -/
def execIaddi (d a : RegNo) (imm : BitVec 10) (s : State) : Host.Outcome State Fault Refusal :=
  laneFixed (.iaddi d a imm) 4 (fun r => perLane r d fun l => r.V l a.toNat + sext imm) s
/-- MOVI (R130). -/
def execMovi (d : RegNo) (imm : BitVec 17) (s : State) : Host.Outcome State Fault Refusal :=
  laneFixed (.movi d imm) 4 (fun r => perLane r d fun _ => sext imm) s
/-- MOV (R131). -/
def execMov (d : RegNo) (o : OpB) (s : State) : Host.Outcome State Fault Refusal :=
  laneSel (.mov d o) 4 o (fun r => perLane r d fun l => r.opb l o) s
/-- SEL (R132): the lanes whose predicate is 0 are not written. -/
def execSel (d a b : RegNo) (s : State) : Host.Outcome State Fault Refusal :=
  laneFixed (.sel d a b) 4
    (fun r => (laneWrites (r.actives.filter fun l => (r.P b.toNat).getLsbD l) d fun l => r.V l a.toNat, 0)) s
/-- LEA (R133). -/
def execLea (d a : RegNo) (o : OpB) (u : Bool) (s : State) : Host.Outcome State Fault Refusal :=
  laneSel (.lea d a o u) 4 o (fun r => perLane64 r d fun l => leaW u (r.V64 l a.toNat) (r.opb l o)) s
/-- ICMP (R134). -/
def execIcmp (d a : RegNo) (o : OpL) (c : BitVec 3) (s : State) : Host.Outcome State Fault Refusal :=
  laneFixed (.icmp d a o c) 4 (fun r => perLaneP r d fun l => condInt c (r.V l a.toNat) (r.oplV l o)) s

end Sys2Proof.Machine
end

