-- ==== Sys2Proof/Machine/Manage.lean ====
section
/-! DEFINITION. The management port (R498 to R506): partitions, register writes, start-up, power and temperature, the test port and
link-level replay. -/

namespace Sys2Proof.Machine

/-- MGT_PBUF as one number (R506). -/
def State.pbufNat (s : State) : Nat := leNat ((List.range 512).map fun k => s.pbuf.get 0 k)
/-- The clusters of a configuration (R506). -/
def cfgClusters (b : Nat) : List Nat := (List.range 672).filter fun k => b / 2 ^ (8 * 0x10 + k) % 2 == 1
/-- The memory ranges of a configuration: base and length (R506). -/
def cfgRanges (b : Nat) : List (Nat × Nat) :=
  ((List.range 8).map fun k => (field b (0x80 + 16 * k) 8, field b (0x88 + 16 * k) 8)).filter fun r => r.2 != 0
/-- Whether two ranges overlap. -/
def rangesMeet (x y : Nat × Nat) : Bool := decide (x.1 < y.1 + y.2) && decide (y.1 < x.1 + x.2)
/-- The credit shares of a configuration (R506). -/
def cfgCredit (b : Nat) : List Nat := (List.range 16).map fun p => field b (0x70 + p) 1
/-- Whether a configuration keeps R1 (48-bit physical addresses, 512 GiB in all), R490, R498, R499 and R506 among the partitions of the package. -/
def State.cfgOk (s : State) (part b : Nat) : Bool :=
  let ps := s.partitions.map fun (p : Nat × Partition) => p.2
  let shares (i : Nat) : Nat := ps.foldl (fun n p => n + p.credit.getD i 0) ((cfgCredit b).getD i 0)
  field b 0 1 == part && decide (field b 1 1 < 16) && field b 2 2 != 0 && field b 6 2 == 0 && field b 0x64 12 == 0 && field b 0x100 256 == 0 &&
  (cfgCredit b).all (fun c => decide (c ≤ 64)) && (List.range 16).all (fun i => decide (shares i ≤ 64)) &&
  (cfgClusters b).all (fun c => !ps.any fun p => p.clusters.contains c) &&
  (cfgRanges b).all (fun r => r.1 % 65536 == 0 && r.2 % 65536 == 0 && !ps.any fun p => p.ranges.any (rangesMeet r)) &&
  (cfgRanges b).all (fun r => decide (r.1 + r.2 ≤ 2 ^ 48)) &&
  decide ((cfgRanges b ++ ps.flatMap (·.ranges)).foldl (fun n r => n + r.2) 0 ≤ 2 ^ 39) &&
  (field b 8 8 == 0 || ps.all fun p => p.group != BitVec.ofNat 64 (field b 8 8)) && ps.all (fun p => p.seqNode == field b 4 2)
/-- The partition of a configuration; one without a group has package index 0 (R499). -/
def cfgPartition (part b key : Nat) : Partition :=
  ⟨part, cfgClusters b, cfgRanges b, field b 2 2, cfgCredit b, BitVec.ofNat 64 (field b 8 8), if field b 8 8 = 0 then 0 else field b 1 1,
    field b 4 2, key, 0, []⟩
/-- A management command is done: GO reads 0, with RESULT (R506). -/
def State.mgtDone (s : State) (result : Nat) : State :=
  { s with mgt := s.mgt.set 0 0x18 ((s.mgtReg 0x18 &&& 0x700000000000000F#64) ||| fld 56 4 result) }
/-- MGT_PCMD.PART (R506). -/
def State.pcmdPart (s : State) : Nat := (s.mgtReg 0x18).toNat % 16
/-- CONFIGURE (R498, R506): the partition's keys are drawn anew. -/
def execConfigure (s : State) : Host.Outcome State Fault Refusal :=
  .next (
    let part := s.pcmdPart
    let b := s.pbufNat
    if (s.partitions.find part).isSome then s.mgtDone 2
    else if !s.cfgOk part b then s.mgtDone 1
    else
      let s : State := { s with
        serial := s.serial + 1, partitions := s.partitions.insert part (cfgPartition part b s.serial)
        clusters := (cfgClusters b).foldl (fun (m : SMap Cluster) k => m.insert k Cluster.idle) s.clusters }
      s.mgtDone 0)
/-- Whether a physical address lies in the ranges of a partition. -/
def Partition.owns (p : Partition) (a : Nat) : Bool := p.ranges.any fun r => decide (r.1 ≤ a) && decide (a < r.1 + r.2)
/-- A partition's keys are destroyed, and its ranges, clusters and ways scrubbed (R498). -/
def State.dropPartition (s : State) (k : Nat) (p : Partition) : State :=
  let ended (c : Nat) : Bool := match s.contexts.find c with | some x => x.part == k | none => false
  let s := s.domains.foldl (fun (s : State) (x : Nat × Domain) => if x.2.part = k then s.dropDomain x.1 x.2 else s) s
  { s with
    partitions := s.partitions.erase k
    contexts := s.contexts.filter fun (x : Nat × Context) => x.2.part != k
    channels := s.channels.filter fun (x : Nat × Channel) => chanPart x.1 != k
    clusters := s.clusters.filter fun (x : Nat × Cluster) => !p.clusters.contains x.1
    removing := s.removing.filter fun c => !p.clusters.contains c
    areas := s.areas.filter fun (x : Nat × Area) => !p.owns x.2.base
    collectives := s.collectives.filter fun c => c.group != p.group || c.group == 0
    mem := s.mem.filter fun (x : Nat × Byte) => !p.owns x.1
    poison := s.poison.filter fun (x : Nat × Bool) => !p.owns (16 * x.1)
    l2 := s.l2.filter fun l => !p.owns (128 * l.pline)
    frames := s.frames.filter fun (x : Nat × FrameState) => !p.owns (4096 * x.1)
    translations := s.translations.filter fun x => !ended x.ctx
    faulted := s.faulted.filter fun x => !ended x.ctx
    caches := s.caches.filter fun x => !ended x.ctx
    faults := s.faults.filter fun x => !ended x.ctx }
/-- TEARDOWN (R498, R506): refused as busy while the partition has live contexts. -/
def execTeardown (s : State) : Host.Outcome State Fault Refusal :=
  .next (
    let part := s.pcmdPart
    match s.partitions.find part with
    | none => s.mgtDone 0
    | some p =>
      if s.contexts.any fun (x : Nat × Context) => x.2.part == part && x.2.configured && !x.2.terminated then s.mgtDone 2
      else (s.dropPartition part p).mgtDone 0)
/-- The 512 bytes of MGT_PBUF that describe a partition (R506). -/
def Partition.bytes (p : Partition) : List Byte :=
  leBytes 1 p.num ++ leBytes 1 p.pkgIdx ++ leBytes 2 p.ways ++ leBytes 2 p.seqNode ++ leBytes 2 0 ++ dwordBytes p.group ++
  leBytes 84 (p.clusters.foldl (fun n k => n + 2 ^ k) 0) ++ leBytes 12 0 ++ (p.credit.flatMap (leBytes 1)) ++
  ((List.range 8).flatMap fun k => leBytes 8 (p.ranges.getD k (0, 0)).1 ++ leBytes 8 (p.ranges.getD k (0, 0)).2) ++ leBytes 256 0
/-- MGT READ (R506). -/
def execMgtRead (s : State) : Host.Outcome State Fault Refusal :=
  .next (match s.partitions.find s.pcmdPart with
    | none => s.mgtDone 2
    | some p =>
      let pbuf := (p.bytes.mapIdx fun k b => (k, b)).foldl (fun (m : SMap Byte) x => m.set 0 x.1 x.2) s.pbuf
      State.mgtDone { s with pbuf := pbuf } 0)
/-- MGT BAD OP (R506). -/
def execMgtBadOp (s : State) : Host.Outcome State Fault Refusal := .next (s.mgtDone 3)

/-- The event of an OP of MGT_PCMD (R506). -/
def pcmdEv (op : Nat) : Ev :=
  match op with
  | 1 => .configure
  | 2 => .teardown
  | 3 => .mgtRead
  | _ => .mgtBadOp
/-- A write of a whole register of the management port (R506): at other addresses it is ignored. -/
def State.mgtWrite (s : State) (addr : Nat) (v : DWord) : State :=
  if addr % 8 ≠ 0 then s
  else if 0x200 ≤ addr && addr < 0x400 then
    { s with pbuf := ((dwordBytes v).mapIdx fun k b => (addr - 0x200 + k, b)).foldl (fun (m : SMap Byte) x => m.set 0 x.1 x.2) s.pbuf }
  else
    match addr with
    | 0x10 =>
      let w := v.toNat % 65536
      if decide (1000 ≤ w) && decide (w ≤ 3000) then { s with mgt := s.mgt.set 0 0x10 (BitVec.ofNat 64 w) } else s
    | 0x18 =>
      let old := s.mgtReg 0x18
      let s' : State := { s with mgt := s.mgt.set 0 0x18 (goWrite old v 0xF00000000000000F#64) }
      if goStarts old v then s'.post 0 (pcmdEv (v.extractLsb' 60 3).toNat) else s'
    | 0x20 => { s with mgt := s.mgt.set 0 0x20 (v &&& 0xFFFF#64) }
    | _ => s
/-- A read of a register of the management port (R506). -/
def State.mgtRead (s : State) (addr : Nat) : DWord :=
  if addr % 8 ≠ 0 then 0
  else if 0x200 ≤ addr && addr < 0x400 then BitVec.ofNat 64 (leNat ((List.range 8).map fun k => s.pbuf.get 0 (addr - 0x200 + k)))
  else if addr < 0x28 then s.mgtReg addr else 0
/-- REGISTER WRITE (R497, R506): a write to a register of a context's window, or of the management port. -/
def execRegisterWrite (target : RegTarget) (value : DWord) (s : State) : Host.Outcome State Fault Refusal :=
  .next (match target with
    | .window who ctx off => s.regWrite who ctx off 8 value
    | .management addr => if s.powered then s.mgtWrite addr value else s)

/-- MGT_BOOT with a step finished (R502). -/
def bootDone (boot : DWord) (step : Nat) : DWord := boot ||| (1#64 <<< step)
/-- MGT_READY after a step of start-up (R501, R503): the firmware cores run once the firmware is verified, the dies are ready once
their memory is trained, the ports once their links are. -/
def readyAfter (ready : DWord) (step : Nat) : DWord :=
  match step with
  | 2 => ready ||| 2#64
  | 5 => ready ||| fld 2 8 0xFF
  | 6 => ready ||| fld 10 16 0xFFFF
  | _ => ready
/-- The steps of start-up from a list of steps on, those that are not finished: one that fails stops the start with its code (R501,
R502). -/
def bootSteps (count : Nat) : List Nat → DWord × DWord → DWord × DWord
  | [], x => x
  | i :: is, (boot, ready) =>
    if boot.getLsbD i then bootSteps count is (boot, readyAfter ready i)
    else if i = 4 && boot.getLsbD 7 then bootSteps count is (bootDone boot i, ready)
    else
      match Config.startFails count i with
      | some code => (boot ||| fld 56 8 code.toNat, ready)
      | none => bootSteps count is (bootDone boot i, readyAfter ready i)
/-- Every step of start-up is finished (R502). -/
def bootOver (boot : DWord) : Bool := boot.extractLsb' 1 6 == 0b111111#6
/-- A warm start ends every context and keeps memory, partitions and keys (R501). -/
def State.endContexts (s : State) : State :=
  let s := s.contexts.foldl (fun (s : State) (p : Nat × Context) => s.endContext p.1) s
  { s with contexts := [], gangs := [], grids := [], collectives := [] }
/-- START UP (R501 to R503): a start with every step finished is a warm one; any other resumes at the lowest step whose bit is
clear. -/
def execStartUp (s : State) : Host.Outcome State Fault Refusal :=
  .next (
    let boot := s.mgtReg 0
    let warm := s.powered && bootOver boot
    let s := if warm then s.endContexts else s
    let boot := if warm then 0x80#64 else boot &&& 0x00FFFFFFFFFFFFFF#64
    let fresh := boot.extractLsb' 1 6 == 0#6
    let s : State := { s with powered := true, alert := false, bootCount := if fresh then s.bootCount + 1 else s.bootCount, tick := s.tick + 1 }
    let x := bootSteps s.tick [1, 2, 3, 4, 5, 6] (boot, 1)
    { s with mgt := (s.mgt.set 0 0x00 x.1).set 0 0x08 x.2 })
/-- What outlives a loss of power: the fuses' counts, and the model's own counters. -/
def State.unpowered (s : State) (alert : Bool) : State :=
  { State.reset with
    clk := s.clk, tick := s.tick, serial := s.serial, inputs := s.inputs, sent := s.sent, bootCount := s.bootCount
    lmsLeaf := s.lmsLeaf, powered := false, alert := alert }
/-- POWER LOSS (R501): MGT_BOOT is cleared, and nothing but fuses keeps its contents. -/
def execPowerLoss (s : State) : Host.Outcome State Fault Refusal := .next (s.unpowered false)
/-- THERMAL THROTTLE (R504): timing only. -/
def execThermalThrottle (die : Nat) (s : State) : Host.Outcome State Fault Refusal :=
  .next { s with throttled := if s.throttled.contains die then s.throttled else s.throttled ++ [die] }
/-- THERMAL SHUTDOWN (R504): the module powers off and raises a management alert. -/
def execThermalShutdown (_die : Nat) (s : State) : Host.Outcome State Fault Refusal := .next (s.unpowered true)

/-- BYPASS (R505). -/
def execBypass (s : State) : Host.Outcome State Fault Refusal := .next { s with testInstr := .bypass, testData := 0, boundary := false }
/-- IDCODE (R505). -/
def execIdcode (s : State) : Host.Outcome State Fault Refusal :=
  .next { s with testInstr := .idcode, testData := 0x1000A4F3, boundary := false }
/-- SAMPLE/PRELOAD (R505). -/
def execSamplePreload (s : State) : Host.Outcome State Fault Refusal := .next { s with testInstr := .samplePreload, boundary := false }
/-- EXTEST (R505): refused while any partition is configured. -/
def execExtest (s : State) : Host.Outcome State Fault Refusal :=
  .next (if s.partitions.isEmpty then { s with testInstr := .extest, boundary := true } else s)
/-- CLAMP (R505): the pins hold the boundary register's values, and the bypass register is selected. -/
def execClamp (s : State) : Host.Outcome State Fault Refusal := .next { s with testInstr := .clamp, testData := 0, boundary := true }
/-- HIGHZ (R505): the pins are released, and the bypass register is selected. -/
def execHighz (s : State) : Host.Outcome State Fault Refusal := .next { s with testInstr := .highz, testData := 0, boundary := true }

/-- LINK LEVEL REPLAY (R439, R488): the flit arrives by the replay; nothing else changes. -/
def execLinkLevelReplay (_port : Nat) (s : State) : Host.Outcome State Fault Refusal := .next s

end Sys2Proof.Machine
end

