-- ==== Sys2Proof/Machine/System.lean ====
section
/-! DEFINITION. The meanings of `srd`, `swr`, `nop` and `rtt` (R33 to R35, R69, R253, R254). -/

namespace Sys2Proof.Machine

/-- The value of a special register (R33), or none for a number that R33 does not list. FSTAT is read apart (R69). The
write-domain field of CTXID is 0 in a context without a write domain, a case that R33 leaves open (log entry 81). -/
def State.special (s : State) (t : Team) (n : Nat) : Option Word :=
  let w (x : Nat) : Option Word := some (BitVec.ofNat 32 x)
  let part := match s.contexts.find t.ctx with | some c => c.part | none => 0
  if 0x40 ≤ n && n ≤ 0x5F then some (maskWord t.tex (n - 0x40))
  else if 0x60 ≤ n && n ≤ 0x7F then some (maskWord t.live (n - 0x60))
  else
    match n with
    | 0x00 => w (t.lanes + 65536 * (t.lanes * t.idx % 65536))
    | 0x01 => w (t.idx + 65536 * t.role + 2 ^ 18 * t.roleTeams)
    | 0x02 => w (t.crew + 4 * (match s.crewOf t with | some c => c.core | none => t.core) + 16 * s.visCluster t.ctx t.cluster)
    | 0x03 => some t.gangReg
    | 0x04 => some t.gridReg
    | 0x05 => w (match s.partitionOf t.ctx with | some p => p.clusters.length | none => 0)
    | 0x06 => w (match s.partitionOf t.ctx with | some p => p.topogen | none => 0)
    | 0x07 => w s.clk
    | 0x08 => some t.clockh
    | 0x09 => some (t.fmode.setWidth 32)
    | 0x0A => some (t.fstat.setWidth 32)
    | 0x0B => w (t.ctx + 64 * part + 1024 * (match s.contexts.find t.ctx with | some c => c.wdom.getD 0 | none => 0))
    | 0x0C => w t.saveBase
    | 0x0D => w (t.saveBase / 2 ^ 32 % 2 ^ 20)
    | 0x0E => w t.depth
    | 0x0F => w (if t.check then 1 else 0)
    | 0x10 => some t.tpc
    | 0x11 => some t.tcause
    | 0x12 => some (t.taddr.extractLsb' 0 32)
    | 0x13 => some (t.taddr.extractLsb' 32 32)
    | 0x14 => w (if t.tlevel then 1 else 0)
    | 0x15 => w t.kernel.kbase
    | 0x16 => w (t.kernel.kbase / 2 ^ 32 % 2 ^ 20)
    | 0x17 => some (match s.contexts.find t.ctx with | some c => c.sectime | none => 0)
    | _ => none
/-- FSTAT with the flags of the results that are on their way (R69). -/
def Team.allFlags (t : Team) : BitVec 5 :=
  t.pends.foldl (fun f (p : Pend) => match p.data with | .values _ fl => f ||| fl | _ => f) t.fstat
/-- SRD (R33, R34, R35, R69): a read of CLOCK latches the high word. -/
def execSrd (d b : RegNo) (s : State) : Host.Outcome State Fault Refusal :=
  slot (.srd d b) (fun _ t s =>
    match s.special t b.toNat with
    | none => .trap 0x01 (Instr.srd d b).info 0
    | some x =>
      if b = 0x0A then .later s 15 (.flagsOf t.allFlags)
      else
        let s := if b = 0x07 then s.updMe fun t => { t with clockh := BitVec.ofNat 32 (s.clk / 2 ^ 32) } else s
        .fixed s 2 (uniWrite d x) 0) s
/-- The flags of a team's accesses on their way fall under a write of FSTAT (R69). -/
def State.mute (s : State) (id : Nat) : State :=
  { s with
    serial := s.serial + 1
    traffic := s.traffic.map fun o => if o.team = id && o.muted.isNone then { o with muted := some s.serial } else o }
/-- SWR (R33, R34, R69, R253). -/
def execSwr (a b : RegNo) (s : State) : Host.Outcome State Fault Refusal :=
  slot (.swr a b) (fun r t s =>
    let x := r.S a.toNat
    match b.toNat with
    | 0x09 => .done (s.updMe fun t => { t with fmode := x.extractLsb' 0 2 })
    | 0x0A => .done ((s.updMe fun t => t.setFstat (x.extractLsb' 0 5)).mute s.cur)
    | 0x0F => .done (s.updMe fun t => { t with check := x.getLsbD 0 })
    | 0x10 => .done (s.updMe fun t => { t with tpc := x })
    | 0x17 =>
      if s.inService t then .done (s.updContext t.ctx fun c => { c with sectime := x }) else .trap 0x0C 0x17 0
    | _ => .trap 0x01 (Instr.swr a b).info 0) s
/-- NOP (R253). -/
def execNop (s : State) : Host.Outcome State Fault Refusal := slot .nop (fun _ _ s => .done s) s
/-- RTT (R254): on a `ctl` team it restarts an array that is stopped on an uncorrectable chunk (R245). -/
def execRtt (s : State) : Host.Outcome State Fault Refusal :=
  slot .rtt (fun _ t s =>
    if !t.tlevel then .trap 0x01 Instr.rtt.info 0
    else if t.tpc.extractLsb' 0 2 != 0#2 then .trap 0x03 0 (t.tpc.setWidth 64)
    else
      let s := if t.isCtl then s.updGang t.gang fun g => { g with
          array := g.array.map fun a => { a with chunk := a.chunk.map fun c => { c with stopped := false } } } else s
      .moved (s.setTeam s.cur t.trapReturn) t.trapReturn.pc 10 0) s

end Sys2Proof.Machine
end

