-- ==== Sys2Proof/Machine/TeamEvents.lean ====
section
/-! DEFINITION. What comes about in a team between its slots: results and their arrival (R65, R66, R22), the return of a `wait`
(R235), lane copies (R178, R179), path switches (R27), and the steps of issuing that are no instruction: the bundle fetch (R52), the
safe-point redirection (R51, R342) and the entry to a trap handler (R30). -/

namespace Sys2Proof.Machine

/-- A pending entry of a team. -/
def Team.pend? (t : Team) (serial : Nat) : Option Pend := t.pends.find? (·.serial == serial)
/-- Results of `sget` that waited for some registers of a vector result are on their way (R65 reason 12, R214). -/
def Team.wakeSgets (t : Team) (p : Pend) : Team :=
  { t with pends := t.pends.map fun (q : Pend) => match q.data with
    | .laneOf n lane =>
      if p.file == RFile.v && decide (p.n ≤ n) && decide (n < p.n + p.cnt) then
        { q with data := .values [⟨.s, q.n, 0, if lane < t.lanes then t.V lane n else 0⟩] 0 }
      else q
    | _ => q }
/-- A result arrives: its registers take the values, then the debugger's edits, FSTAT its flags, and the register is pending no more
(R66, R69, R471). -/
def Team.arrive (t : Team) (serial : Nat) : Team :=
  match t.pend? serial with
  | none => t
  | some p =>
    match p.data with
    | .values ws flags =>
      ({ ((t.land ws).land p.after) with
        fstat := t.fstat ||| flags, pends := t.pends.filter (·.serial != serial) } : Team).wakeSgets p
    | .arriving => (({ t.land p.after with pends := t.pends.filter (·.serial != serial) } : Team).wakeSgets p)
    | .flagsOf fl => { t.land (⟨.s, p.n, 0, fl.setWidth 32⟩ :: p.after) with pends := t.pends.filter (·.serial != serial) }
    | _ => t
/-- Whether a path of a team has done part of the slot whose accesses have the serial number `serial` (R165). -/
def Team.inPart (t : Team) (serial : Nat) : Bool :=
  (t.done != 0#1024 && t.mark == some serial) || t.slots.any fun p => p.v && p.done != 0#1024 && p.mark == some serial
/-- Whether a pending entry of a team can resolve now: its values are on their way, or each of its accesses has brought its own; an `srd` of
FSTAT waits for the accesses before it (R66, R69). -/
def State.resolvable (s : State) (id : Nat) (t : Team) (p : Pend) : Bool :=
  match p.data with
  | .values _ _ => true
  | .beats _ _ => s.popReady t p
  | .arriving => s.traffic.all (fun o => !(o.team == id && o.group == p.serial)) && !t.inPart p.serial
  | .flagsOf _ => s.traffic.all fun o => !(o.team == id && o.dest.isSome && decide (o.group < p.serial))
  | _ => false
/-- RESULT RESOLVE (R66): a future's resolution is an acquire (R22, R267). -/
def execResultResolve (team serial : Nat) (s : State) : Host.Outcome State Fault Refusal :=
  .next (match s.teams.find team with
    | none => s
    | some t =>
      match t.pend? serial with
      | none => s
      | some p =>
        match p.data with
        | .values _ _ =>
          let s := s.updTeam team fun t => t.arrive serial
          if p.reason = 6 then s.acquire t else s
        | .arriving => if s.resolvable team t p then s.updTeam team fun t => t.arrive serial else s
        | .flagsOf _ => if s.resolvable team t p then s.updTeam team fun t => t.arrive serial else s
        | .beats _ _ =>
          let s := s.popBeat team t p
          s.updTeam team fun t => if (t.pend? serial).isNone then t.wakeSgets p else t
        | _ => s)
/-- The path that stands at a `wait` issues it again: its entry is gone, and its slot has not begun. -/
def Team.unarm (t : Team) (p : Pend) : Team :=
  let here (blk : Option Cond) (mark : Option Nat) : Bool := blk == some (.reg .s p.n) && mark == some 0
  { t with
    pends := t.pends.filter (·.serial != p.serial)
    mark := if here t.blk t.mark then none else t.mark
    slots := t.slots.map fun (q : PathSlot) => if q.v && here q.blk q.mark then { q with mark := none } else q }
/-- WAIT RETURN (R235): the lowest entry that differs is returned, after an acquire; a poisoned word is consumed (R441); where the page of a word no
longer permits the read, the slot is issued again. -/
def execWaitReturn (team reg : Nat) (s : State) : Host.Outcome State Fault Refusal :=
  .next (match s.teams.find team with
    | none => s
    | some t =>
      match t.pends.find? fun (p : Pend) => p.n == reg && match p.data with | .armed _ => true | _ => false with
      | none => s
      | some p =>
        match p.data with
        | .armed es =>
          (match s.armedDiffers t es with
            | none => s
            | some (i, .poison) =>
              let bad : PendData := .poison 5 (es.getD i (0, 0)).1
              s.setTeam team { t with pends := t.pends.map fun (q : Pend) => if q.serial = p.serial then { q with data := bad } else q }
            | some (_, .barred) => s.setTeam team (t.unarm p)
            | some (i, _) =>
              let t' := t.land (⟨.s, reg, 0, BitVec.ofNat 32 i⟩ :: p.after)
              (s.acquire t).setTeam team { t' with pends := t'.pends.filter (·.serial != p.serial) })
        | _ => s)

/-- A copy's batch loses it: a batch without copies left is complete (R28). -/
def Team.copyDone (t : Team) (c : Copy) : Team :=
  let t := { t with copies := t.copies.filter (·.serial != c.serial) }
  match c.tag with
  | none => { t with openCount := t.openCount - 1 }
  | some g => { t with tags := t.tags.modify g fun b => ⟨b.count - 1, decide (1 < b.count)⟩ }
/-- The words of a landing go into a window with their poison; no full/empty bit changes (R178). -/
def Crew.landBytes (c : Crew) (off : Nat) (bs : List Byte) (bad : List Bool) : Crew :=
  let x := leNat bs
  (List.range (bs.length / 4)).foldl (fun (c : Crew) k =>
    Crew.soiled { c with
      window := c.window.set 0 (off / 4 + k) (BitVec.ofNat 32 (x / 2 ^ (32 * k))), poison := c.poison.set false (off / 4 + k) (bad.getD k false) }
      (off / 4 + k)) c
/-- A copy lands from a physical address; copies with nothing to read write zeros. -/
def State.landCopy (s : State) (team : Nat) (t : Team) (c : Copy) (bs : List Byte) (bad : List Bool) : State :=
  (s.updCrew t.gang c.crew fun k => k.landBytes c.dst bs bad).updTeam team fun t => t.copyDone c
/-- COPY LANDING (R178, R179): the source is translated now, and its outcomes but success are kept for the batch's wait; the bytes come through the
L1, and those from the valid count on are zero (R282). -/
def execCopyLanding (team serial : Nat) (s : State) : Host.Outcome State Fault Refusal :=
  .next (match s.teams.find team with
    | none => s
    | some t =>
      match t.copies.find? fun (c : Copy) => c.serial == serial && c.fate == .flying with
      | none => s
      | some c =>
        let fate (f : CopyFate) : State := s.setTeam team { t with
          copies := t.copies.map fun (k : Copy) => if k.serial = serial then { k with fate := f } else k }
        if c.n = 0 then s.landCopy team t c (List.replicate 32 0) []
        else
          match s.lookWalk t.unit t.ctx c.src.toNat .read with
          | .ok pa x =>
            let s := s.letIn t.ctx pa x
            let bad := (List.range 8).map fun k => decide (4 * k < c.n) &&
              s.meetsPoison (s.l1Unit t c.src.toNat) t.cluster t.core t.ctx (c.src.toNat + 4 * k) (pa + 4 * k) (min 4 (c.n - 4 * k)) (fun _ => true)
                (s.heldOf t)
            let (bs, s) := s.readL1 (s.l1Unit t c.src.toNat) t.cluster t.core t.ctx c.src.toNat pa c.n x (fun _ => true) (s.heldOf t)
            s.landCopy team t c (bs ++ List.replicate (32 - c.n) 0) bad
          | .trap cause => fate (.trapped cause)
          | .window _ => fate (.trapped 0x08)
          | _ => fate .faulted)

/-- Whether a team issues nothing because of a halt, an end or a consumption. -/
def Team.idle (t : Team) : Bool := t.halt != 0 || t.gone || t.ended || t.stepState == 2 || t.stopped
/-- The path that comes in for a running path that is blocked or has ended, if one can run (R27 rule 3, R216). -/
def State.switchDue (s : State) (id : Nat) (t : Team) : Option (Nat × Option Cond) :=
  if t.idle || t.tlevel then none
  else if t.noPath then (bestSlot s id t).map fun i => (i, none)
  else
    match t.blk with
    | none => none
    | some c => if condHolds s id t c then none else (bestSlot s id t).map fun i => (i, some c)
/-- PATH SWITCH (R27). -/
def execPathSwitch (team : Nat) (s : State) : Host.Outcome State Fault Refusal :=
  .next (match s.teams.find team with
    | none => s
    | some t => match s.switchDue team t with | some (i, c) => s.switchPath team i c | none => s)

/-- BUNDLE FETCH (R52): the team's next bundle is fetched, padding is skipped, and the checks before its slot 1 are made. -/
def execBundleFetch (team : Nat) (s : State) : Host.Outcome State Fault Refusal :=
  .next (match s.teams.find team with
    | none => s
    | some t => if t.idle then s else match State.fetch { s with cur := team } with | .go s _ _ => s | .stop s => s)
/-- SAFE-POINT REDIRECTION (R51, R342): a team that stands at slot 1 of a safe-point bundle with a request. -/
def execSafePointRedirection (team : Nat) (s : State) : Host.Outcome State Fault Refusal :=
  .next (match s.teams.find team with
    | none => s
    | some t =>
      match t.bundle with
      | some (_, b) => if t.atSafePoint then State.redirect { s with cur := team } (Control.ofWord (bundleWord b 0)).spidx.toNat else s
      | none => s)
/-- TRAP ENTRY (R30). -/
def execTrapEntry (team cause info : Nat) (addr : DWord) (s : State) : Host.Outcome State Fault Refusal :=
  .next (if s.teams.has team then State.takeTrap { s with cur := team } cause info addr else s)

/-- What is due in the teams. -/
def State.teamEvents (s : State) : List Ev :=
  s.teams.flatMap fun (p : Nat × Team) =>
    (p.2.pends.filterMap fun (q : Pend) => match q.data with
      | .armed es => if (s.armedDiffers p.2 es).isSome then some (.waitReturn p.1 q.n) else none
      | _ => if s.resolvable p.1 p.2 q then some (.resultResolve p.1 q.serial) else none) ++
    ((p.2.copies.filter fun (c : Copy) => c.fate == .flying).map fun (c : Copy) => .copyLanding p.1 c.serial) ++
    (if (s.switchDue p.1 p.2).isSome then [.pathSwitch p.1] else [])

end Sys2Proof.Machine
end

