-- ==== Sys2Proof/Machine/UniAlu.lean ====
section
/-! DEFINITION. The meanings of the uniform ALU instructions (R203 to R205). -/

namespace Sys2Proof.Machine

/-- A uniform instruction whose result has the fixed latency `lat` (R64, R225). -/
def uniFixed (i : Instr) (lat : Nat) (f : (r : Team) → List RegWrite) (s : State) : Host.Outcome State Fault Refusal :=
  slot i (fun r _ s => .fixed s lat (f r) 0) s

/-- SADD (R204). -/
def execSadd (d a : RegNo) (o : OpU) (s : State) : Host.Outcome State Fault Refusal :=
  uniFixed (.sadd d a o) 2 (fun r => uniWrite d (r.S a.toNat + r.opu o)) s
/-- SSUB (R204). -/
def execSsub (d a : RegNo) (o : OpU) (s : State) : Host.Outcome State Fault Refusal :=
  uniFixed (.ssub d a o) 2 (fun r => uniWrite d (r.S a.toNat - r.opu o)) s
/-- SMUL (R204). -/
def execSmul (d a : RegNo) (o : OpU) (s : State) : Host.Outcome State Fault Refusal :=
  uniFixed (.smul d a o) 4 (fun r => uniWrite d (r.S a.toNat * r.opu o)) s
/-- SAND (R204). -/
def execSand (d a : RegNo) (o : OpU) (s : State) : Host.Outcome State Fault Refusal :=
  uniFixed (.sand d a o) 2 (fun r => uniWrite d (r.S a.toNat &&& r.opu o)) s
/-- SOR (R204). -/
def execSor (d a : RegNo) (o : OpU) (s : State) : Host.Outcome State Fault Refusal :=
  uniFixed (.sor d a o) 2 (fun r => uniWrite d (r.S a.toNat ||| r.opu o)) s
/-- SXOR (R204). -/
def execSxor (d a : RegNo) (o : OpU) (s : State) : Host.Outcome State Fault Refusal :=
  uniFixed (.sxor d a o) 2 (fun r => uniWrite d (r.S a.toNat ^^^ r.opu o)) s
/-- SANDN (R204). -/
def execSandn (d a : RegNo) (o : OpU) (s : State) : Host.Outcome State Fault Refusal :=
  uniFixed (.sandn d a o) 2 (fun r => uniWrite d (r.S a.toNat &&& ~~~(r.opu o))) s
/-- SSHL (R204). -/
def execSshl (d a : RegNo) (o : OpU) (s : State) : Host.Outcome State Fault Refusal :=
  uniFixed (.sshl d a o) 2 (fun r => uniWrite d (shlW (r.S a.toNat) (r.opu o))) s
/-- SSHR (R204). -/
def execSshr (d a : RegNo) (o : OpU) (s : State) : Host.Outcome State Fault Refusal :=
  uniFixed (.sshr d a o) 2 (fun r => uniWrite d (shrW (r.S a.toNat) (r.opu o))) s
/-- SSAR (R204). -/
def execSsar (d a : RegNo) (o : OpU) (s : State) : Host.Outcome State Fault Refusal :=
  uniFixed (.ssar d a o) 2 (fun r => uniWrite d (sarW (r.S a.toNat) (r.opu o))) s
/-- SMULHI (R204). -/
def execSmulhi (d a : RegNo) (o : OpU) (u : Bool) (s : State) : Host.Outcome State Fault Refusal :=
  uniFixed (.smulhi d a o u) 4 (fun r => uniWrite d (mulHi u (r.S a.toNat) (r.opu o))) s
/-- SMIN (R204). -/
def execSmin (d a : RegNo) (o : OpU) (u : Bool) (s : State) : Host.Outcome State Fault Refusal :=
  uniFixed (.smin d a o u) 2 (fun r => uniWrite d (minW u (r.S a.toNat) (r.opu o))) s
/-- SMAX (R204). -/
def execSmax (d a : RegNo) (o : OpU) (u : Bool) (s : State) : Host.Outcome State Fault Refusal :=
  uniFixed (.smax d a o u) 2 (fun r => uniWrite d (maxW u (r.S a.toNat) (r.opu o))) s
/-- SBFX (R204). -/
def execSbfx (d a : RegNo) (o : OpU) (u : Bool) (s : State) : Host.Outcome State Fault Refusal :=
  uniFixed (.sbfx d a o u) 2 (fun r => uniWrite d (bfxW u (r.S a.toNat) (r.opu o))) s
/-- SPOPC (R204). -/
def execSpopc (d a : RegNo) (s : State) : Host.Outcome State Fault Refusal :=
  uniFixed (.spopc d a) 2 (fun r => uniWrite d (popcW (r.S a.toNat))) s
/-- SCLZ (R204). -/
def execSclz (d a : RegNo) (s : State) : Host.Outcome State Fault Refusal :=
  uniFixed (.sclz d a) 2 (fun r => uniWrite d (clzW (r.S a.toNat))) s
/-- SBFI (R204). -/
def execSbfi (d a : RegNo) (o : OpU) (s : State) : Host.Outcome State Fault Refusal :=
  uniFixed (.sbfi d a o) 2 (fun r => uniWrite d (bfiW (r.S d.toNat) (r.S a.toNat) (r.opu o))) s
/-- SADDI (R204). -/
def execSaddi (d a : RegNo) (imm : BitVec 10) (s : State) : Host.Outcome State Fault Refusal :=
  uniFixed (.saddi d a imm) 2 (fun r => uniWrite d (r.S a.toNat + sext imm)) s
/-- SMOVI (R204). -/
def execSmovi (d : RegNo) (imm : BitVec 17) (s : State) : Host.Outcome State Fault Refusal :=
  uniFixed (.smovi d imm) 2 (fun _ => uniWrite d (sext imm)) s
/-- SMOV (R22, R204): with a register source it copies a future's handle and its pending mark without blocking. -/
def execSmov (d : RegNo) (o : OpU) (s : State) : Host.Outcome State Fault Refusal :=
  slot (.smov d o) (fun r t s =>
    match o with
    | .lit w => .fixed s 2 (uniWrite d w) 0
    | .reg b =>
      match t.pendOf .s b.toNat with
      | none => .fixed s 2 (uniWrite d (r.S b.toNat)) 0
      | some p =>
        if p.isFuture then .later (s.updMe fun t => t.landS d.toNat (t.S b.toNat)) 6 .future
        else .block s (.reg .s b.toNat)) s
/-- SSEL (R205). -/
def execSsel (d a b : RegNo) (s : State) : Host.Outcome State Fault Refusal :=
  uniFixed (.ssel d a b) 2 (fun r => if r.S b.toNat != 0 then uniWrite d (r.S a.toNat) else uniWrite d (r.S d.toNat)) s
/-- SCMP (R205). -/
def execScmp (d a : RegNo) (o : OpL) (c : BitVec 3) (s : State) : Host.Outcome State Fault Refusal :=
  uniFixed (.scmp d a o c) 2 (fun r => uniWrite d (if condInt c (r.S a.toNat) (r.oplS o) then 1 else 0)) s
/-- SLEA (R204). -/
def execSlea (d a : RegNo) (o : OpU) (u : Bool) (s : State) : Host.Outcome State Fault Refusal :=
  uniFixed (.slea d a o u) 2 (fun r => uniWrite64 d (leaW u (r.S64 a.toNat) (r.opu o))) s

end Sys2Proof.Machine
end

