-- ==== Sys2Proof/Machine/UniFlow.lean ====
section
/-! DEFINITION. The meanings of the mask, path and control-flow instructions (R210 to R224). -/

namespace Sys2Proof.Machine

/-- A slot that changes the team and goes on. -/
def teamOp (i : Instr) (f : (r t : Team) → Team) (s : State) : Host.Outcome State Fault Refusal :=
  slot i (fun r _ s => .done (s.updMe fun t => f r t)) s
/-- A slot whose uniform result takes 4 clk (R225). -/
def maskRead (i : Instr) (d : RegNo) (f : (r : Team) → Word) (s : State) : Host.Outcome State Fault Refusal :=
  slot i (fun r _ s => .fixed s 4 (uniWrite d (f r)) 0) s

/-- EXSET (R211). -/
def execExset (a : RegNo) (s : State) : Host.Outcome State Fault Refusal :=
  teamOp (.exset a) (fun r t => { t with ex := r.P a.toNat &&& t.live }) s
/-- EXAND (R211). -/
def execExand (a : RegNo) (s : State) : Host.Outcome State Fault Refusal :=
  teamOp (.exand a) (fun r t => { t with ex := t.ex &&& r.P a.toNat }) s
/-- EXANDN (R211). -/
def execExandn (a : RegNo) (s : State) : Host.Outcome State Fault Refusal :=
  teamOp (.exandn a) (fun r t => { t with ex := t.ex &&& ~~~(r.P a.toNat) }) s
/-- EXALL (R211). -/
def execExall (s : State) : Host.Outcome State Fault Refusal := teamOp .exall (fun _ t => { t with ex := t.live }) s
/-- EXSAVE (R212): every lane of the team, in or out of EX. -/
def execExsave (d : RegNo) (s : State) : Host.Outcome State Fault Refusal :=
  slot (.exsave d) (fun r _ s => .fixed s 4 (predWrites (List.range r.lanes) d fun l => r.ex.getLsbD l) 0) s
/-- EXCNT (R212). -/
def execExcnt (d : RegNo) (s : State) : Host.Outcome State Fault Refusal :=
  maskRead (.excnt d) d (fun r => BitVec.ofNat 32 (countLanes r.ex r.lanes)) s
/-- EXANY (R212). -/
def execExany (d a : RegNo) (s : State) : Host.Outcome State Fault Refusal :=
  maskRead (.exany d a) d (fun r => match r.actives.find? (fun l => (r.P a.toNat).getLsbD l) with
    | some l => BitVec.ofNat 32 (l + 1)
    | none => 0) s
/-- PBALLOT (R213). -/
def execPballot (d a : RegNo) (n : Selr) (s : State) : Host.Outcome State Fault Refusal :=
  maskRead (.pballot d a n) d (fun r =>
    if 32 * r.selr n 5 < r.lanes then maskWord (r.P a.toNat) (r.selr n 5) else 0) s
/-- PFILL (R213): lanes in or out of EX. -/
def execPfill (d a : RegNo) (n : Selr) (s : State) : Host.Outcome State Fault Refusal :=
  slot (.pfill d a n) (fun r _ s =>
    let w := r.selr n 5
    .fixed s 2 (if 32 * w < r.lanes then
      (List.range 32).map fun p => ⟨.p, d.toNat, 32 * w + p, if (r.S a.toNat).getLsbD p then 1 else 0⟩ else []) 0) s
/-- SGET (R214): of a pending register, the result waits for it. -/
def execSget (d a : RegNo) (n : Selr) (s : State) : Host.Outcome State Fault Refusal :=
  slot (.sget d a n) (fun r t s =>
    let lane := r.selr n 10
    match t.pendOf .v a.toNat with
    | some _ => .later s 12 (.laneOf a.toNat lane)
    | none => .fixed s 4 (uniWrite d (if lane < r.lanes then r.V lane a.toNat else 0)) 0) s

/-- The target of a form C or J transfer as a PC (R56): slot 1 of the bundle. -/
def branchPc {n : Nat} (t : Team) (imm : BitVec n) : Word := bundleOf t.pc + 16 * imm.signExtend 32 + 4
/-- A new level record (R215). -/
def Level.fork (parent n : Nat) : Level := ⟨true, parent, false, 0, n, 0⟩
/-- A forked path's slot (R215). -/
def PathSlot.fork (lvl : Nat) (pc : Word) (m : Mask) : PathSlot := ⟨true, none, lvl, 0, pc, 0, m, 0, none, []⟩

/-- FORK (R215): the slots in use grow older by this slot, and the new one's AGE is 0. -/
def execFork (c : RegNo) (imm : BitVec 17) (s : State) : Host.Outcome State Fault Refusal :=
  slot (.fork c imm) (fun r t s =>
    let f := r.P c.toNat &&& t.ex
    match t.levels.findIdx? (!·.opened), t.slots.findIdx? (!·.v) with
    | none, _ => .trap 0x0E 0 0
    | some n, free =>
      if f != 0 && free.isNone then .trap 0x0E 0 0
      else
        let old := agedSlots s s.cur t false
        let slots := match free with
          | some k => if f != 0 then old.set k (PathSlot.fork n (branchPc t imm) f) else old
          | none => old
        let t' := { t with
          levels := t.levels.set n (Level.fork t.level (if f != 0 then 2 else 1)), slots := slots, ex := t.ex &&& ~~~f, level := n }
        .done ((s.setTeam s.cur t').trace t' t.pc 5 n)) s

/-- The running path of the current team has ended at slot `i`: the incoming path is chosen by R27 rule 4 and its slot freed;
where every path is blocked, or in a trap handler, the team waits (R216, R218). -/
def State.endPath (s : State) (i : Instr) : State :=
  match s.me with
  | none => s
  | some t =>
    let t := { t with
      ex := 0, blk := none, done := 0, mark := none, kept := [], noPath := true, yielded := false, slots := agedSlots s s.cur t false
      earliest := s.clk + max t.stallHere 2, zeroStall := false, lastSetU := i.isU, lastIssue := s.clk, spSkip := false }
    let s := (s.setTeam s.cur t).endAllow s.cur
    let s := match (if t.tlevel then none else bestSlot s s.cur t) with
      | some k => s.switchPath s.cur k none
      | none => s
    s.afterSlot s.cur

/-- PEND (R216). -/
def execPend (imm : BitVec 24) (s : State) : Host.Outcome State Fault Refusal :=
  slot (.pend imm) (fun _ t s =>
    let join := bundleOf t.pc + 16 * imm.signExtend 32
    match t.levels[t.level]? with
    | none => .moved s (join + 4) 6 t.level
    | some lv =>
      let k := t.level
      if lv.jset && join != lv.join then .trap 0x0D k (join.setWidth 64)
      else
        let lv' := { lv with join := join, jset := true, jm := lv.jm ||| t.ex, n := lv.n - 1 }
        if lv'.n = 0 then
          .moved (s.setTeam s.cur { t with
            levels := t.levels.set k { lv' with opened := false }, ex := lv'.jm &&& t.live, level := lv.parent }) (join + 4) 6 k
        else
          let t' := { t with
            levels := t.levels.set k lv'
            slots := t.slots.map fun (p : PathSlot) => if p.v && p.lvl == k then { p with join := join } else p }
          .stop (((s.setTeam s.cur t').trace t' t.pc 6 k).endPath (.pend imm))) s
/-- YLD (R217). -/
def execYld (s : State) : Host.Outcome State Fault Refusal := teamOp .yld (fun _ t => { t with yielded := true }) s

/-- A branch that is taken on a condition (R220). -/
def branch {n : Nat} (i : Instr) (imm : BitVec n) (taken : (r t : Team) → Bool) (s : State) : Host.Outcome State Fault Refusal :=
  slot i (fun r t s => if taken r t then .moved s (branchPc t imm) 1 0 else .done s) s
/-- BRA (R220). -/
def execBra (imm : BitVec 24) (s : State) : Host.Outcome State Fault Refusal := branch (.bra imm) imm (fun _ _ => true) s
/-- BRZ (R220). -/
def execBrz (c : RegNo) (imm : BitVec 17) (s : State) : Host.Outcome State Fault Refusal :=
  branch (.brz c imm) imm (fun r _ => r.S c.toNat == 0) s
/-- BRNZ (R220). -/
def execBrnz (c : RegNo) (imm : BitVec 17) (s : State) : Host.Outcome State Fault Refusal :=
  branch (.brnz c imm) imm (fun r _ => r.S c.toNat != 0) s
/-- BREX (R220): taken where EX = 0. -/
def execBrex (imm : BitVec 24) (s : State) : Host.Outcome State Fault Refusal := branch (.brex imm) imm (fun _ t => t.ex == 0#1024) s
/-- BRNEX (R220): taken where EX ≠ 0. -/
def execBrnex (imm : BitVec 24) (s : State) : Host.Outcome State Fault Refusal := branch (.brnex imm) imm (fun _ t => t.ex != 0#1024) s
/-- CALL (R221): the link takes 2 clk. -/
def execCall (c : RegNo) (imm : BitVec 17) (s : State) : Host.Outcome State Fault Refusal :=
  slot (.call c imm) (fun _ t s =>
    .moved (s.updMe fun t => t.deliver (.call c imm) s.clk 2 (uniWrite c (bundleOf t.pc + 16)) 0) (branchPc t imm) 2 0) s
/-- A transfer to a register's value (R221). -/
def jumpTo (i : Instr) (a : RegNo) (code : Nat) (s : State) : Host.Outcome State Fault Refusal :=
  slot i (fun r _ s =>
    let x := r.S a.toNat
    if x.extractLsb' 0 4 != 0#4 then .trap 0x03 0 (x.setWidth 64) else .moved s (x + 4) code 0) s
/-- RET (R221). -/
def execRet (a : RegNo) (s : State) : Host.Outcome State Fault Refusal := jumpTo (.ret a) a 3 s
/-- JMP (R221). -/
def execJmp (a : RegNo) (s : State) : Host.Outcome State Fault Refusal := jumpTo (.jmp a) a 4 s

/-- A slot at which the team waits for every batch and pending register: what a copy or a section trap makes of it, or that it
waits, or none when it may go on (R179, R222, R342, R507). -/
def State.drainWait (s : State) (t : Team) (futures : Bool) : Option Res :=
  match t.sectTraps.head? with
  | some x => some (.trap x.cause x.lane x.key)
  | none =>
    match s.copyOutcome t (List.range 8) true with
    | some r => some r
    | none => if t.drained futures then none else some (.stop (s.updMe fun t => { t with blk := some (.drained futures) }))
/-- EXIT (R222, R342, R445): the team's end waits for its batches and pending registers, and no other path runs meanwhile; a trap there abandons the slot
whole; in a rollback crew it waits for a checkpoint too; in a save routine the team's residency ends. -/
def execExit (s : State) : Host.Outcome State Fault Refusal :=
  slot .exit (fun _ t s =>
    if t.saving then
      match s.drainWait t false with
      | some r => r
      | none =>
        let t' := { t with pends := [], gone := true, blk := none }
        .stop ((s.setTeam s.cur t').trace t' t.pc 8 (countLanes t.live t.lanes))
    else
      let live := t.live &&& ~~~t.ex
      if live != 0 then
        let t' := { t with live := live, ex := 0 }
        .done ((s.setTeam s.cur t').trace t' t.pc 8 (countLanes live t.lanes))
      else
        match s.drainWait t true with
        | some r => r
        | none =>
          let t := { t with live := 0, ex := 0 }
          let s := s.setTeam s.cur t
          if t.kernel.rollback && !condHolds s s.cur t .checkpoint then s.wantCheckpoint t
          else
            let t' := { t with ended := true, blk := none }
            .stop (((s.setTeam s.cur t').trace t' t.pc 8 0).endAllow s.cur)) s
/-- TRAP (R223). -/
def execTrap (code : BitVec 16) (s : State) : Host.Outcome State Fault Refusal :=
  slot (.trap code) (fun _ _ _ => .trap 0x18 code.toNat 0) s
/-- BRK (R224): the team halts while a debugger holds the debug right with HALT (R463), else it traps; no effect at TLEVEL 1. Its stall count binds the slot after the halt (R47). -/
def execBrk (s : State) : Host.Outcome State Fault Refusal :=
  slot .brk (fun _ t s =>
    if t.tlevel then .done s
    else if holderKind (s.winReg t.ctx (dbg 0)) != 0 && s.hasRight t.ctx 0 then
      .stop ((s.updMe fun t => { t with
        blk := none, stepState := 0, earliest := max t.earliest (s.clk + t.stallHere) }).haltTeam s.cur 3 0)
    else .trap 0x17 0 0) s

end Sys2Proof.Machine
end

