-- ==== Sys2Proof/Machine/Dispatch.lean ====
section
/-! DEFINITION. The dispatcher: one arm for each constructor of `Instr`, each a call of that instruction's own meaning. -/

namespace Sys2Proof.Machine

/-- What an instruction or a machine event does. -/
def exec (i : Instr) (s : State) : Host.Outcome State Fault Refusal :=
  match i with
  | .iadd d a o => Sys2Proof.Machine.execIadd d a o s
  | .isub d a o => Sys2Proof.Machine.execIsub d a o s
  | .imul d a o => Sys2Proof.Machine.execImul d a o s
  | .imulhi d a o u => Sys2Proof.Machine.execImulhi d a o u s
  | .imac d a o => Sys2Proof.Machine.execImac d a o s
  | .imin d a o u => Sys2Proof.Machine.execImin d a o u s
  | .imax d a o u => Sys2Proof.Machine.execImax d a o u s
  | .iabsd d a o u => Sys2Proof.Machine.execIabsd d a o u s
  | .iaddsat d a o u => Sys2Proof.Machine.execIaddsat d a o u s
  | .isubsat d a o u => Sys2Proof.Machine.execIsubsat d a o u s
  | .and d a o => Sys2Proof.Machine.execAnd d a o s
  | .or d a o => Sys2Proof.Machine.execOr d a o s
  | .xor d a o => Sys2Proof.Machine.execXor d a o s
  | .andn d a o => Sys2Proof.Machine.execAndn d a o s
  | .shl d a o => Sys2Proof.Machine.execShl d a o s
  | .shr d a o => Sys2Proof.Machine.execShr d a o s
  | .sar d a o => Sys2Proof.Machine.execSar d a o s
  | .popc d a => Sys2Proof.Machine.execPopc d a s
  | .clz d a => Sys2Proof.Machine.execClz d a s
  | .brev d a => Sys2Proof.Machine.execBrev d a s
  | .bfx d a o u => Sys2Proof.Machine.execBfx d a o u s
  | .bfi d a o => Sys2Proof.Machine.execBfi d a o s
  | .iaddi d a imm => Sys2Proof.Machine.execIaddi d a imm s
  | .movi d imm => Sys2Proof.Machine.execMovi d imm s
  | .mov d o => Sys2Proof.Machine.execMov d o s
  | .sel d a b => Sys2Proof.Machine.execSel d a b s
  | .lea d a o u => Sys2Proof.Machine.execLea d a o u s
  | .icmp d a o c => Sys2Proof.Machine.execIcmp d a o c s
  | .fadd d a o u => Sys2Proof.Machine.execFadd d a o u s
  | .fsub d a o u => Sys2Proof.Machine.execFsub d a o u s
  | .fmul d a o u => Sys2Proof.Machine.execFmul d a o u s
  | .ffma d a o u => Sys2Proof.Machine.execFfma d a o u s
  | .fmin d a o u => Sys2Proof.Machine.execFmin d a o u s
  | .fmax d a o u => Sys2Proof.Machine.execFmax d a o u s
  | .fminnm d a o u => Sys2Proof.Machine.execFminnm d a o u s
  | .fmaxnm d a o u => Sys2Proof.Machine.execFmaxnm d a o u s
  | .fcmp d a o c => Sys2Proof.Machine.execFcmp d a o c s
  | .frcp d a => Sys2Proof.Machine.execFrcp d a s
  | .frsq d a => Sys2Proof.Machine.execFrsq d a s
  | .fsqrt d a => Sys2Proof.Machine.execFsqrt d a s
  | .fex2 d a => Sys2Proof.Machine.execFex2 d a s
  | .flg2 d a => Sys2Proof.Machine.execFlg2 d a s
  | .fsin d a => Sys2Proof.Machine.execFsin d a s
  | .fcos d a => Sys2Proof.Machine.execFcos d a s
  | .fclass d a => Sys2Proof.Machine.execFclass d a s
  | .pkadd d a o u => Sys2Proof.Machine.execPkadd d a o u s
  | .pkmul d a o u => Sys2Proof.Machine.execPkmul d a o u s
  | .pkfma d a o u => Sys2Proof.Machine.execPkfma d a o u s
  | .pkbfma d a o u => Sys2Proof.Machine.execPkbfma d a o u s
  | .pkdot d a o u => Sys2Proof.Machine.execPkdot d a o u s
  | .dadd d a o u => Sys2Proof.Machine.execDadd d a o u s
  | .dmul d a o u => Sys2Proof.Machine.execDmul d a o u s
  | .dfma d a o u => Sys2Proof.Machine.execDfma d a o u s
  | .dcmp d a o c => Sys2Proof.Machine.execDcmp d a o c s
  | .cvt d a spec => Sys2Proof.Machine.execCvt d a spec s
  | .tdec d a o => Sys2Proof.Machine.execTdec d a o s
  | .tenc d a o => Sys2Proof.Machine.execTenc d a o s
  | .npack d a o => Sys2Proof.Machine.execNpack d a o s
  | .nunpk d a o => Sys2Proof.Machine.execNunpk d a o s
  | .fxq d a o => Sys2Proof.Machine.execFxq d a o s
  | .fxdq d a o => Sys2Proof.Machine.execFxdq d a o s
  | .shfl d a src => Sys2Proof.Machine.execShfl d a src s
  | .lred d a k team => Sys2Proof.Machine.execLred d a k team s
  | .lscan d a k team excl => Sys2Proof.Machine.execLscan d a k team excl s
  | .matchv d a team => Sys2Proof.Machine.execMatchv d a team s
  | .pset d a => Sys2Proof.Machine.execPset d a s
  | .plog d a b m => Sys2Proof.Machine.execPlog d a b m s
  | .pmov d a => Sys2Proof.Machine.execPmov d a s
  | .qpush d a => Sys2Proof.Machine.execQpush d a s
  | .qpop d a => Sys2Proof.Machine.execQpop d a s
  | .trc a b spec => Sys2Proof.Machine.execTrc a b spec s
  | .oenter d a b => Sys2Proof.Machine.execOenter d a b s
  | .oleave a => Sys2Proof.Machine.execOleave a s
  | .oskip a b => Sys2Proof.Machine.execOskip a b s
  | .scq d a => Sys2Proof.Machine.execScq d a s
  | .scfill a b => Sys2Proof.Machine.execScfill a b s
  | .scinv a => Sys2Proof.Machine.execScinv a s
  | .ld8 d a disp => Sys2Proof.Machine.execLd8 d a disp s
  | .ld16 d a disp => Sys2Proof.Machine.execLd16 d a disp s
  | .ld32 d a disp => Sys2Proof.Machine.execLd32 d a disp s
  | .ld64 d a disp => Sys2Proof.Machine.execLd64 d a disp s
  | .ld128 d a disp => Sys2Proof.Machine.execLd128 d a disp s
  | .st8 d a disp => Sys2Proof.Machine.execSt8 d a disp s
  | .st16 d a disp => Sys2Proof.Machine.execSt16 d a disp s
  | .st32 d a disp => Sys2Proof.Machine.execSt32 d a disp s
  | .st64 d a disp => Sys2Proof.Machine.execSt64 d a disp s
  | .st128 d a disp => Sys2Proof.Machine.execSt128 d a disp s
  | .lds32 d a disp => Sys2Proof.Machine.execLds32 d a disp s
  | .lds64 d a disp => Sys2Proof.Machine.execLds64 d a disp s
  | .lds128 d a disp => Sys2Proof.Machine.execLds128 d a disp s
  | .sts32 d a disp => Sys2Proof.Machine.execSts32 d a disp s
  | .sts64 d a disp => Sys2Proof.Machine.execSts64 d a disp s
  | .sts128 d a disp => Sys2Proof.Machine.execSts128 d a disp s
  | .ldf d a disp => Sys2Proof.Machine.execLdf d a disp s
  | .ste d a disp => Sys2Proof.Machine.execSte d a disp s
  | .ldfk d a disp => Sys2Proof.Machine.execLdfk d a disp s
  | .ldc d a disp => Sys2Proof.Machine.execLdc d a disp s
  | .smp d a b => Sys2Proof.Machine.execSmp d a b s
  | .cpa d a o => Sys2Proof.Machine.execCpa d a o s
  | .atadd d a w o ord => Sys2Proof.Machine.execAtadd d a w o ord s
  | .atmin d a w o ord => Sys2Proof.Machine.execAtmin d a w o ord s
  | .atmax d a w o ord => Sys2Proof.Machine.execAtmax d a w o ord s
  | .atand d a w o ord => Sys2Proof.Machine.execAtand d a w o ord s
  | .ator d a w o ord => Sys2Proof.Machine.execAtor d a w o ord s
  | .atxor d a w o ord => Sys2Proof.Machine.execAtxor d a w o ord s
  | .atxch d a w o ord => Sys2Proof.Machine.execAtxch d a w o ord s
  | .atcas d a w b ord => Sys2Proof.Machine.execAtcas d a w b ord s
  | .atfadd d a w o ord => Sys2Proof.Machine.execAtfadd d a w o ord s
  | .atfmin d a w o ord => Sys2Proof.Machine.execAtfmin d a w o ord s
  | .atfmax d a w o ord => Sys2Proof.Machine.execAtfmax d a w o ord s
  | .redadd a w o ord => Sys2Proof.Machine.execRedadd a w o ord s
  | .redfadd a w o ord => Sys2Proof.Machine.execRedfadd a w o ord s
  | .sadd d a o => Sys2Proof.Machine.execSadd d a o s
  | .ssub d a o => Sys2Proof.Machine.execSsub d a o s
  | .smul d a o => Sys2Proof.Machine.execSmul d a o s
  | .smulhi d a o u => Sys2Proof.Machine.execSmulhi d a o u s
  | .sand d a o => Sys2Proof.Machine.execSand d a o s
  | .sor d a o => Sys2Proof.Machine.execSor d a o s
  | .sxor d a o => Sys2Proof.Machine.execSxor d a o s
  | .sandn d a o => Sys2Proof.Machine.execSandn d a o s
  | .sshl d a o => Sys2Proof.Machine.execSshl d a o s
  | .sshr d a o => Sys2Proof.Machine.execSshr d a o s
  | .ssar d a o => Sys2Proof.Machine.execSsar d a o s
  | .smin d a o u => Sys2Proof.Machine.execSmin d a o u s
  | .smax d a o u => Sys2Proof.Machine.execSmax d a o u s
  | .spopc d a => Sys2Proof.Machine.execSpopc d a s
  | .sclz d a => Sys2Proof.Machine.execSclz d a s
  | .sbfx d a o u => Sys2Proof.Machine.execSbfx d a o u s
  | .sbfi d a o => Sys2Proof.Machine.execSbfi d a o s
  | .saddi d a imm => Sys2Proof.Machine.execSaddi d a imm s
  | .smovi d imm => Sys2Proof.Machine.execSmovi d imm s
  | .smov d o => Sys2Proof.Machine.execSmov d o s
  | .ssel d a b => Sys2Proof.Machine.execSsel d a b s
  | .scmp d a o c => Sys2Proof.Machine.execScmp d a o c s
  | .slea d a o u => Sys2Proof.Machine.execSlea d a o u s
  | .sld32 d a disp => Sys2Proof.Machine.execSld32 d a disp s
  | .sld64 d a disp => Sys2Proof.Machine.execSld64 d a disp s
  | .sst32 d a disp => Sys2Proof.Machine.execSst32 d a disp s
  | .sst64 d a disp => Sys2Proof.Machine.execSst64 d a disp s
  | .sldc d a disp => Sys2Proof.Machine.execSldc d a disp s
  | .satadd d a w o ord => Sys2Proof.Machine.execSatadd d a w o ord s
  | .satcas d a w b ord => Sys2Proof.Machine.execSatcas d a w b ord s
  | .satxch d a w o ord => Sys2Proof.Machine.execSatxch d a w o ord s
  | .sldaq d a w ord => Sys2Proof.Machine.execSldaq d a w ord s
  | .sstrl d a w ord => Sys2Proof.Machine.execSstrl d a w ord s
  | .exset a => Sys2Proof.Machine.execExset a s
  | .exand a => Sys2Proof.Machine.execExand a s
  | .exandn a => Sys2Proof.Machine.execExandn a s
  | .exsave d => Sys2Proof.Machine.execExsave d s
  | .exall => Sys2Proof.Machine.execExall s
  | .excnt d => Sys2Proof.Machine.execExcnt d s
  | .exany d a => Sys2Proof.Machine.execExany d a s
  | .pballot d a n => Sys2Proof.Machine.execPballot d a n s
  | .pfill d a n => Sys2Proof.Machine.execPfill d a n s
  | .sget d a n => Sys2Proof.Machine.execSget d a n s
  | .fork c t => Sys2Proof.Machine.execFork c t s
  | .pend t => Sys2Proof.Machine.execPend t s
  | .yld => Sys2Proof.Machine.execYld s
  | .bra t => Sys2Proof.Machine.execBra t s
  | .brz c t => Sys2Proof.Machine.execBrz c t s
  | .brnz c t => Sys2Proof.Machine.execBrnz c t s
  | .brex t => Sys2Proof.Machine.execBrex t s
  | .brnex t => Sys2Proof.Machine.execBrnex t s
  | .call c t => Sys2Proof.Machine.execCall c t s
  | .ret a => Sys2Proof.Machine.execRet a s
  | .jmp a => Sys2Proof.Machine.execJmp a s
  | .exit => Sys2Proof.Machine.execExit s
  | .trap code => Sys2Proof.Machine.execTrap code s
  | .brk => Sys2Proof.Machine.execBrk s
  | .bar a => Sys2Proof.Machine.execBar a s
  | .barrv d a b => Sys2Proof.Machine.execBarrv d a b s
  | .barw a => Sys2Proof.Machine.execBarw a s
  | .barpend a o => Sys2Proof.Machine.execBarpend a o s
  | .fence ord => Sys2Proof.Machine.execFence ord s
  | .pfence mask => Sys2Proof.Machine.execPfence mask s
  | .wait d a b => Sys2Proof.Machine.execWait d a b s
  | .ctcommit => Sys2Proof.Machine.execCtcommit s
  | .ctwait b => Sys2Proof.Machine.execCtwait b s
  | .fwait d a => Sys2Proof.Machine.execFwait d a s
  | .ftest d a => Sys2Proof.Machine.execFtest d a s
  | .fcancel d a => Sys2Proof.Machine.execFcancel d a s
  | .job d a b => Sys2Proof.Machine.execJob d a b s
  | .spawn d a b => Sys2Proof.Machine.execSpawn d a b s
  | .scframe a => Sys2Proof.Machine.execScframe a s
  | .mfmt a => Sys2Proof.Machine.execMfmt a s
  | .wbld d a => Sys2Proof.Machine.execWbld d a s
  | .mma d a n => Sys2Proof.Machine.execMma d a n s
  | .mzero d => Sys2Proof.Machine.execMzero d s
  | .mdrain d => Sys2Proof.Machine.execMdrain d s
  | .mburst n => Sys2Proof.Machine.execMburst n s
  | .mwait d => Sys2Proof.Machine.execMwait d s
  | .chash d a => Sys2Proof.Machine.execChash d a s
  | .cput d a => Sys2Proof.Machine.execCput d a s
  | .cget a b => Sys2Proof.Machine.execCget a b s
  | .cref a => Sys2Proof.Machine.execCref a s
  | .cdrop a => Sys2Proof.Machine.execCdrop a s
  | .cswap d a b m => Sys2Proof.Machine.execCswap d a b m s
  | .srd d b => Sys2Proof.Machine.execSrd d b s
  | .swr a b => Sys2Proof.Machine.execSwr a b s
  | .nop => Sys2Proof.Machine.execNop s
  | .rtt => Sys2Proof.Machine.execRtt s
  | .waitReturn team reg => Sys2Proof.Machine.execWaitReturn team reg s
  | .bundleFetch team => Sys2Proof.Machine.execBundleFetch team s
  | .safePointRedirection team => Sys2Proof.Machine.execSafePointRedirection team s
  | .trapEntry team cause info addr => Sys2Proof.Machine.execTrapEntry team cause info addr s
  | .pathSwitch team => Sys2Proof.Machine.execPathSwitch team s
  | .resultResolve team serial => Sys2Proof.Machine.execResultResolve team serial s
  | .copyLanding team serial => Sys2Proof.Machine.execCopyLanding team serial s
  | .teamEnd team => Sys2Proof.Machine.execTeamEnd team s
  | .gridEnd ctx grid => Sys2Proof.Machine.execGridEnd ctx grid s
  | .launch ch seq ctx kbase gangs tail prio param swap => Sys2Proof.Machine.execLaunch ch seq ctx kbase gangs tail prio param swap s
  | .gangPlacement part => Sys2Proof.Machine.execGangPlacement part s
  | .preemptionRequest gang => Sys2Proof.Machine.execPreemptionRequest gang s
  | .gangSave gang => Sys2Proof.Machine.execGangSave gang s
  | .gangRestore gang => Sys2Proof.Machine.execGangRestore gang s
  | .preemptionTimeout gang => Sys2Proof.Machine.execPreemptionTimeout gang s
  | .deckDispatch cluster => Sys2Proof.Machine.execDeckDispatch cluster s
  | .stealAttempt cluster => Sys2Proof.Machine.execStealAttempt cluster s
  | .jobStart cluster => Sys2Proof.Machine.execJobStart cluster s
  | .jobLanding cluster card piece => Sys2Proof.Machine.execJobLanding cluster card piece s
  | .fillfullStep cluster card piece => Sys2Proof.Machine.execFillfullStep cluster card piece s
  | .jobCompletion cluster card => Sys2Proof.Machine.execJobCompletion cluster card s
  | .collectiveResult group ctx coll => Sys2Proof.Machine.execCollectiveResult group ctx coll s
  | .apertureSubmit ctx cluster chan value => Sys2Proof.Machine.execApertureSubmit ctx cluster chan value s
  | .yrdAbort ctx coll => Sys2Proof.Machine.execYrdAbort ctx coll s
  | .pageWalk unit ctx va => Sys2Proof.Machine.execPageWalk unit ctx va s
  | .faultRetry ctx seq => Sys2Proof.Machine.execFaultRetry ctx seq s
  | .faultReject ctx seq => Sys2Proof.Machine.execFaultReject ctx seq s
  | .matrixChunkStart cluster => Sys2Proof.Machine.execMatrixChunkStart cluster s
  | .matrixChunkEnd cluster => Sys2Proof.Machine.execMatrixChunkEnd cluster s
  | .weightLoadEnd cluster slot => Sys2Proof.Machine.execWeightLoadEnd cluster slot s
  | .drainBeat cluster => Sys2Proof.Machine.execDrainBeat cluster s
  | .rampupEnd cluster => Sys2Proof.Machine.execRampupEnd cluster s
  | .rampdownEnd cluster => Sys2Proof.Machine.execRampdownEnd cluster s
  | .warmToCold cluster => Sys2Proof.Machine.execWarmToCold cluster s
  | .mxaInj ctx cluster value => Sys2Proof.Machine.execMxaInj ctx cluster value s
  | .oenterArrival team serial key => Sys2Proof.Machine.execOenterArrival team serial key s
  | .oleaveArrival ctx holder key => Sys2Proof.Machine.execOleaveArrival ctx holder key s
  | .oskipArrival ctx key sq => Sys2Proof.Machine.execOskipArrival ctx key sq s
  | .sectionTimeout team serial => Sys2Proof.Machine.execSectionTimeout team serial s
  | .waiterRetry team serial key => Sys2Proof.Machine.execWaiterRetry team serial key s
  | .secReset ctx => Sys2Proof.Machine.execSecReset ctx s
  | .secFree ctx => Sys2Proof.Machine.execSecFree ctx s
  | .secQuery ctx => Sys2Proof.Machine.execSecQuery ctx s
  | .clearall ctx => Sys2Proof.Machine.execClearall ctx s
  | .secBadOp ctx => Sys2Proof.Machine.execSecBadOp ctx s
  | .cascadeStep die => Sys2Proof.Machine.execCascadeStep die s
  | .rayEnd cluster ray => Sys2Proof.Machine.execRayEnd cluster ray s
  | .uncorrectedError site => Sys2Proof.Machine.execUncorrectedError site s
  | .consumption team storage addr => Sys2Proof.Machine.execConsumption team storage addr s
  | .checkpoint gang crew => Sys2Proof.Machine.execCheckpoint gang crew s
  | .rasInj ctx value => Sys2Proof.Machine.execRasInj ctx value s
  | .clusterRemoval cluster => Sys2Proof.Machine.execClusterRemoval cluster s
  | .dbgHalt ctx => Sys2Proof.Machine.execDbgHalt ctx s
  | .dbgResume ctx => Sys2Proof.Machine.execDbgResume ctx s
  | .dbgStep ctx => Sys2Proof.Machine.execDbgStep ctx s
  | .dbgQuery ctx => Sys2Proof.Machine.execDbgQuery ctx s
  | .dbgRead ctx => Sys2Proof.Machine.execDbgRead ctx s
  | .dbgEdit ctx => Sys2Proof.Machine.execDbgEdit ctx s
  | .dbgDiscard ctx => Sys2Proof.Machine.execDbgDiscard ctx s
  | .dbgBadOp ctx => Sys2Proof.Machine.execDbgBadOp ctx s
  | .stepHalt team => Sys2Proof.Machine.execStepHalt team s
  | .haltEvent ctx => Sys2Proof.Machine.execHaltEvent ctx s
  | .dbgWpWrite who ctx off value => Sys2Proof.Machine.execDbgWpWrite who ctx off value s
  | .dbgPulse ctx value => Sys2Proof.Machine.execDbgPulse ctx value s
  | .triggerPin pin => Sys2Proof.Machine.execTriggerPin pin s
  | .stallSample ctx cluster core => Sys2Proof.Machine.execStallSample ctx cluster core s
  | .ctxcfg ch seq ctx desc => Sys2Proof.Machine.execCtxcfg ch seq ctx desc s
  | .inval ch seq ctx base len => Sys2Proof.Machine.execInval ch seq ctx base len s
  | .kill ch seq ctx ident => Sys2Proof.Machine.execKill ch seq ctx ident s
  | .term ch seq ctx => Sys2Proof.Machine.execTerm ch seq ctx s
  | .evread ch seq ctx first count => Sys2Proof.Machine.execEvread ch seq ctx first count s
  | .domainCreate ch seq ctx domain hslots lines => Sys2Proof.Machine.execDomainCreate ch seq ctx domain hslots lines s
  | .domainDelete ch seq ctx domain => Sys2Proof.Machine.execDomainDelete ch seq ctx domain s
  | .svcrole ch seq ctx grid => Sys2Proof.Machine.execSvcrole ch seq ctx grid s
  | .debugGrant ch seq ctx holder node rights => Sys2Proof.Machine.execDebugGrant ch seq ctx holder node rights s
  | .debugRevoke ch seq ctx => Sys2Proof.Machine.execDebugRevoke ch seq ctx s
  | .attest ch seq ctx nonce => Sys2Proof.Machine.execAttest ch seq ctx nonce s
  | .configure => Sys2Proof.Machine.execConfigure s
  | .teardown => Sys2Proof.Machine.execTeardown s
  | .mgtRead => Sys2Proof.Machine.execMgtRead s
  | .mgtBadOp => Sys2Proof.Machine.execMgtBadOp s
  | .registerWrite target value => Sys2Proof.Machine.execRegisterWrite target value s
  | .startUp => Sys2Proof.Machine.execStartUp s
  | .powerLoss => Sys2Proof.Machine.execPowerLoss s
  | .thermalThrottle die => Sys2Proof.Machine.execThermalThrottle die s
  | .thermalShutdown die => Sys2Proof.Machine.execThermalShutdown die s
  | .bypass => Sys2Proof.Machine.execBypass s
  | .idcode => Sys2Proof.Machine.execIdcode s
  | .samplePreload => Sys2Proof.Machine.execSamplePreload s
  | .extest => Sys2Proof.Machine.execExtest s
  | .clamp => Sys2Proof.Machine.execClamp s
  | .highz => Sys2Proof.Machine.execHighz s
  | .correctedError site => Sys2Proof.Machine.execCorrectedError site s
  | .linkLevelReplay port => Sys2Proof.Machine.execLinkLevelReplay port s
  | .commandRefused ch seq op ctx => Sys2Proof.Machine.execCommandRefused ch seq op ctx s
  | .partialSums group ctx coll parts => Sys2Proof.Machine.execPartialSums group ctx coll parts s

end Sys2Proof.Machine
end

