-- ==== Sys2Proof/Machine/Events.lean ====
section
/-! DEFINITION. The machine's own events: which of them the state makes due, and what each does. -/

namespace Sys2Proof.Machine

/-- Whether a message is held at its sender: a skip for which its slice has no entry (R385), an aperture store for which the yarder
has no card entry (R305). -/
def State.holdsBack (s : State) (e : Ev) : Bool :=
  match e with
  | .oskipArrival ctx key sq => s.skipHeld ctx key sq
  | .apertureSubmit _ cluster _ value =>
    value.extractLsb' 8 56 == 0#56 && decide (64 ≤ (match s.clusters.find cluster with | some k => k.cards.length | none => 0))
  | _ => false
/-- The events of key cells and of the content unit that are due (R386, R395). -/
def State.unitEvents (s : State) : List Ev :=
  (s.teams.flatMap fun (p : Nat × Team) =>
    (p.2.enters.filter fun (e : Enter) => s.sectDue p.2 e).map fun (e : Enter) => .sectionTimeout p.1 e.serial) ++
  ((s.cascade.map (·.1)).eraseDups.map .cascadeStep)
/-- Every machine event that the state makes due. -/
def State.enabled (s : State) : List Ev :=
  s.teamEvents ++ s.schedEvents ++ s.deckEvents ++
  (s.clusters.flatMap fun (p : Nat × Cluster) => s.engineEvents p.1 p.2 ++ s.arrayEvents p.1) ++
  s.collectiveEvents ++ s.containEvents ++ s.debugEvents ++ s.unitEvents

/-- A machine event comes about. -/
def runEv (e : Ev) (s : State) : Host.Outcome State Fault Refusal :=
  match e with
  | .waitReturn team reg => execWaitReturn team reg s
  | .pathSwitch team => execPathSwitch team s
  | .resultResolve team serial => execResultResolve team serial s
  | .copyLanding team serial => execCopyLanding team serial s
  | .teamEnd team => execTeamEnd team s
  | .gridEnd ctx grid => execGridEnd ctx grid s
  | .gangPlacement part => execGangPlacement part s
  | .preemptionRequest gang => execPreemptionRequest gang s
  | .gangSave gang => execGangSave gang s
  | .gangRestore gang => execGangRestore gang s
  | .preemptionTimeout gang => execPreemptionTimeout gang s
  | .deckDispatch cluster => execDeckDispatch cluster s
  | .stealAttempt cluster => execStealAttempt cluster s
  | .jobStart cluster => execJobStart cluster s
  | .jobLanding cluster card piece => execJobLanding cluster card piece s
  | .fillfullStep cluster card piece => execFillfullStep cluster card piece s
  | .jobCompletion cluster card => execJobCompletion cluster card s
  | .collectiveResult group ctx coll => execCollectiveResult group ctx coll s
  | .pageWalk unit ctx va => execPageWalk unit ctx va s
  | .faultRetry ctx seq => execFaultRetry ctx seq s
  | .faultReject ctx seq => execFaultReject ctx seq s
  | .matrixChunkStart cluster => execMatrixChunkStart cluster s
  | .matrixChunkEnd cluster => execMatrixChunkEnd cluster s
  | .weightLoadEnd cluster slot => execWeightLoadEnd cluster slot s
  | .drainBeat cluster => execDrainBeat cluster s
  | .rampupEnd cluster => execRampupEnd cluster s
  | .rampdownEnd cluster => execRampdownEnd cluster s
  | .warmToCold cluster => execWarmToCold cluster s
  | .oenterArrival team serial key => execOenterArrival team serial key s
  | .oleaveArrival ctx holder key => execOleaveArrival ctx holder key s
  | .oskipArrival ctx key sq => execOskipArrival ctx key sq s
  | .sectionTimeout team serial => execSectionTimeout team serial s
  | .waiterRetry team serial key => execWaiterRetry team serial key s
  | .cascadeStep die => execCascadeStep die s
  | .rayEnd cluster ray => execRayEnd cluster ray s
  | .uncorrectedError site => execUncorrectedError site s
  | .consumption team storage addr => execConsumption team storage addr s
  | .checkpoint gang crew => execCheckpoint gang crew s
  | .clusterRemoval cluster => execClusterRemoval cluster s
  | .stepHalt team => execStepHalt team s
  | .haltEvent ctx => execHaltEvent ctx s
  | .stallSample ctx cluster core => execStallSample ctx cluster core s
  | .secReset ctx => execSecReset ctx s
  | .secFree ctx => execSecFree ctx s
  | .secQuery ctx => execSecQuery ctx s
  | .clearall ctx => execClearall ctx s
  | .secBadOp ctx => execSecBadOp ctx s
  | .dbgHalt ctx => execDbgHalt ctx s
  | .dbgResume ctx => execDbgResume ctx s
  | .dbgStep ctx => execDbgStep ctx s
  | .dbgQuery ctx => execDbgQuery ctx s
  | .dbgRead ctx => execDbgRead ctx s
  | .dbgEdit ctx => execDbgEdit ctx s
  | .dbgDiscard ctx => execDbgDiscard ctx s
  | .dbgBadOp ctx => execDbgBadOp ctx s
  | .yrdAbort ctx coll => execYrdAbort ctx coll s
  | .apertureSubmit ctx cluster chan value => execApertureSubmit ctx cluster chan value s
  | .configure => execConfigure s
  | .teardown => execTeardown s
  | .mgtRead => execMgtRead s
  | .mgtBadOp => execMgtBadOp s

end Sys2Proof.Machine
end

