-- ==== Sys2Proof/Machine/Step.lean ====
section
/-! DEFINITION. One step of the machine: of the things that can come about next, one comes about whole. -/

namespace Sys2Proof.Machine

/-- Everything that can come about next. -/
def State.candidates (s : State) : List Cand :=
  if s.checks.isEmpty then
    firstDue s.holdsBack s.agenda 0 [] ++ (s.enabled.map .ev) ++ (if s.inputs.isEmpty then [] else [.input]) ++ s.issuers ++ s.moves ++ s.readsAhead
  else [.check]

/-- The word that a team has fetched is decoded and executed; a word that is no instruction traps (R74). -/
def runWord (s : State) (w : Word) (lit : Option Word) : Host.Outcome State Fault Refusal :=
  match decode w lit with
  | .ok i =>
    match s.me with
    | some t => exec i { s with clk := if t.zeroStall && t.lastSetU == i.isU then s.clk + 1 else s.clk }
    | none => exec i s
  | .error _ => .next (s.takeTrap 0x01 (w.extractLsb' 24 8).toNat 0)

/-- A team issues: it fetches its next slot and, where the fetch lets it, executes the slot. -/
def runTeam (id : Nat) (s : State) : Host.Outcome State Fault Refusal :=
  match s.teams.find id with
  | none => .next s
  | some t =>
    match State.fetch { s with cur := id, clk := max s.clk t.earliest + Config.issueDelay s.tick } with
    | .stop s => .next s
    | .go s w lit => runWord s w lit

/-- One of the things that can come about next comes about. -/
def runCand (c : Cand) (s : State) : Host.Outcome State Fault Refusal :=
  match c with
  | .due k =>
    match s.agenda[k]? with
    | some d => runEv d.ev { s with agenda := s.agenda.eraseIdx k, clk := max s.clk d.at_ }
    | none => .next s
  | .ev e => runEv e s
  | .input =>
    match s.inputs with
    | i :: is => exec i { s with inputs := is }
    | [] => .next s
  | .team id => runTeam id s
  | .access n => .next (s.perform n)
  | .spread n c => .next (s.spread n c)
  | .ahead c r q => .next (s.readAhead c r q)
  | .check =>
    match s.checks with
    | x :: xs => execUncorrectedError x { s with checks := xs }
    | [] => .next s

/-- One step. -/
def step (s : State) : Host.Outcome State Fault Refusal :=
  match s.candidates with
  | [] => .next { s with clk := s.clk + 1 }
  | c :: cs =>
    runCand (if cs.isEmpty then c else ((c :: cs)[Config.pick s.tick % (cs.length + 1)]?).getD c) { s with tick := s.tick + 1 }

/-- The bundle that holds one instruction in slot 1, with the literal that the word needs in slot 2. -/
def bundleBytes (w : Nat) : List Byte :=
  leBytes 4 (if litRule (BitVec.ofNat 32 w) = .always then 2 ^ 28 else 0) ++ leBytes 8 w ++ leBytes 4 0xFA000000

/-- The machine with an instruction, its bits numbered as the opcode table numbers them, as the one that its one team fetches
next. -/
def State.withFetchWord (s : State) (_nbits w : Nat) : State :=
  s.withTeam (match decode (BitVec.ofNat 32 w) none with | .ok i => isMatrix i | .error _ => false)
    (bundleBytes (if litRule (BitVec.ofNat 32 w) = .always then w % 2 ^ 64 else w % 2 ^ 32 + 0xFA000000 * 2 ^ 32))

end Sys2Proof.Machine
end

