-- ==== Sys2Proof/Safety.lean ====
section
/-! DEFINITION. What a safe run is, and the terms in which claims about the machine are stated: which slots issue, what a slot
writes, what it leaves as it is. -/

namespace Sys2Proof

/-- The invariant of every state of a run: the memory is in canonical form. -/
def Safe (s : Machine.State) : Prop := Machine.Memory.wf s.mem = true

/-- A step that goes on: it neither faults nor is refused. -/
def GoesOn (s : Machine.State) : Prop := ∃ s', Machine.step s = .next s'

namespace Machine

/-- The current team is `t`, and its slot `i` passes every check of R74 and every wait on the scoreboard (R66). -/
def Issues (s : State) (t : Team) (i : Instr) : Prop := s.me = some t ∧ slotCheck s.cur i t s = .go

/-- The current team is `t` and no earlier attempt of its slot has performed anything (R165, R172). -/
def Afresh (t : Team) : Prop := t.done = 0 ∧ t.mark = none

/-- New register values by file, number and lane (lane 0 to 1023; a uniform register has the same value for every lane, a
predicate bit is 0 or 1); none: the register is as it was. -/
abbrev News := RFile → Nat → Nat → Option Word
/-- No register is written. -/
def newNothing : News := fun _ _ _ => none
/-- Vector register `d` of every active lane (R42). -/
def newLanes (r : Team) (d : RegNo) (f : Nat → Word) : News := fun file n l =>
  if file = .v ∧ n = d.toNat ∧ l < r.lanes ∧ r.ex.getLsbD l = true then some (f l) else none
/-- Vector pair `d` of every active lane (R42). -/
def newLanes64 (r : Team) (d : RegNo) (f : Nat → DWord) : News := fun file n l =>
  if file = .v ∧ l < r.lanes ∧ r.ex.getLsbD l = true then
    if n = d.toNat then some ((f l).extractLsb' 0 32) else if n = d.toNat + 1 then some ((f l).extractLsb' 32 32) else none
  else none
/-- Predicate `d` of every active lane (R42). -/
def newPred (r : Team) (d : RegNo) (f : Nat → Bool) : News := fun file n l =>
  if file = .p ∧ n = d.toNat ∧ l < r.lanes ∧ r.ex.getLsbD l = true then some (if f l then 1 else 0) else none
/-- Uniform register `d`. -/
def newUni (d : RegNo) (x : Word) : News := fun file n _ => if file = .s ∧ n = d.toNat then some x else none
/-- Uniform pair `d`. -/
def newUni64 (d : RegNo) (x : DWord) : News := fun file n _ =>
  if file = .s then
    if n = d.toNat then some (x.extractLsb' 0 32) else if n = d.toNat + 1 then some (x.extractLsb' 32 32) else none
  else none

/-- The registers of `t'` are those of `t` but for the new values. -/
def RegsAfter (t t' : Team) (g : News) : Prop := ∀ file n l, l < 1024 → t'.reg file n l = (g file n l).getD (t.reg file n l)
/-- Values on their way give the new values when they arrive. -/
def Carries (ws : List RegWrite) (g : News) : Prop := ∀ t : Team, RegsAfter t (t.puts ws) g

/-- What is left of a team without its registers, FSTAT and the scoreboard, its running path with the deferred paths, its timing,
and its halt: the modes, the trap registers, LIVE, the levels, the batches, the sections, the placement. -/
def Team.still (t : Team) : Team :=
  { t with
    v := [], s := [], p := [], fstat := 0, pends := [], inflight := []
    pc := 0, ex := 0, slots := [], level := 0, blk := none, done := 0, mark := none, kept := [], yielded := false, noPath := false
    earliest := 0, zeroStall := false, lastSetU := false, lastIssue := 0, yieldUntil := 0, spSkip := false
    halt := 0, haltFrom := 0, stepState := 0, watchHit := none }
/-- No context may record trace events (R464): then no trace record is written to memory. -/
def Untraced (s : State) : Prop := ∀ c, s.mayTrace c = false
/-- Every byte of memory reads as before. -/
def SameMemory (s s' : State) : Prop := ∀ a, Memory.read s'.mem a = Memory.read s.mem a
/-- What is left of a context without its trace and trigger registers and the halt records of its teams: SECTIME, its futures, its
sections' and services' registers, its events. -/
def Context.still (c : Context) : Context := { c with regs := [], haltRecs := [] }
/-- What is left of the machine without its teams, gangs and contexts, its counter of serials and the trigger lines: all of its memory and
of the memory system, the clusters with their cards and decks, the partitions, the channels, the sections. -/
def State.bare (s : State) : State := { s with teams := [], gangs := [], contexts := [], pulsed := [], serial := 0 }
/-- What is left of that without what a record of the trace can change, which the device writes to memory (R475): the memory with its
poison and its frames, the lines of the L2, the translations. -/
def State.still (s : State) : State :=
  { s.bare with mem := [], poison := [], checks := [], l2 := [], frames := [], translations := [], tick := 0 }
/-- What a slot that writes nothing but registers leaves as it is: the other teams; the scratchpads, barriers and accumulators of every
gang, but for the record of a rollback crew's checkpoint; the contexts and the rest of the machine, with all of memory where no trace
is recorded. -/
structure RestKept (s s' : State) (t : Team) : Prop where
  others : ∀ k, k ≠ s.cur → s'.teams.find k = s.teams.find k
  gangs : t.kernel.rollback = false → s'.gangs = s.gangs
  contexts : ∀ c, (s'.contexts.find c).map Context.still = (s.contexts.find c).map Context.still
  rest : s'.still = s.still
  memory : Untraced s → s'.bare = s.bare
/-- No switch of paths can become due at the end of the slot (R27): no path is deferred, or the team is in its trap handler, or it has
not yielded and every deferred path is younger than 255. -/
def NoSwitch (t : Team) : Prop :=
  (∀ p ∈ t.slots, p.v = false) ∨ t.tlevel = true ∨ (t.yielded = false ∧ ∀ p ∈ t.slots, p.v = true → p.age < 255)
/-- A slot goes on at the next slot: PC as R48 gives it, EX and the level as they were, unless a deferred path comes in (R27). -/
def StepsOn (i : Instr) (t t' : Team) : Prop :=
  NoSwitch t → t'.pc = nextPc t.pc i.hasLit ∧ t'.ex = t.ex ∧ t'.level = t.level

/-- A path slot without its age and what it waits for. -/
def PathSlot.still (p : PathSlot) : PathSlot := { p with age := 0, blk := none }
/-- A team goes on at `pc`, as `u` has it but for its timing; where no deferred path comes in, EX, the level and the deferred paths are
those of `u`. -/
abbrev GoesAs (u t' : Team) (pc : Word) : Prop :=
  RegsAfter u t' newNothing ∧ t'.fstat = u.fstat ∧ t'.pends = u.pends ∧ t'.still = u.still ∧
    (NoSwitch u → t'.pc = pc ∧ t'.ex = u.ex ∧ t'.level = u.level ∧ t'.slots.map PathSlot.still = u.slots.map PathSlot.still)
/-- The slot of the current team has completed and the team goes on at `pc`: `s'` is `s`, with the team as `u` has it. -/
def Onward (s s' : State) (u : Team) (pc : Word) : Prop :=
  (∃ t', s'.teams.find s.cur = some t' ∧ GoesAs u t' pc) ∧ RestKept s s' u
/-- The slot completes: `s1` is the state before it with the instruction's effect outside its team, which it leaves as `u`. -/
def LeavesIn (s : State) (i : Instr) (s1 : State) (u : Team) (pc : Word) : Prop := ∃ s', exec i s = .next s' ∧ Onward s1 s' u pc
/-- The slot changes nothing but its team, which it leaves as `u`, and goes on at `pc`. -/
def Leaves (s : State) (i : Instr) (u : Team) (pc : Word) : Prop := LeavesIn s i s u pc
/-- The slot traps, and nothing of it takes effect (R30). -/
def Traps (s : State) (i : Instr) (cause info : Nat) (addr : DWord) : Prop := exec i s = .next (s.takeTrap cause info addr)

/-- The slot completes with its destination pending for a reason of R65, on a result that is not there yet; `s1` is the state before it
with the instruction's effect outside its team. -/
def PendsIn (s s1 : State) (t : Team) (i : Instr) (reason : Nat) (data : PendData) : Prop :=
  ∃ s' t' p, exec i s = .next s' ∧ s'.teams.find s.cur = some t' ∧ p ∈ t'.pends ∧
    (p.file, p.n, p.cnt) ∈ (i.writes.map fun (u : RegUse) => (u.file, u.n, u.cnt)) ∧ p.reason = reason ∧ p.data = data ∧
    RegsAfter t t' newNothing ∧ t'.fstat = t.fstat ∧ t'.still = t.still ∧ StepsOn i t t' ∧ RestKept s1 s' t

/-- The slot completes with a result of fixed latency: it answers a next state in which the registers hold the new values, the flags
are raised, and everything else of R16 is as it was. -/
def Gives (s : State) (t : Team) (i : Instr) (g : News) (flags : BitVec 5) : Prop :=
  ∃ s' t', exec i s = .next s' ∧ s'.teams.find s.cur = some t' ∧ RegsAfter t t' g ∧ t'.fstat = t.fstat ||| flags ∧
    t'.still = t.still ∧ StepsOn i t t' ∧ RestKept s s' t
/-- The slot completes with a result of variable latency (R65): it answers a next state in which its destination is pending for a
reason of R65, with values on their way that will give the new values and raise the flags; no register has changed yet. -/
def Awaits (s : State) (t : Team) (i : Instr) (reason : Nat) (g : News) (flags : BitVec 5) : Prop :=
  ∃ s' t' p ws, exec i s = .next s' ∧ s'.teams.find s.cur = some t' ∧ p ∈ t'.pends ∧ p.serial = s.serial ∧ p.reason = reason ∧
    p.data = .values ws flags ∧ Carries ws g ∧ RegsAfter t t' newNothing ∧ t'.fstat = t.fstat ∧
    t'.still = t.still ∧ StepsOn i t t' ∧ RestKept s s' t
/-- A result whose latency is variable where operand b reads by a team-scope pattern, and fixed otherwise (R64, R65). -/
def SelGives (s : State) (t : Team) (i : Instr) (o : OpB) (g : News) (flags : BitVec 5) : Prop :=
  if teamPat o then s.overfull i = false → Awaits s t i 11 g flags else Gives s t i g flags


/-- What a slot writes: new register values with the flags that it raises (R29). -/
abbrev Result := News × BitVec 5
/-- A value in each active lane. -/
def lanes (r : Team) (d : RegNo) (f : Nat → Word) : Result := (newLanes r d f, 0)
/-- A value with flags in each active lane; the flags of all lanes are raised together (R29). -/
def lanesF (r : Team) (d : RegNo) (f : Nat → Word × BitVec 5) : Result :=
  (newLanes r d fun l => (f l).1, orFlags (r.actives.map fun l => (f l).2))
/-- A pair in each active lane. -/
def pairs (r : Team) (d : RegNo) (f : Nat → DWord) : Result := (newLanes64 r d f, 0)
/-- A pair with flags in each active lane. -/
def pairsF (r : Team) (d : RegNo) (f : Nat → DWord × BitVec 5) : Result :=
  (newLanes64 r d fun l => (f l).1, orFlags (r.actives.map fun l => (f l).2))
/-- A predicate bit in each active lane. -/
def preds (r : Team) (d : RegNo) (f : Nat → Bool) : Result := (newPred r d f, 0)
/-- A predicate bit with flags in each active lane. -/
def predsF (r : Team) (d : RegNo) (f : Nat → Bool × BitVec 5) : Result :=
  (newPred r d fun l => (f l).1, orFlags (r.actives.map fun l => (f l).2))
/-- A uniform register. -/
def uni (d : RegNo) (x : Word) : Result := (newUni d x, 0)
/-- A uniform pair. -/
def uni64 (d : RegNo) (x : DWord) : Result := (newUni64 d x, 0)

/-- An instruction whose result has a fixed latency: for every state in which it issues, it completes with the result that `f` gives from
the registers as the slot reads them (R63, R67). -/
def Fixed (i : Instr) (f : Team → Result) : Prop :=
  ∀ s t, Issues s t i → Gives s t i (f (t.viewAt s.clk)).1 (f (t.viewAt s.clk)).2
/-- An instruction whose result has a variable latency: it completes with its destination pending, where the scoreboard has room (R66). -/
def Varying (i : Instr) (reason : Nat) (f : Team → Result) : Prop :=
  ∀ s t, Issues s t i → s.overfull i = false → Awaits s t i reason (f (t.viewAt s.clk)).1 (f (t.viewAt s.clk)).2
/-- A "sel" instruction: fixed, or of variable latency where operand b reads by a team-scope pattern. -/
def BySel (i : Instr) (o : OpB) (f : Team → Result) : Prop :=
  ∀ s t, Issues s t i → SelGives s t i o (f (t.viewAt s.clk)).1 (f (t.viewAt s.clk)).2

/-- What a slot that reaches memory leaves as it is beside it: the other teams, the gangs, the contexts. -/
structure OthersKept (s s' : State) (t : Team) : Prop where
  others : ∀ k, k ≠ s.cur → s'.teams.find k = s.teams.find k
  gangs : s'.gangs = s.gangs
  contexts : ∀ c, (s'.contexts.find c).map Context.still = (s.contexts.find c).map Context.still
/-- The elements of `z` bytes of the lanes `ls` at `addr` all go through, `s1` being the state with their frames claimed in lane order: no
element was performed in an earlier attempt, each is aligned within the address space (R162, R163), and each lies at its place: on a page that
the filter holds and that permits it, or in the register window (R293, R294, R497). The crew is no rollback crew, whose stores may be
held back (R274). -/
structure Reaches (s s1 : State) (t : Team) (a : Access) (w : Bool) (ls : List Nat) (addr : Nat → DWord) (z : Nat) (look : Nat → Looked)
    (place : Nat → Place) : Prop where
  fresh : t.done = 0
  some : ls ≠ []
  aligned : ∀ l ∈ ls, addrCheck (addr l) z = none
  looks : seeAll t a w (ls.map fun l => (l, [addr l])) s = (ls.map fun l => (l, [(addr l, look l)]), s1)
  places : ∀ l ∈ ls, placeOf s1 (look l) = Option.some (place l)
  plain : t.kernel.rollback = false
/-- The accesses that the lanes `ls` of the current team send, in lane order, under the number of the slot's result. -/
def sentOps (s : State) (t : Team) (ls : List Nat) (addr : Nat → DWord) (z : Nat) (place : Nat → Place) (unit : Nat → Nat) (kind : Nat → OpKind)
    (ord : Option (BitVec 3)) (dest : Option (RFile × Nat)) (lane : Nat → Nat) : List Op :=
  ls.mapIdx fun k l =>
    { serial := s.serial + 1 + k, team := s.cur, ctx := t.ctx, group := s.serial, unit := unit l, cluster := t.cluster, core := t.core
      pc := t.pc, va := (addr l).toNat, place := place l, n := z, kind := kind l, ord := ord, dest := dest, lane := lane l, seen := []
      muted := none }
/-- What a slot leaves as it is when it sends accesses: the other teams, the gangs, the contexts, every byte of memory; `ops` join the
traffic behind what is on its way, `caches` are the lines of the path caches afterwards, and the frames are those of `s1`. -/
structure Sent (s s1 s' : State) (t : Team) (ops : List Op) (caches : List CacheLine) : Prop extends OthersKept s s' t where
  traffic : s'.traffic = s.traffic ++ ops
  lines : s'.caches = caches
  frames : Untraced s → s'.frames = s1.frames
  memory : Untraced s → s'.mem = s.mem ∧ s'.poison = s.poison ∧ s'.l2 = s.l2
  rest : { s'.still with traffic := [], caches := [] } = { s.still with traffic := [], caches := [] }
/-- The slot completes: its accesses are on their way, and no register has changed. With a reason of R65 its destination is pending on
their values (R65, R66); without one the scoreboard is as it was. -/
def Sends (s s1 : State) (t : Team) (i : Instr) (reason : Option Nat) (ops : List Op) (caches : List CacheLine) : Prop :=
  ∃ s' t', exec i s = .next s' ∧ s'.teams.find s.cur = some t' ∧ Sent s s1 s' t ops caches ∧ RegsAfter t t' newNothing ∧
    t'.fstat = t.fstat ∧ t'.still = t.still ∧ StepsOn i t t' ∧
    match reason with
    | some r => ∃ p ∈ t'.pends, p.serial = s.serial ∧ p.reason = r ∧ p.data = .arriving ∧
        (p.file, p.n, p.cnt) ∈ (i.writes.map fun (u : RegUse) => (u.file, u.n, u.cnt))
    | none => t'.pends = t.pends
/-- A number of `n` little-endian bytes in a memory. -/
def memNat (m : SMap Byte) (a n : Nat) : Nat := leNat ((List.range n).map fun k => Memory.read m (a + k))
/-- The bytes outside the `z` bytes at a physical address read as before. -/
def OutsideKept (m m' : SMap Byte) (pa z : Nat) : Prop := ∀ a, a < pa ∨ pa + z ≤ a → Memory.read m' a = Memory.read m a
/-- The registers that take the value `x` of an access: word `k` in register `d + k` (R168, R181, R207), of its lane for a vector
register. -/
def newOp (o : Op) (x : Nat) : News := fun file n l =>
  match o.dest with
  | some (f, d) =>
    if file = f ∧ d ≤ n ∧ n < d + max 1 (o.n / 4) ∧ (f = .s ∨ l = o.lane) then some (BitVec.ofNat 32 (x / 2 ^ (32 * (n - d)))) else none
  | none => none

/-- The slot completes with its destination pending on values that will give `g` (R65); every byte of memory reads as before. -/
def Loads (s : State) (t : Team) (i : Instr) (reason : Nat) (g : News) : Prop :=
  ∃ s' t' p ws, exec i s = .next s' ∧ s'.teams.find s.cur = some t' ∧ p ∈ t'.pends ∧
    (p.file, p.n, p.cnt) ∈ (i.writes.map fun (u : RegUse) => (u.file, u.n, u.cnt)) ∧ p.reason = reason ∧ p.data = .values ws 0 ∧
    Carries ws g ∧ RegsAfter t t' newNothing ∧ t'.fstat = t.fstat ∧ t'.still = t.still ∧ StepsOn i t t' ∧ OthersKept s s' t ∧
    (Untraced s → SameMemory s s')
/-- A lane load of `z` bytes at `addr` (R168, R257): where every element goes through, the slot completes, each active lane's load is on
its way, and the destination is pending on them. -/
def LaneReads (i : Instr) (d : RegNo) (z : Nat) (w : Bool) (path : CacheKind) (addr : Team → Nat → DWord) : Prop :=
  ∀ s s1 t look place, Issues s t i →
    let r := t.viewAt s.clk
    Reaches s s1 t .read w r.actives (addr r) z look place →
    Sends s s1 t i (some 1) (sentOps s t r.actives (addr r) z place (fun l => if path = .l1 then s.l1Unit t (addr r l).toNat else t.unit)
      (fun _ => .load path) none (some (.v, d.toNat)) id) s.caches
/-- A lane store of `z` bytes at `addr` (R168, R257): where every element goes through, the slot completes and each active lane's store is
on its way with its bytes. -/
def LaneWrites (i : Instr) (z : Nat) (addr : Team → Nat → DWord) (bytes : Team → Nat → List Byte) : Prop :=
  ∀ s s1 t look place, Issues s t i →
    let r := t.viewAt s.clk
    Reaches s s1 t .write true r.actives (addr r) z look place →
    Sends s s1 t i none (sentOps s t r.actives (addr r) z place (fun l => s.l1Unit t (addr r l).toNat) (fun l => .store (bytes r l)) none none id)
      s.caches
/-- The lines that remain when the L1 lines of the addresses of some accesses become invalid in a team's L1 (R282). -/
def withoutL1 (s : State) (t : Team) (ls : List Nat) (look : Nat → Looked) : List CacheLine :=
  s.caches.filter fun c => ls.all fun l => match look l with | .ok pa _ => !c.isL1Of (s.l1Units t) t.ctx (pa / 128) | _ => true
/-- An atomic of the lanes (R180 to R184, R257): where every element goes through, the slot completes and each active lane's
read-modify-write by `op` with operand `y` is on its way; the destination, where the form has one, is pending on what they find. -/
def LaneAtomic (i : Instr) (d : RegNo) (a : BitVec 6) (w : Bool) (ord : BitVec 3) (op : RmwOp) (y : Team → Nat → Nat) : Prop :=
  ∀ s s1 t look place, Issues s t i →
    let r := t.viewAt s.clk
    let addr (l : Nat) : DWord := r.V64 l (2 * a.toNat)
    Reaches s s1 t .rmw false r.actives addr (atomBytes w) look place →
    Sends s s1 t i (if d = 0 then none else some 4) (sentOps s t r.actives addr (atomBytes w) place (fun l => s.l1Unit t (addr l).toNat)
      (fun l => .rmw w op (y r l)) (some ord) (if d = 0 then none else some (.v, d.toNat)) id) (withoutL1 s t r.actives look)
/-- A uniform load (R206, R207, R209, R257). -/
def UniformReads (i : Instr) (d : RegNo) (z : Nat) (w : Bool) (kind : OpKind) (ord : Option (BitVec 3)) (addr : Team → DWord) : Prop :=
  ∀ s s1 t look place, Issues s t i →
    let r := t.viewAt s.clk
    Reaches s s1 t .read w [noLane] (fun _ => addr r) z look place →
    Sends s s1 t i (some 9) (sentOps s t [noLane] (fun _ => addr r) z place
      (fun _ => if kind = .load .constant then t.unit else s.l1Unit t (addr r).toNat) (fun _ => kind) ord (some (.s, d.toNat)) fun _ => 0) s.caches
/-- A uniform store (R206, R207, R209, R257). -/
def UniformWrites (i : Instr) (z : Nat) (w : Bool) (kind : List Byte → OpKind) (ord : Option (BitVec 3)) (addr : Team → DWord)
    (bytes : Team → List Byte) : Prop :=
  ∀ s s1 t look place, Issues s t i →
    let r := t.viewAt s.clk
    Reaches s s1 t .write w [noLane] (fun _ => addr r) z look place →
    Sends s s1 t i none (sentOps s t [noLane] (fun _ => addr r) z place (fun _ => s.l1Unit t (addr r).toNat) (fun _ => kind (bytes r)) ord none
      fun _ => 0) s.caches
/-- A uniform atomic (R208, R257). -/
def UniformAtomic (i : Instr) (d : RegNo) (a : BitVec 6) (w : Bool) (ord : BitVec 3) (op : RmwOp) (y : Team → Nat) : Prop :=
  ∀ s s1 t look place, Issues s t i →
    let r := t.viewAt s.clk
    let addr : DWord := r.S64 (2 * a.toNat)
    Reaches s s1 t .rmw false [noLane] (fun _ => addr) (atomBytes w) look place →
    Sends s s1 t i (if d = 0 then none else some 9) (sentOps s t [noLane] (fun _ => addr) (atomBytes w) place
      (fun _ => s.l1Unit t addr.toNat) (fun _ => .rmw w op (y r)) (some ord) (if d = 0 then none else some (.s, d.toNat)) fun _ => 0)
      (withoutL1 s t [noLane] look)

/-- An access of the traffic can be performed now (R257). -/
def Ready (s : State) (o : Op) : Prop :=
  s.traffic.find? (·.serial == o.serial) = some o ∧ s.performable (s.traffic.takeWhile (·.serial != o.serial)) o = true
/-- What performing an access leaves as it is: the other accesses, the other teams, the gangs, the contexts. -/
structure AccessFrame (s s' : State) (o : Op) : Prop where
  traffic : s'.traffic = s.traffic.filter (·.serial != o.serial)
  others : ∀ k, k ≠ o.team → s'.teams.find k = s.teams.find k
  gangs : s'.gangs = s.gangs
  contexts : s'.contexts = s.contexts
/-- An access that reads is performed (R257, R282): it brings the number `x` to its team, which waits for it, and no byte of memory
changes. -/
def Brings (s : State) (o : Op) (x : Nat) : Prop :=
  ∀ t, s.teams.find o.team = some t → t.pends.any (·.serial == o.group) = true →
    ∃ s' t', runCand (.access o.serial) s = .next s' ∧ AccessFrame s s' o ∧ s'.teams.find o.team = some t' ∧ RegsAfter t t' (newOp o x) ∧
      t'.fstat = t.fstat ∧ t'.pends = t.pends ∧ s'.mem = s.mem
/-- An access that stores is performed for everyone (R257, R282, R285): the memory is `m`, and no team changes. -/
def Commits (s : State) (o : Op) (m : SMap Byte) : Prop :=
  ∃ s', runCand (.access o.serial) s = .next s' ∧ AccessFrame s s' o ∧ s'.teams = s.teams ∧ s'.mem = m
/-- A read-modify-write is performed as one event (R181, R182, R269): the memory is `m`; where the form has a destination, what it found
goes to its team, which waits for it, with the flags `fl`. -/
def Swaps (s : State) (o : Op) (m : SMap Byte) (old : Nat) (fl : BitVec 5) : Prop :=
  ∀ t, s.teams.find o.team = some t → t.pends.any (·.serial == o.group) = o.dest.isSome →
    ∃ s' t', runCand (.access o.serial) s = .next s' ∧ AccessFrame s s' o ∧ s'.teams.find o.team = some t' ∧ s'.mem = m ∧
      RegsAfter t t' (newOp o old) ∧ t'.fstat = t.fstat ||| (if o.dest.isSome ∧ o.muted = none then fl else 0)
/-- The low `n` bytes of a number, the least significant first (R2). -/
def lowBytes (x n : Nat) : List Byte := (List.range n).map fun k => BitVec.ofNat 8 (x / 256 ^ k)
/-- A word of the window of crew `c` of a team's gang. -/
def padWord (s : State) (t : Team) (c w : Nat) : Word :=
  match (s.gangOf t).bind (·.crew? c) with | some cr => cr.word w | none => 0
/-- The full/empty bit of a word of the window of crew `c` of a team's gang. -/
def padFull (s : State) (t : Team) (c w : Nat) : Bool :=
  match (s.gangOf t).bind (·.crew? c) with | some cr => cr.full.get false w | none => false

/-- The commands of the host, with their channel and sequence (R491, R492). -/
def CommandOf (i : Instr) (ch seq : Nat) : Prop :=
  match i with
  | .launch c q _ _ _ _ _ _ _ => c = ch ∧ q = seq
  | .ctxcfg c q _ _ => c = ch ∧ q = seq
  | .inval c q _ _ _ => c = ch ∧ q = seq
  | .kill c q _ _ => c = ch ∧ q = seq
  | .term c q _ => c = ch ∧ q = seq
  | .evread c q _ _ _ => c = ch ∧ q = seq
  | .domainCreate c q _ _ _ _ => c = ch ∧ q = seq
  | .domainDelete c q _ _ => c = ch ∧ q = seq
  | .svcrole c q _ _ => c = ch ∧ q = seq
  | .debugGrant c q _ _ _ _ => c = ch ∧ q = seq
  | .debugRevoke c q _ => c = ch ∧ q = seq
  | .attest c q _ _ => c = ch ∧ q = seq
  | .commandRefused c q _ _ => c = ch ∧ q = seq
  | _ => False
/-- A channel accepts the command of a sequence: it reaches its partition, follows LASTACC, and fewer than 64 are outstanding (R491). -/
def Accepts (s : State) (ch seq : Nat) : Prop :=
  s.reached ch = true ∧ seqDist seq (s.channel ch).lastAcc = 1 ∧ (s.channel ch).outstanding < 64
/-- A step raises an event of a context: it bears the context's next sequence, is kept and is sent (R493). -/
def Raises (s s' : State) (ctx kind : Nat) (args : List DWord) : Prop :=
  ∃ c c', s.contexts.find ctx = some c ∧ s'.contexts.find ctx = some c' ∧ c'.events.getLast? = some ⟨c.eventSeq, kind, s'.clk, args⟩ ∧
    c'.eventSeq = (c.eventSeq + 1) % 2 ^ 32 ∧ (⟨c.channel, eventWords ⟨c.eventSeq, kind, s'.clk, args⟩ ctx c.part⟩ : Message) ∈ s'.sent

end Machine

end Sys2Proof
end

