-- ==== Sys2Proof/Certificates/Slice0/Obligations.lean ====
section
/-! DEFINITION. The statements for the provers: what each instruction of the table and each event does to the state, what it leaves
as it is, and what holds of every step. -/

open Sys2Proof Sys2Proof.Machine

/-- R126: the two-operand arithmetic of the lanes, as exact integers X and Y cut to 32 bits. -/
def Obligations.LaneArithmetic : Prop :=
  (∀ d a o, BySel (.iadd d a o) o fun r => lanes r d fun l => BitVec.ofInt 32 ((r.V l a.toNat).toInt + (r.opb l o).toInt)) ∧
  (∀ d a o, BySel (.isub d a o) o fun r => lanes r d fun l => BitVec.ofInt 32 ((r.V l a.toNat).toInt - (r.opb l o).toInt)) ∧
  (∀ d a o, BySel (.imul d a o) o fun r => lanes r d fun l => BitVec.ofInt 32 ((r.V l a.toNat).toInt * (r.opb l o).toInt)) ∧
  (∀ d a o u, BySel (.imulhi d a o u) o fun r => lanes r d fun l =>
    BitVec.ofInt 32 (extend u (r.V l a.toNat) * extend u (r.opb l o) / 2 ^ 32)) ∧
  (∀ d a o, BySel (.imac d a o) o fun r => lanes r d fun l =>
    BitVec.ofInt 32 ((r.V l d.toNat).toInt + (r.V l a.toNat).toInt * (r.opb l o).toInt)) ∧
  (∀ d a o u, BySel (.imin d a o u) o fun r => lanes r d fun l =>
    BitVec.ofInt 32 (min (extend u (r.V l a.toNat)) (extend u (r.opb l o)))) ∧
  (∀ d a o u, BySel (.imax d a o u) o fun r => lanes r d fun l =>
    BitVec.ofInt 32 (max (extend u (r.V l a.toNat)) (extend u (r.opb l o)))) ∧
  (∀ d a o u, BySel (.iabsd d a o u) o fun r => lanes r d fun l =>
    BitVec.ofInt 32 |extend u (r.V l a.toNat) - extend u (r.opb l o)|) ∧
  (∀ d a o u, BySel (.iaddsat d a o u) o fun r => lanes r d fun l =>
    clamp u (extend u (r.V l a.toNat) + extend u (r.opb l o))) ∧
  (∀ d a o u, BySel (.isubsat d a o u) o fun r => lanes r d fun l =>
    clamp u (extend u (r.V l a.toNat) - extend u (r.opb l o)))

/-- R127: the bitwise and shift instructions; the shift count is the whole operand, unsigned. -/
def Obligations.LaneLogic : Prop :=
  (∀ d a o, BySel (.and d a o) o fun r => lanes r d fun l => r.V l a.toNat &&& r.opb l o) ∧
  (∀ d a o, BySel (.or d a o) o fun r => lanes r d fun l => r.V l a.toNat ||| r.opb l o) ∧
  (∀ d a o, BySel (.xor d a o) o fun r => lanes r d fun l => r.V l a.toNat ^^^ r.opb l o) ∧
  (∀ d a o, BySel (.andn d a o) o fun r => lanes r d fun l => r.V l a.toNat &&& ~~~(r.opb l o)) ∧
  (∀ d a o, BySel (.shl d a o) o fun r => lanes r d fun l =>
    if 32 ≤ (r.opb l o).toNat then 0 else BitVec.ofNat 32 ((r.V l a.toNat).toNat * 2 ^ (r.opb l o).toNat)) ∧
  (∀ d a o, BySel (.shr d a o) o fun r => lanes r d fun l =>
    if 32 ≤ (r.opb l o).toNat then 0 else BitVec.ofNat 32 ((r.V l a.toNat).toNat / 2 ^ (r.opb l o).toNat)) ∧
  (∀ d a o, BySel (.sar d a o) o fun r => lanes r d fun l =>
    if 32 ≤ (r.opb l o).toNat then (if (r.V l a.toNat).getLsbD 31 then 0xFFFFFFFF else 0)
    else BitVec.ofInt 32 ((r.V l a.toNat).toInt / 2 ^ (r.opb l o).toNat))

/-- R128 to R134: bit counts and fields, immediates, moves, addresses and integer compares; the functions of R128 and R129 are those of
`Obligations.BitFunctions`. R128, R129: what the bit functions of a lane compute, bit by bit. R134: the eight conditions of an integer
compare. -/
def Obligations.LaneMoves : Prop :=
  ((∀ d a, Fixed (.popc d a) fun r => lanes r d fun l => popcW (r.V l a.toNat)) ∧
    (∀ d a, Fixed (.clz d a) fun r => lanes r d fun l => clzW (r.V l a.toNat)) ∧
    (∀ d a, Fixed (.brev d a) fun r => lanes r d fun l => brevW (r.V l a.toNat)) ∧
    (∀ d a o u, BySel (.bfx d a o u) o fun r => lanes r d fun l => bfxW u (r.V l a.toNat) (r.opb l o)) ∧
    (∀ d a o, BySel (.bfi d a o) o fun r => lanes r d fun l => bfiW (r.V l d.toNat) (r.V l a.toNat) (r.opb l o)) ∧
    (∀ d a imm, Fixed (.iaddi d a imm) fun r => lanes r d fun l => BitVec.ofInt 32 ((r.V l a.toNat).toInt + imm.toInt)) ∧
    (∀ d imm, Fixed (.movi d imm) fun r => lanes r d fun _ => BitVec.ofInt 32 imm.toInt) ∧
    (∀ d o, BySel (.mov d o) o fun r => lanes r d fun l => r.opb l o) ∧
    (∀ d a b, Fixed (.sel d a b) fun r => (fun file n l =>
      if (r.P b.toNat).getLsbD l = true then newLanes r d (fun l => r.V l a.toNat) file n l else none, 0)) ∧
    (∀ d a o u, BySel (.lea d a o u) o fun r => pairs r d fun l =>
      r.V64 l a.toNat + (if u then (r.opb l o).setWidth 64 else (r.opb l o).signExtend 64)) ∧
    (∀ d a o c, Fixed (.icmp d a o c) fun r => preds r d fun l => condInt c (r.V l a.toNat) (r.oplV l o))) ∧
  ((∀ x : Word, (popcW x).toNat = ((List.range 32).map fun i => if x.getLsbD i then 1 else 0).sum) ∧
    (∀ x : Word, (clzW x).toNat ≤ 32 ∧ (∀ i, 32 ≤ i + (clzW x).toNat → x.getLsbD i = false) ∧
      ((clzW x).toNat < 32 → x.getLsbD (31 - (clzW x).toNat) = true)) ∧
    (∀ (x : Word) i, i < 32 → (brevW x).getLsbD i = x.getLsbD (31 - i)) ∧
    (∀ (x ctl : Word) i, i < 32 →
      let p := ctl.toNat % 32
      let n := min (min (ctl.toNat / 256 % 64) 32) (32 - p)
      (bfxW true x ctl).getLsbD i = (decide (i < n) && x.getLsbD (p + i)) ∧
      (bfxW false x ctl).getLsbD i = (if n = 0 then false else if i < n then x.getLsbD (p + i) else x.getLsbD (p + n - 1)) ∧
      ∀ old : Word, (bfiW old x ctl).getLsbD i = if p ≤ i ∧ i < p + n then x.getLsbD (i - p) else old.getLsbD i)) ∧
  (∀ x y : Word,
      (condInt 0 x y = true ↔ x = y) ∧ (condInt 1 x y = true ↔ x ≠ y) ∧
      (condInt 2 x y = true ↔ x.toInt < y.toInt) ∧ (condInt 3 x y = true ↔ x.toInt ≤ y.toInt) ∧
      (condInt 4 x y = true ↔ y.toInt < x.toInt) ∧ (condInt 5 x y = true ↔ y.toInt ≤ x.toInt) ∧
      (condInt 6 x y = true ↔ x.toNat < y.toNat) ∧ (condInt 7 x y = true ↔ y.toNat ≤ x.toNat))

/-- R136 to R140: the lane exchange and predicate instructions. The trees of `lred` and `lscan` are those of `redTree` (R93, R94). -/
def Obligations.LaneExchange : Prop :=
  (∀ d a w, (w : Word).getLsbD 3 = false → Fixed (.shfl d a (.pat w)) fun r => lanes r d fun l => r.V (xsrcLit r l w) a.toNat) ∧
  (∀ d a w, (w : Word).getLsbD 3 = true → Varying (.shfl d a (.pat w)) 11 fun r => lanes r d fun l => r.V (xsrcLit r l w) a.toNat) ∧
  (∀ d a b, Varying (.shfl d a (.reg b)) 11 fun r => lanes r d fun l =>
    r.V (if (r.V l b.toNat).toNat < r.lanes ∧ r.live.getLsbD (r.V l b.toNat).toNat = true then (r.V l b.toNat).toNat else l) a.toNat) ∧
  (∀ d a b, Varying (.shfl d a (.uni b)) 11 fun r => lanes r d fun l =>
    r.V (if (r.S b.toNat).toNat < r.lanes ∧ r.live.getLsbD (r.S b.toNat).toNat = true then (r.S b.toNat).toNat else l) a.toNat) ∧
  (∀ d a w, Varying (.shfl d a (.lit w)) 11 fun r => lanes r d fun l =>
    r.V (if (w : Word).toNat % 1024 < r.lanes ∧ r.live.getLsbD (w.toNat % 1024) = true then w.toNat % 1024 else l) a.toNat) ∧
  (∀ d a k, Varying (.lred d a k false) 11 fun r => lanesF r d fun l =>
    (redTree r.fmode k.toNat (scopeLeaf r a.toNat) 5 (32 * (l / 32))).getD (0, 0)) ∧
  (∀ d a k, Varying (.lred d a k true) 11 fun r => lanesF r d fun _ =>
    (redTree r.fmode k.toNat (scopeLeaf r a.toNat) 10 0).getD (0, 0)) ∧
  (∀ d a k team excl, Varying (.lscan d a k team excl) 11 fun r => lanesF r d fun l =>
    (redTree r.fmode k.toNat (fun m => if m < l ∨ (m = l ∧ excl = false) then scopeLeaf r a.toNat m else none)
      (if team then 10 else 5) (if team then 0 else 32 * (l / 32))).getD (redEmpty k.toNat, 0)) ∧
  (∀ d a team, Varying (.matchv d a team) 11 fun r => preds r d fun l =>
    decide (∀ m ∈ r.actives, m < l → (team = true ∨ m / 32 = l / 32) → r.V m a.toNat ≠ r.V l a.toNat)) ∧
  (∀ d a, Fixed (.pset d a) fun r => preds r d fun l => decide (r.V l a.toNat ≠ 0)) ∧
  (∀ d a, Fixed (.pmov d a) fun r => preds r d fun l => (r.P a.toNat).getLsbD l) ∧
  (∀ d a b m, Fixed (.plog d a b m) fun r => preds r d fun l => plogB m ((r.P a.toNat).getLsbD l) ((r.P b.toNat).getLsbD l)) ∧
  (∀ x y, plogB 0 x y = (x && y) ∧ plogB 1 x y = (x || y) ∧ plogB 2 x y = (x ^^ y) ∧ plogB 3 x y = (x && !y) ∧
    plogB 4 x y = (x || !y) ∧ plogB 5 x y = !(x && y) ∧ plogB 6 x y = !(x || y) ∧ plogB 7 x y = !(x ^^ y))

/-- R145 to R149: the FP32 instructions. Operand b is negated after it is fetched (R142); sums, products and fused products are rounded
once in FMODE; the flags of all active lanes are raised. -/
def Obligations.LaneFloat : Prop :=
  (∀ d a o u, BySel (.fadd d a o u) o fun r => lanesF r d fun l =>
    asWord (fp32.add r.fmode (r.V l a.toNat).toNat (negW u (r.opb l o)).toNat)) ∧
  (∀ d a o u, BySel (.fsub d a o u) o fun r => lanesF r d fun l =>
    asWord (fp32.sub r.fmode (r.V l a.toNat).toNat (negW u (r.opb l o)).toNat)) ∧
  (∀ d a o u, BySel (.fmul d a o u) o fun r => lanesF r d fun l =>
    asWord (fp32.mul r.fmode (r.V l a.toNat).toNat (negW u (r.opb l o)).toNat)) ∧
  (∀ d a o u, BySel (.ffma d a o u) o fun r => lanesF r d fun l =>
    asWord (fp32.fma r.fmode (r.V l a.toNat).toNat (negW u (r.opb l o)).toNat (r.V l d.toNat).toNat)) ∧
  (∀ d a o u, BySel (.fmin d a o u) o fun r => lanesF r d fun l =>
    asWord (fp32.minmax false false (r.V l a.toNat).toNat (negW u (r.opb l o)).toNat)) ∧
  (∀ d a o u, BySel (.fmax d a o u) o fun r => lanesF r d fun l =>
    asWord (fp32.minmax true false (r.V l a.toNat).toNat (negW u (r.opb l o)).toNat)) ∧
  (∀ d a o u, BySel (.fminnm d a o u) o fun r => lanesF r d fun l =>
    asWord (fp32.minmax false true (r.V l a.toNat).toNat (negW u (r.opb l o)).toNat)) ∧
  (∀ d a o u, BySel (.fmaxnm d a o u) o fun r => lanesF r d fun l =>
    asWord (fp32.minmax true true (r.V l a.toNat).toNat (negW u (r.opb l o)).toNat)) ∧
  (∀ d a o c, Fixed (.fcmp d a o c) fun r => predsF r d fun l => fp32.cmp c (r.V l a.toNat).toNat (r.oplV l o).toNat) ∧
  (∀ d a, Fixed (.fclass d a) fun r => lanes r d fun l => fclassW (r.V l a.toNat)) ∧
  (∀ d a, Fixed (.frcp d a) fun r => lanesF r d fun l => frcpW r.fmode (r.V l a.toNat)) ∧
  (∀ d a, Fixed (.frsq d a) fun r => lanesF r d fun l => frsqW r.fmode (r.V l a.toNat)) ∧
  (∀ d a, Fixed (.fsqrt d a) fun r => lanesF r d fun l => fsqrtW r.fmode (r.V l a.toNat)) ∧
  (∀ d a, Fixed (.fex2 d a) fun r => lanesF r d fun l => fex2W r.fmode (r.V l a.toNat)) ∧
  (∀ d a, Fixed (.flg2 d a) fun r => lanesF r d fun l => flg2W r.fmode (r.V l a.toNat)) ∧
  (∀ d a, Fixed (.fsin d a) fun r => lanesF r d fun l => trigW false r.fmode (r.V l a.toNat)) ∧
  (∀ d a, Fixed (.fcos d a) fun r => lanesF r d fun l => trigW true r.fmode (r.V l a.toNat)) ∧
  (∀ y, negW false y = y ∧ negW true y = y ^^^ 0x80000000)

/-- R150 to R154: packed, FP64 and converting instructions. Each packed element is rounded in its own format and the flags of both are
raised; a conversion has a variable latency exactly where its source or destination is FP64 (R64, R65). -/
def Obligations.LanePacked : Prop :=
  (∀ d a o u, BySel (.pkadd d a o u) o fun r => lanesF r d fun l => onPk fun i =>
    fp16.add r.fmode (pkElem (r.V l a.toNat) i) (pkElem (negPk u (r.opb l o)) i)) ∧
  (∀ d a o u, BySel (.pkmul d a o u) o fun r => lanesF r d fun l => onPk fun i =>
    fp16.mul r.fmode (pkElem (r.V l a.toNat) i) (pkElem (negPk u (r.opb l o)) i)) ∧
  (∀ d a o u, BySel (.pkfma d a o u) o fun r => lanesF r d fun l => onPk fun i =>
    fp16.fma r.fmode (pkElem (r.V l a.toNat) i) (pkElem (negPk u (r.opb l o)) i) (pkElem (r.V l d.toNat) i)) ∧
  (∀ d a o u, BySel (.pkbfma d a o u) o fun r => lanesF r d fun l => onPk fun i =>
    bf16.fma r.fmode (pkElem (r.V l a.toNat) i) (pkElem (negPk u (r.opb l o)) i) (pkElem (r.V l d.toNat) i)) ∧
  (∀ d a o u, BySel (.pkdot d a o u) o fun r => lanesF r d fun l =>
    pkdotW r.fmode (r.V l a.toNat) (negPk u (r.opb l o)) (r.V l d.toNat)) ∧
  (∀ d a o u, Varying (.dadd d a o u) 10 fun r => pairsF r d fun l =>
    asDWord (fp64.add r.fmode (r.V64 l a.toNat).toNat (negD u (r.opb64 l o)).toNat)) ∧
  (∀ d a o u, Varying (.dmul d a o u) 10 fun r => pairsF r d fun l =>
    asDWord (fp64.mul r.fmode (r.V64 l a.toNat).toNat (negD u (r.opb64 l o)).toNat)) ∧
  (∀ d a o u, Varying (.dfma d a o u) 10 fun r => pairsF r d fun l =>
    asDWord (fp64.fma r.fmode (r.V64 l a.toNat).toNat (negD u (r.opb64 l o)).toNat (r.V64 l d.toNat).toNat)) ∧
  (∀ d a o c, Varying (.dcmp d a o c) 10 fun r => predsF r d fun l =>
    fp64.cmp c (r.V64 l a.toNat).toNat (r.oplV64 l o true).toNat) ∧
  (∀ d a spec, (spec : Word).extractLsb' 0 4 ≠ 3#4 → spec.extractLsb' 4 4 ≠ 3#4 → cvtWidth (spec.extractLsb' 4 4) = 1 →
    Fixed (.cvt d a spec) fun r => lanesF r d fun l =>
      ((cvtW spec r.fmode (if cvtWidth (spec.extractLsb' 0 4) = 2 then r.V64 l a.toNat else (r.V l a.toNat).setWidth 64)).1.extractLsb' 0 32,
        (cvtW spec r.fmode (if cvtWidth (spec.extractLsb' 0 4) = 2 then r.V64 l a.toNat else (r.V l a.toNat).setWidth 64)).2)) ∧
  (∀ d a spec, (spec : Word).extractLsb' 0 4 ≠ 3#4 → spec.extractLsb' 4 4 ≠ 3#4 → cvtWidth (spec.extractLsb' 4 4) = 2 →
    Fixed (.cvt d a spec) fun r => pairsF r d fun l =>
      cvtW spec r.fmode (if cvtWidth (spec.extractLsb' 0 4) = 2 then r.V64 l a.toNat else (r.V l a.toNat).setWidth 64)) ∧
  (∀ d a spec, (spec : Word).extractLsb' 0 4 = 3#4 ∧ cvtWidth (spec.extractLsb' 4 4) = 1 →
    Varying (.cvt d a spec) 10 fun r => lanesF r d fun l =>
      ((cvtW spec r.fmode (r.V64 l a.toNat)).1.extractLsb' 0 32, (cvtW spec r.fmode (r.V64 l a.toNat)).2)) ∧
  (∀ d a spec, (spec : Word).extractLsb' 0 4 = 3#4 ∧ cvtWidth (spec.extractLsb' 4 4) = 2 ∨ spec.extractLsb' 4 4 = 3#4 →
    Varying (.cvt d a spec) 10 fun r => pairsF r d fun l =>
      cvtW spec r.fmode (if cvtWidth (spec.extractLsb' 0 4) = 2 then r.V64 l a.toNat else (r.V l a.toNat).setWidth 64))

/-- R155 to R159: the narrow and fixed-point instructions. -/
def Obligations.LaneNarrow : Prop :=
  (∀ d a o, BySel (.tdec d a o) o fun r => lanesF r d fun l =>
    let n := if (r.opb l o).getLsbD 0 then 6 else 8
    let es := if (r.opb l o).getLsbD 0 then 0 else 1
    let scale := ((r.opb l o).extractLsb' 8 8).toInt
    if scale = -128 then (0x7FC00000, 0)
    else match tfDecode ((r.V l a.toNat).toNat % 2 ^ n) n es with
      | none => (0x7FC00000, 0)
      | some (s, m, e) => asWord (fp32.pack r.fmode (.fin s m (e + scale)))) ∧
  (∀ d a o, BySel (.tenc d a o) o fun r => lanesF r d fun l =>
    let n := if (r.opb l o).getLsbD 0 then 6 else 8
    let es := if (r.opb l o).getLsbD 0 then 0 else 1
    let scale := ((r.opb l o).extractLsb' 8 8).toInt
    if scale = -128 then (BitVec.ofNat 32 (2 ^ (n - 1)), 0)
    else asWord (tfEncode (fp32.num (r.V l a.toNat).toNat) scale n es)) ∧
  (∀ d a o, BySel (.npack d a o) o fun r => lanes r d fun l =>
    (r.opb l o).extractLsb' 8 8 ++ (r.V l a.toNat).extractLsb' 8 8 ++ (r.opb l o).extractLsb' 0 8 ++ (r.V l a.toNat).extractLsb' 0 8) ∧
  (∀ d a o, BySel (.nunpk d a o) o fun r => lanes r d fun l =>
    (r.opb l o).extractLsb' 16 8 ++ (r.opb l o).extractLsb' 0 8 ++ (r.V l a.toNat).extractLsb' 16 8 ++ (r.V l a.toNat).extractLsb' 0 8) ∧
  (∀ d a o, BySel (.fxq d a o) o fun r => pairsF r d fun l => fxqW (r.V l a.toNat) (r.opb l o).toInt) ∧
  (∀ d a o, BySel (.fxdq d a o) o fun r => lanesF r d fun l => fxdqW (r.V64 l a.toNat) (r.opb l o).toInt)

/-- R77, R78, R147: an exact value that the format holds is its own rounding, in every mode and without flags; a NaN operand of an FP32
add, subtract, multiply or fused multiply-add gives the canonical NaN, and a signalling one raises invalid; the compares of R147 on a NaN. -/
def Obligations.FloatFormats : Prop :=
  (∀ f, f = fp32 ∨ f = fp16 ∨ f = bf16 ∨ f = fp64 → ∀ mode x, x < 2 ^ f.width → (f.num x).isNan = false → f.pack mode (f.num x) = (x, 0)) ∧
  (∀ mode x y, (fp32.num x).isNan = true ∨ (fp32.num y).isNan = true →
    fp32.add mode x y = (0x7FC00000, snanFlag [fp32.num x, fp32.num y]) ∧
    fp32.sub mode x y = (0x7FC00000, snanFlag [fp32.num x, fp32.num y]) ∧
    fp32.mul mode x y = (0x7FC00000, snanFlag [fp32.num x, fp32.num y]) ∧
    (∀ z, (fp32.fma mode x y z).1 = 0x7FC00000) ∧
    fp32.cmp 0 x y = (false, 0) ∧ fp32.cmp 1 x y = (true, 0) ∧
    (∀ c : BitVec 3, 2 ≤ c.toNat → c.toNat ≤ 5 → fp32.cmp c x y = (false, flagInvalid)) ∧
    fp32.cmp 6 x y = (true, snanFlag [fp32.num x, fp32.num y]) ∧ fp32.cmp 7 x y = (false, snanFlag [fp32.num x, fp32.num y])) ∧
  (∀ mode x y, fp32.mul mode x y = fp32.mul mode y x)

/-- R203, R204, R205: the uniform arithmetic, computed on exact integers and cut to 32 bits. R204: the uniform bitwise, shift and
bit-field instructions; their functions are those of the lane instructions. R22, R204: a uniform move copies the literal or the register,
and of a register that is pending as a future its handle and its pending mark, without blocking. -/
def Obligations.UniformAlu : Prop :=
  ((∀ d a o, Fixed (.sadd d a o) fun r => uni d (BitVec.ofInt 32 ((r.S a.toNat).toInt + (r.opu o).toInt))) ∧
    (∀ d a o, Fixed (.ssub d a o) fun r => uni d (BitVec.ofInt 32 ((r.S a.toNat).toInt - (r.opu o).toInt))) ∧
    (∀ d a o, Fixed (.smul d a o) fun r => uni d (BitVec.ofInt 32 ((r.S a.toNat).toInt * (r.opu o).toInt))) ∧
    (∀ d a o u, Fixed (.smulhi d a o u) fun r => uni d (BitVec.ofInt 32 (extend u (r.S a.toNat) * extend u (r.opu o) / 2 ^ 32))) ∧
    (∀ d a o u, Fixed (.smin d a o u) fun r => uni d (BitVec.ofInt 32 (min (extend u (r.S a.toNat)) (extend u (r.opu o))))) ∧
    (∀ d a o u, Fixed (.smax d a o u) fun r => uni d (BitVec.ofInt 32 (max (extend u (r.S a.toNat)) (extend u (r.opu o))))) ∧
    (∀ d a imm, Fixed (.saddi d a imm) fun r => uni d (BitVec.ofInt 32 ((r.S a.toNat).toInt + imm.toInt))) ∧
    (∀ d imm, Fixed (.smovi d imm) fun _ => uni d (BitVec.ofInt 32 imm.toInt)) ∧
    (∀ d a o u, Fixed (.slea d a o u) fun r => uni64 d
      (r.S64 a.toNat + (if u then (r.opu o).setWidth 64 else (r.opu o).signExtend 64))) ∧
    (∀ d a b, Fixed (.ssel d a b) fun r => uni d (if r.S b.toNat = 0 then r.S d.toNat else r.S a.toNat)) ∧
    (∀ d a o c, Fixed (.scmp d a o c) fun r => uni d (if condInt c (r.S a.toNat) (r.oplS o) = true then 1 else 0))) ∧
  ((∀ d a o, Fixed (.sand d a o) fun r => uni d (r.S a.toNat &&& r.opu o)) ∧
    (∀ d a o, Fixed (.sor d a o) fun r => uni d (r.S a.toNat ||| r.opu o)) ∧
    (∀ d a o, Fixed (.sxor d a o) fun r => uni d (r.S a.toNat ^^^ r.opu o)) ∧
    (∀ d a o, Fixed (.sandn d a o) fun r => uni d (r.S a.toNat &&& ~~~(r.opu o))) ∧
    (∀ d a o, Fixed (.sshl d a o) fun r => uni d
      (if 32 ≤ (r.opu o).toNat then 0 else BitVec.ofNat 32 ((r.S a.toNat).toNat * 2 ^ (r.opu o).toNat))) ∧
    (∀ d a o, Fixed (.sshr d a o) fun r => uni d
      (if 32 ≤ (r.opu o).toNat then 0 else BitVec.ofNat 32 ((r.S a.toNat).toNat / 2 ^ (r.opu o).toNat))) ∧
    (∀ d a o, Fixed (.ssar d a o) fun r => uni d
      (if 32 ≤ (r.opu o).toNat then (if (r.S a.toNat).getLsbD 31 then 0xFFFFFFFF else 0)
        else BitVec.ofInt 32 ((r.S a.toNat).toInt / 2 ^ (r.opu o).toNat))) ∧
    (∀ d a o u, Fixed (.sbfx d a o u) fun r => uni d (bfxW u (r.S a.toNat) (r.opu o))) ∧
    (∀ d a o, Fixed (.sbfi d a o) fun r => uni d (bfiW (r.S d.toNat) (r.S a.toNat) (r.opu o))) ∧
    (∀ d a, Fixed (.spopc d a) fun r => uni d (popcW (r.S a.toNat))) ∧
    (∀ d a, Fixed (.sclz d a) fun r => uni d (clzW (r.S a.toNat)))) ∧
  ((∀ d w s t, Issues s t (.smov d (.lit w)) → Gives s t (.smov d (.lit w)) (newUni d w) 0) ∧
    (∀ d b s t, Issues s t (.smov d (.reg b)) → t.pendOf .s b.toNat = none →
      Gives s t (.smov d (.reg b)) (newUni d ((t.viewAt s.clk).S b.toNat)) 0) ∧
    (∀ d b s t p, Issues s t (.smov d (.reg b)) → t.pendOf .s b.toNat = some p → p.isFuture = true → s.overfull (.smov d (.reg b)) = false →
      ∃ s' t' q, exec (.smov d (.reg b)) s = .next s' ∧ s'.teams.find s.cur = some t' ∧ RegsAfter t t' (newUni d (t.S b.toNat)) ∧
        q ∈ t'.pends ∧ q.file = .s ∧ q.n = d.toNat ∧ q.cnt = 1 ∧ q.data = .future ∧ t'.fstat = t.fstat ∧ t'.still = t.still ∧
        StepsOn (.smov d (.reg b)) t t' ∧ RestKept s s' t))

/-- R211, R217: the instructions that write EX, and `yld`. EX stays within LIVE where it was. R212, R213, R214: the instructions that read
the masks into registers and write a predicate from one. -/
def Obligations.Masks : Prop :=
  ((∀ a s t, Issues s t (.exset a) → Leaves s (.exset a) { t with ex := (t.viewAt s.clk).P a.toNat &&& t.live } (nextPc t.pc false)) ∧
    (∀ a s t, Issues s t (.exand a) → Leaves s (.exand a) { t with ex := t.ex &&& (t.viewAt s.clk).P a.toNat } (nextPc t.pc false)) ∧
    (∀ a s t, Issues s t (.exandn a) → Leaves s (.exandn a) { t with ex := t.ex &&& ~~~((t.viewAt s.clk).P a.toNat) } (nextPc t.pc false)) ∧
    (∀ s t, Issues s t .exall → Leaves s .exall { t with ex := t.live } (nextPc t.pc false)) ∧
    (∀ s t, Issues s t .yld → Leaves s .yld { t with yielded := true } (nextPc t.pc false))) ∧
  ((∀ d, Fixed (.exsave d) fun r => (fun file n l =>
      if file = .p ∧ n = d.toNat ∧ l < r.lanes then some (if r.ex.getLsbD l then 1 else 0) else none, 0)) ∧
    (∀ d, Fixed (.excnt d) fun r => uni d (BitVec.ofNat 32 r.actives.length)) ∧
    (∀ d a, Fixed (.exany d a) fun r => uni d
      (match r.actives.find? fun l => (r.P a.toNat).getLsbD l with | some l => BitVec.ofNat 32 (l + 1) | none => 0)) ∧
    (∀ d a n, Fixed (.pballot d a n) fun r => uni d
      (if 32 * r.selr n 5 < r.lanes then (r.P a.toNat).extractLsb' (32 * r.selr n 5) 32 else 0)) ∧
    (∀ d a n, Fixed (.pfill d a n) fun r => (fun file m l =>
      if file = .p ∧ m = d.toNat ∧ l / 32 = r.selr n 5 ∧ 32 * r.selr n 5 < r.lanes then
        some (if (r.S a.toNat).getLsbD (l % 32) then 1 else 0) else none, 0)) ∧
    (∀ d a n s t, Issues s t (.sget d a n) → t.pendOf .v a.toNat = none →
      let r := t.viewAt s.clk
      Gives s t (.sget d a n) (newUni d (if r.selr n 10 < r.lanes then r.V (r.selr n 10) a.toNat else 0)) 0) ∧
    (∀ d a n s t p, Issues s t (.sget d a n) → t.pendOf .v a.toNat = some p → s.overfull (.sget d a n) = false →
      PendsIn s s t (.sget d a n) 12 (.laneOf a.toNat ((t.viewAt s.clk).selr n 10))))

/-- R220, R221: branches go to slot 1 of the bundle that the immediate names, where their condition holds, and else on; `call` leaves the
address of the next bundle; `ret` and `jmp` go to slot 1 of the bundle at the register, and trap where it is not aligned. -/
def Obligations.Branches : Prop :=
  (∀ imm s t, Issues s t (.bra imm) → Leaves s (.bra imm) t (bundleOf t.pc + 16 * imm.signExtend 32 + 4)) ∧
  (∀ c imm s t, Issues s t (.brz c imm) → Leaves s (.brz c imm) t
    (if (t.viewAt s.clk).S c.toNat = 0 then bundleOf t.pc + 16 * imm.signExtend 32 + 4 else nextPc t.pc false)) ∧
  (∀ c imm s t, Issues s t (.brnz c imm) → Leaves s (.brnz c imm) t
    (if (t.viewAt s.clk).S c.toNat = 0 then nextPc t.pc false else bundleOf t.pc + 16 * imm.signExtend 32 + 4)) ∧
  (∀ imm s t, Issues s t (.brex imm) → Leaves s (.brex imm) t
    (if t.ex = 0 then bundleOf t.pc + 16 * imm.signExtend 32 + 4 else nextPc t.pc false)) ∧
  (∀ imm s t, Issues s t (.brnex imm) → Leaves s (.brnex imm) t
    (if t.ex = 0 then nextPc t.pc false else bundleOf t.pc + 16 * imm.signExtend 32 + 4)) ∧
  (∀ c imm s t, Issues s t (.call c imm) → ∃ u, Leaves s (.call c imm) u (bundleOf t.pc + 16 * imm.signExtend 32 + 4) ∧
    RegsAfter t u (newUni c (bundleOf t.pc + 16)) ∧ u.fstat = t.fstat ∧ u.still = t.still ∧ u.ex = t.ex ∧ u.level = t.level ∧ u.slots = t.slots) ∧
  (∀ a s t, Issues s t (.ret a) →
    let x := (t.viewAt s.clk).S a.toNat
    if x.extractLsb' 0 4 = 0#4 then Leaves s (.ret a) t (x + 4) else Traps s (.ret a) 0x03 0 (x.setWidth 64)) ∧
  (∀ a s t, Issues s t (.jmp a) →
    let x := (t.viewAt s.clk).S a.toNat
    if x.extractLsb' 0 4 = 0#4 then Leaves s (.jmp a) t (x + 4) else Traps s (.jmp a) 0x03 0 (x.setWidth 64))

/-- R215, R216: `fork` opens the lowest free level, defers the lanes of the predicate at the branch target and goes on with the others;
`pend` sets the join and the joined lanes of its level, goes on at the join with all of them where its path is the last, and traps where
the join differs from the one already set; without a free level or slot `fork` traps. -/
def Obligations.Paths : Prop :=
  (∀ c imm s t n k, Issues s t (.fork c imm) → t.levels.findIdx? (fun l => !l.opened) = some n → t.slots.findIdx? (fun p => !p.v) = some k →
    let f := (t.viewAt s.clk).P c.toNat &&& t.ex
    f ≠ 0 → Leaves s (.fork c imm)
      { t with
        ex := t.ex &&& ~~~f, level := n, levels := t.levels.set n ⟨true, t.level, false, 0, 2, 0⟩
        slots := t.slots.set k ⟨true, none, n, 0, bundleOf t.pc + 16 * imm.signExtend 32 + 4, 0, f, 0, none, []⟩ } (nextPc t.pc false)) ∧
  (∀ c imm s t n, Issues s t (.fork c imm) → t.levels.findIdx? (fun l => !l.opened) = some n → (t.viewAt s.clk).P c.toNat &&& t.ex = 0 →
    Leaves s (.fork c imm) { t with level := n, levels := t.levels.set n ⟨true, t.level, false, 0, 1, 0⟩ } (nextPc t.pc false)) ∧
  (∀ c imm s t, Issues s t (.fork c imm) → t.levels.findIdx? (fun l => !l.opened) = none → Traps s (.fork c imm) 0x0E 0 0) ∧
  (∀ c imm s t, Issues s t (.fork c imm) → t.slots.findIdx? (fun p => !p.v) = none → (t.viewAt s.clk).P c.toNat &&& t.ex ≠ 0 →
    Traps s (.fork c imm) 0x0E 0 0) ∧
  (∀ imm s t lv, Issues s t (.pend imm) → t.levels[t.level]? = some lv →
    let join := bundleOf t.pc + 16 * imm.signExtend 32
    (lv.jset = true → lv.join = join) → lv.n = 1 → Leaves s (.pend imm)
      { t with
        ex := (lv.jm ||| t.ex) &&& t.live, level := lv.parent
        levels := t.levels.set t.level ⟨false, lv.parent, true, join, 0, lv.jm ||| t.ex⟩ } (join + 4)) ∧
  (∀ imm s t lv, Issues s t (.pend imm) → t.levels[t.level]? = some lv → lv.jset = true →
    lv.join ≠ bundleOf t.pc + 16 * imm.signExtend 32 →
    Traps s (.pend imm) 0x0D t.level ((bundleOf t.pc + 16 * imm.signExtend 32).setWidth 64)) ∧
  (∀ imm s t lv, Issues s t (.pend imm) → t.levels[t.level]? = some lv →
    let join := bundleOf t.pc + 16 * imm.signExtend 32
    (lv.jset = true → lv.join = join) → 2 ≤ lv.n → ∃ s' t', exec (.pend imm) s = .next s' ∧ s'.teams.find s.cur = some t' ∧
      t'.still = { t with levels := t.levels.set t.level ⟨lv.opened, lv.parent, true, join, lv.n - 1, lv.jm ||| t.ex⟩ }.still ∧
      RegsAfter t t' newNothing ∧ t'.fstat = t.fstat ∧ t'.pends = t.pends ∧ RestKept s s' t ∧
      ((∀ p ∈ t.slots, p.v = false) → t'.noPath = true ∧ t'.ex = 0))

/-- R222, R223, R224, R253: `exit` takes the lanes of EX out of LIVE, and where none is left ends the team once its batches and pending
registers are done; in a save routine it ends the team's residency; `trap` traps; `brk` halts the team for a debugger that may halt it,
traps without one, and in a trap handler does nothing; `nop` does nothing. -/
def Obligations.Endings : Prop :=
  (∀ s t, Issues s t .exit → t.saving = false → t.live &&& ~~~t.ex ≠ 0 →
    Leaves s .exit { t with live := t.live &&& ~~~t.ex, ex := 0 } (nextPc t.pc false)) ∧
  (∀ s t, Issues s t .exit → t.saving = false → t.live &&& ~~~t.ex = 0 → t.sectTraps = [] → t.copies = [] → t.pends = [] →
    t.kernel.rollback = false → ∃ s' t', exec .exit s = .next s' ∧ s'.teams.find s.cur = some t' ∧ t'.ended = true ∧ t'.live = 0 ∧
      t'.ex = 0 ∧ t'.pc = t.pc ∧ RegsAfter t t' newNothing ∧ t'.fstat = t.fstat ∧ RestKept s s' t) ∧
  (∀ s t, Issues s t .exit → t.saving = true → t.sectTraps = [] → t.copies = [] → t.pends = [] →
    ∃ s' t', exec .exit s = .next s' ∧ s'.teams.find s.cur = some t' ∧ t'.gone = true ∧ t'.live = t.live ∧ t'.ended = t.ended ∧
      RegsAfter t t' newNothing ∧ RestKept s s' t) ∧
  (∀ code s t, Issues s t (.trap code) → Traps s (.trap code) 0x18 code.toNat 0) ∧
  (∀ s t, Issues s t .brk → t.tlevel = true → Leaves s .brk t (nextPc t.pc false)) ∧
  (∀ s t, Issues s t .brk → t.tlevel = false → holderKind (s.winReg t.ctx (dbg 0)) ≠ 0 → s.hasRight t.ctx 0 = true →
    ∃ s' t', exec .brk s = .next s' ∧ s'.teams.find s.cur = some t' ∧ t'.halt = 3 ∧ t'.pc = t.pc ∧ t'.ex = t.ex ∧ t'.live = t.live ∧
      RegsAfter t t' newNothing ∧ t'.fstat = t.fstat ∧ RestKept s s' t) ∧
  (∀ s t, Issues s t .brk → t.tlevel = false → (holderKind (s.winReg t.ctx (dbg 0)) = 0 ∨ s.hasRight t.ctx 0 = false) →
    Traps s .brk 0x17 0 0) ∧
  (∀ s t, Issues s t .nop → Leaves s .nop t (nextPc t.pc false))

/-- R30, R253, R254: a trap of a team at TLEVEL 0 with a trap entry saves PC, EX, the cause and the address, sets TLEVEL and goes to slot
1 of the trap entry; nothing else of the team changes. `rtt` brings EX back, within LIVE, clears TLEVEL and goes to the slot that TPC
names; at TLEVEL 0 it is illegal, and with a TPC that is no multiple of 4 it traps. R30: the event form of taking a trap is the shared
operation, on its team. -/
def Obligations.TrapsAndReturns : Prop :=
  ((∀ s t cause info addr entry, s.me = some t → t.tlevel = false → t.kernel.trapEntry = some entry → t.kernel.rollback = false →
      (∀ q n, t.blk ≠ some (.queueRoom q n)) → ¬ (0x10 ≤ cause ∧ cause ≤ 0x14) → cause ≠ 0x16 →
      ∃ t', (s.takeTrap cause info addr).teams.find s.cur = some t' ∧ t'.tpc = t.pc ∧ t'.tex = t.ex ∧ t'.taddr = addr ∧
        t'.tcause = BitVec.ofNat 32 (65536 * (info % 65536) + cause % 256) ∧ t'.tlevel = true ∧ t'.pc = entry + 4 ∧ t'.ex = t.ex ∧
        t'.slots = t.slots ∧ t'.level = t.level ∧ t'.pends = t.pends ∧ RegsAfter t t' newNothing ∧ t'.fstat = t.fstat ∧
        t'.still = { t with tpc := t.pc, tex := t.ex, taddr := addr, tcause := t'.tcause, tlevel := true }.still ∧
        RestKept s (s.takeTrap cause info addr) t) ∧
    (∀ s t, Issues s t .rtt → t.tlevel = true → t.tpc.extractLsb' 0 2 = 0#2 → t.isCtl = false →
      let pc := if t.tpc.extractLsb' 2 2 = 0#2 then t.tpc + 4 else t.tpc
      Leaves s .rtt { t with ex := t.tex &&& t.live, tlevel := false, pc := pc } pc) ∧
    (∀ s t, Issues s t .rtt → t.tlevel = true → t.tpc.extractLsb' 0 2 = 0#2 → t.isCtl = true → ∃ s' t', exec .rtt s = .next s' ∧
      s'.teams.find s.cur = some t' ∧
      GoesAs { t with ex := t.tex &&& t.live, tlevel := false } t' (if t.tpc.extractLsb' 2 2 = 0#2 then t.tpc + 4 else t.tpc)) ∧
    (∀ s t, Issues s t .rtt → t.tlevel = false → Traps s .rtt 0x01 Instr.rtt.info 0) ∧
    (∀ s t, Issues s t .rtt → t.tlevel = true → t.tpc.extractLsb' 0 2 ≠ 0#2 → Traps s .rtt 0x03 0 (t.tpc.setWidth 64))) ∧
  (∀ team cause info addr s t entry, s.teams.find team = some t → t.tlevel = false → t.kernel.trapEntry = some entry →
      t.kernel.rollback = false → ¬ (0x10 ≤ cause ∧ cause ≤ 0x14) → cause ≠ 0x16 →
      ∃ s' t', exec (.trapEntry team cause info addr) s = .next s' ∧ s'.teams.find team = some t' ∧ t'.tpc = t.pc ∧ t'.tex = t.ex ∧
        t'.taddr = addr ∧ t'.tlevel = true ∧ t'.pc = entry + 4 ∧ t'.ex = t.ex ∧ RegsAfter t t' newNothing ∧
        (∀ k, k ≠ team → s'.teams.find k = s.teams.find k) ∧ (Untraced s → SameMemory s s'))

/-- R30, R351: a trap at TLEVEL 1, or of a kernel without a trap entry, halts the team for good, with the double-trap event. -/
def Obligations.DoubleTrap : Prop :=
  ∀ (s : State) t cause info addr c, s.me = some t → s.contexts.find t.ctx = some c → t.kernel.rollback = false →
    ¬ (0x10 ≤ cause ∧ cause ≤ 0x14) → cause ≠ 0x16 → (t.tlevel = true ∨ t.kernel.trapEntry = none) →
    ∃ t' args, (s.takeTrap cause info addr).teams.find s.cur = some t' ∧ t'.halt = 6 ∧ t'.pc = t.pc ∧ t'.ex = t.ex ∧
      RegsAfter t t' newNothing ∧ Raises s (s.takeTrap cause info addr) t.ctx 5 args ∧
      args.head? = some (if t.tlevel then causeWord cause info ++ t.tcause else (causeWord cause info).setWidth 64)

/-- R33, R34, R35, R69: what `srd` reads. A read of CLOCK gives the low word of the time and latches the high word; a read of FSTAT makes
its register pending on the flags of every earlier slot; a number that R33 does not list is illegal. R33, R69, R253: what `swr` writes: a
write of FSTAT drops the flags of earlier slots that have not arrived; SECTIME only in the service role, else it traps; any other number
is illegal. -/
def Obligations.SpecialRegisters : Prop :=
  ((∀ d b s t x, Issues s t (.srd d b) → s.special t b.toNat = some x → b ≠ 0x07 → b ≠ 0x0A → Gives s t (.srd d b) (newUni d x) 0) ∧
    (∀ d s t, Issues s t (.srd d 0x07) → ∃ s' t', exec (.srd d 0x07) s = .next s' ∧ s'.teams.find s.cur = some t' ∧
      RegsAfter t t' (newUni d (BitVec.ofNat 32 s.clk)) ∧ t'.fstat = t.fstat ∧
      t'.still = { t with clockh := BitVec.ofNat 32 (s.clk / 2 ^ 32) }.still ∧ StepsOn (.srd d 0x07) t t' ∧ RestKept s s' t) ∧
    (∀ d s t, Issues s t (.srd d 0x0A) → s.overfull (.srd d 0x0A) = false →
      PendsIn s s t (.srd d 0x0A) 15 (.flagsOf t.allFlags)) ∧
    (∀ d b s t, s.me = some t → 0x18 ≤ b.toNat → b.toNat < 0x40 → Traps s (.srd d b) 0x01 (Instr.srd d b).info 0) ∧
    (∀ (s : State) (t : Team),
      s.special t 0x00 = some (BitVec.ofNat 32 (t.lanes + 65536 * (t.lanes * t.idx % 65536))) ∧
      s.special t 0x03 = some t.gangReg ∧ s.special t 0x04 = some t.gridReg ∧ s.special t 0x08 = some t.clockh ∧
      s.special t 0x09 = some (t.fmode.setWidth 32) ∧ s.special t 0x0F = some (if t.check then 1 else 0) ∧
      s.special t 0x10 = some t.tpc ∧ s.special t 0x11 = some t.tcause ∧ s.special t 0x12 = some (t.taddr.extractLsb' 0 32) ∧
      s.special t 0x13 = some (t.taddr.extractLsb' 32 32) ∧ s.special t 0x14 = some (if t.tlevel then 1 else 0) ∧
      (∀ k, k < 32 → s.special t (0x40 + k) = some (t.tex.extractLsb' (32 * k) 32) ∧
        s.special t (0x60 + k) = some (t.live.extractLsb' (32 * k) 32)) ∧
      (∀ n, 0x18 ≤ n ∧ n < 0x40 ∨ 0x80 ≤ n → s.special t n = none))) ∧
  ((∀ a s t, Issues s t (.swr a 0x09) → Leaves s (.swr a 0x09) { t with fmode := ((t.viewAt s.clk).S a.toNat).extractLsb' 0 2 } (nextPc t.pc false)) ∧
    (∀ a s t, Issues s t (.swr a 0x0A) → LeavesIn s (.swr a 0x0A)
      { s with traffic := s.traffic.map fun o => if o.team = s.cur ∧ o.muted = none then { o with muted := some s.serial } else o }
      (t.setFstat (((t.viewAt s.clk).S a.toNat).extractLsb' 0 5)) (nextPc t.pc false)) ∧
    (∀ a s t, Issues s t (.swr a 0x0F) → Leaves s (.swr a 0x0F) { t with check := ((t.viewAt s.clk).S a.toNat).getLsbD 0 } (nextPc t.pc false)) ∧
    (∀ a s t, Issues s t (.swr a 0x10) → Leaves s (.swr a 0x10) { t with tpc := (t.viewAt s.clk).S a.toNat } (nextPc t.pc false)) ∧
    (∀ a s t c, Issues s t (.swr a 0x17) → s.inService t = true → s.contexts.find t.ctx = some c → ∃ s' t', exec (.swr a 0x17) s = .next s' ∧
      s'.teams.find s.cur = some t' ∧ GoesAs t t' (nextPc t.pc false) ∧
      (∀ k, (s'.contexts.find k).map Context.still =
        if k = t.ctx then some { c with sectime := (t.viewAt s.clk).S a.toNat }.still else (s.contexts.find k).map Context.still) ∧
      (t.kernel.rollback = false → s'.gangs = s.gangs) ∧ (Untraced s → SameMemory s s')) ∧
    (∀ a s t, Issues s t (.swr a 0x17) → s.inService t = false → Traps s (.swr a 0x17) 0x0C 0x17 0) ∧
    (∀ a b s t, s.me = some t → b ≠ 0x09 → b ≠ 0x0A → b ≠ 0x0F → b ≠ 0x10 → b ≠ 0x17 →
      Traps s (.swr a b) 0x01 (Instr.swr a b).info 0))

/-- R229, R230: an arrival that completes the phase starts the next one and goes on; one that does not is counted and its path waits;
`barrv` also adds to SUM and gets the phase's SUM; `barw` goes on at an idle barrier whose last phase is done, and else waits; `barpend`
adds to PEND without waiting. A path whose phase has completed goes on. -/
def Obligations.CrewBarriers : Prop :=
  ∀ (s : State) (t : Team) (cr : Crew) (k : RegNo) (b : Barrier), s.crewOf t = some cr → cr.rb.wanted = none →
    cr.barriers[k.toNat]? = some b → t.kernel.rollback = false → (∀ g, s.gangOf t = some g → g.kernel.rollback = false) →
    let after (c : Barrier) : Barrier := if c.expect ≤ c.arrived ∧ c.pend = 0 then { c with arrived := 0, sum := 0, count := c.count + 1 } else c
    let ends (c : Barrier) : Prop := c.expect ≤ c.arrived ∧ c.pend = 0
    (Issues s t (.bar k) → t.mark = none → ends { b with arrived := b.arrived + 1 } → ∃ s' t', exec (.bar k) s = .next s' ∧
      s'.teams.find s.cur = some t' ∧ GoesAs (t.sumReady k.toNat b.sum) t' (nextPc t.pc false) ∧
      s'.crewOf t = some { cr with barriers := cr.barriers.set k.toNat (after { b with arrived := b.arrived + 1 }) } ∧
      (Untraced s → SameMemory s s')) ∧
    (Issues s t (.bar k) → t.mark = none → ¬ ends { b with arrived := b.arrived + 1 } → (∀ p ∈ t.slots, p.v = false) →
      ∃ s' t', exec (.bar k) s = .next s' ∧ s'.teams.find s.cur = some t' ∧ t'.blk = some (.phase k.toNat b.count) ∧
      t'.mark = some b.count ∧ t'.pc = t.pc ∧ t'.ex = t.ex ∧ RegsAfter t t' newNothing ∧ t'.pends = t.pends ∧ t'.still = t.still ∧
      s'.crewOf t = some { cr with barriers := cr.barriers.set k.toNat { b with arrived := b.arrived + 1 } } ∧ SameMemory s s') ∧
    (∀ n, Issues s t (.bar k) → t.mark = some n → n < b.count → Leaves s (.bar k) t (nextPc t.pc false)) ∧
    (∀ d c, Issues s t (.barrv d k c) → t.mark = none → s.overfull (.barrv d k c) = false → ends { b with arrived := b.arrived + 1 } →
      ∃ s' t' p, exec (.barrv d k c) s = .next s' ∧ s'.teams.find s.cur = some t' ∧ p ∈ t'.pends ∧ p.file = .s ∧ p.n = d.toNat ∧
      p.data = .values [⟨.s, d.toNat, 0, b.sum + (t.viewAt s.clk).S c.toNat⟩] 0 ∧ RegsAfter t t' newNothing ∧ t'.fstat = t.fstat ∧
      t'.still = t.still ∧ StepsOn (.barrv d k c) t t' ∧
      s'.crewOf t = some { cr with barriers := cr.barriers.set k.toNat { b with arrived := 0, sum := 0, count := b.count + 1 } }) ∧
    (∀ d c, Issues s t (.barrv d k c) → t.mark = none → s.overfull (.barrv d k c) = false →
      ¬ ends { b with arrived := b.arrived + 1 } → (∀ p ∈ t.slots, p.v = false) →
      ∃ s' t' p, exec (.barrv d k c) s = .next s' ∧ s'.teams.find s.cur = some t' ∧ p ∈ t'.pends ∧ p.file = .s ∧ p.n = d.toNat ∧
      p.data = .sum k.toNat ∧ t'.blk = some (.phase k.toNat b.count) ∧ t'.pc = t.pc ∧ RegsAfter t t' newNothing ∧
      let b' : Barrier := { b with arrived := b.arrived + 1, sum := b.sum + (t.viewAt s.clk).S c.toNat }
      s'.crewOf t = some { cr with barriers := cr.barriers.set k.toNat b' }) ∧
    (Issues s t (.barw k) → t.mark = none → b.arrived = 0 → b.pend = 0 → b.count ≠ 0 → Leaves s (.barw k) t (nextPc t.pc false)) ∧
    (Issues s t (.barw k) → t.mark = none → b.arrived ≠ 0 ∨ b.pend ≠ 0 ∨ b.count = 0 → (∀ p ∈ t.slots, p.v = false) →
      ∃ s' t', exec (.barw k) s = .next s' ∧ s'.teams.find s.cur = some t' ∧ t'.blk = some (.phase k.toNat b.count) ∧
      t'.mark = some b.count ∧ t'.pc = t.pc ∧ RegsAfter t t' newNothing ∧ t'.still = t.still ∧ s'.gangs = s.gangs ∧ SameMemory s s') ∧
    (∀ n, Issues s t (.barw k) → t.mark = some n → n < b.count → Leaves s (.barw k) t (nextPc t.pc false)) ∧
    (∀ o, Issues s t (.barpend k o) → ∃ s' t', exec (.barpend k o) s = .next s' ∧ s'.teams.find s.cur = some t' ∧
      RegsAfter t t' newNothing ∧ t'.fstat = t.fstat ∧ t'.still = t.still ∧ StepsOn (.barpend k o) t t' ∧
      s'.crewOf t = some { cr with barriers := cr.barriers.set k.toNat (after { b with pend := b.pend + (t.viewAt s.clk).opu o }) })

/-- R233, R234: an acquiring `fence` gives up the generic lines of the team's L1, `pfence` the lines of the paths that its mask names; the
rest of the machine is as it was. R28, R236: `ctcommit` gives the open batch the tag NEXT once that tag is free and opens an empty batch;
`ctwait k` goes on when every batch but the k newest has completed. Otherwise the path waits. -/
def Obligations.FencesAndBatches : Prop :=
  ((∀ ord s t, Issues s t (.fence ord) → LeavesIn s (.fence ord)
      { s with caches := s.caches.filter fun l =>
        !(decide (4 ≤ ord.toNat) && l.kind == .l1 && (s.l1Units t).contains l.unit && l.ctx == t.ctx) } t (nextPc t.pc false)) ∧
    (∀ mask s t, Issues s t (.pfence mask) → LeavesIn s (.pfence mask)
      { s with caches := s.caches.filter fun l => !(l.ctx == t.ctx &&
        ((mask.getLsbD 0 && l.kind == .l1 && (s.l1Units t).contains l.unit) || (mask.getLsbD 1 && l.kind == .constant && l.unit == t.unit) ||
          (mask.getLsbD 2 && l.kind == .sampler && l.unit == t.unit) || (mask.getLsbD 3 && l.kind == .tile && l.unit == unitOf t.cluster 5))) }
      t (nextPc t.pc false))) ∧
  ((∀ s t, Issues s t .ctcommit → t.tagFree t.nextTag = true → Leaves s .ctcommit
      { t with
        copies := t.copies.map fun (c : Copy) => if c.tag.isNone then { c with tag := some t.nextTag } else c
        tags := t.tags.set t.nextTag ⟨t.openCount, t.openCount != 0⟩, openCount := 0, nextTag := (t.nextTag + 1) % 8 } (nextPc t.pc false)) ∧
    (∀ s t, Issues s t .ctcommit → t.tagFree t.nextTag = false → (∀ c ∈ t.copies, c.fate = .flying) → (∀ p ∈ t.slots, p.v = false) →
      ∃ s' t', exec .ctcommit s = .next s' ∧ s'.teams.find s.cur = some t' ∧ t'.blk = some (.batch t.nextTag) ∧ t'.pc = t.pc ∧
        RegsAfter t t' newNothing ∧ t'.still = t.still ∧ SameMemory s s') ∧
    (∀ k s t, Issues s t (.ctwait k) → (∀ c ∈ t.copies, c.fate = .flying) →
      (∀ j, j < 8 - k.toNat → ∀ b, t.tags[(t.nextTag + j) % 8]? = some b → b.inUse = false) → Leaves s (.ctwait k) t (nextPc t.pc false)) ∧
    (∀ k s t j b, Issues s t (.ctwait k) → (∀ c ∈ t.copies, c.fate = .flying) → j < 8 - k.toNat →
      t.tags[(t.nextTag + j) % 8]? = some b → b.inUse = true → (∀ p ∈ t.slots, p.v = false) →
      ∃ s' t', exec (.ctwait k) s = .next s' ∧ s'.teams.find s.cur = some t' ∧ t'.blk = some (.batches k.toNat) ∧ t'.pc = t.pc ∧
        RegsAfter t t' newNothing ∧ t'.still = t.still ∧ SameMemory s s'))

/-- R21, R23, R237: a handle whose class is neither 1 nor 2 resolves to status 4; one whose slot is unused or of another generation to 3;
else to what its job has come to. `fwait` makes its register pending on the handle until then, `ftest` says whether it resolves. R22, R63,
R66, R69, R168: when a result arrives, its registers take the values, FSTAT takes its flags and the register is pending no more; a result
that accesses bring arrives when all of them are performed; a read of FSTAT gives the flags of the earlier slots; the resolution of a
future is an acquire. -/
def Obligations.Futures : Prop :=
  ((∀ (c : Context) (h : Word), (h.toNat / 2 ^ 29 ≠ 1 ∧ h.toNat / 2 ^ 29 ≠ 2 → c.handleStatus h = some 4) ∧
      (h.toNat / 2 ^ 29 = 1 ∨ h.toNat / 2 ^ 29 = 2 →
        (c.futures.find (futKey (h.toNat / 2 ^ 29) (h.toNat / 4096 % 131072)) = none → c.handleStatus h = some 3) ∧
        ∀ f, c.futures.find (futKey (h.toNat / 2 ^ 29) (h.toNat / 4096 % 131072)) = some f →
          c.handleStatus h = if f.gen = h.toNat % 4096 then f.status else some 3)) ∧
    (∀ d a s t c st, Issues s t (.fwait d a) → s.overfull (.fwait d a) = false → rawHandle t a = none → s.contexts.find t.ctx = some c →
      c.handleStatus ((t.viewAt s.clk).S a.toNat) = some st → Awaits s t (.fwait d a) 6 (newUni d st) 0) ∧
    (∀ d a s t c, Issues s t (.fwait d a) → s.overfull (.fwait d a) = false → rawHandle t a = none → s.contexts.find t.ctx = some c →
      c.handleStatus ((t.viewAt s.clk).S a.toNat) = none → ∃ s' t' q, exec (.fwait d a) s = .next s' ∧ s'.teams.find s.cur = some t' ∧
        RegsAfter t t' (newUni d ((t.viewAt s.clk).S a.toNat)) ∧ q ∈ t'.pends ∧ q.file = .s ∧ q.n = d.toNat ∧ q.cnt = 1 ∧ q.data = .future ∧
        t'.fstat = t.fstat ∧ t'.still = t.still ∧ StepsOn (.fwait d a) t t' ∧ RestKept s s' t) ∧
    (∀ d a s t c, Issues s t (.ftest d a) → t.pendOf .s a.toNat = none → s.contexts.find t.ctx = some c →
      Gives s t (.ftest d a) (newUni d (if (c.handleStatus ((t.viewAt s.clk).S a.toNat)).isSome then 1 else 0)) 0) ∧
    (∀ d a s t c p, Issues s t (.ftest d a) → s.overfull (.ftest d a) = false → t.pendOf .s a.toNat = some p → p.isFuture = true →
      s.contexts.find t.ctx = some c →
      Awaits s t (.ftest d a) 13 (newUni d (if (c.handleStatus ((t.viewAt s.clk).S a.toNat)).isSome then 1 else 0)) 0)) ∧
  ((∀ team serial s t p ws fl g, s.teams.find team = some t → t.pend? serial = some p → p.data = .values ws fl → p.after = [] →
      Carries ws g → ∃ s' t', exec (.resultResolve team serial) s = .next s' ∧ s'.teams.find team = some t' ∧ RegsAfter t t' g ∧
        t'.fstat = t.fstat ||| fl ∧ (∀ q ∈ t'.pends, q.serial ≠ serial) ∧ t'.still = t.still ∧ t'.pc = t.pc ∧ t'.ex = t.ex ∧
        (∀ k, k ≠ team → s'.teams.find k = s.teams.find k) ∧ s'.mem = s.mem ∧ (p.reason ≠ 6 → s'.caches = s.caches) ∧
        (p.reason = 6 → ∀ l ∈ s'.caches, ¬ (l.kind = .l1 ∧ l.unit ∈ s.l1Units t ∧ l.ctx = t.ctx))) ∧
    (∀ team serial s t p, s.teams.find team = some t → t.pend? serial = some p → p.data = .arriving → p.after = [] →
      (t.inPart serial = false → (∀ o ∈ s.traffic, ¬ (o.team = team ∧ o.group = serial)) → ∃ s' t',
        exec (.resultResolve team serial) s = .next s' ∧ s'.teams.find team = some t' ∧ RegsAfter t t' newNothing ∧ t'.fstat = t.fstat ∧
        (∀ q ∈ t'.pends, q.serial ≠ serial) ∧ t'.still = t.still ∧ t'.pc = t.pc ∧ (∀ k, k ≠ team → s'.teams.find k = s.teams.find k) ∧
        s'.mem = s.mem) ∧
      ((∃ o ∈ s.traffic, o.team = team ∧ o.group = serial) → exec (.resultResolve team serial) s = .next s)) ∧
    (∀ team serial s t p fl, s.teams.find team = some t → t.pend? serial = some p → p.data = .flagsOf fl → p.after = [] →
      (∀ o ∈ s.traffic, o.team = team → o.dest.isSome = true → serial ≤ o.group) → ∃ s' t',
        exec (.resultResolve team serial) s = .next s' ∧ s'.teams.find team = some t' ∧
        RegsAfter t t' (fun file n _ => if file = .s ∧ n = p.n then some (fl.setWidth 32) else none) ∧ t'.fstat = t.fstat ∧
        (∀ q ∈ t'.pends, q.serial ≠ serial) ∧ t'.still = t.still ∧ t'.pc = t.pc ∧ s'.mem = s.mem))

/-- R235: a `wait` on aligned, readable words arms them: its register is pending on them and its path stays at the slot until the return;
after that it goes on. A misaligned word traps. R235: a `wait` returns the lowest of its words that differs from what it expects, in its
register, as an acquire. A word is looked at under the translation of the moment. -/
def Obligations.WordWaits : Prop :=
  ((∀ d a b s s1 t (pa : DWord → Nat) (page : DWord → Translation), Issues s t (.wait d a b) → t.mark = none →
      s.overfull (.wait d a b) = false → t.done = 0 →
      let words := (List.range b.toNat).map fun k => (t.viewAt s.clk).S64 (a.toNat + 4 * k)
      (∀ x ∈ words, addrCheck x 8 = none) →
      seeAll t .read false [(noLane, words)] s = ([(noLane, words.map fun x => (x, .ok (pa x) (page x)))], s1) → t.kernel.rollback = false → (∀ p ∈ t.slots, p.v = false) →
      ∃ s' t' p, exec (.wait d a b) s = .next s' ∧ s'.teams.find s.cur = some t' ∧ p ∈ t'.pends ∧ p.file = .s ∧ p.n = d.toNat ∧
        p.data = .armed ((List.range b.toNat).map fun k =>
          ((t.viewAt s.clk).S64 (a.toNat + 4 * k), (t.viewAt s.clk).S64 (a.toNat + 4 * k + 2))) ∧
        t'.blk = some (.reg .s d.toNat) ∧ t'.pc = t.pc ∧ RegsAfter t t' newNothing ∧ t'.still = t.still ∧ SameMemory s s') ∧
    (∀ d a b s t n, Issues s t (.wait d a b) → t.mark = some n → ∃ s' t', exec (.wait d a b) s = .next s' ∧ s'.teams.find s.cur = some t' ∧
      GoesAs (t.dropFutures [⟨.s, d.toNat, 1, false⟩]) t' (nextPc t.pc false) ∧ RestKept s s' t) ∧
    (∀ d a b s t k, Issues s t (.wait d a b) → t.mark = none → k < b.toNat →
      addrCheck ((t.viewAt s.clk).S64 (a.toNat + 4 * k)) 8 = some 0x07 →
      (∀ j, j < k → addrCheck ((t.viewAt s.clk).S64 (a.toNat + 4 * j)) 8 = none) →
      Traps s (.wait d a b) 0x07 0xFFFF ((t.viewAt s.clk).S64 (a.toNat + 4 * k)))) ∧
  ((∀ (s : State) (t : Team) es i x, s.armedDiffers t es = some (i, x) → x ≠ .same ∧ (∃ e, es[i]? = some e ∧ s.armedLook t e = x) ∧
      ∀ j e, j < i → es[j]? = some e → s.armedLook t e = .same) ∧
    (∀ (s : State) (t : Team) (e : DWord × DWord) pa f, s.lookWalk t.unit t.ctx e.1.toNat .read = .ok pa f →
      (s.poisoned pa 8 = true → s.armedLook t e = .poison) ∧
      (s.poisoned pa 8 = false → s.heldOf t = [] → (∀ o ∈ s.traffic, o.line = some (pa / 128) → o.seen = []) →
        s.armedLook t e = if memNat s.mem pa 8 = e.2.toNat then .same else .differs)) ∧
    (∀ team reg s t p es i, s.teams.find team = some t →
      t.pends.find? (fun (p : Pend) => p.n == reg && match p.data with | .armed _ => true | _ => false) = some p → p.data = .armed es →
      p.after = [] → s.armedDiffers t es = some (i, .differs) →
      ∃ s' t', exec (.waitReturn team reg) s = .next s' ∧ s'.teams.find team = some t' ∧
        RegsAfter t t' (fun file n _ => if file = .s ∧ n = reg then some (BitVec.ofNat 32 i) else none) ∧
        t'.pends = t.pends.filter (·.serial != p.serial) ∧ t'.still = t.still ∧ t'.pc = t.pc ∧ s'.mem = s.mem ∧
        ∀ l ∈ s'.caches, ¬ (l.kind = .l1 ∧ l.unit ∈ s.l1Units t ∧ l.ctx = t.ctx)))

/-- R56, R162, R168, R257: the lane loads of 8 to 128 bits send one load for each active lane. R56, R162, R168, R257: the lane stores of 8
to 128 bits send one store for each active lane; byte `k` of a lane's data is byte `k mod 4` of register `d + k / 4`. R257, R258, R262,
R282, R285, R287, R441: how an access on its way is performed. A load brings the bytes of memory where no line is held and no store to its
line is on its way; the bytes of the line that its cache holds; and those of its own core's store that is on its way before them. A store
changes the bytes that it stores and no others; the teams of a cluster may read a store on its way before the others do. An earlier access
of the team to the same slice goes first, but for a store in the write buffer that a generic load may pass within its core, and so does
every earlier one before a release of device scope. A load that meets poison brings none of its bytes. -/
def Obligations.LaneMemory : Prop :=
  (∀ (d a : RegNo) (disp : BitVec 10),
      let at_ (z : Nat) (r : Team) (l : Nat) : DWord := r.V64 l a.toNat + disp.signExtend 64 * BitVec.ofNat 64 z
      LaneReads (.ld8 d a disp) d 1 true .l1 (at_ 1) ∧ LaneReads (.ld16 d a disp) d 2 true .l1 (at_ 2) ∧
      LaneReads (.ld32 d a disp) d 4 true .l1 (at_ 4) ∧ LaneReads (.ld64 d a disp) d 8 true .l1 (at_ 8) ∧
      LaneReads (.ld128 d a disp) d 16 true .l1 (at_ 16)) ∧
  (∀ (d a : RegNo) (disp : BitVec 10),
      let at_ (z : Nat) (r : Team) (l : Nat) : DWord := r.V64 l a.toNat + disp.signExtend 64 * BitVec.ofNat 64 z
      let data (z : Nat) (r : Team) (l : Nat) : List Byte := (List.range z).map fun k => (r.V l (d.toNat + k / 4)).extractLsb' (8 * (k % 4)) 8
      LaneWrites (.st8 d a disp) 1 (at_ 1) (data 1) ∧ LaneWrites (.st16 d a disp) 2 (at_ 2) (data 2) ∧
      LaneWrites (.st32 d a disp) 4 (at_ 4) (data 4) ∧ LaneWrites (.st64 d a disp) 8 (at_ 8) (data 8) ∧
      LaneWrites (.st128 d a disp) 16 (at_ 16) (data 16)) ∧
  (
    let noStore (s : State) (pa : Nat) : Prop := ∀ p ∈ s.traffic, p.line = some (pa / 128) → ∀ bs, p.kind ≠ .store bs ∧ p.kind ≠ .storePast bs
    let fits (o : Op) (pa : Nat) : Prop := o.lane < 1024 ∧ o.va % 128 = pa % 128 ∧ pa % 128 + o.n ≤ 128
    (∀ s o path pa slice x, Ready s o → o.kind = .load path → o.place = .mem pa slice x → fits o pa → s.heldFor o = [] → noStore s pa →
      s.poisoned pa o.n = false → s.line? path o.unit o.ctx (o.va / 128) = none → Brings s o (memNat s.mem pa o.n)) ∧
    (∀ s o pa slice x l, Ready s o → o.kind = .load .l1 → o.place = .mem pa slice x → fits o pa → s.heldFor o = [] → noStore s pa →
      s.line? .l1 o.unit o.ctx (o.va / 128) = some l → Brings s o (l.bytes.toNat / 256 ^ (o.va % 128) % 256 ^ o.n)) ∧
    (∀ s o path pa slice x l, Ready s o → o.kind = .load path → path ≠ .l1 → o.place = .mem pa slice x → fits o pa →
      s.line? path o.unit o.ctx (o.va / 128) = some l → Brings s o (l.bytes.toNat / 256 ^ (o.va % 128) % 256 ^ o.n)) ∧
    (∀ s o q pa slice slice' x x' bs, Ready s o → o.kind = .load .l1 → o.place = .mem pa slice x → fits o pa → s.heldFor o = [] →
      q ∈ s.traffic.takeWhile (·.serial != o.serial) → q.kind = .store bs → q.place = .mem pa slice' x' → bs.length = o.n →
      q.cluster = o.cluster → q.core = o.core →
      (∀ p ∈ s.traffic, p.line = some (pa / 128) → ∀ cs, p.kind = .store cs ∨ p.kind = .storePast cs → p = q) → Brings s o (leNat bs)) ∧
    (∀ s o pa slice x, Ready s o → o.kind = .loadPast → o.place = .mem pa slice x → fits o pa → s.heldFor o = [] → noStore s pa →
      s.poisoned pa o.n = false → Brings s o (memNat s.mem pa o.n)) ∧
    (∀ s o pa slice x t, Ready s o → o.kind = .load .l1 → o.place = .mem pa slice x → s.heldFor o = [] → noStore s pa →
      s.poisoned pa o.n = true → s.line? .l1 o.unit o.ctx (o.va / 128) = none → s.teams.find o.team = some t →
      t.pends.any (·.serial == o.group) = true → ∃ s' t', runCand (.access o.serial) s = .next s' ∧ AccessFrame s s' o ∧
        s'.teams.find o.team = some t' ∧ RegsAfter t t' newNothing ∧ t'.fstat = t.fstat ∧
        (∀ p ∈ t'.pends, p.serial = o.group → p.data = .poison 5 (BitVec.ofNat 64 o.va)) ∧ s'.mem = s.mem) ∧
    (∀ s o off, Ready s o → (∃ path, o.kind = .load path) ∨ o.kind = .loadPast → o.place = .reg off → o.lane < 1024 →
      Brings s o (s.regRead (.team o.team) o.ctx off o.n).toNat) ∧
    (∀ s o pa slice x bs, Ready s o → o.kind = .store bs ∨ o.kind = .storePast bs → o.place = .mem pa slice x →
      (s.winReg o.ctx 0xD8).getLsbD 63 = false →
      Commits s o (Memory.writes s.mem pa bs) ∧ OutsideKept s.mem (Memory.writes s.mem pa bs) pa bs.length ∧
      ∀ k b, bs[k]? = some b → Memory.read (Memory.writes s.mem pa bs) (pa + k) = b) ∧
    (∀ s o c bs pa slice x, s.traffic.find? (·.serial == o.serial) = some o → (∀ p ∈ s.traffic, p.serial = o.serial → p = o) →
      s.spreadable (s.traffic.takeWhile (·.serial != o.serial)) o c = true → o.kind = .store bs ∨ o.kind = .storePast bs →
      o.place = .mem pa slice x → ∃ s', runCand (.spread o.serial c) s = .next s' ∧ s'.mem = s.mem ∧ s'.teams = s.teams ∧
        s'.seenBytes c pa bs.length = bs ∧ ∀ e n, e ≠ c → s'.seenBytes e pa n = s.seenBytes e pa n) ∧
    (∀ s o p, s.traffic.find? (·.serial == o.serial) = some o → p ∈ s.traffic.takeWhile (·.serial != o.serial) → p.team = o.team →
      (p.slice = o.slice ∧ (p.buffered = false ∨ o.kind ≠ .load .l1)) ∨ (o.releases = true ∧ o.ord.map reachOf = some 2) →
      runCand (.access o.serial) s = .next s))

/-- R162, R163: a lane load or store whose first failing lane has bits 63:52 set traps with 0x08, one that is misaligned with 0x07; a
uniform one traps without a lane. -/
def Obligations.AccessTraps : Prop :=
  ∀ (d a : RegNo) (disp : BitVec 10),
    let cause (x : DWord) (z : Nat) : Option Nat := if x.toNat / 2 ^ 52 ≠ 0 then some 0x08 else if x.toNat % z ≠ 0 then some 0x07 else none
    let lane (i : Instr) (z : Nat) : Prop := ∀ s t l c, Issues s t i →
      let r := t.viewAt s.clk
      let addr (l : Nat) : DWord := r.V64 l a.toNat + disp.signExtend 64 * BitVec.ofNat 64 z
      l ∈ r.actives → cause (addr l) z = some c → (∀ m ∈ r.actives, m < l → cause (addr m) z = none) → Traps s i c l (addr l)
    let uniform (i : Instr) (z : Nat) : Prop := ∀ s t c, Issues s t i →
      let addr : DWord := (t.viewAt s.clk).S64 a.toNat + disp.signExtend 64 * BitVec.ofNat 64 z
      cause addr z = some c → Traps s i c 0xFFFF addr
    lane (.ld8 d a disp) 1 ∧ lane (.ld16 d a disp) 2 ∧ lane (.ld32 d a disp) 4 ∧ lane (.ld64 d a disp) 8 ∧ lane (.ld128 d a disp) 16 ∧
    lane (.st8 d a disp) 1 ∧ lane (.st16 d a disp) 2 ∧ lane (.st32 d a disp) 4 ∧ lane (.st64 d a disp) 8 ∧ lane (.st128 d a disp) 16 ∧
    lane (.ldc d a disp) 4 ∧ uniform (.sld32 d a disp) 4 ∧ uniform (.sld64 d a disp) 8 ∧ uniform (.sst32 d a disp) 4 ∧
    uniform (.sst64 d a disp) 8 ∧ uniform (.sldc d a disp) 4

/-- R174, R175, R176: `ldc` sends loads through the constant path; `smp` fetches the texels of its texture record through the sampler path
and gives each active lane the four components of their blend. -/
def Obligations.ReadOnlyPaths : Prop :=
  (∀ (d a : RegNo) (disp : BitVec 10),
    LaneReads (.ldc d a disp) d 4 false .constant fun r l => r.V64 l a.toNat + disp.signExtend 64 * 4) ∧
  (∀ d a b s t s1 s2 rec (pa : DWord → Nat) (page : DWord → Translation), Issues s t (.smp d a b) → t.done = 0 → t.kernel.rollback = false →
    let r := t.viewAt s.clk
    let texels (l : Nat) : List DWord × Machine.Num × Machine.Num := sampleTexels rec (r.V l a.toNat) (r.V l (a.toNat + 1))
    let n := texelSize (field rec 0x11 1)
    s.readSlot t (r.S b.toNat) (r.actives.headD 0) 1 = .ok (s1, rec) → slotStale rec (r.S b.toNat) 1 = false → textureBad rec = false →
    seeAll t .read false (r.actives.map fun l => (l, (texels l).1)) s1 =
      (r.actives.map fun l => (l, (texels l).1.map fun x => (x, .ok (pa x) (page x))), s2) →
    (∀ l ∈ r.actives, ∀ x ∈ (texels l).1, s1.poisoned (pa x) n = false ∧
      pa x % 128 = x.toNat % 128 ∧ s1.line? .sampler t.unit t.ctx (x.toNat / 128) = none ∧
      ∀ m ∈ r.actives, ∀ y ∈ (texels m).1, x.toNat / 128 = y.toNat / 128 → pa x / 128 = pa y / 128) →
    Loads s t (.smp d a b) 1 fun file k l =>
      if file = .v ∧ d.toNat ≤ k ∧ k < d.toNat + 4 ∧ l < r.lanes ∧ r.ex.getLsbD l = true then
        some (BitVec.ofNat 32 ((sampleColour ((texels l).1.map fun x => texel (field rec 0x11 1) (memNat s.mem (pa x) n))
          (texels l).2.1 (texels l).2.2).getD (k - d.toNat) 0)) else none)

/-- R170, R171: the lane loads and stores of scratchpad words, at the offset of each active lane: in order, and with every word that no
lane stores to as it was. R172, R173: the full/empty instructions, where every active lane is at a word of its own that is as it waits
for: `ldf` reads each word and makes it empty, `ldfk` reads it, `ste` stores it and makes it full. Where the word of a lane that has not
stepped is not as it waits for, the path stays at the slot, waiting. -/
def Obligations.Scratchpad : Prop :=
  (∀ (d a : RegNo) (disp : BitVec 10),
      let off (z : Nat) (r : Team) (l : Nat) : Word := r.V l a.toNat + (disp.signExtend 64 * BitVec.ofNat 64 z).setWidth 32
      let place (t : Team) (o : Word) : Nat × Nat := ((decodeOffset t.crew o).1, (decodeOffset t.crew o).2 / 4)
      let fits (s : State) (t : Team) (z : Nat) (o : Nat → Word) : Prop := ∀ l ∈ (t.viewAt s.clk).actives, s.inWindow t (o l) z = true ∧
        (o l).toNat % z = 0
      let load (i : Instr) (z : Nat) : Prop := ∀ s t, Issues s t i → s.overfull i = false → t.kernel.rollback = false →
        let r := t.viewAt s.clk
        fits s t z (off z r) → (∀ l ∈ r.actives, s.spadPoison t (off z r l) (z / 4) = false) →
        ∃ ws, PendsIn s s t i 2 (.values ws 0) ∧ Carries ws fun file n l =>
          if file = .v ∧ d.toNat ≤ n ∧ n < d.toNat + z / 4 ∧ l < r.lanes ∧ r.ex.getLsbD l = true then
            some (padWord s t (place t (off z r l)).1 ((place t (off z r l)).2 + (n - d.toNat))) else none
      let store (i : Instr) (z : Nat) : Prop := ∀ s t, Issues s t i → t.kernel.rollback = false →
        let r := t.viewAt s.clk
        let covers (l c w : Nat) : Prop := c = (place t (off z r l)).1 ∧ (place t (off z r l)).2 ≤ w ∧ w < (place t (off z r l)).2 + z / 4
        fits s t z (off z r) → ∃ s' t', exec i s = .next s' ∧ s'.teams.find s.cur = some t' ∧ GoesAs t t' (nextPc t.pc false) ∧
          (∀ c w, (∀ l ∈ r.actives, ¬ covers l c w) → padWord s' t c w = padWord s t c w) ∧
          (∀ l ∈ r.actives, ∀ c w, covers l c w → (∀ m ∈ r.actives, l < m → ¬ covers m c w) →
            padWord s' t c w = r.V l (d.toNat + (w - (place t (off z r l)).2))) ∧
          (∀ c w, padFull s' t c w = padFull s t c w) ∧ (∀ g, g ≠ t.gang → s'.gangs.find g = s.gangs.find g) ∧
          (∀ k, k ≠ s.cur → s'.teams.find k = s.teams.find k) ∧ (Untraced s → SameMemory s s')
      load (.lds32 d a disp) 4 ∧ load (.lds64 d a disp) 8 ∧ load (.lds128 d a disp) 16 ∧
      store (.sts32 d a disp) 4 ∧ store (.sts64 d a disp) 8 ∧ store (.sts128 d a disp) 16) ∧
  (∀ (d a : RegNo) (disp : BitVec 10),
      let off (r : Team) (l : Nat) : Word := r.V l a.toNat + (disp.signExtend 64 * 4).setWidth 32
      let place (t : Team) (o : Word) : Nat × Nat := ((decodeOffset t.crew o).1, (decodeOffset t.crew o).2 / 4)
      let ready (s : State) (t : Team) (full : Bool) : Prop :=
        let r := t.viewAt s.clk
        t.done = 0 ∧ t.kept = [] ∧ t.kernel.rollback = false ∧ ∀ l ∈ r.actives, s.inWindow t (off r l) 4 = true ∧ (off r l).toNat % 4 = 0 ∧
          s.isFull t (off r l) = full ∧ (full = true → s.spadPoison t (off r l) 1 = false) ∧
          ∀ m ∈ r.actives, m ≠ l → decodeOffset t.crew (off r m) ≠ decodeOffset t.crew (off r l)
      let load (i : Instr) (empties : Bool) : Prop := ∀ s t, Issues s t i → s.overfull i = false → ready s t true →
        let r := t.viewAt s.clk
        ∃ s' t' p ws, exec i s = .next s' ∧ s'.teams.find s.cur = some t' ∧ p ∈ t'.pends ∧ p.file = .v ∧ p.n = d.toNat ∧ p.reason = 3 ∧
          p.data = .values ws 0 ∧ Carries ws (newLanes r d fun l => padWord s t (place t (off r l)).1 (place t (off r l)).2) ∧
          RegsAfter t t' newNothing ∧ t'.still = t.still ∧ StepsOn i t t' ∧ (∀ c w, padWord s' t c w = padWord s t c w) ∧
          (∀ c w, padFull s' t c w =
            if empties = true ∧ ∃ l ∈ r.actives, place t (off r l) = (c, w) then false else padFull s t c w) ∧ (Untraced s → SameMemory s s')
      load (.ldf d a disp) true ∧ load (.ldfk d a disp) false ∧
      (∀ s t, Issues s t (.ste d a disp) → ready s t false →
        let r := t.viewAt s.clk
        ∃ s' t', exec (.ste d a disp) s = .next s' ∧ s'.teams.find s.cur = some t' ∧ GoesAs t t' (nextPc t.pc false) ∧
          (∀ l ∈ r.actives, padWord s' t (place t (off r l)).1 (place t (off r l)).2 = r.V l d.toNat) ∧
          (∀ c w, (∀ l ∈ r.actives, place t (off r l) ≠ (c, w)) → padWord s' t c w = padWord s t c w) ∧
          (∀ c w, padFull s' t c w = if ∃ l ∈ r.actives, place t (off r l) = (c, w) then true else padFull s t c w) ∧
          (Untraced s → SameMemory s s')) ∧
      (∀ i full s t, (i = .ldf d a disp ∨ i = .ldfk d a disp) ∧ full = true ∨ i = .ste d a disp ∧ full = false → Issues s t i →
        t.kernel.rollback = false → (∀ p ∈ t.slots, p.v = false) →
        let r := t.viewAt s.clk
        (∀ l ∈ r.actives, s.inWindow t (off r l) 4 = true ∧ (off r l).toNat % 4 = 0 ∧ s.isFull t (off r l) ≠ full ∧
          t.done.getLsbD l = false) → r.actives ≠ [] →
        ∃ s' t', exec i s = .next s' ∧ s'.teams.find s.cur = some t' ∧ t'.blk.isSome = true ∧ t'.pc = t.pc ∧ RegsAfter t t' newNothing ∧
          s'.gangs = s.gangs ∧ SameMemory s s'))

/-- R177, R178: `cpa` puts a copy of each active lane, of as many bytes as operand b asks for up to 32, into the open batch. R177, R178,
R179: a copy lands as 32 bytes at its window offset, those past its length zero, and leaves its batch; one whose page traps keeps its trap
for the batch's wait. -/
def Obligations.Copies : Prop :=
  (∀ d a o s t, Issues s t (.cpa d a o) → t.kernel.rollback = false →
      let r := t.viewAt s.clk
      (∀ l ∈ r.actives, (r.V64 l a.toNat).toNat < 2 ^ 52 ∧ (r.V64 l a.toNat).toNat % 32 = 0 ∧ s.inWindow t (r.V l d.toNat) 32 = true ∧
        (r.V l d.toNat).toNat % 32 = 0) → Leaves s (.cpa d a o)
        { t with
          openCount := t.openCount + r.actives.length
          copies := t.copies ++ r.actives.mapIdx fun k l => ⟨s.serial + k, l, r.V64 l a.toNat, min 32 (r.opb l o).toNat,
            (decodeOffset t.crew (r.V l d.toNat)).1, (decodeOffset t.crew (r.V l d.toNat)).2, none, .flying⟩ } (nextPc t.pc (Instr.cpa d a o).hasLit)) ∧
  ((∀ team serial s t c pa f cr, s.teams.find team = some t →
      t.copies.find? (fun (c : Copy) => c.serial == serial && c.fate == .flying) = some c → c.n ≠ 0 → c.n ≤ 32 → c.src.toNat % 32 = 0 →
      s.lookWalk t.unit t.ctx c.src.toNat .read = .ok pa f → pa % 128 = c.src.toNat % 128 →
      (∀ o ∈ s.traffic, o.line = some (pa / 128) → ∀ bs, o.kind ≠ .store bs ∧ o.kind ≠ .storePast bs) →
      s.line? .l1 (s.l1Unit t c.src.toNat) t.ctx (c.src.toNat / 128) = none → t.kernel.rollback = false → s.poison = [] →
      (s.gangOf t).bind (·.crew? c.crew) = some cr → ∃ s' t', exec (.copyLanding team serial) s = .next s' ∧ s'.teams.find team = some t' ∧
        (∀ k, k < 8 → padWord s' t c.crew (c.dst / 4 + k) = BitVec.ofNat 32 (leNat ((List.range 4).map fun j =>
          if 4 * k + j < c.n then Memory.read s.mem (pa + 4 * k + j) else 0))) ∧
        (∀ e w, ¬ (e = c.crew ∧ c.dst / 4 ≤ w ∧ w < c.dst / 4 + 8) → padWord s' t e w = padWord s t e w) ∧
        (∀ e w, padFull s' t e w = padFull s t e w) ∧ t'.copies = t.copies.filter (·.serial != c.serial) ∧
        (∀ g b, c.tag = some g → t.tags[g]? = some b → t'.tags[g]? = some ⟨b.count - 1, decide (1 < b.count)⟩) ∧ s'.mem = s.mem) ∧
    (∀ team serial s t c cause, s.teams.find team = some t →
      t.copies.find? (fun (c : Copy) => c.serial == serial && c.fate == .flying) = some c → c.n ≠ 0 →
      s.lookWalk t.unit t.ctx c.src.toNat .read = .trap cause → ∃ s' t', exec (.copyLanding team serial) s = .next s' ∧
        s'.teams.find team = some t' ∧ (∃ k ∈ t'.copies, k.serial = serial ∧ k.fate = .trapped cause) ∧ s'.gangs = s.gangs ∧ s'.mem = s.mem))

/-- R180 to R184, R257: the lane atomics and reductions send one read-modify-write for each active lane, with operand y of each.
Performed, it replaces the number in memory by what R181 gives, the floating-point ones rounded to nearest, and brings what it found. -/
def Obligations.LaneAtomics : Prop :=
  (∀ (d : RegNo) (a : BitVec 6) (w : Bool) (o : OpL) (b : RegNo) (ord : BitVec 3),
    let y (fp : Bool) (r : Team) (l : Nat) : Nat := if w then (r.oplV64 l o fp).toNat else (r.oplV l o).toNat
    let cas (r : Team) (l : Nat) : Nat :=
      if w then (r.V64 l b.toNat).toNat + 2 ^ 64 * (r.V64 l (b.toNat + 2)).toNat else (r.V l b.toNat).toNat + 2 ^ 32 * (r.V l (b.toNat + 1)).toNat
    LaneAtomic (.atadd d a w o ord) d a w ord .add (y false) ∧ LaneAtomic (.atmin d a w o ord) d a w ord .min (y false) ∧
    LaneAtomic (.atmax d a w o ord) d a w ord .max (y false) ∧ LaneAtomic (.atand d a w o ord) d a w ord .and (y false) ∧
    LaneAtomic (.ator d a w o ord) d a w ord .or (y false) ∧ LaneAtomic (.atxor d a w o ord) d a w ord .xor (y false) ∧
    LaneAtomic (.atxch d a w o ord) d a w ord .xch (y false) ∧ LaneAtomic (.atcas d a w b ord) d a w ord .cas cas ∧
    LaneAtomic (.atfadd d a w o ord) d a w ord .fadd (y true) ∧ LaneAtomic (.atfmin d a w o ord) d a w ord .fmin (y true) ∧
    LaneAtomic (.atfmax d a w o ord) d a w ord .fmax (y true) ∧ LaneAtomic (.redadd a w o ord) 0 a w ord .add (y false) ∧
    LaneAtomic (.redfadd a w o ord) 0 a w ord .fadd (y true)) ∧
  (∀ s o pa slice x w op y, Ready s o → o.kind = .rmw w op y → o.place = .mem pa slice x → o.n = atomBytes w → o.lane < 1024 →
    s.poisoned pa o.n = false → (s.winReg o.ctx 0xD8).getLsbD 63 = false →
    let n := atomBytes w
    let old := memNat s.mem pa n
    let signed (v : Nat) : Int := if w then (BitVec.ofNat 64 v).toInt else (BitVec.ofNat 32 v).toInt
    let f := if w then fp64 else fp32
    let new : Nat × BitVec 5 := match op with
      | .add => ((old + y) % 256 ^ n, 0)
      | .min => (if signed old ≤ signed y then old else y, 0)
      | .max => (if signed old ≤ signed y then y else old, 0)
      | .and => (old &&& y, 0)
      | .or => (old ||| y, 0)
      | .xor => (old ^^^ y, 0)
      | .xch => (y, 0)
      | .cas => (if old = y % 256 ^ n then y / 256 ^ n else old, 0)
      | .fadd => f.add 0 old y
      | .fmin => f.minmax false false old y
      | .fmax => f.minmax true false old y
    Swaps s o (Memory.writes s.mem pa (leBytes n new.1)) old new.2 ∧ OutsideKept s.mem (Memory.writes s.mem pa (leBytes n new.1)) pa n)

/-- R206 to R209, R257: the uniform loads, stores and atomics send one access; `sldaq` and `sstrl` pass the L1 by. -/
def Obligations.UniformMemory : Prop :=
  ∀ (d a b : RegNo) (disp : BitVec 10) (e : BitVec 6) (w : Bool) (o : OpL) (ord : BitVec 3),
    let at_ (z : Nat) (r : Team) : DWord := r.S64 a.toNat + disp.signExtend 64 * BitVec.ofNat 64 z
    let pair (r : Team) : DWord := r.S64 (2 * e.toNat)
    let data (z : Nat) (r : Team) : List Byte := (List.range z).map fun k => (r.S (d.toNat + k / 4)).extractLsb' (8 * (k % 4)) 8
    let n := atomBytes w
    let y (r : Team) : Nat := if w then (r.oplS64 o).toNat else (r.oplS o).toNat
    UniformReads (.sld32 d a disp) d 4 true (.load .l1) none (at_ 4) ∧ UniformReads (.sld64 d a disp) d 8 true (.load .l1) none (at_ 8) ∧
    UniformReads (.sldc d a disp) d 4 false (.load .constant) none (at_ 4) ∧ UniformReads (.sldaq d e w ord) d n false .loadPast (some ord) pair ∧
    UniformWrites (.sst32 d a disp) 4 true .store none (at_ 4) (data 4) ∧ UniformWrites (.sst64 d a disp) 8 true .store none (at_ 8) (data 8) ∧
    UniformWrites (.sstrl d e w ord) n false .storePast (some ord) pair (data n) ∧
    UniformAtomic (.satadd d e w o ord) d e w ord .add y ∧ UniformAtomic (.satxch d e w o ord) d e w ord .xch y ∧
    UniformAtomic (.satcas d e w b ord) d e w ord .cas fun r =>
      if w then (r.S64 b.toNat).toNat + 2 ^ 64 * (r.S64 (b.toNat + 2)).toNat else (r.S b.toNat).toNat + 2 ^ 32 * (r.S (b.toNat + 1)).toNat

/-- R248, R249, R397: `chash` gives the name of the identical line of the write domain, else the lowest name of its prefix without a line;
`cput` counts the identical line up, or stores a new line of count 1 whose children each gain a count. A line for which its prefix has no
name left traps with 0x15, a node with an absent child with 0x08, an operand outside the window with 0x06. R250, R251: `cget` copies the
128 bytes of a name's line into the window; `cref` and `cdrop` count a name up and down, a saturated count stays, and at 0 the line is
gone and its bytes are zero; the name 0 does nothing, and an absent name traps. R248, R252: `cswap` replaces the name in memory where it
is the expected one, counts the new name up and the expected one down, and says whether it did; an absent new name, or with a present one
an absent expected name, traps and swaps nothing. -/
def Obligations.Content : Prop :=
  (
    let prefixOf (s : State) (t : Team) (dom : Domain) (bytes : List Byte) : DWord := namePrefix (s.saltOf t.ctx dom) bytes
    (∀ d a s t k dom bytes i, Issues s t (.chash d a) → s.overfull (.chash d a) = false →
      let x := (t.viewAt s.clk).S a.toNat
      let p := prefixOf s t dom bytes
      let q := s.probe dom p (leNat bytes) (x.getLsbD 0)
      s.lineOperand t x = .ok (k, dom, bytes) → s.probePoison dom p (q.same.getD 15) = false → q.same.or q.free = some i →
      PendsIn s (s.countCollisions t.ctx dom p (some i)) t (.chash d a) 14 (.values (uniWrite64 d (p ||| BitVec.ofNat 64 i)) 0)) ∧
    (∀ d a s t k dom bytes, Issues s t (.chash d a) →
      let x := (t.viewAt s.clk).S a.toNat
      let p := prefixOf s t dom bytes
      let q := s.probe dom p (leNat bytes) (x.getLsbD 0)
      s.lineOperand t x = .ok (k, dom, bytes) → s.probePoison dom p 15 = false → q.same = none → q.free = none →
      exec (.chash d a) s = .next (((s.countCollisions t.ctx dom p none).bumpReg t.ctx 0x40 0 16).takeTrap 0x15 0 p)) ∧
    (∀ d a s t k dom bytes i, Issues s t (.cput d a) → s.overfull (.cput d a) = false →
      let x := (t.viewAt s.clk).S a.toNat
      let p := prefixOf s t dom bytes
      let q := s.probe dom p (leNat bytes) (x.getLsbD 0)
      let name := p ||| BitVec.ofNat 64 i
      let s0 := s.countCollisions t.ctx dom p (some i)
      let kids := if x.getLsbD 0 then childNames (leNat bytes) else []
      s.lineOperand t x = .ok (k, dom, bytes) → q.first = some i → s.probePoison dom p i = false →
      (q.same = some i → PendsIn s (s0.countUp k name) t (.cput d a) 14 (.values (uniWrite64 d name) 0)) ∧
      (q.same ≠ some i → (∀ m ∈ kids, (dom.line? m).isSome = true ∧ s.poisoned (dom.metaAt (nameSlot m dom.lines)) 16 = false) →
        let s1 := kids.foldl (fun (s : State) m => s.countUp k m) s0
        let slot := nameSlot name dom.lines
        let line : Line := ⟨name, 1, x.getLsbD 0⟩
        PendsIn s ((s1.updDomain k fun d => { d with table := d.table.insert slot line }).writeBytes (dom.dataAt slot) bytes none) t
          (.cput d a) 14 (.values (uniWrite64 d name) 0)) ∧
      (∀ m, q.same ≠ some i → kids.find? (fun m => (dom.line? m).isNone) = some m → Traps s (.cput d a) 0x08 0xFFFF m)) ∧
    (∀ d a s t k dom bytes, Issues s t (.cput d a) →
      let x := (t.viewAt s.clk).S a.toNat
      let p := prefixOf s t dom bytes
      let q := s.probe dom p (leNat bytes) (x.getLsbD 0)
      s.lineOperand t x = .ok (k, dom, bytes) → s.probePoison dom p 15 = false → q.same = none → q.free = none →
      exec (.cput d a) s = .next (((s.countCollisions t.ctx dom p none).bumpReg t.ctx 0x40 0 16).takeTrap 0x15 0 p)) ∧
    (∀ i d a s t, i = .chash d a ∨ i = .cput d a → Issues s t i →
      let x := (t.viewAt s.clk).S a.toNat
      s.inWindow t (x &&& 0xFFFFFF80#32) 128 = false → Traps s i 0x06 0xFFFF ((x &&& 0xFFFFFF80#32).setWidth 64)) ∧
    (∀ (s : State) (dom : Domain) (p : DWord) (bytes : Nat) (node : Bool) i, (s.probe dom p bytes node).same = some i → i < 16 ∧
      ∃ l, dom.table.find (16 * nameBucket p dom.lines + i) = some l ∧ l.node = node ∧
        memNat s.mem (dom.dataAt (16 * nameBucket p dom.lines + i)) 128 = bytes) ∧
    (∀ (s : State) (dom : Domain) (p : DWord) (bytes : Nat) (node : Bool) i, (s.probe dom p bytes node).free = some i → i < 16 ∧
      dom.table.find (16 * nameBucket p dom.lines + i) = none)) ∧
  ((∀ a b s t k d, Issues s t (.cget a b) → t.kernel.rollback = false → s.poison = [] →
      let off := (t.viewAt s.clk).S a.toNat
      let name := (t.viewAt s.clk).S64 b.toNat
      let c := (decodeOffset t.crew off).1
      let w := (decodeOffset t.crew off).2 / 4
      let pa := d.dataAt (nameSlot name d.lines)
      s.inWindow t off 128 = true → off.toNat % 128 = 0 → s.findName t.ctx name = some (k, d) →
      ∃ s' t', exec (.cget a b) s = .next s' ∧ s'.teams.find s.cur = some t' ∧ GoesAs t t' (nextPc t.pc false) ∧
        (∀ j, j < 32 → padWord s' t c (w + j) = BitVec.ofNat 32 (memNat s.mem (pa + 4 * j) 4)) ∧
        (∀ e v, ¬ (e = c ∧ w ≤ v ∧ v < w + 32) → padWord s' t e v = padWord s t e v) ∧ (∀ e v, padFull s' t e v = padFull s t e v) ∧
        (Untraced s → SameMemory s s')) ∧
    (∀ i a s t, i = .cref a ∨ i = .cdrop a → Issues s t i → (t.viewAt s.clk).S64 a.toNat = 0 → Leaves s i t (nextPc t.pc false)) ∧
    (∀ a s t k d l, Issues s t (.cref a) →
      let name := (t.viewAt s.clk).S64 a.toNat
      name ≠ 0 → s.namePoison t.ctx name = false → s.findName t.ctx name = some (k, d) → d.line? name = some l →
      let line : Line := { l with count := if l.count = 0xFFFFFFFF then l.count else l.count + 1 }
      let dom : Domain := { d with table := d.table.insert (nameSlot name d.lines) line }
      LeavesIn s (.cref a) { s.acquire t with domains := s.domains.insert k dom } t (nextPc t.pc false)) ∧
    (∀ a s t k d l, Issues s t (.cdrop a) →
      let name := (t.viewAt s.clk).S64 a.toNat
      name ≠ 0 → s.namePoison t.ctx name = false → s.findName t.ctx name = some (k, d) → d.line? name = some l →
      (l.count = 0xFFFFFFFF → LeavesIn s (.cdrop a) (s.acquire t) t (nextPc t.pc false)) ∧
      (1 < l.count.toNat → l.count ≠ 0xFFFFFFFF →
        let line : Line := { l with count := l.count - 1 }
        let dom : Domain := { d with table := d.table.insert (nameSlot name d.lines) line }
        LeavesIn s (.cdrop a) { s.acquire t with domains := s.domains.insert k dom } t (nextPc t.pc false)) ∧
      (l.count.toNat ≤ 1 → s.dropPoison k name = false → ∃ s' t' d', exec (.cdrop a) s = .next s' ∧ s'.teams.find s.cur = some t' ∧
        GoesAs t t' (nextPc t.pc false) ∧ s'.domains.find k = some d' ∧ d'.line? name = none ∧
        (Untraced s → ∀ j, j < 128 → Memory.read s'.mem (d.dataAt (nameSlot name d.lines) + j) = 0))) ∧
    (∀ i a s t, i = .cref a ∨ i = .cdrop a → Issues s t i →
      let name := (t.viewAt s.clk).S64 a.toNat
      name ≠ 0 → s.namePoison t.ctx name = false → s.findName t.ctx name = none → Traps s i 0x08 0xFFFF name)) ∧
  (∀ d a b m s s1 t pa page, Issues s t (.cswap d a b m) → s.overfull (.cswap d a b m) = false → t.done = 0 → t.kernel.rollback = false →
      let r := t.viewAt s.clk
      let addr := r.S64 a.toNat
      let old := r.S64 b.toNat
      let new := r.S64 (b.toNat + 2)
      let absent (n : DWord) : Prop := n ≠ 0 ∧ s.findName t.ctx n = none
      let counted : State := match s.findName t.ctx new with | some (k, _) => s.countUp k new | none => s
      let swapped : State := match counted.findName t.ctx old with | some (k, _) => counted.countDown k old | none => counted
      let done (x : Word) (s' : State) (t' : Team) : Prop := (∃ p ∈ t'.pends, p.file = .s ∧ p.n = d.toNat ∧ p.reason = 14 ∧
        p.data = .values [⟨.s, d.toNat, 0, x⟩] 0) ∧ RegsAfter t t' newNothing ∧ t'.still = t.still ∧ OthersKept s s' t
      addrCheck addr 8 = none → seeAll t .rmw false [(noLane, [addr])] s = ([(noLane, [(addr, .ok pa page)])], s1) →
      s.poisoned pa 8 = false → (s.winReg t.ctx 0xD8).getLsbD 63 = false → s.namePoison t.ctx old = false → s.namePoison t.ctx new = false →
      (memNat s.mem pa 8 ≠ old.toNat → ∃ s' t', exec (.cswap d a b m) s = .next s' ∧ s'.teams.find s.cur = some t' ∧ done 0 s' t' ∧
        s'.domains = s.domains ∧ (Untraced s → SameMemory s s')) ∧
      (memNat s.mem pa 8 = old.toNat → absent new → Traps s (.cswap d a b m) 0x08 0xFFFF new) ∧
      (memNat s.mem pa 8 = old.toNat → ¬ absent new → absent old → Traps s (.cswap d a b m) 0x08 0xFFFF old) ∧
      (memNat s.mem pa 8 = old.toNat → ¬ absent new → ¬ absent old →
        (∀ k e l, s.findName t.ctx old = some (k, e) → e.line? old = some l → 1 < l.count.toNat) →
        ∃ s' t', exec (.cswap d a b m) s = .next s' ∧ s'.teams.find s.cur = some t' ∧ done 1 s' t' ∧ s'.domains = swapped.domains ∧
        (Untraced s → s'.mem = Memory.writes s.mem pa (leBytes 8 new.toNat))))

/-- R195, R196, R197, R241, R425: the shading instructions. `scq` looks its lanes' keys up in lane order and gives each its status: of a
valid tile of the current version 0, of one in flight 1, of a key that no domain of the context holds 3, else 2 or 3. Fills, invalidations
and frames act on the write domain; a fill code above 1 is illegal, and without a write domain, or for another domain's frame, they trap. -/
def Obligations.Shading : Prop :=
  (∀ d a s t, Issues s t (.scq d a) → s.overfull (.scq d a) = false →
    let x := (s.acquire t).lookupTiles t d.toNat (laneKeys (t.viewAt s.clk) a)
    PendsIn s x.1 t (.scq d a) 8 (.values x.2 0)) ∧
  (∀ (s : State) (t : Team) (d l : Nat) (key : DWord) ks, s.lookupTiles t d ((l, key) :: ks) =
    (((s.lookupTile t key).1.lookupTiles t d ks).1, ⟨.v, d, l, (s.lookupTile t key).2.1⟩ :: ⟨.v, d + 1, l, (s.lookupTile t key).2.2⟩ ::
      ((s.lookupTile t key).1.lookupTiles t d ks).2)) ∧
  (∀ (s : State) (t : Team) (key : DWord), ((s.contexts.find t.ctx).bind fun c => s.keyDomain c key) = none →
    s.lookupTile t key = (s.bumpReg t.ctx 0x88 16 16, 3, 0)) ∧
  (∀ (s : State) (t : Team) (key : DWord) pos dom d, ((s.contexts.find t.ctx).bind fun c => s.keyDomain c key) = some (pos, dom, d) →
    let here := (s.keyTags key dom).filter fun (p : Nat × Tag) => p.2.version == (s.object d (keyObject key)).1
    ((∃ p ∈ here, p.2.state = .valid) → (s.lookupTile t key).2.1 = 0) ∧
    ((∀ p ∈ here, p.2.state ≠ .valid) → (∃ p ∈ here, p.2.state = .inFlight) →
      (s.lookupTile t key).2.1 = 1 ∧ (s.lookupTile t key).1 = s) ∧
    ((∀ p ∈ here, p.2.state ≠ .valid ∧ p.2.state ≠ .inFlight) → (s.lookupTile t key).2.1 = 2 ∨ (s.lookupTile t key).2.1 = 3)) ∧
  (∀ a b s t dom d, Issues s t (.scfill a b) → s.writeDomain t = some (dom, d) →
    let r := t.viewAt s.clk
    (∀ l ∈ r.actives, (r.V l b.toNat).toNat ≤ 1) → LeavesIn s (.scfill a b)
      (r.actives.foldl (fun (s : State) l => s.fillTile t.ctx (r.V64 l a.toNat) (r.V l b.toNat) dom d) s) t (nextPc t.pc false)) ∧
  (∀ a b s t l, Issues s t (.scfill a b) → l ∈ (t.viewAt s.clk).actives → 1 < ((t.viewAt s.clk).V l b.toNat).toNat →
    Traps s (.scfill a b) 0x01 (Instr.scfill a b).info 0) ∧
  (∀ a b s t l, Issues s t (.scfill a b) → s.writeDomain t = none → (∀ l ∈ (t.viewAt s.clk).actives, ((t.viewAt s.clk).V l b.toNat).toNat ≤ 1) →
    (t.viewAt s.clk).actives.head? = some l → Traps s (.scfill a b) 0x08 l ((t.viewAt s.clk).V64 l a.toNat)) ∧
  (∀ a s t dom d, Issues s t (.scinv a) → s.writeDomain t = some (dom, d) →
    let r := t.viewAt s.clk
    LeavesIn s (.scinv a) (r.actives.foldl (fun (s : State) l => s.invalidateObject t.ctx ((r.V l a.toNat).toNat % 2 ^ 24) d) s) t
      (nextPc t.pc false)) ∧
  (∀ a s t l, Issues s t (.scinv a) → s.writeDomain t = none → (t.viewAt s.clk).actives.head? = some l →
    Traps s (.scinv a) 0x08 l (BitVec.ofNat 64 (((t.viewAt s.clk).V l a.toNat).toNat % 2 ^ 24))) ∧
  (∀ a s t dom d, Issues s t (.scframe a) → s.writeDomain t = some (dom, d) → ((t.viewAt s.clk).S a.toNat).toNat % 4096 = d.id →
    LeavesIn s (.scframe a) (s.winWrite d (headerOff + 16) 2 ((s.frameOf d + 1) % 65536)) t (nextPc t.pc false)) ∧
  (∀ a s t, Issues s t (.scframe a) → (∀ dom d, s.writeDomain t = some (dom, d) → ((t.viewAt s.clk).S a.toNat).toNat % 4096 ≠ d.id) →
    Traps s (.scframe a) 0x08 0xFFFF (BitVec.ofNat 64 (((t.viewAt s.clk).S a.toNat).toNat % 4096)))

/-- R185, R186: a `qpush` that reaches its queue with no other waiting there puts a beat for each lane group of EX, zero for the lanes
outside EX, into the queue when it has room for all of them; `qpop` makes its register pending on the beats of its lane groups; both are
illegal in a kernel without a control team. -/
def Obligations.QueueBeats : Prop :=
  (∀ d a s t x, Issues s t (.qpush d a) → t.kernel.hasCtl = true → s.arrayOf t = some x → Afresh t →
    x.pushers.getD d.toNat [] = [] →
    let r := t.viewAt s.clk
    let beats := (groupsOf t.ex).map fun w => (BitVec.ofNat 1024 (leNat ((List.range 32).flatMap fun p =>
      leBytes 4 (if r.ex.getLsbD (32 * w + p) then (r.V (32 * w + p) a.toNat).toNat else 0))), (0 : Word))
    (x.queues.getD d.toNat []).length + beats.length ≤ 64 → LeavesIn s (.qpush d a)
      (State.updArray { s with serial := s.serial + 1 } t.gang fun x => { x with
        queues := x.queues.modify d.toNat fun l => l ++ beats, pushers := x.pushers.set d.toNat [] }) t (nextPc t.pc false)) ∧
  (∀ d a s t, Issues s t (.qpush d a) → (t.kernel.hasCtl = false ∨ s.arrayOf t = none) →
    Traps s (.qpush d a) 0x01 (Instr.qpush d a).info 0) ∧
  (∀ d a s t x, Issues s t (.qpop d a) → t.kernel.hasCtl = true → s.arrayOf t = some x → s.overfull (.qpop d a) = false →
    PendsIn s s t (.qpop d a) 5 (.beats a.toNat t.ex)) ∧
  (∀ d a s t, Issues s t (.qpop d a) → (t.kernel.hasCtl = false ∨ s.arrayOf t = none) → Traps s (.qpop d a) 0x01 (Instr.qpop d a).info 0)

/-- R243, R244, R246: a matrix instruction puts its command at the end of the array's queue, which then goes as far as it goes at once;
the path waits while sixteen commands, a streaming drain among them, are queued. `mfmt` reads its block at issue, as a generic load does.
`mwait` waits until the array is idle, gives its status and clears it. -/
def Obligations.MatrixCommands : Prop :=
  let puts (i : Instr) (ok : State → Team → Prop) (c : State → Team → Cmd) : Prop :=
    (∀ s t x, Issues s t i → ok s t → s.arrayOf t = some x → x.queued.length < 16 →
      LeavesIn s i ((s.updArray t.gang fun a => { a with cmds := a.cmds ++ [c s t] }).kick t.gang) t (nextPc t.pc i.hasLit)) ∧
    (∀ s t x, Issues s t i → ok s t → s.arrayOf t = some x → 16 ≤ x.queued.length → (∀ p ∈ t.slots, p.v = false) →
      ∃ s' t', exec i s = .next s' ∧ s'.teams.find s.cur = some t' ∧ t'.blk = some .commandRoom ∧ t'.pc = t.pc ∧
        RegsAfter t t' newNothing ∧ t'.still = t.still ∧ s'.gangs = s.gangs ∧ SameMemory s s')
  let any (_ : State) (_ : Team) : Prop := True
  (∀ d a, puts (.wbld d a) (fun s t => addrCheck ((t.viewAt s.clk).S64 a.toNat) 128 = none)
    fun s t => .wbld d.toNat ((t.viewAt s.clk).S64 a.toNat) t.pc) ∧
  (∀ d a n, puts (.mma d a n) any fun s t => .mma d.toNat a.toNat ((t.viewAt s.clk).selr n 7) t.pc) ∧
  (∀ d, puts (.mzero d) any fun _ _ => .zero d.toNat) ∧ (∀ d, puts (.mdrain d) any fun _ _ => .drain d.toNat) ∧
  (∀ n, puts (.mburst n) any fun s t => .burst ((t.viewAt s.clk).selr n 7)) ∧
  (∀ d a s t c, Issues s t (.wbld d a) → addrCheck ((t.viewAt s.clk).S64 a.toNat) 128 = some c →
    Traps s (.wbld d a) c 0xFFFF ((t.viewAt s.clk).S64 a.toNat)) ∧
  (∀ a s t x pa page s1 s2 v, Issues s t (.mfmt a) → s.arrayOf t = some x → x.queued.length < 16 → t.done = 0 →
    let addr := (t.viewAt s.clk).S64 a.toNat
    addrCheck addr 32 = none → seeAll t .read false [(noLane, [addr])] s = ([(noLane, [(addr, .ok pa page)])], s1) →
    s1.teamLoad t addr 32 (.ok pa page) = (s2, some v) →
    LeavesIn s (.mfmt a) ((s2.updArray t.gang fun a => { a with cmds := a.cmds ++ [.fmt (BitVec.ofNat 256 v)] }).kick t.gang) t
      (nextPc t.pc false)) ∧
  (∀ d s t x, Issues s t (.mwait d) → s.overfull (.mwait d) = false → s.arrayOf t = some x → x.idle = true →
    PendsIn s (s.updArray t.gang fun a => { a with corr := 0, fmtrej := false, wblderr := false, mmaskip := false }) t (.mwait d) 13
      (.values (uniWrite d (BitVec.ofNat 32 (x.corr + 256 * (if x.fmtrej then 1 else 0) + 512 * (if x.wblderr then 1 else 0) +
        1024 * (if x.mmaskip then 1 else 0)))) 0)) ∧
  (∀ d s t x, Issues s t (.mwait d) → s.arrayOf t = some x → x.idle = false → (∀ p ∈ t.slots, p.v = false) →
    ∃ s' t', exec (.mwait d) s = .next s' ∧ s'.teams.find s.cur = some t' ∧ t'.blk = some .arrayIdle ∧ t'.pc = t.pc ∧
      RegsAfter t t' newNothing ∧ t'.still = t.still ∧ s'.gangs = s.gangs ∧ SameMemory s s')

/-- R189, R190, R191, R396: `oenter` makes its predicate pending and sends one operation for each key of its lanes to the key's cell;
`oleave` and `oskip` send one for each lane; in a context without an area the lowest lane's trap is owed or taken. -/
def Obligations.OrderedSections : Prop :=
  (∀ d a b s t x, Issues s t (.oenter d a b) → s.overfull (.oenter d a b) = false → s.areaOf t.ctx = some x →
    let r := t.viewAt s.clk
    let lanes : List EnterLane := r.actives.map fun l => (⟨l, r.V64 l a.toNat, r.V l b.toNat⟩ : EnterLane)
    let keys := (lanes.map (·.key)).eraseDups
    ∃ s' t' p, exec (.oenter d a b) s = .next s' ∧ s'.teams.find s.cur = some t' ∧ p ∈ t'.pends ∧ p.file = .p ∧ p.n = d.toNat ∧
      p.reason = 7 ∧ p.data = .entering s.serial ∧ RegsAfter t t' newNothing ∧ t'.fstat = t.fstat ∧
      t'.still = { t with enters := t.enters ++ [(⟨s.serial, d.toNat, t.ownClk s.clk, lanes, keys, [], [], [], []⟩ : Enter)] }.still ∧
      StepsOn (.oenter d a b) t t' ∧ (∀ k, k ≠ s.cur → s'.teams.find k = s.teams.find k) ∧ (Untraced s → SameMemory s s') ∧
      s'.agenda = s.agenda ++ keys.map fun (key : DWord) => (⟨sectStream s.cur key, s.clk, .oenterArrival s.cur s.serial key⟩ : Due)) ∧
  (∀ a s t x, Issues s t (.oleave a) → s.areaOf t.ctx = some x →
    let r := t.viewAt s.clk
    LeavesIn s (.oleave a) { s with agenda := s.agenda ++ r.actives.map fun l =>
      (⟨sectStream s.cur (r.V64 l a.toNat), s.clk, .oleaveArrival t.ctx t.ident (r.V64 l a.toNat)⟩ : Due) } t (nextPc t.pc false)) ∧
  (∀ a b s t x, Issues s t (.oskip a b) → s.areaOf t.ctx = some x →
    let r := t.viewAt s.clk
    LeavesIn s (.oskip a b) { s with agenda := s.agenda ++ r.actives.map fun l =>
      (⟨sectStream s.cur (r.V64 l a.toNat), s.clk, .oskipArrival t.ctx (r.V64 l a.toNat) (r.V l b.toNat)⟩ : Due) } t (nextPc t.pc false)) ∧
  (∀ d a b s t l, Issues s t (.oenter d a b) → s.areaOf t.ctx = none → (t.viewAt s.clk).actives.head? = some l →
    let r := t.viewAt s.clk
    ∃ s' t', exec (.oenter d a b) s = .next s' ∧ s'.teams.find s.cur = some t' ∧ RegsAfter t t' newNothing ∧
      t'.still = { t with sectTraps := t.sectTraps ++ [(⟨d.toNat, 0x13, l, r.V64 l a.toNat, r.V l b.toNat, 0, 0, 0⟩ : SectTrap)] }.still ∧
      StepsOn (.oenter d a b) t t' ∧ (Untraced s → SameMemory s s')) ∧
  (∀ a s t l, Issues s t (.oleave a) → s.areaOf t.ctx = none → (t.viewAt s.clk).actives.head? = some l →
    let key := (t.viewAt s.clk).V64 l a.toNat
    exec (.oleave a) s = .next (((s.secCount t.ctx 0).updMe fun t => { t with
      sectTraps := (⟨0, 0x13, l, key, 0, 0, 0, 0⟩ : SectTrap) :: t.sectTraps }).takeTrap 0x13 l key)) ∧
  (∀ a b s t l, Issues s t (.oskip a b) → s.areaOf t.ctx = none → (t.viewAt s.clk).actives.head? = some l →
    let r := t.viewAt s.clk
    exec (.oskip a b) s = .next (((s.secCount t.ctx 0).updMe fun t => { t with
      sectTraps := (⟨0, 0x13, l, r.V64 l a.toNat, r.V l b.toNat, 0, 0, 0⟩ : SectTrap) :: t.sectTraps }).takeTrap 0x13 l (r.V64 l a.toNat)))

/-- R21, R22, R198, R199, R237, R239, R240: `job` without a parameter block puts the card that its template forms behind the others of the
cluster and leaves a pending handle; an offset out of the window or not aligned traps. `spawn` puts a task into the deck and leaves a
pending handle; for a target that the context lacks its result is FAULTED with the event, and at depth 8 it traps. `fcancel` answers 0 for
a handle without a live job, and cancels, where one cluster has cards, a job whose card has not started, and a task that still waits in a
deck. `trc` puts a ray of each active lane into the unit, in lane order, where the unit has room for all; a stale acceleration root traps. -/
def Obligations.Engines : Prop :=
  (∀ d a b s t x s' slot h c c', Issues s t (.job d a b) → s.overfull (.job d a b) = false → condHolds s s.cur t .cardRoom = true →
    let r := t.viewAt s.clk
    r.S b.toNat = 0xFFFFFFFF → s.contexts.find t.ctx = some x → s.newFuture t.ctx 1 = some (s', slot, h) →
    c = Card.new s.serial t.ctx ((r.S a.toNat).toNat / 256 % 16) (x.nextSeq t.cluster ((r.S a.toNat).toNat / 256 % 16))
      ((r.S a.toNat).toNat % 256) none false (some slot) (some t.gang) t.crew t.depth t.prio 0xFFFFFFFF false →
    s.formCard t.cluster c = .ok c' → c'.fail = none → ∃ s2 t' p k, exec (.job d a b) s = .next s2 ∧ s2.teams.find s.cur = some t' ∧
      RegsAfter t t' (newUni d h) ∧ p ∈ t'.pends ∧ p.file = .s ∧ p.n = d.toNat ∧ p.data = .future ∧ t'.still = t.still ∧
      StepsOn (.job d a b) t t' ∧ s2.clusters.find t.cluster = some k ∧
      k.cards = (match s.clusters.find t.cluster with | some k => k.cards | none => []) ++ [c'] ∧ (Untraced s → SameMemory s s2)) ∧
  (∀ d a b s t off, Issues s t (.job d a b) → (t.viewAt s.clk).S b.toNat = off → off ≠ 0xFFFFFFFF →
    (s.inWindow t off 32 = false → Traps s (.job d a b) 0x06 0xFFFF (off.setWidth 64)) ∧
    (s.inWindow t off 32 = true → off.toNat % 32 ≠ 0 → Traps s (.job d a b) 0x07 0xFFFF (off.setWidth 64))) ∧
  (∀ d a b s t x s' slot h, Issues s t (.spawn d a b) → s.overfull (.spawn d a b) = false → condHolds s s.cur t .deckRoom = true →
    let r := t.viewAt s.clk
    let off := r.S b.toNat
    let words : List Word := (List.range 8).map fun k => s.spadWord t off k
    t.depth ≠ 8 → s.inWindow t off 32 = true → off.toNat % 32 = 0 → s.spadPoison t off 8 = false → s.contexts.find t.ctx = some x →
    s.newFuture t.ctx 2 = some (s', slot, h) → (r.S a.toNat).toNat % 65536 < x.tcount →
    ∃ s2 t' p k, exec (.spawn d a b) s = .next s2 ∧ s2.teams.find s.cur = some t' ∧ RegsAfter t t' (newUni d h) ∧ p ∈ t'.pends ∧
      p.file = .s ∧ p.n = d.toNat ∧ p.data = .future ∧ t'.still = t.still ∧ StepsOn (.spawn d a b) t t' ∧
      s2.clusters.find t.cluster = some k ∧
      k.deck = (match s.clusters.find t.cluster with | some k => k.deck | none => []) ++
        [⟨t.ctx, (r.S a.toNat).toNat % 65536, words.headD 0, words, false, t.depth + 1, some slot, t.prio, s.clk, none, none, none, s'.serial⟩] ∧
      (Untraced s → SameMemory s s2)) ∧
  (∀ d a b s t x s' slot h, Issues s t (.spawn d a b) → s.overfull (.spawn d a b) = false → condHolds s s.cur t .deckRoom = true →
    let r := t.viewAt s.clk
    let off := r.S b.toNat
    let target := (r.S a.toNat).toNat % 65536
    t.depth ≠ 8 → s.inWindow t off 32 = true → off.toNat % 32 = 0 → s.spadPoison t off 8 = false → s.contexts.find t.ctx = some x →
    s.newFuture t.ctx 2 = some (s', slot, h) → x.tcount ≤ target →
    let s2 := (s'.completeFuture t.ctx 2 slot 2).raise t.ctx 7 [BitVec.ofNat 64 target]
    ∀ u, s2.teams.find s.cur = some u → PendsIn s s2 u (.spawn d a b) 6 (.values [⟨.s, d.toNat, 0, 2⟩] 0)) ∧
  (∀ d a b s t, Issues s t (.spawn d a b) → t.depth = 8 → Traps s (.spawn d a b) 0x0F 0 0) ∧
  (∀ d a s t, Issues s t (.fcancel d a) → s.overfull (.fcancel d a) = false → rawHandle t a = none →
    let h := (t.viewAt s.clk).S a.toNat
    (∀ x f, s.contexts.find t.ctx = some x → x.futures.find (futKey (h.toNat / 2 ^ 29) (h.toNat / 4096 % 131072)) = some f →
      f.live = false ∨ f.gen ≠ h.toNat % 4096) → Awaits s t (.fcancel d a) 6 (newUni d 0) 0) ∧
  (∀ d a s t x f k c, Issues s t (.fcancel d a) → s.overfull (.fcancel d a) = false → rawHandle t a = none →
    let h := (t.viewAt s.clk).S a.toNat
    let slot := h.toNat / 4096 % 131072
    h.toNat / 2 ^ 29 = 1 → s.contexts.find t.ctx = some x → x.futures.find (futKey 1 slot) = some f → f.live = true →
    f.gen = h.toNat % 4096 → s.clusters = [(k, c)] → (∃ e ∈ c.cards, e.ctx = t.ctx ∧ e.future = some slot ∧ e.started = false ∧
      e.fail.isNone = true ∧ e.cancelled = false) → ∃ s' t' p e, exec (.fcancel d a) s = .next s' ∧ s'.teams.find s.cur = some t' ∧
      p ∈ t'.pends ∧ p.file = .s ∧ p.n = d.toNat ∧ p.data = .values [⟨.s, d.toNat, 0, 1⟩] 0 ∧ RegsAfter t t' newNothing ∧
      (∃ c', s'.clusters.find k = some c' ∧ e ∈ c'.cards ∧ e.future = some slot ∧ e.cancelled = true)) ∧
  (∀ d a s t x f k, Issues s t (.fcancel d a) → s.overfull (.fcancel d a) = false → rawHandle t a = none →
    let h := (t.viewAt s.clk).S a.toNat
    let slot := h.toNat / 4096 % 131072
    h.toNat / 2 ^ 29 = 2 → s.contexts.find t.ctx = some x → x.futures.find (futKey 2 slot) = some f → f.live = true →
    f.gen = h.toNat % 4096 → s.deckWait t.ctx slot = some k →
    let s2 := ((s.updCluster k fun k => { k with deck := k.deck.filter fun (e : DeckEntry) =>
      !(!e.cont && e.ctx == t.ctx && e.future == some slot) }).refillDeck k).completeFuture t.ctx 2 slot 1
    ∀ u, s2.teams.find s.cur = some u → PendsIn s s2 u (.fcancel d a) 6 (.values [⟨.s, d.toNat, 0, 1⟩] 0)) ∧
  (∀ a b spec s t s1 n, Issues s t (.trc a b spec) →
    let r := t.viewAt s.clk
    let sreg := (spec : Word).toNat / 256 % 128
    let room := match s1.clusters.find t.cluster with | some k => k.rays.length | none => 0
    Afresh t → t.kept = [] → s.readSlot t (r.S sreg) (r.actives.headD 0) 5 = .ok (s1, n) → slotStale n (r.S sreg) 3 = false → rootBad n = false →
    room + r.actives.length ≤ 2048 → ∃ s' t' k, exec (.trc a b spec) s = .next s' ∧ s'.teams.find s.cur = some t' ∧
      GoesAs t t' (nextPc t.pc true) ∧ s'.clusters.find t.cluster = some k ∧
      k.rays = (match s.clusters.find t.cluster with | some k => k.rays | none => []) ++ r.actives.mapIdx fun j l =>
        Ray.new (s1.serial + j) t ((List.range 8).map fun i => r.V l (a.toNat + i))
          ((List.range (spec.toNat % 16)).map fun i => r.V l (b.toNat + i)) spec (r.S (sreg + 1)) n) ∧
  (∀ a b spec s t s1 n, Issues s t (.trc a b spec) →
    let r := t.viewAt s.clk
    let sreg := (spec : Word).toNat / 256 % 128
    t.kept = [] → s.readSlot t (r.S sreg) (r.actives.headD 0) 5 = .ok (s1, n) → (slotStale n (r.S sreg) 3 = true ∨ rootBad n = true) →
    Traps s (.trc a b spec) 0x0B 0 ((r.S sreg).setWidth 64))

/-- R27: when the running path of a team is blocked on something that has not come about, the oldest deferred path that can run takes its
place, and the lowest slot among equally old ones; the blocked path goes into that slot with its PC, its EX, its level and what it waits
for. -/
def Obligations.PathSwitches : Prop :=
  (∀ team s t c i p, s.teams.find team = some t → t.idle = false → t.tlevel = false → t.noPath = false → t.blk = some c →
    condHolds s team t c = false → bestSlot s team t = some i → t.slots[i]? = some p → ∃ s' t' q, exec (.pathSwitch team) s = .next s' ∧
      s'.teams.find team = some t' ∧ t'.pc = p.pc ∧ t'.ex = p.mask &&& t.live ∧ t'.level = p.lvl ∧ t'.blk = none ∧
      t'.slots = t.slots.set i q ∧ q.v = true ∧ q.blk = some c ∧ q.pc = t.pc ∧ q.mask = t.ex ∧ q.lvl = t.level ∧ q.age = 0 ∧
      RegsAfter t t' newNothing ∧ t'.fstat = t.fstat ∧ t'.pends = t.pends ∧ t'.still = t.still ∧ (Untraced s → SameMemory s s')) ∧
  (∀ s id t i, bestSlot s id t = some i → ∃ p, t.slots[i]? = some p ∧ slotReady s id t p = true ∧
    ∀ j q, t.slots[j]? = some q → slotReady s id t q = true → q.age ≤ p.age ∧ (j < i → q.age < p.age))

/-- R45, R51, R52, R342: a bundle is fetched from the code of the kernel, and one outside it traps; a team with a request that stands at a
safe-point bundle is redirected into its save routine, with all its live lanes, one path and no levels. -/
def Obligations.BundlesAndSafePoints : Prop :=
  (∀ team s t pa f, s.teams.find team = some t → t.idle = false → t.bundle = none → t.pc.extractLsb' 2 2 ≠ 1#2 →
    let off := (bundleOf t.pc).toNat
    let b := BitVec.ofNat 128 (memNat s.mem pa 16)
    0x80 ≤ off → off < 0x80 + t.kernel.codeSize → s.look t.unit t.ctx (t.kernel.kbase + off) .fetch = .ok pa f →
    t.kernel.kbase % 16 = 0 → pa % 128 = (t.kernel.kbase + off) % 128 → s.line? .code t.unit t.ctx ((t.kernel.kbase + off) / 128) = none → s.poison = [] →
    (Control.ofWord (bundleWord b 0)).kind ≠ 2#2 → bundleBad b t.kernel.spCount = false →
    (Control.ofWord (bundleWord b 0)).isLit (t.pc.extractLsb' 2 2).toNat = false →
    ∃ s' t', exec (.bundleFetch team) s = .next s' ∧ s'.teams.find team = some t' ∧ t'.bundle = some (off, b) ∧ t'.pc = t.pc ∧
      t'.ex = t.ex ∧ RegsAfter t t' newNothing ∧ s'.mem = s.mem ∧ s'.gangs = s.gangs) ∧
  (∀ team s t, s.teams.find team = some t → t.idle = false → t.bundle = none →
    ((bundleOf t.pc).toNat < 0x80 ∨ 0x80 + t.kernel.codeSize ≤ (bundleOf t.pc).toNat) →
    exec (.bundleFetch team) s = .next (({ s with cur := team }.updMe fun t => { t with bundle := none }).takeTrap 0x02 0 0)) ∧
  (∀ team s t o b, s.teams.find team = some t → t.bundle = some (o, b) → t.atSafePoint = true →
    let spidx := (Control.ofWord (bundleWord b 0)).spidx.toNat
    let entry := t.kernel.kbase + t.kernel.spTable + 8 * spidx
    s.devBars t.ctx entry 8 .read = none → s.devBars t.ctx (t.saveBase - 2048) 2048 .write = none →
    ∃ s' t', exec (.safePointRedirection team) s = .next s' ∧ s'.teams.find team = some t' ∧ t'.saving = true ∧ t'.saveIdx = spidx ∧
      t'.ex = t.live ∧ t'.live = t.live ∧ (∀ p ∈ t'.slots, p.v = false) ∧ t'.level = baseLevel ∧ RegsAfter t t' newNothing ∧
      ∀ k, k ≠ team → s'.teams.find k = s.teams.find k)

/-- R491: a command whose sequence follows LASTACC, on a channel with fewer than 64 outstanding, is acknowledged, performed and completed;
any other sequence is answered with LASTACC and not performed; one that finds 64 outstanding is dropped, as is every message that no port
brings. -/
def Obligations.HostChannel : Prop :=
  ∀ (i : Instr) (ch seq : Nat) (s : State), CommandOf i ch seq →
    (s.reached ch = false → exec i s = .next s) ∧
    (s.reached ch = true → seqDist seq (s.channel ch).lastAcc ≠ 1 → exec i s = .next (s.ack ch)) ∧
    (s.reached ch = true → seqDist seq (s.channel ch).lastAcc = 1 → 64 ≤ (s.channel ch).outstanding → exec i s = .next s) ∧
    (Accepts s ch seq → ∃ s', exec i s = .next s' ∧ s'.channel ch = ⟨BitVec.ofNat 32 seq, BitVec.ofNat 32 seq, (s.channel ch).outstanding,
      (s.channel ch).acks ++ [BitVec.ofNat 32 seq]⟩ ∧ ∀ k, k ≠ ch → s'.channels.find k = s.channels.find k)

/-- R326, R39: a launch of a kernel whose header is good, whose crews fit a core and whose arguments are in range is accepted as a grid,
under an identifier that no live grid of the context has; otherwise it is rejected with its cause. A launch on a context that the
partition does not own starts nothing (how it is answered is log entry 25). -/
def Obligations.Launches : Prop :=
  (∀ ch seq ctx kbase gangs tail prio param swap (s : State), Accepts s ch seq → s.owns ch ctx = false →
    ∃ s', exec (.launch ch seq ctx kbase gangs tail prio param swap) s = .next s' ∧ s'.grids = s.grids ∧ s'.gangs = s.gangs ∧
      s'.teams = s.teams ∧ s'.contexts = s.contexts ∧ s'.mem = s.mem) ∧
  ∀ ch seq ctx kbase gangs tail prio param swap (s : State) (c : Context), Accepts s ch seq → s.contexts.find ctx = some c →
    s.owns ch ctx = true →
    let i : Instr := .launch ch seq ctx kbase gangs tail prio param swap
    let good := kbase % 128 = 0 ∧ gangs ≠ 0 ∧ gangs ≤ 2 ^ 24 ∧ prio ≤ 7 ∧ param % 8 = 0 ∧ param < 2 ^ 64 ∧ swap % 4096 = 0
    (∀ h, c.terminated = false → good → s.readHeader ctx kbase = .ok h →
      (tail = 0 ∨ tail < (h.roles.headD ⟨0, 0, 0, 0, false, 0⟩).lanes) → h.fitsEmpty = true → ∃ s' gr, exec i s = .next s' ∧
      s'.grids.find (gridKey ctx gr.id) = some gr ∧ gr.id < 0xFFFFFE ∧
      (s.grids.length < 0xFFFFFE → ∀ x ∈ s.grids, x.2.ctx = ctx → x.2.id ≠ gr.id) ∧
      gr.ctx = ctx ∧ gr.part = c.part ∧ gr.prio = prio ∧ gr.gangs = gangs ∧ gr.tail = tail ∧ gr.param = BitVec.ofNat 64 param ∧
      gr.swap = swap ∧ gr.kernel = h.kernel ∧ gr.roles = h.roles ∧ gr.pref = h.pref ∧ gr.fall = h.fall ∧ gr.check = h.check ∧
      gr.nextGang = 0 ∧ gr.retired = 0 ∧ s'.teams = s.teams ∧ s'.mem = s.mem) ∧
    (c.terminated = false → good → s.readHeader ctx kbase = .bad → ∃ s', exec i s = .next s' ∧
      Raises s s' ctx 2 [BitVec.ofNat 64 seq, 1] ∧ s'.grids = s.grids) ∧
    (∀ h, c.terminated = false → good → s.readHeader ctx kbase = .ok h →
      (tail = 0 ∨ tail < (h.roles.headD ⟨0, 0, 0, 0, false, 0⟩).lanes) → h.fitsEmpty = false → ∃ s', exec i s = .next s' ∧
      Raises s s' ctx 2 [BitVec.ofNat 64 seq, 2] ∧ s'.grids = s.grids) ∧
    (c.terminated = true → ∃ s', exec i s = .next s' ∧ Raises s s' ctx 2 [BitVec.ofNat 64 seq, 3] ∧ s'.grids = s.grids) ∧
    (c.terminated = false → param < 2 ^ 64 → ¬ good → ∃ s', exec i s = .next s' ∧ Raises s s' ctx 2 [BitVec.ofNat 64 seq, 4] ∧
      s'.grids = s.grids)

/-- R492: what the commands on a context do: INVAL leaves no translation and no cached line of the range; KILL removes the team of an
identity; TERM terminates; EVREAD sends the held events from the one asked for on; SVCROLE names the service grid; a debug grant sets the
holder, its node and its rights under the next generation, and a revocation clears them with the breakpoints, watchpoints, trigger slots,
edits and halts of the debugger; a command refused is answered with its sequence and OP. -/
def Obligations.ContextCommands : Prop :=
  ∀ ch seq ctx (s : State) (c : Context), Accepts s ch seq → s.contexts.find ctx = some c → s.owns ch ctx = true →
    (∀ base len, base % 4096 = 0 → len % 4096 = 0 → ∃ s', exec (.inval ch seq ctx base len) s = .next s' ∧
      (∀ x ∈ s'.translations, x.meets ctx base len = false) ∧ ∀ l ∈ s'.caches, l.meets ctx base len = false) ∧
    (∀ ident id t, (s.teams.find? fun (p : Nat × Team) => p.2.ctx == ctx && p.2.ident == ident) = some (id, t) →
      ∃ s', exec (.kill ch seq ctx ident) s = .next s' ∧ s'.teams.find id = none) ∧
    (c.terminated = false → ∃ s' c', exec (.term ch seq ctx) s = .next s' ∧ s'.contexts.find ctx = some c' ∧ c'.terminated = true ∧
      c'.service = none ∧ ∀ f ∈ s'.faults, f.ctx ≠ ctx) ∧
    (∀ first count, count ≤ 64 →
      let age := (c.eventSeq + 2 ^ 32 - first % 2 ^ 32) % 2 ^ 32
      age ≤ c.events.length → age < 2 ^ 31 → ∃ s', exec (.evread ch seq ctx first count) s = .next s' ∧
      s'.sent = s.sent ++ ((c.events.drop (c.events.length - age)).take count).map fun e => ⟨c.channel, eventWords e ctx c.part⟩) ∧
    (∀ grid gr, s.grids.find (gridKey ctx grid) = some gr → ∃ s' c', exec (.svcrole ch seq ctx grid) s = .next s' ∧
      s'.contexts.find ctx = some c' ∧ c'.service = some grid ∧ s'.teams = s.teams) ∧
    (∀ holder node rights, c.mbox ≠ 0 → holder = 1 ∨ holder = 2 → ∃ s', exec (.debugGrant ch seq ctx holder node rights) s = .next s' ∧
      let r := s'.winReg ctx (dbg 0)
      (r.extractLsb' 62 2).toNat = holder ∧ (r.extractLsb' 32 16).toNat = node % 2 ^ 16 ∧ (r.extractLsb' 0 4).toNat = rights % 16 ∧
      r.extractLsb' 16 16 = (s.winReg ctx (dbg 0)).extractLsb' 16 16 + 1 ∧ s'.teams = s.teams) ∧
    (∃ s', exec (.debugRevoke ch seq ctx) s = .next s' ∧ (s'.winReg ctx (dbg 0)).extractLsb' 62 2 = 0#2 ∧
      (s'.winReg ctx (dbg 0)).extractLsb' 0 4 = 0#4 ∧
      (s'.winReg ctx (dbg 0)).extractLsb' 16 16 = (s.winReg ctx (dbg 0)).extractLsb' 16 16 + 1 ∧
      (∀ off ∈ revokedRegs, s'.winReg ctx off = 0) ∧
      ∀ k t, s'.teams.find k = some t → t.ctx = ctx → t.edits = [] ∧ t.stepState = 0 ∧ ¬ (1 ≤ t.halt ∧ t.halt ≤ 5)) ∧
    (∀ op, ∃ s', exec (.commandRefused ch seq op ctx) s = .next s' ∧
      Raises s s' ctx 9 [BitVec.ofNat 64 seq, BitVec.ofNat 64 op] ∧ s'.teams = s.teams ∧ s'.mem = s.mem)

/-- R495, R391, R422, R492, R500: CTXCFG gives a context its descriptor's fields; a domain is created with its heap and an empty line
table whose lines read as zero, and deleted with its bytes scrubbed, unless a context names it; an attestation takes the next leaf. -/
def Obligations.PartitionCommands : Prop :=
  (∀ ch seq ctx (desc : BitVec 1024) (s : State), Accepts s ch seq → ctx < 64 → (s.contexts.find ctx = none ∨ s.owns ch ctx = true) →
    descOk desc.toNat = true → s.descDomains (chanPart ch) desc.toNat = true → ∃ s' w, exec (.ctxcfg ch seq ctx desc) s = .next s' ∧
      s'.contexts.find ctx = some { contextOf ch desc.toNat with wpAdmitted := w } ∧ (∀ f ∈ s'.faults, f.ctx ≠ ctx) ∧
      (∀ x ∈ s'.translations, x.ctx ≠ ctx) ∧ (∀ l ∈ s'.caches, l.ctx ≠ ctx)) ∧
  (∀ ch seq ctx domain hslots lines m (s : State), Accepts s ch seq → domain < 4096 → heapOk hslots = true → tableLog lines = some m →
    s.domains.find (domKey (chanPart ch) domain) = none → ∃ s', exec (.domainCreate ch seq ctx domain hslots lines) s = .next s' ∧
      s'.domains.find (domKey (chanPart ch) domain) = some ⟨domain, chanPart ch, hslots, m, s.serial, [], [], false⟩ ∧
      ∀ a, Memory.read s'.mem a = if m ≠ 0 ∧ Config.linePhys (chanPart ch) domain ≤ a ∧ a < Config.linePhys (chanPart ch) domain + 128 * 2 ^ m
        then 0 else Memory.read s.mem a) ∧
  (∀ ch seq ctx domain d (s : State), Accepts s ch seq → s.domainNamed (chanPart ch) domain = false →
    s.domains.find (domKey (chanPart ch) domain) = some d → ∃ s', exec (.domainDelete ch seq ctx domain) s = .next s' ∧
      s'.domains.find (domKey (chanPart ch) domain) = none ∧
      (∀ a, d.owns a = true → Memory.read s'.mem a = 0) ∧ (∀ a, d.owns a = false → Memory.read s'.mem a = Memory.read s.mem a)) ∧
  (∀ ch seq ctx domain c (s : State), Accepts s ch seq → s.contexts.find ctx = some c → s.owns ch ctx = true →
    s.domainNamed (chanPart ch) domain = true → ∃ s', exec (.domainDelete ch seq ctx domain) s = .next s' ∧
      Raises s s' ctx 9 [BitVec.ofNat 64 seq, 7] ∧ s'.domains = s.domains) ∧
  (∀ ch seq ctx nonce (s : State), Accepts s ch seq → s.lmsLeaf < 2 ^ 20 → ∃ s', exec (.attest ch seq ctx nonce) s = .next s' ∧
    s'.lmsLeaf = s.lmsLeaf + 1 ∧ s'.sent = s.sent ++ [⟨ch, Config.report nonce (chanPart ch) s.bootCount s.lmsLeaf⟩])

/-- R222, R230, R326, R457, R327 to R331, R19: a team that has ended goes, and a gang with its last team; a grid whose gangs have all
retired ends with its event; the dispatcher's next gang is placed on its cluster and cores, with its number, its record and its teams at
their entries. -/
def Obligations.Lifecycle : Prop :=
  (∀ team s t, s.teams.find team = some t → s.teamEnds team t = true → ∃ s', exec (.teamEnd team) s = .next s' ∧
    s'.teams.find team = none ∧ ∀ k, s'.teams.find k = none ↔ (k = team ∨ s.teams.find k = none)) ∧
  (∀ ctx grid s gr c, s.grids.find (gridKey ctx grid) = some gr → gr.gangs ≤ gr.retired → s.contexts.find ctx = some c →
    ∃ s' c', exec (.gridEnd ctx grid) s = .next s' ∧ s'.grids.find (gridKey ctx grid) = none ∧
      Raises s s' ctx 1 [BitVec.ofNat 64 grid, 0] ∧ s'.contexts.find ctx = some c' ∧ c'.service ≠ some grid ∧ s'.teams = s.teams ∧
      s'.mem = s.mem) ∧
  (∀ part s gr m cluster base, s.placeable part = some (.fresh gr, m, cluster, base) →
    ∃ s' g, exec (.gangPlacement part) s = .next s' ∧ s'.gangs.find s.serial = some g ∧ g.ctx = gr.ctx ∧ g.grid = gr.id ∧
      g.number = gr.nextGang ∧ g.size = m ∧ g.cluster = cluster ∧ g.baseCore = base ∧ g.residency = .resident ∧ g.requested = none ∧
      g.placedClk = s.clk ∧ g.area = gr.swap + gr.nextGang * gangAreaSize gr.header ∧ g.crews.length = m ∧
      s'.grids.find (gridKey gr.ctx gr.id) = some { gr with nextGang := gr.nextGang + 1 } ∧
      ((∀ k x, s.teams.find k = some x → x.gang ≠ s.serial) → ∀ k t, s'.teams.find k = some t → t.gang = s.serial →
        t.cluster = cluster ∧ t.gangReg = BitVec.ofNat 32 gr.nextGang ∧ t.gridReg = BitVec.ofNat 32 gr.id ∧ t.ex = t.live ∧
        t.tlevel = false ∧ t.S64 0 = gr.param ∧ ∃ r ∈ gr.roles, t.pc = r.entry + 4 ∧ t.isCtl = r.ctl ∧ t.lanes = r.lanes))

/-- R341, R345, R343, R348, R346: a request marks the gang as leaving and its teams; the timeout is sent once, with the mask of the late
teams; a gang whose teams are all in memory is saved; the dispatcher's next gang, if it was swapped out, comes back to its cluster and
cores. -/
def Obligations.Preemption : Prop :=
  (∀ gang s g, s.gangs.find gang = some g → g.residency = .resident → ∃ s', exec (.preemptionRequest gang) s = .next s' ∧
    s'.gangs.find gang = some { g with residency := .leaving, requested := some s.clk, stopFrom := none, timeoutSent := false } ∧
    (∀ k, s'.teams.find k = (s.teams.find k).map fun (t : Team) => if t.gang = gang then { t with spReq := true } else t) ∧ s'.mem = s.mem) ∧
  (∀ gang s g c, s.gangs.find gang = some g → s.timeoutDue gang g = true → s.contexts.find g.ctx = some c →
    ∃ s', exec (.preemptionTimeout gang) s = .next s' ∧ s'.gangs.find gang = some { g with timeoutSent := true } ∧
      Raises s s' g.ctx 6 [BitVec.ofNat 64 g.grid, BitVec.ofNat 64 g.number,
        (s.late gang).foldl (fun (m : DWord) t => m ||| (1#64 <<< t.rindex)) 0] ∧ s'.teams = s.teams) ∧
  (∀ gang s g, s.gangs.find gang = some g → s.canSave gang g = true → ∃ s' g', exec (.gangSave gang) s = .next s' ∧
    s'.gangs.find gang = some g' ∧ g'.residency = .saved s.serial ∧ g'.requested = none ∧ g'.crews = g.crews ∧ g'.here = false ∧
    s'.teams = s.teams ∧ ∀ k, k ≠ gang → s'.gangs.find k = s.gangs.find k) ∧
  (∀ gang s g m cluster base, s.gangs.find gang = some g → s.placeable g.part = some (.saved gang, m, cluster, base) →
    (∀ x ∈ s.teams, x.2.gang = gang → s.teams.find x.1 = some x.2 ∧
      ∃ bs, s.devRead x.2.ctx (x.2.saveBase - 2048) 2048 = .ok bs ∧ blockBad x.2 (leNat bs) = false) →
    ∃ s' g', exec (.gangRestore gang) s = .next s' ∧
      s'.gangs.find gang = some g' ∧ g'.residency = .resident ∧ g'.cluster = cluster ∧ g'.baseCore = base ∧ g'.requested = none ∧
      g'.placedClk = s.clk)

/-- R333 to R340, R19: a deck dispatches its next entries as one team at the target's entry, with the number of tasks and the target in s2
and s3, in the lowest free task slot; a bad target is discarded with its event; an idle deck steals entries of the first victim that its
own dispatch does not select. -/
def Obligations.Decks : Prop :=
  (∀ cluster s k e tg c slot, s.clusters.find cluster = some k → k.headEntry s.clk = some e → e.bin = none → k.nextDispatch ≤ s.clk →
    s.yieldsTo e = false → s.readTarget e.ctx e.target = .ok tg → s.contexts.find e.ctx = some c →
    let n := s.binSize cluster tg (min (k.binOf s.clk e).length 32)
    n ≠ 0 → c.tpcount ≠ 0 → taskArea n tg ≤ c.tpsize → c.freeTask = some slot →
    s.devBars e.ctx (c.tpool + slot * c.tpsize + crewRecord tg.kernel.scratch) 2048 .write = none →
    ∃ s' g id t k', exec (.deckDispatch cluster) s = .next s' ∧ s'.gangs.find s.serial = some g ∧ g.task = true ∧ g.ctx = e.ctx ∧
      g.prio = e.prio ∧ g.cluster = cluster ∧ g.area = c.tpool + slot * c.tpsize ∧
      s'.teams.find id = some t ∧ s.serial < id ∧ t.gang = s.serial ∧ t.cluster = cluster ∧ t.lanes = 32 * n ∧ t.ex = firstLanes (32 * n) ∧
      t.pc = tg.entry + 4 ∧ t.S64 0 = tg.param ∧ t.S 2 = BitVec.ofNat 32 n ∧ t.S 3 = BitVec.ofNat 32 e.target ∧ t.depth = e.depth ∧
      t.taskSlot = some slot ∧ s'.clusters.find cluster = some k' ∧ k'.nextDispatch = s.clk + 4) ∧
  (∀ cluster s k e c, s.clusters.find cluster = some k → k.headEntry s.clk = some e → e.bin = none → k.nextDispatch ≤ s.clk →
    s.yieldsTo e = false → s.readTarget e.ctx e.target = .bad → s.contexts.find e.ctx = some c →
    ∃ s', exec (.deckDispatch cluster) s = .next s' ∧ Raises s s' e.ctx 7 [BitVec.ofNat 64 e.target] ∧ s'.gangs = s.gangs) ∧
  (∀ cluster s v, s.deckIdle cluster = true → s.removing.contains cluster = false → s.victimOf cluster = some v →
    let es := stolen s.clk (s.loot v)
    ∃ s' k', exec (.stealAttempt cluster) s = .next s' ∧ s'.clusters.find cluster = some k' ∧
      k'.deck = es ∧ es ≠ [] ∧ (∀ e ∈ es, ∀ k, s.clusters.find v = some k → e ∈ k.deck ∧ e ∉ s.dispatching v k) ∧ k'.nextSteal = s.clk + 64 ∧ s'.teams = s.teams ∧ s'.mem = s.mem)

/-- R307, R309, R312, R317, R318: the oldest card that may start starts; a FILL lands its pattern in the windows that it names, and a
FILLFULL step writes an empty word and sets it full; a job that is done leaves the yarder, writes its stamp as an atomic maximum and
resolves its future. -/
def Obligations.YarderJobs : Prop :=
  (∀ cluster s k c, s.clusters.find cluster = some k → k.nextCard = some c → c.kind ≠ 5 →
    ∃ s' c', exec (.jobStart cluster) s = .next s' ∧ s'.card? cluster c.serial = some c' ∧ c'.started = true ∧ s'.teams = s.teams ∧
      s'.mem = s.mem ∧ ∀ slot x f, c.future = some slot → s.contexts.find c.ctx = some x → x.futures.find (futKey 1 slot) = some f →
        ∃ x', s'.contexts.find c.ctx = some x' ∧ x'.futures.find (futKey 1 slot) = some { f with started := true }) ∧
  (∀ (i : Instr) cluster card piece s c,
    (i = .jobLanding cluster card piece ∧ c.steps = false) ∨ (i = .fillfullStep cluster card piece ∧ c.steps = true) →
    s.card? cluster card = some c → c.started = true → c.fail = none → c.halted = none → c.progDue = false → c.kind = 4 → c.flag 2 = false →
    piece < c.landings (s.cardSize c) → c.landed.get false piece = false →
    let m := c.move (s.cardSize c) piece 0
    ∀ ks off g, m.dst = .pad ks off → s.gangs.find (c.gang.getD 0) = some g → (c.steps = true → s.permit c piece = true) →
    ∃ s' g' c', exec i s = .next s' ∧ s'.gangs.find (c.gang.getD 0) = some g' ∧ s'.card? cluster card = some c' ∧
      c'.landed.get false piece = true ∧ s'.teams = s.teams ∧ s'.mem = s.mem ∧
      (∀ k cr, g.crew? k = some cr → ∃ cr', g'.crew? k = some cr' ∧
        (k ∉ ks → cr' = cr) ∧ (k ∈ ks → (∀ a, (cr'.byte a).1 = if off ≤ a ∧ a < off + m.lit.length then m.lit.getD (a - off) 0 else (cr.byte a).1) ∧
          ∀ w, cr'.full.get false w = if c.steps = true ∧ w = off / 4 then true else cr.full.get false w))) ∧
  (∀ cluster card s c, s.card? cluster card = some c → s.completes c = true → c.kind ≠ 5 → (c.counts = false ∨ c.status ≠ 0) →
    c.f 0x38 8 = 0 → ∃ s', exec (.jobCompletion cluster card) s = .next s' ∧ s'.card? cluster card = none ∧
      ∀ slot x f, c.future = some slot → s.contexts.find c.ctx = some x → x.futures.find (futKey 1 slot) = some f →
        ∃ x', s'.contexts.find c.ctx = some x' ∧ x'.futures.find (futKey 1 slot) = some { f with live := false, status := some c.status }) ∧
  (∀ cluster card s c pa f, s.card? cluster card = some c → s.completes c = true → c.kind ≠ 5 → c.counts = false → c.fail = none →
    c.f 0x38 8 ≠ 0 → c.f 0x38 8 % 8 = 0 → s.lookVia (yardUnit cluster) c.ctx (c.f 0x38 8) .rmw = .ok pa f →
    ∃ s', exec (.jobCompletion cluster card) s = .next s' ∧ s'.card? cluster card = none ∧
      memNat s'.mem pa 8 = max (memNat s.mem pa 8) (c.seqNo % 2 ^ 63 + if c.cancelled then 2 ^ 63 else 0) ∧
      ∀ a, (a < pa ∨ pa + 8 ≤ a) → Memory.read s'.mem a = Memory.read s.mem a)

/-- R315, R316, R322, R325, R499: the parts of ranks of other packages join a collective; one whose ranks are all there gives every job of
this package the reduced elements, one whose ranks disagree or that is aborted fails them; a store to an aperture submits a card. -/
def Obligations.Collectives : Prop :=
  (∀ group ctx coll (s : State) x p ps, s.collectives.find? (·.named (BitVec.ofNat 64 group) ctx coll) = some x → x.disagree = false →
    x.parts = p :: ps → p.nrank = x.parts.length → ∃ s', exec (.collectiveResult group ctx coll) s = .next s' ∧
      s'.collectives = s.collectives.erase x ∧ ∀ j ∈ x.jobs, ∀ c, s.card? j.1 j.2.1 = some c → ∃ c', s'.card? j.1 j.2.1 = some c' ∧
        c'.result = some ((reduceAll p.mode x.parts).flatMap fun d => leBytes (elemSize p.mode) d.toNat)) ∧
  (∀ group ctx coll (s : State) x, s.collectives.find? (·.named (BitVec.ofNat 64 group) ctx coll) = some x → x.disagree = true →
    ∃ s', exec (.collectiveResult group ctx coll) s = .next s' ∧ s'.collectives = s.collectives.erase x ∧
      ∀ j ∈ x.jobs, ∀ c, s.card? j.1 j.2.1 = some c → ∃ c', s'.card? j.1 j.2.1 = some c' ∧ c'.fail.isSome = true) ∧
  (∀ group ctx coll parts (s : State), ∃ s' x, exec (.partialSums group ctx coll parts) s = .next s' ∧
    s'.collectives.find? (·.named (BitVec.ofNat 64 group) ctx coll) = some x ∧
    (∀ y, s.collectives.find? (·.named (BitVec.ofNat 64 group) ctx coll) = some y → x.parts = y.parts ++ parts ∧ x.jobs = y.jobs) ∧
    (s.collectives.find? (·.named (BitVec.ofNat 64 group) ctx coll) = none → x.parts = parts ∧ x.jobs = []) ∧ s'.clusters = s.clusters) ∧
  (∀ ctx coll (s : State) x, s.collectives.find? (·.named (s.groupOf ctx) ctx coll) = some x →
    ∃ s', exec (.yrdAbort ctx coll) s = .next s' ∧ s'.collectives = s.collectives.erase x ∧
      ∀ j ∈ x.jobs, ∀ c, s.card? j.1 j.2.1 = some c → ∃ c', s'.card? j.1 j.2.1 = some c' ∧ c'.fail.isSome = true) ∧
  (∀ ctx cluster chan (value : DWord) s x k c, s.context? ctx = some x → value.extractLsb' 8 56 = 0#56 → s.clusters.find cluster = some k →
    k.cards.length < 64 → s.formCard cluster (Card.new s.serial ctx (chan % 16) (x.nextSeq cluster (chan % 16)) (value.extractLsb' 0 8).toNat none false
      none none 0 0 0 0 true) = .ok c → c.fail = none →
    ∃ s' k', exec (.apertureSubmit ctx cluster chan value) s = .next s' ∧ s'.clusters.find cluster = some k' ∧ k'.cards = k.cards ++ [c] ∧
      s'.teams = s.teams ∧ s'.mem = s.mem)

/-- R291 to R293, R297, R298, R450: a walk that ends at a page fills the filter of the unit that asked, one that does not leaves its fault
for it; a team whose record is answered with a retry goes on at its slot, unless the debugger has asked for its halt, and a rejection
terminates the context. -/
def Obligations.WalksAndAnswers : Prop :=
  (∀ unit ctx va s x vb size pb r w cls dom, s.context? ctx = some x → s.answerWalk ctx va = .page vb size pb r w cls dom →
    ∃ s', exec (.pageWalk unit ctx va) s = .next s' ∧ (∃ y ∈ s'.translations, y.covers unit ctx vb = true) ∧
      ((∀ y ∈ s.translations, y.covers unit ctx vb = false) → (⟨unit, ctx, vb, size, pb, r, w, cls, dom⟩ : Translation) ∈ s'.translations) ∧
      s'.walking unit ctx (va / 4096) = false ∧ s'.teams = s.teams ∧ s'.mem = s.mem) ∧
  (∀ unit ctx va s x k l e, s.context? ctx = some x → s.answerWalk ctx va = .fault k l e → ∃ s', exec (.pageWalk unit ctx va) s = .next s' ∧
    (⟨unit, ctx, va / 4096, k, l, e⟩ : Faulted) ∈ s'.faulted ∧ s'.translations = s.translations ∧ s'.teams = s.teams ∧ s'.mem = s.mem) ∧
  (∀ ctx seq s f id t, s.fault? ctx seq = some f → s.answer f = some 1 → f.agent = .team id → s.teams.find id = some t → t.halt = 7 →
    ∃ s' t', exec (.faultRetry ctx seq) s = .next s' ∧ s'.teams.find id = some t' ∧ t'.halt = (if t.haltWanted then 1 else 0) ∧ t'.faultSeq = none ∧ t'.pc = t.pc ∧
      t'.ex = t.ex ∧ RegsAfter t t' newNothing ∧ t'.pends = t.pends ∧ s'.fault? ctx seq = none ∧
      ∀ k, k ≠ id → s'.teams.find k = s.teams.find k) ∧
  (∀ ctx seq s f r c, s.fault? ctx seq = some f → s.answer f = some r → r ≠ 1 → s.context? ctx = some c →
    ∃ s' c', exec (.faultReject ctx seq) s = .next s' ∧ s'.contexts.find ctx = some c' ∧ c'.terminated = true ∧
      ∀ x ∈ s'.faults, x.ctx ≠ ctx)

/-- R357, R358, R359, R364, R365, R244, R373: a chunk that is ready leaves its queue with its scales and starts; one that passes its
checks is added to its tile; a weight image is taken, the drain that streams pushes its next beat, and the array goes through its power
states. After each, the commands that have become ready are taken; an `mma` at the head of a cold array begins the filler. -/
def Obligations.MatrixEvents : Prop :=
  (∀ cluster (s : State) id g a, s.arrayGang cluster = some (id, g, a) → s.gangs.find id = some g →
    let goes (i : Instr) (b : Array) : Prop := ∃ s', exec i s = .next s' ∧ s'.gangs.find id = some { g with array := some b } ∧
      s'.teams = s.teams ∧ s'.mem = s.mem
    let next (b : Array) : Array := b.runHeads s.clk (2 * b.cmds.length + 2)
    (∀ t w n pc rest sa sb, a.chunkReady = true → a.ramp ≠ .cold → a.ramp ≠ .rampUp → a.cmds = .mma t w n pc :: rest →
      let x := a.slots.getD w WeightSlot.empty
      s.arrayReads cluster g.ctx (scaleReads a t w x.next).1 = .bytes sa → s.arrayReads cluster g.ctx (scaleReads a t w x.next).2 = .bytes sb →
      (s.winReg g.ctx (clusterReg cluster 0x58)).getLsbD 63 = false →
      goes (.matrixChunkStart cluster) { a with
        queues := a.queues.set t ((a.queues.getD t []).drop a.chunkBeats), ramp := .active
        burst := if a.burstTaken then a.burst else a.burst - 1, burstTaken := true
        chunk := some ⟨t, w, a.mmaDone, x.next, ((a.queues.getD t []).take a.chunkBeats).map (·.1), sa, sb, s.clk, none, false⟩ }) ∧
    (∀ c, a.chunk = some c → c.stopped = false → c.inject = none →
      let as := a.chunkRows c
      let bs := a.chunkColumns c
      let f (i j : Nat) : Int := finSum (products (as.getD i []) (bs.getD j []))
      checkChunk as bs f = ⟨[], []⟩ → goes (.matrixChunkEnd cluster) ((a.addChunk c as bs f).afterChunk s.clk)) ∧
    (∀ slot addr pc h img, (a.slots[slot]?).bind (·.loading) = some (addr, pc) → a.halted = none →
      s.arrayRead cluster g.ctx addr.toNat 128 = .bytes h → headerGood h = true →
      s.arrayRead cluster g.ctx addr.toNat (field (leNat h) 12 4) = .bytes img →
      recordsGood (field (leNat h) 4 1) (field (leNat h) 8 4) (img.drop 128) = true →
      goes (.weightLoadEnd cluster slot) (next { a with
        slots := a.slots.set slot ⟨true, none, field (leNat h) 4 1, img, field (leNat h) 8 4, 0⟩ })) ∧
    (∀ t, a.drainReady = true → a.draining = some t →
      let b : Array := { a with queues := a.queues.modify (4 + t) fun l => l ++ [a.beatOf t a.drained], drained := a.drained + 1 }
      goes (.drainBeat cluster) (next (if (if a.fmtField 3 1 = 0 then 512 else 256) ≤ b.drained then { b with draining := none, drained := 0 } else b))) ∧
    (a.ramp = .rampUp → goes (.rampupEnd cluster) { a with ramp := if a.chunkReady then .active else .warm, idleFrom := s.clk }) ∧
    (a.ramp = .rampDown → goes (.rampdownEnd cluster) { a with ramp := .warm }) ∧
    (a.ramp = .warm → goes (.warmToCold cluster) (next { a with ramp := .cold, burst := 0 }))) ∧
  (∀ (a : Array) clk t w n pc rest, a.chunk = none → a.halted = none → a.ramp = .cold → a.cmds = .mma t w n pc :: rest →
    a.headStep clk = some { a with ramp := .rampUp, idleFrom := clk }) ∧
  (∀ (a : Array) c as bs f i j, i < 128 → j < 128 →
    let key := 16384 * c.tile + 128 * i + j
    (a.addChunk c as bs f).tiles.get 0 key =
      accumulate (a.tiles.get 0 key) (chunkSum (products (as.getD i []) (bs.getD j [])) (f i j))) ∧
  (∀ ctx cluster (value : DWord) s x, s.contexts.find ctx = some x →
    (s.arrayHere ctx cluster = true → (value.extractLsb' 12 10).toNat ≤ 591 → ∃ s', exec (.mxaInj ctx cluster value) s = .next s' ∧
      s'.winReg ctx (clusterReg cluster 0x58) = value &&& 0xC0FFFFFF003FF000#64 ∧ s'.gangs = s.gangs ∧ s'.teams = s.teams) ∧
    (s.arrayHere ctx cluster = false → exec (.mxaInj ctx cluster value) s = .next s))

/-- R189 to R191, R382, R384 to R386: a lane that comes to its cell at its turn enters it, one whose turn has not come or that finds it
held waits; the holder's leaving advances NEXT and frees the cell; a skip whose turn it is advances NEXT; a waiting lane that has waited
too long traps. Each is said of a key for which nothing else waits and whose cells are not poisoned. -/
def Obligations.SectionArrivals : Prop :=
  (∀ (i : Instr) team serial key s t e k a n l,
    (i = .oenterArrival team serial key ∨ i = .waiterRetry team serial key) → s.enter? team serial = some (t, e) →
    s.areaOf t.ctx = some (k, a) → a.find key = some n → (a.cell n).broken = false → e.lanes.filter (·.key == key) = [l] →
    (∀ w ∈ a.queue, w.key ≠ key) → s.cellPoison a key = false →
    (∀ h, (a.cell n).held = false → l.sq = (a.cell n).next → (a.holderOf t.ident).or (a.holderRoom t.ident) = some h →
      ∃ s' a' t', exec i s = .next s' ∧ s'.areas.find k = some a' ∧
        a'.cell n = { a.cell n with held := true, holder := h } ∧ a'.queue = a.queue ∧ s'.teams.find team = some t' ∧
        (e.coming = [key] → e.waiting = [] → ∀ p ∈ t.pends, p.serial = serial → ∃ q ∈ t'.pends, q.serial = serial ∧
          q.data = .values (Enter.values { e with winners := e.winners ++ [l.lane] }) 0) ∧ s'.mem = s.mem) ∧
    ((l.sq - (a.cell n).next).getLsbD 31 = false → ((a.cell n).held = true ∨ l.sq ≠ (a.cell n).next) →
      ((a.cell n).held = true → a.holderOf t.ident ≠ some (a.cell n).holder) → s.sliceRoom (a.slice n) false = true →
      ∃ s' a' t', exec i s = .next s' ∧ s'.areas.find k = some a' ∧ a'.cell n = a.cell n ∧
        a'.queue = a.queue ++ [⟨false, t.ctx, team, serial, key, l.sq, l.lane⟩] ∧ s'.teams.find team = some t' ∧
        t'.pends = t.pends ∧ s'.mem = s.mem)) ∧
  (∀ ctx (ident key : DWord) s k a n, s.areaOf ctx = some (k, a) → a.find key = some n → (∀ w ∈ a.queue, w.key ≠ key) →
    s.cellPoison a key = false →
    ((a.cell n).held = true → (a.cell n).broken = false → a.holderOf ident = some (a.cell n).holder →
      ∃ s' a', exec (.oleaveArrival ctx ident key) s = .next s' ∧ s'.areas.find k = some a' ∧
        a'.cell n = { a.cell n with next := (a.cell n).next + 1, held := false } ∧ s'.teams = s.teams ∧ s'.mem = s.mem) ∧
    ((a.cell n).held = false → exec (.oleaveArrival ctx ident key) s = .next (s.secCount ctx 48))) ∧
  (∀ ctx (key : DWord) sq s k a n, s.areaOf ctx = some (k, a) → a.find key = some n → (a.cell n).broken = false →
    (∀ w ∈ a.queue, w.key ≠ key) → s.cellPoison a key = false →
    ((a.cell n).held = false → sq = (a.cell n).next → ∃ s' a', exec (.oskipArrival ctx key sq) s = .next s' ∧
      s'.areas.find k = some a' ∧ a'.cell n = { a.cell n with next := (a.cell n).next + 1 } ∧ a'.queue = a.queue ∧ s'.teams = s.teams) ∧
    ((sq - (a.cell n).next).getLsbD 31 = true → ∃ s' a', exec (.oskipArrival ctx key sq) s = .next s' ∧
      s'.areas.find k = some a' ∧ a'.cell n = a.cell n ∧ a'.queue = a.queue ∧ s'.winReg ctx 0x30 = (s.secCount ctx 48).winReg ctx 0x30)) ∧
  (∀ team serial s t e k a w ws, s.enter? team serial = some (t, e) → s.sectDue t e = true → s.areaOf t.ctx = some (k, a) →
    s.areas.find k = some a → e.waiting = w :: ws → ∃ s' t' x, exec (.sectionTimeout team serial) s = .next s' ∧
      s'.teams.find team = some t' ∧ (∀ q ∈ t'.enters, q.serial ≠ serial) ∧ x ∈ t'.sectTraps ∧ x.cause = 0x11 ∧ x.pd = e.pd)

/-- R390, R396: what SEC_CMD does to the cell that SEC_CMDKEY names, and the RESULT that it leaves with GO 0. -/
def Obligations.SectionCommands : Prop :=
  let done (s' : State) (ctx : Nat) (result : BitVec 4) : Prop :=
    (s'.winReg ctx 0x10).getLsbD 63 = false ∧ (s'.winReg ctx 0x10).extractLsb' 56 4 = result
  (∀ ctx s k a n, s.secTarget ctx = some (k, a, n) → (∀ w ∈ a.queue, w.key ≠ (a.cell n).key) →
    (∃ s' a', exec (.secReset ctx) s = .next s' ∧ done s' ctx 0 ∧ s'.areas.find k = some a' ∧
      a'.cell n = { a.cell n with next := (s.winReg ctx 0x10).extractLsb' 0 32, held := false, broken := false } ∧ s'.teams = s.teams) ∧
    ((a.cell n).held = false → ∃ s' a', exec (.secFree ctx) s = .next s' ∧ done s' ctx 0 ∧ s'.areas.find k = some a' ∧
      a'.cell n = { a.cell n with valid := false, tomb := true } ∧ s'.teams = s.teams) ∧
    ((a.cell n).held = true → ∃ s', exec (.secFree ctx) s = .next s' ∧ done s' ctx 2 ∧ s'.areas = s.areas)) ∧
  (∀ ctx s k a n, s.secTarget ctx = some (k, a, n) → ∃ s', exec (.secQuery ctx) s = .next s' ∧ done s' ctx 0 ∧
    (s'.winReg ctx 0x10).extractLsb' 0 32 = (a.cell n).next ∧
    ((s'.winReg ctx 0x10).extractLsb' 52 4).toNat = (a.cell n).bits ∧ s'.areas = s.areas) ∧
  (∀ ctx s c, s.contexts.find ctx = some c → s.secTarget ctx = none → ∀ i ∈ [Instr.secReset ctx, .secFree ctx, .secQuery ctx],
    ∃ s', exec i s = .next s' ∧ done s' ctx 1 ∧ s'.areas = s.areas) ∧
  (∀ ctx s k a, s.areaOf ctx = some (k, a) → (∀ x ∈ a.cells, x.2.held = false) → a.queue = [] →
    ∃ s', exec (.clearall ctx) s = .next s' ∧ done s' ctx 0 ∧ s'.areas.find k = some { a with cells := [], holders := [] }) ∧
  (∀ ctx s c, s.contexts.find ctx = some c → ∃ s', exec (.secBadOp ctx) s = .next s' ∧ done s' ctx 3 ∧ s'.areas = s.areas)

/-- R395, R411 to R415, R199: the oldest cascade step of a die is performed as a drop of a count; a ray with nothing left to visit leaves
the unit and its continuation joins the deck, or is discarded where its target lies beyond the table. -/
def Obligations.CascadesAndRays : Prop :=
  (∀ die (s : State) e, s.cascade.find? (·.1 == die) = some e →
    exec (.cascadeStep die) s = .next (State.countDown { s with cascade := s.cascade.erase e } e.2.1 e.2.2)) ∧
  (∀ cluster ray s k r c, s.clusters.find cluster = some k → k.rays.find? (·.serial == ray) = some r → s.rayReady cluster r = true →
    r.cur = none → s.contexts.find r.ctx = some c →
    let x := r.entry 0 s.clk cluster
    (x.target < c.tcount → ∃ s' k', exec (.rayEnd cluster ray) s = .next s' ∧ s'.clusters.find cluster = some k' ∧
      k'.rays = k.rays.filter (·.serial != ray) ∧ k'.deck = k.deck ++ [{ x with serial := s.serial }] ∧ s'.teams = s.teams ∧ s'.mem = s.mem) ∧
    (c.tcount ≤ x.target → ∃ s' k', exec (.rayEnd cluster ray) s = .next s' ∧ s'.clusters.find cluster = some k' ∧
      k'.rays = k.rays.filter (·.serial != ray) ∧ k'.deck = k.deck ∧ Raises s s' r.ctx 7 [BitVec.ofNat 64 x.target]))

/-- R439 to R441, R444 to R446, R449, R451, R452, R456: an uncorrected error in a register stops its team at a poison, one in a scratchpad
word or an accumulator poisons it, one in a cached line drops the line, as a corrected one does with its count; poison that is consumed
terminates the context, or rolls back an eligible crew to its shadow buffer; a checkpoint that is ready records its crew, and is complete
at once or when the operation that it precedes has been performed; a cluster found defective asks its gangs to leave. -/
def Obligations.Errors : Prop :=
  (∀ team reg lane s t, s.teams.find team = some t → ∃ s' t' p, exec (.uncorrectedError (.register team reg lane)) s = .next s' ∧
    s'.teams.find team = some t' ∧ p ∈ t'.pends ∧ (∃ a, p.data = .poison 1 a) ∧ RegsAfter t t' newNothing ∧ t'.pc = t.pc ∧ s'.mem = s.mem) ∧
  (∀ gang crew word s g cr, s.gangs.find gang = some g → g.crew? crew = some cr →
    ∃ s' g' cr', exec (.uncorrectedError (.scratchpad gang crew word)) s = .next s' ∧ s'.gangs.find gang = some g' ∧
      g'.crew? crew = some cr' ∧ cr'.poison.get false word = true ∧ cr'.window = cr.window ∧ s'.teams = s.teams ∧ s'.mem = s.mem) ∧
  (∀ cluster word s id g a, s.arrayGang cluster = some (id, g, a) → s.gangs.find id = some g →
    ∃ s' g' a', exec (.uncorrectedError (.accumulator cluster word)) s = .next s' ∧ s'.gangs.find id = some g' ∧ g'.array = some a' ∧
      a'.tilePoison.get false word = true ∧ a'.tiles = a.tiles ∧ s'.teams = s.teams ∧ s'.mem = s.mem) ∧
  (∀ unit ctx line s, ∃ s', exec (.uncorrectedError (.cacheLine unit ctx line)) s = .next s' ∧
    (∀ l, l ∈ s'.caches ↔ l ∈ s.caches ∧ ¬ (l.unit = unit ∧ l.ctx = ctx ∧ l.vline = line)) ∧ s'.teams = s.teams ∧ s'.mem = s.mem) ∧
  (∀ unit ctx line s c, s.contexts.find ctx = some c → ∃ s', exec (.correctedError (.cacheLine unit ctx line)) s = .next s' ∧
    (∀ l, l ∈ s'.caches ↔ l ∈ s.caches ∧ ¬ (l.unit = unit ∧ l.ctx = ctx ∧ l.vline = line)) ∧
    ((s'.winReg ctx 0xD0).extractLsb' 16 16).toNat = min 0xFFFF (((s.winReg ctx 0xD0).extractLsb' 16 16).toNat + 1) ∧
    s'.teams = s.teams ∧ s'.mem = s.mem) ∧
  (∀ team storage addr s t p c, s.teams.find team = some t →
    (t.pends.find? fun (p : Pend) => p.data == .poison storage addr) = some p → s.context? t.ctx = some c →
    (t.kernel.rollback = false → ∃ s' c', exec (.consumption team storage addr) s = .next s' ∧ s'.contexts.find t.ctx = some c' ∧
      c'.terminated = true) ∧
    (∀ g cr, t.kernel.rollback = true → s.gangs.find t.gang = some g → g.crew? t.crew = some cr → cr.rb.eligible = true →
      cr.rb.consumed = false → s.shadowPoison t.gang t.crew = none →
      let s0 := if cr.rb.closing.isSome || cr.rb.allow.isSome then s.completeShadow t.gang g t.crew cr.rb.number else s
      let w := s0.shadowWindow g.ctx (s0.shadowPlace t.gang g t.crew (cr.rb.number % 2)) cr
      ∃ s' g' cr', exec (.consumption team storage addr) s = .next s' ∧ s'.gangs.find t.gang = some g' ∧ g'.crew? t.crew = some cr' ∧
        cr'.window = w.1 ∧ cr'.full = w.2 ∧ cr'.poison = [] ∧ cr'.barriers = cr.rb.barriers ∧ cr'.rb.held = [] ∧ cr'.rb.consumed = true)) ∧
  (∀ gang crew s g cr, s.gangs.find gang = some g → g.crew? crew = some cr → s.checkpointReady gang crew cr = true →
    s.shadowFault gang crew (cr.rb.number + 1) = none → ∃ s' g' cr', exec (.checkpoint gang crew) s = .next s' ∧ s'.gangs.find gang = some g' ∧
      g'.crew? crew = some cr' ∧ cr'.rb.number = cr.rb.number + 1 ∧ cr'.rb.wanted = none ∧ cr'.rb.held = [] ∧ cr'.window = cr.window ∧
      cr'.rb.window = cr.window ∧ cr'.rb.full = cr.full ∧ cr'.rb.barriers = cr.barriers ∧ cr'.rb.teams = s.crewTeams gang crew ∧
      (cr.rb.wanted = some noTeam → cr'.rb.eligible = true ∧ cr'.rb.consumed = false) ∧
      (cr.rb.wanted ≠ some noTeam → cr'.rb.allow = cr.rb.wanted ∧ cr'.rb.eligible = cr.rb.eligible) ∧ s'.teams = s.teams) ∧
  (∀ gang crew s g cr, s.gangs.find gang = some g → g.crew? crew = some cr → s.closable cr = true →
    s.shadowFault gang crew cr.rb.number = none → ∃ s' g' cr', exec (.checkpoint gang crew) s = .next s' ∧ s'.gangs.find gang = some g' ∧
      g'.crew? crew = some cr' ∧ cr'.rb.closing = none ∧ cr'.rb.number = cr.rb.number ∧ cr'.rb.eligible = true ∧ cr'.rb.consumed = false ∧
      s'.teams = s.teams) ∧
  (∀ ctx (value : DWord) s c, s.contexts.find ctx = some c → ∃ s', exec (.rasInj ctx value) s = .next s' ∧
    s'.winReg ctx 0xD8 = value &&& 0x800FFFFFFFFFFFF0#64 ∧ s'.teams = s.teams ∧ s'.mem = s.mem) ∧
  (∀ cluster s, s.removing.contains cluster = false → ∃ s', exec (.clusterRemoval cluster) s = .next s' ∧
    s'.removing = s.removing ++ [cluster] ∧ s'.mem = s.mem ∧
    ∀ k g, s.gangs.find k = some g → g.residency = .resident → g.cluster = cluster →
      ∃ g', s'.gangs.find k = some g' ∧ g'.residency = .leaving ∧ g'.requested = some s.clk)

/-- R463, R468 to R471: a debugger with the right for it halts, resumes and steps a resident team that is not of the service role, reads
and edits its items while it is halted, and asks for its state; each command leaves GO 0 and its RESULT. -/
def Obligations.DebugCommands : Prop :=
  let done (s' : State) (ctx : Nat) (result : BitVec 4) : Prop :=
    (s'.winReg ctx (dbg 0x28)).getLsbD 63 = false ∧ (s'.winReg ctx (dbg 0x28)).extractLsb' 55 4 = result
  (∀ ctx s id t c, s.contexts.find ctx = some c → s.dbgTarget ctx = some (id, t) → s.teams.find id = some t → s.inService t = false →
    holderKind (s.winReg ctx (dbg 0)) ≠ 0 →
    (s.hasRight ctx 0 = true → s.isSaved t = false →
      (t.halt = 0 → ∃ s' t', exec (.dbgHalt ctx) s = .next s' ∧ done s' ctx 0 ∧ s'.teams.find id = some t' ∧ t'.halt = 1 ∧ t'.pc = t.pc ∧
        t'.ex = t.ex ∧ RegsAfter t t' newNothing) ∧
      (∀ (i : Instr) k, (i = .dbgResume ctx ∧ k = 0) ∨ (i = .dbgStep ctx ∧ k = 1) → 1 ≤ t.halt → t.halt ≤ 5 → t.edits = [] →
        ∃ s' t', exec i s = .next s' ∧ done s' ctx 0 ∧ s'.teams.find id = some t' ∧ t'.halt = 0 ∧ t'.stepState = k ∧
        t'.pc = (if t.halt = 3 then nextPc t.pc false else t.pc) ∧ t'.ex = t.ex ∧ RegsAfter t t' newNothing) ∧
      (t.halt = 0 → ∀ i ∈ [Instr.dbgResume ctx, .dbgStep ctx], ∃ s', exec i s = .next s' ∧ done s' ctx 2 ∧ s'.teams = s.teams)) ∧
    (s.hasRight ctx 1 = true → s.isSaved t = false → t.halt ≠ 0 →
      (∀ x, dbgItem t (s.winReg ctx (dbg 0x18)) = some x →
        (∃ s', exec (.dbgRead ctx) s = .next s' ∧ done s' ctx 0 ∧ s'.winReg ctx (dbg 0x20) = s.dbgValue t x ∧ s'.teams = s.teams) ∧
        (editOk x (s.winReg ctx (dbg 0x20)) = true → t.edits.length < 16 → (t.edits = [] → s.editBuffers ctx < 64) →
          ∃ s', exec (.dbgEdit ctx) s = .next s' ∧ done s' ctx 0 ∧ s'.teams.find id =
            some { t with edits := t.edits ++ [(s.winReg ctx (dbg 0x18), s.winReg ctx (dbg 0x20))] })) ∧
      (∃ s', exec (.dbgDiscard ctx) s = .next s' ∧ done s' ctx 0 ∧ s'.teams.find id = some { t with edits := [] })) ∧
    (∃ s', exec (.dbgQuery ctx) s = .next s' ∧ done s' ctx 0 ∧ (s'.winReg ctx (dbg 0x28)).extractLsb' 0 32 = s.dbgPc t ∧
      ((s'.winReg ctx (dbg 0x28)).extractLsb' 32 8).toNat = s.dbgState t ∧
      ((s'.winReg ctx (dbg 0x28)).extractLsb' 40 8).toNat = t.halt % 256 ∧ s'.teams = s.teams)) ∧
  (∀ ctx s c, s.contexts.find ctx = some c → s.hasRight ctx 0 = false → ∀ i ∈ [Instr.dbgHalt ctx, .dbgResume ctx, .dbgStep ctx],
    ∃ s', exec i s = .next s' ∧ done s' ctx 3 ∧ s'.teams = s.teams) ∧
  (∀ ctx s c, s.contexts.find ctx = some c → ∃ s', exec (.dbgBadOp ctx) s = .next s' ∧ done s' ctx 8 ∧ s'.teams = s.teams)

/-- R470, R473, R474, R477, R478: a step that is over halts its team; a halt record goes to the mailbox when there is room; a watchpoint
register is written by the holder; a pulse that counts meets the lines that a context is granted, and a pin that is an input pulses its
line; a pulse that comes less than 4 clk after the line's last one merges into it, and another one freezes a capture that waits for it; a
core's next team in turn is sampled. -/
def Obligations.DebugEvents : Prop :=
  (∀ team s t, s.teams.find team = some t → t.stepState = 2 → t.halt = 0 → ∃ s' t', exec (.stepHalt team) s = .next s' ∧
    s'.teams.find team = some t' ∧ t'.halt = 4 ∧ t'.stepState = 0 ∧ t'.pc = t.pc ∧ t'.ex = t.ex ∧ RegsAfter t t' newNothing) ∧
  (∀ ctx s c h hs, s.context? ctx = some c → c.haltRecs = h :: hs → s.haltRoom ctx c = true →
    (s.winReg ctx 0xD8).getLsbD 63 = false →
    ∃ s', exec (.haltEvent ctx) s = .next s' ∧ s'.contexts.find ctx = some { c with haltRecs := hs } ∧ s'.teams = s.teams) ∧
  (∀ who ctx off (v : DWord) s c, s.contexts.find ctx = some c → dbg 0xC0 ≤ off → off < dbg 0x100 → off % 8 = 0 → s.holds who ctx = true →
    s.hasRight ctx 2 = true → ∃ s', exec (.dbgWpWrite who ctx off v) s = .next s' ∧
      s'.winReg ctx off = (if off < dbg 0xE0 then (s.winReg ctx off &&& 0x1000000000000000#64) ||| (v &&& 0xEFFFFFFFFFFFFFFF#64) else v) ∧
      s'.teams = s.teams ∧ s'.mem = s.mem) ∧
  (∀ ctx (v : DWord) s, holderKind (s.winReg ctx (dbg 0)) ≠ 0 → s.mayTrace ctx = true → v &&& s.winReg ctx (dbg 8) ≠ 0 →
    ∃ s', exec (.dbgPulse ctx v) s = .next s' ∧ s'.teams = s.teams ∧
      ∀ l, (v &&& s.winReg ctx (dbg 8)).getLsbD l = true → s'.pulsed.find l = some s.clk) ∧
  (∀ ctx (v : DWord) s, (holderKind (s.winReg ctx (dbg 0)) = 0 ∨ s.mayTrace ctx = false) → exec (.dbgPulse ctx v) s = .next s) ∧
  (∀ pin s, pin < 8 → (s.mgt.get 0 0x20).toNat / 4 ^ pin % 4 = 1 → ∃ s', exec (.triggerPin pin) s = .next s' ∧
    s'.pulsed.find (56 + pin) = some s.clk ∧ s'.teams = s.teams ∧
    (s.lineRests (56 + pin) = false → s'.mem = s.mem ∧ ∀ c off, s'.winReg c off = s.winReg c off) ∧
    (Untraced s → SameMemory s s' ∧ ∀ c, s.lineRests (56 + pin) = true → (s.winReg c (dbg 8)).getLsbD (56 + pin) = true →
      (s.winReg c (dbg 0x38)).getLsbD 31 = true → ((s.winReg c (dbg 0x38)).extractLsb' 24 6).toNat = 56 + pin →
      (s'.winReg c (dbg 0x38)).getLsbD 63 = true)) ∧
  (∀ pin s, (s.mgt.get 0 0x20).toNat / 4 ^ pin % 4 ≠ 1 → exec (.triggerPin pin) s = .next s) ∧
  (∀ ctx cluster core s p, s.sampleDue ctx cluster core = true →
    ((s.sampled ctx cluster core).find? fun (p : Nat × Team) =>
      decide ((s.samples.get (0, 0) (sampleKey ctx cluster core)).1 ≤ p.2.rindex)).or (s.sampled ctx cluster core).head? = some p →
    ∃ s', exec (.stallSample ctx cluster core) s = .next s' ∧
      s'.samples.find (sampleKey ctx cluster core) = some (p.2.rindex + 1, s.clk) ∧ s'.teams = s.teams)

/-- R498, R499, R506, R501, R502, R503, R504, R497: a configuration that keeps the rules makes a partition with keys of its own, and a
teardown of one without live contexts scrubs its memory; MGT READ gives its bytes back; each leaves GO 0 and its RESULT. A register write
acts on the register that it names. A start goes as far as its steps succeed: with every step MGT_BOOT and MGT_READY are full, else
MGT_BOOT has the code of the step that failed; a loss of power and a thermal shutdown leave nothing. R505, R439: what the test port's
instructions select, EXTEST only while nothing is configured; a flit that arrives by a replay changes nothing. -/
def Obligations.PackagePort : Prop :=
  (
    let done (s' : State) (result : BitVec 4) : Prop := (s'.mgtReg 0x18).getLsbD 63 = false ∧ (s'.mgtReg 0x18).extractLsb' 56 4 = result
    (∀ s : State, s.partitions.find s.pcmdPart = none →
      (s.cfgOk s.pcmdPart s.pbufNat = true → ∃ s', exec .configure s = .next s' ∧ done s' 0 ∧
        s'.partitions.find s.pcmdPart = some (cfgPartition s.pcmdPart s.pbufNat s.serial) ∧ s'.serial = s.serial + 1 ∧ s'.mem = s.mem) ∧
      (s.cfgOk s.pcmdPart s.pbufNat = false → ∃ s', exec .configure s = .next s' ∧ done s' 1 ∧ s'.partitions = s.partitions) ∧
      (∃ s', exec .teardown s = .next s' ∧ done s' 0 ∧ s'.partitions = s.partitions) ∧
      (∃ s', exec .mgtRead s = .next s' ∧ done s' 2 ∧ s'.pbuf = s.pbuf)) ∧
    (∀ (s : State) p, s.partitions.find s.pcmdPart = some p →
      (∃ s', exec .configure s = .next s' ∧ done s' 2 ∧ s'.partitions = s.partitions) ∧
      ((∀ x ∈ s.contexts, ¬ (x.2.part = s.pcmdPart ∧ x.2.configured = true ∧ x.2.terminated = false)) →
        ∃ s', exec .teardown s = .next s' ∧ done s' 0 ∧ s'.partitions.find s.pcmdPart = none ∧
          ∀ a, p.owns a = true → Memory.read s'.mem a = 0) ∧
      ((∃ x ∈ s.contexts, x.2.part = s.pcmdPart ∧ x.2.configured = true ∧ x.2.terminated = false) →
        ∃ s', exec .teardown s = .next s' ∧ done s' 2 ∧ s'.partitions = s.partitions ∧ s'.mem = s.mem) ∧
      (∃ s', exec .mgtRead s = .next s' ∧ done s' 0 ∧ ∀ k b, p.bytes[k]? = some b → s'.pbuf.get 0 k = b)) ∧
    (∀ s : State, ∃ s', exec .mgtBadOp s = .next s' ∧ done s' 3 ∧ s'.partitions = s.partitions) ∧
    (∀ (s : State) (v : DWord), s.powered = true → ∃ s', exec (.registerWrite (.management 0x10) v) s = .next s' ∧
      s'.mgtReg 0x10 = if 1000 ≤ v.toNat % 65536 ∧ v.toNat % 65536 ≤ 3000 then BitVec.ofNat 64 (v.toNat % 65536) else s.mgtReg 0x10) ∧
    (∀ (s : State) who ctx off (v : DWord) c, s.contexts.find ctx = some c → off = 0x08 ∨ off = 0x30 ∨ off = 0x88 ∨ off = 0xD0 →
      ∃ s', exec (.registerWrite (.window who ctx off) v) s = .next s' ∧ s'.winReg ctx off = v ∧ s'.teams = s.teams ∧ s'.mem = s.mem) ∧
    (∀ s : State, s.mgtReg 0 = 0 → ∃ s' n, exec .startUp s = .next s' ∧ n ≤ 6 ∧ (∀ j, 1 ≤ j → j ≤ n → Config.startFails (s.tick + 1) j = none) ∧
      (n = 6 → s'.mgtReg 0 = 0x7E ∧ s'.mgtReg 8 = 0x3FFFFFF) ∧
      (n < 6 → ∃ k, Config.startFails (s.tick + 1) (n + 1) = some k ∧
        s'.mgtReg 0 = (BitVec.setWidth 64 k <<< 56) ||| BitVec.ofNat 64 (2 ^ (n + 1) - 2)) ∧
      s'.powered = true ∧ s'.bootCount = s.bootCount + 1 ∧ s'.mem = s.mem ∧ s'.partitions = s.partitions) ∧
    (∀ s : State, s.powered = true → bootOver (s.mgtReg 0) = true → ∃ s', exec .startUp s = .next s' ∧ s'.contexts = [] ∧ s'.grids = [] ∧
      s'.gangs = [] ∧ s'.powered = true) ∧
    (∀ s : State, ∃ s', exec .powerLoss s = .next s' ∧ s'.powered = false ∧ s'.alert = false ∧ s'.mem = [] ∧ s'.partitions = [] ∧
      s'.contexts = [] ∧ s'.teams = [] ∧ s'.mgtReg 0 = 0 ∧ s'.mgtReg 0x10 = 0x0BB8 ∧ s'.lmsLeaf = s.lmsLeaf) ∧
    (∀ (s : State) die, ∃ s', exec (.thermalShutdown die) s = .next s' ∧ s'.powered = false ∧ s'.alert = true ∧ s'.mem = [] ∧
      s'.partitions = [] ∧ s'.contexts = [] ∧ s'.teams = []) ∧
    (∀ (s : State) die, ∃ s', exec (.thermalThrottle die) s = .next s' ∧ die ∈ s'.throttled ∧ { s' with throttled := s.throttled } = s)) ∧
  (∀ s : State,
      (∃ s', exec .bypass s = .next s' ∧ s'.testInstr = .bypass ∧ s'.testData = 0 ∧ s'.boundary = false) ∧
      (∃ s', exec .idcode s = .next s' ∧ s'.testInstr = .idcode ∧ s'.boundary = false) ∧
      (∃ s', exec .samplePreload s = .next s' ∧ s'.testInstr = .samplePreload ∧ s'.boundary = false) ∧
      (s.partitions = [] → ∃ s', exec .extest s = .next s' ∧ s'.testInstr = .extest ∧ s'.boundary = true) ∧
      (s.partitions ≠ [] → exec .extest s = .next s) ∧
      (∃ s', exec .clamp s = .next s' ∧ s'.testInstr = .clamp ∧ s'.testData = 0 ∧ s'.boundary = true) ∧
      (∃ s', exec .highz s = .next s' ∧ s'.testInstr = .highz ∧ s'.testData = 0 ∧ s'.boundary = true) ∧
      (∀ port, exec (.linkLevelReplay port) s = .next s))

/-- R53 to R71: for every well-formed instruction and every value of its operands, decoding the word and the literal that encode it gives
the instruction back; and a word that decodes to an instruction is the one that encodes it, so that no bit of a word is dropped. -/
def Obligations.DecodeEncode : Prop :=
  (∀ i f, i.wf = true → encode i = some f → decode f.word f.lit = .ok i) ∧
  (∀ w lit i, decode w lit = .ok i → ∃ f, encode i = some f ∧ f.word = w ∧ f.lit = lit)

/-- R53, R70, R71: words written out from the encodings of the spec, one of each family, stand for the instructions that they should. -/
def Obligations.DecodeWords : Prop :=
  -- set 0, opcode 0x00, d = 3, a = 1, b = 2, mod = 0: iadd v3, v1, v2
  decode 0b0_0000000_0000011_0000001_0000010_000#32 none = .ok (.iadd 3 1 (.reg 2)) ∧
  -- set 0, opcode 0x20, d = 4, a = 5, b = 0, mod = 0b110 with a literal: fadd with a negated literal
  decode 0b0_0100000_0000100_0000101_0000000_110#32 (some 0x3F800000) = .ok (.fadd 4 5 (.lit 0x3F800000) true) ∧
  -- set 0, opcode 0x5E, d = 7, a = 8, imm10 = -4: ld32 v7, [v8 - 4]
  decode 0b0_1011110_0000111_0001000_1111111_100#32 none = .ok (.ld32 7 8 0x3FC) ∧
  -- set 0, opcode 0x72, d = 2, a = 9 (pair 4, 64 bits), b = 6, mod = 5: atadd
  decode 0b0_1110010_0000010_0001001_0000110_101#32 none = .ok (.atadd 2 4 true (.reg 6) 5) ∧
  -- set 1, opcode 0x00, d = 3, a = 1, b = 2, mod = 0: sadd s3, s1, s2
  decode 0b1_0000000_0000011_0000001_0000010_000#32 none = .ok (.sadd 3 1 (.reg 2)) ∧
  -- set 1, opcode 0x30, a = 5: exset p5
  decode 0b1_0110000_0000000_0000101_0000000_000#32 none = .ok (.exset 5) ∧
  -- set 1, opcode 0x40, imm24 = -1: bra
  decode 0b1_1000000_1111111_1111111_1111111_111#32 none = .ok (.bra 0xFFFFFF) ∧
  -- set 1, opcode 0x50, a = 7: bar 7
  decode 0b1_1010000_0000000_0000111_0000000_000#32 none = .ok (.bar 7) ∧
  -- set 1, opcode 0x60, d = 1, a = 2, b = 3: job
  decode 0b1_1100000_0000001_0000010_0000011_000#32 none = .ok (.job 1 2 3) ∧
  -- set 1, opcode 0x65, d = 1, a = 2, b = 3, mod = 0: mma with a constant count
  decode 0b1_1100101_0000001_0000010_0000011_000#32 none = .ok (.mma 1 2 (.imm 3)) ∧
  -- set 1, opcode 0x74, a = 4: cdrop
  decode 0b1_1110100_0000000_0000100_0000000_000#32 none = .ok (.cdrop 4) ∧
  -- set 1, opcode 0x7A, nothing else: nop, the word 0xFA000000
  decode 0xFA000000#32 none = .ok .nop ∧
  -- a reserved opcode, and a field that must be zero and is not
  decode 0b0_1111111_0000000_0000000_0000000_000#32 none = .error .reservedOpcode ∧
  decode 0b1_1111010_0000001_0000000_0000000_000#32 none = .error .reservedField

/-- R7, R44, R74: a team whose bundle has been fetched executes, in its step, the instruction that its next slot decodes to, with the
literal that the bundle marks; at slot 1 the bundle is read first; a word that decodes to nothing traps; a step takes up one of the things
that can come about, or a clk passes; and every machine event is an instruction of the table. -/
def Obligations.StepRuns : Prop :=
  (∀ s id t b i, s.candidates = [.team id] → s.teams.find id = some t → t.bundle = some ((bundleOf t.pc).toNat, b) →
    (t.pc.extractLsb' 2 2).toNat ≠ 1 →
    let c := Control.ofWord (bundleWord b 0)
    let k := (t.pc.extractLsb' 2 2).toNat
    c.isLit k = false → decode (bundleWord b k) (slotLit b c k) = .ok i →
    step s = exec i { s with
      tick := s.tick + 1, cur := id
      clk := max s.clk t.earliest + Config.issueDelay (s.tick + 1) + if t.zeroStall && t.lastSetU == i.isU then 1 else 0 }) ∧
  (∀ s id t b, s.candidates = [.team id] → s.teams.find id = some t → t.bundle = some ((bundleOf t.pc).toNat, b) →
    (t.pc.extractLsb' 2 2).toNat ≠ 1 →
    let c := Control.ofWord (bundleWord b 0)
    let k := (t.pc.extractLsb' 2 2).toNat
    c.isLit k = false → (∀ i, decode (bundleWord b k) (slotLit b c k) ≠ .ok i) →
    step s = .next (State.takeTrap { s with
      tick := s.tick + 1, cur := id, clk := max s.clk t.earliest + Config.issueDelay (s.tick + 1) }
      0x01 ((bundleWord b k).extractLsb' 24 8).toNat 0)) ∧
  (∀ s id t pa f i, s.candidates = [.team id] → s.teams.find id = some t → (t.pc.extractLsb' 2 2).toNat = 1 → t.blk = none →
    let off := (bundleOf t.pc).toNat
    let b := BitVec.ofNat 128 (memNat s.mem pa 16)
    let c := Control.ofWord (bundleWord b 0)
    t.kernel.kbase % 16 = 0 → 0x80 ≤ off → off < 0x80 + t.kernel.codeSize → s.look t.unit t.ctx (t.kernel.kbase + off) .fetch = .ok pa f →
    pa % 128 = (t.kernel.kbase + off) % 128 → s.line? .code t.unit t.ctx ((t.kernel.kbase + off) / 128) = none → s.poison = [] →
    c.kind = 0#2 → bundleBad b t.kernel.spCount = false → (∀ k, (s.winReg t.ctx (dbg (0x80 + 8 * k))).getLsbD 63 = false) →
    decode (bundleWord b 1) (slotLit b c 1) = .ok i →
    ∃ s1 t1, step s = exec i s1 ∧ s1.me = some t1 ∧ t1.bundle = some (off, b) ∧ t1.pc = t.pc ∧ t1.ex = t.ex ∧ RegsAfter t t1 newNothing ∧
      t1.pends = t.pends ∧ t1.still = { t.still with bundle := some (off, b), bpSkip := false } ∧ s1.mem = s.mem ∧ s1.gangs = s.gangs ∧ s1.contexts = s.contexts) ∧
  (∀ (s : State) (c : Cand) cs, s.candidates = c :: cs → ∃ (k : Nat) (x : Cand), (c :: cs)[k]? = some x ∧ step s = runCand x { s with tick := s.tick + 1 }) ∧
  (∀ s, s.candidates = [] → step s = .next { s with clk := s.clk + 1 }) ∧
  (∀ e, ∃ i, ∀ s, runEv e s = exec i s)

/-- The model has no way to stop but one: an instruction that is given a current team, and an event always, answers a next state; and a
step goes on whatever comes about, where no instruction slot stands in the queue of inputs. -/
def Obligations.GoesOnAlways : Prop :=
  (∀ i s t, s.me = some t → ∃ s', exec i s = .next s') ∧
  (∀ i s, encode i = none → ∃ s', exec i s = .next s') ∧
  (∀ i s, (∃ s', exec i s = .next s') ∨ exec i s = .fault .noRunningTeam) ∧
  (∀ s, (∀ i ∈ s.inputs, encode i = none) → GoesOn s)

/-- Every step keeps the canonical form of memory. -/
def Obligations.StepKeepsMemoryForm : Prop := ∀ s s', Safe s → step s = .next s' → Safe s'

/-- R501, R502, R506, R498: after reset nothing is resident or configured, MGT_BOOT and MGT_PCMD read 0 and MGT_PLIM reads 0x0BB8; memory
is in its canonical form. -/
def Obligations.ResetState : Prop :=
  Safe State.reset ∧ State.reset.teams = [] ∧ State.reset.gangs = [] ∧ State.reset.contexts = [] ∧ State.reset.partitions = [] ∧
  State.reset.mgtReg 0x00 = 0 ∧ State.reset.mgtReg 0x10 = 0x0BB8 ∧ State.reset.mgtReg 0x18 = 0 ∧ State.reset.candidates = []

/-- R15: an L-set slot with EX = 0 has no effect but that it is issued: the team goes on at the next slot. R74, R17, R66, R67: an
instruction on the wrong core or not well formed traps as illegal, one that names a register beyond the budget traps as out of range,
whatever else holds; one that reads or writes a pending register waits, and changes nothing but that its path is blocked. -/
def Obligations.SlotChecks : Prop :=
  (∀ i s t, s.me = some t → encode i ≠ none → i.isU = false → t.ex = 0 → t.isCtl = false → isMatrix i = false → i.wf = true →
      Leaves s i t (nextPc t.pc i.hasLit)) ∧
  ((∀ i s t, s.me = some t → encode i ≠ none → (coreIllegal i t = true ∨ i.wf = false) → Traps s i 0x01 i.info 0) ∧
    (∀ i s t n, s.me = some t → encode i ≠ none → coreIllegal i t = false → i.wf = true → (i.isU = true ∨ t.ex ≠ 0) →
      t.outOfRange (i.reads ++ i.writes) = some n → Traps s i 0x05 n 0) ∧
    (∀ i s t f n, s.me = some t → encode i ≠ none → slotCheck s.cur i t s = .block (.reg f n) → (∀ p ∈ t.slots, p.v = false) →
      exec i s = .next { s with teams := s.teams.insert s.cur { t with blk := some (.reg f n) } }))
end

