-- ==== Sys2Proof/Laws/State.lean ====
section
/-! SUPPORT. One lemma for each field and update of the state: what each named operation leaves as it is. -/

namespace Sys2Proof.Machine

theorem State.setTeam_teams (s : State) (id : Nat) (t : Team) : (s.setTeam id t).teams = s.teams.insert id t := rfl
@[simp] theorem State.setTeam_find (s : State) (id : Nat) (t : Team) : (s.setTeam id t).teams.find id = some t := SMap.find_insert_same _ _ _
theorem State.setTeam_find_ne (s : State) {id k : Nat} (t : Team) (h : k ≠ id) : (s.setTeam id t).teams.find k = s.teams.find k :=
  SMap.find_insert_ne _ _ h
@[simp] theorem State.setTeam_me (s : State) (t : Team) : (s.setTeam s.cur t).me = some t := SMap.find_insert_same _ _ _
@[simp] theorem State.setTeam_clk (s : State) (id : Nat) (t : Team) : (s.setTeam id t).clk = s.clk := rfl
@[simp] theorem State.setTeam_tick (s : State) (id : Nat) (t : Team) : (s.setTeam id t).tick = s.tick := rfl
@[simp] theorem State.setTeam_serial (s : State) (id : Nat) (t : Team) : (s.setTeam id t).serial = s.serial := rfl
@[simp] theorem State.setTeam_cur (s : State) (id : Nat) (t : Team) : (s.setTeam id t).cur = s.cur := rfl
@[simp] theorem State.setTeam_gangs (s : State) (id : Nat) (t : Team) : (s.setTeam id t).gangs = s.gangs := rfl
@[simp] theorem State.setTeam_grids (s : State) (id : Nat) (t : Team) : (s.setTeam id t).grids = s.grids := rfl
@[simp] theorem State.setTeam_clusters (s : State) (id : Nat) (t : Team) : (s.setTeam id t).clusters = s.clusters := rfl
@[simp] theorem State.setTeam_contexts (s : State) (id : Nat) (t : Team) : (s.setTeam id t).contexts = s.contexts := rfl
@[simp] theorem State.setTeam_partitions (s : State) (id : Nat) (t : Team) : (s.setTeam id t).partitions = s.partitions := rfl
@[simp] theorem State.setTeam_domains (s : State) (id : Nat) (t : Team) : (s.setTeam id t).domains = s.domains := rfl
@[simp] theorem State.setTeam_areas (s : State) (id : Nat) (t : Team) : (s.setTeam id t).areas = s.areas := rfl
@[simp] theorem State.setTeam_tags (s : State) (id : Nat) (t : Team) : (s.setTeam id t).tags = s.tags := rfl
@[simp] theorem State.setTeam_tagHeld (s : State) (id : Nat) (t : Team) : (s.setTeam id t).tagHeld = s.tagHeld := rfl
@[simp] theorem State.setTeam_channels (s : State) (id : Nat) (t : Team) : (s.setTeam id t).channels = s.channels := rfl
@[simp] theorem State.setTeam_collectives (s : State) (id : Nat) (t : Team) : (s.setTeam id t).collectives = s.collectives := rfl
@[simp] theorem State.setTeam_mem (s : State) (id : Nat) (t : Team) : (s.setTeam id t).mem = s.mem := rfl
@[simp] theorem State.setTeam_poison (s : State) (id : Nat) (t : Team) : (s.setTeam id t).poison = s.poison := rfl
@[simp] theorem State.setTeam_traffic (s : State) (id : Nat) (t : Team) : (s.setTeam id t).traffic = s.traffic := rfl
@[simp] theorem State.setTeam_checks (s : State) (id : Nat) (t : Team) : (s.setTeam id t).checks = s.checks := rfl
@[simp] theorem State.setTeam_l2 (s : State) (id : Nat) (t : Team) : (s.setTeam id t).l2 = s.l2 := rfl
@[simp] theorem State.setTeam_frames (s : State) (id : Nat) (t : Team) : (s.setTeam id t).frames = s.frames := rfl
@[simp] theorem State.setTeam_translations (s : State) (id : Nat) (t : Team) : (s.setTeam id t).translations = s.translations := rfl
@[simp] theorem State.setTeam_faulted (s : State) (id : Nat) (t : Team) : (s.setTeam id t).faulted = s.faulted := rfl
@[simp] theorem State.setTeam_caches (s : State) (id : Nat) (t : Team) : (s.setTeam id t).caches = s.caches := rfl
@[simp] theorem State.setTeam_faults (s : State) (id : Nat) (t : Team) : (s.setTeam id t).faults = s.faults := rfl
@[simp] theorem State.setTeam_cascade (s : State) (id : Nat) (t : Team) : (s.setTeam id t).cascade = s.cascade := rfl
@[simp] theorem State.setTeam_strikes (s : State) (id : Nat) (t : Team) : (s.setTeam id t).strikes = s.strikes := rfl
@[simp] theorem State.setTeam_corrected (s : State) (id : Nat) (t : Team) : (s.setTeam id t).corrected = s.corrected := rfl
@[simp] theorem State.setTeam_quarantined (s : State) (id : Nat) (t : Team) : (s.setTeam id t).quarantined = s.quarantined := rfl
@[simp] theorem State.setTeam_pulsed (s : State) (id : Nat) (t : Team) : (s.setTeam id t).pulsed = s.pulsed := rfl
@[simp] theorem State.setTeam_samples (s : State) (id : Nat) (t : Team) : (s.setTeam id t).samples = s.samples := rfl
@[simp] theorem State.setTeam_mgt (s : State) (id : Nat) (t : Team) : (s.setTeam id t).mgt = s.mgt := rfl
@[simp] theorem State.setTeam_pbuf (s : State) (id : Nat) (t : Team) : (s.setTeam id t).pbuf = s.pbuf := rfl
@[simp] theorem State.setTeam_powered (s : State) (id : Nat) (t : Team) : (s.setTeam id t).powered = s.powered := rfl
@[simp] theorem State.setTeam_alert (s : State) (id : Nat) (t : Team) : (s.setTeam id t).alert = s.alert := rfl
@[simp] theorem State.setTeam_throttled (s : State) (id : Nat) (t : Team) : (s.setTeam id t).throttled = s.throttled := rfl
@[simp] theorem State.setTeam_testInstr (s : State) (id : Nat) (t : Team) : (s.setTeam id t).testInstr = s.testInstr := rfl
@[simp] theorem State.setTeam_testData (s : State) (id : Nat) (t : Team) : (s.setTeam id t).testData = s.testData := rfl
@[simp] theorem State.setTeam_boundary (s : State) (id : Nat) (t : Team) : (s.setTeam id t).boundary = s.boundary := rfl
@[simp] theorem State.setTeam_removing (s : State) (id : Nat) (t : Team) : (s.setTeam id t).removing = s.removing := rfl
@[simp] theorem State.setTeam_bootCount (s : State) (id : Nat) (t : Team) : (s.setTeam id t).bootCount = s.bootCount := rfl
@[simp] theorem State.setTeam_lmsLeaf (s : State) (id : Nat) (t : Team) : (s.setTeam id t).lmsLeaf = s.lmsLeaf := rfl
@[simp] theorem State.setTeam_agenda (s : State) (id : Nat) (t : Team) : (s.setTeam id t).agenda = s.agenda := rfl
@[simp] theorem State.setTeam_inputs (s : State) (id : Nat) (t : Team) : (s.setTeam id t).inputs = s.inputs := rfl
@[simp] theorem State.setTeam_sent (s : State) (id : Nat) (t : Team) : (s.setTeam id t).sent = s.sent := rfl
@[simp] theorem State.updTeam_clk (s : State) (id : Nat) (f : Team → Team) : (s.updTeam id f).clk = s.clk := by
  unfold State.updTeam State.setTeam; split <;> rfl
@[simp] theorem State.updTeam_tick (s : State) (id : Nat) (f : Team → Team) : (s.updTeam id f).tick = s.tick := by
  unfold State.updTeam State.setTeam; split <;> rfl
@[simp] theorem State.updTeam_serial (s : State) (id : Nat) (f : Team → Team) : (s.updTeam id f).serial = s.serial := by
  unfold State.updTeam State.setTeam; split <;> rfl
@[simp] theorem State.updTeam_cur (s : State) (id : Nat) (f : Team → Team) : (s.updTeam id f).cur = s.cur := by
  unfold State.updTeam State.setTeam; split <;> rfl
@[simp] theorem State.updTeam_gangs (s : State) (id : Nat) (f : Team → Team) : (s.updTeam id f).gangs = s.gangs := by
  unfold State.updTeam State.setTeam; split <;> rfl
@[simp] theorem State.updTeam_grids (s : State) (id : Nat) (f : Team → Team) : (s.updTeam id f).grids = s.grids := by
  unfold State.updTeam State.setTeam; split <;> rfl
@[simp] theorem State.updTeam_clusters (s : State) (id : Nat) (f : Team → Team) : (s.updTeam id f).clusters = s.clusters := by
  unfold State.updTeam State.setTeam; split <;> rfl
@[simp] theorem State.updTeam_contexts (s : State) (id : Nat) (f : Team → Team) : (s.updTeam id f).contexts = s.contexts := by
  unfold State.updTeam State.setTeam; split <;> rfl
@[simp] theorem State.updTeam_partitions (s : State) (id : Nat) (f : Team → Team) : (s.updTeam id f).partitions = s.partitions := by
  unfold State.updTeam State.setTeam; split <;> rfl
@[simp] theorem State.updTeam_domains (s : State) (id : Nat) (f : Team → Team) : (s.updTeam id f).domains = s.domains := by
  unfold State.updTeam State.setTeam; split <;> rfl
@[simp] theorem State.updTeam_areas (s : State) (id : Nat) (f : Team → Team) : (s.updTeam id f).areas = s.areas := by
  unfold State.updTeam State.setTeam; split <;> rfl
@[simp] theorem State.updTeam_tags (s : State) (id : Nat) (f : Team → Team) : (s.updTeam id f).tags = s.tags := by
  unfold State.updTeam State.setTeam; split <;> rfl
@[simp] theorem State.updTeam_tagHeld (s : State) (id : Nat) (f : Team → Team) : (s.updTeam id f).tagHeld = s.tagHeld := by
  unfold State.updTeam State.setTeam; split <;> rfl
@[simp] theorem State.updTeam_channels (s : State) (id : Nat) (f : Team → Team) : (s.updTeam id f).channels = s.channels := by
  unfold State.updTeam State.setTeam; split <;> rfl
@[simp] theorem State.updTeam_collectives (s : State) (id : Nat) (f : Team → Team) : (s.updTeam id f).collectives = s.collectives := by
  unfold State.updTeam State.setTeam; split <;> rfl
@[simp] theorem State.updTeam_mem (s : State) (id : Nat) (f : Team → Team) : (s.updTeam id f).mem = s.mem := by
  unfold State.updTeam State.setTeam; split <;> rfl
@[simp] theorem State.updTeam_poison (s : State) (id : Nat) (f : Team → Team) : (s.updTeam id f).poison = s.poison := by
  unfold State.updTeam State.setTeam; split <;> rfl
@[simp] theorem State.updTeam_traffic (s : State) (id : Nat) (f : Team → Team) : (s.updTeam id f).traffic = s.traffic := by
  unfold State.updTeam State.setTeam; split <;> rfl
@[simp] theorem State.updTeam_checks (s : State) (id : Nat) (f : Team → Team) : (s.updTeam id f).checks = s.checks := by
  unfold State.updTeam State.setTeam; split <;> rfl
@[simp] theorem State.updTeam_l2 (s : State) (id : Nat) (f : Team → Team) : (s.updTeam id f).l2 = s.l2 := by
  unfold State.updTeam State.setTeam; split <;> rfl
@[simp] theorem State.updTeam_frames (s : State) (id : Nat) (f : Team → Team) : (s.updTeam id f).frames = s.frames := by
  unfold State.updTeam State.setTeam; split <;> rfl
@[simp] theorem State.updTeam_translations (s : State) (id : Nat) (f : Team → Team) : (s.updTeam id f).translations = s.translations := by
  unfold State.updTeam State.setTeam; split <;> rfl
@[simp] theorem State.updTeam_faulted (s : State) (id : Nat) (f : Team → Team) : (s.updTeam id f).faulted = s.faulted := by
  unfold State.updTeam State.setTeam; split <;> rfl
@[simp] theorem State.updTeam_caches (s : State) (id : Nat) (f : Team → Team) : (s.updTeam id f).caches = s.caches := by
  unfold State.updTeam State.setTeam; split <;> rfl
@[simp] theorem State.updTeam_faults (s : State) (id : Nat) (f : Team → Team) : (s.updTeam id f).faults = s.faults := by
  unfold State.updTeam State.setTeam; split <;> rfl
@[simp] theorem State.updTeam_cascade (s : State) (id : Nat) (f : Team → Team) : (s.updTeam id f).cascade = s.cascade := by
  unfold State.updTeam State.setTeam; split <;> rfl
@[simp] theorem State.updTeam_strikes (s : State) (id : Nat) (f : Team → Team) : (s.updTeam id f).strikes = s.strikes := by
  unfold State.updTeam State.setTeam; split <;> rfl
@[simp] theorem State.updTeam_corrected (s : State) (id : Nat) (f : Team → Team) : (s.updTeam id f).corrected = s.corrected := by
  unfold State.updTeam State.setTeam; split <;> rfl
@[simp] theorem State.updTeam_quarantined (s : State) (id : Nat) (f : Team → Team) : (s.updTeam id f).quarantined = s.quarantined := by
  unfold State.updTeam State.setTeam; split <;> rfl
@[simp] theorem State.updTeam_pulsed (s : State) (id : Nat) (f : Team → Team) : (s.updTeam id f).pulsed = s.pulsed := by
  unfold State.updTeam State.setTeam; split <;> rfl
@[simp] theorem State.updTeam_samples (s : State) (id : Nat) (f : Team → Team) : (s.updTeam id f).samples = s.samples := by
  unfold State.updTeam State.setTeam; split <;> rfl
@[simp] theorem State.updTeam_mgt (s : State) (id : Nat) (f : Team → Team) : (s.updTeam id f).mgt = s.mgt := by
  unfold State.updTeam State.setTeam; split <;> rfl
@[simp] theorem State.updTeam_pbuf (s : State) (id : Nat) (f : Team → Team) : (s.updTeam id f).pbuf = s.pbuf := by
  unfold State.updTeam State.setTeam; split <;> rfl
@[simp] theorem State.updTeam_powered (s : State) (id : Nat) (f : Team → Team) : (s.updTeam id f).powered = s.powered := by
  unfold State.updTeam State.setTeam; split <;> rfl
@[simp] theorem State.updTeam_alert (s : State) (id : Nat) (f : Team → Team) : (s.updTeam id f).alert = s.alert := by
  unfold State.updTeam State.setTeam; split <;> rfl
@[simp] theorem State.updTeam_throttled (s : State) (id : Nat) (f : Team → Team) : (s.updTeam id f).throttled = s.throttled := by
  unfold State.updTeam State.setTeam; split <;> rfl
@[simp] theorem State.updTeam_testInstr (s : State) (id : Nat) (f : Team → Team) : (s.updTeam id f).testInstr = s.testInstr := by
  unfold State.updTeam State.setTeam; split <;> rfl
@[simp] theorem State.updTeam_testData (s : State) (id : Nat) (f : Team → Team) : (s.updTeam id f).testData = s.testData := by
  unfold State.updTeam State.setTeam; split <;> rfl
@[simp] theorem State.updTeam_boundary (s : State) (id : Nat) (f : Team → Team) : (s.updTeam id f).boundary = s.boundary := by
  unfold State.updTeam State.setTeam; split <;> rfl
@[simp] theorem State.updTeam_removing (s : State) (id : Nat) (f : Team → Team) : (s.updTeam id f).removing = s.removing := by
  unfold State.updTeam State.setTeam; split <;> rfl
@[simp] theorem State.updTeam_bootCount (s : State) (id : Nat) (f : Team → Team) : (s.updTeam id f).bootCount = s.bootCount := by
  unfold State.updTeam State.setTeam; split <;> rfl
@[simp] theorem State.updTeam_lmsLeaf (s : State) (id : Nat) (f : Team → Team) : (s.updTeam id f).lmsLeaf = s.lmsLeaf := by
  unfold State.updTeam State.setTeam; split <;> rfl
@[simp] theorem State.updTeam_agenda (s : State) (id : Nat) (f : Team → Team) : (s.updTeam id f).agenda = s.agenda := by
  unfold State.updTeam State.setTeam; split <;> rfl
@[simp] theorem State.updTeam_inputs (s : State) (id : Nat) (f : Team → Team) : (s.updTeam id f).inputs = s.inputs := by
  unfold State.updTeam State.setTeam; split <;> rfl
@[simp] theorem State.updTeam_sent (s : State) (id : Nat) (f : Team → Team) : (s.updTeam id f).sent = s.sent := by
  unfold State.updTeam State.setTeam; split <;> rfl
@[simp] theorem State.updMe_clk (s : State) (f : Team → Team) : (s.updMe f).clk = s.clk := State.updTeam_clk s s.cur f
@[simp] theorem State.updMe_tick (s : State) (f : Team → Team) : (s.updMe f).tick = s.tick := State.updTeam_tick s s.cur f
@[simp] theorem State.updMe_serial (s : State) (f : Team → Team) : (s.updMe f).serial = s.serial := State.updTeam_serial s s.cur f
@[simp] theorem State.updMe_cur (s : State) (f : Team → Team) : (s.updMe f).cur = s.cur := State.updTeam_cur s s.cur f
@[simp] theorem State.updMe_gangs (s : State) (f : Team → Team) : (s.updMe f).gangs = s.gangs := State.updTeam_gangs s s.cur f
@[simp] theorem State.updMe_grids (s : State) (f : Team → Team) : (s.updMe f).grids = s.grids := State.updTeam_grids s s.cur f
@[simp] theorem State.updMe_clusters (s : State) (f : Team → Team) : (s.updMe f).clusters = s.clusters := State.updTeam_clusters s s.cur f
@[simp] theorem State.updMe_contexts (s : State) (f : Team → Team) : (s.updMe f).contexts = s.contexts := State.updTeam_contexts s s.cur f
@[simp] theorem State.updMe_partitions (s : State) (f : Team → Team) : (s.updMe f).partitions = s.partitions := State.updTeam_partitions s s.cur f
@[simp] theorem State.updMe_domains (s : State) (f : Team → Team) : (s.updMe f).domains = s.domains := State.updTeam_domains s s.cur f
@[simp] theorem State.updMe_areas (s : State) (f : Team → Team) : (s.updMe f).areas = s.areas := State.updTeam_areas s s.cur f
@[simp] theorem State.updMe_tags (s : State) (f : Team → Team) : (s.updMe f).tags = s.tags := State.updTeam_tags s s.cur f
@[simp] theorem State.updMe_tagHeld (s : State) (f : Team → Team) : (s.updMe f).tagHeld = s.tagHeld := State.updTeam_tagHeld s s.cur f
@[simp] theorem State.updMe_channels (s : State) (f : Team → Team) : (s.updMe f).channels = s.channels := State.updTeam_channels s s.cur f
@[simp] theorem State.updMe_collectives (s : State) (f : Team → Team) : (s.updMe f).collectives = s.collectives := State.updTeam_collectives s s.cur f
@[simp] theorem State.updMe_mem (s : State) (f : Team → Team) : (s.updMe f).mem = s.mem := State.updTeam_mem s s.cur f
@[simp] theorem State.updMe_poison (s : State) (f : Team → Team) : (s.updMe f).poison = s.poison := State.updTeam_poison s s.cur f
@[simp] theorem State.updMe_traffic (s : State) (f : Team → Team) : (s.updMe f).traffic = s.traffic := State.updTeam_traffic s s.cur f
@[simp] theorem State.updMe_checks (s : State) (f : Team → Team) : (s.updMe f).checks = s.checks := State.updTeam_checks s s.cur f
@[simp] theorem State.updMe_l2 (s : State) (f : Team → Team) : (s.updMe f).l2 = s.l2 := State.updTeam_l2 s s.cur f
@[simp] theorem State.updMe_frames (s : State) (f : Team → Team) : (s.updMe f).frames = s.frames := State.updTeam_frames s s.cur f
@[simp] theorem State.updMe_translations (s : State) (f : Team → Team) : (s.updMe f).translations = s.translations := State.updTeam_translations s s.cur f
@[simp] theorem State.updMe_faulted (s : State) (f : Team → Team) : (s.updMe f).faulted = s.faulted := State.updTeam_faulted s s.cur f
@[simp] theorem State.updMe_caches (s : State) (f : Team → Team) : (s.updMe f).caches = s.caches := State.updTeam_caches s s.cur f
@[simp] theorem State.updMe_faults (s : State) (f : Team → Team) : (s.updMe f).faults = s.faults := State.updTeam_faults s s.cur f
@[simp] theorem State.updMe_cascade (s : State) (f : Team → Team) : (s.updMe f).cascade = s.cascade := State.updTeam_cascade s s.cur f
@[simp] theorem State.updMe_strikes (s : State) (f : Team → Team) : (s.updMe f).strikes = s.strikes := State.updTeam_strikes s s.cur f
@[simp] theorem State.updMe_corrected (s : State) (f : Team → Team) : (s.updMe f).corrected = s.corrected := State.updTeam_corrected s s.cur f
@[simp] theorem State.updMe_quarantined (s : State) (f : Team → Team) : (s.updMe f).quarantined = s.quarantined := State.updTeam_quarantined s s.cur f
@[simp] theorem State.updMe_pulsed (s : State) (f : Team → Team) : (s.updMe f).pulsed = s.pulsed := State.updTeam_pulsed s s.cur f
@[simp] theorem State.updMe_samples (s : State) (f : Team → Team) : (s.updMe f).samples = s.samples := State.updTeam_samples s s.cur f
@[simp] theorem State.updMe_mgt (s : State) (f : Team → Team) : (s.updMe f).mgt = s.mgt := State.updTeam_mgt s s.cur f
@[simp] theorem State.updMe_pbuf (s : State) (f : Team → Team) : (s.updMe f).pbuf = s.pbuf := State.updTeam_pbuf s s.cur f
@[simp] theorem State.updMe_powered (s : State) (f : Team → Team) : (s.updMe f).powered = s.powered := State.updTeam_powered s s.cur f
@[simp] theorem State.updMe_alert (s : State) (f : Team → Team) : (s.updMe f).alert = s.alert := State.updTeam_alert s s.cur f
@[simp] theorem State.updMe_throttled (s : State) (f : Team → Team) : (s.updMe f).throttled = s.throttled := State.updTeam_throttled s s.cur f
@[simp] theorem State.updMe_testInstr (s : State) (f : Team → Team) : (s.updMe f).testInstr = s.testInstr := State.updTeam_testInstr s s.cur f
@[simp] theorem State.updMe_testData (s : State) (f : Team → Team) : (s.updMe f).testData = s.testData := State.updTeam_testData s s.cur f
@[simp] theorem State.updMe_boundary (s : State) (f : Team → Team) : (s.updMe f).boundary = s.boundary := State.updTeam_boundary s s.cur f
@[simp] theorem State.updMe_removing (s : State) (f : Team → Team) : (s.updMe f).removing = s.removing := State.updTeam_removing s s.cur f
@[simp] theorem State.updMe_bootCount (s : State) (f : Team → Team) : (s.updMe f).bootCount = s.bootCount := State.updTeam_bootCount s s.cur f
@[simp] theorem State.updMe_lmsLeaf (s : State) (f : Team → Team) : (s.updMe f).lmsLeaf = s.lmsLeaf := State.updTeam_lmsLeaf s s.cur f
@[simp] theorem State.updMe_agenda (s : State) (f : Team → Team) : (s.updMe f).agenda = s.agenda := State.updTeam_agenda s s.cur f
@[simp] theorem State.updMe_inputs (s : State) (f : Team → Team) : (s.updMe f).inputs = s.inputs := State.updTeam_inputs s s.cur f
@[simp] theorem State.updMe_sent (s : State) (f : Team → Team) : (s.updMe f).sent = s.sent := State.updTeam_sent s s.cur f
theorem State.updTeam_find {s : State} {id : Nat} {t : Team} (f : Team → Team) (h : s.teams.find id = some t) :
    (s.updTeam id f).teams.find id = some (f t) := by
  simp [State.updTeam, h]
theorem State.updTeam_find_ne (s : State) {id k : Nat} (f : Team → Team) (h : k ≠ id) :
    (s.updTeam id f).teams.find k = s.teams.find k := by
  unfold State.updTeam; split
  · exact State.setTeam_find_ne s _ h
  · rfl
theorem State.updMe_me {s : State} {t : Team} (f : Team → Team) (h : s.me = some t) : (s.updMe f).me = some (f t) := by
  simp only [State.me, State.updMe, State.updTeam_cur] at *; exact State.updTeam_find f h
@[simp] theorem State.updContext_clk (s : State) (ctx : Nat) (f : Context → Context) : (s.updContext ctx f).clk = s.clk := by
  unfold State.updContext; split <;> rfl
@[simp] theorem State.updContext_tick (s : State) (ctx : Nat) (f : Context → Context) : (s.updContext ctx f).tick = s.tick := by
  unfold State.updContext; split <;> rfl
@[simp] theorem State.updContext_serial (s : State) (ctx : Nat) (f : Context → Context) : (s.updContext ctx f).serial = s.serial := by
  unfold State.updContext; split <;> rfl
@[simp] theorem State.updContext_cur (s : State) (ctx : Nat) (f : Context → Context) : (s.updContext ctx f).cur = s.cur := by
  unfold State.updContext; split <;> rfl
@[simp] theorem State.updContext_teams (s : State) (ctx : Nat) (f : Context → Context) : (s.updContext ctx f).teams = s.teams := by
  unfold State.updContext; split <;> rfl
@[simp] theorem State.updContext_gangs (s : State) (ctx : Nat) (f : Context → Context) : (s.updContext ctx f).gangs = s.gangs := by
  unfold State.updContext; split <;> rfl
@[simp] theorem State.updContext_grids (s : State) (ctx : Nat) (f : Context → Context) : (s.updContext ctx f).grids = s.grids := by
  unfold State.updContext; split <;> rfl
@[simp] theorem State.updContext_clusters (s : State) (ctx : Nat) (f : Context → Context) : (s.updContext ctx f).clusters = s.clusters := by
  unfold State.updContext; split <;> rfl
@[simp] theorem State.updContext_domains (s : State) (ctx : Nat) (f : Context → Context) : (s.updContext ctx f).domains = s.domains := by
  unfold State.updContext; split <;> rfl
@[simp] theorem State.updContext_areas (s : State) (ctx : Nat) (f : Context → Context) : (s.updContext ctx f).areas = s.areas := by
  unfold State.updContext; split <;> rfl
@[simp] theorem State.updContext_tags (s : State) (ctx : Nat) (f : Context → Context) : (s.updContext ctx f).tags = s.tags := by
  unfold State.updContext; split <;> rfl
@[simp] theorem State.updContext_mem (s : State) (ctx : Nat) (f : Context → Context) : (s.updContext ctx f).mem = s.mem := by
  unfold State.updContext; split <;> rfl
@[simp] theorem State.updContext_poison (s : State) (ctx : Nat) (f : Context → Context) : (s.updContext ctx f).poison = s.poison := by
  unfold State.updContext; split <;> rfl
@[simp] theorem State.updContext_traffic (s : State) (ctx : Nat) (f : Context → Context) : (s.updContext ctx f).traffic = s.traffic := by
  unfold State.updContext; split <;> rfl
@[simp] theorem State.updContext_checks (s : State) (ctx : Nat) (f : Context → Context) : (s.updContext ctx f).checks = s.checks := by
  unfold State.updContext; split <;> rfl
@[simp] theorem State.updContext_l2 (s : State) (ctx : Nat) (f : Context → Context) : (s.updContext ctx f).l2 = s.l2 := by
  unfold State.updContext; split <;> rfl
@[simp] theorem State.updContext_frames (s : State) (ctx : Nat) (f : Context → Context) : (s.updContext ctx f).frames = s.frames := by
  unfold State.updContext; split <;> rfl
@[simp] theorem State.updContext_translations (s : State) (ctx : Nat) (f : Context → Context) : (s.updContext ctx f).translations = s.translations := by
  unfold State.updContext; split <;> rfl
@[simp] theorem State.updContext_caches (s : State) (ctx : Nat) (f : Context → Context) : (s.updContext ctx f).caches = s.caches := by
  unfold State.updContext; split <;> rfl
@[simp] theorem State.updContext_agenda (s : State) (ctx : Nat) (f : Context → Context) : (s.updContext ctx f).agenda = s.agenda := by
  unfold State.updContext; split <;> rfl
@[simp] theorem State.updContext_inputs (s : State) (ctx : Nat) (f : Context → Context) : (s.updContext ctx f).inputs = s.inputs := by
  unfold State.updContext; split <;> rfl
@[simp] theorem State.setReg_clk (s : State) (ctx off : Nat) (v : DWord) : (s.setReg ctx off v).clk = s.clk := State.updContext_clk s ctx _
@[simp] theorem State.setReg_tick (s : State) (ctx off : Nat) (v : DWord) : (s.setReg ctx off v).tick = s.tick := State.updContext_tick s ctx _
@[simp] theorem State.setReg_serial (s : State) (ctx off : Nat) (v : DWord) : (s.setReg ctx off v).serial = s.serial := State.updContext_serial s ctx _
@[simp] theorem State.setReg_cur (s : State) (ctx off : Nat) (v : DWord) : (s.setReg ctx off v).cur = s.cur := State.updContext_cur s ctx _
@[simp] theorem State.setReg_teams (s : State) (ctx off : Nat) (v : DWord) : (s.setReg ctx off v).teams = s.teams := State.updContext_teams s ctx _
@[simp] theorem State.setReg_gangs (s : State) (ctx off : Nat) (v : DWord) : (s.setReg ctx off v).gangs = s.gangs := State.updContext_gangs s ctx _
@[simp] theorem State.setReg_grids (s : State) (ctx off : Nat) (v : DWord) : (s.setReg ctx off v).grids = s.grids := State.updContext_grids s ctx _
@[simp] theorem State.setReg_clusters (s : State) (ctx off : Nat) (v : DWord) : (s.setReg ctx off v).clusters = s.clusters := State.updContext_clusters s ctx _
@[simp] theorem State.setReg_domains (s : State) (ctx off : Nat) (v : DWord) : (s.setReg ctx off v).domains = s.domains := State.updContext_domains s ctx _
@[simp] theorem State.setReg_areas (s : State) (ctx off : Nat) (v : DWord) : (s.setReg ctx off v).areas = s.areas := State.updContext_areas s ctx _
@[simp] theorem State.setReg_tags (s : State) (ctx off : Nat) (v : DWord) : (s.setReg ctx off v).tags = s.tags := State.updContext_tags s ctx _
@[simp] theorem State.setReg_mem (s : State) (ctx off : Nat) (v : DWord) : (s.setReg ctx off v).mem = s.mem := State.updContext_mem s ctx _
@[simp] theorem State.setReg_poison (s : State) (ctx off : Nat) (v : DWord) : (s.setReg ctx off v).poison = s.poison := State.updContext_poison s ctx _
@[simp] theorem State.setReg_traffic (s : State) (ctx off : Nat) (v : DWord) : (s.setReg ctx off v).traffic = s.traffic := State.updContext_traffic s ctx _
@[simp] theorem State.setReg_checks (s : State) (ctx off : Nat) (v : DWord) : (s.setReg ctx off v).checks = s.checks := State.updContext_checks s ctx _
@[simp] theorem State.setReg_l2 (s : State) (ctx off : Nat) (v : DWord) : (s.setReg ctx off v).l2 = s.l2 := State.updContext_l2 s ctx _
@[simp] theorem State.setReg_frames (s : State) (ctx off : Nat) (v : DWord) : (s.setReg ctx off v).frames = s.frames := State.updContext_frames s ctx _
@[simp] theorem State.setReg_translations (s : State) (ctx off : Nat) (v : DWord) : (s.setReg ctx off v).translations = s.translations := State.updContext_translations s ctx _
@[simp] theorem State.setReg_caches (s : State) (ctx off : Nat) (v : DWord) : (s.setReg ctx off v).caches = s.caches := State.updContext_caches s ctx _
@[simp] theorem State.setReg_agenda (s : State) (ctx off : Nat) (v : DWord) : (s.setReg ctx off v).agenda = s.agenda := State.updContext_agenda s ctx _
@[simp] theorem State.setReg_inputs (s : State) (ctx off : Nat) (v : DWord) : (s.setReg ctx off v).inputs = s.inputs := State.updContext_inputs s ctx _
@[simp] theorem State.updGang_clk (s : State) (id : Nat) (f : Gang → Gang) : (s.updGang id f).clk = s.clk := by
  unfold State.updGang; split <;> rfl
@[simp] theorem State.updGang_tick (s : State) (id : Nat) (f : Gang → Gang) : (s.updGang id f).tick = s.tick := by
  unfold State.updGang; split <;> rfl
@[simp] theorem State.updGang_serial (s : State) (id : Nat) (f : Gang → Gang) : (s.updGang id f).serial = s.serial := by
  unfold State.updGang; split <;> rfl
@[simp] theorem State.updGang_cur (s : State) (id : Nat) (f : Gang → Gang) : (s.updGang id f).cur = s.cur := by
  unfold State.updGang; split <;> rfl
@[simp] theorem State.updGang_teams (s : State) (id : Nat) (f : Gang → Gang) : (s.updGang id f).teams = s.teams := by
  unfold State.updGang; split <;> rfl
@[simp] theorem State.updGang_grids (s : State) (id : Nat) (f : Gang → Gang) : (s.updGang id f).grids = s.grids := by
  unfold State.updGang; split <;> rfl
@[simp] theorem State.updGang_clusters (s : State) (id : Nat) (f : Gang → Gang) : (s.updGang id f).clusters = s.clusters := by
  unfold State.updGang; split <;> rfl
@[simp] theorem State.updGang_contexts (s : State) (id : Nat) (f : Gang → Gang) : (s.updGang id f).contexts = s.contexts := by
  unfold State.updGang; split <;> rfl
@[simp] theorem State.updGang_domains (s : State) (id : Nat) (f : Gang → Gang) : (s.updGang id f).domains = s.domains := by
  unfold State.updGang; split <;> rfl
@[simp] theorem State.updGang_areas (s : State) (id : Nat) (f : Gang → Gang) : (s.updGang id f).areas = s.areas := by
  unfold State.updGang; split <;> rfl
@[simp] theorem State.updGang_tags (s : State) (id : Nat) (f : Gang → Gang) : (s.updGang id f).tags = s.tags := by
  unfold State.updGang; split <;> rfl
@[simp] theorem State.updGang_mem (s : State) (id : Nat) (f : Gang → Gang) : (s.updGang id f).mem = s.mem := by
  unfold State.updGang; split <;> rfl
@[simp] theorem State.updGang_poison (s : State) (id : Nat) (f : Gang → Gang) : (s.updGang id f).poison = s.poison := by
  unfold State.updGang; split <;> rfl
@[simp] theorem State.updGang_traffic (s : State) (id : Nat) (f : Gang → Gang) : (s.updGang id f).traffic = s.traffic := by
  unfold State.updGang; split <;> rfl
@[simp] theorem State.updGang_checks (s : State) (id : Nat) (f : Gang → Gang) : (s.updGang id f).checks = s.checks := by
  unfold State.updGang; split <;> rfl
@[simp] theorem State.updGang_l2 (s : State) (id : Nat) (f : Gang → Gang) : (s.updGang id f).l2 = s.l2 := by
  unfold State.updGang; split <;> rfl
@[simp] theorem State.updGang_frames (s : State) (id : Nat) (f : Gang → Gang) : (s.updGang id f).frames = s.frames := by
  unfold State.updGang; split <;> rfl
@[simp] theorem State.updGang_translations (s : State) (id : Nat) (f : Gang → Gang) : (s.updGang id f).translations = s.translations := by
  unfold State.updGang; split <;> rfl
@[simp] theorem State.updGang_caches (s : State) (id : Nat) (f : Gang → Gang) : (s.updGang id f).caches = s.caches := by
  unfold State.updGang; split <;> rfl
@[simp] theorem State.updGang_agenda (s : State) (id : Nat) (f : Gang → Gang) : (s.updGang id f).agenda = s.agenda := by
  unfold State.updGang; split <;> rfl
@[simp] theorem State.updGang_inputs (s : State) (id : Nat) (f : Gang → Gang) : (s.updGang id f).inputs = s.inputs := by
  unfold State.updGang; split <;> rfl
@[simp] theorem State.updCrew_clk (s : State) (gang k : Nat) (f : Crew → Crew) : (s.updCrew gang k f).clk = s.clk := State.updGang_clk s gang _
@[simp] theorem State.updCrew_tick (s : State) (gang k : Nat) (f : Crew → Crew) : (s.updCrew gang k f).tick = s.tick := State.updGang_tick s gang _
@[simp] theorem State.updCrew_serial (s : State) (gang k : Nat) (f : Crew → Crew) : (s.updCrew gang k f).serial = s.serial := State.updGang_serial s gang _
@[simp] theorem State.updCrew_cur (s : State) (gang k : Nat) (f : Crew → Crew) : (s.updCrew gang k f).cur = s.cur := State.updGang_cur s gang _
@[simp] theorem State.updCrew_teams (s : State) (gang k : Nat) (f : Crew → Crew) : (s.updCrew gang k f).teams = s.teams := State.updGang_teams s gang _
@[simp] theorem State.updCrew_grids (s : State) (gang k : Nat) (f : Crew → Crew) : (s.updCrew gang k f).grids = s.grids := State.updGang_grids s gang _
@[simp] theorem State.updCrew_clusters (s : State) (gang k : Nat) (f : Crew → Crew) : (s.updCrew gang k f).clusters = s.clusters := State.updGang_clusters s gang _
@[simp] theorem State.updCrew_contexts (s : State) (gang k : Nat) (f : Crew → Crew) : (s.updCrew gang k f).contexts = s.contexts := State.updGang_contexts s gang _
@[simp] theorem State.updCrew_domains (s : State) (gang k : Nat) (f : Crew → Crew) : (s.updCrew gang k f).domains = s.domains := State.updGang_domains s gang _
@[simp] theorem State.updCrew_areas (s : State) (gang k : Nat) (f : Crew → Crew) : (s.updCrew gang k f).areas = s.areas := State.updGang_areas s gang _
@[simp] theorem State.updCrew_tags (s : State) (gang k : Nat) (f : Crew → Crew) : (s.updCrew gang k f).tags = s.tags := State.updGang_tags s gang _
@[simp] theorem State.updCrew_mem (s : State) (gang k : Nat) (f : Crew → Crew) : (s.updCrew gang k f).mem = s.mem := State.updGang_mem s gang _
@[simp] theorem State.updCrew_poison (s : State) (gang k : Nat) (f : Crew → Crew) : (s.updCrew gang k f).poison = s.poison := State.updGang_poison s gang _
@[simp] theorem State.updCrew_traffic (s : State) (gang k : Nat) (f : Crew → Crew) : (s.updCrew gang k f).traffic = s.traffic := State.updGang_traffic s gang _
@[simp] theorem State.updCrew_checks (s : State) (gang k : Nat) (f : Crew → Crew) : (s.updCrew gang k f).checks = s.checks := State.updGang_checks s gang _
@[simp] theorem State.updCrew_l2 (s : State) (gang k : Nat) (f : Crew → Crew) : (s.updCrew gang k f).l2 = s.l2 := State.updGang_l2 s gang _
@[simp] theorem State.updCrew_frames (s : State) (gang k : Nat) (f : Crew → Crew) : (s.updCrew gang k f).frames = s.frames := State.updGang_frames s gang _
@[simp] theorem State.updCrew_translations (s : State) (gang k : Nat) (f : Crew → Crew) : (s.updCrew gang k f).translations = s.translations := State.updGang_translations s gang _
@[simp] theorem State.updCrew_caches (s : State) (gang k : Nat) (f : Crew → Crew) : (s.updCrew gang k f).caches = s.caches := State.updGang_caches s gang _
@[simp] theorem State.updCrew_agenda (s : State) (gang k : Nat) (f : Crew → Crew) : (s.updCrew gang k f).agenda = s.agenda := State.updGang_agenda s gang _
@[simp] theorem State.updCrew_inputs (s : State) (gang k : Nat) (f : Crew → Crew) : (s.updCrew gang k f).inputs = s.inputs := State.updGang_inputs s gang _
@[simp] theorem State.updArray_clk (s : State) (gang : Nat) (f : Array → Array) : (s.updArray gang f).clk = s.clk := State.updGang_clk s gang _
@[simp] theorem State.updArray_tick (s : State) (gang : Nat) (f : Array → Array) : (s.updArray gang f).tick = s.tick := State.updGang_tick s gang _
@[simp] theorem State.updArray_serial (s : State) (gang : Nat) (f : Array → Array) : (s.updArray gang f).serial = s.serial := State.updGang_serial s gang _
@[simp] theorem State.updArray_cur (s : State) (gang : Nat) (f : Array → Array) : (s.updArray gang f).cur = s.cur := State.updGang_cur s gang _
@[simp] theorem State.updArray_teams (s : State) (gang : Nat) (f : Array → Array) : (s.updArray gang f).teams = s.teams := State.updGang_teams s gang _
@[simp] theorem State.updArray_grids (s : State) (gang : Nat) (f : Array → Array) : (s.updArray gang f).grids = s.grids := State.updGang_grids s gang _
@[simp] theorem State.updArray_clusters (s : State) (gang : Nat) (f : Array → Array) : (s.updArray gang f).clusters = s.clusters := State.updGang_clusters s gang _
@[simp] theorem State.updArray_contexts (s : State) (gang : Nat) (f : Array → Array) : (s.updArray gang f).contexts = s.contexts := State.updGang_contexts s gang _
@[simp] theorem State.updArray_domains (s : State) (gang : Nat) (f : Array → Array) : (s.updArray gang f).domains = s.domains := State.updGang_domains s gang _
@[simp] theorem State.updArray_areas (s : State) (gang : Nat) (f : Array → Array) : (s.updArray gang f).areas = s.areas := State.updGang_areas s gang _
@[simp] theorem State.updArray_tags (s : State) (gang : Nat) (f : Array → Array) : (s.updArray gang f).tags = s.tags := State.updGang_tags s gang _
@[simp] theorem State.updArray_mem (s : State) (gang : Nat) (f : Array → Array) : (s.updArray gang f).mem = s.mem := State.updGang_mem s gang _
@[simp] theorem State.updArray_poison (s : State) (gang : Nat) (f : Array → Array) : (s.updArray gang f).poison = s.poison := State.updGang_poison s gang _
@[simp] theorem State.updArray_traffic (s : State) (gang : Nat) (f : Array → Array) : (s.updArray gang f).traffic = s.traffic := State.updGang_traffic s gang _
@[simp] theorem State.updArray_checks (s : State) (gang : Nat) (f : Array → Array) : (s.updArray gang f).checks = s.checks := State.updGang_checks s gang _
@[simp] theorem State.updArray_l2 (s : State) (gang : Nat) (f : Array → Array) : (s.updArray gang f).l2 = s.l2 := State.updGang_l2 s gang _
@[simp] theorem State.updArray_frames (s : State) (gang : Nat) (f : Array → Array) : (s.updArray gang f).frames = s.frames := State.updGang_frames s gang _
@[simp] theorem State.updArray_translations (s : State) (gang : Nat) (f : Array → Array) : (s.updArray gang f).translations = s.translations := State.updGang_translations s gang _
@[simp] theorem State.updArray_caches (s : State) (gang : Nat) (f : Array → Array) : (s.updArray gang f).caches = s.caches := State.updGang_caches s gang _
@[simp] theorem State.updArray_agenda (s : State) (gang : Nat) (f : Array → Array) : (s.updArray gang f).agenda = s.agenda := State.updGang_agenda s gang _
@[simp] theorem State.updArray_inputs (s : State) (gang : Nat) (f : Array → Array) : (s.updArray gang f).inputs = s.inputs := State.updGang_inputs s gang _
@[simp] theorem State.updCluster_clk (s : State) (n : Nat) (f : Cluster → Cluster) : (s.updCluster n f).clk = s.clk := rfl
@[simp] theorem State.updCluster_tick (s : State) (n : Nat) (f : Cluster → Cluster) : (s.updCluster n f).tick = s.tick := rfl
@[simp] theorem State.updCluster_serial (s : State) (n : Nat) (f : Cluster → Cluster) : (s.updCluster n f).serial = s.serial := rfl
@[simp] theorem State.updCluster_cur (s : State) (n : Nat) (f : Cluster → Cluster) : (s.updCluster n f).cur = s.cur := rfl
@[simp] theorem State.updCluster_teams (s : State) (n : Nat) (f : Cluster → Cluster) : (s.updCluster n f).teams = s.teams := rfl
@[simp] theorem State.updCluster_gangs (s : State) (n : Nat) (f : Cluster → Cluster) : (s.updCluster n f).gangs = s.gangs := rfl
@[simp] theorem State.updCluster_grids (s : State) (n : Nat) (f : Cluster → Cluster) : (s.updCluster n f).grids = s.grids := rfl
@[simp] theorem State.updCluster_contexts (s : State) (n : Nat) (f : Cluster → Cluster) : (s.updCluster n f).contexts = s.contexts := rfl
@[simp] theorem State.updCluster_domains (s : State) (n : Nat) (f : Cluster → Cluster) : (s.updCluster n f).domains = s.domains := rfl
@[simp] theorem State.updCluster_areas (s : State) (n : Nat) (f : Cluster → Cluster) : (s.updCluster n f).areas = s.areas := rfl
@[simp] theorem State.updCluster_tags (s : State) (n : Nat) (f : Cluster → Cluster) : (s.updCluster n f).tags = s.tags := rfl
@[simp] theorem State.updCluster_mem (s : State) (n : Nat) (f : Cluster → Cluster) : (s.updCluster n f).mem = s.mem := rfl
@[simp] theorem State.updCluster_poison (s : State) (n : Nat) (f : Cluster → Cluster) : (s.updCluster n f).poison = s.poison := rfl
@[simp] theorem State.updCluster_traffic (s : State) (n : Nat) (f : Cluster → Cluster) : (s.updCluster n f).traffic = s.traffic := rfl
@[simp] theorem State.updCluster_checks (s : State) (n : Nat) (f : Cluster → Cluster) : (s.updCluster n f).checks = s.checks := rfl
@[simp] theorem State.updCluster_l2 (s : State) (n : Nat) (f : Cluster → Cluster) : (s.updCluster n f).l2 = s.l2 := rfl
@[simp] theorem State.updCluster_frames (s : State) (n : Nat) (f : Cluster → Cluster) : (s.updCluster n f).frames = s.frames := rfl
@[simp] theorem State.updCluster_translations (s : State) (n : Nat) (f : Cluster → Cluster) : (s.updCluster n f).translations = s.translations := rfl
@[simp] theorem State.updCluster_caches (s : State) (n : Nat) (f : Cluster → Cluster) : (s.updCluster n f).caches = s.caches := rfl
@[simp] theorem State.updCluster_agenda (s : State) (n : Nat) (f : Cluster → Cluster) : (s.updCluster n f).agenda = s.agenda := rfl
@[simp] theorem State.updCluster_inputs (s : State) (n : Nat) (f : Cluster → Cluster) : (s.updCluster n f).inputs = s.inputs := rfl
@[simp] theorem State.claim_clk (s : State) (pa : Nat) (x : Translation) : (s.claim pa x).clk = s.clk := by
  unfold State.claim; split <;> rfl
@[simp] theorem State.claim_tick (s : State) (pa : Nat) (x : Translation) : (s.claim pa x).tick = s.tick := by
  unfold State.claim; split <;> rfl
@[simp] theorem State.claim_serial (s : State) (pa : Nat) (x : Translation) : (s.claim pa x).serial = s.serial := by
  unfold State.claim; split <;> rfl
@[simp] theorem State.claim_cur (s : State) (pa : Nat) (x : Translation) : (s.claim pa x).cur = s.cur := by
  unfold State.claim; split <;> rfl
@[simp] theorem State.claim_teams (s : State) (pa : Nat) (x : Translation) : (s.claim pa x).teams = s.teams := by
  unfold State.claim; split <;> rfl
@[simp] theorem State.claim_gangs (s : State) (pa : Nat) (x : Translation) : (s.claim pa x).gangs = s.gangs := by
  unfold State.claim; split <;> rfl
@[simp] theorem State.claim_grids (s : State) (pa : Nat) (x : Translation) : (s.claim pa x).grids = s.grids := by
  unfold State.claim; split <;> rfl
@[simp] theorem State.claim_clusters (s : State) (pa : Nat) (x : Translation) : (s.claim pa x).clusters = s.clusters := by
  unfold State.claim; split <;> rfl
@[simp] theorem State.claim_contexts (s : State) (pa : Nat) (x : Translation) : (s.claim pa x).contexts = s.contexts := by
  unfold State.claim; split <;> rfl
@[simp] theorem State.claim_domains (s : State) (pa : Nat) (x : Translation) : (s.claim pa x).domains = s.domains := by
  unfold State.claim; split <;> rfl
@[simp] theorem State.claim_areas (s : State) (pa : Nat) (x : Translation) : (s.claim pa x).areas = s.areas := by
  unfold State.claim; split <;> rfl
@[simp] theorem State.claim_tags (s : State) (pa : Nat) (x : Translation) : (s.claim pa x).tags = s.tags := by
  unfold State.claim; split <;> rfl
@[simp] theorem State.claim_mem (s : State) (pa : Nat) (x : Translation) : (s.claim pa x).mem = s.mem := by
  unfold State.claim; split <;> rfl
@[simp] theorem State.claim_poison (s : State) (pa : Nat) (x : Translation) : (s.claim pa x).poison = s.poison := by
  unfold State.claim; split <;> rfl
@[simp] theorem State.claim_traffic (s : State) (pa : Nat) (x : Translation) : (s.claim pa x).traffic = s.traffic := by
  unfold State.claim; split <;> rfl
@[simp] theorem State.claim_checks (s : State) (pa : Nat) (x : Translation) : (s.claim pa x).checks = s.checks := by
  unfold State.claim; split <;> rfl
@[simp] theorem State.claim_l2 (s : State) (pa : Nat) (x : Translation) : (s.claim pa x).l2 = s.l2 := by
  unfold State.claim; split <;> rfl
@[simp] theorem State.claim_translations (s : State) (pa : Nat) (x : Translation) : (s.claim pa x).translations = s.translations := by
  unfold State.claim; split <;> rfl
@[simp] theorem State.claim_caches (s : State) (pa : Nat) (x : Translation) : (s.claim pa x).caches = s.caches := by
  unfold State.claim; split <;> rfl
@[simp] theorem State.claim_agenda (s : State) (pa : Nat) (x : Translation) : (s.claim pa x).agenda = s.agenda := by
  unfold State.claim; split <;> rfl
@[simp] theorem State.claim_inputs (s : State) (pa : Nat) (x : Translation) : (s.claim pa x).inputs = s.inputs := by
  unfold State.claim; split <;> rfl
@[simp] theorem State.fill_clk (s : State) (x : Translation) : (s.fill x).clk = s.clk := by
  unfold State.fill; dsimp only; repeat (first | rfl | split)
@[simp] theorem State.fill_serial (s : State) (x : Translation) : (s.fill x).serial = s.serial := by
  unfold State.fill; dsimp only; repeat (first | rfl | split)
@[simp] theorem State.fill_cur (s : State) (x : Translation) : (s.fill x).cur = s.cur := by
  unfold State.fill; dsimp only; repeat (first | rfl | split)
@[simp] theorem State.fill_teams (s : State) (x : Translation) : (s.fill x).teams = s.teams := by
  unfold State.fill; dsimp only; repeat (first | rfl | split)
@[simp] theorem State.fill_gangs (s : State) (x : Translation) : (s.fill x).gangs = s.gangs := by
  unfold State.fill; dsimp only; repeat (first | rfl | split)
@[simp] theorem State.fill_grids (s : State) (x : Translation) : (s.fill x).grids = s.grids := by
  unfold State.fill; dsimp only; repeat (first | rfl | split)
@[simp] theorem State.fill_clusters (s : State) (x : Translation) : (s.fill x).clusters = s.clusters := by
  unfold State.fill; dsimp only; repeat (first | rfl | split)
@[simp] theorem State.fill_contexts (s : State) (x : Translation) : (s.fill x).contexts = s.contexts := by
  unfold State.fill; dsimp only; repeat (first | rfl | split)
@[simp] theorem State.fill_domains (s : State) (x : Translation) : (s.fill x).domains = s.domains := by
  unfold State.fill; dsimp only; repeat (first | rfl | split)
@[simp] theorem State.fill_areas (s : State) (x : Translation) : (s.fill x).areas = s.areas := by
  unfold State.fill; dsimp only; repeat (first | rfl | split)
@[simp] theorem State.fill_tags (s : State) (x : Translation) : (s.fill x).tags = s.tags := by
  unfold State.fill; dsimp only; repeat (first | rfl | split)
@[simp] theorem State.fill_mem (s : State) (x : Translation) : (s.fill x).mem = s.mem := by
  unfold State.fill; dsimp only; repeat (first | rfl | split)
@[simp] theorem State.fill_poison (s : State) (x : Translation) : (s.fill x).poison = s.poison := by
  unfold State.fill; dsimp only; repeat (first | rfl | split)
@[simp] theorem State.fill_traffic (s : State) (x : Translation) : (s.fill x).traffic = s.traffic := by
  unfold State.fill; dsimp only; repeat (first | rfl | split)
@[simp] theorem State.fill_checks (s : State) (x : Translation) : (s.fill x).checks = s.checks := by
  unfold State.fill; dsimp only; repeat (first | rfl | split)
@[simp] theorem State.fill_l2 (s : State) (x : Translation) : (s.fill x).l2 = s.l2 := by
  unfold State.fill; dsimp only; repeat (first | rfl | split)
@[simp] theorem State.fill_frames (s : State) (x : Translation) : (s.fill x).frames = s.frames := by
  unfold State.fill; dsimp only; repeat (first | rfl | split)
@[simp] theorem State.fill_caches (s : State) (x : Translation) : (s.fill x).caches = s.caches := by
  unfold State.fill; dsimp only; repeat (first | rfl | split)
@[simp] theorem State.fill_agenda (s : State) (x : Translation) : (s.fill x).agenda = s.agenda := by
  unfold State.fill; dsimp only; repeat (first | rfl | split)
@[simp] theorem State.fill_inputs (s : State) (x : Translation) : (s.fill x).inputs = s.inputs := by
  unfold State.fill; dsimp only; repeat (first | rfl | split)
@[simp] theorem State.letIn_clk (s : State) (ctx pa : Nat) (x : Translation) : (s.letIn ctx pa x).clk = s.clk := by
  simp only [State.letIn, State.fill_clk, State.claim_clk]
@[simp] theorem State.letIn_serial (s : State) (ctx pa : Nat) (x : Translation) : (s.letIn ctx pa x).serial = s.serial := by
  simp only [State.letIn, State.fill_serial, State.claim_serial]
@[simp] theorem State.letIn_cur (s : State) (ctx pa : Nat) (x : Translation) : (s.letIn ctx pa x).cur = s.cur := by
  simp only [State.letIn, State.fill_cur, State.claim_cur]
@[simp] theorem State.letIn_teams (s : State) (ctx pa : Nat) (x : Translation) : (s.letIn ctx pa x).teams = s.teams := by
  simp only [State.letIn, State.fill_teams, State.claim_teams]
@[simp] theorem State.letIn_gangs (s : State) (ctx pa : Nat) (x : Translation) : (s.letIn ctx pa x).gangs = s.gangs := by
  simp only [State.letIn, State.fill_gangs, State.claim_gangs]
@[simp] theorem State.letIn_grids (s : State) (ctx pa : Nat) (x : Translation) : (s.letIn ctx pa x).grids = s.grids := by
  simp only [State.letIn, State.fill_grids, State.claim_grids]
@[simp] theorem State.letIn_clusters (s : State) (ctx pa : Nat) (x : Translation) : (s.letIn ctx pa x).clusters = s.clusters := by
  simp only [State.letIn, State.fill_clusters, State.claim_clusters]
@[simp] theorem State.letIn_contexts (s : State) (ctx pa : Nat) (x : Translation) : (s.letIn ctx pa x).contexts = s.contexts := by
  simp only [State.letIn, State.fill_contexts, State.claim_contexts]
@[simp] theorem State.letIn_domains (s : State) (ctx pa : Nat) (x : Translation) : (s.letIn ctx pa x).domains = s.domains := by
  simp only [State.letIn, State.fill_domains, State.claim_domains]
@[simp] theorem State.letIn_areas (s : State) (ctx pa : Nat) (x : Translation) : (s.letIn ctx pa x).areas = s.areas := by
  simp only [State.letIn, State.fill_areas, State.claim_areas]
@[simp] theorem State.letIn_tags (s : State) (ctx pa : Nat) (x : Translation) : (s.letIn ctx pa x).tags = s.tags := by
  simp only [State.letIn, State.fill_tags, State.claim_tags]
@[simp] theorem State.letIn_mem (s : State) (ctx pa : Nat) (x : Translation) : (s.letIn ctx pa x).mem = s.mem := by
  simp only [State.letIn, State.fill_mem, State.claim_mem]
@[simp] theorem State.letIn_poison (s : State) (ctx pa : Nat) (x : Translation) : (s.letIn ctx pa x).poison = s.poison := by
  simp only [State.letIn, State.fill_poison, State.claim_poison]
@[simp] theorem State.letIn_traffic (s : State) (ctx pa : Nat) (x : Translation) : (s.letIn ctx pa x).traffic = s.traffic := by
  simp only [State.letIn, State.fill_traffic, State.claim_traffic]
@[simp] theorem State.letIn_checks (s : State) (ctx pa : Nat) (x : Translation) : (s.letIn ctx pa x).checks = s.checks := by
  simp only [State.letIn, State.fill_checks, State.claim_checks]
@[simp] theorem State.letIn_l2 (s : State) (ctx pa : Nat) (x : Translation) : (s.letIn ctx pa x).l2 = s.l2 := by
  simp only [State.letIn, State.fill_l2, State.claim_l2]
@[simp] theorem State.letIn_caches (s : State) (ctx pa : Nat) (x : Translation) : (s.letIn ctx pa x).caches = s.caches := by
  simp only [State.letIn, State.fill_caches, State.claim_caches]
@[simp] theorem State.letIn_agenda (s : State) (ctx pa : Nat) (x : Translation) : (s.letIn ctx pa x).agenda = s.agenda := by
  simp only [State.letIn, State.fill_agenda, State.claim_agenda]
@[simp] theorem State.letIn_inputs (s : State) (ctx pa : Nat) (x : Translation) : (s.letIn ctx pa x).inputs = s.inputs := by
  simp only [State.letIn, State.fill_inputs, State.claim_inputs]
@[simp] theorem State.touchLine_clk (s : State) (ctx : Option Nat) (pa : Nat) (own : Option (Option Nat)) : (s.touchLine ctx pa own).clk = s.clk := by
  unfold State.touchLine; dsimp only; repeat (first | rfl | split)
@[simp] theorem State.touchLine_tick (s : State) (ctx : Option Nat) (pa : Nat) (own : Option (Option Nat)) : (s.touchLine ctx pa own).tick = s.tick := by
  unfold State.touchLine; dsimp only; repeat (first | rfl | split)
@[simp] theorem State.touchLine_serial (s : State) (ctx : Option Nat) (pa : Nat) (own : Option (Option Nat)) : (s.touchLine ctx pa own).serial = s.serial := by
  unfold State.touchLine; dsimp only; repeat (first | rfl | split)
@[simp] theorem State.touchLine_cur (s : State) (ctx : Option Nat) (pa : Nat) (own : Option (Option Nat)) : (s.touchLine ctx pa own).cur = s.cur := by
  unfold State.touchLine; dsimp only; repeat (first | rfl | split)
@[simp] theorem State.touchLine_teams (s : State) (ctx : Option Nat) (pa : Nat) (own : Option (Option Nat)) : (s.touchLine ctx pa own).teams = s.teams := by
  unfold State.touchLine; dsimp only; repeat (first | rfl | split)
@[simp] theorem State.touchLine_gangs (s : State) (ctx : Option Nat) (pa : Nat) (own : Option (Option Nat)) : (s.touchLine ctx pa own).gangs = s.gangs := by
  unfold State.touchLine; dsimp only; repeat (first | rfl | split)
@[simp] theorem State.touchLine_grids (s : State) (ctx : Option Nat) (pa : Nat) (own : Option (Option Nat)) : (s.touchLine ctx pa own).grids = s.grids := by
  unfold State.touchLine; dsimp only; repeat (first | rfl | split)
@[simp] theorem State.touchLine_clusters (s : State) (ctx : Option Nat) (pa : Nat) (own : Option (Option Nat)) : (s.touchLine ctx pa own).clusters = s.clusters := by
  unfold State.touchLine; dsimp only; repeat (first | rfl | split)
@[simp] theorem State.touchLine_contexts (s : State) (ctx : Option Nat) (pa : Nat) (own : Option (Option Nat)) : (s.touchLine ctx pa own).contexts = s.contexts := by
  unfold State.touchLine; dsimp only; repeat (first | rfl | split)
@[simp] theorem State.touchLine_domains (s : State) (ctx : Option Nat) (pa : Nat) (own : Option (Option Nat)) : (s.touchLine ctx pa own).domains = s.domains := by
  unfold State.touchLine; dsimp only; repeat (first | rfl | split)
@[simp] theorem State.touchLine_areas (s : State) (ctx : Option Nat) (pa : Nat) (own : Option (Option Nat)) : (s.touchLine ctx pa own).areas = s.areas := by
  unfold State.touchLine; dsimp only; repeat (first | rfl | split)
@[simp] theorem State.touchLine_tags (s : State) (ctx : Option Nat) (pa : Nat) (own : Option (Option Nat)) : (s.touchLine ctx pa own).tags = s.tags := by
  unfold State.touchLine; dsimp only; repeat (first | rfl | split)
@[simp] theorem State.touchLine_mem (s : State) (ctx : Option Nat) (pa : Nat) (own : Option (Option Nat)) : (s.touchLine ctx pa own).mem = s.mem := by
  unfold State.touchLine; dsimp only; repeat (first | rfl | split)
@[simp] theorem State.touchLine_poison (s : State) (ctx : Option Nat) (pa : Nat) (own : Option (Option Nat)) : (s.touchLine ctx pa own).poison = s.poison := by
  unfold State.touchLine; dsimp only; repeat (first | rfl | split)
@[simp] theorem State.touchLine_traffic (s : State) (ctx : Option Nat) (pa : Nat) (own : Option (Option Nat)) : (s.touchLine ctx pa own).traffic = s.traffic := by
  unfold State.touchLine; dsimp only; repeat (first | rfl | split)
@[simp] theorem State.touchLine_checks (s : State) (ctx : Option Nat) (pa : Nat) (own : Option (Option Nat)) : (s.touchLine ctx pa own).checks = s.checks := by
  unfold State.touchLine; dsimp only; repeat (first | rfl | split)
@[simp] theorem State.touchLine_frames (s : State) (ctx : Option Nat) (pa : Nat) (own : Option (Option Nat)) : (s.touchLine ctx pa own).frames = s.frames := by
  unfold State.touchLine; dsimp only; repeat (first | rfl | split)
@[simp] theorem State.touchLine_translations (s : State) (ctx : Option Nat) (pa : Nat) (own : Option (Option Nat)) : (s.touchLine ctx pa own).translations = s.translations := by
  unfold State.touchLine; dsimp only; repeat (first | rfl | split)
@[simp] theorem State.touchLine_caches (s : State) (ctx : Option Nat) (pa : Nat) (own : Option (Option Nat)) : (s.touchLine ctx pa own).caches = s.caches := by
  unfold State.touchLine; dsimp only; repeat (first | rfl | split)
@[simp] theorem State.touchLine_agenda (s : State) (ctx : Option Nat) (pa : Nat) (own : Option (Option Nat)) : (s.touchLine ctx pa own).agenda = s.agenda := by
  unfold State.touchLine; dsimp only; repeat (first | rfl | split)
@[simp] theorem State.touchLine_inputs (s : State) (ctx : Option Nat) (pa : Nat) (own : Option (Option Nat)) : (s.touchLine ctx pa own).inputs = s.inputs := by
  unfold State.touchLine; dsimp only; repeat (first | rfl | split)
theorem foldl_same {α β γ : Type} (g : α → γ) (f : α → β → α) (h : ∀ a b, g (f a b) = g a) (xs : List β) (a : α) :
    g (xs.foldl f a) = g a := by
  induction xs generalizing a with
  | nil => rfl
  | cons x xs ih => exact (ih _).trans (h a x)
@[simp] theorem State.writeBytes_clk (s : State) (pa : Nat) (bs : List Byte) (own : Option Nat) : (s.writeBytes pa bs own).clk = s.clk := 
  foldl_same (fun s : State => s.clk) _ (fun _ _ => State.touchLine_clk _ _ _ _) _ _
@[simp] theorem State.writeBytes_tick (s : State) (pa : Nat) (bs : List Byte) (own : Option Nat) : (s.writeBytes pa bs own).tick = s.tick := 
  foldl_same (fun s : State => s.tick) _ (fun _ _ => State.touchLine_tick _ _ _ _) _ _
@[simp] theorem State.writeBytes_serial (s : State) (pa : Nat) (bs : List Byte) (own : Option Nat) : (s.writeBytes pa bs own).serial = s.serial := 
  foldl_same (fun s : State => s.serial) _ (fun _ _ => State.touchLine_serial _ _ _ _) _ _
@[simp] theorem State.writeBytes_cur (s : State) (pa : Nat) (bs : List Byte) (own : Option Nat) : (s.writeBytes pa bs own).cur = s.cur := 
  foldl_same (fun s : State => s.cur) _ (fun _ _ => State.touchLine_cur _ _ _ _) _ _
@[simp] theorem State.writeBytes_teams (s : State) (pa : Nat) (bs : List Byte) (own : Option Nat) : (s.writeBytes pa bs own).teams = s.teams := 
  foldl_same (fun s : State => s.teams) _ (fun _ _ => State.touchLine_teams _ _ _ _) _ _
@[simp] theorem State.writeBytes_gangs (s : State) (pa : Nat) (bs : List Byte) (own : Option Nat) : (s.writeBytes pa bs own).gangs = s.gangs := 
  foldl_same (fun s : State => s.gangs) _ (fun _ _ => State.touchLine_gangs _ _ _ _) _ _
@[simp] theorem State.writeBytes_grids (s : State) (pa : Nat) (bs : List Byte) (own : Option Nat) : (s.writeBytes pa bs own).grids = s.grids := 
  foldl_same (fun s : State => s.grids) _ (fun _ _ => State.touchLine_grids _ _ _ _) _ _
@[simp] theorem State.writeBytes_clusters (s : State) (pa : Nat) (bs : List Byte) (own : Option Nat) : (s.writeBytes pa bs own).clusters = s.clusters := 
  foldl_same (fun s : State => s.clusters) _ (fun _ _ => State.touchLine_clusters _ _ _ _) _ _
@[simp] theorem State.writeBytes_contexts (s : State) (pa : Nat) (bs : List Byte) (own : Option Nat) : (s.writeBytes pa bs own).contexts = s.contexts := 
  foldl_same (fun s : State => s.contexts) _ (fun _ _ => State.touchLine_contexts _ _ _ _) _ _
@[simp] theorem State.writeBytes_domains (s : State) (pa : Nat) (bs : List Byte) (own : Option Nat) : (s.writeBytes pa bs own).domains = s.domains := 
  foldl_same (fun s : State => s.domains) _ (fun _ _ => State.touchLine_domains _ _ _ _) _ _
@[simp] theorem State.writeBytes_areas (s : State) (pa : Nat) (bs : List Byte) (own : Option Nat) : (s.writeBytes pa bs own).areas = s.areas := 
  foldl_same (fun s : State => s.areas) _ (fun _ _ => State.touchLine_areas _ _ _ _) _ _
@[simp] theorem State.writeBytes_tags (s : State) (pa : Nat) (bs : List Byte) (own : Option Nat) : (s.writeBytes pa bs own).tags = s.tags := 
  foldl_same (fun s : State => s.tags) _ (fun _ _ => State.touchLine_tags _ _ _ _) _ _
@[simp] theorem State.writeBytes_traffic (s : State) (pa : Nat) (bs : List Byte) (own : Option Nat) : (s.writeBytes pa bs own).traffic = s.traffic := 
  foldl_same (fun s : State => s.traffic) _ (fun _ _ => State.touchLine_traffic _ _ _ _) _ _
@[simp] theorem State.writeBytes_checks (s : State) (pa : Nat) (bs : List Byte) (own : Option Nat) : (s.writeBytes pa bs own).checks = s.checks := 
  foldl_same (fun s : State => s.checks) _ (fun _ _ => State.touchLine_checks _ _ _ _) _ _
@[simp] theorem State.writeBytes_frames (s : State) (pa : Nat) (bs : List Byte) (own : Option Nat) : (s.writeBytes pa bs own).frames = s.frames := 
  foldl_same (fun s : State => s.frames) _ (fun _ _ => State.touchLine_frames _ _ _ _) _ _
@[simp] theorem State.writeBytes_translations (s : State) (pa : Nat) (bs : List Byte) (own : Option Nat) : (s.writeBytes pa bs own).translations = s.translations := 
  foldl_same (fun s : State => s.translations) _ (fun _ _ => State.touchLine_translations _ _ _ _) _ _
@[simp] theorem State.writeBytes_caches (s : State) (pa : Nat) (bs : List Byte) (own : Option Nat) : (s.writeBytes pa bs own).caches = s.caches := 
  foldl_same (fun s : State => s.caches) _ (fun _ _ => State.touchLine_caches _ _ _ _) _ _
@[simp] theorem State.writeBytes_agenda (s : State) (pa : Nat) (bs : List Byte) (own : Option Nat) : (s.writeBytes pa bs own).agenda = s.agenda := 
  foldl_same (fun s : State => s.agenda) _ (fun _ _ => State.touchLine_agenda _ _ _ _) _ _
@[simp] theorem State.writeBytes_inputs (s : State) (pa : Nat) (bs : List Byte) (own : Option Nat) : (s.writeBytes pa bs own).inputs = s.inputs := 
  foldl_same (fun s : State => s.inputs) _ (fun _ _ => State.touchLine_inputs _ _ _ _) _ _
/-- A store performed at the home slice writes its bytes. -/
theorem State.writeBytes_mem (s : State) (pa : Nat) (bs : List Byte) (own : Option Nat) : (s.writeBytes pa bs own).mem = Memory.writes s.mem pa bs :=
  congrArg (fun m => Memory.writes m pa bs) (foldl_same (fun s : State => s.mem) _ (fun _ _ => State.touchLine_mem _ _ _ _) _ _)
@[simp] theorem State.setPoison_clk (s : State) (pa n : Nat) : (s.setPoison pa n).clk = s.clk := rfl
@[simp] theorem State.setPoison_tick (s : State) (pa n : Nat) : (s.setPoison pa n).tick = s.tick := rfl
@[simp] theorem State.setPoison_serial (s : State) (pa n : Nat) : (s.setPoison pa n).serial = s.serial := rfl
@[simp] theorem State.setPoison_cur (s : State) (pa n : Nat) : (s.setPoison pa n).cur = s.cur := rfl
@[simp] theorem State.setPoison_teams (s : State) (pa n : Nat) : (s.setPoison pa n).teams = s.teams := rfl
@[simp] theorem State.setPoison_gangs (s : State) (pa n : Nat) : (s.setPoison pa n).gangs = s.gangs := rfl
@[simp] theorem State.setPoison_grids (s : State) (pa n : Nat) : (s.setPoison pa n).grids = s.grids := rfl
@[simp] theorem State.setPoison_clusters (s : State) (pa n : Nat) : (s.setPoison pa n).clusters = s.clusters := rfl
@[simp] theorem State.setPoison_contexts (s : State) (pa n : Nat) : (s.setPoison pa n).contexts = s.contexts := rfl
@[simp] theorem State.setPoison_domains (s : State) (pa n : Nat) : (s.setPoison pa n).domains = s.domains := rfl
@[simp] theorem State.setPoison_areas (s : State) (pa n : Nat) : (s.setPoison pa n).areas = s.areas := rfl
@[simp] theorem State.setPoison_tags (s : State) (pa n : Nat) : (s.setPoison pa n).tags = s.tags := rfl
@[simp] theorem State.setPoison_mem (s : State) (pa n : Nat) : (s.setPoison pa n).mem = s.mem := rfl
@[simp] theorem State.setPoison_traffic (s : State) (pa n : Nat) : (s.setPoison pa n).traffic = s.traffic := rfl
@[simp] theorem State.setPoison_checks (s : State) (pa n : Nat) : (s.setPoison pa n).checks = s.checks := rfl
@[simp] theorem State.setPoison_l2 (s : State) (pa n : Nat) : (s.setPoison pa n).l2 = s.l2 := rfl
@[simp] theorem State.setPoison_frames (s : State) (pa n : Nat) : (s.setPoison pa n).frames = s.frames := rfl
@[simp] theorem State.setPoison_translations (s : State) (pa n : Nat) : (s.setPoison pa n).translations = s.translations := rfl
@[simp] theorem State.setPoison_caches (s : State) (pa n : Nat) : (s.setPoison pa n).caches = s.caches := rfl
@[simp] theorem State.setPoison_agenda (s : State) (pa n : Nat) : (s.setPoison pa n).agenda = s.agenda := rfl
@[simp] theorem State.setPoison_inputs (s : State) (pa n : Nat) : (s.setPoison pa n).inputs = s.inputs := rfl
@[simp] theorem State.setArea_clk (s : State) (k : Nat) (a : Area) : (s.setArea k a).clk = s.clk := rfl
@[simp] theorem State.setArea_tick (s : State) (k : Nat) (a : Area) : (s.setArea k a).tick = s.tick := rfl
@[simp] theorem State.setArea_serial (s : State) (k : Nat) (a : Area) : (s.setArea k a).serial = s.serial := rfl
@[simp] theorem State.setArea_cur (s : State) (k : Nat) (a : Area) : (s.setArea k a).cur = s.cur := rfl
@[simp] theorem State.setArea_teams (s : State) (k : Nat) (a : Area) : (s.setArea k a).teams = s.teams := rfl
@[simp] theorem State.setArea_gangs (s : State) (k : Nat) (a : Area) : (s.setArea k a).gangs = s.gangs := rfl
@[simp] theorem State.setArea_grids (s : State) (k : Nat) (a : Area) : (s.setArea k a).grids = s.grids := rfl
@[simp] theorem State.setArea_clusters (s : State) (k : Nat) (a : Area) : (s.setArea k a).clusters = s.clusters := rfl
@[simp] theorem State.setArea_contexts (s : State) (k : Nat) (a : Area) : (s.setArea k a).contexts = s.contexts := rfl
@[simp] theorem State.setArea_domains (s : State) (k : Nat) (a : Area) : (s.setArea k a).domains = s.domains := rfl
@[simp] theorem State.setArea_tags (s : State) (k : Nat) (a : Area) : (s.setArea k a).tags = s.tags := rfl
@[simp] theorem State.setArea_mem (s : State) (k : Nat) (a : Area) : (s.setArea k a).mem = s.mem := rfl
@[simp] theorem State.setArea_poison (s : State) (k : Nat) (a : Area) : (s.setArea k a).poison = s.poison := rfl
@[simp] theorem State.setArea_traffic (s : State) (k : Nat) (a : Area) : (s.setArea k a).traffic = s.traffic := rfl
@[simp] theorem State.setArea_checks (s : State) (k : Nat) (a : Area) : (s.setArea k a).checks = s.checks := rfl
@[simp] theorem State.setArea_l2 (s : State) (k : Nat) (a : Area) : (s.setArea k a).l2 = s.l2 := rfl
@[simp] theorem State.setArea_frames (s : State) (k : Nat) (a : Area) : (s.setArea k a).frames = s.frames := rfl
@[simp] theorem State.setArea_translations (s : State) (k : Nat) (a : Area) : (s.setArea k a).translations = s.translations := rfl
@[simp] theorem State.setArea_caches (s : State) (k : Nat) (a : Area) : (s.setArea k a).caches = s.caches := rfl
@[simp] theorem State.setArea_agenda (s : State) (k : Nat) (a : Area) : (s.setArea k a).agenda = s.agenda := rfl
@[simp] theorem State.setArea_inputs (s : State) (k : Nat) (a : Area) : (s.setArea k a).inputs = s.inputs := rfl
@[simp] theorem State.post_clk (s : State) (delay : Nat) (ev : Ev) : (s.post delay ev).clk = s.clk := rfl
@[simp] theorem State.post_tick (s : State) (delay : Nat) (ev : Ev) : (s.post delay ev).tick = s.tick := rfl
@[simp] theorem State.post_cur (s : State) (delay : Nat) (ev : Ev) : (s.post delay ev).cur = s.cur := rfl
@[simp] theorem State.post_teams (s : State) (delay : Nat) (ev : Ev) : (s.post delay ev).teams = s.teams := rfl
@[simp] theorem State.post_gangs (s : State) (delay : Nat) (ev : Ev) : (s.post delay ev).gangs = s.gangs := rfl
@[simp] theorem State.post_grids (s : State) (delay : Nat) (ev : Ev) : (s.post delay ev).grids = s.grids := rfl
@[simp] theorem State.post_clusters (s : State) (delay : Nat) (ev : Ev) : (s.post delay ev).clusters = s.clusters := rfl
@[simp] theorem State.post_contexts (s : State) (delay : Nat) (ev : Ev) : (s.post delay ev).contexts = s.contexts := rfl
@[simp] theorem State.post_domains (s : State) (delay : Nat) (ev : Ev) : (s.post delay ev).domains = s.domains := rfl
@[simp] theorem State.post_areas (s : State) (delay : Nat) (ev : Ev) : (s.post delay ev).areas = s.areas := rfl
@[simp] theorem State.post_tags (s : State) (delay : Nat) (ev : Ev) : (s.post delay ev).tags = s.tags := rfl
@[simp] theorem State.post_mem (s : State) (delay : Nat) (ev : Ev) : (s.post delay ev).mem = s.mem := rfl
@[simp] theorem State.post_poison (s : State) (delay : Nat) (ev : Ev) : (s.post delay ev).poison = s.poison := rfl
@[simp] theorem State.post_traffic (s : State) (delay : Nat) (ev : Ev) : (s.post delay ev).traffic = s.traffic := rfl
@[simp] theorem State.post_checks (s : State) (delay : Nat) (ev : Ev) : (s.post delay ev).checks = s.checks := rfl
@[simp] theorem State.post_l2 (s : State) (delay : Nat) (ev : Ev) : (s.post delay ev).l2 = s.l2 := rfl
@[simp] theorem State.post_frames (s : State) (delay : Nat) (ev : Ev) : (s.post delay ev).frames = s.frames := rfl
@[simp] theorem State.post_translations (s : State) (delay : Nat) (ev : Ev) : (s.post delay ev).translations = s.translations := rfl
@[simp] theorem State.post_caches (s : State) (delay : Nat) (ev : Ev) : (s.post delay ev).caches = s.caches := rfl
@[simp] theorem State.post_inputs (s : State) (delay : Nat) (ev : Ev) : (s.post delay ev).inputs = s.inputs := rfl
@[simp] theorem State.postIn_clk (s : State) (stream delay : Nat) (ev : Ev) : (s.postIn stream delay ev).clk = s.clk := rfl
@[simp] theorem State.postIn_tick (s : State) (stream delay : Nat) (ev : Ev) : (s.postIn stream delay ev).tick = s.tick := rfl
@[simp] theorem State.postIn_serial (s : State) (stream delay : Nat) (ev : Ev) : (s.postIn stream delay ev).serial = s.serial := rfl
@[simp] theorem State.postIn_cur (s : State) (stream delay : Nat) (ev : Ev) : (s.postIn stream delay ev).cur = s.cur := rfl
@[simp] theorem State.postIn_teams (s : State) (stream delay : Nat) (ev : Ev) : (s.postIn stream delay ev).teams = s.teams := rfl
@[simp] theorem State.postIn_gangs (s : State) (stream delay : Nat) (ev : Ev) : (s.postIn stream delay ev).gangs = s.gangs := rfl
@[simp] theorem State.postIn_grids (s : State) (stream delay : Nat) (ev : Ev) : (s.postIn stream delay ev).grids = s.grids := rfl
@[simp] theorem State.postIn_clusters (s : State) (stream delay : Nat) (ev : Ev) : (s.postIn stream delay ev).clusters = s.clusters := rfl
@[simp] theorem State.postIn_contexts (s : State) (stream delay : Nat) (ev : Ev) : (s.postIn stream delay ev).contexts = s.contexts := rfl
@[simp] theorem State.postIn_domains (s : State) (stream delay : Nat) (ev : Ev) : (s.postIn stream delay ev).domains = s.domains := rfl
@[simp] theorem State.postIn_areas (s : State) (stream delay : Nat) (ev : Ev) : (s.postIn stream delay ev).areas = s.areas := rfl
@[simp] theorem State.postIn_tags (s : State) (stream delay : Nat) (ev : Ev) : (s.postIn stream delay ev).tags = s.tags := rfl
@[simp] theorem State.postIn_mem (s : State) (stream delay : Nat) (ev : Ev) : (s.postIn stream delay ev).mem = s.mem := rfl
@[simp] theorem State.postIn_poison (s : State) (stream delay : Nat) (ev : Ev) : (s.postIn stream delay ev).poison = s.poison := rfl
@[simp] theorem State.postIn_traffic (s : State) (stream delay : Nat) (ev : Ev) : (s.postIn stream delay ev).traffic = s.traffic := rfl
@[simp] theorem State.postIn_checks (s : State) (stream delay : Nat) (ev : Ev) : (s.postIn stream delay ev).checks = s.checks := rfl
@[simp] theorem State.postIn_l2 (s : State) (stream delay : Nat) (ev : Ev) : (s.postIn stream delay ev).l2 = s.l2 := rfl
@[simp] theorem State.postIn_frames (s : State) (stream delay : Nat) (ev : Ev) : (s.postIn stream delay ev).frames = s.frames := rfl
@[simp] theorem State.postIn_translations (s : State) (stream delay : Nat) (ev : Ev) : (s.postIn stream delay ev).translations = s.translations := rfl
@[simp] theorem State.postIn_caches (s : State) (stream delay : Nat) (ev : Ev) : (s.postIn stream delay ev).caches = s.caches := rfl
@[simp] theorem State.postIn_inputs (s : State) (stream delay : Nat) (ev : Ev) : (s.postIn stream delay ev).inputs = s.inputs := rfl
@[simp] theorem State.fillLine_clk (s : State) (l : CacheLine) : (s.fillLine l).clk = s.clk := by
  unfold State.fillLine; dsimp only; repeat (first | rfl | split)
@[simp] theorem State.fillLine_serial (s : State) (l : CacheLine) : (s.fillLine l).serial = s.serial := by
  unfold State.fillLine; dsimp only; repeat (first | rfl | split)
@[simp] theorem State.fillLine_cur (s : State) (l : CacheLine) : (s.fillLine l).cur = s.cur := by
  unfold State.fillLine; dsimp only; repeat (first | rfl | split)
@[simp] theorem State.fillLine_teams (s : State) (l : CacheLine) : (s.fillLine l).teams = s.teams := by
  unfold State.fillLine; dsimp only; repeat (first | rfl | split)
@[simp] theorem State.fillLine_gangs (s : State) (l : CacheLine) : (s.fillLine l).gangs = s.gangs := by
  unfold State.fillLine; dsimp only; repeat (first | rfl | split)
@[simp] theorem State.fillLine_grids (s : State) (l : CacheLine) : (s.fillLine l).grids = s.grids := by
  unfold State.fillLine; dsimp only; repeat (first | rfl | split)
@[simp] theorem State.fillLine_clusters (s : State) (l : CacheLine) : (s.fillLine l).clusters = s.clusters := by
  unfold State.fillLine; dsimp only; repeat (first | rfl | split)
@[simp] theorem State.fillLine_contexts (s : State) (l : CacheLine) : (s.fillLine l).contexts = s.contexts := by
  unfold State.fillLine; dsimp only; repeat (first | rfl | split)
@[simp] theorem State.fillLine_domains (s : State) (l : CacheLine) : (s.fillLine l).domains = s.domains := by
  unfold State.fillLine; dsimp only; repeat (first | rfl | split)
@[simp] theorem State.fillLine_areas (s : State) (l : CacheLine) : (s.fillLine l).areas = s.areas := by
  unfold State.fillLine; dsimp only; repeat (first | rfl | split)
@[simp] theorem State.fillLine_tags (s : State) (l : CacheLine) : (s.fillLine l).tags = s.tags := by
  unfold State.fillLine; dsimp only; repeat (first | rfl | split)
@[simp] theorem State.fillLine_mem (s : State) (l : CacheLine) : (s.fillLine l).mem = s.mem := by
  unfold State.fillLine; dsimp only; repeat (first | rfl | split)
@[simp] theorem State.fillLine_poison (s : State) (l : CacheLine) : (s.fillLine l).poison = s.poison := by
  unfold State.fillLine; dsimp only; repeat (first | rfl | split)
@[simp] theorem State.fillLine_traffic (s : State) (l : CacheLine) : (s.fillLine l).traffic = s.traffic := by
  unfold State.fillLine; dsimp only; repeat (first | rfl | split)
@[simp] theorem State.fillLine_checks (s : State) (l : CacheLine) : (s.fillLine l).checks = s.checks := by
  unfold State.fillLine; dsimp only; repeat (first | rfl | split)
@[simp] theorem State.fillLine_l2 (s : State) (l : CacheLine) : (s.fillLine l).l2 = s.l2 := by
  unfold State.fillLine; dsimp only; repeat (first | rfl | split)
@[simp] theorem State.fillLine_frames (s : State) (l : CacheLine) : (s.fillLine l).frames = s.frames := by
  unfold State.fillLine; dsimp only; repeat (first | rfl | split)
@[simp] theorem State.fillLine_translations (s : State) (l : CacheLine) : (s.fillLine l).translations = s.translations := by
  unfold State.fillLine; dsimp only; repeat (first | rfl | split)
@[simp] theorem State.fillLine_agenda (s : State) (l : CacheLine) : (s.fillLine l).agenda = s.agenda := by
  unfold State.fillLine; dsimp only; repeat (first | rfl | split)
@[simp] theorem State.fillLine_inputs (s : State) (l : CacheLine) : (s.fillLine l).inputs = s.inputs := by
  unfold State.fillLine; dsimp only; repeat (first | rfl | split)
@[simp] theorem State.dropLine_clk (s : State) (kind : CacheKind) (unit ctx vline : Nat) : (s.dropLine kind unit ctx vline).clk = s.clk := rfl
@[simp] theorem State.dropLine_tick (s : State) (kind : CacheKind) (unit ctx vline : Nat) : (s.dropLine kind unit ctx vline).tick = s.tick := rfl
@[simp] theorem State.dropLine_serial (s : State) (kind : CacheKind) (unit ctx vline : Nat) : (s.dropLine kind unit ctx vline).serial = s.serial := rfl
@[simp] theorem State.dropLine_cur (s : State) (kind : CacheKind) (unit ctx vline : Nat) : (s.dropLine kind unit ctx vline).cur = s.cur := rfl
@[simp] theorem State.dropLine_teams (s : State) (kind : CacheKind) (unit ctx vline : Nat) : (s.dropLine kind unit ctx vline).teams = s.teams := rfl
@[simp] theorem State.dropLine_gangs (s : State) (kind : CacheKind) (unit ctx vline : Nat) : (s.dropLine kind unit ctx vline).gangs = s.gangs := rfl
@[simp] theorem State.dropLine_grids (s : State) (kind : CacheKind) (unit ctx vline : Nat) : (s.dropLine kind unit ctx vline).grids = s.grids := rfl
@[simp] theorem State.dropLine_clusters (s : State) (kind : CacheKind) (unit ctx vline : Nat) : (s.dropLine kind unit ctx vline).clusters = s.clusters := rfl
@[simp] theorem State.dropLine_contexts (s : State) (kind : CacheKind) (unit ctx vline : Nat) : (s.dropLine kind unit ctx vline).contexts = s.contexts := rfl
@[simp] theorem State.dropLine_domains (s : State) (kind : CacheKind) (unit ctx vline : Nat) : (s.dropLine kind unit ctx vline).domains = s.domains := rfl
@[simp] theorem State.dropLine_areas (s : State) (kind : CacheKind) (unit ctx vline : Nat) : (s.dropLine kind unit ctx vline).areas = s.areas := rfl
@[simp] theorem State.dropLine_tags (s : State) (kind : CacheKind) (unit ctx vline : Nat) : (s.dropLine kind unit ctx vline).tags = s.tags := rfl
@[simp] theorem State.dropLine_mem (s : State) (kind : CacheKind) (unit ctx vline : Nat) : (s.dropLine kind unit ctx vline).mem = s.mem := rfl
@[simp] theorem State.dropLine_poison (s : State) (kind : CacheKind) (unit ctx vline : Nat) : (s.dropLine kind unit ctx vline).poison = s.poison := rfl
@[simp] theorem State.dropLine_traffic (s : State) (kind : CacheKind) (unit ctx vline : Nat) : (s.dropLine kind unit ctx vline).traffic = s.traffic := rfl
@[simp] theorem State.dropLine_checks (s : State) (kind : CacheKind) (unit ctx vline : Nat) : (s.dropLine kind unit ctx vline).checks = s.checks := rfl
@[simp] theorem State.dropLine_l2 (s : State) (kind : CacheKind) (unit ctx vline : Nat) : (s.dropLine kind unit ctx vline).l2 = s.l2 := rfl
@[simp] theorem State.dropLine_frames (s : State) (kind : CacheKind) (unit ctx vline : Nat) : (s.dropLine kind unit ctx vline).frames = s.frames := rfl
@[simp] theorem State.dropLine_translations (s : State) (kind : CacheKind) (unit ctx vline : Nat) : (s.dropLine kind unit ctx vline).translations = s.translations := rfl
@[simp] theorem State.dropLine_agenda (s : State) (kind : CacheKind) (unit ctx vline : Nat) : (s.dropLine kind unit ctx vline).agenda = s.agenda := rfl
@[simp] theorem State.dropLine_inputs (s : State) (kind : CacheKind) (unit ctx vline : Nat) : (s.dropLine kind unit ctx vline).inputs = s.inputs := rfl
@[simp] theorem State.dropLines_clk (s : State) (kind : CacheKind) (units : List Nat) (ctx : Nat) : (s.dropLines kind units ctx).clk = s.clk := rfl
@[simp] theorem State.dropLines_tick (s : State) (kind : CacheKind) (units : List Nat) (ctx : Nat) : (s.dropLines kind units ctx).tick = s.tick := rfl
@[simp] theorem State.dropLines_serial (s : State) (kind : CacheKind) (units : List Nat) (ctx : Nat) : (s.dropLines kind units ctx).serial = s.serial := rfl
@[simp] theorem State.dropLines_cur (s : State) (kind : CacheKind) (units : List Nat) (ctx : Nat) : (s.dropLines kind units ctx).cur = s.cur := rfl
@[simp] theorem State.dropLines_teams (s : State) (kind : CacheKind) (units : List Nat) (ctx : Nat) : (s.dropLines kind units ctx).teams = s.teams := rfl
@[simp] theorem State.dropLines_gangs (s : State) (kind : CacheKind) (units : List Nat) (ctx : Nat) : (s.dropLines kind units ctx).gangs = s.gangs := rfl
@[simp] theorem State.dropLines_grids (s : State) (kind : CacheKind) (units : List Nat) (ctx : Nat) : (s.dropLines kind units ctx).grids = s.grids := rfl
@[simp] theorem State.dropLines_clusters (s : State) (kind : CacheKind) (units : List Nat) (ctx : Nat) : (s.dropLines kind units ctx).clusters = s.clusters := rfl
@[simp] theorem State.dropLines_contexts (s : State) (kind : CacheKind) (units : List Nat) (ctx : Nat) : (s.dropLines kind units ctx).contexts = s.contexts := rfl
@[simp] theorem State.dropLines_domains (s : State) (kind : CacheKind) (units : List Nat) (ctx : Nat) : (s.dropLines kind units ctx).domains = s.domains := rfl
@[simp] theorem State.dropLines_areas (s : State) (kind : CacheKind) (units : List Nat) (ctx : Nat) : (s.dropLines kind units ctx).areas = s.areas := rfl
@[simp] theorem State.dropLines_tags (s : State) (kind : CacheKind) (units : List Nat) (ctx : Nat) : (s.dropLines kind units ctx).tags = s.tags := rfl
@[simp] theorem State.dropLines_mem (s : State) (kind : CacheKind) (units : List Nat) (ctx : Nat) : (s.dropLines kind units ctx).mem = s.mem := rfl
@[simp] theorem State.dropLines_poison (s : State) (kind : CacheKind) (units : List Nat) (ctx : Nat) : (s.dropLines kind units ctx).poison = s.poison := rfl
@[simp] theorem State.dropLines_traffic (s : State) (kind : CacheKind) (units : List Nat) (ctx : Nat) : (s.dropLines kind units ctx).traffic = s.traffic := rfl
@[simp] theorem State.dropLines_checks (s : State) (kind : CacheKind) (units : List Nat) (ctx : Nat) : (s.dropLines kind units ctx).checks = s.checks := rfl
@[simp] theorem State.dropLines_l2 (s : State) (kind : CacheKind) (units : List Nat) (ctx : Nat) : (s.dropLines kind units ctx).l2 = s.l2 := rfl
@[simp] theorem State.dropLines_frames (s : State) (kind : CacheKind) (units : List Nat) (ctx : Nat) : (s.dropLines kind units ctx).frames = s.frames := rfl
@[simp] theorem State.dropLines_translations (s : State) (kind : CacheKind) (units : List Nat) (ctx : Nat) : (s.dropLines kind units ctx).translations = s.translations := rfl
@[simp] theorem State.dropLines_agenda (s : State) (kind : CacheKind) (units : List Nat) (ctx : Nat) : (s.dropLines kind units ctx).agenda = s.agenda := rfl
@[simp] theorem State.dropLines_inputs (s : State) (kind : CacheKind) (units : List Nat) (ctx : Nat) : (s.dropLines kind units ctx).inputs = s.inputs := rfl
@[simp] theorem State.patchL1_clk (s : State) (units : List Nat) (ctx pa : Nat) (bs : List Byte) : (s.patchL1 units ctx pa bs).clk = s.clk := rfl
@[simp] theorem State.patchL1_tick (s : State) (units : List Nat) (ctx pa : Nat) (bs : List Byte) : (s.patchL1 units ctx pa bs).tick = s.tick := rfl
@[simp] theorem State.patchL1_serial (s : State) (units : List Nat) (ctx pa : Nat) (bs : List Byte) : (s.patchL1 units ctx pa bs).serial = s.serial := rfl
@[simp] theorem State.patchL1_cur (s : State) (units : List Nat) (ctx pa : Nat) (bs : List Byte) : (s.patchL1 units ctx pa bs).cur = s.cur := rfl
@[simp] theorem State.patchL1_teams (s : State) (units : List Nat) (ctx pa : Nat) (bs : List Byte) : (s.patchL1 units ctx pa bs).teams = s.teams := rfl
@[simp] theorem State.patchL1_gangs (s : State) (units : List Nat) (ctx pa : Nat) (bs : List Byte) : (s.patchL1 units ctx pa bs).gangs = s.gangs := rfl
@[simp] theorem State.patchL1_grids (s : State) (units : List Nat) (ctx pa : Nat) (bs : List Byte) : (s.patchL1 units ctx pa bs).grids = s.grids := rfl
@[simp] theorem State.patchL1_clusters (s : State) (units : List Nat) (ctx pa : Nat) (bs : List Byte) : (s.patchL1 units ctx pa bs).clusters = s.clusters := rfl
@[simp] theorem State.patchL1_contexts (s : State) (units : List Nat) (ctx pa : Nat) (bs : List Byte) : (s.patchL1 units ctx pa bs).contexts = s.contexts := rfl
@[simp] theorem State.patchL1_domains (s : State) (units : List Nat) (ctx pa : Nat) (bs : List Byte) : (s.patchL1 units ctx pa bs).domains = s.domains := rfl
@[simp] theorem State.patchL1_areas (s : State) (units : List Nat) (ctx pa : Nat) (bs : List Byte) : (s.patchL1 units ctx pa bs).areas = s.areas := rfl
@[simp] theorem State.patchL1_tags (s : State) (units : List Nat) (ctx pa : Nat) (bs : List Byte) : (s.patchL1 units ctx pa bs).tags = s.tags := rfl
@[simp] theorem State.patchL1_mem (s : State) (units : List Nat) (ctx pa : Nat) (bs : List Byte) : (s.patchL1 units ctx pa bs).mem = s.mem := rfl
@[simp] theorem State.patchL1_poison (s : State) (units : List Nat) (ctx pa : Nat) (bs : List Byte) : (s.patchL1 units ctx pa bs).poison = s.poison := rfl
@[simp] theorem State.patchL1_traffic (s : State) (units : List Nat) (ctx pa : Nat) (bs : List Byte) : (s.patchL1 units ctx pa bs).traffic = s.traffic := rfl
@[simp] theorem State.patchL1_checks (s : State) (units : List Nat) (ctx pa : Nat) (bs : List Byte) : (s.patchL1 units ctx pa bs).checks = s.checks := rfl
@[simp] theorem State.patchL1_l2 (s : State) (units : List Nat) (ctx pa : Nat) (bs : List Byte) : (s.patchL1 units ctx pa bs).l2 = s.l2 := rfl
@[simp] theorem State.patchL1_frames (s : State) (units : List Nat) (ctx pa : Nat) (bs : List Byte) : (s.patchL1 units ctx pa bs).frames = s.frames := rfl
@[simp] theorem State.patchL1_translations (s : State) (units : List Nat) (ctx pa : Nat) (bs : List Byte) : (s.patchL1 units ctx pa bs).translations = s.translations := rfl
@[simp] theorem State.patchL1_agenda (s : State) (units : List Nat) (ctx pa : Nat) (bs : List Byte) : (s.patchL1 units ctx pa bs).agenda = s.agenda := rfl
@[simp] theorem State.patchL1_inputs (s : State) (units : List Nat) (ctx pa : Nat) (bs : List Byte) : (s.patchL1 units ctx pa bs).inputs = s.inputs := rfl
@[simp] theorem State.dropL1_clk (s : State) (units : List Nat) (ctx pa : Nat) : (s.dropL1 units ctx pa).clk = s.clk := rfl
@[simp] theorem State.dropL1_tick (s : State) (units : List Nat) (ctx pa : Nat) : (s.dropL1 units ctx pa).tick = s.tick := rfl
@[simp] theorem State.dropL1_serial (s : State) (units : List Nat) (ctx pa : Nat) : (s.dropL1 units ctx pa).serial = s.serial := rfl
@[simp] theorem State.dropL1_cur (s : State) (units : List Nat) (ctx pa : Nat) : (s.dropL1 units ctx pa).cur = s.cur := rfl
@[simp] theorem State.dropL1_teams (s : State) (units : List Nat) (ctx pa : Nat) : (s.dropL1 units ctx pa).teams = s.teams := rfl
@[simp] theorem State.dropL1_gangs (s : State) (units : List Nat) (ctx pa : Nat) : (s.dropL1 units ctx pa).gangs = s.gangs := rfl
@[simp] theorem State.dropL1_grids (s : State) (units : List Nat) (ctx pa : Nat) : (s.dropL1 units ctx pa).grids = s.grids := rfl
@[simp] theorem State.dropL1_clusters (s : State) (units : List Nat) (ctx pa : Nat) : (s.dropL1 units ctx pa).clusters = s.clusters := rfl
@[simp] theorem State.dropL1_contexts (s : State) (units : List Nat) (ctx pa : Nat) : (s.dropL1 units ctx pa).contexts = s.contexts := rfl
@[simp] theorem State.dropL1_domains (s : State) (units : List Nat) (ctx pa : Nat) : (s.dropL1 units ctx pa).domains = s.domains := rfl
@[simp] theorem State.dropL1_areas (s : State) (units : List Nat) (ctx pa : Nat) : (s.dropL1 units ctx pa).areas = s.areas := rfl
@[simp] theorem State.dropL1_tags (s : State) (units : List Nat) (ctx pa : Nat) : (s.dropL1 units ctx pa).tags = s.tags := rfl
@[simp] theorem State.dropL1_mem (s : State) (units : List Nat) (ctx pa : Nat) : (s.dropL1 units ctx pa).mem = s.mem := rfl
@[simp] theorem State.dropL1_poison (s : State) (units : List Nat) (ctx pa : Nat) : (s.dropL1 units ctx pa).poison = s.poison := rfl
@[simp] theorem State.dropL1_traffic (s : State) (units : List Nat) (ctx pa : Nat) : (s.dropL1 units ctx pa).traffic = s.traffic := rfl
@[simp] theorem State.dropL1_checks (s : State) (units : List Nat) (ctx pa : Nat) : (s.dropL1 units ctx pa).checks = s.checks := rfl
@[simp] theorem State.dropL1_l2 (s : State) (units : List Nat) (ctx pa : Nat) : (s.dropL1 units ctx pa).l2 = s.l2 := rfl
@[simp] theorem State.dropL1_frames (s : State) (units : List Nat) (ctx pa : Nat) : (s.dropL1 units ctx pa).frames = s.frames := rfl
@[simp] theorem State.dropL1_translations (s : State) (units : List Nat) (ctx pa : Nat) : (s.dropL1 units ctx pa).translations = s.translations := rfl
@[simp] theorem State.dropL1_agenda (s : State) (units : List Nat) (ctx pa : Nat) : (s.dropL1 units ctx pa).agenda = s.agenda := rfl
@[simp] theorem State.dropL1_inputs (s : State) (units : List Nat) (ctx pa : Nat) : (s.dropL1 units ctx pa).inputs = s.inputs := rfl
@[simp] theorem State.acquire_clk (s : State) (t : Team) : (s.acquire t).clk = s.clk := rfl
@[simp] theorem State.acquire_tick (s : State) (t : Team) : (s.acquire t).tick = s.tick := rfl
@[simp] theorem State.acquire_serial (s : State) (t : Team) : (s.acquire t).serial = s.serial := rfl
@[simp] theorem State.acquire_cur (s : State) (t : Team) : (s.acquire t).cur = s.cur := rfl
@[simp] theorem State.acquire_teams (s : State) (t : Team) : (s.acquire t).teams = s.teams := rfl
@[simp] theorem State.acquire_gangs (s : State) (t : Team) : (s.acquire t).gangs = s.gangs := rfl
@[simp] theorem State.acquire_grids (s : State) (t : Team) : (s.acquire t).grids = s.grids := rfl
@[simp] theorem State.acquire_clusters (s : State) (t : Team) : (s.acquire t).clusters = s.clusters := rfl
@[simp] theorem State.acquire_contexts (s : State) (t : Team) : (s.acquire t).contexts = s.contexts := rfl
@[simp] theorem State.acquire_domains (s : State) (t : Team) : (s.acquire t).domains = s.domains := rfl
@[simp] theorem State.acquire_areas (s : State) (t : Team) : (s.acquire t).areas = s.areas := rfl
@[simp] theorem State.acquire_tags (s : State) (t : Team) : (s.acquire t).tags = s.tags := rfl
@[simp] theorem State.acquire_mem (s : State) (t : Team) : (s.acquire t).mem = s.mem := rfl
@[simp] theorem State.acquire_poison (s : State) (t : Team) : (s.acquire t).poison = s.poison := rfl
@[simp] theorem State.acquire_traffic (s : State) (t : Team) : (s.acquire t).traffic = s.traffic := rfl
@[simp] theorem State.acquire_checks (s : State) (t : Team) : (s.acquire t).checks = s.checks := rfl
@[simp] theorem State.acquire_l2 (s : State) (t : Team) : (s.acquire t).l2 = s.l2 := rfl
@[simp] theorem State.acquire_frames (s : State) (t : Team) : (s.acquire t).frames = s.frames := rfl
@[simp] theorem State.acquire_translations (s : State) (t : Team) : (s.acquire t).translations = s.translations := rfl
@[simp] theorem State.acquire_agenda (s : State) (t : Team) : (s.acquire t).agenda = s.agenda := rfl
@[simp] theorem State.acquire_inputs (s : State) (t : Team) : (s.acquire t).inputs = s.inputs := rfl
@[simp] theorem State.updDomain_clk (s : State) (k : Nat) (f : Domain → Domain) : (s.updDomain k f).clk = s.clk := by
  unfold State.updDomain; split <;> rfl
@[simp] theorem State.updDomain_tick (s : State) (k : Nat) (f : Domain → Domain) : (s.updDomain k f).tick = s.tick := by
  unfold State.updDomain; split <;> rfl
@[simp] theorem State.updDomain_serial (s : State) (k : Nat) (f : Domain → Domain) : (s.updDomain k f).serial = s.serial := by
  unfold State.updDomain; split <;> rfl
@[simp] theorem State.updDomain_cur (s : State) (k : Nat) (f : Domain → Domain) : (s.updDomain k f).cur = s.cur := by
  unfold State.updDomain; split <;> rfl
@[simp] theorem State.updDomain_teams (s : State) (k : Nat) (f : Domain → Domain) : (s.updDomain k f).teams = s.teams := by
  unfold State.updDomain; split <;> rfl
@[simp] theorem State.updDomain_gangs (s : State) (k : Nat) (f : Domain → Domain) : (s.updDomain k f).gangs = s.gangs := by
  unfold State.updDomain; split <;> rfl
@[simp] theorem State.updDomain_grids (s : State) (k : Nat) (f : Domain → Domain) : (s.updDomain k f).grids = s.grids := by
  unfold State.updDomain; split <;> rfl
@[simp] theorem State.updDomain_clusters (s : State) (k : Nat) (f : Domain → Domain) : (s.updDomain k f).clusters = s.clusters := by
  unfold State.updDomain; split <;> rfl
@[simp] theorem State.updDomain_contexts (s : State) (k : Nat) (f : Domain → Domain) : (s.updDomain k f).contexts = s.contexts := by
  unfold State.updDomain; split <;> rfl
@[simp] theorem State.updDomain_areas (s : State) (k : Nat) (f : Domain → Domain) : (s.updDomain k f).areas = s.areas := by
  unfold State.updDomain; split <;> rfl
@[simp] theorem State.updDomain_tags (s : State) (k : Nat) (f : Domain → Domain) : (s.updDomain k f).tags = s.tags := by
  unfold State.updDomain; split <;> rfl
@[simp] theorem State.updDomain_mem (s : State) (k : Nat) (f : Domain → Domain) : (s.updDomain k f).mem = s.mem := by
  unfold State.updDomain; split <;> rfl
@[simp] theorem State.updDomain_poison (s : State) (k : Nat) (f : Domain → Domain) : (s.updDomain k f).poison = s.poison := by
  unfold State.updDomain; split <;> rfl
@[simp] theorem State.updDomain_traffic (s : State) (k : Nat) (f : Domain → Domain) : (s.updDomain k f).traffic = s.traffic := by
  unfold State.updDomain; split <;> rfl
@[simp] theorem State.updDomain_checks (s : State) (k : Nat) (f : Domain → Domain) : (s.updDomain k f).checks = s.checks := by
  unfold State.updDomain; split <;> rfl
@[simp] theorem State.updDomain_l2 (s : State) (k : Nat) (f : Domain → Domain) : (s.updDomain k f).l2 = s.l2 := by
  unfold State.updDomain; split <;> rfl
@[simp] theorem State.updDomain_frames (s : State) (k : Nat) (f : Domain → Domain) : (s.updDomain k f).frames = s.frames := by
  unfold State.updDomain; split <;> rfl
@[simp] theorem State.updDomain_translations (s : State) (k : Nat) (f : Domain → Domain) : (s.updDomain k f).translations = s.translations := by
  unfold State.updDomain; split <;> rfl
@[simp] theorem State.updDomain_caches (s : State) (k : Nat) (f : Domain → Domain) : (s.updDomain k f).caches = s.caches := by
  unfold State.updDomain; split <;> rfl
@[simp] theorem State.updDomain_agenda (s : State) (k : Nat) (f : Domain → Domain) : (s.updDomain k f).agenda = s.agenda := by
  unfold State.updDomain; split <;> rfl
@[simp] theorem State.updDomain_inputs (s : State) (k : Nat) (f : Domain → Domain) : (s.updDomain k f).inputs = s.inputs := by
  unfold State.updDomain; split <;> rfl
@[simp] theorem State.injected_clk (s : State) (ctx va pa n : Nat) : (s.injected ctx va pa n).clk = s.clk := by
  unfold State.injected; dsimp only; split <;> simp
@[simp] theorem State.injected_tick (s : State) (ctx va pa n : Nat) : (s.injected ctx va pa n).tick = s.tick := by
  unfold State.injected; dsimp only; split <;> simp
@[simp] theorem State.injected_serial (s : State) (ctx va pa n : Nat) : (s.injected ctx va pa n).serial = s.serial := by
  unfold State.injected; dsimp only; split <;> simp
@[simp] theorem State.injected_cur (s : State) (ctx va pa n : Nat) : (s.injected ctx va pa n).cur = s.cur := by
  unfold State.injected; dsimp only; split <;> simp
@[simp] theorem State.injected_teams (s : State) (ctx va pa n : Nat) : (s.injected ctx va pa n).teams = s.teams := by
  unfold State.injected; dsimp only; split <;> simp
@[simp] theorem State.injected_gangs (s : State) (ctx va pa n : Nat) : (s.injected ctx va pa n).gangs = s.gangs := by
  unfold State.injected; dsimp only; split <;> simp
@[simp] theorem State.injected_grids (s : State) (ctx va pa n : Nat) : (s.injected ctx va pa n).grids = s.grids := by
  unfold State.injected; dsimp only; split <;> simp
@[simp] theorem State.injected_clusters (s : State) (ctx va pa n : Nat) : (s.injected ctx va pa n).clusters = s.clusters := by
  unfold State.injected; dsimp only; split <;> simp
@[simp] theorem State.injected_domains (s : State) (ctx va pa n : Nat) : (s.injected ctx va pa n).domains = s.domains := by
  unfold State.injected; dsimp only; split <;> simp
@[simp] theorem State.injected_areas (s : State) (ctx va pa n : Nat) : (s.injected ctx va pa n).areas = s.areas := by
  unfold State.injected; dsimp only; split <;> simp
@[simp] theorem State.injected_tags (s : State) (ctx va pa n : Nat) : (s.injected ctx va pa n).tags = s.tags := by
  unfold State.injected; dsimp only; split <;> simp
@[simp] theorem State.injected_mem (s : State) (ctx va pa n : Nat) : (s.injected ctx va pa n).mem = s.mem := by
  unfold State.injected; dsimp only; split <;> simp
@[simp] theorem State.injected_traffic (s : State) (ctx va pa n : Nat) : (s.injected ctx va pa n).traffic = s.traffic := by
  unfold State.injected; dsimp only; split <;> simp
@[simp] theorem State.injected_l2 (s : State) (ctx va pa n : Nat) : (s.injected ctx va pa n).l2 = s.l2 := by
  unfold State.injected; dsimp only; split <;> simp
@[simp] theorem State.injected_frames (s : State) (ctx va pa n : Nat) : (s.injected ctx va pa n).frames = s.frames := by
  unfold State.injected; dsimp only; split <;> simp
@[simp] theorem State.injected_translations (s : State) (ctx va pa n : Nat) : (s.injected ctx va pa n).translations = s.translations := by
  unfold State.injected; dsimp only; split <;> simp
@[simp] theorem State.injected_caches (s : State) (ctx va pa n : Nat) : (s.injected ctx va pa n).caches = s.caches := by
  unfold State.injected; dsimp only; split <;> simp
@[simp] theorem State.injected_agenda (s : State) (ctx va pa n : Nat) : (s.injected ctx va pa n).agenda = s.agenda := by
  unfold State.injected; dsimp only; split <;> simp
@[simp] theorem State.injected_inputs (s : State) (ctx va pa n : Nat) : (s.injected ctx va pa n).inputs = s.inputs := by
  unfold State.injected; dsimp only; split <;> simp
@[simp] theorem State.storeBytes_clk (s : State) (ctx va pa : Nat) (bs : List Byte) : (s.storeBytes ctx va pa bs).clk = s.clk := by
  simp only [State.storeBytes, State.injected_clk, State.writeBytes_clk]
@[simp] theorem State.storeBytes_tick (s : State) (ctx va pa : Nat) (bs : List Byte) : (s.storeBytes ctx va pa bs).tick = s.tick := by
  simp only [State.storeBytes, State.injected_tick, State.writeBytes_tick]
@[simp] theorem State.storeBytes_serial (s : State) (ctx va pa : Nat) (bs : List Byte) : (s.storeBytes ctx va pa bs).serial = s.serial := by
  simp only [State.storeBytes, State.injected_serial, State.writeBytes_serial]
@[simp] theorem State.storeBytes_cur (s : State) (ctx va pa : Nat) (bs : List Byte) : (s.storeBytes ctx va pa bs).cur = s.cur := by
  simp only [State.storeBytes, State.injected_cur, State.writeBytes_cur]
@[simp] theorem State.storeBytes_teams (s : State) (ctx va pa : Nat) (bs : List Byte) : (s.storeBytes ctx va pa bs).teams = s.teams := by
  simp only [State.storeBytes, State.injected_teams, State.writeBytes_teams]
@[simp] theorem State.storeBytes_gangs (s : State) (ctx va pa : Nat) (bs : List Byte) : (s.storeBytes ctx va pa bs).gangs = s.gangs := by
  simp only [State.storeBytes, State.injected_gangs, State.writeBytes_gangs]
@[simp] theorem State.storeBytes_grids (s : State) (ctx va pa : Nat) (bs : List Byte) : (s.storeBytes ctx va pa bs).grids = s.grids := by
  simp only [State.storeBytes, State.injected_grids, State.writeBytes_grids]
@[simp] theorem State.storeBytes_clusters (s : State) (ctx va pa : Nat) (bs : List Byte) : (s.storeBytes ctx va pa bs).clusters = s.clusters := by
  simp only [State.storeBytes, State.injected_clusters, State.writeBytes_clusters]
@[simp] theorem State.storeBytes_domains (s : State) (ctx va pa : Nat) (bs : List Byte) : (s.storeBytes ctx va pa bs).domains = s.domains := by
  simp only [State.storeBytes, State.injected_domains, State.writeBytes_domains]
@[simp] theorem State.storeBytes_areas (s : State) (ctx va pa : Nat) (bs : List Byte) : (s.storeBytes ctx va pa bs).areas = s.areas := by
  simp only [State.storeBytes, State.injected_areas, State.writeBytes_areas]
@[simp] theorem State.storeBytes_tags (s : State) (ctx va pa : Nat) (bs : List Byte) : (s.storeBytes ctx va pa bs).tags = s.tags := by
  simp only [State.storeBytes, State.injected_tags, State.writeBytes_tags]
@[simp] theorem State.storeBytes_traffic (s : State) (ctx va pa : Nat) (bs : List Byte) : (s.storeBytes ctx va pa bs).traffic = s.traffic := by
  simp only [State.storeBytes, State.injected_traffic, State.writeBytes_traffic]
@[simp] theorem State.storeBytes_frames (s : State) (ctx va pa : Nat) (bs : List Byte) : (s.storeBytes ctx va pa bs).frames = s.frames := by
  simp only [State.storeBytes, State.injected_frames, State.writeBytes_frames]
@[simp] theorem State.storeBytes_translations (s : State) (ctx va pa : Nat) (bs : List Byte) : (s.storeBytes ctx va pa bs).translations = s.translations := by
  simp only [State.storeBytes, State.injected_translations, State.writeBytes_translations]
@[simp] theorem State.storeBytes_caches (s : State) (ctx va pa : Nat) (bs : List Byte) : (s.storeBytes ctx va pa bs).caches = s.caches := by
  simp only [State.storeBytes, State.injected_caches, State.writeBytes_caches]
@[simp] theorem State.storeBytes_agenda (s : State) (ctx va pa : Nat) (bs : List Byte) : (s.storeBytes ctx va pa bs).agenda = s.agenda := by
  simp only [State.storeBytes, State.injected_agenda, State.writeBytes_agenda]
@[simp] theorem State.storeBytes_inputs (s : State) (ctx va pa : Nat) (bs : List Byte) : (s.storeBytes ctx va pa bs).inputs = s.inputs := by
  simp only [State.storeBytes, State.injected_inputs, State.writeBytes_inputs]
theorem State.storeBytes_mem (s : State) (ctx va pa : Nat) (bs : List Byte) : (s.storeBytes ctx va pa bs).mem = Memory.writes s.mem pa bs :=
  (State.injected_mem _ _ _ _ _).trans (State.writeBytes_mem _ _ _ _)
@[simp] theorem State.bumpReg_clk (s : State) (ctx off lo n : Nat) : (s.bumpReg ctx off lo n).clk = s.clk := by
  unfold State.bumpReg; simp only []; split <;> simp
@[simp] theorem State.bumpReg_tick (s : State) (ctx off lo n : Nat) : (s.bumpReg ctx off lo n).tick = s.tick := by
  unfold State.bumpReg; simp only []; split <;> simp
@[simp] theorem State.bumpReg_serial (s : State) (ctx off lo n : Nat) : (s.bumpReg ctx off lo n).serial = s.serial := by
  unfold State.bumpReg; simp only []; split <;> simp
@[simp] theorem State.bumpReg_cur (s : State) (ctx off lo n : Nat) : (s.bumpReg ctx off lo n).cur = s.cur := by
  unfold State.bumpReg; simp only []; split <;> simp
@[simp] theorem State.bumpReg_teams (s : State) (ctx off lo n : Nat) : (s.bumpReg ctx off lo n).teams = s.teams := by
  unfold State.bumpReg; simp only []; split <;> simp
@[simp] theorem State.bumpReg_gangs (s : State) (ctx off lo n : Nat) : (s.bumpReg ctx off lo n).gangs = s.gangs := by
  unfold State.bumpReg; simp only []; split <;> simp
@[simp] theorem State.bumpReg_grids (s : State) (ctx off lo n : Nat) : (s.bumpReg ctx off lo n).grids = s.grids := by
  unfold State.bumpReg; simp only []; split <;> simp
@[simp] theorem State.bumpReg_clusters (s : State) (ctx off lo n : Nat) : (s.bumpReg ctx off lo n).clusters = s.clusters := by
  unfold State.bumpReg; simp only []; split <;> simp
@[simp] theorem State.bumpReg_domains (s : State) (ctx off lo n : Nat) : (s.bumpReg ctx off lo n).domains = s.domains := by
  unfold State.bumpReg; simp only []; split <;> simp
@[simp] theorem State.bumpReg_areas (s : State) (ctx off lo n : Nat) : (s.bumpReg ctx off lo n).areas = s.areas := by
  unfold State.bumpReg; simp only []; split <;> simp
@[simp] theorem State.bumpReg_tags (s : State) (ctx off lo n : Nat) : (s.bumpReg ctx off lo n).tags = s.tags := by
  unfold State.bumpReg; simp only []; split <;> simp
@[simp] theorem State.bumpReg_mem (s : State) (ctx off lo n : Nat) : (s.bumpReg ctx off lo n).mem = s.mem := by
  unfold State.bumpReg; simp only []; split <;> simp
@[simp] theorem State.bumpReg_poison (s : State) (ctx off lo n : Nat) : (s.bumpReg ctx off lo n).poison = s.poison := by
  unfold State.bumpReg; simp only []; split <;> simp
@[simp] theorem State.bumpReg_traffic (s : State) (ctx off lo n : Nat) : (s.bumpReg ctx off lo n).traffic = s.traffic := by
  unfold State.bumpReg; simp only []; split <;> simp
@[simp] theorem State.bumpReg_checks (s : State) (ctx off lo n : Nat) : (s.bumpReg ctx off lo n).checks = s.checks := by
  unfold State.bumpReg; simp only []; split <;> simp
@[simp] theorem State.bumpReg_l2 (s : State) (ctx off lo n : Nat) : (s.bumpReg ctx off lo n).l2 = s.l2 := by
  unfold State.bumpReg; simp only []; split <;> simp
@[simp] theorem State.bumpReg_frames (s : State) (ctx off lo n : Nat) : (s.bumpReg ctx off lo n).frames = s.frames := by
  unfold State.bumpReg; simp only []; split <;> simp
@[simp] theorem State.bumpReg_translations (s : State) (ctx off lo n : Nat) : (s.bumpReg ctx off lo n).translations = s.translations := by
  unfold State.bumpReg; simp only []; split <;> simp
@[simp] theorem State.bumpReg_caches (s : State) (ctx off lo n : Nat) : (s.bumpReg ctx off lo n).caches = s.caches := by
  unfold State.bumpReg; simp only []; split <;> simp
@[simp] theorem State.bumpReg_agenda (s : State) (ctx off lo n : Nat) : (s.bumpReg ctx off lo n).agenda = s.agenda := by
  unfold State.bumpReg; simp only []; split <;> simp
@[simp] theorem State.bumpReg_inputs (s : State) (ctx off lo n : Nat) : (s.bumpReg ctx off lo n).inputs = s.inputs := by
  unfold State.bumpReg; simp only []; split <;> simp
@[simp] theorem Team.setV_ctx (t : Team) (l n : Nat) (x : Word) : (t.setV l n x).ctx = t.ctx := rfl
@[simp] theorem Team.setV_gang (t : Team) (l n : Nat) (x : Word) : (t.setV l n x).gang = t.gang := rfl
@[simp] theorem Team.setV_crew (t : Team) (l n : Nat) (x : Word) : (t.setV l n x).crew = t.crew := rfl
@[simp] theorem Team.setV_role (t : Team) (l n : Nat) (x : Word) : (t.setV l n x).role = t.role := rfl
@[simp] theorem Team.setV_idx (t : Team) (l n : Nat) (x : Word) : (t.setV l n x).idx = t.idx := rfl
@[simp] theorem Team.setV_roleTeams (t : Team) (l n : Nat) (x : Word) : (t.setV l n x).roleTeams = t.roleTeams := rfl
@[simp] theorem Team.setV_lanes (t : Team) (l n : Nat) (x : Word) : (t.setV l n x).lanes = t.lanes := rfl
@[simp] theorem Team.setV_isCtl (t : Team) (l n : Nat) (x : Word) : (t.setV l n x).isCtl = t.isCtl := rfl
@[simp] theorem Team.setV_cluster (t : Team) (l n : Nat) (x : Word) : (t.setV l n x).cluster = t.cluster := rfl
@[simp] theorem Team.setV_core (t : Team) (l n : Nat) (x : Word) : (t.setV l n x).core = t.core := rfl
@[simp] theorem Team.setV_datapath (t : Team) (l n : Nat) (x : Word) : (t.setV l n x).datapath = t.datapath := rfl
@[simp] theorem Team.setV_rindex (t : Team) (l n : Nat) (x : Word) : (t.setV l n x).rindex = t.rindex := rfl
@[simp] theorem Team.setV_gangReg (t : Team) (l n : Nat) (x : Word) : (t.setV l n x).gangReg = t.gangReg := rfl
@[simp] theorem Team.setV_gridReg (t : Team) (l n : Nat) (x : Word) : (t.setV l n x).gridReg = t.gridReg := rfl
@[simp] theorem Team.setV_ident (t : Team) (l n : Nat) (x : Word) : (t.setV l n x).ident = t.ident := rfl
@[simp] theorem Team.setV_prio (t : Team) (l n : Nat) (x : Word) : (t.setV l n x).prio = t.prio := rfl
@[simp] theorem Team.setV_kernel (t : Team) (l n : Nat) (x : Word) : (t.setV l n x).kernel = t.kernel := rfl
@[simp] theorem Team.setV_vregs (t : Team) (l n : Nat) (x : Word) : (t.setV l n x).vregs = t.vregs := rfl
@[simp] theorem Team.setV_sregs (t : Team) (l n : Nat) (x : Word) : (t.setV l n x).sregs = t.sregs := rfl
@[simp] theorem Team.setV_saveBase (t : Team) (l n : Nat) (x : Word) : (t.setV l n x).saveBase = t.saveBase := rfl
@[simp] theorem Team.setV_taskSlot (t : Team) (l n : Nat) (x : Word) : (t.setV l n x).taskSlot = t.taskSlot := rfl
@[simp] theorem Team.setV_taskFutures (t : Team) (l n : Nat) (x : Word) : (t.setV l n x).taskFutures = t.taskFutures := rfl
@[simp] theorem Team.setV_s (t : Team) (l n : Nat) (x : Word) : (t.setV l n x).s = t.s := rfl
@[simp] theorem Team.setV_p (t : Team) (l n : Nat) (x : Word) : (t.setV l n x).p = t.p := rfl
@[simp] theorem Team.setV_ex (t : Team) (l n : Nat) (x : Word) : (t.setV l n x).ex = t.ex := rfl
@[simp] theorem Team.setV_live (t : Team) (l n : Nat) (x : Word) : (t.setV l n x).live = t.live := rfl
@[simp] theorem Team.setV_pc (t : Team) (l n : Nat) (x : Word) : (t.setV l n x).pc = t.pc := rfl
@[simp] theorem Team.setV_bundle (t : Team) (l n : Nat) (x : Word) : (t.setV l n x).bundle = t.bundle := rfl
@[simp] theorem Team.setV_slots (t : Team) (l n : Nat) (x : Word) : (t.setV l n x).slots = t.slots := rfl
@[simp] theorem Team.setV_levels (t : Team) (l n : Nat) (x : Word) : (t.setV l n x).levels = t.levels := rfl
@[simp] theorem Team.setV_level (t : Team) (l n : Nat) (x : Word) : (t.setV l n x).level = t.level := rfl
@[simp] theorem Team.setV_blk (t : Team) (l n : Nat) (x : Word) : (t.setV l n x).blk = t.blk := rfl
@[simp] theorem Team.setV_done (t : Team) (l n : Nat) (x : Word) : (t.setV l n x).done = t.done := rfl
@[simp] theorem Team.setV_mark (t : Team) (l n : Nat) (x : Word) : (t.setV l n x).mark = t.mark := rfl
@[simp] theorem Team.setV_kept (t : Team) (l n : Nat) (x : Word) : (t.setV l n x).kept = t.kept := rfl
@[simp] theorem Team.setV_yielded (t : Team) (l n : Nat) (x : Word) : (t.setV l n x).yielded = t.yielded := rfl
@[simp] theorem Team.setV_noPath (t : Team) (l n : Nat) (x : Word) : (t.setV l n x).noPath = t.noPath := rfl
@[simp] theorem Team.setV_openCount (t : Team) (l n : Nat) (x : Word) : (t.setV l n x).openCount = t.openCount := rfl
@[simp] theorem Team.setV_nextTag (t : Team) (l n : Nat) (x : Word) : (t.setV l n x).nextTag = t.nextTag := rfl
@[simp] theorem Team.setV_tags (t : Team) (l n : Nat) (x : Word) : (t.setV l n x).tags = t.tags := rfl
@[simp] theorem Team.setV_copies (t : Team) (l n : Nat) (x : Word) : (t.setV l n x).copies = t.copies := rfl
@[simp] theorem Team.setV_fmode (t : Team) (l n : Nat) (x : Word) : (t.setV l n x).fmode = t.fmode := rfl
@[simp] theorem Team.setV_fstat (t : Team) (l n : Nat) (x : Word) : (t.setV l n x).fstat = t.fstat := rfl
@[simp] theorem Team.setV_depth (t : Team) (l n : Nat) (x : Word) : (t.setV l n x).depth = t.depth := rfl
@[simp] theorem Team.setV_check (t : Team) (l n : Nat) (x : Word) : (t.setV l n x).check = t.check := rfl
@[simp] theorem Team.setV_clockh (t : Team) (l n : Nat) (x : Word) : (t.setV l n x).clockh = t.clockh := rfl
@[simp] theorem Team.setV_tpc (t : Team) (l n : Nat) (x : Word) : (t.setV l n x).tpc = t.tpc := rfl
@[simp] theorem Team.setV_tcause (t : Team) (l n : Nat) (x : Word) : (t.setV l n x).tcause = t.tcause := rfl
@[simp] theorem Team.setV_tex (t : Team) (l n : Nat) (x : Word) : (t.setV l n x).tex = t.tex := rfl
@[simp] theorem Team.setV_taddr (t : Team) (l n : Nat) (x : Word) : (t.setV l n x).taddr = t.taddr := rfl
@[simp] theorem Team.setV_tlevel (t : Team) (l n : Nat) (x : Word) : (t.setV l n x).tlevel = t.tlevel := rfl
@[simp] theorem Team.setV_pends (t : Team) (l n : Nat) (x : Word) : (t.setV l n x).pends = t.pends := rfl
@[simp] theorem Team.setV_inflight (t : Team) (l n : Nat) (x : Word) : (t.setV l n x).inflight = t.inflight := rfl
@[simp] theorem Team.setV_earliest (t : Team) (l n : Nat) (x : Word) : (t.setV l n x).earliest = t.earliest := rfl
@[simp] theorem Team.setV_lastSetU (t : Team) (l n : Nat) (x : Word) : (t.setV l n x).lastSetU = t.lastSetU := rfl
@[simp] theorem Team.setV_zeroStall (t : Team) (l n : Nat) (x : Word) : (t.setV l n x).zeroStall = t.zeroStall := rfl
@[simp] theorem Team.setV_placed (t : Team) (l n : Nat) (x : Word) : (t.setV l n x).placed = t.placed := rfl
@[simp] theorem Team.setV_lastIssue (t : Team) (l n : Nat) (x : Word) : (t.setV l n x).lastIssue = t.lastIssue := rfl
@[simp] theorem Team.setV_yieldUntil (t : Team) (l n : Nat) (x : Word) : (t.setV l n x).yieldUntil = t.yieldUntil := rfl
@[simp] theorem Team.setV_enters (t : Team) (l n : Nat) (x : Word) : (t.setV l n x).enters = t.enters := rfl
@[simp] theorem Team.setV_sectTraps (t : Team) (l n : Nat) (x : Word) : (t.setV l n x).sectTraps = t.sectTraps := rfl
@[simp] theorem Team.setV_halt (t : Team) (l n : Nat) (x : Word) : (t.setV l n x).halt = t.halt := rfl
@[simp] theorem Team.setV_haltFrom (t : Team) (l n : Nat) (x : Word) : (t.setV l n x).haltFrom = t.haltFrom := rfl
@[simp] theorem Team.setV_haltClk (t : Team) (l n : Nat) (x : Word) : (t.setV l n x).haltClk = t.haltClk := rfl
@[simp] theorem Team.setV_faultSeq (t : Team) (l n : Nat) (x : Word) : (t.setV l n x).faultSeq = t.faultSeq := rfl
@[simp] theorem Team.setV_bpSkip (t : Team) (l n : Nat) (x : Word) : (t.setV l n x).bpSkip = t.bpSkip := rfl
@[simp] theorem Team.setV_stepState (t : Team) (l n : Nat) (x : Word) : (t.setV l n x).stepState = t.stepState := rfl
@[simp] theorem Team.setV_watchHit (t : Team) (l n : Nat) (x : Word) : (t.setV l n x).watchHit = t.watchHit := rfl
@[simp] theorem Team.setV_spReq (t : Team) (l n : Nat) (x : Word) : (t.setV l n x).spReq = t.spReq := rfl
@[simp] theorem Team.setV_spSkip (t : Team) (l n : Nat) (x : Word) : (t.setV l n x).spSkip = t.spSkip := rfl
@[simp] theorem Team.setV_reinstate (t : Team) (l n : Nat) (x : Word) : (t.setV l n x).reinstate = t.reinstate := rfl
@[simp] theorem Team.setV_saving (t : Team) (l n : Nat) (x : Word) : (t.setV l n x).saving = t.saving := rfl
@[simp] theorem Team.setV_saveIdx (t : Team) (l n : Nat) (x : Word) : (t.setV l n x).saveIdx = t.saveIdx := rfl
@[simp] theorem Team.setV_gone (t : Team) (l n : Nat) (x : Word) : (t.setV l n x).gone = t.gone := rfl
@[simp] theorem Team.setV_ended (t : Team) (l n : Nat) (x : Word) : (t.setV l n x).ended = t.ended := rfl
@[simp] theorem Team.setV_edits (t : Team) (l n : Nat) (x : Word) : (t.setV l n x).edits = t.edits := rfl
@[simp] theorem Team.setV_haltWanted (t : Team) (l n : Nat) (x : Word) : (t.setV l n x).haltWanted = t.haltWanted := rfl
@[simp] theorem Team.setS_ctx (t : Team) (n : Nat) (x : Word) : (t.setS n x).ctx = t.ctx := rfl
@[simp] theorem Team.setS_gang (t : Team) (n : Nat) (x : Word) : (t.setS n x).gang = t.gang := rfl
@[simp] theorem Team.setS_crew (t : Team) (n : Nat) (x : Word) : (t.setS n x).crew = t.crew := rfl
@[simp] theorem Team.setS_role (t : Team) (n : Nat) (x : Word) : (t.setS n x).role = t.role := rfl
@[simp] theorem Team.setS_idx (t : Team) (n : Nat) (x : Word) : (t.setS n x).idx = t.idx := rfl
@[simp] theorem Team.setS_roleTeams (t : Team) (n : Nat) (x : Word) : (t.setS n x).roleTeams = t.roleTeams := rfl
@[simp] theorem Team.setS_lanes (t : Team) (n : Nat) (x : Word) : (t.setS n x).lanes = t.lanes := rfl
@[simp] theorem Team.setS_isCtl (t : Team) (n : Nat) (x : Word) : (t.setS n x).isCtl = t.isCtl := rfl
@[simp] theorem Team.setS_cluster (t : Team) (n : Nat) (x : Word) : (t.setS n x).cluster = t.cluster := rfl
@[simp] theorem Team.setS_core (t : Team) (n : Nat) (x : Word) : (t.setS n x).core = t.core := rfl
@[simp] theorem Team.setS_datapath (t : Team) (n : Nat) (x : Word) : (t.setS n x).datapath = t.datapath := rfl
@[simp] theorem Team.setS_rindex (t : Team) (n : Nat) (x : Word) : (t.setS n x).rindex = t.rindex := rfl
@[simp] theorem Team.setS_gangReg (t : Team) (n : Nat) (x : Word) : (t.setS n x).gangReg = t.gangReg := rfl
@[simp] theorem Team.setS_gridReg (t : Team) (n : Nat) (x : Word) : (t.setS n x).gridReg = t.gridReg := rfl
@[simp] theorem Team.setS_ident (t : Team) (n : Nat) (x : Word) : (t.setS n x).ident = t.ident := rfl
@[simp] theorem Team.setS_prio (t : Team) (n : Nat) (x : Word) : (t.setS n x).prio = t.prio := rfl
@[simp] theorem Team.setS_kernel (t : Team) (n : Nat) (x : Word) : (t.setS n x).kernel = t.kernel := rfl
@[simp] theorem Team.setS_vregs (t : Team) (n : Nat) (x : Word) : (t.setS n x).vregs = t.vregs := rfl
@[simp] theorem Team.setS_sregs (t : Team) (n : Nat) (x : Word) : (t.setS n x).sregs = t.sregs := rfl
@[simp] theorem Team.setS_saveBase (t : Team) (n : Nat) (x : Word) : (t.setS n x).saveBase = t.saveBase := rfl
@[simp] theorem Team.setS_taskSlot (t : Team) (n : Nat) (x : Word) : (t.setS n x).taskSlot = t.taskSlot := rfl
@[simp] theorem Team.setS_taskFutures (t : Team) (n : Nat) (x : Word) : (t.setS n x).taskFutures = t.taskFutures := rfl
@[simp] theorem Team.setS_v (t : Team) (n : Nat) (x : Word) : (t.setS n x).v = t.v := rfl
@[simp] theorem Team.setS_p (t : Team) (n : Nat) (x : Word) : (t.setS n x).p = t.p := rfl
@[simp] theorem Team.setS_ex (t : Team) (n : Nat) (x : Word) : (t.setS n x).ex = t.ex := rfl
@[simp] theorem Team.setS_live (t : Team) (n : Nat) (x : Word) : (t.setS n x).live = t.live := rfl
@[simp] theorem Team.setS_pc (t : Team) (n : Nat) (x : Word) : (t.setS n x).pc = t.pc := rfl
@[simp] theorem Team.setS_bundle (t : Team) (n : Nat) (x : Word) : (t.setS n x).bundle = t.bundle := rfl
@[simp] theorem Team.setS_slots (t : Team) (n : Nat) (x : Word) : (t.setS n x).slots = t.slots := rfl
@[simp] theorem Team.setS_levels (t : Team) (n : Nat) (x : Word) : (t.setS n x).levels = t.levels := rfl
@[simp] theorem Team.setS_level (t : Team) (n : Nat) (x : Word) : (t.setS n x).level = t.level := rfl
@[simp] theorem Team.setS_blk (t : Team) (n : Nat) (x : Word) : (t.setS n x).blk = t.blk := rfl
@[simp] theorem Team.setS_done (t : Team) (n : Nat) (x : Word) : (t.setS n x).done = t.done := rfl
@[simp] theorem Team.setS_mark (t : Team) (n : Nat) (x : Word) : (t.setS n x).mark = t.mark := rfl
@[simp] theorem Team.setS_kept (t : Team) (n : Nat) (x : Word) : (t.setS n x).kept = t.kept := rfl
@[simp] theorem Team.setS_yielded (t : Team) (n : Nat) (x : Word) : (t.setS n x).yielded = t.yielded := rfl
@[simp] theorem Team.setS_noPath (t : Team) (n : Nat) (x : Word) : (t.setS n x).noPath = t.noPath := rfl
@[simp] theorem Team.setS_openCount (t : Team) (n : Nat) (x : Word) : (t.setS n x).openCount = t.openCount := rfl
@[simp] theorem Team.setS_nextTag (t : Team) (n : Nat) (x : Word) : (t.setS n x).nextTag = t.nextTag := rfl
@[simp] theorem Team.setS_tags (t : Team) (n : Nat) (x : Word) : (t.setS n x).tags = t.tags := rfl
@[simp] theorem Team.setS_copies (t : Team) (n : Nat) (x : Word) : (t.setS n x).copies = t.copies := rfl
@[simp] theorem Team.setS_fmode (t : Team) (n : Nat) (x : Word) : (t.setS n x).fmode = t.fmode := rfl
@[simp] theorem Team.setS_fstat (t : Team) (n : Nat) (x : Word) : (t.setS n x).fstat = t.fstat := rfl
@[simp] theorem Team.setS_depth (t : Team) (n : Nat) (x : Word) : (t.setS n x).depth = t.depth := rfl
@[simp] theorem Team.setS_check (t : Team) (n : Nat) (x : Word) : (t.setS n x).check = t.check := rfl
@[simp] theorem Team.setS_clockh (t : Team) (n : Nat) (x : Word) : (t.setS n x).clockh = t.clockh := rfl
@[simp] theorem Team.setS_tpc (t : Team) (n : Nat) (x : Word) : (t.setS n x).tpc = t.tpc := rfl
@[simp] theorem Team.setS_tcause (t : Team) (n : Nat) (x : Word) : (t.setS n x).tcause = t.tcause := rfl
@[simp] theorem Team.setS_tex (t : Team) (n : Nat) (x : Word) : (t.setS n x).tex = t.tex := rfl
@[simp] theorem Team.setS_taddr (t : Team) (n : Nat) (x : Word) : (t.setS n x).taddr = t.taddr := rfl
@[simp] theorem Team.setS_tlevel (t : Team) (n : Nat) (x : Word) : (t.setS n x).tlevel = t.tlevel := rfl
@[simp] theorem Team.setS_pends (t : Team) (n : Nat) (x : Word) : (t.setS n x).pends = t.pends := rfl
@[simp] theorem Team.setS_inflight (t : Team) (n : Nat) (x : Word) : (t.setS n x).inflight = t.inflight := rfl
@[simp] theorem Team.setS_earliest (t : Team) (n : Nat) (x : Word) : (t.setS n x).earliest = t.earliest := rfl
@[simp] theorem Team.setS_lastSetU (t : Team) (n : Nat) (x : Word) : (t.setS n x).lastSetU = t.lastSetU := rfl
@[simp] theorem Team.setS_zeroStall (t : Team) (n : Nat) (x : Word) : (t.setS n x).zeroStall = t.zeroStall := rfl
@[simp] theorem Team.setS_placed (t : Team) (n : Nat) (x : Word) : (t.setS n x).placed = t.placed := rfl
@[simp] theorem Team.setS_lastIssue (t : Team) (n : Nat) (x : Word) : (t.setS n x).lastIssue = t.lastIssue := rfl
@[simp] theorem Team.setS_yieldUntil (t : Team) (n : Nat) (x : Word) : (t.setS n x).yieldUntil = t.yieldUntil := rfl
@[simp] theorem Team.setS_enters (t : Team) (n : Nat) (x : Word) : (t.setS n x).enters = t.enters := rfl
@[simp] theorem Team.setS_sectTraps (t : Team) (n : Nat) (x : Word) : (t.setS n x).sectTraps = t.sectTraps := rfl
@[simp] theorem Team.setS_halt (t : Team) (n : Nat) (x : Word) : (t.setS n x).halt = t.halt := rfl
@[simp] theorem Team.setS_haltFrom (t : Team) (n : Nat) (x : Word) : (t.setS n x).haltFrom = t.haltFrom := rfl
@[simp] theorem Team.setS_haltClk (t : Team) (n : Nat) (x : Word) : (t.setS n x).haltClk = t.haltClk := rfl
@[simp] theorem Team.setS_faultSeq (t : Team) (n : Nat) (x : Word) : (t.setS n x).faultSeq = t.faultSeq := rfl
@[simp] theorem Team.setS_bpSkip (t : Team) (n : Nat) (x : Word) : (t.setS n x).bpSkip = t.bpSkip := rfl
@[simp] theorem Team.setS_stepState (t : Team) (n : Nat) (x : Word) : (t.setS n x).stepState = t.stepState := rfl
@[simp] theorem Team.setS_watchHit (t : Team) (n : Nat) (x : Word) : (t.setS n x).watchHit = t.watchHit := rfl
@[simp] theorem Team.setS_spReq (t : Team) (n : Nat) (x : Word) : (t.setS n x).spReq = t.spReq := rfl
@[simp] theorem Team.setS_spSkip (t : Team) (n : Nat) (x : Word) : (t.setS n x).spSkip = t.spSkip := rfl
@[simp] theorem Team.setS_reinstate (t : Team) (n : Nat) (x : Word) : (t.setS n x).reinstate = t.reinstate := rfl
@[simp] theorem Team.setS_saving (t : Team) (n : Nat) (x : Word) : (t.setS n x).saving = t.saving := rfl
@[simp] theorem Team.setS_saveIdx (t : Team) (n : Nat) (x : Word) : (t.setS n x).saveIdx = t.saveIdx := rfl
@[simp] theorem Team.setS_gone (t : Team) (n : Nat) (x : Word) : (t.setS n x).gone = t.gone := rfl
@[simp] theorem Team.setS_ended (t : Team) (n : Nat) (x : Word) : (t.setS n x).ended = t.ended := rfl
@[simp] theorem Team.setS_edits (t : Team) (n : Nat) (x : Word) : (t.setS n x).edits = t.edits := rfl
@[simp] theorem Team.setS_haltWanted (t : Team) (n : Nat) (x : Word) : (t.setS n x).haltWanted = t.haltWanted := rfl
@[simp] theorem Team.setP_ctx (t : Team) (n : Nat) (m : Mask) : (t.setP n m).ctx = t.ctx := rfl
@[simp] theorem Team.setP_gang (t : Team) (n : Nat) (m : Mask) : (t.setP n m).gang = t.gang := rfl
@[simp] theorem Team.setP_crew (t : Team) (n : Nat) (m : Mask) : (t.setP n m).crew = t.crew := rfl
@[simp] theorem Team.setP_role (t : Team) (n : Nat) (m : Mask) : (t.setP n m).role = t.role := rfl
@[simp] theorem Team.setP_idx (t : Team) (n : Nat) (m : Mask) : (t.setP n m).idx = t.idx := rfl
@[simp] theorem Team.setP_roleTeams (t : Team) (n : Nat) (m : Mask) : (t.setP n m).roleTeams = t.roleTeams := rfl
@[simp] theorem Team.setP_lanes (t : Team) (n : Nat) (m : Mask) : (t.setP n m).lanes = t.lanes := rfl
@[simp] theorem Team.setP_isCtl (t : Team) (n : Nat) (m : Mask) : (t.setP n m).isCtl = t.isCtl := rfl
@[simp] theorem Team.setP_cluster (t : Team) (n : Nat) (m : Mask) : (t.setP n m).cluster = t.cluster := rfl
@[simp] theorem Team.setP_core (t : Team) (n : Nat) (m : Mask) : (t.setP n m).core = t.core := rfl
@[simp] theorem Team.setP_datapath (t : Team) (n : Nat) (m : Mask) : (t.setP n m).datapath = t.datapath := rfl
@[simp] theorem Team.setP_rindex (t : Team) (n : Nat) (m : Mask) : (t.setP n m).rindex = t.rindex := rfl
@[simp] theorem Team.setP_gangReg (t : Team) (n : Nat) (m : Mask) : (t.setP n m).gangReg = t.gangReg := rfl
@[simp] theorem Team.setP_gridReg (t : Team) (n : Nat) (m : Mask) : (t.setP n m).gridReg = t.gridReg := rfl
@[simp] theorem Team.setP_ident (t : Team) (n : Nat) (m : Mask) : (t.setP n m).ident = t.ident := rfl
@[simp] theorem Team.setP_prio (t : Team) (n : Nat) (m : Mask) : (t.setP n m).prio = t.prio := rfl
@[simp] theorem Team.setP_kernel (t : Team) (n : Nat) (m : Mask) : (t.setP n m).kernel = t.kernel := rfl
@[simp] theorem Team.setP_vregs (t : Team) (n : Nat) (m : Mask) : (t.setP n m).vregs = t.vregs := rfl
@[simp] theorem Team.setP_sregs (t : Team) (n : Nat) (m : Mask) : (t.setP n m).sregs = t.sregs := rfl
@[simp] theorem Team.setP_saveBase (t : Team) (n : Nat) (m : Mask) : (t.setP n m).saveBase = t.saveBase := rfl
@[simp] theorem Team.setP_taskSlot (t : Team) (n : Nat) (m : Mask) : (t.setP n m).taskSlot = t.taskSlot := rfl
@[simp] theorem Team.setP_taskFutures (t : Team) (n : Nat) (m : Mask) : (t.setP n m).taskFutures = t.taskFutures := rfl
@[simp] theorem Team.setP_v (t : Team) (n : Nat) (m : Mask) : (t.setP n m).v = t.v := rfl
@[simp] theorem Team.setP_s (t : Team) (n : Nat) (m : Mask) : (t.setP n m).s = t.s := rfl
@[simp] theorem Team.setP_ex (t : Team) (n : Nat) (m : Mask) : (t.setP n m).ex = t.ex := rfl
@[simp] theorem Team.setP_live (t : Team) (n : Nat) (m : Mask) : (t.setP n m).live = t.live := rfl
@[simp] theorem Team.setP_pc (t : Team) (n : Nat) (m : Mask) : (t.setP n m).pc = t.pc := rfl
@[simp] theorem Team.setP_bundle (t : Team) (n : Nat) (m : Mask) : (t.setP n m).bundle = t.bundle := rfl
@[simp] theorem Team.setP_slots (t : Team) (n : Nat) (m : Mask) : (t.setP n m).slots = t.slots := rfl
@[simp] theorem Team.setP_levels (t : Team) (n : Nat) (m : Mask) : (t.setP n m).levels = t.levels := rfl
@[simp] theorem Team.setP_level (t : Team) (n : Nat) (m : Mask) : (t.setP n m).level = t.level := rfl
@[simp] theorem Team.setP_blk (t : Team) (n : Nat) (m : Mask) : (t.setP n m).blk = t.blk := rfl
@[simp] theorem Team.setP_done (t : Team) (n : Nat) (m : Mask) : (t.setP n m).done = t.done := rfl
@[simp] theorem Team.setP_mark (t : Team) (n : Nat) (m : Mask) : (t.setP n m).mark = t.mark := rfl
@[simp] theorem Team.setP_kept (t : Team) (n : Nat) (m : Mask) : (t.setP n m).kept = t.kept := rfl
@[simp] theorem Team.setP_yielded (t : Team) (n : Nat) (m : Mask) : (t.setP n m).yielded = t.yielded := rfl
@[simp] theorem Team.setP_noPath (t : Team) (n : Nat) (m : Mask) : (t.setP n m).noPath = t.noPath := rfl
@[simp] theorem Team.setP_openCount (t : Team) (n : Nat) (m : Mask) : (t.setP n m).openCount = t.openCount := rfl
@[simp] theorem Team.setP_nextTag (t : Team) (n : Nat) (m : Mask) : (t.setP n m).nextTag = t.nextTag := rfl
@[simp] theorem Team.setP_tags (t : Team) (n : Nat) (m : Mask) : (t.setP n m).tags = t.tags := rfl
@[simp] theorem Team.setP_copies (t : Team) (n : Nat) (m : Mask) : (t.setP n m).copies = t.copies := rfl
@[simp] theorem Team.setP_fmode (t : Team) (n : Nat) (m : Mask) : (t.setP n m).fmode = t.fmode := rfl
@[simp] theorem Team.setP_fstat (t : Team) (n : Nat) (m : Mask) : (t.setP n m).fstat = t.fstat := rfl
@[simp] theorem Team.setP_depth (t : Team) (n : Nat) (m : Mask) : (t.setP n m).depth = t.depth := rfl
@[simp] theorem Team.setP_check (t : Team) (n : Nat) (m : Mask) : (t.setP n m).check = t.check := rfl
@[simp] theorem Team.setP_clockh (t : Team) (n : Nat) (m : Mask) : (t.setP n m).clockh = t.clockh := rfl
@[simp] theorem Team.setP_tpc (t : Team) (n : Nat) (m : Mask) : (t.setP n m).tpc = t.tpc := rfl
@[simp] theorem Team.setP_tcause (t : Team) (n : Nat) (m : Mask) : (t.setP n m).tcause = t.tcause := rfl
@[simp] theorem Team.setP_tex (t : Team) (n : Nat) (m : Mask) : (t.setP n m).tex = t.tex := rfl
@[simp] theorem Team.setP_taddr (t : Team) (n : Nat) (m : Mask) : (t.setP n m).taddr = t.taddr := rfl
@[simp] theorem Team.setP_tlevel (t : Team) (n : Nat) (m : Mask) : (t.setP n m).tlevel = t.tlevel := rfl
@[simp] theorem Team.setP_pends (t : Team) (n : Nat) (m : Mask) : (t.setP n m).pends = t.pends := rfl
@[simp] theorem Team.setP_inflight (t : Team) (n : Nat) (m : Mask) : (t.setP n m).inflight = t.inflight := rfl
@[simp] theorem Team.setP_earliest (t : Team) (n : Nat) (m : Mask) : (t.setP n m).earliest = t.earliest := rfl
@[simp] theorem Team.setP_lastSetU (t : Team) (n : Nat) (m : Mask) : (t.setP n m).lastSetU = t.lastSetU := rfl
@[simp] theorem Team.setP_zeroStall (t : Team) (n : Nat) (m : Mask) : (t.setP n m).zeroStall = t.zeroStall := rfl
@[simp] theorem Team.setP_placed (t : Team) (n : Nat) (m : Mask) : (t.setP n m).placed = t.placed := rfl
@[simp] theorem Team.setP_lastIssue (t : Team) (n : Nat) (m : Mask) : (t.setP n m).lastIssue = t.lastIssue := rfl
@[simp] theorem Team.setP_yieldUntil (t : Team) (n : Nat) (m : Mask) : (t.setP n m).yieldUntil = t.yieldUntil := rfl
@[simp] theorem Team.setP_enters (t : Team) (n : Nat) (m : Mask) : (t.setP n m).enters = t.enters := rfl
@[simp] theorem Team.setP_sectTraps (t : Team) (n : Nat) (m : Mask) : (t.setP n m).sectTraps = t.sectTraps := rfl
@[simp] theorem Team.setP_halt (t : Team) (n : Nat) (m : Mask) : (t.setP n m).halt = t.halt := rfl
@[simp] theorem Team.setP_haltFrom (t : Team) (n : Nat) (m : Mask) : (t.setP n m).haltFrom = t.haltFrom := rfl
@[simp] theorem Team.setP_haltClk (t : Team) (n : Nat) (m : Mask) : (t.setP n m).haltClk = t.haltClk := rfl
@[simp] theorem Team.setP_faultSeq (t : Team) (n : Nat) (m : Mask) : (t.setP n m).faultSeq = t.faultSeq := rfl
@[simp] theorem Team.setP_bpSkip (t : Team) (n : Nat) (m : Mask) : (t.setP n m).bpSkip = t.bpSkip := rfl
@[simp] theorem Team.setP_stepState (t : Team) (n : Nat) (m : Mask) : (t.setP n m).stepState = t.stepState := rfl
@[simp] theorem Team.setP_watchHit (t : Team) (n : Nat) (m : Mask) : (t.setP n m).watchHit = t.watchHit := rfl
@[simp] theorem Team.setP_spReq (t : Team) (n : Nat) (m : Mask) : (t.setP n m).spReq = t.spReq := rfl
@[simp] theorem Team.setP_spSkip (t : Team) (n : Nat) (m : Mask) : (t.setP n m).spSkip = t.spSkip := rfl
@[simp] theorem Team.setP_reinstate (t : Team) (n : Nat) (m : Mask) : (t.setP n m).reinstate = t.reinstate := rfl
@[simp] theorem Team.setP_saving (t : Team) (n : Nat) (m : Mask) : (t.setP n m).saving = t.saving := rfl
@[simp] theorem Team.setP_saveIdx (t : Team) (n : Nat) (m : Mask) : (t.setP n m).saveIdx = t.saveIdx := rfl
@[simp] theorem Team.setP_gone (t : Team) (n : Nat) (m : Mask) : (t.setP n m).gone = t.gone := rfl
@[simp] theorem Team.setP_ended (t : Team) (n : Nat) (m : Mask) : (t.setP n m).ended = t.ended := rfl
@[simp] theorem Team.setP_edits (t : Team) (n : Nat) (m : Mask) : (t.setP n m).edits = t.edits := rfl
@[simp] theorem Team.setP_haltWanted (t : Team) (n : Nat) (m : Mask) : (t.setP n m).haltWanted = t.haltWanted := rfl
@[simp] theorem Team.dropFutures_ctx (t : Team) (us : List RegUse) : (t.dropFutures us).ctx = t.ctx := rfl
@[simp] theorem Team.dropFutures_gang (t : Team) (us : List RegUse) : (t.dropFutures us).gang = t.gang := rfl
@[simp] theorem Team.dropFutures_crew (t : Team) (us : List RegUse) : (t.dropFutures us).crew = t.crew := rfl
@[simp] theorem Team.dropFutures_role (t : Team) (us : List RegUse) : (t.dropFutures us).role = t.role := rfl
@[simp] theorem Team.dropFutures_idx (t : Team) (us : List RegUse) : (t.dropFutures us).idx = t.idx := rfl
@[simp] theorem Team.dropFutures_roleTeams (t : Team) (us : List RegUse) : (t.dropFutures us).roleTeams = t.roleTeams := rfl
@[simp] theorem Team.dropFutures_lanes (t : Team) (us : List RegUse) : (t.dropFutures us).lanes = t.lanes := rfl
@[simp] theorem Team.dropFutures_isCtl (t : Team) (us : List RegUse) : (t.dropFutures us).isCtl = t.isCtl := rfl
@[simp] theorem Team.dropFutures_cluster (t : Team) (us : List RegUse) : (t.dropFutures us).cluster = t.cluster := rfl
@[simp] theorem Team.dropFutures_core (t : Team) (us : List RegUse) : (t.dropFutures us).core = t.core := rfl
@[simp] theorem Team.dropFutures_datapath (t : Team) (us : List RegUse) : (t.dropFutures us).datapath = t.datapath := rfl
@[simp] theorem Team.dropFutures_rindex (t : Team) (us : List RegUse) : (t.dropFutures us).rindex = t.rindex := rfl
@[simp] theorem Team.dropFutures_gangReg (t : Team) (us : List RegUse) : (t.dropFutures us).gangReg = t.gangReg := rfl
@[simp] theorem Team.dropFutures_gridReg (t : Team) (us : List RegUse) : (t.dropFutures us).gridReg = t.gridReg := rfl
@[simp] theorem Team.dropFutures_ident (t : Team) (us : List RegUse) : (t.dropFutures us).ident = t.ident := rfl
@[simp] theorem Team.dropFutures_prio (t : Team) (us : List RegUse) : (t.dropFutures us).prio = t.prio := rfl
@[simp] theorem Team.dropFutures_kernel (t : Team) (us : List RegUse) : (t.dropFutures us).kernel = t.kernel := rfl
@[simp] theorem Team.dropFutures_vregs (t : Team) (us : List RegUse) : (t.dropFutures us).vregs = t.vregs := rfl
@[simp] theorem Team.dropFutures_sregs (t : Team) (us : List RegUse) : (t.dropFutures us).sregs = t.sregs := rfl
@[simp] theorem Team.dropFutures_saveBase (t : Team) (us : List RegUse) : (t.dropFutures us).saveBase = t.saveBase := rfl
@[simp] theorem Team.dropFutures_taskSlot (t : Team) (us : List RegUse) : (t.dropFutures us).taskSlot = t.taskSlot := rfl
@[simp] theorem Team.dropFutures_taskFutures (t : Team) (us : List RegUse) : (t.dropFutures us).taskFutures = t.taskFutures := rfl
@[simp] theorem Team.dropFutures_v (t : Team) (us : List RegUse) : (t.dropFutures us).v = t.v := rfl
@[simp] theorem Team.dropFutures_s (t : Team) (us : List RegUse) : (t.dropFutures us).s = t.s := rfl
@[simp] theorem Team.dropFutures_p (t : Team) (us : List RegUse) : (t.dropFutures us).p = t.p := rfl
@[simp] theorem Team.dropFutures_ex (t : Team) (us : List RegUse) : (t.dropFutures us).ex = t.ex := rfl
@[simp] theorem Team.dropFutures_live (t : Team) (us : List RegUse) : (t.dropFutures us).live = t.live := rfl
@[simp] theorem Team.dropFutures_pc (t : Team) (us : List RegUse) : (t.dropFutures us).pc = t.pc := rfl
@[simp] theorem Team.dropFutures_bundle (t : Team) (us : List RegUse) : (t.dropFutures us).bundle = t.bundle := rfl
@[simp] theorem Team.dropFutures_slots (t : Team) (us : List RegUse) : (t.dropFutures us).slots = t.slots := rfl
@[simp] theorem Team.dropFutures_levels (t : Team) (us : List RegUse) : (t.dropFutures us).levels = t.levels := rfl
@[simp] theorem Team.dropFutures_level (t : Team) (us : List RegUse) : (t.dropFutures us).level = t.level := rfl
@[simp] theorem Team.dropFutures_blk (t : Team) (us : List RegUse) : (t.dropFutures us).blk = t.blk := rfl
@[simp] theorem Team.dropFutures_done (t : Team) (us : List RegUse) : (t.dropFutures us).done = t.done := rfl
@[simp] theorem Team.dropFutures_mark (t : Team) (us : List RegUse) : (t.dropFutures us).mark = t.mark := rfl
@[simp] theorem Team.dropFutures_kept (t : Team) (us : List RegUse) : (t.dropFutures us).kept = t.kept := rfl
@[simp] theorem Team.dropFutures_yielded (t : Team) (us : List RegUse) : (t.dropFutures us).yielded = t.yielded := rfl
@[simp] theorem Team.dropFutures_noPath (t : Team) (us : List RegUse) : (t.dropFutures us).noPath = t.noPath := rfl
@[simp] theorem Team.dropFutures_openCount (t : Team) (us : List RegUse) : (t.dropFutures us).openCount = t.openCount := rfl
@[simp] theorem Team.dropFutures_nextTag (t : Team) (us : List RegUse) : (t.dropFutures us).nextTag = t.nextTag := rfl
@[simp] theorem Team.dropFutures_tags (t : Team) (us : List RegUse) : (t.dropFutures us).tags = t.tags := rfl
@[simp] theorem Team.dropFutures_copies (t : Team) (us : List RegUse) : (t.dropFutures us).copies = t.copies := rfl
@[simp] theorem Team.dropFutures_fmode (t : Team) (us : List RegUse) : (t.dropFutures us).fmode = t.fmode := rfl
@[simp] theorem Team.dropFutures_fstat (t : Team) (us : List RegUse) : (t.dropFutures us).fstat = t.fstat := rfl
@[simp] theorem Team.dropFutures_depth (t : Team) (us : List RegUse) : (t.dropFutures us).depth = t.depth := rfl
@[simp] theorem Team.dropFutures_check (t : Team) (us : List RegUse) : (t.dropFutures us).check = t.check := rfl
@[simp] theorem Team.dropFutures_clockh (t : Team) (us : List RegUse) : (t.dropFutures us).clockh = t.clockh := rfl
@[simp] theorem Team.dropFutures_tpc (t : Team) (us : List RegUse) : (t.dropFutures us).tpc = t.tpc := rfl
@[simp] theorem Team.dropFutures_tcause (t : Team) (us : List RegUse) : (t.dropFutures us).tcause = t.tcause := rfl
@[simp] theorem Team.dropFutures_tex (t : Team) (us : List RegUse) : (t.dropFutures us).tex = t.tex := rfl
@[simp] theorem Team.dropFutures_taddr (t : Team) (us : List RegUse) : (t.dropFutures us).taddr = t.taddr := rfl
@[simp] theorem Team.dropFutures_tlevel (t : Team) (us : List RegUse) : (t.dropFutures us).tlevel = t.tlevel := rfl
@[simp] theorem Team.dropFutures_inflight (t : Team) (us : List RegUse) : (t.dropFutures us).inflight = t.inflight := rfl
@[simp] theorem Team.dropFutures_earliest (t : Team) (us : List RegUse) : (t.dropFutures us).earliest = t.earliest := rfl
@[simp] theorem Team.dropFutures_lastSetU (t : Team) (us : List RegUse) : (t.dropFutures us).lastSetU = t.lastSetU := rfl
@[simp] theorem Team.dropFutures_zeroStall (t : Team) (us : List RegUse) : (t.dropFutures us).zeroStall = t.zeroStall := rfl
@[simp] theorem Team.dropFutures_placed (t : Team) (us : List RegUse) : (t.dropFutures us).placed = t.placed := rfl
@[simp] theorem Team.dropFutures_lastIssue (t : Team) (us : List RegUse) : (t.dropFutures us).lastIssue = t.lastIssue := rfl
@[simp] theorem Team.dropFutures_yieldUntil (t : Team) (us : List RegUse) : (t.dropFutures us).yieldUntil = t.yieldUntil := rfl
@[simp] theorem Team.dropFutures_enters (t : Team) (us : List RegUse) : (t.dropFutures us).enters = t.enters := rfl
@[simp] theorem Team.dropFutures_sectTraps (t : Team) (us : List RegUse) : (t.dropFutures us).sectTraps = t.sectTraps := rfl
@[simp] theorem Team.dropFutures_halt (t : Team) (us : List RegUse) : (t.dropFutures us).halt = t.halt := rfl
@[simp] theorem Team.dropFutures_haltFrom (t : Team) (us : List RegUse) : (t.dropFutures us).haltFrom = t.haltFrom := rfl
@[simp] theorem Team.dropFutures_haltClk (t : Team) (us : List RegUse) : (t.dropFutures us).haltClk = t.haltClk := rfl
@[simp] theorem Team.dropFutures_faultSeq (t : Team) (us : List RegUse) : (t.dropFutures us).faultSeq = t.faultSeq := rfl
@[simp] theorem Team.dropFutures_bpSkip (t : Team) (us : List RegUse) : (t.dropFutures us).bpSkip = t.bpSkip := rfl
@[simp] theorem Team.dropFutures_stepState (t : Team) (us : List RegUse) : (t.dropFutures us).stepState = t.stepState := rfl
@[simp] theorem Team.dropFutures_watchHit (t : Team) (us : List RegUse) : (t.dropFutures us).watchHit = t.watchHit := rfl
@[simp] theorem Team.dropFutures_spReq (t : Team) (us : List RegUse) : (t.dropFutures us).spReq = t.spReq := rfl
@[simp] theorem Team.dropFutures_spSkip (t : Team) (us : List RegUse) : (t.dropFutures us).spSkip = t.spSkip := rfl
@[simp] theorem Team.dropFutures_reinstate (t : Team) (us : List RegUse) : (t.dropFutures us).reinstate = t.reinstate := rfl
@[simp] theorem Team.dropFutures_saving (t : Team) (us : List RegUse) : (t.dropFutures us).saving = t.saving := rfl
@[simp] theorem Team.dropFutures_saveIdx (t : Team) (us : List RegUse) : (t.dropFutures us).saveIdx = t.saveIdx := rfl
@[simp] theorem Team.dropFutures_gone (t : Team) (us : List RegUse) : (t.dropFutures us).gone = t.gone := rfl
@[simp] theorem Team.dropFutures_ended (t : Team) (us : List RegUse) : (t.dropFutures us).ended = t.ended := rfl
@[simp] theorem Team.dropFutures_edits (t : Team) (us : List RegUse) : (t.dropFutures us).edits = t.edits := rfl
@[simp] theorem Team.dropFutures_haltWanted (t : Team) (us : List RegUse) : (t.dropFutures us).haltWanted = t.haltWanted := rfl
@[simp] theorem Team.raise_ctx (t : Team) (f : BitVec 5) : (t.raise f).ctx = t.ctx := rfl
@[simp] theorem Team.raise_gang (t : Team) (f : BitVec 5) : (t.raise f).gang = t.gang := rfl
@[simp] theorem Team.raise_crew (t : Team) (f : BitVec 5) : (t.raise f).crew = t.crew := rfl
@[simp] theorem Team.raise_role (t : Team) (f : BitVec 5) : (t.raise f).role = t.role := rfl
@[simp] theorem Team.raise_idx (t : Team) (f : BitVec 5) : (t.raise f).idx = t.idx := rfl
@[simp] theorem Team.raise_roleTeams (t : Team) (f : BitVec 5) : (t.raise f).roleTeams = t.roleTeams := rfl
@[simp] theorem Team.raise_lanes (t : Team) (f : BitVec 5) : (t.raise f).lanes = t.lanes := rfl
@[simp] theorem Team.raise_isCtl (t : Team) (f : BitVec 5) : (t.raise f).isCtl = t.isCtl := rfl
@[simp] theorem Team.raise_cluster (t : Team) (f : BitVec 5) : (t.raise f).cluster = t.cluster := rfl
@[simp] theorem Team.raise_core (t : Team) (f : BitVec 5) : (t.raise f).core = t.core := rfl
@[simp] theorem Team.raise_datapath (t : Team) (f : BitVec 5) : (t.raise f).datapath = t.datapath := rfl
@[simp] theorem Team.raise_rindex (t : Team) (f : BitVec 5) : (t.raise f).rindex = t.rindex := rfl
@[simp] theorem Team.raise_gangReg (t : Team) (f : BitVec 5) : (t.raise f).gangReg = t.gangReg := rfl
@[simp] theorem Team.raise_gridReg (t : Team) (f : BitVec 5) : (t.raise f).gridReg = t.gridReg := rfl
@[simp] theorem Team.raise_ident (t : Team) (f : BitVec 5) : (t.raise f).ident = t.ident := rfl
@[simp] theorem Team.raise_prio (t : Team) (f : BitVec 5) : (t.raise f).prio = t.prio := rfl
@[simp] theorem Team.raise_kernel (t : Team) (f : BitVec 5) : (t.raise f).kernel = t.kernel := rfl
@[simp] theorem Team.raise_vregs (t : Team) (f : BitVec 5) : (t.raise f).vregs = t.vregs := rfl
@[simp] theorem Team.raise_sregs (t : Team) (f : BitVec 5) : (t.raise f).sregs = t.sregs := rfl
@[simp] theorem Team.raise_saveBase (t : Team) (f : BitVec 5) : (t.raise f).saveBase = t.saveBase := rfl
@[simp] theorem Team.raise_taskSlot (t : Team) (f : BitVec 5) : (t.raise f).taskSlot = t.taskSlot := rfl
@[simp] theorem Team.raise_taskFutures (t : Team) (f : BitVec 5) : (t.raise f).taskFutures = t.taskFutures := rfl
@[simp] theorem Team.raise_v (t : Team) (f : BitVec 5) : (t.raise f).v = t.v := rfl
@[simp] theorem Team.raise_s (t : Team) (f : BitVec 5) : (t.raise f).s = t.s := rfl
@[simp] theorem Team.raise_p (t : Team) (f : BitVec 5) : (t.raise f).p = t.p := rfl
@[simp] theorem Team.raise_ex (t : Team) (f : BitVec 5) : (t.raise f).ex = t.ex := rfl
@[simp] theorem Team.raise_live (t : Team) (f : BitVec 5) : (t.raise f).live = t.live := rfl
@[simp] theorem Team.raise_pc (t : Team) (f : BitVec 5) : (t.raise f).pc = t.pc := rfl
@[simp] theorem Team.raise_bundle (t : Team) (f : BitVec 5) : (t.raise f).bundle = t.bundle := rfl
@[simp] theorem Team.raise_slots (t : Team) (f : BitVec 5) : (t.raise f).slots = t.slots := rfl
@[simp] theorem Team.raise_levels (t : Team) (f : BitVec 5) : (t.raise f).levels = t.levels := rfl
@[simp] theorem Team.raise_level (t : Team) (f : BitVec 5) : (t.raise f).level = t.level := rfl
@[simp] theorem Team.raise_blk (t : Team) (f : BitVec 5) : (t.raise f).blk = t.blk := rfl
@[simp] theorem Team.raise_done (t : Team) (f : BitVec 5) : (t.raise f).done = t.done := rfl
@[simp] theorem Team.raise_mark (t : Team) (f : BitVec 5) : (t.raise f).mark = t.mark := rfl
@[simp] theorem Team.raise_kept (t : Team) (f : BitVec 5) : (t.raise f).kept = t.kept := rfl
@[simp] theorem Team.raise_yielded (t : Team) (f : BitVec 5) : (t.raise f).yielded = t.yielded := rfl
@[simp] theorem Team.raise_noPath (t : Team) (f : BitVec 5) : (t.raise f).noPath = t.noPath := rfl
@[simp] theorem Team.raise_openCount (t : Team) (f : BitVec 5) : (t.raise f).openCount = t.openCount := rfl
@[simp] theorem Team.raise_nextTag (t : Team) (f : BitVec 5) : (t.raise f).nextTag = t.nextTag := rfl
@[simp] theorem Team.raise_tags (t : Team) (f : BitVec 5) : (t.raise f).tags = t.tags := rfl
@[simp] theorem Team.raise_copies (t : Team) (f : BitVec 5) : (t.raise f).copies = t.copies := rfl
@[simp] theorem Team.raise_fmode (t : Team) (f : BitVec 5) : (t.raise f).fmode = t.fmode := rfl
@[simp] theorem Team.raise_depth (t : Team) (f : BitVec 5) : (t.raise f).depth = t.depth := rfl
@[simp] theorem Team.raise_check (t : Team) (f : BitVec 5) : (t.raise f).check = t.check := rfl
@[simp] theorem Team.raise_clockh (t : Team) (f : BitVec 5) : (t.raise f).clockh = t.clockh := rfl
@[simp] theorem Team.raise_tpc (t : Team) (f : BitVec 5) : (t.raise f).tpc = t.tpc := rfl
@[simp] theorem Team.raise_tcause (t : Team) (f : BitVec 5) : (t.raise f).tcause = t.tcause := rfl
@[simp] theorem Team.raise_tex (t : Team) (f : BitVec 5) : (t.raise f).tex = t.tex := rfl
@[simp] theorem Team.raise_taddr (t : Team) (f : BitVec 5) : (t.raise f).taddr = t.taddr := rfl
@[simp] theorem Team.raise_tlevel (t : Team) (f : BitVec 5) : (t.raise f).tlevel = t.tlevel := rfl
@[simp] theorem Team.raise_pends (t : Team) (f : BitVec 5) : (t.raise f).pends = t.pends := rfl
@[simp] theorem Team.raise_inflight (t : Team) (f : BitVec 5) : (t.raise f).inflight = t.inflight := rfl
@[simp] theorem Team.raise_earliest (t : Team) (f : BitVec 5) : (t.raise f).earliest = t.earliest := rfl
@[simp] theorem Team.raise_lastSetU (t : Team) (f : BitVec 5) : (t.raise f).lastSetU = t.lastSetU := rfl
@[simp] theorem Team.raise_zeroStall (t : Team) (f : BitVec 5) : (t.raise f).zeroStall = t.zeroStall := rfl
@[simp] theorem Team.raise_placed (t : Team) (f : BitVec 5) : (t.raise f).placed = t.placed := rfl
@[simp] theorem Team.raise_lastIssue (t : Team) (f : BitVec 5) : (t.raise f).lastIssue = t.lastIssue := rfl
@[simp] theorem Team.raise_yieldUntil (t : Team) (f : BitVec 5) : (t.raise f).yieldUntil = t.yieldUntil := rfl
@[simp] theorem Team.raise_enters (t : Team) (f : BitVec 5) : (t.raise f).enters = t.enters := rfl
@[simp] theorem Team.raise_sectTraps (t : Team) (f : BitVec 5) : (t.raise f).sectTraps = t.sectTraps := rfl
@[simp] theorem Team.raise_halt (t : Team) (f : BitVec 5) : (t.raise f).halt = t.halt := rfl
@[simp] theorem Team.raise_haltFrom (t : Team) (f : BitVec 5) : (t.raise f).haltFrom = t.haltFrom := rfl
@[simp] theorem Team.raise_haltClk (t : Team) (f : BitVec 5) : (t.raise f).haltClk = t.haltClk := rfl
@[simp] theorem Team.raise_faultSeq (t : Team) (f : BitVec 5) : (t.raise f).faultSeq = t.faultSeq := rfl
@[simp] theorem Team.raise_bpSkip (t : Team) (f : BitVec 5) : (t.raise f).bpSkip = t.bpSkip := rfl
@[simp] theorem Team.raise_stepState (t : Team) (f : BitVec 5) : (t.raise f).stepState = t.stepState := rfl
@[simp] theorem Team.raise_watchHit (t : Team) (f : BitVec 5) : (t.raise f).watchHit = t.watchHit := rfl
@[simp] theorem Team.raise_spReq (t : Team) (f : BitVec 5) : (t.raise f).spReq = t.spReq := rfl
@[simp] theorem Team.raise_spSkip (t : Team) (f : BitVec 5) : (t.raise f).spSkip = t.spSkip := rfl
@[simp] theorem Team.raise_reinstate (t : Team) (f : BitVec 5) : (t.raise f).reinstate = t.reinstate := rfl
@[simp] theorem Team.raise_saving (t : Team) (f : BitVec 5) : (t.raise f).saving = t.saving := rfl
@[simp] theorem Team.raise_saveIdx (t : Team) (f : BitVec 5) : (t.raise f).saveIdx = t.saveIdx := rfl
@[simp] theorem Team.raise_gone (t : Team) (f : BitVec 5) : (t.raise f).gone = t.gone := rfl
@[simp] theorem Team.raise_ended (t : Team) (f : BitVec 5) : (t.raise f).ended = t.ended := rfl
@[simp] theorem Team.raise_edits (t : Team) (f : BitVec 5) : (t.raise f).edits = t.edits := rfl
@[simp] theorem Team.raise_haltWanted (t : Team) (f : BitVec 5) : (t.raise f).haltWanted = t.haltWanted := rfl

end Sys2Proof.Machine
end

