-- ==== Sys2Proof/Laws/Trace.lean ====
section
/-! SUPPORT. What a trace record, a trigger pulse and a halt leave as they are. -/

namespace Sys2Proof.Machine

/-- What tracing never touches: the teams, the gangs and the machine's place in its run. -/
structure TraceKept (s s' : State) : Prop where
  teams : s'.teams = s.teams
  gangs : s'.gangs = s.gangs
  cur : s'.cur = s.cur
  clk : s'.clk = s.clk
  serial : s'.serial = s.serial
  memory : Untraced s → s'.bare = s.bare
  untraced : Untraced s → Untraced s'
  contexts : ∀ c, (s'.contexts.find c).map Context.still = (s.contexts.find c).map Context.still
  rest : s'.still = s.still

theorem TraceKept.refl (s : State) : TraceKept s s := ⟨rfl, rfl, rfl, rfl, rfl, fun _ => rfl, id, fun _ => rfl, rfl⟩
theorem TraceKept.trans {a b c : State} (h : TraceKept a b) (k : TraceKept b c) : TraceKept a c :=
  ⟨k.teams.trans h.teams, k.gangs.trans h.gangs, k.cur.trans h.cur, k.clk.trans h.clk, k.serial.trans h.serial,
    fun u => (k.memory (h.untraced u)).trans (h.memory u), fun u => k.untraced (h.untraced u),
    fun c => (k.contexts c).trans (h.contexts c), k.rest.trans h.rest⟩

/-- A context register other than the debug right leaves the right to trace as it is. -/
theorem mayTrace_of_contexts {s s' : State} (h : ∀ c, s'.winReg c (dbg 0) = s.winReg c (dbg 0)) (u : Untraced s) : Untraced s' := by
  intro c; unfold State.mayTrace; rw [h]; exact u c

theorem foldl_kept {β : Type} (R : State → State → Prop) (refl : ∀ s, R s s) (trans : ∀ {a b c}, R a b → R b c → R a c)
    (f : State → β → State) (h : ∀ s x, R s (f s x)) (xs : List β) (s : State) : R s (xs.foldl f s) := by
  induction xs generalizing s with
  | nil => exact refl s
  | cons x xs ih => exact trans (h s x) (ih (f s x))

/-- What a device write leaves: everything but memory with its poison, its frames, the lines of the L2, the translations, and the window
register of an injection that it meets. -/
structure DevKept (s s' : State) : Prop where
  teams : s'.teams = s.teams
  gangs : s'.gangs = s.gangs
  cur : s'.cur = s.cur
  clk : s'.clk = s.clk
  serial : s'.serial = s.serial
  right : ∀ c, s'.winReg c (dbg 0) = s.winReg c (dbg 0)
  contexts : ∀ c, (s'.contexts.find c).map Context.still = (s.contexts.find c).map Context.still
  rest : s'.still = s.still

theorem winReg_updContext (s : State) (ctx : Nat) (f : Context → Context) (c off : Nat)
    (h : ∀ x : Context, SMap.get 0 (f x).regs off = SMap.get 0 x.regs off) :
    (s.updContext ctx f).winReg c off = s.winReg c off := by
  unfold State.updContext
  split
  · rename_i x hx
    unfold State.winReg
    by_cases hc : c = ctx
    · subst hc
      simp only [SMap.find_insert_same, hx, h]
    · simp only [SMap.find_insert_ne _ _ hc]
  · rfl

theorem contexts_updContext (s : State) (ctx : Nat) (f : Context → Context) (h : ∀ x : Context, (f x).still = x.still) (c : Nat) :
    ((s.updContext ctx f).contexts.find c).map Context.still = (s.contexts.find c).map Context.still := by
  unfold State.updContext
  split
  · rename_i x hx
    by_cases hc : c = ctx
    · subst hc
      simp only [SMap.find_insert_same, hx, Option.map_some, h]
    · simp only [SMap.find_insert_ne _ _ hc]
  · rfl

theorem still_updContext (s : State) (ctx : Nat) (f : Context → Context) : (s.updContext ctx f).still = s.still := by
  unfold State.updContext; split <;> rfl

theorem contexts_setReg (s : State) (ctx off : Nat) (v : DWord) (c : Nat) :
    ((s.setReg ctx off v).contexts.find c).map Context.still = (s.contexts.find c).map Context.still := by
  unfold State.setReg; refine contexts_updContext s ctx _ ?_ c; intro x; rfl
theorem still_setReg (s : State) (ctx off : Nat) (v : DWord) : (s.setReg ctx off v).still = s.still := still_updContext s ctx _

theorem winReg_setReg_ne (s : State) (ctx off : Nat) (v : DWord) (c o : Nat) (h : o ≠ off) :
    (s.setReg ctx off v).winReg c o = s.winReg c o :=
  winReg_updContext s ctx _ c o fun x => by simp [SMap.get_set, h]

theorem DevKept.refl (s : State) : DevKept s s := ⟨rfl, rfl, rfl, rfl, rfl, fun _ => rfl, fun _ => rfl, rfl⟩
theorem DevKept.trans {a b c : State} (h : DevKept a b) (k : DevKept b c) : DevKept a c :=
  ⟨k.1.trans h.1, k.2.trans h.2, k.3.trans h.3, k.4.trans h.4, k.5.trans h.5, fun x => (k.6 x).trans (h.6 x),
    fun x => (k.7 x).trans (h.7 x), k.8.trans h.8⟩

/-- An operation that leaves the teams, the gangs, the contexts and the rest as they are is none of a device write's. -/
theorem DevKept.of_contexts {s s' : State} (ht : s'.teams = s.teams) (hg : s'.gangs = s.gangs) (hu : s'.cur = s.cur) (hk : s'.clk = s.clk)
    (hn : s'.serial = s.serial) (hc : s'.contexts = s.contexts) (hr : s'.still = s.still) : DevKept s s' :=
  ⟨ht, hg, hu, hk, hn, fun c => by unfold State.winReg; rw [hc], fun c => by rw [hc], hr⟩

theorem claim_kept (s : State) (pa : Nat) (x : Translation) : DevKept s (s.claim pa x) := by
  unfold State.claim; split <;> exact .of_contexts rfl rfl rfl rfl rfl rfl rfl
theorem fill_kept (s : State) (x : Translation) : DevKept s (s.fill x) := by
  unfold State.fill; dsimp only; repeat (first | exact .of_contexts rfl rfl rfl rfl rfl rfl rfl | split)
theorem letIn_kept (s : State) (ctx pa : Nat) (x : Translation) : DevKept s (s.letIn ctx pa x) :=
  ((claim_kept s pa x).trans (fill_kept _ _)).trans (fill_kept _ _)
theorem touchLine_kept (s : State) (ctx : Option Nat) (pa : Nat) (own : Option (Option Nat)) : DevKept s (s.touchLine ctx pa own) := by
  unfold State.touchLine; dsimp only; repeat (first | exact .of_contexts rfl rfl rfl rfl rfl rfl rfl | split)
theorem writeBytes_kept (s : State) (pa : Nat) (bs : List Byte) (own : Option Nat) : DevKept s (s.writeBytes pa bs own) :=
  (foldl_kept DevKept .refl .trans _ (fun s a => touchLine_kept s own a (some own)) _ s).trans
    (.of_contexts rfl rfl rfl rfl rfl rfl rfl)
theorem injected_kept (s : State) (ctx va pa n : Nat) : DevKept s (s.injected ctx va pa n) := by
  unfold State.injected
  dsimp only
  split
  · refine ⟨by simp, by simp, by simp, by simp, by simp, fun c => ?_, fun c => contexts_setReg s ctx _ _ c, ?_⟩
    · exact winReg_setReg_ne s ctx 0xD8 _ c (dbg 0) (by decide)
    · exact still_setReg s ctx 0xD8 _
  · exact .refl s
theorem storeBytes_kept (s : State) (ctx va pa : Nat) (bs : List Byte) : DevKept s (s.storeBytes ctx va pa bs) :=
  (writeBytes_kept s pa bs _).trans (injected_kept _ _ _ _ _)

theorem devWrite_kept (s : State) (ctx va : Nat) (bs : List Byte) : DevKept s (s.devWrite ctx va bs) := by
  unfold State.devWrite State.writeVia
  refine foldl_kept DevKept .refl .trans _ (fun s x => ?_) _ s
  split
  · exact (letIn_kept s ctx _ _).trans (storeBytes_kept _ _ _ _ _)
  · exact .refl s

/-- A ring record is produced only for a context that may trace; it leaves the teams and gangs, and the right. -/
theorem ringRecord_kept (s : State) (ctx buf ptr : Nat) (bs : List Byte) (hp : ptr ≠ dbg 0) :
    let s' := s.ringRecord ctx buf ptr bs
    s'.teams = s.teams ∧ s'.gangs = s.gangs ∧ s'.cur = s.cur ∧ s'.clk = s.clk ∧ s'.serial = s.serial ∧
      (∀ c, s'.winReg c (dbg 0) = s.winReg c (dbg 0)) ∧
      (∀ c, (s'.contexts.find c).map Context.still = (s.contexts.find c).map Context.still) ∧ s'.still = s.still := by
  unfold State.ringRecord
  dsimp only
  have hw := devWrite_kept s ctx (4096 * ((s.winReg ctx buf).extractLsb' 12 40).toNat +
    32 * ((s.winReg ctx ptr).toNat % (2 ^ ((s.winReg ctx buf).extractLsb' 0 5).toNat / 32))) bs
  split
  · refine ⟨?_, ?_, ?_, ?_, ?_, ?_, ?_, ?_⟩
    · simp only [State.setReg_teams]; split; exacts [hw.teams, rfl]
    · simp only [State.setReg_gangs]; split; exacts [hw.gangs, rfl]
    · simp only [State.setReg_cur]; split; exacts [hw.cur, rfl]
    · simp only [State.setReg_clk]; split; exacts [hw.clk, rfl]
    · simp only [State.setReg_serial]; split; exacts [hw.serial, rfl]
    · intro c
      rw [winReg_setReg_ne _ _ _ _ _ _ hp.symm]
      split; exacts [hw.right _, rfl]
    · intro c
      rw [contexts_setReg]
      split; exacts [hw.contexts c, rfl]
    · rw [still_setReg]
      split; exacts [hw.rest, rfl]
  · exact ⟨rfl, rfl, rfl, rfl, rfl, fun _ => rfl, fun _ => rfl, rfl⟩

theorem ringRecord_traceKept (s : State) (ctx buf ptr : Nat) (bs : List Byte) (hp : ptr ≠ dbg 0) (hm : s.mayTrace ctx = true) :
    TraceKept s (s.ringRecord ctx buf ptr bs) := by
  obtain ⟨h1, h2, h3, h4, h5, h6, h7, h8⟩ := ringRecord_kept s ctx buf ptr bs hp
  exact ⟨h1, h2, h3, h4, h5, fun u => absurd (u ctx) (by simp [hm]), mayTrace_of_contexts h6, h7, h8⟩

theorem marker_kept (s : State) (ctx l : Nat) : TraceKept s (s.marker ctx l).1 := by
  unfold State.marker
  split
  · rename_i h
    have hm : s.mayTrace ctx = true := by simp only [State.traces, Bool.and_eq_true] at h; exact h.1.1.1
    exact ringRecord_traceKept s ctx _ _ _ (by decide) hm
  · exact TraceKept.refl s

theorem foldl_first_kept {β γ : Type} (f : State × γ → β → State × γ) (h : ∀ x y, TraceKept x.1 (f x y).1) (ys : List β) (x : State × γ) :
    TraceKept x.1 (ys.foldl f x).1 := by
  induction ys generalizing x with
  | nil => exact TraceKept.refl _
  | cons y ys ih => exact (h x y).trans (ih (f x y))

theorem markers_kept (s : State) (ctx : Nat) (ls : DWord) : TraceKept s (s.markers ctx ls).1 :=
  foldl_first_kept (fun (x : State × DWord) l => let y := x.1.marker ctx l; (y.1, x.2 ||| y.2)) (fun x l => marker_kept x.1 ctx l) _ (s, 0)

theorem find_map_snd {α : Type} (m : SMap α) (f : α → α) (k : Nat) :
    SMap.find (m.map fun p => (p.1, f p.2)) k = (SMap.find m k).map f := by
  induction m with
  | nil => rfl
  | cons p m ih => obtain ⟨k', v⟩ := p; simp only [List.map_cons, SMap.find]; split <;> simp [ih]

theorem capture_right (c : Context) (ls now : DWord) : SMap.get 0 (c.capture ls now).regs (dbg 0) = SMap.get 0 c.regs (dbg 0) := by
  have hne : ¬ (dbg 0 = dbg 0x38) := by decide
  simp only [Context.capture, SMap.get_set, hne, if_false]

theorem captures_kept (s : State) (ls : DWord) : TraceKept s (s.captures ls) := by
  unfold State.captures
  generalize linesWhere (BitVec.allOnes 64) (fun l => s.pulsed.find l == some s.clk) = now
  have key (c : Nat) : SMap.find (s.contexts.map fun (p : Nat × Context) => (p.1, p.2.capture ls now)) c =
      (SMap.find s.contexts c).map (·.capture ls now) := find_map_snd s.contexts (fun x => x.capture ls now) c
  refine ⟨rfl, rfl, rfl, rfl, rfl, fun _ => rfl, mayTrace_of_contexts fun c => ?_, fun c => ?_, rfl⟩
  · unfold State.winReg
    dsimp only
    rw [key]
    cases hc : SMap.find s.contexts c with
    | none => rfl
    | some x => exact capture_right x ls now
  · dsimp only
    rw [key]
    cases SMap.find s.contexts c <;> rfl

theorem markPulsed_kept (s : State) (ls : DWord) : TraceKept s (s.markPulsed ls) :=
  ⟨rfl, rfl, rfl, rfl, rfl, fun _ => rfl, id, fun _ => rfl, rfl⟩

/-- All that pulses on trigger lines can change: the record of the lines, the captures of the contexts, the trace rings. -/
theorem pulses_kept (n : Nat) (s : State) (ls : DWord) : TraceKept s (State.pulses n s ls) := by
  induction n generalizing s ls with
  | zero => exact TraceKept.refl s
  | succ n ih =>
    unfold State.pulses
    split
    · exact TraceKept.refl s
    · dsimp only
      generalize linesWhere ls s.lineRests = fresh
      refine ((markPulsed_kept s ls).trans (captures_kept _ fresh)).trans (TraceKept.trans ?_ (ih _ _))
      exact foldl_first_kept (fun (x : State × DWord) (p : Nat × Context) => let y := x.1.markers p.1 fresh; (y.1, x.2 ||| y.2))
        (fun x p => markers_kept x.1 p.1 fresh) _ (_, 0)
theorem pulse_kept (s : State) (ls : DWord) : TraceKept s (s.pulse ls) := pulses_kept 65 s ls

theorem trigger_kept (s : State) (ctx src arg : Nat) : TraceKept s (s.trigger ctx src arg) := pulse_kept s _

theorem traceAt_kept (s : State) (time : Nat) (t : Team) (pc : Word) (code detail : Nat) : TraceKept s (s.traceAt time t pc code detail) := by
  unfold State.traceAt
  refine TraceKept.trans ?_ (trigger_kept _ _ _ _)
  dsimp only
  split
  · rename_i h
    have hm : s.mayTrace t.ctx = true := by simp only [State.traces, Bool.and_eq_true] at h; exact h.1.1.1
    split
    · exact (ringRecord_traceKept s _ _ _ _ (by decide) hm).trans (trigger_kept _ _ _ _)
    · exact ringRecord_traceKept s _ _ _ _ (by decide) hm
  · exact TraceKept.refl s
theorem trace_kept (s : State) (t : Team) (pc : Word) (code detail : Nat) : TraceKept s (s.trace t pc code detail) := traceAt_kept s s.clk t pc code detail

end Sys2Proof.Machine
end

