-- ==== Sys2Proof/Laws/Memory.lean ====
section
/-! SUPPORT. Laws of memory: every operation keeps the canonical form, and a read gives what was written last at its address. -/

namespace Sys2Proof.Machine

/-- Reset memory is in canonical form. -/
theorem Memory.wf_reset : Memory.wf State.reset.mem = true := rfl
/-- A byte written keeps the canonical form. -/
theorem Memory.wf_write {m : SMap Byte} (a : Nat) (b : Byte) (h : Memory.wf m = true) : Memory.wf (Memory.write m a b) = true :=
  SMap.wf_set a b h
/-- Bytes written keep the canonical form. -/
theorem Memory.wf_writes (bs : List Byte) : ∀ {m : SMap Byte} (a : Nat), Memory.wf m = true → Memory.wf (Memory.writes m a bs) = true := by
  induction bs with
  | nil => intro m a h; exact h
  | cons b bs ih => intro m a h; exact ih (a + 1) (Memory.wf_write a b h)
/-- Bytes left out, as a scrub does, keep the canonical form. -/
theorem Memory.wf_filter {m : SMap Byte} (f : Nat × Byte → Bool) (h : Memory.wf m = true) : Memory.wf (m.filter f) = true :=
  SMap.wf_filter f h

/-- What a byte reads as after one byte is written. -/
@[simp] theorem Memory.read_write (m : SMap Byte) (a j : Nat) (b : Byte) :
    Memory.read (Memory.write m a b) j = if j = a then b else Memory.read m j := SMap.get_set _ m a j b
/-- What a byte reads as after bytes are written from an address up. -/
theorem Memory.read_writes (bs : List Byte) : ∀ (m : SMap Byte) (a j : Nat), Memory.read (Memory.writes m a bs) j =
    if a ≤ j ∧ j < a + bs.length then bs.getD (j - a) 0 else Memory.read m j := by
  induction bs with
  | nil => intro m a j; simp [Memory.writes]
  | cons b bs ih =>
    intro m a j
    simp only [Memory.writes, ih, Memory.read_write, List.length_cons]
    by_cases h : j = a
    · subst h; simp
    · by_cases h1 : a + 1 ≤ j ∧ j < a + 1 + bs.length
      · rw [if_pos h1, if_pos (by omega), show j - a = (j - (a + 1)) + 1 by omega]; simp
      · rw [if_neg h1, if_neg h, if_neg (by omega)]
/-- Bytes beside those written read as before. -/
theorem Memory.read_writes_outside {m : SMap Byte} {a j : Nat} {bs : List Byte} (h : j < a ∨ a + bs.length ≤ j) :
    Memory.read (Memory.writes m a bs) j = Memory.read m j := by
  rw [Memory.read_writes, if_neg (by omega)]

/-- The one operation that writes bytes of the package's memory keeps the canonical form. -/
theorem State.wf_writeBytes {s : State} (pa : Nat) (bs : List Byte) (own : Option Nat) (h : Memory.wf s.mem = true) :
    Memory.wf (s.writeBytes pa bs own).mem = true := by
  rw [State.writeBytes_mem]; exact Memory.wf_writes bs pa h
/-- So does a write that an armed injection may meet. -/
theorem State.wf_storeBytes {s : State} (ctx va pa : Nat) (bs : List Byte) (h : Memory.wf s.mem = true) :
    Memory.wf (s.storeBytes ctx va pa bs).mem = true := by
  rw [State.storeBytes_mem]; exact Memory.wf_writes bs pa h
/-- The scrub of a domain keeps the canonical form. -/
theorem State.wf_dropDomain {s : State} (k : Nat) (d : Domain) (h : Memory.wf s.mem = true) :
    Memory.wf (s.dropDomain k d).mem = true := Memory.wf_filter _ h
/-- The scrub of a partition keeps the canonical form. -/
theorem State.wf_dropPartition {s : State} (k : Nat) (p : Partition) (h : Memory.wf s.mem = true) :
    Memory.wf (s.dropPartition k p).mem = true := by
  unfold State.dropPartition
  refine Memory.wf_filter _ ?_
  refine foldl_kept (fun a b : State => Memory.wf a.mem = true → Memory.wf b.mem = true) (fun _ h => h) (fun h k w => k (h w)) _
    (fun s x w => ?_) _ s h
  split
  · exact State.wf_dropDomain _ _ w
  · exact w
/-- A store of an engine or of the device keeps the canonical form. -/
theorem State.wf_devWrite {s : State} (ctx va : Nat) (bs : List Byte) (h : Memory.wf s.mem = true) :
    Memory.wf (s.devWrite ctx va bs).mem = true := by
  unfold State.devWrite State.writeVia
  refine foldl_kept (fun a b : State => Memory.wf a.mem = true → Memory.wf b.mem = true) (fun _ h => h) (fun h k w => k (h w)) _
    (fun s x w => ?_) _ s h
  split
  · exact State.wf_storeBytes _ _ _ _ (by rw [State.letIn_mem]; exact w)
  · exact w

end Sys2Proof.Machine
end

