-- ==== Sys2Proof/Laws/Regs.lean ====
section
/-! SUPPORT. Laws of a team's registers: what each register holds after a write, after a list of values has arrived, and which new
values the lists of the lane and uniform results carry. -/

namespace Sys2Proof.Machine

theorem Team.V_setV (t : Team) (l n k m : Nat) (x : Word) (hl : l < 1024) (hk : k < 1024) :
    (t.setV l n x).V k m = if k = l ∧ m = n then x else t.V k m := by
  unfold Team.setV Team.V
  rw [SMap.get_set]
  by_cases h : k = l ∧ m = n
  · obtain ⟨rfl, rfl⟩ := h; simp
  · have h' : ¬ (1024 * m + k = 1024 * n + l) := by omega
    simp [h, h']

theorem Team.S_setS (t : Team) (n m : Nat) (x : Word) : (t.setS n x).S m = if m = n then x else t.S m := by
  unfold Team.setS Team.S; rw [SMap.get_set]
theorem Team.P_setP (t : Team) (n m : Nat) (x : Mask) : (t.setP n x).P m = if m = n then x else t.P m := by
  unfold Team.setP Team.P; rw [SMap.get_set]

theorem getLsbD_one_shift (l k : Nat) (hl : l < 1024) : ((1#1024) <<< l).getLsbD k = decide (k = l) := by
  simp only [BitVec.getLsbD_shiftLeft, BitVec.getLsbD_one]
  by_cases h : k = l
  · subst h; simp [hl]
  · by_cases h2 : k < l
    · simp [h2, h]
    · have : k - l ≠ 0 := by omega
      simp [h, this]

theorem getLsbD_putLane (m : Mask) (l k : Nat) (b : Bool) (hl : l < 1024) (hk : k < 1024) :
    (putLane m l b).getLsbD k = if k = l then b else m.getLsbD k := by
  unfold putLane
  cases b
  · simp only [Bool.false_eq_true, if_false, BitVec.getLsbD_and, BitVec.getLsbD_not, getLsbD_one_shift _ _ hl, hk, decide_true,
      Bool.true_and]
    by_cases h : k = l <;> simp [h]
  · simp only [if_true, BitVec.getLsbD_or, getLsbD_one_shift _ _ hl]
    by_cases h : k = l <;> simp [h]

/-- A register after one value has arrived. -/
theorem Team.reg_put (t : Team) (w : RegWrite) (file : RFile) (n l : Nat) (hw : w.lane < 1024) (hl : l < 1024) :
    (t.put w).reg file n l =
      if file = w.file ∧ n = w.n ∧ (file = .s ∨ l = w.lane) then (match file with | .p => if w.val != 0 then 1 else 0 | _ => w.val)
      else t.reg file n l := by
  obtain ⟨wf, wn, wl, wv⟩ := w
  cases wf <;> cases file <;> simp only [Team.put, Team.reg, reduceCtorEq, false_and, if_false, true_and, false_or, true_or, and_true]
  · rw [Team.V_setV _ _ _ _ _ _ hw hl]; simp only [and_comm]
  · rfl
  · rfl
  · rfl
  · rw [Team.S_setS]
  · rfl
  · rfl
  · rfl
  · have e : ((t.setP wn (putLane (t.P wn) wl (wv != 0))).P n).getLsbD l =
        if n = wn ∧ l = wl then wv != 0 else (t.P n).getLsbD l := by
      rw [Team.P_setP]
      by_cases h : n = wn
      · subst h
        rw [if_pos rfl, getLsbD_putLane _ _ _ _ hw hl]
        simp only [true_and]
      · simp only [h, if_false, false_and]
    simp only [e]
    by_cases h : n = wn ∧ l = wl <;> simp only [h, if_true, if_false, and_self]

theorem RegsAfter.refl (t : Team) : RegsAfter t t newNothing := fun _ _ _ _ => rfl

theorem Carries.nil : Carries [] newNothing := fun t => RegsAfter.refl t

/-- Values for different registers and lanes: each register holds the value whose write names it. -/
theorem reg_puts_of_not_mem (ws : List RegWrite) (file : RFile) (n l : Nat) (hl : l < 1024)
    (hw : ∀ w ∈ ws, w.lane < 1024) (h : ∀ w ∈ ws, ¬ (file = w.file ∧ n = w.n ∧ (file = .s ∨ l = w.lane))) (t : Team) :
    (t.puts ws).reg file n l = t.reg file n l := by
  unfold Team.puts
  induction ws generalizing t with
  | nil => rfl
  | cons w ws ih =>
    simp only [List.foldl_cons]
    rw [ih (fun x hx => hw x (List.mem_cons_of_mem _ hx)) (fun x hx => h x (List.mem_cons_of_mem _ hx)),
      Team.reg_put t w file n l (hw w List.mem_cons_self) hl, if_neg (h w List.mem_cons_self)]

theorem Team.puts_append (t : Team) (a b : List RegWrite) : t.puts (a ++ b) = (t.puts a).puts b := List.foldl_append

theorem mem_actives {t : Team} {l : Nat} : l ∈ t.actives ↔ l < t.lanes ∧ t.ex.getLsbD l = true := by
  simp [Team.actives, Team.lanesOf, List.mem_filter, List.mem_range]
theorem actives_lt {t : Team} {l : Nat} (h : l ∈ t.actives) : l < 1024 := by
  have := (mem_actives.mp h).2
  by_contra hl
  rw [BitVec.getLsbD_of_ge _ _ (by omega)] at this
  simp at this
theorem actives_nodup (t : Team) : t.actives.Nodup := List.Nodup.filter _ List.nodup_range

/-- The lists of lane results: lane by lane. -/
theorem reg_puts_map (ls : List Nat) (file : RFile) (d : Nat) (f : Nat → Word) (hl : ∀ l ∈ ls, l < 1024) (hf : file ≠ .s)
    (hp : file = .p → ∀ l, f l = 0 ∨ f l = 1) (t : Team) (g : RFile) (n k : Nat) (hk : k < 1024) :
    (t.puts (ls.map fun l => ⟨file, d, l, f l⟩)).reg g n k = if g = file ∧ n = d ∧ k ∈ ls then f k else t.reg g n k := by
  induction ls generalizing t with
  | nil => simp [Team.puts]
  | cons a ls ih =>
    have ha : a < 1024 := hl a List.mem_cons_self
    rw [List.map_cons, show ∀ (x : RegWrite) xs, t.puts (x :: xs) = (t.put x).puts xs from fun _ _ => rfl,
      ih (fun l h => hl l (List.mem_cons_of_mem _ h)) (t.put ⟨file, d, a, f a⟩), Team.reg_put t _ g n k ha hk]
    by_cases h1 : g = file ∧ n = d
    · obtain ⟨rfl, rfl⟩ := h1
      by_cases h2 : k ∈ ls
      · simp [h2]
      · by_cases h3 : k = a
        · subst h3
          simp only [h2, and_false, if_false, true_and, or_true, if_true, List.mem_cons, true_or]
          cases g with
          | v => rfl
          | s => exact absurd rfl hf
          | p => rcases hp rfl k with h | h <;> simp [h]
        · have h4 : k ∉ a :: ls := by simp [h2, h3]
          simp [h2, h3, hf]
    · have e1 : ¬ (g = file ∧ n = d ∧ k ∈ ls) := fun h => h1 ⟨h.1, h.2.1⟩
      have e2 : ¬ (g = file ∧ n = d ∧ (g = RFile.s ∨ k = a)) := fun h => h1 ⟨h.1, h.2.1⟩
      have e3 : ¬ (g = file ∧ n = d ∧ k ∈ a :: ls) := fun h => h1 ⟨h.1, h.2.1⟩
      simp only [e1, e2, e3, if_false]

theorem carries_laneWrites (r : Team) (d : RegNo) (f : Nat → Word) : Carries (laneWrites r.actives d f) (newLanes r d f) := by
  intro t file n l hl
  rw [laneWrites, reg_puts_map _ _ _ f (fun _ h => actives_lt h) (by decide) (by simp) t file n l hl]
  simp only [newLanes, mem_actives]
  split <;> rfl

theorem carries_predWrites (r : Team) (d : RegNo) (f : Nat → Bool) : Carries (predWrites r.actives d f) (newPred r d f) := by
  intro t file n l hl
  rw [predWrites, reg_puts_map _ _ _ (fun l => if f l then 1 else 0) (fun _ h => actives_lt h) (by decide)
    (fun _ l => by cases f l <;> simp) t file n l hl]
  simp only [newPred, mem_actives]
  split <;> rfl

theorem carries_laneWrites64 (r : Team) (d : RegNo) (f : Nat → DWord) : Carries (laneWrites64 r.actives d f) (newLanes64 r d f) := by
  intro t file n l hl
  have key : ∀ (ls : List Nat), (∀ l ∈ ls, l < 1024) → ∀ t : Team,
      (t.puts (laneWrites64 ls d f)).reg file n l =
        if file = .v ∧ l ∈ ls ∧ n = d.toNat then (f l).extractLsb' 0 32
        else if file = .v ∧ l ∈ ls ∧ n = d.toNat + 1 then (f l).extractLsb' 32 32 else t.reg file n l := by
    intro ls
    induction ls with
    | nil => intro _ t; simp [laneWrites64, Team.puts]
    | cons a ls ih =>
      intro ha t
      have ha' : a < 1024 := ha a List.mem_cons_self
      have e : t.puts (laneWrites64 (a :: ls) d f) =
          ((t.put ⟨.v, d.toNat, a, (f a).extractLsb' 0 32⟩).put ⟨.v, d.toNat + 1, a, (f a).extractLsb' 32 32⟩).puts
            (laneWrites64 ls d f) := by
        simp [laneWrites64, Team.puts]
      rw [e, ih (fun l h => ha l (List.mem_cons_of_mem _ h)), Team.reg_put _ _ file n l ha' hl, Team.reg_put _ _ file n l ha' hl]
      cases file with
      | s => simp
      | p => simp
      | v =>
        simp only [true_and, false_or, reduceCtorEq, List.mem_cons]
        by_cases h1 : l ∈ ls <;> by_cases h2 : l = a <;> by_cases h3 : n = d.toNat <;> by_cases h4 : n = d.toNat + 1 <;>
          first
          | (exfalso; omega)
          | (simp [h1, h2, h3, h4])
  rw [key _ (fun _ h => actives_lt h)]
  simp only [newLanes64, mem_actives]
  by_cases h : file = .v ∧ l < r.lanes ∧ r.ex.getLsbD l = true
  · by_cases h3 : n = d.toNat
    · simp [h, h3]
    · by_cases h4 : n = d.toNat + 1 <;> simp [h, h3, h4]
  · have h' : ∀ q : Prop, ¬ (file = .v ∧ (l < r.lanes ∧ r.ex.getLsbD l = true) ∧ q) := fun q hq => h ⟨hq.1, hq.2.1⟩
    simp [h, h']

theorem carries_uniWrite (d : RegNo) (x : Word) : Carries (uniWrite d x) (newUni d x) := by
  intro t file n l hl
  simp only [uniWrite, Team.puts, List.foldl_cons, List.foldl_nil, newUni]
  rw [Team.reg_put t _ file n l (Nat.zero_lt_succ 1023) hl]
  cases file <;> simp
  split <;> rfl

theorem carries_uniWrite64 (d : RegNo) (x : DWord) : Carries (uniWrite64 d x) (newUni64 d x) := by
  intro t file n l hl
  simp only [uniWrite64, Team.puts, List.foldl_cons, List.foldl_nil, newUni64]
  rw [Team.reg_put _ _ file n l (Nat.zero_lt_succ 1023) hl, Team.reg_put t _ file n l (Nat.zero_lt_succ 1023) hl]
  cases file <;> simp
  by_cases h1 : n = d.toNat
  · subst h1; simp
  · by_cases h2 : n = d.toNat + 1 <;> simp [h1, h2]

/-- Arriving values change nothing of a team but its registers. -/
theorem Team.still_put (t : Team) (w : RegWrite) : (t.put w).still = t.still := by
  obtain ⟨f, n, l, x⟩ := w; cases f <;> rfl
theorem Team.still_puts (t : Team) (ws : List RegWrite) : (t.puts ws).still = t.still := by
  unfold Team.puts
  induction ws generalizing t with
  | nil => rfl
  | cons w ws ih => rw [List.foldl_cons, ih, Team.still_put]

end Sys2Proof.Machine
end

