-- ==== Sys2Proof/Laws/Slot.lean ====
section
/-! SUPPORT. What the shared parts of a slot do: its end (R46 to R48), a path switch (R27), a halt, and how a body's result
becomes the next state. -/

namespace Sys2Proof.Machine

/-- What the end of a slot keeps of the current team `t`, now `t'`, and of the rest; its path where `c` holds. -/
structure Ends (c : Prop) (s s' : State) (id : Nat) (t t' : Team) : Prop where
  here : s'.teams.find id = some t'
  vr : t'.v = t.v
  sr : t'.s = t.s
  pr : t'.p = t.p
  fstat : t'.fstat = t.fstat
  pends : t'.pends = t.pends
  inflight : t'.inflight = t.inflight
  still : t'.still = t.still
  path : c → t'.ex = t.ex ∧ t'.pc = t.pc ∧ t'.level = t.level ∧ t'.slots = t.slots
  others : ∀ k, k ≠ id → s'.teams.find k = s.teams.find k
  cur : s'.cur = s.cur
  clk : s'.clk = s.clk
  serial : s'.serial = s.serial
  gangs : t.kernel.rollback = false → s'.gangs = s.gangs
  memory : Untraced s → s'.bare = s.bare
  untraced : Untraced s → Untraced s'
  contexts : ∀ c, (s'.contexts.find c).map Context.still = (s.contexts.find c).map Context.still
  rest : s'.still = s.still

theorem still_kernel {t t' : Team} (h : t'.still = t.still) : t'.kernel = t.kernel := by
  have := congrArg (fun x : Team => x.kernel) h
  exact this

theorem Ends.trans {a b c : State} {id : Nat} {t u w : Team} {p : Prop} (h : Ends p a b id t u) (k : Ends p b c id u w) :
    Ends p a c id t w :=
  ⟨k.here, k.vr.trans h.vr, k.sr.trans h.sr, k.pr.trans h.pr, k.fstat.trans h.fstat, k.pends.trans h.pends, k.inflight.trans h.inflight,
    k.still.trans h.still, fun q => by
      obtain ⟨h1, h2, h3, h4⟩ := h.path q
      obtain ⟨k1, k2, k3, k4⟩ := k.path q
      exact ⟨k1.trans h1, k2.trans h2, k3.trans h3, k4.trans h4⟩,
    fun j hj => (k.others j hj).trans (h.others j hj), k.cur.trans h.cur, k.clk.trans h.clk, k.serial.trans h.serial,
    fun r => (k.gangs (by rw [still_kernel h.still]; exact r)).trans (h.gangs r),
    fun u => (k.memory (h.untraced u)).trans (h.memory u), fun u => k.untraced (h.untraced u),
    fun c => (k.contexts c).trans (h.contexts c), k.rest.trans h.rest⟩

theorem Ends.refl {s : State} {id : Nat} {t : Team} {c : Prop} (h : s.teams.find id = some t) : Ends c s s id t t :=
  ⟨h, rfl, rfl, rfl, rfl, rfl, rfl, rfl, fun _ => ⟨rfl, rfl, rfl, rfl⟩, fun _ _ => rfl, rfl, rfl, rfl, fun _ => rfl, fun _ => rfl, fun u => u,
    fun _ => rfl, rfl⟩

/-- A trace event, a trigger and the like change nothing that `Ends` speaks of. -/
theorem Ends.traced {a b c : State} {id : Nat} {t u : Team} {p : Prop} (h : Ends p a b id t u) (k : TraceKept b c) : Ends p a c id t u :=
  ⟨by rw [k.teams]; exact h.here, h.vr, h.sr, h.pr, h.fstat, h.pends, h.inflight, h.still, h.path,
    fun j hj => by rw [k.teams]; exact h.others j hj, k.cur.trans h.cur, k.clk.trans h.clk, k.serial.trans h.serial,
    fun r => k.gangs.trans (h.gangs r), fun u => (k.memory (h.untraced u)).trans (h.memory u), fun u => k.untraced (h.untraced u),
    fun c => (k.contexts c).trans (h.contexts c), k.rest.trans h.rest⟩

/-- A change of the team's place alone. -/
theorem Ends.set {s : State} {id : Nat} {t u : Team} {c : Prop} (_h : s.teams.find id = some t) (hv : u.v = t.v) (hs : u.s = t.s) (hp : u.p = t.p)
    (hf : u.fstat = t.fstat) (he : u.pends = t.pends) (hi : u.inflight = t.inflight) (hst : u.still = t.still)
    (hpath : c → u.ex = t.ex ∧ u.pc = t.pc ∧ u.level = t.level ∧ u.slots = t.slots) :
    Ends c s (s.setTeam id u) id t u :=
  ⟨State.setTeam_find _ _ _, hv, hs, hp, hf, he, hi, hst, hpath, fun _ hk => State.setTeam_find_ne s u hk, rfl, rfl, rfl, fun _ => rfl,
    fun _ => rfl, fun u c => u c, fun _ => rfl, rfl⟩

theorem untraced_updContext {s : State} {ctx : Nat} {f : Context → Context} (h : ∀ x : Context, (f x).regs = x.regs) (u : Untraced s) :
    Untraced (s.updContext ctx f) :=
  mayTrace_of_contexts (fun c => winReg_updContext s ctx f c _ fun x => by rw [h]) u

theorem bare_updContext (s : State) (ctx : Nat) (f : Context → Context) : (s.updContext ctx f).bare = s.bare := by
  unfold State.updContext; split <;> rfl

theorem haltWith_ends {s : State} {id : Nat} {t : Team} (c : Prop) (h : s.teams.find id = some t) (reason index wpset group : Nat) (wmask woff : Word) :
    ∃ t', Ends c s (s.haltWith id reason index wpset group wmask woff) id t t' := by
  unfold State.haltWith
  simp only [h]
  generalize (if decide (1 ≤ reason) && decide (reason ≤ 5) then max s.clk t.settledAt else s.clk) = time
  refine ⟨{ t with halt := reason, haltFrom := if t.halt = 0 then time else t.haltFrom, earliest := max t.earliest t.settledAt }, ?_⟩
  have e := ((Ends.set (c := c) (u := { t with halt := reason, haltFrom := if t.halt = 0 then time else t.haltFrom, earliest := max t.earliest t.settledAt }) h rfl rfl rfl rfl rfl rfl rfl
    (fun _ => ⟨rfl, rfl, rfl, rfl⟩)).traced (traceAt_kept _ time t t.pc 12 reason)).traced (trigger_kept _ t.ctx 1 reason)
  split
  · refine ⟨?_, e.vr, e.sr, e.pr, e.fstat, e.pends, e.inflight, e.still, e.path, ?_, ?_, ?_, ?_, ?_, ?_, ?_, ?_, ?_⟩
    · rw [State.updContext_teams]; exact e.here
    · intro k hk; rw [State.updContext_teams]; exact e.others k hk
    · rw [State.updContext_cur]; exact e.cur
    · rw [State.updContext_clk]; exact e.clk
    · rw [State.updContext_serial]; exact e.serial
    · intro r; rw [State.updContext_gangs]; exact e.gangs r
    · intro u; exact (bare_updContext _ _ _).trans (e.memory u)
    · intro u; exact untraced_updContext (fun _ => rfl) (e.untraced u)
    · intro c; refine (contexts_updContext _ t.ctx _ ?_ c).trans (e.contexts c); intro x; rfl
    · exact (still_updContext _ _ _).trans e.rest
  · exact e

theorem foldl_none {α β : Type} (f : Option α → β → Option α) (xs : List β) (h : ∀ x, f none x = none) : xs.foldl f none = none := by
  induction xs with
  | nil => rfl
  | cons x xs ih => rw [List.foldl_cons, h, ih]

theorem bestSlot_valid {s : State} {id : Nat} {t : Team} {i : Nat} (h : bestSlot s id t = some i) : ∃ q ∈ t.slots, q.v = true := by
  by_contra hc
  have hn : ∀ q ∈ t.slots, q.v = false := fun q hq => by
    cases hqv : q.v with
    | false => rfl
    | true => exact absurd ⟨q, hq, hqv⟩ hc
  unfold bestSlot at h
  rw [foldl_none _ _ fun x => ?_] at h
  · simp at h
  · cases hx : t.slots[x]? with
    | none => rfl
    | some p =>
      have hp : slotReady s id t p = false := by
        unfold slotReady; rw [hn p (List.mem_of_getElem? hx)]; rfl
      simp [hp]

theorem Team.still_bring (t : Team) (i : Nat) (old : PathSlot) : (t.bring i old).still = t.still := by
  unfold Team.bring; split <;> rfl

theorem switchPath_ends {s : State} {id : Nat} {t : Team} (h : s.teams.find id = some t) (i : Nat) (blk : Option Cond) {c : Prop}
    (hc : ¬ c) : ∃ t', Ends c s (s.switchPath id i blk) id t t' := by
  unfold State.switchPath
  simp only [h]
  refine ⟨t.bring i (if t.noPath then PathSlot.empty else t.outgoing blk), Ends.traced (Ends.set h ?_ ?_ ?_ ?_ ?_ ?_
    (Team.still_bring _ _ _) ?_) (trace_kept _ _ _ _ _)⟩ <;> first | (unfold Team.bring; split <;> rfl) | skip
  exact fun q => absurd q hc

/-- No switch is due at a bundle boundary. -/
def Calm (t : Team) : Prop :=
  (∀ q ∈ t.slots, q.v = false) ∨ t.tlevel = true ∨ (t.yielded = false ∧ ∀ q ∈ t.slots, q.v = true → q.age < 256)

theorem bundleEnd_ends {s : State} {id : Nat} {t : Team} (h : s.teams.find id = some t) : ∃ t', Ends (Calm t) s (s.bundleEnd id) id t t' := by
  unfold State.bundleEnd
  simp only [h]
  generalize hu : ({ t with yielded := false, yieldUntil := if t.yieldHere = 0 then t.yieldUntil else s.clk + t.yieldHere } : Team) = u
  have e : Ends (Calm t) s (s.setTeam id u) id t u := by
    subst hu; exact Ends.set h rfl rfl rfl rfl rfl rfl rfl (fun _ => ⟨rfl, rfl, rfl, rfl⟩)
  split
  · rename_i hd
    split
    · rename_i i hi
      have hv : ∃ q ∈ t.slots, q.v = true := by subst hu; exact bestSlot_valid hi
      have hc : ¬ Calm t := by
        simp only [Bool.and_eq_true, Bool.or_eq_true, Bool.not_eq_true', List.any_eq_true, beq_iff_eq] at hd
        rintro (k | k | ⟨k1, k2⟩)
        · obtain ⟨q, hq, hqv⟩ := hv
          exact absurd hqv (by simp [k q hq])
        · exact absurd hd.2 (by simp [k])
        · rcases hd.1 with hy | ⟨q, hq, ⟨hqv, _⟩, ha⟩
          · exact absurd hy (by simp [k1])
          · exact absurd (k2 q hq hqv) (by omega)
      obtain ⟨w, hw⟩ := switchPath_ends (s := s.setTeam id u) (State.setTeam_find _ _ _) i none hc
      exact ⟨w, e.trans hw⟩
    · exact ⟨_, e⟩
  · exact ⟨_, e⟩

theorem afterSlot_ends {s : State} {id : Nat} {t : Team} (c : Prop) (h : s.teams.find id = some t) : ∃ t', Ends c s (s.afterSlot id) id t t' := by
  unfold State.afterSlot
  simp only [h]
  split
  · rename_i set group mask off hw
    have e := Ends.set (c := c) (u := { t with watchHit := none, stepState := 0 }) h rfl rfl rfl rfl rfl rfl rfl (fun _ => ⟨rfl, rfl, rfl, rfl⟩)
    obtain ⟨w, hw⟩ := haltWith_ends (s := s.setTeam id { t with watchHit := none, stepState := 0 }) c (State.setTeam_find _ _ _) 5
      (((List.range 4).find? fun k => set / 2 ^ k % 2 == 1).getD 0) set group mask off
    exact ⟨w, e.trans hw⟩
  · split
    · exact ⟨_, Ends.set h rfl rfl rfl rfl rfl rfl rfl (fun _ => ⟨rfl, rfl, rfl, rfl⟩)⟩
    · exact ⟨t, Ends.refl h⟩

theorem still_updCrew (s : State) (g k : Nat) (f : Crew → Crew) : (s.updCrew g k f).still = s.still := by
  unfold State.updCrew State.updGang; split <;> rfl

theorem bare_updCrew (s : State) (g k : Nat) (f : Crew → Crew) : (s.updCrew g k f).bare = s.bare := by
  unfold State.updCrew State.updGang; split <;> rfl

theorem updCrew_ends {s : State} {id : Nat} {t : Team} {c : Prop} (h : s.teams.find id = some t) (g k : Nat) (f : Crew → Crew)
    (hr : t.kernel.rollback = true) : Ends c s (s.updCrew g k f) id t t :=
  ⟨by simpa using h, rfl, rfl, rfl, rfl, rfl, rfl, rfl, fun _ => ⟨rfl, rfl, rfl, rfl⟩, fun _ _ => by simp, by simp, by simp, by simp,
    fun r => absurd r (by simp [hr]), fun _ => bare_updCrew _ _ _ _,
    fun u => mayTrace_of_contexts (fun c => by unfold State.winReg; simp) u, fun c => by simp, still_updCrew _ _ _ _⟩

theorem endAllow_ends {s : State} {id : Nat} {t : Team} (c : Prop) (h : s.teams.find id = some t) : Ends c s (s.endAllow id) id t t := by
  unfold State.endAllow
  simp only [h]
  split
  · rename_i hr
    exact updCrew_ends h _ _ _ hr
  · exact Ends.refl h

theorem agedSlots_still (s : State) (id : Nat) (t : Team) (still : Bool) : (agedSlots s id t still).map PathSlot.still = t.slots.map PathSlot.still := by
  unfold agedSlots
  split
  · rfl
  · rw [List.map_map]
    refine List.map_congr_left fun p _ => ?_
    simp only [Function.comp_apply]
    split <;> rfl

theorem calm_aged {s : State} {id : Nat} {t u : Team} {still : Bool} (q : NoSwitch t) (hs : u.slots = agedSlots s id t still) (hl : u.tlevel = t.tlevel)
    (hy : u.yielded = t.yielded) : Calm u := by
  unfold Calm
  rw [hs, hl, hy]
  rcases q with q | q | ⟨q1, q2⟩
  · left
    intro p hp
    unfold agedSlots at hp
    split at hp
    · exact q p hp
    · obtain ⟨x, hx, rfl⟩ := List.mem_map.mp hp
      split <;> exact q x hx
  · exact .inr (.inl q)
  · refine .inr (.inr ⟨q1, ?_⟩)
    intro p hp hv
    unfold agedSlots at hp
    split at hp
    · exact Nat.lt_succ_of_lt (q2 p hp hv)
    · obtain ⟨x, hx, rfl⟩ := List.mem_map.mp hp
      split at hv
      · rename_i hr
        have := q2 x hx hv
        rw [if_pos hr]
        show min 256 (x.age + 1) < 256
        omega
      · rename_i hr
        rw [if_neg hr]
        exact Nat.lt_succ_of_lt (q2 x hx hv)

/-- The end of a slot: it goes on at `next`, and the rest of the team is as it was. -/
structure Advanced (s s' : State) (t t' : Team) (next : Word) : Prop where
  here : s'.teams.find s.cur = some t'
  vr : t'.v = t.v
  sr : t'.s = t.s
  pr : t'.p = t.p
  fstat : t'.fstat = t.fstat
  pends : t'.pends = t.pends
  inflight : t'.inflight = t.inflight
  still : t'.still = t.still
  path : NoSwitch t → t'.ex = t.ex ∧ t'.pc = next ∧ t'.level = t.level ∧ t'.slots.map PathSlot.still = t.slots.map PathSlot.still
  others : ∀ k, k ≠ s.cur → s'.teams.find k = s.teams.find k
  cur : s'.cur = s.cur
  clk : s'.clk = s.clk
  serial : s'.serial = s.serial
  gangs : t.kernel.rollback = false → s'.gangs = s.gangs
  memory : Untraced s → s'.bare = s.bare
  untraced : Untraced s → Untraced s'
  contexts : ∀ c, (s'.contexts.find c).map Context.still = (s.contexts.find c).map Context.still
  rest : s'.still = s.still

theorem advance_spec {s : State} {t : Team} (h : s.me = some t) (i : Instr) (next : Word) (tr : Bool) :
    ∃ t', Advanced s (s.advance i next tr) t t' next := by
  unfold State.advance
  simp only [h]
  generalize hu : ({ t with
      pc := next, blk := none, done := 0, mark := none, kept := [], slots := agedSlots s s.cur t (keepsAges i)
      earliest := s.clk + (if tr = true then max t.stallHere 2 else if writesMask i = true then max t.stallHere 1 else t.stallHere)
      zeroStall := t.stallHere == 0 && !tr && !writesMask i, lastSetU := i.isU, lastIssue := s.clk
      spSkip := if t.spSkip && bundleOf next == bundleOf t.pc && !tr then t.spSkip else false } : Team) = u
  have e1 : Ends (Calm u) (s.setTeam s.cur u) ((s.setTeam s.cur u).endAllow s.cur) s.cur u u :=
    endAllow_ends _ (State.setTeam_find _ _ _)
  have e2 : ∃ w, Ends (Calm u) (s.setTeam s.cur u) (if (tr || bundleOf next != bundleOf t.pc) = true then
      ((s.setTeam s.cur u).endAllow s.cur).bundleEnd ((s.setTeam s.cur u).endAllow s.cur).cur
      else (s.setTeam s.cur u).endAllow s.cur) s.cur u w := by
    rw [e1.cur, State.setTeam_cur]
    split
    · obtain ⟨w, hw⟩ := bundleEnd_ends e1.here
      exact ⟨w, e1.trans hw⟩
    · exact ⟨u, e1⟩
  obtain ⟨w, e2⟩ := e2
  obtain ⟨x, e3⟩ := afterSlot_ends (Calm u) e2.here
  have e := e2.trans e3
  refine ⟨x, ?_⟩
  have hc := e2.cur
  rw [State.setTeam_cur] at hc
  rw [hc]
  have hca : NoSwitch t → Calm u := fun q => by subst hu; exact calm_aged q rfl rfl rfl
  have hsl : u.slots.map PathSlot.still = t.slots.map PathSlot.still := by subst hu; exact agedSlots_still _ _ _ _
  have hp := e.path
  have hnx : u.pc = next ∧ u.ex = t.ex ∧ u.level = t.level := by subst hu; exact ⟨rfl, rfl, rfl⟩
  subst hu
  exact ⟨e.here, e.vr, e.sr, e.pr, e.fstat, e.pends, e.inflight, e.still, fun q => by
      obtain ⟨h1, h2, h3, h4⟩ := hp (hca q)
      exact ⟨h1, h2, h3, (congrArg _ h4).trans hsl⟩,
    fun k hk => (e.others k hk).trans (State.setTeam_find_ne s _ hk), e.cur, e.clk, e.serial, e.gangs, e.memory, e.untraced,
    e.contexts, e.rest⟩

theorem retire_spec {s : State} {t : Team} (h : s.me = some t) (i : Instr) :
    ∃ t', Advanced s (s.retire i) t t' (nextPc t.pc i.hasLit) := by
  unfold State.retire; simp only [h]; exact advance_spec h i _ _

/-- A slot that issues runs its body. -/
theorem slot_issues {s : State} {t : Team} {i : Instr} (h : Issues s t i) (body : (r t : Team) → State → Res) :
    slot i body s = .next (settle i s (body (t.viewAt s.clk) t s)) := by
  obtain ⟨h1, h2⟩ := h
  unfold slot; simp only [h1, h2]

theorem reg_eq {t t' : Team} (hv : t'.v = t.v) (hs : t'.s = t.s) (hp : t'.p = t.p) (f : RFile) (n l : Nat) : t'.reg f n l = t.reg f n l := by
  have e1 : ∀ l n, t'.V l n = t.V l n := fun l n => by unfold Team.V; rw [hv]
  have e2 : ∀ n, t'.S n = t.S n := fun n => by unfold Team.S; rw [hs]
  have e3 : ∀ n, t'.P n = t.P n := fun n => by unfold Team.P; rw [hp]
  cases f <;> simp only [Team.reg, e1, e2, e3]

theorem State.me_updMe_others {s : State} (f : Team → Team) (k : Nat) (hk : k ≠ s.cur) : (s.updMe f).teams.find k = s.teams.find k :=
  State.updTeam_find_ne s f hk

theorem untraced_of_contexts {s s' : State} (h : s'.contexts = s.contexts) (u : Untraced s) : Untraced s' :=
  mayTrace_of_contexts (fun c => by unfold State.winReg; rw [h]) u

theorem still_updTeam (s : State) (id : Nat) (f : Team → Team) : (s.updTeam id f).still = s.still := by
  unfold State.updTeam; split <;> rfl

theorem bare_updTeam (s : State) (id : Nat) (f : Team → Team) : (s.updTeam id f).bare = s.bare := by
  unfold State.updTeam; split <;> rfl

theorem puts_path (ws : List RegWrite) : ∀ a : Team, (a.puts ws).pc = a.pc ∧ (a.puts ws).ex = a.ex ∧ (a.puts ws).slots = a.slots ∧
    (a.puts ws).level = a.level ∧ (a.puts ws).tlevel = a.tlevel ∧ (a.puts ws).yielded = a.yielded := by
  induction ws with
  | nil => intro a; exact ⟨rfl, rfl, rfl, rfl, rfl, rfl⟩
  | cons w ws ih =>
    intro a
    obtain ⟨i1, i2, i3, i4, i5, i6⟩ := ih (a.put w)
    refine ⟨i1.trans ?_, i2.trans ?_, i3.trans ?_, i4.trans ?_, i5.trans ?_, i6.trans ?_⟩ <;> (unfold Team.put; split <;> rfl)

/-- What a delivery leaves of the path. -/
theorem deliver_path (t : Team) (i : Instr) (clk lat : Nat) (ws : List RegWrite) (fl : BitVec 5) :
    (t.deliver i clk lat ws fl).pc = t.pc ∧ (t.deliver i clk lat ws fl).ex = t.ex ∧ (t.deliver i clk lat ws fl).slots = t.slots ∧
    (t.deliver i clk lat ws fl).level = t.level ∧ (t.deliver i clk lat ws fl).tlevel = t.tlevel ∧
    (t.deliver i clk lat ws fl).yielded = t.yielded ∧ (t.deliver i clk lat ws fl).fstat = t.fstat ||| fl := by
  obtain ⟨k1, k2, k3, k4, k5, k6⟩ := puts_path ws (t.dropFutures i.writes)
  exact ⟨k1, k2, k3, k4, k5, k6, rfl⟩

theorem noSwitch_of {t u : Team} (h1 : u.slots = t.slots) (h2 : u.tlevel = t.tlevel) (h3 : u.yielded = t.yielded) (q : NoSwitch t) :
    NoSwitch u := by
  unfold NoSwitch; rw [h1, h2, h3]; exact q

/-- A result of fixed latency: what the next state holds (R63, R64). -/
theorem settle_fixed {s : State} {t : Team} {i : Instr} (h : s.me = some t) (lat : Nat) (ws : List RegWrite) (fl : BitVec 5) {g : News}
    (hc : Carries ws g) :
    ∃ s' t', settle i s (.fixed s lat ws fl) = s' ∧ s'.teams.find s.cur = some t' ∧ RegsAfter t t' g ∧ t'.fstat = t.fstat ||| fl ∧
      t'.still = t.still ∧ StepsOn i t t' ∧ RestKept s s' t := by
  have hm := State.updMe_me (fun t => t.deliver i s.clk lat ws fl) h
  obtain ⟨t', e⟩ := retire_spec hm i
  have hcur : (s.updMe fun t => t.deliver i s.clk lat ws fl).cur = s.cur := State.updMe_cur _ _
  have hd : (t.deliver i s.clk lat ws fl).still = t.still := by
    unfold Team.deliver; exact (Team.still_puts (t.dropFutures i.writes) ws).trans rfl
  obtain ⟨hd1, hd2, hd3, hd4, hd5, hd6, hd7⟩ := deliver_path t i s.clk lat ws fl
  refine ⟨_, t', rfl, hcur ▸ e.here, ?_, ?_, e.still.trans hd, ?_, ?_, ?_, ?_, ?_, ?_⟩
  · intro f n l hl
    rw [reg_eq e.vr e.sr e.pr]
    have := hc (t.dropFutures i.writes) f n l hl
    rw [show (t.dropFutures i.writes).reg f n l = t.reg f n l from reg_eq rfl rfl rfl f n l] at this
    rw [← this]
    exact reg_eq rfl rfl rfl f n l
  · rw [e.fstat]; exact hd7
  · intro q
    obtain ⟨h1, h2, h3, _⟩ := e.path (noSwitch_of hd3 hd5 hd6 q)
    exact ⟨h2.trans (by rw [hd1]), h1.trans hd2, h3.trans hd4⟩
  · intro k hk
    exact (e.others k (by rw [hcur]; exact hk)).trans (State.me_updMe_others _ k hk)
  · intro r
    exact (e.gangs (by rw [still_kernel hd]; exact r)).trans (State.updMe_gangs _ _)
  · intro c; exact (e.contexts c).trans (by simp)
  · exact e.rest.trans (still_updTeam _ _ _)
  · intro u
    exact (e.memory (untraced_of_contexts (by simp) u)).trans (bare_updTeam _ _ _)

/-- A result of fixed latency, from a slot that issues. -/
theorem gives_of_fixed {s : State} {t : Team} {i : Instr} (h : Issues s t i) {body : (r t : Team) → State → Res} {lat : Nat}
    {ws : List RegWrite} {fl : BitVec 5} {g : News} (he : exec i s = slot i body s)
    (hb : body (t.viewAt s.clk) t s = .fixed s lat ws fl) (hc : Carries ws g) : Gives s t i g fl := by
  obtain ⟨s', t', h1, h2⟩ := settle_fixed (i := i) h.1 lat ws fl hc
  exact ⟨s', t', by rw [he, slot_issues h, hb, h1], h2⟩

/-- What the body of a slot leaves of the machine when it changes no team, no gang and no byte of memory. -/
structure BodyKept (s s' : State) : Prop where
  teams : s'.teams = s.teams
  gangs : s'.gangs = s.gangs
  contexts : s'.contexts = s.contexts
  cur : s'.cur = s.cur
  serial : s'.serial = s.serial
  bare : s'.bare = s.bare

theorem BodyKept.refl (s : State) : BodyKept s s := ⟨rfl, rfl, rfl, rfl, rfl, rfl⟩
theorem BodyKept.trans {a b c : State} (h : BodyKept a b) (k : BodyKept b c) : BodyKept a c :=
  ⟨k.1.trans h.1, k.2.trans h.2, k.3.trans h.3, k.4.trans h.4, k.5.trans h.5, k.6.trans h.6⟩

/-- What is left of the machine without its parts is left where they are left. -/
theorem still_of_bare {s s' : State} (h : s'.bare = s.bare) : s'.still = s.still := by
  unfold State.still; rw [h]

/-- A result of variable latency, from a slot that issues: its destination is pending (R65, R66). -/
theorem pending_of_later {s s' : State} {t : Team} {i : Instr} (h : Issues s t i) {body : (r t : Team) → State → Res} {reason : Nat}
    {data : PendData} {u : RegUse} {us : List RegUse} (he : exec i s = slot i body s)
    (hb : body (t.viewAt s.clk) t s = .later s' reason data) (hk : BodyKept s s') (hw : i.writes = u :: us)
    (ho : s.overfull i = false) :
    ∃ s'' t', exec i s = .next s'' ∧ s''.teams.find s.cur = some t' ∧
      ⟨s.serial, u.file, u.n, u.cnt, reason, t.pc, data, []⟩ ∈ t'.pends ∧ t'.v = t.v ∧ t'.s = t.s ∧ t'.p = t.p ∧
      t'.fstat = t.fstat ∧ t'.still = t.still ∧ StepsOn i t t' ∧ RestKept s s'' t := by
  have hme : s'.me = some t := by unfold State.me; rw [hk.teams, hk.cur]; exact h.1
  generalize hx : ({ t.dropFutures i.writes with
    pends := (t.dropFutures i.writes).pends ++ [⟨s'.serial, u.file, u.n, u.cnt, reason, t.pc, data, []⟩] } : Team) = x
  have hm : s'.markPending i reason data = { s'.setTeam s'.cur x with serial := s'.serial + 1 } := by
    subst hx; unfold State.markPending; simp only [hme, hw]; rfl
  have hm2 : (s'.markPending i reason data).me = some x := by rw [hm]; exact State.setTeam_me s' x
  obtain ⟨t', e⟩ := retire_spec hm2 i
  have hc : (s'.markPending i reason data).cur = s.cur := by rw [hm]; exact hk.cur
  have hs : exec i s = .next ((s'.markPending i reason data).retire i) := by
    rw [he, slot_issues h, hb]; simp only [settle, ho, Bool.false_eq_true, if_false]
  have hsx : x.still = t.still := by subst hx; rfl
  refine ⟨_, t', hs, hc ▸ e.here, ?_, e.vr.trans ?_, e.sr.trans ?_, e.pr.trans ?_, e.fstat.trans ?_, e.still.trans hsx, ?_, ?_, ?_, ?_, ?_, ?_⟩
  · rw [e.pends]; subst hx; rw [hk.serial]; simp
  · subst hx; rfl
  · subst hx; rfl
  · subst hx; rfl
  · subst hx; rfl
  · intro q
    have q' : NoSwitch x := by subst hx; exact q
    obtain ⟨h1, h2, h3, _⟩ := e.path q'
    subst hx
    exact ⟨h2, h1, h3⟩
  · intro k hk'
    refine (e.others k (by rw [hc]; exact hk')).trans ?_
    rw [hm]
    refine (State.setTeam_find_ne s' x (by rw [hk.cur]; exact hk')).trans ?_
    rw [hk.teams]
  · intro r
    refine (e.gangs (by rw [still_kernel hsx]; exact r)).trans ?_
    rw [hm]; exact hk.gangs
  · intro c; exact (e.contexts c).trans (by rw [hm]; exact congrArg (fun m => Option.map Context.still (SMap.find m c)) hk.contexts)
  · exact e.rest.trans (by rw [hm]; exact still_of_bare hk.bare)
  · intro un
    refine (e.memory (untraced_of_contexts ?_ un)).trans ?_
    · rw [hm]; exact hk.contexts
    · rw [hm]; exact hk.bare

/-- Values of variable latency, from a slot that issues. -/
theorem awaits_of_later {s s' : State} {t : Team} {i : Instr} (h : Issues s t i) {body : (r t : Team) → State → Res} {reason : Nat}
    {ws : List RegWrite} {fl : BitVec 5} {g : News} {u : RegUse} {us : List RegUse} (he : exec i s = slot i body s)
    (hb : body (t.viewAt s.clk) t s = .later s' reason (.values ws fl)) (hk : BodyKept s s') (hw : i.writes = u :: us)
    (hc : Carries ws g) (ho : s.overfull i = false) : Awaits s t i reason g fl := by
  obtain ⟨s'', t', h1, h2, h3, h4, h5, h6, h7, h8, h9, h10⟩ := pending_of_later h he hb hk hw ho
  exact ⟨s'', t', _, ws, h1, h2, h3, rfl, rfl, rfl, hc, fun f n l _ => reg_eq h4 h5 h6 f n l, h7, h8, h9, h10⟩

/-- A lane instruction of fixed latency. -/
theorem fixed_of_laneFixed {i : Instr} {lat : Nat} {f : Team → List RegWrite × BitVec 5} {g : Team → Result}
    (he : exec i = laneFixed i lat f) (hc : ∀ r, Carries (f r).1 (g r).1) (hf : ∀ r, (f r).2 = (g r).2) : Fixed i g := by
  intro s t h
  rw [← hf]
  exact gives_of_fixed h (body := fun r _ s => .fixed s lat (f r).1 (f r).2) (by rw [he]; rfl) rfl (hc _)

/-- A lane instruction of variable latency. -/
theorem varying_of_laneLater {i : Instr} {reason : Nat} {f : Team → List RegWrite × BitVec 5} {g : Team → Result}
    (he : exec i = laneLater i reason f) (hc : ∀ r, Carries (f r).1 (g r).1) (hf : ∀ r, (f r).2 = (g r).2)
    (hw : ∃ u us, i.writes = u :: us) : Varying i reason g := by
  intro s t h ho
  obtain ⟨u, us, hw⟩ := hw
  rw [← hf]
  exact awaits_of_later h (body := fun r _ s => .later s reason (.values (f r).1 (f r).2)) (by rw [he]; rfl) rfl (BodyKept.refl s) hw (hc _) ho

/-- A "sel" lane instruction. -/
theorem bySel_of_laneSel {i : Instr} {lat : Nat} {o : OpB} {f : Team → List RegWrite × BitVec 5} {g : Team → Result}
    (he : exec i = laneSel i lat o f) (hc : ∀ r, Carries (f r).1 (g r).1) (hf : ∀ r, (f r).2 = (g r).2)
    (hw : ∃ u us, i.writes = u :: us) : BySel i o g := by
  intro s t h
  obtain ⟨u, us, hw⟩ := hw
  unfold SelGives
  rw [← hf]
  have hb : exec i s = slot i (fun r _ s => if teamPat o then .later s 11 (.values (f r).1 (f r).2)
      else .fixed s (if groupPat o then lat + 2 else lat) (f r).1 (f r).2) s := by rw [he]; rfl
  split
  · rename_i hp
    intro ho
    exact awaits_of_later h hb (by simp only [hp, if_true]) (BodyKept.refl s) hw (hc _) ho
  · rename_i hp
    exact gives_of_fixed h hb (by simp only [hp, Bool.false_eq_true, if_false]; rfl) (hc _)

/-- An advance, in the terms of claims. -/
theorem onward_of_advanced {s s' : State} {u t' : Team} {pc : Word} (e : Advanced s s' u t' pc) : Onward s s' u pc :=
  ⟨⟨t', e.here, fun f n l _ => reg_eq e.vr e.sr e.pr f n l, e.fstat, e.pends, e.still, fun q => by
      obtain ⟨h1, h2, h3, h4⟩ := e.path q; exact ⟨h2, h1, h3, h4⟩⟩,
    ⟨e.others, e.gangs, e.contexts, e.rest, e.memory⟩⟩

/-- What is said of the state with the team already changed holds of the state before. -/
theorem Onward.of_setTeam {s s' : State} {u v : Team} {pc : Word} (h : Onward (s.setTeam s.cur v) s' u pc) : Onward s s' u pc := by
  obtain ⟨h1, h2⟩ := h
  exact ⟨h1, ⟨fun k hk => (h2.others k hk).trans (State.setTeam_find_ne s v hk), h2.gangs, h2.contexts, h2.rest, h2.memory⟩⟩

theorem dropFutures_nil (t : Team) : t.dropFutures [] = t := by
  unfold Team.dropFutures; simp

theorem updMe_eq {s : State} {t : Team} (h : s.me = some t) (f : Team → Team) : s.updMe f = s.setTeam s.cur (f t) := by
  unfold State.updMe State.updTeam
  unfold State.me at h
  simp only [h]

theorem writes_nil_updMe {s : State} {u : Team} {i : Instr} (hm : s.me = some u) (hw : i.writes = []) :
    s.updMe (fun t => t.dropFutures i.writes) = s.setTeam s.cur u := by rw [updMe_eq hm, hw, dropFutures_nil]

/-- A slot without a register result: `s1` is the state with its effect, in which its team is `u`. -/
theorem leavesIn_of_done {s s1 : State} {t u : Team} {i : Instr} (h : Issues s t i) {body : (r t : Team) → State → Res}
    (he : exec i s = slot i body s) (hb : body (t.viewAt s.clk) t s = .done s1) (hu : s1.me = some u) (hw : i.writes = []) :
    LeavesIn s i s1 u (nextPc u.pc i.hasLit) := by
  have hx : (s1.updMe fun t => t.dropFutures i.writes).me = some u := by rw [writes_nil_updMe hu hw]; exact State.setTeam_me _ u
  obtain ⟨t', e⟩ := retire_spec hx i
  refine ⟨_, by rw [he, slot_issues h, hb], ?_⟩
  have o := onward_of_advanced e
  simp only [settle]
  rw [writes_nil_updMe hu hw] at o ⊢
  exact o.of_setTeam

/-- A slot without a register result, whose effect on the machine is on its team. -/
theorem leaves_of_done {s : State} {t u : Team} {i : Instr} (h : Issues s t i) {body : (r t : Team) → State → Res}
    (he : exec i s = slot i body s) (hb : body (t.viewAt s.clk) t s = .done (s.setTeam s.cur u)) (hw : i.writes = []) :
    Leaves s i u (nextPc u.pc i.hasLit) := by
  have hm : (s.setTeam s.cur u).me = some u := State.setTeam_me s u
  have hx : ((s.setTeam s.cur u).updMe fun t => t.dropFutures i.writes).me = some u := by
    rw [updMe_eq hm, hw, dropFutures_nil]; exact State.setTeam_me _ u
  obtain ⟨t', e⟩ := retire_spec hx i
  refine ⟨_, by rw [he, slot_issues h, hb], ?_⟩
  have o := onward_of_advanced e
  simp only [settle]
  rw [updMe_eq hm, hw, dropFutures_nil] at o
  rw [updMe_eq hm, hw, dropFutures_nil]
  exact (o.of_setTeam (s := s.setTeam s.cur u)).of_setTeam

/-- A slot that transfers control, whose effect on the machine is on its team. -/
theorem leaves_of_moved {s : State} {t u : Team} {i : Instr} (h : Issues s t i) {body : (r t : Team) → State → Res} {pc : Word}
    {code detail : Nat} (he : exec i s = slot i body s)
    (hb : body (t.viewAt s.clk) t s = .moved (s.setTeam s.cur u) pc code detail) : Leaves s i u pc := by
  obtain ⟨t', e⟩ := advance_spec (State.setTeam_me s u) i pc true
  refine ⟨_, by rw [he, slot_issues h, hb], ?_⟩
  simp only [settle]
  have hme : ((s.setTeam s.cur u).advance i pc true).me = some t' := by unfold State.me; rw [e.cur]; exact e.here
  simp only [hme, State.setTeam_me]
  split
  · exact (onward_of_advanced e).of_setTeam
  · have k := trace_kept ((s.setTeam s.cur u).advance i pc true) t' u.pc code detail
    refine (onward_of_advanced (s := s.setTeam s.cur u) (t' := t') ?_).of_setTeam
    exact ⟨by rw [k.teams]; exact e.here, e.vr, e.sr, e.pr, e.fstat, e.pends, e.inflight, e.still, e.path,
      fun j hj => by rw [k.teams]; exact e.others j hj, k.cur.trans e.cur, k.clk.trans e.clk, k.serial.trans e.serial,
      fun r => k.gangs.trans (e.gangs r), fun un => (k.memory (e.untraced un)).trans (e.memory un), fun un => k.untraced (e.untraced un),
      fun c => (k.contexts c).trans (e.contexts c), k.rest.trans e.rest⟩

/-- A slot that changes its team and goes on. -/
theorem leaves_of_teamOp {s : State} {t : Team} {i : Instr} (h : Issues s t i) {f : (r t : Team) → Team} (he : exec i s = teamOp i f s)
    (hw : i.writes = []) : Leaves s i (f (t.viewAt s.clk) t) (nextPc (f (t.viewAt s.clk) t).pc i.hasLit) :=
  leaves_of_done h (body := fun r _ s => .done (s.updMe fun t => f r t)) (by rw [he]; rfl) (by rw [updMe_eq h.1]) hw

/-- A slot whose body traps. -/
theorem traps_of_body {s : State} {t : Team} {i : Instr} (h : Issues s t i) {body : (r t : Team) → State → Res} {cause info : Nat}
    {addr : DWord} (he : exec i s = slot i body s) (hb : body (t.viewAt s.clk) t s = .trap cause info addr) : Traps s i cause info addr := by
  unfold Traps; rw [he, slot_issues h, hb]; rfl

/-- A slot that goes on without any effect. -/
theorem leaves_of_nothing {s : State} {t : Team} {i : Instr} (h : Issues s t i) {body : (r t : Team) → State → Res}
    (he : exec i s = slot i body s) (hb : body (t.viewAt s.clk) t s = .done s) (hw : i.writes = []) :
    Leaves s i t (nextPc t.pc i.hasLit) := by
  have hm : (s.updMe fun t => t.dropFutures i.writes).me = some t := by
    rw [updMe_eq h.1, hw, dropFutures_nil]; exact State.setTeam_me s t
  obtain ⟨t', e⟩ := retire_spec hm i
  refine ⟨_, by rw [he, slot_issues h, hb], ?_⟩
  have o := onward_of_advanced e
  simp only [settle]
  rw [updMe_eq h.1, hw, dropFutures_nil] at o ⊢
  exact o.of_setTeam

end Sys2Proof.Machine
end

