-- ==== Sys2Proof/Laws/Results.lean ====
section
/-! SUPPORT. The lane and uniform instructions by the shape of their result: a fixed or variable latency, a register, pair or predicate
of each active lane. -/

namespace Sys2Proof.Machine

theorem sel_lanes {i : Instr} {lat : Nat} {o : OpB} {d : RegNo} {f g : Team → Nat → Word} (he : exec i = fun s => laneSel i lat o (fun r => perLane r d (f r)) s) (hw : ∃ u us, i.writes = u :: us)
    (h : ∀ r l, f r l = g r l) : BySel i o fun r => lanes r d (g r) := by
  rw [show f = g from funext fun r => funext fun l => h r l] at he
  exact bySel_of_laneSel he (fun r => carries_laneWrites r d _) (fun _ => rfl) hw
theorem fix_lanes {i : Instr} {lat : Nat} {d : RegNo} {f g : Team → Nat → Word} (he : exec i = fun s => laneFixed i lat (fun r => perLane r d (f r)) s)
    (h : ∀ r l, f r l = g r l) : Fixed i fun r => lanes r d (g r) := by
  rw [show f = g from funext fun r => funext fun l => h r l] at he
  exact fixed_of_laneFixed he (fun r => carries_laneWrites r d _) (fun _ => rfl)
theorem var_lanes {i : Instr} {reason : Nat} {d : RegNo} {f g : Team → Nat → Word} (he : exec i = fun s => laneLater i reason (fun r => perLane r d (f r)) s) (hw : ∃ u us, i.writes = u :: us)
    (h : ∀ r l, f r l = g r l) : Varying i reason fun r => lanes r d (g r) := by
  rw [show f = g from funext fun r => funext fun l => h r l] at he
  exact varying_of_laneLater he (fun r => carries_laneWrites r d _) (fun _ => rfl) hw
theorem sel_pairs {i : Instr} {lat : Nat} {o : OpB} {d : RegNo} {f g : Team → Nat → DWord} (he : exec i = fun s => laneSel i lat o (fun r => perLane64 r d (f r)) s) (hw : ∃ u us, i.writes = u :: us)
    (h : ∀ r l, f r l = g r l) : BySel i o fun r => pairs r d (g r) := by
  rw [show f = g from funext fun r => funext fun l => h r l] at he
  exact bySel_of_laneSel he (fun r => carries_laneWrites64 r d _) (fun _ => rfl) hw
theorem fix_pairs {i : Instr} {lat : Nat} {d : RegNo} {f g : Team → Nat → DWord} (he : exec i = fun s => laneFixed i lat (fun r => perLane64 r d (f r)) s)
    (h : ∀ r l, f r l = g r l) : Fixed i fun r => pairs r d (g r) := by
  rw [show f = g from funext fun r => funext fun l => h r l] at he
  exact fixed_of_laneFixed he (fun r => carries_laneWrites64 r d _) (fun _ => rfl)
theorem var_pairs {i : Instr} {reason : Nat} {d : RegNo} {f g : Team → Nat → DWord} (he : exec i = fun s => laneLater i reason (fun r => perLane64 r d (f r)) s) (hw : ∃ u us, i.writes = u :: us)
    (h : ∀ r l, f r l = g r l) : Varying i reason fun r => pairs r d (g r) := by
  rw [show f = g from funext fun r => funext fun l => h r l] at he
  exact varying_of_laneLater he (fun r => carries_laneWrites64 r d _) (fun _ => rfl) hw
theorem sel_preds {i : Instr} {lat : Nat} {o : OpB} {d : RegNo} {f g : Team → Nat → Bool} (he : exec i = fun s => laneSel i lat o (fun r => perLaneP r d (f r)) s) (hw : ∃ u us, i.writes = u :: us)
    (h : ∀ r l, f r l = g r l) : BySel i o fun r => preds r d (g r) := by
  rw [show f = g from funext fun r => funext fun l => h r l] at he
  exact bySel_of_laneSel he (fun r => carries_predWrites r d _) (fun _ => rfl) hw
theorem fix_preds {i : Instr} {lat : Nat} {d : RegNo} {f g : Team → Nat → Bool} (he : exec i = fun s => laneFixed i lat (fun r => perLaneP r d (f r)) s)
    (h : ∀ r l, f r l = g r l) : Fixed i fun r => preds r d (g r) := by
  rw [show f = g from funext fun r => funext fun l => h r l] at he
  exact fixed_of_laneFixed he (fun r => carries_predWrites r d _) (fun _ => rfl)
theorem var_preds {i : Instr} {reason : Nat} {d : RegNo} {f g : Team → Nat → Bool} (he : exec i = fun s => laneLater i reason (fun r => perLaneP r d (f r)) s) (hw : ∃ u us, i.writes = u :: us)
    (h : ∀ r l, f r l = g r l) : Varying i reason fun r => preds r d (g r) := by
  rw [show f = g from funext fun r => funext fun l => h r l] at he
  exact varying_of_laneLater he (fun r => carries_predWrites r d _) (fun _ => rfl) hw
theorem sel_lanesF {i : Instr} {lat : Nat} {o : OpB} {d : RegNo} {f g : Team → Nat → Word × BitVec 5} (he : exec i = fun s => laneSel i lat o (fun r => perLaneF r d (f r)) s) (hw : ∃ u us, i.writes = u :: us)
    (h : ∀ r l, f r l = g r l) : BySel i o fun r => lanesF r d (g r) := by
  rw [show f = g from funext fun r => funext fun l => h r l] at he
  exact bySel_of_laneSel he (fun r => carries_laneWrites r d _) (fun _ => rfl) hw
theorem fix_lanesF {i : Instr} {lat : Nat} {d : RegNo} {f g : Team → Nat → Word × BitVec 5} (he : exec i = fun s => laneFixed i lat (fun r => perLaneF r d (f r)) s)
    (h : ∀ r l, f r l = g r l) : Fixed i fun r => lanesF r d (g r) := by
  rw [show f = g from funext fun r => funext fun l => h r l] at he
  exact fixed_of_laneFixed he (fun r => carries_laneWrites r d _) (fun _ => rfl)
theorem var_lanesF {i : Instr} {reason : Nat} {d : RegNo} {f g : Team → Nat → Word × BitVec 5} (he : exec i = fun s => laneLater i reason (fun r => perLaneF r d (f r)) s) (hw : ∃ u us, i.writes = u :: us)
    (h : ∀ r l, f r l = g r l) : Varying i reason fun r => lanesF r d (g r) := by
  rw [show f = g from funext fun r => funext fun l => h r l] at he
  exact varying_of_laneLater he (fun r => carries_laneWrites r d _) (fun _ => rfl) hw
theorem sel_pairsF {i : Instr} {lat : Nat} {o : OpB} {d : RegNo} {f g : Team → Nat → DWord × BitVec 5} (he : exec i = fun s => laneSel i lat o (fun r => perLaneF64 r d (f r)) s) (hw : ∃ u us, i.writes = u :: us)
    (h : ∀ r l, f r l = g r l) : BySel i o fun r => pairsF r d (g r) := by
  rw [show f = g from funext fun r => funext fun l => h r l] at he
  exact bySel_of_laneSel he (fun r => carries_laneWrites64 r d _) (fun _ => rfl) hw
theorem fix_pairsF {i : Instr} {lat : Nat} {d : RegNo} {f g : Team → Nat → DWord × BitVec 5} (he : exec i = fun s => laneFixed i lat (fun r => perLaneF64 r d (f r)) s)
    (h : ∀ r l, f r l = g r l) : Fixed i fun r => pairsF r d (g r) := by
  rw [show f = g from funext fun r => funext fun l => h r l] at he
  exact fixed_of_laneFixed he (fun r => carries_laneWrites64 r d _) (fun _ => rfl)
theorem var_pairsF {i : Instr} {reason : Nat} {d : RegNo} {f g : Team → Nat → DWord × BitVec 5} (he : exec i = fun s => laneLater i reason (fun r => perLaneF64 r d (f r)) s) (hw : ∃ u us, i.writes = u :: us)
    (h : ∀ r l, f r l = g r l) : Varying i reason fun r => pairsF r d (g r) := by
  rw [show f = g from funext fun r => funext fun l => h r l] at he
  exact varying_of_laneLater he (fun r => carries_laneWrites64 r d _) (fun _ => rfl) hw
theorem sel_predsF {i : Instr} {lat : Nat} {o : OpB} {d : RegNo} {f g : Team → Nat → Bool × BitVec 5} (he : exec i = fun s => laneSel i lat o (fun r => perLaneFP r d (f r)) s) (hw : ∃ u us, i.writes = u :: us)
    (h : ∀ r l, f r l = g r l) : BySel i o fun r => predsF r d (g r) := by
  rw [show f = g from funext fun r => funext fun l => h r l] at he
  exact bySel_of_laneSel he (fun r => carries_predWrites r d _) (fun _ => rfl) hw
theorem fix_predsF {i : Instr} {lat : Nat} {d : RegNo} {f g : Team → Nat → Bool × BitVec 5} (he : exec i = fun s => laneFixed i lat (fun r => perLaneFP r d (f r)) s)
    (h : ∀ r l, f r l = g r l) : Fixed i fun r => predsF r d (g r) := by
  rw [show f = g from funext fun r => funext fun l => h r l] at he
  exact fixed_of_laneFixed he (fun r => carries_predWrites r d _) (fun _ => rfl)
theorem var_predsF {i : Instr} {reason : Nat} {d : RegNo} {f g : Team → Nat → Bool × BitVec 5} (he : exec i = fun s => laneLater i reason (fun r => perLaneFP r d (f r)) s) (hw : ∃ u us, i.writes = u :: us)
    (h : ∀ r l, f r l = g r l) : Varying i reason fun r => predsF r d (g r) := by
  rw [show f = g from funext fun r => funext fun l => h r l] at he
  exact varying_of_laneLater he (fun r => carries_predWrites r d _) (fun _ => rfl) hw

/-- A uniform instruction of fixed latency. -/
theorem fix_uni {i : Instr} {lat : Nat} {d : RegNo} {f g : Team → Word} (he : exec i = fun s => uniFixed i lat (fun r => uniWrite d (f r)) s)
    (h : ∀ r, f r = g r) : Fixed i fun r => uni d (g r) := by
  rw [show f = g from funext h] at he
  intro s t hi
  exact gives_of_fixed hi (body := fun r _ s => .fixed s lat (uniWrite d (g r)) 0) (by rw [he]; rfl) rfl (carries_uniWrite d _)
/-- A uniform instruction of fixed latency that writes a pair. -/
theorem fix_uni64 {i : Instr} {lat : Nat} {d : RegNo} {f g : Team → DWord} (he : exec i = fun s => uniFixed i lat (fun r => uniWrite64 d (f r)) s)
    (h : ∀ r, f r = g r) : Fixed i fun r => uni64 d (g r) := by
  rw [show f = g from funext h] at he
  intro s t hi
  exact gives_of_fixed hi (body := fun r _ s => .fixed s lat (uniWrite64 d (g r)) 0) (by rw [he]; rfl) rfl (carries_uniWrite64 d _)

end Sys2Proof.Machine
end

