-- ==== Sys2Proof/Tests/Slice0.lean ====
section
/-! SUPPORT. The model's own tests. Words written out from the encodings of the spec decode to their instructions; ill-formed terms are refused;
the worked examples of the spec come out as it says; and for every obligation a `witness_` shows states and operands that meet the hypotheses of
its clauses together. -/

namespace Sys2Proof.Tests
open Sys2Proof Sys2Proof.Machine
set_option Elab.async false

/-- A machine with one lane team, or one `ctl` team, of 32 registers of each file, whose slot is at 0x84. -/
def machine (ctl : Bool) (f : Team → Team) : State :=
  (State.reset.withTeam ctl []).updTeam 0 fun t => f { t with vregs := if ctl then 0 else 32, sregs := 32 }
/-- The lane machine as it starts. -/
def lane : State := machine false id
/-- The `ctl` machine as it starts. -/
def ctl : State := machine true id
/-- The team of a machine. -/
def teamOf (s : State) : Team := s.me.getD (Team.start 0 0 true (Kernel.plain 0 0 none true) 0 0 0)
/-- Every slot of a list issues on a machine and finds room on the scoreboard. -/
def issuesAll (s : State) (is : List Instr) : Bool :=
  s.me.isSome && is.all fun i => decide (slotCheck s.cur i (teamOf s) s = .go) && !s.overfull i

theorem me_teamOf {s : State} (h : s.me.isSome = true) : s.me = some (teamOf s) := by
  unfold teamOf; cases hm : s.me <;> simp_all
theorem issues_of {s : State} {is : List Instr} (h : issuesAll s is = true) :
    ∀ i ∈ is, Issues s (teamOf s) i ∧ s.overfull i = false := by
  intro i hi
  simp only [issuesAll, Bool.and_eq_true, List.all_eq_true, decide_eq_true_eq, Bool.not_eq_true'] at h
  exact ⟨⟨me_teamOf h.1, (h.2 i hi).1⟩, (h.2 i hi).2⟩
/-- A machine on which a slot issues, with what else a clause asks of it. -/
theorem meets {s : State} {i : Instr} (p : Team → Prop) (h : issuesAll s [i] = true) (q : p (teamOf s)) :
    ∃ t, Issues s t i ∧ s.overfull i = false ∧ p t :=
  ⟨teamOf s, (issues_of h i (by simp)).1, (issues_of h i (by simp)).2, q⟩
/-- A pending register 1 of a file, on values. -/
def pending (f : RFile) : State := machine false fun t => { t with pends := [⟨7, f, 1, 1, 1, 0x80, .values [] 0, []⟩] }
/-- Uniform register 2 pending as a future. -/
def future : State := machine false fun t => { t with pends := [⟨7, .s, 2, 1, 6, 0x80, .future, []⟩] }
/-- Uniform register 1 holds 7. -/
def odd : State := machine false fun t => { t with s := [(1, 7)] }
/-- Lane 0 alone has predicate 1. -/
def forking : State := machine false fun t => { t with p := [(1, 1)] }
/-- A level that the running path is in, open with `n` paths; `jset` says whether its join is set, to `join`. -/
def inLevel (n : Nat) (jset : Bool) (join : Word) : State :=
  machine false fun t => { t with level := 0, levels := t.levels.set 0 ⟨true, 7, jset, join, n, 0⟩ }
/-- Half of the lanes are in EX. -/
def half : State := machine false fun t => { t with ex := 0xFFFF }
/-- The team is in its trap handler. -/
def inTrap : State := machine false fun t => { t with tlevel := true }
/-- A context of the lane machine changed. -/
def withContext (s : State) (f : Context → Context) : State := s.updContext 0 f
/-- A debugger on the host holds every right. -/
def debugged : State := withContext lane fun c => { c with regs := c.regs.set 0 (dbg 0) (BitVec.ofNat 64 (2 ^ 62 + 15)) }
/-- The team's grid has the service role. -/
def serving : State := withContext lane fun c => { c with service := some 0 }
/-- The crew of a machine changed. -/
def withCrew (s : State) (f : Crew → Crew) : State := s.updCrew 0 0 f
/-- Barrier 15 of the crew. -/
def withBarrier (b : Barrier) (f : Team → Team) : State :=
  withCrew (machine false f) fun c => { c with barriers := c.barriers.set 15 b }
/-- The hypotheses on the crew of `Obligations.CrewBarriers`. -/
def crewOk (s : State) (b : Barrier) : Bool :=
  let t := teamOf s
  !t.kernel.rollback && (match s.crewOf t with | some cr => cr.rb.wanted == none && cr.barriers[15]? == some b | none => false) &&
  (match s.gangOf t with | some g => !g.kernel.rollback | none => true) && t.slots.all fun p => !p.v
/-- Two lanes, at the addresses `disp` and 0x40 on in pair 2 and the uniform pair 2; pair 4 holds a name, quad 8 two words to compare. -/
def reach : State := machine false fun t => { t with ex := 3, v := [(1024 * 2 + 1, 0x40)] }
/-- The look-ups of the addresses of some elements, and the state with their frames claimed. -/
def sees (s : State) (a : Access) (w : Bool) (ls : List Nat) (addr : Nat → DWord) : List Seen × State :=
  seeAll (teamOf s) a w (ls.map fun l => (l, [addr l])) s
/-- How the address of an element looks. -/
def lookOf (s : State) (a : Access) (w : Bool) (ls : List Nat) (addr : Nat → DWord) (l : Nat) : Looked :=
  match (sees s a w ls addr).1.find? (·.1 == l) with
  | some (_, (_, k) :: _) => k
  | _ => .miss
/-- `Reaches` as a check. -/
def reachesAll (s : State) (a : Access) (w : Bool) (ls : List Nat) (addr : Nat → DWord) (z : Nat) : Bool :=
  decide ((teamOf s).done = 0) && !ls.isEmpty && ls.all (fun l => addrCheck (addr l) z == none) &&
  (sees s a w ls addr).1 == ls.map (fun l => (l, [(addr l, lookOf s a w ls addr l)])) &&
  ls.all (fun l => match lookOf s a w ls addr l with | .ok _ _ => true | .window _ => true | _ => false) && !(teamOf s).kernel.rollback
theorem reaches_of {s : State} {a : Access} {w : Bool} {ls : List Nat} {addr : Nat → DWord} {z : Nat}
    (h : reachesAll s a w ls addr z = true) : ∃ s1 look place, Reaches s s1 (teamOf s) a w ls addr z look place := by
  simp only [reachesAll, Bool.and_eq_true, List.all_eq_true, decide_eq_true_eq, beq_iff_eq, Bool.not_eq_true', List.isEmpty_eq_false_iff] at h
  obtain ⟨⟨⟨⟨⟨h1, h2⟩, h3⟩, h4⟩, h5⟩, h6⟩ := h
  refine ⟨(sees s a w ls addr).2, lookOf s a w ls addr,
    fun l => (placeOf (sees s a w ls addr).2 (lookOf s a w ls addr l)).getD (.reg 0), h1, h2, h3, Prod.ext h4 rfl, fun l hl => ?_, h6⟩
  have := h5 l hl
  generalize lookOf s a w ls addr l = k at this ⊢
  cases k <;> first | rfl | simp at this
/-- A machine whose context has a page table: 1 GiB from address 0 on, at the same physical addresses, in partition 0. -/
def mapped (isCtl : Bool) (f : Team → Team) : State :=
  { machine isCtl f with
    partitions := [(0, ⟨0, [0, 1], [(0, 2 ^ 30)], 1, [], 0, 0, 0, 0, 1, []⟩)]
    translations := []
    mem := [(0x10000, 0x01), (0x10001, 0x10), (0x10002, 0x01), (0x11000, 0x01), (0x11001, 0x20), (0x11002, 0x01), (0x12000, 0x0F)] }
/-- What follows a match on a look-up of a page. -/
def lookedAt (k : Looked) (pa : Nat) : Bool := match k with | .ok q _ => q == pa | _ => false
theorem exists_looked {k : Looked} {pa : Nat} (h : lookedAt k pa = true) : ∃ f, k = .ok pa f := by
  unfold lookedAt at h
  split at h
  · rename_i q f; exact ⟨f, by rw [eq_of_beq h]⟩
  · exact absurd h (by simp)
/-- A machine whose context writes domain 0, of 16 heap slots and a table of 16 lines. -/
def domained (table : SMap Line) (s : State) : State :=
  { withContext s fun c => { c with wdom := some 0 } with domains := [(0, ⟨0, 0, 16, 4, 0, table, [], false⟩)] }
/-- A lane team in a kernel with a `ctl` team, its array as `g` makes it. -/
def arrayed (f : Team → Team) (g : Array → Array) : State :=
  (machine false fun t => f { t with kernel := { t.kernel with hasCtl := true } }).updGang 0 fun x => { x with array := some (g Array.new) }
/-- The `ctl` machine, its array as `g` makes it. -/
def control (g : Array → Array) : State := { ctl.updGang 0 (fun x => { x with array := some (g Array.new) }) with mem := [] }
/-- A context with a section area of 2^6 cells at 0x100000. -/
def sectioned (s : State) : State := withContext s fun c => { c with secBase := 0x100000, secLog := 6 }
/-- The template of a FILL job of 8 bytes to offset 0 of the window, with FLAGS, at 0x2000. -/
def fillMem (flags : Byte) : SMap Byte := [(0x2000, 4), (0x2001, flags), (0x2010, 8), (0x2014, 1), (0x2016, 1), (0x2028, 0xAB)]
/-- A mapped machine with templates at 0x2000. -/
def yard (flags : Byte) : State :=
  let s := mapped false id
  withContext { s with mem := fillMem flags ++ s.mem } fun c => { c with tmpl := 0x2000 }
/-- A machine whose context 0 is `mapped` one: its root at 0x10000, one page of 1 GiB, no frame claimed, no translation held, nothing
poisoned. -/
def identity (s : State) : Bool :=
  s.poison.isEmpty && s.frames.isEmpty && s.translations.isEmpty && (match s.contexts.find 0 with
    | some c => c.configured && !c.terminated && c.root == 0x10000 && c.regva == 0 && (match s.partitions.find c.part with
      | some p => p.ranges == [(0, 2 ^ 30)] | none => false) | none => false) &&
  s.readNat 0x10000 8 == 0x11001 && s.readNat 0x11000 8 == 0x12001 && s.readNat 0x12000 8 == 0xF
theorem lookVia_identity {s : State} {va : Nat} (unit : Option Nat) (a : Access) (h : identity s = true) (ha : va < 2 ^ 30) :
    ∃ f, s.lookVia unit 0 va a = .ok va f := by
  simp only [identity, Bool.and_eq_true, beq_iff_eq, List.isEmpty_iff] at h
  obtain ⟨⟨⟨⟨⟨⟨hp, hf⟩, hr⟩, hc⟩, h1⟩, h2⟩, h3⟩ := h
  cases e : s.contexts.find 0 with
  | none => simp [e] at hc
  | some c =>
    simp only [e, Bool.and_eq_true, Bool.not_eq_true', beq_iff_eq] at hc
    obtain ⟨⟨⟨⟨c1, c2⟩, c3⟩, c4⟩, c5⟩ := hc
    cases g : s.partitions.find c.part with
    | none => simp [g] at c5
    | some p =>
      simp only [g, beq_iff_eq] at c5
      have i : ∀ pa n, pa + n ≤ 2 ^ 30 → s.inRanges 0 pa n = true := by
        intro pa n hn
        simp only [State.inRanges, State.partitionOf, e, g, Partition.spans, c5]
        simpa using hn
      have k0 : va / 2 ^ 48 % 16 = 0 := by omega
      have k1 : va / 2 ^ 39 % 512 = 0 := by omega
      have k2 : va / 2 ^ 30 % 512 = 0 := by omega
      have k3 : va / 2 ^ 30 * 2 ^ 30 = 0 := by omega
      have k4 : va % 2 ^ 30 = va := Nat.mod_eq_of_lt ha
      have w : s.walk 0 va = .page 0 (2 ^ 30) 0 true true 0 0 := by
        unfold State.walk; rw [e]; simp only [c3]
        unfold State.walkFrom; simp only [walkIndex, k0, Nat.mul_zero, Nat.add_zero, h1]
        rw [if_neg (by decide), if_neg (by decide), if_neg (by decide), if_pos (i _ _ (by decide))]
        unfold State.walkFrom; simp only [walkIndex, k1, Nat.mul_zero, Nat.add_zero]
        rw [show 4096 * (BitVec.extractLsb' 12 36 (BitVec.ofNat 64 69633)).toNat = 0x11000 by decide, h2]
        rw [if_neg (by decide), if_neg (by decide), if_neg (by decide), if_pos (i _ _ (by decide))]
        unfold State.walkFrom; simp only [walkIndex, k2, Nat.mul_zero, Nat.add_zero]
        rw [show 4096 * (BitVec.extractLsb' 12 36 (BitVec.ofNat 64 73729)).toNat = 0x12000 by decide, h3]
        rw [if_neg (by decide), if_neg (by decide), if_pos (by decide), if_pos (i _ _ (by rw [k4]; simp; omega)), k3]
        decide
      unfold State.lookVia State.lookWalk
      rw [if_neg (by omega)]
      simp only [State.context?, e, c1, c2, Bool.not_false, Bool.and_self, if_true, Context.inWindow, c4, bne_self_eq_false, Bool.false_and, w, hr,
        List.find?_nil, Option.or_none]
      simp [State.checkPage, pageTrap, hf, SMap.get, frameRule, Translation.phys]
theorem barsVia_identity {s : State} {va n : Nat} (unit : Option Nat) (a : Access) (h : identity s = true) (ha : va + n ≤ 2 ^ 30) :
    s.barsVia unit 0 va n a = none := by
  unfold State.barsVia
  rw [List.findSome?_eq_none_iff]
  intro p hp
  have : p < 2 ^ 30 := by
    unfold pageStarts at hp
    split at hp
    · simp at hp
    · simp only [List.mem_cons, List.mem_map, List.mem_range] at hp
      rcases hp with rfl | ⟨k, hk, rfl⟩ <;> omega
  obtain ⟨f, e⟩ := lookVia_identity unit a h this
  rw [e]
theorem readVia_identity {s : State} (unit : Option Nat) (h : identity s = true) : ∀ n va, va + n ≤ 2 ^ 30 →
    s.readVia unit 0 va n = .ok ((List.range n).map fun k => Memory.read s.mem (va + k))
  | 0, _, _ => rfl
  | n + 1, va, ha => by
    obtain ⟨f, e⟩ := lookVia_identity unit .read h (show va < 2 ^ 30 by omega)
    rw [State.readVia, e]
    simp only [readVia_identity unit h n (va + 1) (by omega), List.range_succ_eq_map, List.map_cons, List.map_map, Nat.add_zero]
    congr 3; funext k; simp [show va + 1 + k = va + (k + 1) by omega]
theorem engineRead_identity {s : State} {va n : Nat} (unit : Option Nat) (h : identity s = true) (ha : va + n ≤ 2 ^ 30) :
    s.engineRead unit 0 va n = .bytes ((List.range n).map fun k => Memory.read s.mem (va + k)) := by
  have hp : s.poison = [] := by simp only [identity, Bool.and_eq_true, List.isEmpty_iff] at h; exact h.1.1.1.1.1.1
  unfold State.engineRead
  rw [barsVia_identity unit .read h ha]
  simp only [readVia_identity unit h n va ha]
  split
  · rename_i k e
    have := List.find?_some e
    simp [State.poisonVia, hp] at this
  · rfl
/-- The number in `n` bytes of a machine's memory. -/
def numAt (s : State) (a n : Nat) : Nat := leNat ((List.range n).map fun k => Memory.read s.mem (a + k))
theorem readHeader_identity {s : State} {kbase : Nat} {h : Header} (hs : identity s = true) (hk : kbase % 128 = 0) (ha : kbase + 128 ≤ 2 ^ 30)
    (hp : parseHeader kbase (numAt s kbase 128) = some h) : s.readHeader 0 kbase = .ok h := by
  unfold State.readHeader
  rw [if_neg (by omega), engineRead_identity none hs ha]
  unfold numAt at hp; simp only [hp]
theorem badHeader_identity {s : State} {kbase : Nat} (hs : identity s = true) (hk : kbase % 128 = 0) (ha : kbase + 128 ≤ 2 ^ 30)
    (hp : parseHeader kbase (numAt s kbase 128) = none) : s.readHeader 0 kbase = .bad := by
  unfold State.readHeader
  rw [if_neg (by omega), engineRead_identity none hs ha]
  unfold numAt at hp; simp only [hp]
theorem exists_header {s : State} {kbase : Nat} {p : Header → Bool} (hs : identity s = true) (hk : kbase % 128 = 0) (ha : kbase + 128 ≤ 2 ^ 30)
    (hp : (parseHeader kbase (numAt s kbase 128)).any p = true) : ∃ h, s.readHeader 0 kbase = .ok h ∧ p h = true := by
  cases e : parseHeader kbase (numAt s kbase 128) with
  | none => simp [e] at hp
  | some h => exact ⟨h, readHeader_identity hs hk ha e, by simpa [e] using hp⟩
theorem mem_of_find {α : Type} {m : SMap α} {k : Nat} {v : α} (h : m.find k = some v) : (k, v) ∈ m := by
  induction m with
  | nil => simp [SMap.find] at h
  | cons x m ih =>
    obtain ⟨j, w⟩ := x
    unfold SMap.find at h
    split at h
    · rename_i e; subst e; cases h; simp
    · exact List.mem_cons_of_mem _ (ih h)
/-- A descriptor slot that is read: the look-up goes through, and the load answers the record. -/
theorem readSlot_ok {s : State} {t : Team} {lane reason n pa : Nat} {handle : Word} {c : Context} (hc : s.contexts.find t.ctx = some c)
    (hk : handle.toNat / 4096 = 0) (h0 : (decide (c.dcount ≤ 0) || c.inWindow (BitVec.ofNat 64 (c.desc + 64 * 0)).toNat) = false)
    (hl : lookedAt (lookFor s t .read false (BitVec.ofNat 64 (c.desc + 64 * 0))) pa = true)
    (hq : ((s.claimOf (lookFor s t .read false (BitVec.ofNat 64 (c.desc + 64 * 0)))).teamLoad t (BitVec.ofNat 64 (c.desc + 64 * 0)) 64
      (lookFor s t .read false (BitVec.ofNat 64 (c.desc + 64 * 0)))).2 = some n) :
    s.readSlot t handle lane reason = .ok (((s.claimOf (lookFor s t .read false (BitVec.ofNat 64 (c.desc + 64 * 0)))).teamLoad t
      (BitVec.ofNat 64 (c.desc + 64 * 0)) 64 (lookFor s t .read false (BitVec.ofNat 64 (c.desc + 64 * 0)))).1, n) := by
  obtain ⟨f, e⟩ := exists_looked hl
  rw [e] at hq ⊢
  unfold State.readSlot
  simp only [hc, hk, h0, e]
  revert hq
  rcases (s.claimOf (.ok pa f)).teamLoad t (BitVec.ofNat 64 (c.desc + 64 * 0)) 64 (.ok pa f) with ⟨s1, o⟩
  rintro q; simp only at q; subst q; rfl
/-- A machine with the piece of an address poisoned. -/
def poisonedAt (s : State) (pa : Nat) : State := { s with poison := [(pa / 16, true)] }
theorem seen_as {x : List Seen × State} {l : List Seen} (h : (x.1 == l) = true) : ∃ s1, x = (l, s1) := ⟨x.2, Prod.ext (eq_of_beq h) rfl⟩
/-- Whether words, with the literals behind them, decode to instructions. -/
def decodes (l : List (Word × Option Word × Instr)) : Bool :=
  l.all fun x => match decode x.1 x.2.1 with | .ok i => decide (i = x.2.2) | .error _ => false
theorem test_decode_lane_arithmetic : decodes
    [(0x00104020, none, .iadd 8 16 (.reg 4)),
     (0x01104021, none, .isub 8 16 (.uni 4)),
     (0x02104002, some 0x12345678, .imul 8 16 (.lit 0x12345678)),
     (0x03104027, some 0x251, .imulhi 8 16 (.pat 4 0x251) true),
     (0x04104020, none, .imac 8 16 (.reg 4)),
     (0x05104025, none, .imin 8 16 (.uni 4) true),
     (0x06104006, some 0x12345678, .imax 8 16 (.lit 0x12345678) true),
     (0x07104027, some 0x251, .iabsd 8 16 (.pat 4 0x251) true),
     (0x08104024, none, .iaddsat 8 16 (.reg 4) true),
     (0x09104025, none, .isubsat 8 16 (.uni 4) true),
     (0x0A104002, some 0x12345678, .and 8 16 (.lit 0x12345678)),
     (0x0B104023, some 0x251, .or 8 16 (.pat 4 0x251)),
     (0x0C104020, none, .xor 8 16 (.reg 4)),
     (0x0D104021, none, .andn 8 16 (.uni 4)),
     (0x0E104002, some 0x12345678, .shl 8 16 (.lit 0x12345678)),
     (0x0F104023, some 0x251, .shr 8 16 (.pat 4 0x251)),
     (0x10104020, none, .sar 8 16 (.reg 4)),
     (0x11104000, none, .popc 8 16),
     (0x12104000, none, .clz 8 16),
     (0x13104000, none, .brev 8 16),
     (0x14104025, none, .bfx 8 16 (.uni 4) true),
     (0x15104002, some 0x12345678, .bfi 8 16 (.lit 0x12345678)),
     (0x161043FD, none, .iaddi 8 16 0x3FD)] = true := by decide +kernel
theorem test_decode_lane_moves_and_fp : decodes
    [(0x1711FFF3, none, .movi 8 0x1FFF3),
     (0x18100023, some 0x251, .mov 8 (.pat 4 0x251)),
     (0x19104020, none, .sel 8 16 4),
     (0x1A104024, none, .lea 8 16 (.reg 4) true),
     (0x1B104025, none, .icmp 8 16 (.reg 4) 5),
     (0x20104025, none, .fadd 8 16 (.uni 4) true),
     (0x21104006, some 0x12345678, .fsub 8 16 (.lit 0x12345678) true),
     (0x22104027, some 0x251, .fmul 8 16 (.pat 4 0x251) true),
     (0x23104024, none, .ffma 8 16 (.reg 4) true),
     (0x24104025, none, .fmin 8 16 (.uni 4) true),
     (0x25104006, some 0x12345678, .fmax 8 16 (.lit 0x12345678) true),
     (0x26104027, some 0x251, .fminnm 8 16 (.pat 4 0x251) true),
     (0x27104024, none, .fmaxnm 8 16 (.reg 4) true),
     (0x28104005, some 0x12345678, .fcmp 8 16 (.lit 0x12345678) 5),
     (0x29104000, none, .frcp 8 16),
     (0x2A104000, none, .frsq 8 16),
     (0x2B104000, none, .fsqrt 8 16),
     (0x2C104000, none, .fex2 8 16),
     (0x2D104000, none, .flg2 8 16),
     (0x2E104000, none, .fsin 8 16),
     (0x2F104000, none, .fcos 8 16),
     (0x30104000, none, .fclass 8 16),
     (0x31104025, none, .pkadd 8 16 (.uni 4) true)] = true := by decide +kernel
theorem test_decode_fp_and_narrow : decodes
    [(0x32104006, some 0x12345678, .pkmul 8 16 (.lit 0x12345678) true),
     (0x33104027, some 0x251, .pkfma 8 16 (.pat 4 0x251) true),
     (0x34104024, none, .pkbfma 8 16 (.reg 4) true),
     (0x35104025, none, .pkdot 8 16 (.uni 4) true),
     (0x36104006, some 0x12345678, .dadd 8 16 (.lit 0x12345678) true),
     (0x37104027, some 0x251, .dmul 8 16 (.pat 4 0x251) true),
     (0x38104024, none, .dfma 8 16 (.reg 4) true),
     (0x39104025, none, .dcmp 8 16 (.reg 4) 5),
     (0x3A104002, some 0x20, .cvt 8 16 0x20),
     (0x40104021, none, .tdec 8 16 (.uni 4)),
     (0x41104002, some 0x12345678, .tenc 8 16 (.lit 0x12345678)),
     (0x42104023, some 0x251, .npack 8 16 (.pat 4 0x251)),
     (0x43104020, none, .nunpk 8 16 (.reg 4)),
     (0x44104021, none, .fxq 8 16 (.uni 4)),
     (0x45104002, some 0x12345678, .fxdq 8 16 (.lit 0x12345678)),
     (0x48104002, some 0x4D, .shfl 8 16 (.lit 77)),
     (0x49104021, none, .lred 8 16 4 true),
     (0x4A104023, none, .lscan 8 16 4 true true),
     (0x4B104001, none, .matchv 8 16 true),
     (0x4C104000, none, .pset 8 16),
     (0x4D104025, none, .plog 8 16 4 5),
     (0x4E104000, none, .pmov 8 16),
     (0x50104000, none, .qpush 8 16)] = true := by decide +kernel
theorem test_decode_lane_exchange_and_loads : decodes
    [(0x51104000, none, .qpop 8 16),
     (0x52004022, some 0x20, .trc 16 4 0x20),
     (0x53104020, none, .oenter 8 16 4),
     (0x54004000, none, .oleave 16),
     (0x55004020, none, .oskip 16 4),
     (0x58104000, none, .scq 8 16),
     (0x59004020, none, .scfill 16 4),
     (0x5A004000, none, .scinv 16),
     (0x5C1043FD, none, .ld8 8 16 0x3FD),
     (0x5D1043FD, none, .ld16 8 16 0x3FD),
     (0x5E1043FD, none, .ld32 8 16 0x3FD),
     (0x5F1043FD, none, .ld64 8 16 0x3FD),
     (0x601043FD, none, .ld128 8 16 0x3FD),
     (0x611043FD, none, .st8 8 16 0x3FD),
     (0x621043FD, none, .st16 8 16 0x3FD),
     (0x631043FD, none, .st32 8 16 0x3FD),
     (0x641043FD, none, .st64 8 16 0x3FD),
     (0x651043FD, none, .st128 8 16 0x3FD),
     (0x661043FD, none, .lds32 8 16 0x3FD),
     (0x671043FD, none, .lds64 8 16 0x3FD),
     (0x681043FD, none, .lds128 8 16 0x3FD),
     (0x691043FD, none, .sts32 8 16 0x3FD),
     (0x6A1043FD, none, .sts64 8 16 0x3FD)] = true := by decide +kernel
theorem test_decode_lane_memory_and_atomics : decodes
    [(0x6B1043FD, none, .sts128 8 16 0x3FD),
     (0x6C1043FD, none, .ldf 8 16 0x3FD),
     (0x6D1043FD, none, .ste 8 16 0x3FD),
     (0x6E1043FD, none, .ldfk 8 16 0x3FD),
     (0x6F1043FD, none, .ldc 8 16 0x3FD),
     (0x70104021, none, .smp 8 16 4),
     (0x71104023, some 0x251, .cpa 8 16 (.pat 4 0x251)),
     (0x72104C05, some 0x12345678, .atadd 8 9 true (.lit 0x12345678) 5),
     (0x73104C25, none, .atmin 8 9 true (.reg 4) 5),
     (0x74104C05, some 0x12345678, .atmax 8 9 true (.lit 0x12345678) 5),
     (0x75104C25, none, .atand 8 9 true (.reg 4) 5),
     (0x76104C05, some 0x12345678, .ator 8 9 true (.lit 0x12345678) 5),
     (0x77104C25, none, .atxor 8 9 true (.reg 4) 5),
     (0x78104C05, some 0x12345678, .atxch 8 9 true (.lit 0x12345678) 5),
     (0x79104C25, none, .atcas 8 9 true 4 5),
     (0x7A104C25, none, .atfadd 8 9 true (.reg 4) 5),
     (0x7B104C05, some 0x12345678, .atfmin 8 9 true (.lit 0x12345678) 5),
     (0x7C104C25, none, .atfmax 8 9 true (.reg 4) 5),
     (0x7D004C05, some 0x12345678, .redadd 9 true (.lit 0x12345678) 5),
     (0x7E004C25, none, .redfadd 9 true (.reg 4) 5),
     (0x80104020, none, .sadd 8 16 (.reg 4)),
     (0x81104002, some 0x12345678, .ssub 8 16 (.lit 0x12345678)),
     (0x82104020, none, .smul 8 16 (.reg 4))] = true := by decide +kernel
theorem test_decode_uniform_alu : decodes
    [(0x83104006, some 0x12345678, .smulhi 8 16 (.lit 0x12345678) true),
     (0x84104020, none, .sand 8 16 (.reg 4)),
     (0x85104002, some 0x12345678, .sor 8 16 (.lit 0x12345678)),
     (0x86104020, none, .sxor 8 16 (.reg 4)),
     (0x87104002, some 0x12345678, .sandn 8 16 (.lit 0x12345678)),
     (0x88104020, none, .sshl 8 16 (.reg 4)),
     (0x89104002, some 0x12345678, .sshr 8 16 (.lit 0x12345678)),
     (0x8A104020, none, .ssar 8 16 (.reg 4)),
     (0x8B104006, some 0x12345678, .smin 8 16 (.lit 0x12345678) true),
     (0x8C104024, none, .smax 8 16 (.reg 4) true),
     (0x8D104000, none, .spopc 8 16),
     (0x8E104000, none, .sclz 8 16),
     (0x8F104006, some 0x12345678, .sbfx 8 16 (.lit 0x12345678) true),
     (0x90104020, none, .sbfi 8 16 (.reg 4)),
     (0x911043FD, none, .saddi 8 16 0x3FD),
     (0x9211FFF3, none, .smovi 8 0x1FFF3),
     (0x93100002, some 0x12345678, .smov 8 (.lit 0x12345678)),
     (0x94104020, none, .ssel 8 16 4),
     (0x95104005, some 0x12345678, .scmp 8 16 (.lit 0x12345678) 5),
     (0x96104024, none, .slea 8 16 (.reg 4) true),
     (0xA01043FD, none, .sld32 8 16 0x3FD),
     (0xA11043FD, none, .sld64 8 16 0x3FD),
     (0xA21043FD, none, .sst32 8 16 0x3FD)] = true := by decide +kernel
theorem test_decode_uniform_memory_and_masks : decodes
    [(0xA31043FD, none, .sst64 8 16 0x3FD),
     (0xA41043FD, none, .sldc 8 16 0x3FD),
     (0xA5104C25, none, .satadd 8 9 true (.reg 4) 5),
     (0xA6104C25, none, .satcas 8 9 true 4 5),
     (0xA7104C05, some 0x12345678, .satxch 8 9 true (.lit 0x12345678) 5),
     (0xA8104C05, none, .sldaq 8 9 true 5),
     (0xA9104C05, none, .sstrl 8 9 true 5),
     (0xB0004000, none, .exset 16),
     (0xB1004000, none, .exand 16),
     (0xB2004000, none, .exandn 16),
     (0xB3100000, none, .exsave 8),
     (0xB4000000, none, .exall),
     (0xB5100000, none, .excnt 8),
     (0xB6104000, none, .exany 8 16),
     (0xB7104020, none, .pballot 8 16 (.imm 4)),
     (0xB8104021, none, .pfill 8 16 (.uni 4)),
     (0xB9104020, none, .sget 8 16 (.imm 4)),
     (0xBA11FFF3, none, .fork 8 0x1FFF3),
     (0xBBFFFFF3, none, .pend 0xFFFFF3),
     (0xBC000000, none, .yld),
     (0xC0FFFFF3, none, .bra 0xFFFFF3),
     (0xC111FFF3, none, .brz 8 0x1FFF3),
     (0xC211FFF3, none, .brnz 8 0x1FFF3)] = true := by decide +kernel
theorem test_decode_flow_and_synchronisation : decodes
    [(0xC3FFFFF3, none, .brex 0xFFFFF3),
     (0xC4FFFFF3, none, .brnex 0xFFFFF3),
     (0xC511FFF3, none, .call 8 0x1FFF3),
     (0xC6004000, none, .ret 16),
     (0xC7004000, none, .jmp 16),
     (0xC8000000, none, .exit),
     (0xC900ABCD, none, .trap 0xABCD),
     (0xCA000000, none, .brk),
     (0xD0004000, none, .bar 16),
     (0xD1104020, none, .barrv 8 16 4),
     (0xD2004000, none, .barw 16),
     (0xD3004002, some 0x12345678, .barpend 16 (.lit 0x12345678)),
     (0xD4000005, none, .fence 5),
     (0xD500000B, none, .pfence 0xB),
     (0xD6104020, none, .wait 8 16 4),
     (0xD7000000, none, .ctcommit),
     (0xD8000020, none, .ctwait 4),
     (0xD9104000, none, .fwait 8 16),
     (0xDA104000, none, .ftest 8 16),
     (0xDB104000, none, .fcancel 8 16),
     (0xE0104020, none, .job 8 16 4),
     (0xE1104020, none, .spawn 8 16 4),
     (0xE2004000, none, .scframe 16)] = true := by decide +kernel
theorem test_decode_engines_content_system : decodes
    [(0xE3004000, none, .mfmt 16),
     (0xE4104000, none, .wbld 8 16),
     (0xE5104021, none, .mma 8 16 (.uni 4)),
     (0xE6100000, none, .mzero 8),
     (0xE7100000, none, .mdrain 8),
     (0xE8000020, none, .mburst (.imm 4)),
     (0xE9100000, none, .mwait 8),
     (0xF0104000, none, .chash 8 16),
     (0xF1104000, none, .cput 8 16),
     (0xF2004020, none, .cget 16 4),
     (0xF3004000, none, .cref 16),
     (0xF4004000, none, .cdrop 16),
     (0xF5104025, none, .cswap 8 16 4 5),
     (0xF8100020, none, .srd 8 4),
     (0xF9004020, none, .swr 16 4),
     (0xFA000000, none, .nop),
     (0xFB000000, none, .rtt)] = true := by decide +kernel
/-- The words of the worked encodings of spec/02, spec/05, spec/07, spec/08 and spec/09. -/
theorem test_decode_worked_words : decodes
    [(0x000A0C21, none, .iadd 5 3 (.uni 4)), (0x220C1402, some 0x40000000, .fmul 6 5 (.lit 0x40000000) false),
     (0x08122406, some 0xFFFFFFF0, .iaddsat 9 9 (.lit 0xFFFFFFF0) true), (0x4A0A1002, none, .lscan 5 4 0 false true),
     (0x480E1803, some 0x10, .shfl 7 6 (.pat 0x10)), (0x5E0A2010, none, .ld32 5 8 16), (0x720C5002, some 1, .atadd 6 10 false (.lit 1) 2),
     (0x50002000, none, .qpush 0 8), (0x51121000, none, .qpop 9 4), (0x530850B0, none, .oenter 4 20 22), (0x583C5000, none, .scq 30 20),
     (0x95061C06, some 0x64, .scmp 3 7 (.lit 0x64) 6), (0x8F081406, some 0x808, .sbfx 4 5 (.lit 0x808) true),
     (0xA8085005, none, .sldaq 4 10 false 5), (0xB1000400, none, .exand 1), (0xB70A0C08, none, .pballot 5 3 (.imm 1)),
     (0xB9121002, some 0x82, .sget 9 4 (.lit 0x82))] = true := by decide +kernel
/-- The bundle that spec/02 builds up at 0x0240: its bytes, its control word and the instruction of slot 2 with its literal. -/
theorem test_worked_bundle :
    let b := BitVec.ofNat 128 (leNat [0x00, 0x00, 0x30, 0x22, 0x21, 0x0C, 0x0A, 0x00, 0x02, 0x14, 0x0C, 0x22, 0x00, 0x00, 0x00, 0x40])
    Control.ofWord (bundleWord b 0) = ⟨0, 0b100, 4, 6, 0, 0, 0⟩ ∧
      decodes [(bundleWord b 2, slotLit b (Control.ofWord (bundleWord b 0)) 2, .fmul 6 5 (.lit 0x40000000) false)] = true := by decide +kernel
/-- A team of 32 lanes, the lanes of `ex` active, with vector registers. -/
def withLanes (ex : Mask) (v : SMap Word) : State := machine false fun t => { t with ex := ex, v := v }
/-- A register of a lane, and FSTAT, after a slot has completed and what it waits for has arrived. -/
def result (s : State) (i : Instr) (file : RFile) (n l : Nat) : Option (Word × BitVec 5) :=
  match exec i s with
  | .next s' =>
    match s'.teams.find s'.cur with
    | some t =>
      let x := t.pends.foldl (fun (x : Team × BitVec 5) p => match p.data with | .values ws f => (x.1.puts ws, x.2 ||| f) | _ => x) (t, t.fstat)
      some (x.1.reg file n l, x.2)
    | none => none
  | _ => none
/-- A value in register 1, one in register 2 and one in register 3 of lane 0. -/
def three (x y z : Word) : State := withLanes 1 [(1024, x), (2048, y), (3072, z)]
/-- spec/05: `iadd v3, v3, v3.up(1)` with v3 = 1, 2, 3, 4. -/
theorem test_iadd_up : (List.range 4).map (fun l => (result (withLanes 0xF [(3072, 1), (3073, 2), (3074, 3), (3075, 4)]) (.iadd 3 3 (.pat 3 0x11)) .v 3 l).map (·.1)) =
    [some 2, some 3, some 5, some 7] := by decide +kernel
/-- spec/05: fields of 0xF2345678. -/
theorem test_bfx : [0x0808, 0x081C].map (fun c => (result (three 0xF2345678 0 0) (.bfx 3 1 (.lit c) true) .v 3 0).map (·.1)) = [some 0x56, some 0xF] ∧
    (result (three 0xF2345678 0 0) (.bfx 3 1 (.lit 0x081C) false) .v 3 0).map (·.1) = some 0xFFFFFFFF ∧
    (result (three 0xA5 0 0) (.bfi 3 1 (.lit 0x081C)) .v 3 0).map (·.1) = some 0x50000000 := by decide +kernel
/-- spec/05: the two rows of `lred` with fadd; FSTAT has inexact (bit 4) in the first alone. -/
theorem test_lred : result (withLanes 0xF [(4096, 0x4CBEBC20), (4097, 0x3F800000), (4098, 0xCCBEBC20), (4099, 0x3F800000)]) (.lred 5 4 8 false) .v 5 0 =
      some (0, 16) ∧
    result (withLanes 0xF [(4096, 0x4CBEBC20), (4097, 0xCCBEBC20), (4098, 0x3F800000), (4099, 0x3F800000)]) (.lred 5 4 8 false) .v 5 0 =
      some (0x40000000, 0) := by decide +kernel
/-- spec/05: the inclusive and the exclusive scan of 3, 1, 4, 1, 5, 9 with lane 2 outside EX. -/
theorem test_lscan : [false, true].map (fun e => [0, 1, 3, 4, 5].map fun l => (result (withLanes 0x3B [(4096, 3), (4097, 1), (4098, 4), (4099, 1), (4100, 5), (4101, 9)])
      (.lscan 5 4 0 false e) .v 5 l).map (·.1)) =
    [[some 3, some 4, some 5, some 10, some 19], [some 0, some 3, some 4, some 5, some 10]] := by decide +kernel
/-- spec/06: one rounding of `ffma`, two of `fmul` and `fadd`. -/
theorem test_ffma : result (three 0x3F800800 0x3F800800 0xBF801000) (.ffma 3 1 (.reg 2) false) .v 3 0 = some (0x33800000, 0) ∧
    result (three 0x3F800800 0x3F800800 0) (.fmul 3 1 (.reg 2) false) .v 3 0 = some (0x3F801000, 16) := by decide +kernel
/-- spec/06: exact and inexact special functions. -/
theorem test_special : result (three 0x40800000 0 0) (.fsqrt 3 1) .v 3 0 = some (0x40000000, 0) ∧
    result (three 0x3E800000 0 0) (.frcp 3 1) .v 3 0 = some (0x40800000, 0) ∧ result (three 0x41000000 0 0) (.flg2 3 1) .v 3 0 = some (0x40400000, 0) ∧
    result (three 0x3F000000 0 0) (.fex2 3 1) .v 3 0 = some (0x3FB504F3, 16) ∧ result (three 0x3E800000 0 0) (.fsin 3 1) .v 3 0 = some (0x3F800000, 0) ∧
    result (three 0x3E800000 0 0) (.fcos 3 1) .v 3 0 = some (0, 0) ∧ result (three 0xBF000000 0 0) (.fsin 3 1) .v 3 0 = some (0x80000000, 0) := by decide +kernel
/-- spec/06: the worked conversions. -/
theorem test_cvt : ([(0x3F808000, 0x20, 0x3F80, 16), (0x3F808000, 0x220, 0x3F81, 16), (0xC0200000, 0x40, 0xFFFFFFFE, 16), (0xC0200000, 0x340, 0xFFFFFFFD, 16),
    (0x4F32D05E, 0x40, 0x7FFFFFFF, 1), (0xBF800000, 0x50, 0, 1), (0x01000001, 0x04, 0x4B800000, 16)] : List (Word × Word × Word × BitVec 5)).all
      (fun x => result (three x.1 0 0) (.cvt 3 1 x.2.1) .v 3 0 == some (x.2.2.1, x.2.2.2)) = true := by decide +kernel
/-- spec/06: scaled TF8 and TF6 codes of 2.4 and 5.0, and the values of two codes. -/
theorem test_narrow : result (three 0x4019999A 0 0) (.tenc 3 1 (.lit 0x300)) .v 3 0 = some (0x23, 16) ∧
    result (three 0x40A00000 0 0) (.tenc 3 1 (.lit 1)) .v 3 0 = some (0x1C, 16) ∧
    result (three 0x23 0 0) (.tdec 3 1 (.lit 0x300)) .v 3 0 = some (0x40180000, 0) ∧
    (result (three 0x7F 0 0) (.tdec 3 1 (.lit 0x7500)) .v 3 0).map (·.1) = some 0x7F800000 ∧
    (result (three 0x44332211 0 0) (.nunpk 3 1 (.lit 0)) .v 3 0).map (·.1) = some 0x3311 ∧
    (result (three 0x3311 0x4422 0) (.npack 3 1 (.reg 2)) .v 3 0).map (·.1) = some 0x44332211 := by decide +kernel
/-- spec/06 and spec/03: fixed point at e = -4. -/
theorem test_fixed_point : result (three 0x3DC00000 0 0) (.fxq 4 1 (.lit 0xFFFFFFFC)) .v 4 0 = some (2, 16) ∧
    result (withLanes 1 [(2048, 2)]) (.fxdq 4 2 (.lit 0xFFFFFFFC)) .v 4 0 = some (0x3E000000, 0) := by decide +kernel
/-- spec/16: the probes of the keys 1 and 2 in an area of 2^10 cells. -/
theorem test_probes : sectProbes 1 10 = [632, 633, 634, 635, 636, 637, 638, 639] ∧ (sectProbes 2 10).headD 0 = 241 := by decide +kernel
/-- spec/11: the indices of the walk of 0x512345678ABCDE740's levels. -/
theorem test_walk_indices : [0, 1, 2, 3, 4].map (fun n => (walkIndex 0x51234ABCDE740 n false).1) = [5, 36, 210, 350, 222] ∧
    (walkIndex 0x51234ABCDE740 4 true).1 = 13 := by decide +kernel
/-- spec/24: a channel whose LASTACC is 102 takes command 103 alone. -/
theorem test_sequence : (seqDist 103 102, seqDist 102 102, seqDist 0 0xFFFFFFFF) = (1, 0, 1) := by decide
/-- R498, R506: memory after reset is in canonical form, and MGT_PLIM reads 3000. -/
theorem test_reset : Memory.wf State.reset.mem = true ∧ State.reset.mgtReg 0x10 = 3000 := by decide
/-- R248: the digest of the three bytes 0x61, 0x62, 0x63, as FIPS 180-4, which defines SHA-256, works it out. -/
theorem test_sha256 : sha256 [0x61, 0x62, 0x63] =
    [0xBA7816BF, 0x8F01CFEA, 0x414140DE, 0x5DAE2223, 0xB00361A3, 0x96177A9C, 0xB410FF61, 0xF20015AD] := by decide +kernel
/-- R132: `sel` writes the active lanes whose predicate is 1 and no other. -/
theorem test_sel : (match exec (.sel 3 1 2) (machine false fun t => { t with ex := 3, p := [(2, 2)], v := [(1025, 9)] }) with
    | .next s' => (teamOf s').inflight.map fun x => (x.n, x.old, (teamOf s').reg .v 3 1)
    | _ => []) = [(3, [(1, 0)], 9)] := by decide +kernel
theorem witness_LaneArithmetic : ∀ i ∈ ([.iadd 3 1 (.reg 2), .isub 3 1 (.uni 2), .imul 3 1 (.lit 7), .imulhi 3 1 (.pat 2 1) true,
    .imac 3 1 (.pat 2 9), .imin 3 1 (.reg 2) true, .imax 3 1 (.reg 2) false, .iabsd 31 31 (.reg 31) true, .iaddsat 3 3 (.reg 3) false,
    .isubsat 0 0 (.reg 0) true] : List Instr), Issues lane (teamOf lane) i ∧ lane.overfull i = false := issues_of (by decide +kernel)
theorem witness_LaneLogic : ∀ i ∈ ([.and 3 1 (.reg 2), .or 3 1 (.uni 2), .xor 3 1 (.lit 7), .andn 3 1 (.pat 2 9), .shl 3 1 (.lit 33),
    .shr 3 1 (.lit 32), .sar 3 1 (.lit 0x80000000)] : List Instr), Issues lane (teamOf lane) i ∧ lane.overfull i = false :=
  issues_of (by decide +kernel)
theorem witness_LaneMoves : ∀ i ∈ ([.popc 3 1, .clz 3 1, .brev 3 1, .bfx 3 1 (.lit 0x81C) true, .bfi 3 1 (.reg 2), .iaddi 3 1 0x200,
    .movi 3 0x10000, .mov 3 (.pat 2 9), .sel 3 1 127, .lea 4 2 (.reg 1) true, .icmp 127 1 (.reg 2) 7] : List Instr),
    Issues lane (teamOf lane) i ∧ lane.overfull i = false := issues_of (by decide +kernel)
theorem witness_LaneExchange : ∀ i ∈ ([.shfl 3 1 (.pat 1), .shfl 3 1 (.pat 9), .shfl 3 1 (.reg 2), .shfl 3 1 (.uni 2), .shfl 3 1 (.lit 1023),
    .lred 3 1 10 false, .lred 3 1 5 true, .lscan 3 1 0 true true, .matchv 3 1 false, .pset 3 1, .pmov 3 1, .plog 3 1 2 7] : List Instr),
    Issues lane (teamOf lane) i ∧ lane.overfull i = false := issues_of (by decide +kernel)
theorem witness_LaneFloat : ∀ i ∈ ([.fadd 3 1 (.reg 2) true, .fsub 3 1 (.pat 2 9) false, .fmul 3 1 (.uni 2) true, .ffma 3 1 (.lit 7) false,
    .fmin 3 1 (.reg 2) true, .fmax 3 1 (.reg 2) false, .fminnm 3 1 (.reg 2) true, .fmaxnm 3 1 (.reg 2) false, .fcmp 3 1 (.reg 2) 6,
    .fclass 3 1, .frcp 3 1, .frsq 3 1, .fsqrt 3 1, .fex2 3 1, .flg2 3 1, .fsin 3 1, .fcos 3 1] : List Instr),
    Issues lane (teamOf lane) i ∧ lane.overfull i = false := issues_of (by decide +kernel)
theorem witness_LanePacked : (∀ i ∈ ([.pkadd 3 1 (.reg 2) true, .pkmul 3 1 (.pat 2 9) false, .pkfma 3 1 (.uni 2) true, .pkbfma 3 1 (.lit 7) false,
    .pkdot 3 1 (.reg 2) true, .dadd 4 2 (.reg 6) true, .dmul 4 2 (.lit 7) false, .dfma 4 2 (.uni 6) true, .dcmp 3 2 (.reg 6) 5,
    .cvt 3 1 0x05, .cvt 4 1 0x60, .cvt 3 2 0x43, .cvt 4 2 0x63, .cvt 4 1 0x30] : List Instr),
    Issues lane (teamOf lane) i ∧ lane.overfull i = false) ∧
    cvtWidth ((0x05 : Word).extractLsb' 4 4) = 1 ∧ cvtWidth ((0x60 : Word).extractLsb' 4 4) = 2 ∧ (0x43 : Word).extractLsb' 0 4 = 3#4 ∧
    cvtWidth ((0x43 : Word).extractLsb' 4 4) = 1 ∧ cvtWidth ((0x63 : Word).extractLsb' 4 4) = 2 ∧ (0x30 : Word).extractLsb' 4 4 = 3#4 :=
  ⟨issues_of (by decide +kernel), by decide⟩
theorem witness_LaneNarrow : ∀ i ∈ ([.tdec 3 1 (.lit 0x8001), .tenc 3 1 (.reg 2), .npack 3 1 (.uni 2), .nunpk 3 1 (.pat 2 9), .fxq 4 1 (.reg 2),
    .fxdq 3 2 (.reg 1)] : List Instr), Issues lane (teamOf lane) i ∧ lane.overfull i = false := issues_of (by decide +kernel)
theorem witness_FloatFormats : (fp32.num 0x3F800000).isNan = false ∧ (fp32.num 0x7F800001).isNan = true ∧ (0x7F800001 : Nat) < 2 ^ fp32.width := by
  decide +kernel
theorem witness_UniformAlu : (∀ i ∈ ([.sadd 3 1 (.reg 2), .ssub 3 1 (.lit 2), .smul 3 1 (.reg 2), .smulhi 3 1 (.reg 2) true, .smin 3 1 (.reg 2) false,
    .smax 3 1 (.reg 2) true, .saddi 3 1 0x1FF, .smovi 3 0xFFFF, .slea 4 2 (.reg 1) false, .ssel 3 1 2, .scmp 3 1 (.lit 100) 6,
    .sand 3 1 (.reg 2), .sor 3 1 (.reg 2), .sxor 3 1 (.reg 2), .sandn 3 1 (.reg 2), .sshl 3 1 (.lit 32), .sshr 3 1 (.lit 31),
    .ssar 3 1 (.lit 33), .sbfx 3 1 (.reg 2) true, .sbfi 3 1 (.reg 2), .spopc 3 1, .sclz 3 1, .smov 3 (.lit 7), .smov 3 (.reg 2)] : List Instr),
    Issues lane (teamOf lane) i ∧ lane.overfull i = false) ∧ (teamOf lane).pendOf .s 2 = none ∧
    ∃ t, Issues future t (.smov 3 (.reg 2)) ∧ future.overfull (.smov 3 (.reg 2)) = false ∧
      ∃ p, t.pendOf .s 2 = some p ∧ p.isFuture = true :=
  ⟨issues_of (by decide +kernel), rfl, meets _ (by decide +kernel) ⟨_, rfl, rfl⟩⟩
theorem witness_Masks : (∀ i ∈ ([.exset 1, .exand 1, .exandn 1, .exall, .yld, .exsave 3, .excnt 3, .exany 3 1, .pballot 3 1 (.imm 31),
    .pfill 3 1 (.uni 2), .sget 3 1 (.lit 1023)] : List Instr), Issues lane (teamOf lane) i ∧ lane.overfull i = false) ∧
    (teamOf lane).pendOf .v 1 = none ∧ ∃ t, Issues (pending .v) t (.sget 3 1 (.imm 0)) ∧ (pending .v).overfull (.sget 3 1 (.imm 0)) = false ∧
      ∃ p, t.pendOf .v 1 = some p := ⟨issues_of (by decide +kernel), rfl, meets _ (by decide +kernel) ⟨_, rfl⟩⟩
theorem witness_Branches : (∀ i ∈ ([.bra 0xFFFFFF, .brz 1 0x10000, .brnz 1 0x10000, .brex 0, .brnex 0, .call 3 4, .ret 1, .jmp 1] : List Instr),
    Issues lane (teamOf lane) i ∧ lane.overfull i = false) ∧
    ((teamOf lane).viewAt lane.clk).S 1 = 0 ∧ ∃ t, Issues odd t (.ret 1) ∧ (t.viewAt odd.clk).S 1 = 7 ∧ Issues odd t (.jmp 1) :=
  ⟨issues_of (by decide +kernel), by decide +kernel, ⟨teamOf odd, (issues_of (is := [.ret 1]) (by decide +kernel) _ (by simp)).1, by decide +kernel,
    (issues_of (is := [.jmp 1]) (by decide +kernel) _ (by simp)).1⟩⟩
theorem witness_Paths : (∃ t, Issues forking t (.fork 1 4) ∧ forking.overfull (.fork 1 4) = false ∧
      t.levels.findIdx? (fun l => !l.opened) = some 0 ∧ t.slots.findIdx? (fun p => !p.v) = some 0 ∧ (t.viewAt forking.clk).P 1 &&& t.ex ≠ 0) ∧
    (∃ t, Issues lane t (.fork 1 4) ∧ lane.overfull (.fork 1 4) = false ∧
      t.levels.findIdx? (fun l => !l.opened) = some 0 ∧ (t.viewAt lane.clk).P 1 &&& t.ex = 0) ∧
    (∃ t, Issues (machine false fun t => { t with levels := t.levels.map fun l => { l with opened := true } }) t (.fork 1 4) ∧
      (machine false fun t => { t with levels := t.levels.map fun l => { l with opened := true } }).overfull (.fork 1 4) = false ∧
      t.levels.findIdx? (fun l => !l.opened) = none) ∧
    (∃ t, Issues (machine false fun t => { t with p := [(1, 1)], slots := t.slots.map fun p => { p with v := true } }) t (.fork 1 4) ∧
      (machine false fun t => { t with p := [(1, 1)], slots := t.slots.map fun p => { p with v := true } }).overfull (.fork 1 4) = false ∧
      t.slots.findIdx? (fun p => !p.v) = none ∧ (t.viewAt 0).P 1 &&& t.ex ≠ 0) ∧
    (∃ t, Issues (inLevel 1 true 0xC0) t (.pend 4) ∧ (inLevel 1 true 0xC0).overfull (.pend 4) = false ∧ ∃ lv, t.levels[t.level]? = some lv ∧
      (lv.jset = true → lv.join = bundleOf t.pc + 16 * (4 : BitVec 24).signExtend 32) ∧ lv.n = 1) ∧
    (∃ t, Issues (inLevel 1 true 0xD0) t (.pend 4) ∧ (inLevel 1 true 0xD0).overfull (.pend 4) = false ∧ ∃ lv, t.levels[t.level]? = some lv ∧
      lv.jset = true ∧ lv.join ≠ bundleOf t.pc + 16 * (4 : BitVec 24).signExtend 32) ∧
    (∃ t, Issues (inLevel 2 false 0) t (.pend 4) ∧ (inLevel 2 false 0).overfull (.pend 4) = false ∧ ∃ lv, t.levels[t.level]? = some lv ∧
      (lv.jset = true → lv.join = bundleOf t.pc + 16 * (4 : BitVec 24).signExtend 32) ∧ 2 ≤ lv.n ∧ ∀ p ∈ t.slots, p.v = false) :=
  ⟨meets _ (by decide +kernel) (by decide +kernel), meets _ (by decide +kernel) (by decide +kernel), meets _ (by decide +kernel) (by decide +kernel),
    meets _ (by decide +kernel) (by decide +kernel), meets _ (by decide +kernel) ⟨_, rfl, by decide, rfl⟩,
    meets _ (by decide +kernel) ⟨_, rfl, rfl, by decide⟩, meets _ (by decide +kernel) ⟨_, rfl, by decide, by decide, by decide +kernel⟩⟩
theorem witness_Endings : (∃ t, Issues half t .exit ∧ half.overfull .exit = false ∧ t.saving = false ∧ t.live &&& ~~~t.ex ≠ 0) ∧
    (∃ t, Issues lane t .exit ∧ lane.overfull .exit = false ∧ t.saving = false ∧ t.live &&& ~~~t.ex = 0 ∧ t.sectTraps = [] ∧ t.copies = [] ∧
      t.pends = [] ∧ t.kernel.rollback = false) ∧
    (∃ t, Issues (machine false fun t => { t with saving := true }) t .exit ∧ (machine false fun t => { t with saving := true }).overfull .exit = false ∧
      t.saving = true ∧ t.sectTraps = [] ∧ t.copies = [] ∧ t.pends = []) ∧
    (∃ t, Issues inTrap t .brk ∧ inTrap.overfull .brk = false ∧ t.tlevel = true) ∧
    (∃ t, Issues debugged t .brk ∧ debugged.overfull .brk = false ∧ t.tlevel = false ∧ holderKind (debugged.winReg t.ctx (dbg 0)) ≠ 0 ∧
      debugged.hasRight t.ctx 0 = true) ∧
    (∃ t, Issues lane t .brk ∧ lane.overfull .brk = false ∧ t.tlevel = false ∧ holderKind (lane.winReg t.ctx (dbg 0)) = 0) ∧
    issuesAll lane [.trap 0xABCD, .nop] = true :=
  ⟨meets _ (by decide +kernel) (by decide +kernel), meets _ (by decide +kernel) (by decide +kernel), meets _ (by decide +kernel) (by decide +kernel),
    meets _ (by decide +kernel) (by decide +kernel), meets _ (by decide +kernel) (by decide +kernel), meets _ (by decide +kernel) (by decide +kernel), by decide +kernel⟩
theorem witness_TrapsAndReturns : (∃ t, lane.me = some t ∧ lane.teams.find 0 = some t ∧ t.tlevel = false ∧ t.kernel.trapEntry = some 0x100 ∧
      t.kernel.rollback = false ∧ (∀ q n, t.blk ≠ some (.queueRoom q n)) ∧ ¬ (0x10 ≤ 0x18 ∧ 0x18 ≤ 0x14) ∧ 0x18 ≠ 0x16) ∧
    (∃ t, Issues inTrap t .rtt ∧ inTrap.overfull .rtt = false ∧ t.tlevel = true ∧ t.tpc.extractLsb' 0 2 = 0#2 ∧ t.isCtl = false) ∧
    (∃ t, Issues (machine true fun t => { t with tlevel := true }) t .rtt ∧ (machine true fun t => { t with tlevel := true }).overfull .rtt = false ∧
      t.tlevel = true ∧ t.tpc.extractLsb' 0 2 = 0#2 ∧ t.isCtl = true) ∧
    (∃ t, Issues lane t .rtt ∧ lane.overfull .rtt = false ∧ t.tlevel = false) ∧
    (∃ t, Issues (machine false fun t => { t with tlevel := true, tpc := 0x83 }) t .rtt ∧
      (machine false fun t => { t with tlevel := true, tpc := 0x83 }).overfull .rtt = false ∧ t.tlevel = true ∧ t.tpc.extractLsb' 0 2 ≠ 0#2) :=
  ⟨⟨_, rfl, rfl, rfl, rfl, rfl, fun _ _ h => absurd (show (none : Option Cond) = _ from h) (by simp), by decide⟩, meets _ (by decide +kernel) (by decide +kernel), meets _ (by decide +kernel) (by decide +kernel),
    meets _ (by decide +kernel) (by decide +kernel), meets _ (by decide +kernel) (by decide +kernel)⟩
theorem witness_DoubleTrap : ∃ t c, inTrap.me = some t ∧ inTrap.contexts.find t.ctx = some c ∧ t.kernel.rollback = false ∧
    ¬ (0x10 ≤ 0x18 ∧ 0x18 ≤ 0x14) ∧ 0x18 ≠ 0x16 ∧ t.tlevel = true := ⟨_, _, rfl, rfl, rfl, by decide, by decide, rfl⟩
theorem witness_SpecialRegisters : issuesAll lane [.srd 3 0x07, .srd 3 0x0A, .srd 3 0x09, .srd 3 0x7F, .swr 1 0x09, .swr 1 0x0A, .swr 1 0x0F, .swr 1 0x10,
      .swr 1 0x17] = true ∧ (lane.special (teamOf lane) 0x09).isSome = true ∧ (lane.special (teamOf lane) 0x60).isSome = true ∧
      lane.special (teamOf lane) 0x7F = some 0 ∧ lane.special (teamOf lane) 0x18 = none ∧ lane.inService (teamOf lane) = false ∧
    (∃ t, Issues serving t (.swr 1 0x17) ∧ serving.overfull (.swr 1 0x17) = false ∧ serving.inService t = true ∧
      ∃ c, serving.contexts.find t.ctx = some c) :=
  ⟨by decide +kernel, by decide +kernel, by decide +kernel, by decide +kernel, by decide +kernel, by decide +kernel,
    meets _ (by decide +kernel) ⟨by decide +kernel, _, rfl⟩⟩
/-- One crew with barrier 15 as each clause asks for it: an arrival that completes the phase, one that does not, a wait that returns at once,
one that does not, and paths that have waited. -/
theorem witness_CrewBarriers :
    (crewOk (withBarrier ⟨1, 0, 0, 0, 0⟩ id) ⟨1, 0, 0, 0, 0⟩ && issuesAll (withBarrier ⟨1, 0, 0, 0, 0⟩ id) [.bar 15, .barrv 3 15 1, .barpend 15 (.lit 4)] &&
      (teamOf (withBarrier ⟨1, 0, 0, 0, 0⟩ id)).mark == none) = true ∧
    (crewOk (withBarrier ⟨2, 0, 0, 0, 0⟩ id) ⟨2, 0, 0, 0, 0⟩ && issuesAll (withBarrier ⟨2, 0, 0, 0, 0⟩ id) [.bar 15, .barrv 3 15 1, .barw 15] &&
      (teamOf (withBarrier ⟨2, 0, 0, 0, 0⟩ id)).mark == none) = true ∧
    (crewOk (withBarrier ⟨2, 0, 0, 0, 1⟩ id) ⟨2, 0, 0, 0, 1⟩ && issuesAll (withBarrier ⟨2, 0, 0, 0, 1⟩ id) [.barw 15]) = true ∧
    (crewOk (withBarrier ⟨2, 0, 0, 0, 1⟩ fun t => { t with mark := some 0 }) ⟨2, 0, 0, 0, 1⟩ &&
      issuesAll (withBarrier ⟨2, 0, 0, 0, 1⟩ fun t => { t with mark := some 0 }) [.bar 15, .barw 15] &&
      (teamOf (withBarrier ⟨2, 0, 0, 0, 1⟩ fun t => { t with mark := some 0 })).mark == some 0) = true := by decide +kernel
/-- A committed batch in the tag `k` of a team that has one copy on its way. -/
def batch (k : Nat) : State := machine false fun t => { t with
  tags := t.tags.set k ⟨1, true⟩, copies := [⟨3, 0, 0, 32, 0, 0, some k, .flying⟩] }
theorem witness_FencesAndBatches : issuesAll lane [.fence 7, .pfence 15, .ctcommit, .ctwait 0] = true ∧ (teamOf lane).tagFree (teamOf lane).nextTag = true ∧
    (∀ c ∈ (teamOf lane).copies, c.fate = .flying) ∧ (∀ j, j < 8 - 0 → ∀ b, (teamOf lane).tags[((teamOf lane).nextTag + j) % 8]? = some b → b.inUse = false) ∧
    (∃ t, Issues (batch 0) t .ctcommit ∧ (batch 0).overfull .ctcommit = false ∧ t.tagFree t.nextTag = false ∧ (∀ c ∈ t.copies, c.fate = .flying) ∧
      ∀ p ∈ t.slots, p.v = false) ∧
    (∃ t, Issues (batch 0) t (.ctwait 7) ∧ (batch 0).overfull (.ctwait 7) = false ∧ 0 < 8 - (7 : RegNo).toNat ∧
      t.tags[(t.nextTag + 0) % 8]? = some ⟨1, true⟩ ∧ ∀ p ∈ t.slots, p.v = false) := by
  refine ⟨by decide +kernel, by decide +kernel, by decide +kernel, ?_, meets _ (by decide +kernel) (by decide +kernel),
    meets _ (by decide +kernel) (by decide +kernel)⟩
  have h : ∀ j, j < 8 → ((teamOf lane).tags[((teamOf lane).nextTag + j) % 8]?.map BatchTag.inUse) = some false := by decide +kernel
  intro j hj b hb
  simpa [hb] using h j (by omega)
/-- Handles of a job that has completed, of one that has not, and of no job, in the uniform registers 1, 2 and 3. -/
def handles : State := withContext (machine false fun t => { t with s := [(1, 0x20005001), (2, 0x20006001), (3, 0)] }) fun c => { c with
  futures := [(futKey 1 5, ⟨1, false, true, some 0⟩), (futKey 1 6, ⟨1, true, false, none⟩)] }
theorem witness_Futures : issuesAll handles [.fwait 4 1, .fwait 4 2, .fwait 4 3, .ftest 4 1] = true ∧
    (∃ c, handles.contexts.find (teamOf handles).ctx = some c ∧ rawHandle (teamOf handles) 1 = none ∧ rawHandle (teamOf handles) 2 = none ∧
      c.handleStatus (((teamOf handles).viewAt handles.clk).S 1) = some 0 ∧ c.handleStatus (((teamOf handles).viewAt handles.clk).S 2) = none ∧
      c.handleStatus (((teamOf handles).viewAt handles.clk).S 3) = some 4 ∧ c.handleStatus 0x20005002 = some 3) ∧
    (teamOf handles).pendOf .s 1 = none ∧
    (∃ t, Issues future t (.ftest 4 2) ∧ future.overfull (.ftest 4 2) = false ∧ ∃ p c, t.pendOf .s 2 = some p ∧ p.isFuture = true ∧
      future.contexts.find t.ctx = some c) ∧
    (∃ t p, (pending .v).teams.find 0 = some t ∧ t.pend? 7 = some p ∧ p.data = .values [] 0 ∧ p.after = [] ∧ Carries [] newNothing) :=
  ⟨by decide +kernel, ⟨_, rfl, by decide +kernel, by decide +kernel, by decide +kernel, by decide +kernel, by decide +kernel, by decide +kernel⟩,
    by decide +kernel, meets _ (by decide +kernel) ⟨_, _, rfl, rfl, rfl⟩, ⟨_, _, rfl, rfl, rfl, rfl, fun _ _ _ _ _ => rfl⟩⟩
/-- One word at address 8 is waited for; 5 is expected. -/
def armed : State := machine false fun t => { t with s := [(4, 8), (6, 5)] }
/-- The same wait, returned. -/
def returned : State := machine false fun t => { t with s := [(4, 8), (6, 5)], mark := some 0 }
/-- The same wait at a misaligned word. -/
def misarmed : State := machine false fun t => { t with s := [(4, 9)] }
/-- A register that waits for the word at address 8 to differ from 5. -/
def waiting : State := machine false fun t => { t with pends := [⟨7, .s, 3, 1, 13, 0x80, .armed [(8, 5)], []⟩] }
theorem witness_WordWaits :
    (∃ t, Issues armed t (.wait 3 4 1) ∧ armed.overfull (.wait 3 4 1) = false ∧ t.mark = none ∧ t.done = 0 ∧
      (List.range (1 : RegNo).toNat).map (fun k => (t.viewAt armed.clk).S64 (4 + 4 * k)) = [8] ∧ addrCheck 8 8 = none ∧
      (∃ (pa : DWord → Nat) (page : DWord → Translation) (s1 : State),
        seeAll t .read false [(noLane, [8])] armed = ([(noLane, [(8, .ok (pa 8) (page 8))])], s1)) ∧
      t.kernel.rollback = false ∧ ∀ p ∈ t.slots, p.v = false) ∧
    (∃ t, Issues returned t (.wait 3 4 1) ∧ returned.overfull (.wait 3 4 1) = false ∧ t.mark = some 0) ∧
    (∃ t, Issues misarmed t (.wait 3 4 1) ∧ misarmed.overfull (.wait 3 4 1) = false ∧ t.mark = none ∧
      addrCheck ((t.viewAt misarmed.clk).S64 (4 + 4 * 0)) 8 = some 0x07) ∧
    (∃ t p, waiting.teams.find 0 = some t ∧
      t.pends.find? (fun (p : Pend) => p.n == 3 && match p.data with | .armed _ => true | _ => false) = some p ∧ p.data = .armed [(8, 5)] ∧
      p.after = [] ∧ waiting.armedDiffers t [(8, 5)] = some (0, .differs) ∧ (∃ f, waiting.lookWalk t.unit t.ctx 8 .read = .ok 8 f) ∧
      waiting.heldOf t = [] ∧ waiting.traffic = [] ∧ waiting.poisoned 8 8 = false ∧ (poisonedAt waiting 8).poisoned 8 8 = true ∧
      ∃ f, (poisonedAt waiting 8).lookWalk t.unit t.ctx 8 .read = .ok 8 f) :=
  ⟨meets _ (by decide +kernel) ⟨by decide +kernel, by decide +kernel, by decide +kernel, by decide +kernel,
      ⟨fun _ => 8, fun _ => ⟨0, 0, 0, 4096, 0, true, true, 0, 0⟩, seen_as (by decide +kernel)⟩, by decide +kernel, by decide +kernel⟩,
    meets _ (by decide +kernel) (by decide +kernel), meets _ (by decide +kernel) (by decide +kernel),
    ⟨_, _, rfl, rfl, rfl, rfl, by decide +kernel, exists_looked (by decide +kernel), by decide +kernel, rfl, by decide +kernel, by decide +kernel,
      exists_looked (by decide +kernel)⟩⟩
theorem witness_LaneMemory : issuesAll reach [.ld8 8 2 0x200, .ld16 8 2 1, .ld32 8 2 1, .ld64 8 2 1, .ld128 8 2 0x1FF, .st8 8 2 1, .st16 8 2 1, .st32 8 2 1,
      .st64 8 2 1, .st128 8 2 1] = true ∧
    (∀ a ∈ [Access.read, .write], ∃ s1 look place, Reaches reach s1 (teamOf reach) a true ((teamOf reach).viewAt reach.clk).actives
      (fun l => ((teamOf reach).viewAt reach.clk).V64 l 2 + (1 : BitVec 10).signExtend 64 * BitVec.ofNat 64 16) 16 look place) := by
  refine ⟨by decide +kernel, fun a ha => reaches_of ?_⟩
  fin_cases ha <;> decide +kernel
/-- An access of the lane team to address 0x40, on its way under the pending result 7. -/
def op (serial : Nat) (kind : OpKind) (place : Place) (n : Nat) : Op :=
  { serial := serial, team := 0, ctx := 0, group := 7, unit := 0, cluster := 0, core := 0, pc := 0x84, va := 0x40, place := place, n := n
    kind := kind, ord := none, dest := some (.v, 8), lane := 0, seen := [], muted := none }
/-- The four bytes at address 0x40. -/
def at40 : Place := .mem 0x40 3 ⟨0, 0, 0, 4096, 0, true, true, 0, 0⟩
/-- The lane machine with accesses on their way, and lines in its caches. -/
def onWay (os : List Op) (ls : List CacheLine) : State :=
  { machine false fun t => { t with pends := [⟨7, .v, 8, 1, 1, 0x80, .arriving, []⟩] } with traffic := os, caches := ls }
/-- The line of address 0x40 in a cache of the team's core. -/
def line40 (kind : CacheKind) : CacheLine := ⟨kind, 0, 0, 0, 0, true, true, 0, 0, 1⟩
/-- `Ready`, with what a load asks besides, as a check. -/
def readyAt (s : State) (o : Op) : Bool :=
  s.traffic.find? (·.serial == o.serial) == some o && s.performable (s.traffic.takeWhile (·.serial != o.serial)) o && (s.heldFor o).isEmpty &&
  (teamOf s).pends.any (·.serial == o.group) && decide (o.lane < 1024) && decide (o.va % 128 = 0x40 % 128) && decide (0x40 % 128 + o.n ≤ 128)
theorem witness_Accesses :
    (∀ k ∈ [OpKind.load .l1, .load .constant, .loadPast], readyAt (onWay [op 1 k at40 4] []) (op 1 k at40 4) = true ∧
      ∀ p ∈ (onWay [op 1 k at40 4] []).traffic, p.line = some 0 → ∀ bs, p.kind ≠ .store bs ∧ p.kind ≠ .storePast bs) ∧
    (∀ k ∈ [CacheKind.l1, .sampler], readyAt (onWay [op 1 (.load k) at40 4] [line40 k]) (op 1 (.load k) at40 4) = true ∧
      (onWay [op 1 (.load k) at40 4] [line40 k]).line? k 0 0 0 = some (line40 k) ∧ (onWay [op 1 (.load k) at40 4] []).line? k 0 0 0 = none) ∧
    (let s := onWay [op 1 (.store [1, 2, 3, 4]) at40 4, op 2 (.load .l1) at40 4] [];
      readyAt s (op 2 (.load .l1) at40 4) = true ∧ op 1 (.store [1, 2, 3, 4]) at40 4 ∈ s.traffic.takeWhile (·.serial != 2) ∧
      ∀ p ∈ s.traffic, p.line = some 0 → ∀ cs, p.kind = .store cs ∨ p.kind = .storePast cs → p = op 1 (.store [1, 2, 3, 4]) at40 4) ∧
    (let s := poisonedAt (onWay [op 1 (.load .l1) at40 4] []) 0x40;
      readyAt s (op 1 (.load .l1) at40 4) = true ∧ s.poisoned 0x40 4 = true ∧ s.line? .l1 0 0 0 = none) ∧
    (∀ k ∈ [OpKind.load .l1, .loadPast], readyAt (onWay [op 1 k (.reg 0xD8) 8] []) (op 1 k (.reg 0xD8) 8) = true) ∧
    (∀ k ∈ [OpKind.store [1, 2], .storePast [1, 2]], readyAt (onWay [op 1 k at40 2] []) (op 1 k at40 2) = true ∧
      ((onWay [op 1 k at40 2] []).winReg 0 0xD8).getLsbD 63 = false ∧
      (onWay [op 1 k at40 2] []).spreadable [] (op 1 k at40 2) 1 = true) ∧
    (let s := onWay [op 1 (.store [1]) at40 1, op 2 (.load .l1) at40 4] [];
      s.traffic.find? (·.serial == 2) = some (op 2 (.load .l1) at40 4) ∧ op 1 (.store [1]) at40 1 ∈ s.traffic.takeWhile (·.serial != 2)) := by
  refine ⟨fun k hk => ⟨?_, fun p hp hl bs => ?_⟩, fun k hk => ?_, ⟨by decide +kernel, by decide +kernel, fun p hp hl cs hc => ?_⟩,
    by decide +kernel, by decide +kernel, by decide +kernel, by decide +kernel⟩
  · fin_cases hk <;> decide +kernel
  · rw [List.mem_singleton.1 hp]; fin_cases hk <;> simp [op]
  · fin_cases hk <;> decide +kernel
  · rcases List.mem_cons.1 hp with rfl | hp
    · rfl
    · rw [List.mem_singleton.1 hp] at hc; simp [op] at hc
/-- Lane 1 is at a misaligned address, or beyond the address space, and lane 0 is not; the uniform pair 2 too. -/
def astray (x : DWord) : State := machine false fun t => { t with
  ex := 3, v := [(1024 * 2 + 1, x.extractLsb' 0 32), (1024 * 3 + 1, x.extractLsb' 32 32)], s := [(2, x.extractLsb' 0 32), (3, x.extractLsb' 32 32)] }
/-- What a trapping access asks of a team, at an address that lane 1 and the uniform pair 2 hold. -/
def traps (x : DWord) : Bool :=
  issuesAll (astray x) [.ld16 8 2 0, .ld32 8 2 0, .ld64 8 2 0, .ld128 8 2 0, .st16 8 2 0, .st32 8 2 0, .st64 8 2 0, .st128 8 2 0,
    .ldc 8 2 0, .sld32 8 2 0, .sld64 8 2 0, .sst32 8 2 0, .sst64 8 2 0, .sldc 8 2 0] &&
  ((teamOf (astray x)).viewAt 0).actives == [0, 1] && ((teamOf (astray x)).viewAt 0).V64 1 2 == x &&
  ((teamOf (astray x)).viewAt 0).V64 0 2 == 0 && ((teamOf (astray x)).viewAt 0).S64 2 == x
theorem witness_AccessTraps : traps 0xFFF = true ∧ traps 0x0010000000000000 = true ∧ issuesAll (astray 0x0010000000000000) [.ld8 8 2 0, .st8 8 2 0] = true ∧
    (0xFFF : DWord).toNat / 2 ^ 52 = 0 ∧ (0xFFF : DWord).toNat % 2 ≠ 0 ∧ (0x0010000000000000 : DWord).toNat / 2 ^ 52 ≠ 0 :=
  ⟨by decide +kernel, by decide +kernel, by decide +kernel, by simp, by simp, by simp⟩
/-- A texture record of one 32-bit texel at 0x800 in descriptor slot 0, generation 1. -/
def textured : State :=
  { withContext (machine false fun t => { t with ex := 1, s := [(1, 1)] }) fun c => { c with desc := 0x400, dcount := 1 } with
    mem := [(0x401, 8), (0x40C, 16), (0x410, 1), (0x411, 2), (0x420, 1), (0x802, 0x80), (0x803, 0x3F)] }
/-- The record that the slot holds. -/
def textureRec : Nat := leNat ((List.range 64).map fun k => Memory.read textured.mem (0x400 + k))
theorem witness_ReadOnlyPaths : issuesAll reach [.ldc 8 2 1] = true ∧
    (∃ s1 look place, Reaches reach s1 (teamOf reach) .read false ((teamOf reach).viewAt reach.clk).actives
      (fun l => ((teamOf reach).viewAt reach.clk).V64 l 2 + (1 : BitVec 10).signExtend 64 * 4) 4 look place) ∧
    issuesAll textured [.smp 8 2 1] = true ∧ slotStale textureRec 1 1 = false ∧ textureBad textureRec = false ∧
    (∃ s1, textured.readSlot (teamOf textured) 1 0 1 = .ok (s1, textureRec) ∧ ((teamOf textured).viewAt textured.clk).actives = [0] ∧
      (sampleTexels textureRec 0 0).1 = [0x800] ∧ (∃ s2, seeAll (teamOf textured) .read false [(0, [0x800])] s1 =
        ([(0, [(0x800, .ok 0x800 ⟨0, 0, 0, 4096, 0, true, true, 0, 0⟩)])], s2)) ∧
      s1.poisoned 0x800 4 = false ∧ s1.line? .sampler (teamOf textured).unit (teamOf textured).ctx 16 = none) := by
  refine ⟨by decide +kernel, reaches_of (by decide +kernel), by decide +kernel, by decide +kernel, by decide +kernel, ?_⟩
  refine ⟨_, readSlot_ok (c := { Context.blank 0 0 0x10000 with desc := 0x400, dcount := 1 }) rfl (by decide) (by decide) (pa := 0x400) (by decide +kernel)
    (by decide +kernel), by decide +kernel, by decide +kernel, seen_as (by decide +kernel), by decide +kernel, by decide +kernel⟩
/-- The words at offsets 0 and 0x40 are full. -/
def fullWords : State := withCrew reach fun c => { c with full := [(0, true), (16, true)] }
/-- What the scratchpad clauses ask of the lanes of `reach`, at displacement 0: in the window, aligned, unpoisoned, each at its own word. -/
def padReady (s : State) (full : Bool) : Bool :=
  let t := teamOf s
  let r := t.viewAt s.clk
  decide (t.done = 0) && t.kept.isEmpty && !t.kernel.rollback && (t.slots.all fun p => !p.v) && decide (r.actives = [0, 1]) &&
  r.actives.all fun l => s.inWindow t (r.V l 2) 16 && (r.V l 2).toNat % 16 == 0 && (s.isFull t (r.V l 2) == full) && !s.spadPoison t (r.V l 2) 4 &&
    r.actives.all fun m => m == l || decodeOffset t.crew (r.V m 2) != decodeOffset t.crew (r.V l 2)
theorem witness_Scratchpad : issuesAll reach [.lds32 8 2 0, .lds64 8 2 0, .lds128 8 2 0, .sts32 8 2 0, .sts64 8 2 0, .sts128 8 2 0, .ste 8 2 0,
      .ldf 8 2 0, .ldfk 8 2 0] = true ∧ padReady reach false = true ∧ issuesAll fullWords [.ldf 8 2 0, .ldfk 8 2 0, .ste 8 2 0] = true ∧
    padReady fullWords true = true := by decide +kernel
/-- A copy of 20 bytes on its way from 0x40 to offset 0x20, in a committed batch. -/
def flying : State := mapped false fun t => { t with tags := t.tags.set 1 ⟨1, true⟩, copies := [⟨7, 0, 0x40, 20, 0, 0x20, some 1, .flying⟩] }
/-- A copy from beyond the address space. -/
def lost : State := mapped false fun t => { t with copies := [⟨7, 0, 0x0010000000000000, 20, 0, 0x20, none, .flying⟩] }
theorem witness_Copies : issuesAll reach [.cpa 8 2 (.lit 33)] = true ∧ (teamOf reach).kernel.rollback = false ∧
    (∀ l ∈ ((teamOf reach).viewAt reach.clk).actives, (((teamOf reach).viewAt reach.clk).V64 l 2).toNat < 4096 ∧
      (((teamOf reach).viewAt reach.clk).V64 l 2).toNat % 32 = 0 ∧ reach.inWindow (teamOf reach) (((teamOf reach).viewAt reach.clk).V l 8) 32 = true ∧
      (((teamOf reach).viewAt reach.clk).V l 8).toNat % 32 = 0) ∧
    (∃ t c cr, flying.teams.find 0 = some t ∧ t.copies.find? (fun (c : Copy) => c.serial == 7 && c.fate == .flying) = some c ∧ c.n = 20 ∧
      (∃ f, flying.lookWalk t.unit t.ctx c.src.toNat .read = .ok 0x40 f) ∧ flying.traffic = [] ∧ flying.line? .l1 (flying.l1Unit t c.src.toNat) t.ctx (c.src.toNat / 128) = none ∧
      t.kernel.rollback = false ∧ flying.poison = [] ∧ (flying.gangOf t).bind (·.crew? c.crew) = some cr) ∧
    (∃ t c, lost.teams.find 0 = some t ∧ t.copies.find? (fun (c : Copy) => c.serial == 7 && c.fate == .flying) = some c ∧ c.n ≠ 0 ∧
      lost.lookWalk t.unit t.ctx c.src.toNat .read = .trap 0x08) :=
  ⟨by decide +kernel, by decide +kernel, by decide +kernel,
    ⟨_, _, _, rfl, rfl, rfl, exists_looked (by decide +kernel), rfl, by decide +kernel, rfl, rfl, rfl⟩, ⟨_, _, rfl, rfl, by decide, by decide +kernel⟩⟩
theorem witness_LaneAtomics : issuesAll reach [.atadd 8 1 true (.reg 6) 7, .atmin 0 1 false (.lit 7) 0, .atmax 8 1 true (.reg 6) 0,
      .atand 8 1 false (.reg 6) 0, .ator 0 1 true (.reg 6) 0, .atxor 8 1 false (.reg 6) 0, .atxch 8 1 true (.lit 7) 0, .atcas 8 1 true 12 0,
      .atcas 8 1 false 6 0, .atfadd 8 1 true (.lit 7) 0, .atfmin 8 1 false (.reg 6) 0, .atfmax 0 1 false (.reg 6) 0, .redadd 1 true (.reg 6) 0,
      .redfadd 1 false (.reg 6) 5] = true ∧
    (∀ n ∈ [4, 8], ∃ s1 look place, Reaches reach s1 (teamOf reach) .rmw false ((teamOf reach).viewAt reach.clk).actives
      (fun l => ((teamOf reach).viewAt reach.clk).V64 l (2 * (1 : BitVec 6).toNat)) n look place) ∧
    (∀ k ∈ [RmwOp.add, .min, .max, .and, .or, .xor, .xch, .cas, .fadd, .fmin, .fmax], readyAt (onWay [op 1 (.rmw false k 5) at40 4] []) (op 1 (.rmw false k 5) at40 4) = true ∧
      (onWay [op 1 (.rmw false k 5) at40 4] []).poisoned 0x40 4 = false ∧ ((onWay [op 1 (.rmw false k 5) at40 4] []).winReg 0 0xD8).getLsbD 63 = false) := by
  refine ⟨by decide +kernel, fun n hn => reaches_of ?_, by decide +kernel⟩
  fin_cases hn <;> decide +kernel
theorem witness_UniformMemory : issuesAll reach [.sld32 8 2 1, .sld64 8 2 1, .sldc 8 2 1, .sldaq 8 1 true 4, .sst32 8 2 1, .sst64 8 2 1,
      .sstrl 8 1 true 7, .satadd 8 1 true (.lit 1) 6, .satxch 0 1 false (.reg 6) 0, .satcas 8 1 true 12 0] = true ∧
    (∀ a ∈ [Access.read, .write], ∃ s1 look place, Reaches reach s1 (teamOf reach) a true [noLane]
      (fun _ => ((teamOf reach).viewAt reach.clk).S64 2 + (1 : BitVec 10).signExtend 64 * BitVec.ofNat 64 8) 8 look place) ∧
    (∀ a ∈ [Access.read, .write, .rmw], ∃ s1 look place,
      Reaches reach s1 (teamOf reach) a false [noLane] (fun _ => ((teamOf reach).viewAt reach.clk).S64 2) 8 look place) := by
  refine ⟨by decide +kernel, fun a ha => reaches_of ?_, fun a ha => reaches_of ?_⟩
  · fin_cases ha <;> decide +kernel
  · fin_cases ha <;> decide +kernel
/-- The lines named 0x10 (counted twice) and 0x11 (once), a saturated 0x12 and a node 0x13; the uniform pair 2 holds a name. -/
def named (name : Word) : State := domained [(0, ⟨0x10, 2, false⟩), (1, ⟨0x11, 1, false⟩), (2, ⟨0x12, 0xFFFFFFFF, false⟩), (3, ⟨0x13, 1, true⟩)]
  (machine false fun t => { t with s := [(2, name)] })
/-- The prefix of 128 zero bytes. -/
def zeroPrefix (s : State) (d : Domain) : DWord := namePrefix (s.saltOf 0 d) (List.replicate 128 0)
/-- An empty table, and one whose line `i` holds 128 zero bytes. -/
def emptyTable : State := domained [] lane
/-- The same machine with a line of zeros in the first name of every prefix. -/
def sameLine : State := domained ((List.range 16).map fun k => (k, ⟨0, 1, false⟩)) lane
theorem probe_empty (s : State) (dom : Domain) (hd : dom.table = []) (p : DWord) : ∃ i, s.probe dom p 0 false = ⟨none, some i⟩ := by
  by_cases hp : p = 0
  · subst hp; exact ⟨1, by simp [State.probe, hd, SMap.find, List.range, List.range.loop]⟩
  · have hp : ¬ p = 0#64 := hp
    exact ⟨0, by simp [State.probe, hd, SMap.find, List.range, List.range.loop, hp]⟩
theorem probe_zeros (p : DWord) :
    ∃ i, sameLine.probe ⟨0, 0, 16, 4, 0, (List.range 16).map fun k => (k, ⟨0, 1, false⟩), [], false⟩ p 0 false = ⟨some i, none⟩ := by
  have hb : nameBucket p 4 = 0 := by unfold nameBucket; exact Nat.div_eq_of_lt p.isLt
  have hm (a : Nat) : sameLine.readNat a 128 = 0 := by
    rw [show sameLine.readNat a 128 = leNat ((List.range 128).map fun _ => (0 : Byte)) from rfl]; decide +kernel
  by_cases hp : p = 0
  · simp only [State.probe, hb, hm, show (p == 0) = true by simpa using hp]; exact ⟨1, by decide +kernel⟩
  · simp only [State.probe, hb, hm, show (p == 0) = false by simpa using hp, Bool.false_and, Bool.not_false, List.filter_true]
    exact ⟨0, by decide +kernel⟩
theorem clean {s : State} (h : s.poison = []) (a n : Nat) : s.poisoned a n = false := by simp [State.poisoned, h]
theorem probe_clean {s : State} (h : s.poison = []) (d : Domain) (p : DWord) (n : Nat) : s.probePoison d p n = false := by
  simp [State.probePoison, clean h]
/-- The same table over a window whose first word is 5: every name of a prefix has another line. -/
def fullTable : State := withCrew sameLine fun c => { c with window := [(0, 5)] }
/-- The bytes of that window. -/
def fiveBytes : List Byte := 5 :: List.replicate 127 0
theorem probe_full (p : DWord) :
    fullTable.probe ⟨0, 0, 16, 4, 0, (List.range 16).map fun k => (k, ⟨0, 1, false⟩), [], false⟩ p 5 false = ⟨none, none⟩ := by
  have hb : nameBucket p 4 = 0 := by unfold nameBucket; exact Nat.div_eq_of_lt p.isLt
  have hm (a : Nat) : fullTable.readNat a 128 = 0 := by
    rw [show fullTable.readNat a 128 = leNat ((List.range 128).map fun _ => (0 : Byte)) from rfl]; decide +kernel
  by_cases hp : p = 0
  · simp only [State.probe, hb, hm, show (p == 0) = true by simpa using hp]; decide +kernel
  · simp only [State.probe, hb, hm, show (p == 0) = false by simpa using hp, Bool.false_and, Bool.not_false, List.filter_true]
    decide +kernel
/-- A node whose only child, the name 5, has no line. -/
def orphan : State := withCrew (domained [] (machine false fun t => { t with s := [(1, 1)] })) fun c => { c with window := [(0, 5)] }
theorem witness_Content_full : issuesAll fullTable [.chash 4 1, .cput 4 1] = true ∧ leNat fiveBytes = 5 ∧
    (∃ dom, fullTable.lineOperand (teamOf fullTable) 0 = .ok (0, dom, fiveBytes) ∧ ∀ p, fullTable.probePoison dom p 15 = false ∧
      (fullTable.probe dom p 5 false).same = none ∧ (fullTable.probe dom p 5 false).free = none) ∧
    issuesAll orphan [.cput 4 1] = true ∧ (∃ dom, orphan.lineOperand (teamOf orphan) 1 = .ok (0, dom, fiveBytes) ∧ dom.table = [] ∧
      (∀ p n, orphan.probePoison dom p n = false) ∧ (childNames (leNat fiveBytes)).find? (fun m => (dom.line? m).isNone) = some 5) := by
  refine ⟨by decide +kernel, by decide +kernel, ⟨_, by rfl, fun p => ⟨probe_clean rfl _ _ _, ?_, ?_⟩⟩, by decide +kernel,
    ⟨_, by rfl, by rfl, fun _ _ => probe_clean rfl _ _ _, by decide +kernel⟩⟩
  · exact congrArg Probed.same (probe_full p)
  · exact congrArg Probed.free (probe_full p)
theorem witness_Content :
    (∀ d p n, emptyTable.probePoison d p n = false) ∧ (∀ d p n, sameLine.probePoison d p n = false) ∧
    (named 0x11).dropPoison 0 0x11 = false ∧ (named 0x13).dropPoison 0 0x13 = false ∧ (∀ n, (named n).poison = []) ∧ (∀ n, (named n).namePoison 0 (n.setWidth 64) = false) ∧
    issuesAll emptyTable [.chash 4 1, .cput 4 1] = true ∧
    (∃ dom, emptyTable.lineOperand (teamOf emptyTable) 0 = .ok (0, dom, List.replicate 128 0) ∧
      ∀ p, ∃ i, (emptyTable.probe dom p 0 false).same.or (emptyTable.probe dom p 0 false).free = some i ∧
        (emptyTable.probe dom p 0 false).first = some i ∧ (emptyTable.probe dom p 0 false).same ≠ some i) ∧
    (∃ dom, sameLine.lineOperand (teamOf sameLine) 0 = .ok (0, dom, List.replicate 128 0) ∧ issuesAll sameLine [.cput 4 1] = true ∧
      ∀ p, ∃ i, (sameLine.probe dom p 0 false).first = some i ∧ (sameLine.probe dom p 0 false).same = some i) ∧
    (∃ t, Issues (machine false fun t => { t with s := [(1, 0x400)] }) t (.chash 4 1) ∧
      (machine false fun t => { t with s := [(1, 0x400)] }).overfull (.chash 4 1) = false ∧
      (machine false fun t => { t with s := [(1, 0x400)] }).inWindow t (((t.viewAt 0).S 1) &&& 0xFFFFFF80#32) 128 = false) ∧
    issuesAll (named 0x10) [.cget 1 2, .cref 2, .cdrop 2] = true ∧ (named 0x10).inWindow (teamOf (named 0x10)) 0 128 = true ∧
    (∃ d, (named 0x10).findName 0 0x10 = some (0, d) ∧ (named 0x10).domains.find 0 = some d ∧ d.line? 0x10 = some ⟨0x10, 2, false⟩ ∧
      d.line? 0x11 = some ⟨0x11, 1, false⟩ ∧ d.line? 0x12 = some ⟨0x12, 0xFFFFFFFF, false⟩ ∧ d.line? 0x13 = some ⟨0x13, 1, true⟩) ∧
    ((teamOf (named 0x10)).viewAt 0).S64 2 = 0x10 ∧ ((teamOf (named 0)).viewAt 0).S64 2 = 0 ∧ issuesAll (named 0) [.cref 2, .cdrop 2] = true ∧
    ((teamOf (named 0x14)).viewAt 0).S64 2 = 0x14 ∧ (named 0x14).findName 0 0x14 = none ∧ issuesAll (named 0x14) [.cref 2, .cdrop 2] = true := by
  refine ⟨probe_clean rfl, probe_clean rfl, by decide +kernel, by decide +kernel, fun _ => rfl, fun n => ?_, by decide +kernel, ⟨_, by rfl, fun p => ?_⟩, ⟨_, by rfl, by decide +kernel, fun p => ?_⟩, meets _ (by decide +kernel) (by decide +kernel),
    by decide +kernel, by decide +kernel, ⟨_, rfl, rfl, by decide +kernel, by decide +kernel, by decide +kernel, by decide +kernel⟩, by decide +kernel,
    by decide +kernel, by decide +kernel, by decide +kernel, by decide +kernel, by decide +kernel⟩
  · unfold State.namePoison; split
    · rfl
    · simp [clean (s := named n) rfl]
  · obtain ⟨i, h⟩ := probe_empty emptyTable ⟨0, 0, 16, 4, 0, [], [], false⟩ rfl p
    exact ⟨i, by rw [show _ = _ from h]; rfl, by rw [show _ = _ from h]; rfl, by rw [show _ = _ from h]; simp⟩
  · obtain ⟨i, h⟩ := probe_zeros p
    exact ⟨i, by rw [show _ = _ from h]; rfl, by rw [show _ = _ from h]⟩
/-- A swap at address 0, which holds a name: the expected name is in the uniform pair 8 and the new one in pair 10. -/
def swapping (held : Byte) (old new : Word) : State :=
  { domained [] (machine false fun t => { t with s := [(8, old), (10, new)] }) with mem := if held = 0 then [] else [(0, held)] }
/-- What a swap asks of a machine, at the expected and the new name, which no table has. -/
def swaps (held : Byte) (old new : Word) : Bool :=
  let s := swapping held old new
  issuesAll s [.cswap 3 4 8 0] && decide ((teamOf s).done = 0) && !(teamOf s).kernel.rollback && ((teamOf s).viewAt s.clk).S64 4 == 0 && addrCheck 0 8 == none &&
  (seeAll (teamOf s) .rmw false [(noLane, [0])] s).1 == [(noLane, [(0, .ok 0 ⟨0, 0, 0, 4096, 0, true, true, 0, 0⟩)])] && !s.poisoned 0 8 &&
  !(s.winReg 0 0xD8).getLsbD 63 && !s.namePoison 0 (old.setWidth 64) && !s.namePoison 0 (new.setWidth 64) &&
  ((teamOf s).viewAt s.clk).S64 8 == old.setWidth 64 && ((teamOf s).viewAt s.clk).S64 10 == new.setWidth 64 && memNat s.mem 0 8 == held.toNat &&
  (s.findName 0 (old.setWidth 64)).isNone && (s.findName 0 (new.setWidth 64)).isNone
/-- A word that differs, an absent new name, an absent expected name, and a swap. -/
theorem witness_Content_swap : swaps 0 5 0 = true ∧ swaps 0 0 0x14 = true ∧ swaps 5 5 0 = true ∧ swaps 0 0 0 = true := by decide +kernel
/-- Object 0 of domain 0 is valid, in version 0. -/
def objects (tags : SMap Tag) : State := { domained [] lane with
  mem := Memory.writes [] (Domain.winPhys ⟨0, 0, 16, 4, 0, [], [], false⟩ (objectOff 0)) [0, 0, 1, 0], tags := tags }
theorem read_objects (tags : SMap Tag) (k : Nat) :
    Memory.read (objects tags).mem (Domain.winPhys ⟨0, 0, 16, 4, 0, [], [], false⟩ (objectOff 0) + k) = if k = 2 then 1 else 0 := by
  rw [show (objects tags).mem = Memory.writes [] (Domain.winPhys ⟨0, 0, 16, 4, 0, [], [], false⟩ (objectOff 0)) [0, 0, 1, 0] from rfl, Memory.read_writes]
  generalize Domain.winPhys ⟨0, 0, 16, 4, 0, [], [], false⟩ (objectOff 0) = a
  split
  · rename_i h
    simp only [List.length_cons, List.length_nil] at h
    rw [show a + k - a = k by omega]
    have : k < 4 := by omega
    interval_cases k <;> rfl
  · rename_i h
    simp only [List.length_cons, List.length_nil] at h
    rw [if_neg (by omega)]; rfl
theorem object_valid (tags : SMap Tag) : (objects tags).object ⟨0, 0, 16, 4, 0, [], [], false⟩ 0 = (0, true, false, 0) := by
  have h : (objects tags).winNat ⟨0, 0, 16, 4, 0, [], [], false⟩ (objectOff 0) 16 = leNat ((List.range 16).map fun k => if k = 2 then (1 : Byte) else 0) := by
    unfold State.winNat State.readNat State.readBytes
    exact congrArg leNat (List.map_congr_left fun k _ => read_objects tags k)
  unfold State.object; rw [h]; decide +kernel
/-- A tile of object 0 in domain 0 in a state, of a version. -/
def tile (state : TagState) (version : Nat) : SMap Tag := [(0, ⟨0, state, 0, version, 0, 0, 0, 0⟩)]
theorem key_none : (((domained [] lane).contexts.find 0).bind fun c => (domained [] lane).keyDomain c 0) = none := by
  have h : (domained [] lane).object ⟨0, 0, 16, 4, 0, [], [], false⟩ (keyObject 0) = (0, false, false, 0) := by
    unfold State.object State.winNat State.readNat State.readBytes
    rw [show (fun k => Memory.read (domained [] lane).mem (Domain.winPhys ⟨0, 0, 16, 4, 0, [], [], false⟩ (objectOff (keyObject 0)) + k)) = fun _ => (0 : Byte) from rfl]
    decide +kernel
  rw [show (((domained [] lane).contexts.find 0).bind fun c => (domained [] lane).keyDomain c 0) =
    ((if ((domained [] lane).object ⟨0, 0, 16, 4, 0, [], [], false⟩ (keyObject 0)).2.1 then some (0, 0, (⟨0, 0, 16, 4, 0, [], [], false⟩ : Domain)) else none).or none) by rfl, h]
  rfl
theorem key_valid (tags : SMap Tag) : (((objects tags).contexts.find 0).bind fun c => (objects tags).keyDomain c 0) =
    some (0, 0, ⟨0, 0, 16, 4, 0, [], [], false⟩) := by
  obtain ⟨c, hc, hd, hp, hw⟩ : ∃ c, (objects tags).contexts.find 0 = some c ∧ c.domains = [0] ∧ c.part = 0 ∧ c.wdom.isSome = true := ⟨_, rfl, rfl, rfl, rfl⟩
  have hf : (objects tags).domains.find 0 = some ⟨0, 0, 16, 4, 0, [], [], false⟩ := rfl
  simp [hc, State.keyDomain, hd, hp, hw, domKey, hf]
  rw [show keyObject 0#64 = 0 by decide, object_valid]
theorem witness_Shading : issuesAll (domained [] lane) [.scq 4 2, .scfill 2 4, .scinv 2, .scframe 1] = true ∧
    (((domained [] lane).contexts.find 0).bind fun c => (domained [] lane).keyDomain c 0) = none ∧
    (∀ tags, (((objects tags).contexts.find 0).bind fun c => (objects tags).keyDomain c 0) = some (0, 0, ⟨0, 0, 16, 4, 0, [], [], false⟩)) ∧
    (∃ p ∈ ((objects (tile .valid 0)).keyTags 0 0).filter fun (p : Nat × Tag) => p.2.version == 0, p.2.state = .valid) ∧
    (∃ p ∈ ((objects (tile .inFlight 0)).keyTags 0 0).filter fun (p : Nat × Tag) => p.2.version == 0, p.2.state = .inFlight) ∧
    (∀ p ∈ ((objects (tile .valid 1)).keyTags 0 0).filter fun (p : Nat × Tag) => p.2.version == 0, p.2.state ≠ .valid ∧ p.2.state ≠ .inFlight) ∧
    (∃ d, (domained [] lane).writeDomain (teamOf (domained [] lane)) = some (0, d) ∧ (((teamOf (domained [] lane)).viewAt 0).S 1).toNat % 4096 = d.id) ∧
    (∀ l ∈ ((teamOf (domained [] lane)).viewAt 0).actives, (((teamOf (domained [] lane)).viewAt 0).V l 4).toNat ≤ 1) ∧
    (∃ t, Issues lane t (.scinv 2) ∧ lane.overfull (.scinv 2) = false ∧ lane.writeDomain t = none ∧ (t.viewAt 0).actives.head? = some 0) ∧
    (∃ t, Issues lane t (.scframe 1) ∧ lane.overfull (.scframe 1) = false ∧ lane.writeDomain t = none) ∧
    (∃ t, Issues lane t (.scfill 2 0) ∧ lane.overfull (.scfill 2 0) = false ∧ 2 ∈ (t.viewAt 0).actives ∧ 1 < ((t.viewAt 0).V 2 0).toNat) := by
  refine ⟨by decide +kernel, ?_, fun tags => ?_, by decide +kernel, by decide +kernel, by decide +kernel, ⟨_, rfl, by decide +kernel⟩, by decide +kernel,
    meets _ (by decide +kernel) (by decide +kernel), meets _ (by decide +kernel) (by decide +kernel), meets _ (by decide +kernel) (by decide +kernel)⟩
  · exact key_none
  · exact key_valid tags
theorem witness_QueueBeats : (∃ t, Issues (arrayed id id) t (.qpush 0 2) ∧ (arrayed id id).overfull (.qpush 0 2) = false ∧ t.kernel.hasCtl = true ∧
      Afresh t ∧ ∃ x, (arrayed id id).arrayOf t = some x ∧ x.pushers.getD 0 [] = [] ∧ (x.queues.getD 0 []).length + (groupsOf t.ex).length ≤ 64) ∧
    (∃ t, Issues (arrayed id id) t (.qpop 3 7) ∧ (arrayed id id).overfull (.qpop 3 7) = false ∧ t.kernel.hasCtl = true ∧
      ∃ x, (arrayed id id).arrayOf t = some x) ∧
    issuesAll lane [.qpush 3 2, .qpop 3 4] = true ∧ (teamOf lane).kernel.hasCtl = false := by
  refine ⟨meets _ (by decide +kernel) ⟨by decide +kernel, ⟨by decide +kernel, by decide +kernel⟩, _, rfl, by decide +kernel, by decide +kernel⟩,
    meets _ (by decide +kernel) ⟨by decide +kernel, _, rfl⟩, by decide +kernel, by decide +kernel⟩
/-- The command queue is full behind a load that is on its way; the array is not idle. -/
def busyArray (a : Array) : Array := { a with
  cmds := List.replicate 16 (.zero 0), slots := a.slots.set 0 ⟨false, some (0, 0), 0, [], 0, 0⟩ }
theorem loads_of {x : State × Option Nat} (h : x.2.isSome = true) : ∃ s v, x = (s, some v) := by
  obtain ⟨s, o⟩ := x; cases o <;> simp_all
theorem witness_MatrixCommands :
    issuesAll (control id) [.wbld 7 2, .mma 3 7 (.imm 1), .mzero 3, .mdrain 0, .mburst (.uni 1), .mfmt 2, .mwait 3] = true ∧
    (∃ x, (control id).arrayOf (teamOf (control id)) = some x ∧ x.queued.length < 16 ∧ x.idle = true) ∧
    addrCheck (((teamOf (control id)).viewAt 0).S64 2) 128 = none ∧
    issuesAll (control busyArray) [.wbld 7 2, .mma 3 7 (.imm 1), .mzero 3, .mdrain 0, .mburst (.uni 1), .mwait 3] = true ∧
    (∃ x, (control busyArray).arrayOf (teamOf (control busyArray)) = some x ∧ 16 ≤ x.queued.length ∧ x.idle = false) ∧
    (∀ p ∈ (teamOf (control busyArray)).slots, p.v = false) ∧
    (∃ t, Issues (machine true fun t => { t with s := [(2, 0x40)] }) t (.wbld 7 2) ∧ (machine true fun t => { t with s := [(2, 0x40)] }).overfull (.wbld 7 2) = false ∧
      addrCheck ((t.viewAt 0).S64 2) 128 = some 0x07) ∧
    (teamOf (control id)).done = 0 ∧ ((teamOf (control id)).viewAt 0).S64 2 = 0 ∧ addrCheck 0 32 = none ∧
    (∃ s1, seeAll (teamOf (control id)) .read false [(noLane, [0])] (control id) =
        ([(noLane, [(0, .ok 0 ⟨unitOf 0 4, 0, 0, 4096, 0, true, true, 0, 0⟩)])], s1) ∧
      ∃ s2 v, s1.teamLoad (teamOf (control id)) 0 32 (.ok 0 ⟨unitOf 0 4, 0, 0, 4096, 0, true, true, 0, 0⟩) = (s2, some v)) :=
  ⟨by decide +kernel, ⟨_, rfl, by decide +kernel, by decide +kernel⟩, by decide +kernel, by decide +kernel, ⟨_, rfl, by decide +kernel, by decide +kernel⟩,
    by decide +kernel, meets _ (by decide +kernel) (by decide +kernel), by decide +kernel, by decide +kernel, by decide +kernel,
    ⟨_, Prod.ext (eq_of_beq (by decide +kernel)) rfl, loads_of (by decide +kernel)⟩⟩
theorem witness_OrderedSections : issuesAll (sectioned lane) [.oenter 3 2 4, .oleave 2, .oskip 2 4] = true ∧
    (∃ x, (sectioned lane).areaOf 0 = some x) ∧ issuesAll lane [.oenter 3 2 4, .oleave 2, .oskip 2 4] = true ∧ lane.areaOf 0 = none ∧
    ((teamOf lane).viewAt 0).actives.head? = some 0 := ⟨by decide +kernel, ⟨_, rfl⟩, by decide +kernel, by decide +kernel, by decide +kernel⟩
/-- The operands of `job 10, 4, 5` and `spawn 10, 4, 5` in the uniform registers 4 and 5. -/
def jobber (off : Word) : State := { yard 8 with teams := [(0, { teamOf (yard 8) with s := [(5, off)] })] }
/-- A machine whose context has one spawn target. -/
def spawner : State := withContext lane fun c => { c with tcount := 1 }
/-- A task of the handle 0x40006001 that waits in a deck. -/
def deckTask : DeckEntry := ⟨0, 0, 0, [], false, 1, some 6, 0, 0, none, none, none, 3⟩
/-- A machine with that task, whose handle is in the uniform register 2. -/
def tasked : State := { withContext (machine false fun t => { t with s := [(2, 0x40006001)] }) fun c => { c with
    futures := [(futKey 2 6, ⟨1, true, false, none⟩)] } with
  clusters := [(0, { Cluster.idle with deck := [deckTask] })] }
/-- A card that has not started, which the handle in the uniform register 2 names. -/
def carded : State := { withContext (machine false fun t => { t with s := [(2, 0x20006001)] }) fun c => { c with
    futures := [(futKey 1 6, ⟨1, true, false, none⟩)] } with
  clusters := [(0, { Cluster.idle with cards := [Card.new 9 0 0 1 0 none false (some 6) (some 0) 0 0 0 0xFFFFFFFF false] })] }
/-- The bytes of the FILL template at 0x2000. -/
def fillBytes (flags : Byte) : List Byte := (List.range 128).map fun k => Memory.read (fillMem flags) (0x2000 + k)
theorem formCard_plain {s : State} {cl : Nat} {c : Card} {x : Context} {bs : List Byte} (hx : s.contexts.find c.ctx = some x)
    (hb : s.engineRead (yardUnit cl) c.ctx (x.tmpl + 128 * c.tmpl) 128 = .bytes bs) (hk : Card.kind { c with bytes := BitVec.ofNat 1024 (leNat bs), formed := true } = 4)
    (hp : c.poisoned = false) (ho : c.override = none) (hd : s.cardDefect { c with bytes := BitVec.ofNat 1024 (leNat bs), formed := true } = none) :
    s.formCard cl c = .ok { c with bytes := BitVec.ofNat 1024 (leNat bs), formed := true } := by
  have hn : ∀ n : BitVec 1024, BitVec.ofNat 1024 n.toNat = n := fun n => by simp
  cases c
  cases hp; cases ho
  unfold State.formCard
  simp only [hx, hb, hn, hk, hd]
  simp
theorem read_fill : (jobber 0xFFFFFFFF).engineRead (yardUnit 0) 0 0x2000 128 = .bytes (fillBytes 8) :=
  (engineRead_identity (yardUnit 0) (by decide +kernel) (by decide)).trans (congrArg EngineRead.bytes (by decide +kernel))
theorem formed_fill (slot : Nat) : ∃ c', (jobber 0xFFFFFFFF).formCard 0 (Card.new 0 0 0 1 0 none false (some slot) (some 0) 0 0 0 0xFFFFFFFF false) = .ok c' ∧
    c'.fail = none := by
  refine ⟨_, formCard_plain (bs := fillBytes 8) (x := { Context.blank 0 0 0x10000 with tmpl := 0x2000 }) rfl read_fill ?_ rfl rfl ?_, rfl⟩
  · show Card.kind { Card.new 0 0 0 1 0 none false none (some 0) 0 0 0 0xFFFFFFFF false with bytes := BitVec.ofNat 1024 (leNat (fillBytes 8)), formed := true } = 4
    decide +kernel
  · show (jobber 0xFFFFFFFF).cardDefect { Card.new 0 0 0 1 0 none false none (some 0) 0 0 0 0xFFFFFFFF false with
      bytes := BitVec.ofNat 1024 (leNat (fillBytes 8)), formed := true } = none
    decide +kernel
/-- An acceleration root at 0x400, generation 1; the handle and the targets are in the uniform pair 2. -/
def rooted (gen : Word) : State := { withContext (machine false fun t => { t with ex := 3, s := [(2, gen)] }) fun c => { c with desc := 0x400, dcount := 1 } with
  mem := [(0x410, 3), (0x420, 1)] }
/-- The root that the slot holds. -/
def rootRec : Nat := leNat ((List.range 64).map fun k => Memory.read (rooted 1).mem (0x400 + k))
theorem readSlot_rooted (gen : Word) (h : gen.toNat / 4096 = 0) (hl : lookedAt (lookFor (rooted gen) (teamOf (rooted gen)) .read false 0x400) 0x400 = true)
    (hq : (((rooted gen).claimOf (lookFor (rooted gen) (teamOf (rooted gen)) .read false 0x400)).teamLoad (teamOf (rooted gen)) 0x400 64 (lookFor (rooted gen) (teamOf (rooted gen)) .read false 0x400)).2 =
      some rootRec) : ∃ s1, (rooted gen).readSlot (teamOf (rooted gen)) gen 0 5 = .ok (s1, rootRec) :=
  ⟨_, readSlot_ok (c := { Context.blank 0 0 0x10000 with desc := 0x400, dcount := 1 }) rfl h (by decide) hl hq⟩
theorem witness_Engines :
    issuesAll (jobber 0xFFFFFFFF) [.job 10 4 5] = true ∧ condHolds (jobber 0xFFFFFFFF) 0 (teamOf (jobber 0xFFFFFFFF)) .cardRoom = true ∧
    ((teamOf (jobber 0xFFFFFFFF)).viewAt 0).S 5 = 0xFFFFFFFF ∧
    (∃ x s' slot h, (jobber 0xFFFFFFFF).contexts.find 0 = some x ∧ (jobber 0xFFFFFFFF).newFuture 0 1 = some (s', slot, h) ∧
      ∃ c', (jobber 0xFFFFFFFF).formCard 0 (Card.new (jobber 0xFFFFFFFF).serial 0 0 (x.nextSeq 0 0) 0 none false (some slot) (some 0) 0 0 0 0xFFFFFFFF false) = .ok c' ∧
        c'.fail = none) ∧
    issuesAll (jobber 0x400) [.job 10 4 5] = true ∧ (jobber 0x400).inWindow (teamOf (jobber 0x400)) 0x400 32 = false ∧
    issuesAll (jobber 0x10) [.job 10 4 5] = true ∧ (jobber 0x10).inWindow (teamOf (jobber 0x10)) 0x10 32 = true ∧
    issuesAll spawner [.spawn 10 4 5] = true ∧ condHolds spawner 0 (teamOf spawner) .deckRoom = true ∧ (teamOf spawner).depth ≠ 8 ∧
    spawner.inWindow (teamOf spawner) 0 32 = true ∧ spawner.spadPoison (teamOf spawner) 0 8 = false ∧
    (∃ x s' slot h, spawner.contexts.find 0 = some x ∧ spawner.newFuture 0 2 = some (s', slot, h) ∧ 0 < x.tcount) ∧
    (∃ t, Issues (machine false fun t => { t with depth := 8 }) t (.spawn 10 4 5) ∧ (machine false fun t => { t with depth := 8 }).overfull (.spawn 10 4 5) = false ∧
      t.depth = 8) ∧
    issuesAll carded [.fcancel 3 2] = true ∧ rawHandle (teamOf carded) 2 = none ∧ ((teamOf carded).viewAt 0).S 2 = 0x20006001 ∧
    (∃ x f c, carded.contexts.find 0 = some x ∧ x.futures.find (futKey 1 6) = some f ∧ f.live = true ∧ f.gen = 1 ∧ carded.clusters = [(0, c)] ∧
      ∃ e ∈ c.cards, e.ctx = 0 ∧ e.future = some 6 ∧ e.started = false ∧ e.fail.isNone = true ∧ e.cancelled = false) ∧
    issuesAll tasked [.fcancel 3 2] = true ∧ rawHandle (teamOf tasked) 2 = none ∧ ((teamOf tasked).viewAt 0).S 2 = 0x40006001 ∧
    (∃ x f, tasked.contexts.find 0 = some x ∧ x.futures.find (futKey 2 6) = some f ∧ f.live = true ∧ f.gen = 1 ∧ tasked.deckWait 0 6 = some 0) ∧
    issuesAll lane [.spawn 10 4 5] = true ∧ condHolds lane 0 (teamOf lane) .deckRoom = true ∧
    (∃ x s' slot h, lane.contexts.find 0 = some x ∧ lane.newFuture 0 2 = some (s', slot, h) ∧ x.tcount ≤ 0) ∧
    issuesAll handles [.fcancel 4 1, .fcancel 4 3] = true ∧ rawHandle (teamOf handles) 1 = none ∧
    issuesAll (rooted 1) [.trc 16 24 0x208] = true ∧ issuesAll (rooted 2) [.trc 16 24 0x208] = true ∧ Afresh (teamOf (rooted 1)) ∧ (teamOf (rooted 1)).kept = [] ∧ (teamOf (rooted 2)).kept = [] ∧
    slotStale rootRec 1 3 = false ∧ rootBad rootRec = false ∧ slotStale rootRec 2 3 = true ∧
    (∃ s1, (rooted 1).readSlot (teamOf (rooted 1)) 1 0 5 = .ok (s1, rootRec)) ∧
    (∃ s1, (rooted 2).readSlot (teamOf (rooted 2)) 2 0 5 = .ok (s1, rootRec)) := by
  refine ⟨by decide +kernel, by decide +kernel, by decide +kernel, ⟨_, _, _, _, rfl, rfl, formed_fill _⟩, by decide +kernel, by decide +kernel,
    by decide +kernel, by decide +kernel, by decide +kernel, by decide +kernel, by decide +kernel, by decide +kernel, by decide +kernel, ⟨_, _, _, _, rfl, rfl, by decide⟩,
    meets _ (by decide +kernel) (by decide +kernel), by decide +kernel, by decide +kernel, by decide +kernel,
    ⟨_, _, _, rfl, rfl, rfl, rfl, rfl, _, List.mem_singleton.2 rfl, rfl, rfl, rfl, rfl, rfl⟩, by decide +kernel, by decide +kernel, by decide +kernel,
    ⟨_, _, rfl, rfl, rfl, rfl, by decide +kernel⟩, by decide +kernel, by decide +kernel, ⟨_, _, _, _, rfl, rfl, by decide⟩, by decide +kernel, by decide +kernel, by decide +kernel, by decide +kernel,
    ⟨by decide +kernel, by decide +kernel⟩, by decide +kernel, by decide +kernel, by decide +kernel, by decide +kernel, by decide +kernel,
    readSlot_rooted 1 (by decide) (by decide +kernel) (by decide +kernel), readSlot_rooted 2 (by decide) (by decide +kernel) (by decide +kernel)⟩
/-- The lane team, blocked on a full word of its window, with a path in slot 2 that can run, at 0x94. -/
def deferred : State := machine false fun t => { t with
  blk := some (.words true [(0, 5)]), slots := t.slots.set 2 ⟨true, none, baseLevel, 3, 0x94, 0, 1, 0, none, []⟩ }
theorem witness_PathSwitches : ∃ t p, deferred.teams.find 0 = some t ∧ t.idle = false ∧ t.tlevel = false ∧ t.noPath = false ∧
    t.blk = some (.words true [(0, 5)]) ∧ condHolds deferred 0 t (.words true [(0, 5)]) = false ∧ bestSlot deferred 0 t = some 2 ∧ t.slots[2]? = some p :=
  ⟨_, _, rfl, by decide +kernel, by decide +kernel, by decide +kernel, rfl, by decide +kernel, by decide +kernel, rfl⟩
/-- The lane team past the first slot of a bundle of three `pfence` at 0x80. -/
def fetching (pc : Word) : State := { machine false fun t => { t with pc := pc } with
  mem := [0x88, 0x8C, 0x84].foldl (fun m a => Memory.writes m a [0x0B, 0, 0, 0xD5]) [] }
/-- A safe-point bundle of three `pfence`. -/
def spBundle : BitVec 128 := 0xD500000BD500000BD500000B40000000
/-- A mapped lane team at a safe point with a request; its save routine's table is at 0x100 and its save area ends at 0x4000. -/
def atSafe : State := mapped false fun t => { t with
  spReq := true, bundle := some (0x80, spBundle), saveBase := 0x4000, kernel := { t.kernel with spCount := 1, spTable := 0x100 } }
theorem witness_BundlesAndSafePoints :
    (∃ t pa f, (fetching 0x88).teams.find 0 = some t ∧ t.idle = false ∧ t.bundle = none ∧ t.pc.extractLsb' 2 2 ≠ 1#2 ∧
      0x80 ≤ (bundleOf t.pc).toNat ∧ (bundleOf t.pc).toNat < 0x80 + t.kernel.codeSize ∧
      (fetching 0x88).look t.unit t.ctx (t.kernel.kbase + (bundleOf t.pc).toNat) .fetch = .ok pa f ∧
      t.kernel.kbase % 16 = 0 ∧ pa % 128 = (t.kernel.kbase + (bundleOf t.pc).toNat) % 128 ∧
      (fetching 0x88).line? .code t.unit t.ctx ((t.kernel.kbase + (bundleOf t.pc).toNat) / 128) = none ∧ (fetching 0x88).poison = [] ∧
      (Control.ofWord (bundleWord (BitVec.ofNat 128 (memNat (fetching 0x88).mem pa 16)) 0)).kind ≠ 2#2 ∧
      bundleBad (BitVec.ofNat 128 (memNat (fetching 0x88).mem pa 16)) t.kernel.spCount = false ∧
      (Control.ofWord (bundleWord (BitVec.ofNat 128 (memNat (fetching 0x88).mem pa 16)) 0)).isLit (t.pc.extractLsb' 2 2).toNat = false) ∧
    (∃ t, (fetching 0x74).teams.find 0 = some t ∧ t.idle = false ∧ t.bundle = none ∧ (bundleOf t.pc).toNat < 0x80) ∧
    (∃ t, (fetching 0x284).teams.find 0 = some t ∧ t.idle = false ∧ t.bundle = none ∧ 0x80 + t.kernel.codeSize ≤ (bundleOf t.pc).toNat) ∧
    (∃ t, atSafe.teams.find 0 = some t ∧ t.bundle = some (0x80, spBundle) ∧ t.atSafePoint = true ∧
      atSafe.devBars t.ctx (t.kernel.kbase + t.kernel.spTable + 8 * (Control.ofWord (bundleWord spBundle 0)).spidx.toNat) 8 .read = none ∧
      atSafe.devBars t.ctx (t.saveBase - 2048) 2048 .write = none) := by
  refine ⟨⟨_, 0x80, _, rfl, by decide +kernel, by decide +kernel, by decide +kernel, by decide +kernel, by decide +kernel, rfl, by decide +kernel, by decide +kernel,
    by decide +kernel, by decide +kernel, by decide +kernel, by decide +kernel, by decide +kernel⟩,
    ⟨_, rfl, by decide +kernel, by decide +kernel, by decide +kernel⟩, ⟨_, rfl, by decide +kernel, by decide +kernel, by decide +kernel⟩,
    ⟨_, rfl, by decide +kernel, by decide +kernel, ?_, ?_⟩⟩
  · exact barsVia_identity none _ (by decide +kernel) (by decide +kernel)
  · exact barsVia_identity none _ (by decide +kernel) (by decide +kernel)
/-- A mapped machine whose partition is reached through port 0, changed. -/
def hosted (f : State → State) : State :=
  let s := mapped false id
  f { s with
    mgt := SMap.set 0 s.mgt 8 (BitVec.ofNat 64 (2 ^ 10))
    partitions := [(0, ⟨0, [0, 1], [(0, 2 ^ 30)], 1, [1], 0, 0, 0, 0, 1, []⟩)] }
/-- The hypotheses on the channel and the context of the host's commands. -/
def hears (s : State) (seq : Nat) : Bool :=
  s.reached 0 && seqDist seq (s.channel 0).lastAcc == 1 && decide ((s.channel 0).outstanding < 64) && s.owns 0 0
theorem accepts_of {s : State} {seq : Nat} (h : hears s seq = true) : Accepts s 0 seq ∧ s.owns 0 0 = true := by
  simp only [hears, Bool.and_eq_true, beq_iff_eq, decide_eq_true_eq] at h
  exact ⟨⟨h.1.1.1, h.1.1.2, h.1.2⟩, h.2⟩
/-- Every command of the host, on channel 0. -/
theorem command_of (q : Nat) : CommandOf (.launch 0 q 0 0 0 0 0 0 0) 0 q ∧ CommandOf (.ctxcfg 0 q 0 0) 0 q ∧ CommandOf (.inval 0 q 0 0 0) 0 q ∧
    CommandOf (.kill 0 q 0 0) 0 q ∧ CommandOf (.term 0 q 0) 0 q ∧ CommandOf (.evread 0 q 0 0 0) 0 q ∧ CommandOf (.domainCreate 0 q 0 0 0 0) 0 q ∧
    CommandOf (.domainDelete 0 q 0 0) 0 q ∧ CommandOf (.svcrole 0 q 0 0) 0 q ∧ CommandOf (.debugGrant 0 q 0 0 0 0) 0 q ∧
    CommandOf (.debugRevoke 0 q 0) 0 q ∧ CommandOf (.attest 0 q 0 0) 0 q ∧ CommandOf (.commandRefused 0 q 0 0) 0 q := by
  simp [CommandOf]
/-- A channel with as many commands outstanding as it may have. -/
def crowded : State := hosted fun s => { s with channels := [(0, ⟨0, 0, 64, []⟩)] }
theorem witness_HostChannel : lane.reached 0 = false ∧ hears (hosted id) 1 = true ∧ seqDist 2 ((hosted id).channel 0).lastAcc ≠ 1 ∧
    (hosted id).reached 0 = true ∧ crowded.reached 0 = true ∧ seqDist 1 (crowded.channel 0).lastAcc = 1 ∧ 64 ≤ (crowded.channel 0).outstanding ∧
    CommandOf (.attest 0 1 0 0) 0 1 := by
  refine ⟨by decide +kernel, by decide +kernel, by decide +kernel, by decide +kernel, by decide +kernel, by decide +kernel, by decide +kernel, by simp [CommandOf]⟩
/-- The bytes of a kernel header, of one role of `teams` teams of 32 lanes with 128 registers of each file. -/
def headerBytes (teams : Byte) : SMap Byte :=
  [(0x20000, 0x54), (0x20001, 0x48), (0x20002, 0x4B), (0x20003, 0x31), (0x20004, 1), (0x2000C, 1), (0x2000D, 1), (0x2000E, 1), (0x20014, 0xFF), (0x20015, 0xFF),
    (0x20016, 0xFF), (0x20017, 0xFF), (0x20020, 0x40), (0x20040, 32), (0x20042, teams), (0x20044, 128), (0x20045, 128), (0x20046, 1), (0x20048, 0x80)]
/-- The machine of the host's commands with the header of a kernel at 0x20000. -/
def launching (teams : Byte) : State := hosted fun s => { s with mem := s.mem ++ headerBytes teams }
/-- A terminated context. -/
def ended : State := hosted fun s => withContext s fun c => { c with terminated := true }
theorem witness_Launches : hears (launching 1) 1 = true ∧ hears (launching 64) 1 = true ∧ hears (launching 0) 1 = true ∧ hears ended 1 = true ∧
    ((hosted id).reached 0 = true ∧ seqDist 1 ((hosted id).channel 0).lastAcc = 1 ∧ ((hosted id).channel 0).outstanding < 64 ∧ (hosted id).owns 0 1 = false) ∧
    (∃ c, (launching 1).contexts.find 0 = some c ∧ c.terminated = false) ∧
    (∃ h, (launching 1).readHeader 0 0x20000 = .ok h ∧ (h.fitsEmpty && decide (5 < (h.roles.headD ⟨0, 0, 0, 0, false, 0⟩).lanes)) = true) ∧
    (0x20000 % 128 = 0 ∧ (1 : Nat) ≠ 0 ∧ 1 ≤ 2 ^ 24 ∧ (7 : Nat) ≤ 7 ∧ 8 % 8 = 0 ∧ 8 < 2 ^ 64 ∧ 0 % 4096 = 0) ∧
    (launching 0).readHeader 0 0x20000 = .bad ∧
    (∃ h, (launching 64).readHeader 0 0x20000 = .ok h ∧ (!h.fitsEmpty) = true) ∧
    (∃ c, ended.contexts.find 0 = some c ∧ c.terminated = true) ∧
    ¬ (0x20000 % 128 = 0 ∧ (0 : Nat) ≠ 0 ∧ 0 ≤ 2 ^ 24 ∧ (0 : Nat) ≤ 7 ∧ 0 % 8 = 0 ∧ 0 < 2 ^ 64 ∧ 0 % 4096 = 0) := by
  refine ⟨by decide +kernel, by decide +kernel, by decide +kernel, by decide +kernel, by decide +kernel, ⟨_, rfl, by decide +kernel⟩, exists_header (by decide +kernel) (by decide) (by decide) (by decide +kernel), by decide, ?_,
    exists_header (by decide +kernel) (by decide) (by decide) (by decide +kernel), ⟨_, rfl, by decide +kernel⟩, by decide⟩
  exact badHeader_identity (by decide +kernel) (by decide) (by decide) (by decide +kernel)
/-- A grid of context 0 with identifier 5, of `gangs` gangs, of which `retired` have retired. -/
def grid5 (gangs retired : Nat) : Grid :=
  ⟨0, 0, 5, 0, 0, gangs, 0, 0, 0, 1, 1, false, [⟨32, 1, 8, 8, false, 0x80⟩], Kernel.plain 0 0x200 none false, 0, retired, false⟩
/-- The machine of the host's commands with a mailbox, an event that is kept, and a grid. -/
def governed : State := hosted fun s => { withContext s fun c => { c with mbox := 0x3000, eventSeq := 1, events := [⟨0, 4, 0, []⟩] } with
  grids := [(gridKey 0 5, grid5 1 0)] }
theorem witness_ContextCommands : hears governed 1 = true ∧
    (∃ c, governed.contexts.find 0 = some c ∧ c.terminated = false ∧ c.mbox ≠ 0 ∧
      (c.eventSeq + 2 ^ 32 - 0 % 2 ^ 32) % 2 ^ 32 ≤ c.events.length ∧ (c.eventSeq + 2 ^ 32 - 0 % 2 ^ 32) % 2 ^ 32 < 2 ^ 31) ∧
    (∃ p, (governed.teams.find? fun (p : Nat × Team) => p.2.ctx == 0 && p.2.ident == 0) = some p) ∧
    (∃ gr, governed.grids.find (gridKey 0 5) = some gr) :=
  ⟨by decide +kernel, ⟨_, rfl, by decide +kernel, by decide +kernel, by decide +kernel, by decide +kernel⟩, ⟨_, rfl⟩, ⟨_, rfl⟩⟩
/-- The machine of the host's commands with domain 3 of 16 heap slots. -/
def withDomain (named : Bool) : State := hosted fun s =>
  { withContext s fun c => { c with wdom := if named then some 3 else none } with domains := [(domKey 0 3, ⟨3, 0, 16, 4, 0, [], [], false⟩)] }
theorem witness_PartitionCommands : hears (hosted id) 1 = true ∧ (hosted id).contexts.find 1 = none ∧ descOk (0 : BitVec 1024).toNat = true ∧
    (hosted id).descDomains 0 (0 : BitVec 1024).toNat = true ∧ (4095 : Nat) < 4096 ∧ heapOk (2 ^ 24) = true ∧ tableLog (2 ^ 28) = some 28 ∧
    (hosted id).domains.find (domKey 0 4095) = none ∧ hears (withDomain false) 1 = true ∧ (withDomain false).domainNamed 0 3 = false ∧
    (∃ d, (withDomain false).domains.find (domKey 0 3) = some d) ∧ hears (withDomain true) 1 = true ∧ (withDomain true).domainNamed 0 3 = true ∧
    (∃ c, (withDomain true).contexts.find 0 = some c) ∧ (hosted id).lmsLeaf < 2 ^ 20 :=
  ⟨by decide +kernel, by decide +kernel, by decide +kernel, by decide +kernel, by decide, by decide +kernel, by decide +kernel, by decide +kernel,
    by decide +kernel, by decide +kernel, ⟨_, rfl⟩, by decide +kernel, by decide +kernel, ⟨_, rfl⟩, by decide +kernel⟩
/-- A team that has ended. -/
def pastEnd : State := machine false fun t => { t with ended := true }
/-- A place as a check. -/
def placesFresh (w : Option (Waiting × Nat × Nat × Nat)) (cluster base : Nat) : Bool :=
  match w with | some (.fresh _, m, c, b) => m == 1 && c == cluster && b == base | _ => false
theorem exists_fresh {w : Option (Waiting × Nat × Nat × Nat)} {cluster base : Nat} (h : placesFresh w cluster base = true) :
    ∃ gr, w = some (.fresh gr, 1, cluster, base) := by
  unfold placesFresh at h
  split at h
  · rename_i gr m c b
    simp only [Bool.and_eq_true, beq_iff_eq] at h
    obtain ⟨⟨rfl, rfl⟩, rfl⟩ := h
    exact ⟨gr, rfl⟩
  · simp at h
/-- A machine with a grid that waits for a place. -/
def placing : State := hosted fun s => { s with grids := [(gridKey 0 5, grid5 1 0)], serial := 9 }
theorem witness_Lifecycle : (∃ t, pastEnd.teams.find 0 = some t ∧ pastEnd.teamEnds 0 t = true) ∧
    (∃ gr c, (hosted fun s => { s with grids := [(gridKey 0 5, grid5 1 1)] }).grids.find (gridKey 0 5) = some gr ∧ gr.gangs ≤ gr.retired ∧
      (hosted fun s => { s with grids := [(gridKey 0 5, grid5 1 1)] }).contexts.find 0 = some c) ∧
    (∃ gr, placing.placeable 0 = some (.fresh gr, 1, 0, 0)) ∧ ∀ k x, placing.teams.find k = some x → x.gang ≠ placing.serial := by
  refine ⟨⟨_, rfl, by decide +kernel⟩, ⟨_, _, rfl, by decide +kernel, rfl⟩, exists_fresh (by decide +kernel), ?_⟩
  intro k x h
  have : ∀ q ∈ placing.teams, q.2.gang ≠ placing.serial := by decide +kernel
  exact this (k, x) (mem_of_find h)
/-- The lane machine with its gang changed. -/
def ganged (f : Gang → Gang) (g : Team → Team) : State := (mapped false g).updGang 0 f
/-- Half a second after a request that the team has not followed. -/
def lateGang : State := { ganged (fun g => { g with residency := .leaving, requested := some 0 }) id with clk := 600000 }
/-- A gang whose team's routine has been saved. -/
def leftGang : State := ganged (fun g => { g with residency := .leaving }) fun t => { t with gone := true }
/-- A gang that was swapped out, a task's, whose team has its control block at 0x20000, with lane 0 live. -/
def savedGang : State :=
  let s := ganged (fun g => { g with residency := .saved 0, task := true }) fun t => { t with gone := true, saveBase := 0x20800 }
  { s with mem := s.mem ++ [(0x200C0, 1)], partitions := [(0, ⟨0, [0, 1], [(0, 2 ^ 30)], 1, [1], 0, 0, 0, 0, 1, []⟩)] }
theorem leNat_single (n k : Nat) (h : k < n) : leNat ((List.range n).map fun i => if i = k then (1 : Byte) else 0) = 256 ^ k := by
  induction n generalizing k with
  | zero => omega
  | succ n ih =>
    rw [List.range_succ_eq_map, List.map_cons, List.map_map, leNat]
    cases k with
    | zero =>
      have z : ∀ m : Nat, leNat (List.replicate m (0 : Byte)) = 0 := by
        intro m; induction m with
        | zero => rfl
        | succ m ih => rw [List.replicate_succ, leNat, ih]; rfl
      have : (List.range n).map ((fun i => if i = 0 then (1 : Byte) else 0) ∘ Nat.succ) = List.replicate n 0 := by
        simp [List.eq_replicate_iff]
      rw [this, z]; rfl
    | succ k =>
      have : ((fun i => if i = k + 1 then (1 : Byte) else 0) ∘ Nat.succ) = fun i => if i = k then 1 else 0 := by
        funext i; simp
      rw [this, ih k (by omega), Nat.pow_succ]; simp [Nat.mul_comm]
theorem block_savedGang : leNat ((List.range 2048).map fun k => Memory.read savedGang.mem (0x20000 + k)) = 256 ^ 0xC0 := by
  rw [← leNat_single 2048 0xC0 (by decide), show savedGang.mem =
    [(0x10000, 0x01), (0x10001, 0x10), (0x10002, 0x01), (0x11000, 0x01), (0x11001, 0x20), (0x11002, 0x01), (0x12000, 0x0F), (0x200C0, 1)] from rfl]
  congr 2; funext k
  simp only [Memory.read, SMap.get, Memory.dflt]
  repeat rw [if_neg (by omega)]
  split <;> split <;> first | rfl | omega
/-- A place as a check. -/
def placesSaved (w : Option (Waiting × Nat × Nat × Nat)) (gang cluster base : Nat) : Bool :=
  match w with | some (.saved g, m, c, b) => g == gang && m == 1 && c == cluster && b == base | _ => false
theorem saved_of {w : Option (Waiting × Nat × Nat × Nat)} {gang cluster base : Nat} (h : placesSaved w gang cluster base = true) :
    w = some (.saved gang, 1, cluster, base) := by
  unfold placesSaved at h
  split at h
  · rename_i g m c b
    simp only [Bool.and_eq_true, beq_iff_eq] at h
    obtain ⟨⟨⟨rfl, rfl⟩, rfl⟩, rfl⟩ := h
    rfl
  · simp at h
theorem witness_Preemption : (∃ g, lane.gangs.find 0 = some g ∧ g.residency = .resident) ∧
    (∃ g c, lateGang.gangs.find 0 = some g ∧ lateGang.timeoutDue 0 g = true ∧ lateGang.contexts.find g.ctx = some c) ∧
    (∃ g, leftGang.gangs.find 0 = some g ∧ leftGang.canSave 0 g = true) ∧
    (∃ g, savedGang.gangs.find 0 = some g ∧ savedGang.placeable g.part = some (.saved 0, 1, 0, 0) ∧
      ∀ x ∈ savedGang.teams, x.2.gang = 0 → savedGang.teams.find x.1 = some x.2 ∧
        ∃ bs, savedGang.devRead x.2.ctx (x.2.saveBase - 2048) 2048 = .ok bs ∧ blockBad x.2 (leNat bs) = false) := by
  refine ⟨⟨_, rfl, by decide +kernel⟩, ⟨_, _, rfl, by decide +kernel, rfl⟩, ⟨_, rfl, by decide +kernel⟩, ⟨_, rfl, saved_of (by decide +kernel), ?_⟩⟩
  intro x hx _
  have e : savedGang.teams = [(0, teamOf savedGang)] := by decide +kernel
  rw [e] at hx
  cases List.mem_singleton.1 hx
  refine ⟨by decide +kernel, _, readVia_identity none (by decide +kernel) _ _ (by decide +kernel), ?_⟩
  have k : (teamOf savedGang).saveBase - 2048 = 0x20000 := by decide +kernel
  simp only [k, block_savedGang]
  decide +kernel
/-- The bytes of a kernel header at 0x20000, of one role, and of a target at 0x21000 that names it, with 8 registers of each file. -/
def targetBytes : SMap Byte :=
  [(0x20000, 0x54), (0x20001, 0x48), (0x20002, 0x4B), (0x20003, 0x31), (0x20004, 1), (0x2000C, 1), (0x2000D, 1), (0x2000E, 1), (0x20014, 0xFF), (0x20015, 0xFF),
    (0x20016, 0xFF), (0x20017, 0xFF), (0x20020, 0x40), (0x20040, 32), (0x20042, 1), (0x20044, 8), (0x20045, 8), (0x20046, 1), (0x20048, 0x80),
    (0x21002, 2), (0x21008, 0x80), (0x2100C, 8), (0x2100D, 8)]
/-- A deck of one entry for target 0, in a context of `n` targets with one task slot of 1 MiB at 0x100000. -/
def decked (n : Nat) : State :=
  let s := withContext (mapped false id) fun c => { c with tgt := 0x21000, tcount := n, tpool := 0x100000, tpcount := 1, tpsize := 2 ^ 20 }
  { s with
    mem := s.mem ++ targetBytes
    clusters := [(0, { Cluster.idle with deck := [⟨0, 0, 7, [], false, 1, none, 0, 0, none, none, none, 3⟩] })]
    serial := 9 }
/-- The same deck, which may not dispatch yet. -/
def waitingDeck : State :=
  { decked 1 with clusters := [(0, { Cluster.idle with deck := [⟨0, 0, 7, [], false, 1, none, 0, 0, none, none, none, 3⟩], nextDispatch := 2 ^ 40 })] }
/-- The kernel header and the target of `targetBytes`. -/
def header0 : Header := ⟨⟨0x20000, 0x40, none, 0, 0, false, false, false, false, 0⟩, 1, 1, false, [⟨32, 1, 8, 8, false, 0x80⟩]⟩
def target0 : Target := ⟨header0.kernel, 0x80, 8, 8, false, 0⟩
theorem header_decked : parseHeader 0x20000 (numAt (decked 1) 0x20000 128) = some header0 := by
  rw [show numAt (decked 1) 0x20000 128 = 0x80000108080001002000000000000000000000000000000000000000000000000000000000000000400000000000000000FFFFFFFF00000000000101010000000000000001314B4854 from by decide +kernel]
  decide +kernel
theorem readTarget_identity {s : State} {c : Context} {x n : Nat} {h : Header} (hs : identity s = true) (hc : s.contexts.find 0 = some c)
    (hx : ¬ c.tcount ≤ x) (ha : c.tgt + 32 * x + 32 ≤ 2 ^ 30) (hn : numAt s (c.tgt + 32 * x) 32 = n)
    (h1 : ¬ (field n 8 4 % 16 ≠ 0 || !budgetOk (field n 0xC 1) || !budgetOk (field n 0xD 1) || decide (1 < field n 0xE 1) || field n 0xF 1 ≠ 0 ||
      field n 0x10 4 % 256 ≠ 0 || decide (262144 < field n 0x10 4) || field n 0x14 4 ≠ 0) = true) (hh : s.readHeader 0 (field n 0 8) = .ok h)
    (h2 : ¬ (field n 8 4 < 0x80 || decide (0x80 + h.kernel.codeSize ≤ field n 8 4) || !h.fitsEmpty) = true) : s.readTarget 0 x =
      .ok ⟨h.kernel.forTask (field n 0x10 4), BitVec.ofNat 32 (field n 8 4), field n 0xC 1, field n 0xD 1, field n 0xE 1 == 1, BitVec.ofNat 64 (field n 0x18 8)⟩ := by
  unfold numAt at hn
  unfold State.readTarget
  simp only [hc]
  rw [if_neg hx, engineRead_identity none hs ha]
  simp only [hn]
  rw [if_neg h1, hh]
  simp only
  rw [if_neg h2]
theorem target_decked : (decked 1).readTarget 0 0 = .ok target0 := by
  have i : identity (decked 1) = true := by decide +kernel
  have e := readTarget_identity (c := { Context.blank 0 0 0x10000 with tgt := 0x21000, tcount := 1, tpool := 0x100000, tpcount := 1, tpsize := 2 ^ 20 })
    (x := 0) (n := 0x808000000800000000000020000) (h := header0) i rfl (by decide) (by decide) (by decide +kernel) (by decide +kernel)
    (readHeader_identity i (by decide +kernel) (by decide +kernel) (by rw [show field 0x808000000800000000000020000 0 8 = 0x20000 from by decide +kernel]; exact header_decked))
    (by decide +kernel)
  rw [e]
  exact congrArg RecordRead.ok (by decide +kernel)
theorem bad_decked : (decked 0).readTarget 0 0 = .bad := rfl
theorem witness_Decks :
    (∃ k e c, (decked 1).clusters.find 0 = some k ∧ k.headEntry (decked 1).clk = some e ∧ e.bin = none ∧ k.nextDispatch ≤ (decked 1).clk ∧
      (decked 1).yieldsTo e = false ∧ (decked 1).readTarget e.ctx e.target = .ok target0 ∧ (decked 1).contexts.find e.ctx = some c ∧
      (decked 1).binSize 0 target0 (min (k.binOf (decked 1).clk e).length 32) ≠ 0 ∧ c.tpcount ≠ 0 ∧
      taskArea ((decked 1).binSize 0 target0 (min (k.binOf (decked 1).clk e).length 32)) target0 ≤ c.tpsize ∧ c.freeTask = some 0 ∧
      (decked 1).devBars e.ctx (c.tpool + 0 * c.tpsize + crewRecord target0.kernel.scratch) 2048 .write = none) ∧
    (∃ k e c, (decked 0).clusters.find 0 = some k ∧ k.headEntry (decked 0).clk = some e ∧ e.bin = none ∧ k.nextDispatch ≤ (decked 0).clk ∧
      (decked 0).yieldsTo e = false ∧ (decked 0).readTarget e.ctx e.target = .bad ∧ (decked 0).contexts.find e.ctx = some c) ∧
    waitingDeck.deckIdle 1 = true ∧ waitingDeck.removing.contains 1 = false ∧ waitingDeck.victimOf 1 = some 0 :=
  ⟨⟨_, _, _, rfl, rfl, rfl, by decide +kernel, by decide +kernel, target_decked, rfl, by decide +kernel, by decide +kernel, by decide +kernel, by decide +kernel,
      barsVia_identity none _ (by decide +kernel) (by decide +kernel)⟩,
    ⟨_, _, _, rfl, rfl, rfl, by decide +kernel, by decide +kernel, bad_decked, rfl⟩, by decide +kernel, by decide +kernel, by decide +kernel⟩
/-- The bytes of a FILL card of 8 bytes to offset 0, with FLAGS and a stamp. -/
def fillCard (flags stamp : Nat) : Card := { Card.new 9 0 0 1 0 none false (some 6) (some 0) 0 0 0 0 false with
  bytes := BitVec.ofNat 1024 (4 + flags * 2 ^ 8 + 8 * 2 ^ 128 + 2 ^ 160 + 2 ^ 176 + 0xAB * 2 ^ 320 + stamp * 2 ^ 448), formed := true }
/-- A mapped machine whose yarder has a card, with its future. -/
def yarding (c : Card) : State := { withContext (mapped false id) fun x => { x with futures := [(futKey 1 6, ⟨1, true, false, none⟩)] } with
  clusters := [(0, { Cluster.idle with cards := [c] })] }
/-- The card has started. -/
def running (flags stamp : Nat) : Card := { fillCard flags stamp with started := true }
/-- The card has landed everything. -/
def landedAll (stamp : Nat) : Card := { running 8 stamp with landed := [(0, true)] }
theorem witness_YarderJobs :
    (∃ k, (yarding (fillCard 8 0)).clusters.find 0 = some k ∧ k.nextCard = some (fillCard 8 0)) ∧ (fillCard 8 0).kind ≠ 5 ∧
    (yarding (running 8 0)).card? 0 9 = some (running 8 0) ∧ (running 8 0).steps = false ∧ (running 8 0).kind = 4 ∧ (running 8 0).flag 2 = false ∧
    0 < (running 8 0).landings ((yarding (running 8 0)).cardSize (running 8 0)) ∧
    ((running 8 0).move ((yarding (running 8 0)).cardSize (running 8 0)) 0 0).dst = .pad [0] 0 ∧ (∃ g, (yarding (running 8 0)).gangs.find 0 = some g) ∧
    (yarding (running 9 0)).card? 0 9 = some (running 9 0) ∧ (running 9 0).steps = true ∧ (running 9 0).kind = 4 ∧ (running 9 0).flag 2 = false ∧
    1 < (running 9 0).landings ((yarding (running 9 0)).cardSize (running 9 0)) ∧
    ((running 9 0).move ((yarding (running 9 0)).cardSize (running 9 0)) 1 0).dst = .pad [0] 4 ∧ (yarding (running 9 0)).permit (running 9 0) 1 = true ∧
    (yarding (landedAll 0)).card? 0 9 = some (landedAll 0) ∧ (yarding (landedAll 0)).completes (landedAll 0) = true ∧ (landedAll 0).kind ≠ 5 ∧
    (landedAll 0).counts = false ∧ (landedAll 0).f 0x38 8 = 0 ∧ (landedAll 0).fail = none ∧
    (yarding (landedAll 0x208)).card? 0 9 = some (landedAll 0x208) ∧ (yarding (landedAll 0x208)).completes (landedAll 0x208) = true ∧
    (landedAll 0x208).counts = false ∧ (landedAll 0x208).kind ≠ 5 ∧ (landedAll 0x208).f 0x38 8 = 0x208 ∧
    (∀ c ∈ [running 8 0, running 9 0], c.started = true ∧ c.fail = none ∧ c.halted = none ∧ c.progDue = false) ∧
    (running 8 0).landed.get false 0 = false ∧ (running 9 0).landed.get false 1 = false ∧ (∃ f, (yarding (landedAll 0x208)).lookVia (yardUnit 0) 0 0x208 .rmw = .ok 0x208 f) := by
  refine ⟨⟨_, rfl, by decide +kernel⟩, by decide +kernel, by decide +kernel, by decide +kernel, by decide +kernel, by decide +kernel, by decide +kernel,
    by decide +kernel, ⟨_, rfl⟩, by decide +kernel, by decide +kernel, by decide +kernel, by decide +kernel, by decide +kernel, by decide +kernel,
    by decide +kernel, by decide +kernel, by decide +kernel, by decide +kernel, by decide +kernel, by decide +kernel, by decide +kernel, by decide +kernel,
    by decide +kernel, by decide +kernel, by decide +kernel, by decide +kernel, by decide +kernel, by decide +kernel, by decide +kernel, lookVia_identity _ _ (by decide +kernel) (by decide +kernel)⟩
/-- A collective of group 5 of context 0 with operation 7, of which the ranks of another package have all come. -/
def gathered (disagree : Bool) : State := { lane with
  partitions := [(0, ⟨0, [0], [(0, 2 ^ 30)], 1, [1], 5, 0, 0, 0, 1, []⟩)]
  clusters := [(0, { Cluster.idle with cards := [Card.new 9 0 0 1 0 none false none none 0 0 0 0 false] })]
  collectives := [⟨5, 0, 7, [⟨0, 1, 2, 1, [3]⟩], [(0, 9, 0)], disagree⟩] }
theorem aperture_formed : ∃ x k c, (yard 0).context? 0 = some x ∧ (yard 0).clusters.find 0 = some k ∧ k.cards.length < 64 ∧
    (yard 0).formCard 0 (Card.new (yard 0).serial 0 (0 % 16) (x.nextSeq 0 (0 % 16)) (BitVec.extractLsb' 0 8 (0 : DWord)).toNat none false none none 0 0 0 0 true) = .ok c ∧
    c.fail = none := by
  have i : identity (yard 0) = true := by decide +kernel
  refine ⟨_, _, _, rfl, rfl, by decide +kernel, formCard_plain (x := { Context.blank 0 0 0x10000 with tmpl := 0x2000 }) rfl
    (engineRead_identity _ (va := 0x2000) i (by decide)) ?_ rfl rfl ?_, rfl⟩
  · exact of_decide_eq_true (p := Card.kind _ = 4) (by decide +kernel)
  · exact of_decide_eq_true (p := State.cardDefect _ _ = none) (by decide +kernel)
theorem witness_Collectives :
    (∃ x p ps, (gathered false).collectives.find? (·.named (BitVec.ofNat 64 5) 0 7) = some x ∧ x.disagree = false ∧ x.parts = p :: ps ∧
      p.nrank = x.parts.length ∧ (0, 9, 0) ∈ x.jobs ∧ ∃ c, (gathered false).card? 0 9 = some c) ∧
    (∃ x, (gathered true).collectives.find? (·.named (BitVec.ofNat 64 5) 0 7) = some x ∧ x.disagree = true ∧ (0, 9, 0) ∈ x.jobs ∧
      ∃ c, (gathered true).card? 0 9 = some c) ∧
    (gathered false).collectives.find? (·.named (BitVec.ofNat 64 5) 0 8) = none ∧
    (∃ x, (gathered false).collectives.find? (·.named ((gathered false).groupOf 0) 0 7) = some x) ∧
    ((0 : DWord).extractLsb' 8 56 = 0#56) :=
  ⟨⟨_, _, _, rfl, rfl, rfl, by decide +kernel, by decide +kernel, _, rfl⟩, ⟨_, rfl, rfl, by decide +kernel, _, rfl⟩, by decide +kernel, ⟨_, rfl⟩, by decide⟩
/-- A mapped machine whose team waits for the answer to fault record 1, which the supervisor has given; the ring is at 0x21000. -/
def answered (r : Byte) : State :=
  let s := withContext (mapped false fun t => { t with halt := 7, faultSeq := some 1 }) fun c => { c with fring := 0x21000, flog := 6 }
  { s with mem := s.mem ++ [(0x21028, r)], faults := [⟨0, 1, 0x5000, .team 0, [], true, none⟩] }
theorem answer_identity {s : State} {c : Context} {f : FaultRec} {n : Nat} (hs : identity s = true) (hc : s.contexts.find 0 = some c) (hf : f.ctx = 0)
    (hw : f.written = true) (hr : f.resp = none) (ha : c.faultSlot f.sn + 0x28 + 8 ≤ 2 ^ 30) (hn : numAt s (c.faultSlot f.sn + 0x28) 8 = n) (h0 : n ≠ 0) : s.answer f = some n := by
  unfold numAt at hn
  simp [State.answer, hf, hc, hr, State.devNat, State.devRead, readVia_identity none hs 8 _ ha, hn, hw, h0]
theorem answer_answered (r : Byte) (hr : r ≠ 0) (hi : identity (answered r) = true) (hn : numAt (answered r) 0x21028 8 = r.toNat) :
    ∃ f, (answered r).fault? 0 1 = some f ∧ (answered r).answer f = some r.toNat ∧ f.agent = .team 0 :=
  ⟨_, rfl, answer_identity (c := { Context.blank 0 0 0x10000 with fring := 0x21000, flog := 6 }) hi rfl rfl rfl rfl (by decide +kernel) hn
    (fun h => hr (BitVec.eq_of_toNat_eq h)), rfl⟩
/-- A walk's end as a check. -/
def walksTo (w : Walk) (page : Bool) : Bool := match w with | .page _ _ _ _ _ _ _ => page | .fault _ _ _ => !page
theorem witness_WalksAndAnswers :
    (∃ x, (yard 0).context? 0 = some x) ∧ (∃ vb size pb r w cls dom, (yard 0).answerWalk 0 0x5000 = .page vb size pb r w cls dom) ∧
    (∃ k l e, (yard 0).answerWalk 0 (2 ^ 40) = .fault k l e) ∧
    (∀ y ∈ (yard 0).translations, y.covers 8 0 0 = false) ∧
    (∃ f, (answered 1).fault? 0 1 = some f ∧ (answered 1).answer f = some 1 ∧ f.agent = .team 0) ∧
    (∃ t, (answered 1).teams.find 0 = some t ∧ t.halt = 7) ∧
    (∃ f, (answered 2).fault? 0 1 = some f ∧ (answered 2).answer f = some 2 ∧ f.agent = .team 0) ∧ (∃ c, (answered 2).context? 0 = some c) := by
  refine ⟨⟨_, rfl⟩, ?_, ?_, by decide +kernel, answer_answered 1 (by decide) (by decide +kernel) (by decide +kernel), ⟨_, rfl, by decide +kernel⟩,
    answer_answered 2 (by decide) (by decide +kernel) (by decide +kernel), ⟨_, rfl⟩⟩
  · have h : walksTo ((yard 0).answerWalk 0 0x5000) true = true := by decide +kernel
    cases e : (yard 0).answerWalk 0 0x5000 with
    | page => exact ⟨_, _, _, _, _, _, _, rfl⟩
    | fault => rw [e] at h; simp [walksTo] at h
  · have h : walksTo ((yard 0).answerWalk 0 (2 ^ 40)) false = true := by decide +kernel
    cases e : (yard 0).answerWalk 0 (2 ^ 40) with
    | page => rw [e] at h; simp [walksTo] at h
    | fault => exact ⟨_, _, _, rfl⟩
/-- The mapped `ctl` machine, its array as `g` makes it. -/
def arrayAt (g : Array → Array) : State := (mapped true id).updGang 0 fun x => { x with array := some (g Array.new) }
/-- The gang of `arrayAt` and its array. -/
theorem arrayGang_at (g : Array → Array) : ∃ x, (arrayAt g).arrayGang 0 = some (0, x, g Array.new) ∧ (arrayAt g).gangs.find 0 = some x ∧ x.ctx = 0 :=
  ⟨_, rfl, rfl, rfl⟩
/-- A chunk of 32 beats waits for its `mma`, under the format block of zeros. -/
def ready (a : Array) : Array := { a with
  cmds := [.mma 0 0 1 0x84], fmt := some 0, ramp := .warm, queues := a.queues.set 0 (List.replicate 32 (0, 0))
  slots := a.slots.set 0 ⟨true, none, 0, [], 1, 0⟩ }
/-- A chunk whose A is without a finite element. -/
def nanChunk : Chunk := ⟨0, 0, 0, 0, List.replicate 32 (BitVec.ofNat 1024 (128 * ((2 ^ 1024 - 1) / 255))), [], [], 0, none, false⟩
theorem sumInts_zero (l : List Nat) (g : Nat → Int) (h : ∀ k, g k = 0) : sumInts (l.map g) = 0 := by
  have : l.map g = List.replicate l.length 0 := by simp [List.eq_replicate_iff, h]
  rw [this, sumInts]
  induction l.length with
  | zero => rfl
  | succ n ih => simpa [List.replicate_succ] using ih
theorem checkChunk_exempt (as bs : List (List Mx)) (f : Nat → Nat → Int) (h : notExempt as = []) : checkChunk as bs f = ⟨[], []⟩ := by
  have z : ∀ k, ((List.range 32).map fun _ => sumInts ([] : List Int)).getD k 0 = 0 := by
    intro k
    rw [List.getD_eq_getElem?_getD, List.getElem?_map]
    cases (List.range 32)[k]? <;> rfl
  unfold checkChunk
  simp only [h, List.map_nil, List.filter_nil, z, Int.zero_mul]
  congr 1
  rw [List.filter_eq_nil_iff]
  intro j _
  rw [sumInts_zero _ _ fun _ => rfl]; decide
/-- The bytes of a weight image of one empty chunk. -/
def imageBytes : SMap Byte := [(0x21000, 0x57), (0x21001, 0x57), (0x21002, 0x42), (0x21003, 0x31), (0x21008, 1), (0x2100C, 0x80), (0x2100D, 2)]
/-- The image is loading. -/
def loadingImage : State := let s := arrayAt fun a => { a with slots := a.slots.set 7 ⟨true, some (0x21000, 0x84), 0, [], 0, 0⟩ }
  { s with mem := s.mem ++ imageBytes }
theorem arrayRead_identity {s : State} {va n : Nat} (h : identity s = true) (ha : va + n ≤ 2 ^ 30) :
    s.arrayRead 0 0 va n = .bytes ((List.range n).map fun k => Memory.read s.mem (va + k)) := by
  have hp : s.poison = [] := by simp only [identity, Bool.and_eq_true, List.isEmpty_iff] at h; exact h.1.1.1.1.1.1
  unfold State.arrayRead
  rw [barsVia_identity _ .read h ha]
  simp only [readVia_identity _ h n va ha]
  rw [if_neg]
  simp [State.poisonVia, State.poisoned, hp]
/-- The header of the image. -/
def imageHead : List Byte := [0x57, 0x57, 0x42, 0x31, 0, 0, 0, 0, 1, 0, 0, 0, 0x80, 2] ++ List.replicate 114 0
theorem image_head : ((List.range 128).map fun k => Memory.read loadingImage.mem (0x21000 + k)) = imageHead := by decide +kernel
theorem image_read : ((List.range 640).map fun k => Memory.read loadingImage.mem (0x21000 + k)) = imageHead ++ List.replicate 512 0 := by decide +kernel
theorem witness_MatrixEvents :
    (∃ g, (arrayAt ready).arrayGang 0 = some (0, g, ready Array.new) ∧ (arrayAt ready).gangs.find 0 = some g ∧ g.ctx = 0) ∧
    (ready Array.new).chunkReady = true ∧ (ready Array.new).ramp ≠ .cold ∧ (ready Array.new).ramp ≠ .rampUp ∧
    (ready Array.new).cmds = .mma 0 0 1 0x84 :: [] ∧ scaleReads (ready Array.new) 0 0 0 = ([], []) ∧ (arrayAt ready).arrayReads 0 0 [] = .bytes [] ∧
    ((arrayAt ready).winReg 0 (clusterReg 0 0x58)).getLsbD 63 = false ∧
    (∃ g, (arrayAt fun a => { a with chunk := some nanChunk }).arrayGang 0 = some (0, g, { Array.new with chunk := some nanChunk })) ∧
    nanChunk.stopped = false ∧ nanChunk.inject = none ∧
    (∀ f, checkChunk (Array.chunkRows { Array.new with chunk := some nanChunk } nanChunk) (Array.chunkColumns { Array.new with chunk := some nanChunk } nanChunk) f = ⟨[], []⟩) ∧
    (∃ g a, loadingImage.arrayGang 0 = some (0, g, a) ∧ g.ctx = 0 ∧ (a.slots[7]?).bind (·.loading) = some (0x21000, 0x84) ∧ a.halted = none) ∧
    (∃ h img, loadingImage.arrayRead 0 0 (0x21000 : DWord).toNat 128 = .bytes h ∧ headerGood h = true ∧
      loadingImage.arrayRead 0 0 (0x21000 : DWord).toNat (field (leNat h) 12 4) = .bytes img ∧
      recordsGood (field (leNat h) 4 1) (field (leNat h) 8 4) (img.drop 128) = true) ∧
    Array.drainReady { Array.new with draining := some 3 } = true ∧ Array.ramp { Array.new with cmds := [.mma 0 0 1 0x84] } = .cold ∧
    (∃ c, (arrayAt id).contexts.find 0 = some c) ∧ (arrayAt id).arrayHere 0 0 = true ∧ lane.arrayHere 0 0 = false ∧ ((0 : DWord).extractLsb' 12 10).toNat ≤ 591 := by
  have i : identity loadingImage = true := by decide +kernel
  refine ⟨arrayGang_at _, by decide +kernel, by decide +kernel, by decide +kernel, by decide +kernel, by decide +kernel, rfl, by decide +kernel,
    ⟨_, rfl⟩, rfl, rfl, fun f => checkChunk_exempt _ _ _ (by decide +kernel), ⟨_, _, rfl, rfl, rfl, rfl⟩, ?_, by decide +kernel, by decide +kernel, ⟨_, rfl⟩, by decide +kernel, by decide +kernel, by decide⟩
  have r1 : loadingImage.arrayRead 0 0 (0x21000 : DWord).toNat 128 = .bytes imageHead :=
    (arrayRead_identity i (by decide)).trans (congrArg ArrayRead.bytes image_head)
  have r2 : loadingImage.arrayRead 0 0 (0x21000 : DWord).toNat 640 = .bytes (imageHead ++ List.replicate 512 0) :=
    (arrayRead_identity i (by decide)).trans (congrArg ArrayRead.bytes image_read)
  exact ⟨imageHead, _, r1, by decide +kernel, by rw [show field (leNat imageHead) 12 4 = 640 from by decide +kernel]; exact r2, by decide +kernel⟩
/-- The key of the section area of `sectioned`. -/
def sectKey : Nat := 0x100000
/-- The place of key 5 in an area of 64 cells, and of the team's identity in its holder table. -/
def sectAt : Nat := (sectProbes 5 6).headD 0
def identAt : Nat := (sectProbes 0 12).headD 0
/-- A cell of key 5 that no one holds; one that the team holds; and one that another holder does. -/
def freeCell : Cell := ⟨5, 3, true, false, false, false, 0⟩
def heldCell : Cell := ⟨5, 3, true, false, true, false, identAt⟩
/-- A machine whose area has cell `c` at the place of key 5; the team has an `oenter` of the turn `sq`. -/
def entering (c : Cell) (h : SMap Holder) (sq : Word) (arrived : Bool) (clk : Nat) : State := { sectioned (machine false fun t => { t with
    enters := [⟨7, 3, 0, [⟨0, 5, sq⟩], if arrived then [] else [5], if arrived then [⟨0, 5, sq⟩] else [], [], [], []⟩]
    pends := [⟨7, .p, 3, 1, 10, 0x80, .entering 7, []⟩] }) with
  clk := clk, areas := [(sectKey, ⟨0x100000, 6, [(sectAt, c)], h, []⟩)] }
/-- The team holds a cell. -/
def mine : SMap Holder := [(identAt, ⟨0, 1, true, false⟩)]
/-- What the statements ask of the area and the `oenter`. -/
def sectOk (s : State) (c : Cell) (sq : Word) : Bool :=
  match s.enter? 0 7, s.areaOf 0 with
  | some (t, e), some (k, a) => k == sectKey && a.find 5 == some sectAt && a.cell sectAt == c && (e.lanes.filter (·.key == 5)) == [⟨0, 5, sq⟩] &&
      a.queue.isEmpty && !s.cellPoison a 5 && t.ctx == 0
  | _, _ => false
theorem sect_of {s : State} {c : Cell} {sq : Word} (h : sectOk s c sq = true) : ∃ t e a, s.enter? 0 7 = some (t, e) ∧ s.areaOf t.ctx = some (sectKey, a) ∧
    a.find 5 = some sectAt ∧ a.cell sectAt = c ∧ e.lanes.filter (·.key == 5) = [⟨0, 5, sq⟩] ∧ (∀ w ∈ a.queue, w.key ≠ 5) ∧ s.cellPoison a 5 = false := by
  unfold sectOk at h
  split at h
  · rename_i t e k a h1 h2
    simp only [Bool.and_eq_true, beq_iff_eq, List.isEmpty_iff, Bool.not_eq_true'] at h
    obtain ⟨⟨⟨⟨⟨⟨rfl, h3⟩, h4⟩, h5⟩, h6⟩, h8⟩, h7⟩ := h
    exact ⟨t, e, a, h1, by rw [h7]; exact h2, h3, h4, h5, by simp [h6], h8⟩
  · simp at h
/-- A lane that waits at the cell past SECTIME. -/
def late9 : State := withContext (entering freeCell [] 4 true 9) fun c => { c with sectime := 5 }
/-- What the statement asks of a lane that has waited too long. -/
def timedOut (s : State) : Bool :=
  match s.enter? 0 7, s.areaOf 0 with
  | some (t, e), some (k, a) => s.sectDue t e && s.areas.find k == some a && !e.waiting.isEmpty && t.ctx == 0
  | _, _ => false
theorem timed_of {s : State} (h : timedOut s = true) : ∃ t e k a w ws, s.enter? 0 7 = some (t, e) ∧ s.sectDue t e = true ∧
    s.areaOf t.ctx = some (k, a) ∧ s.areas.find k = some a ∧ e.waiting = w :: ws := by
  unfold timedOut at h
  split at h
  · rename_i t e k a h1 h2
    simp only [Bool.and_eq_true, beq_iff_eq, Bool.not_eq_true'] at h
    obtain ⟨⟨⟨h3, h4⟩, h5⟩, h6⟩ := h
    cases hw : e.waiting with
    | nil => rw [hw] at h5; simp at h5
    | cons w ws => exact ⟨t, e, k, a, w, ws, h1, h3, by rw [h6]; exact h2, h4, hw⟩
  · simp at h
theorem room : (entering freeCell [] 4 false 0).sliceRoom (Area.slice ⟨0x100000, 6, [(sectAt, freeCell)], [], []⟩ sectAt) false = true := by
  unfold State.sliceRoom
  simp [entering]
theorem witness_SectionArrivals :
    sectOk (entering freeCell [] 3 false 0) freeCell 3 = true ∧ freeCell.broken = false ∧ freeCell.held = false ∧ (3 : Word) = freeCell.next ∧
    (∃ h, (Area.holderOf ⟨0x100000, 6, [(sectAt, freeCell)], [], []⟩ 0).or (Area.holderRoom ⟨0x100000, 6, [(sectAt, freeCell)], [], []⟩ 0) = some h) ∧
    sectOk (entering freeCell [] 4 false 0) freeCell 4 = true ∧ ((4 : Word) - freeCell.next).getLsbD 31 = false ∧ (4 : Word) ≠ freeCell.next ∧
    (entering freeCell [] 4 false 0).sliceRoom (Area.slice ⟨0x100000, 6, [(sectAt, freeCell)], [], []⟩ sectAt) false = true ∧
    sectOk (entering heldCell [] 3 false 0) heldCell 3 = true ∧ heldCell.held = true ∧
    Area.holderOf ⟨0x100000, 6, [(sectAt, heldCell)], [], []⟩ 0 ≠ some heldCell.holder ∧
    sectOk (entering heldCell mine 3 false 0) heldCell 3 = true ∧ Area.holderOf ⟨0x100000, 6, [(sectAt, heldCell)], mine, []⟩ 0 = some heldCell.holder ∧
    ((2 : Word) - freeCell.next).getLsbD 31 = true ∧
    (∃ t e k a w ws, late9.enter? 0 7 = some (t, e) ∧ late9.sectDue t e = true ∧
      late9.areaOf t.ctx = some (k, a) ∧ late9.areas.find k = some a ∧
      e.waiting = w :: ws) :=
  ⟨by decide +kernel, rfl, rfl, rfl, ⟨identAt, by decide +kernel⟩, by decide +kernel, by decide, by decide, room, by decide +kernel, rfl,
    by decide +kernel, by decide +kernel, by decide +kernel, by decide, timed_of (by decide +kernel)⟩
/-- SEC_CMDKEY names key 5. -/
def commanded (c : Cell) (h : SMap Holder) : State := withContext (entering c h 3 false 0) fun c => { c with regs := c.regs.set 0 8 5 }
theorem witness_SectionCommands :
    (∃ a, (commanded freeCell []).secTarget 0 = some (sectKey, a, sectAt) ∧ (∀ w ∈ a.queue, w.key ≠ (a.cell sectAt).key) ∧ (a.cell sectAt).held = false) ∧
    (∃ a, (commanded heldCell mine).secTarget 0 = some (sectKey, a, sectAt) ∧ (∀ w ∈ a.queue, w.key ≠ (a.cell sectAt).key) ∧ (a.cell sectAt).held = true) ∧
    (∃ c, lane.contexts.find 0 = some c) ∧ lane.secTarget 0 = none ∧
    (∃ k a, (commanded freeCell []).areaOf 0 = some (k, a) ∧ (∀ x ∈ a.cells, x.2.held = false) ∧ a.queue = []) := by
  have h (s : State) (c : Cell) (hs : (match s.secTarget 0 with | some (k, a, n) => k == sectKey && n == sectAt && a.queue.isEmpty && a.cell sectAt == c | none => false) = true) :
      ∃ a, s.secTarget 0 = some (sectKey, a, sectAt) ∧ (∀ w ∈ a.queue, w.key ≠ (a.cell sectAt).key) ∧ a.cell sectAt = c := by
    split at hs
    · rename_i k a n e
      simp only [Bool.and_eq_true, beq_iff_eq, List.isEmpty_iff] at hs
      obtain ⟨⟨⟨rfl, rfl⟩, h3⟩, h4⟩ := hs
      exact ⟨a, e, by simp [h3], h4⟩
    · simp at hs
  refine ⟨?_, ?_, ⟨_, rfl⟩, by decide +kernel, ⟨_, _, rfl, by decide +kernel, rfl⟩⟩
  · obtain ⟨a, h1, h2, h3⟩ := h (commanded freeCell []) freeCell (by decide +kernel)
    exact ⟨a, h1, h2, by rw [h3]; rfl⟩
  · obtain ⟨a, h1, h2, h3⟩ := h (commanded heldCell mine) heldCell (by decide +kernel)
    exact ⟨a, h1, h2, by rw [h3]; rfl⟩
/-- A ray with nothing left to visit, for the targets 0 and 1, in a context of `n` targets. -/
def rayed (n : Nat) : State := { withContext lane fun c => { c with tcount := n } with
  clusters := [(0, { Cluster.idle with rays := [⟨3, 0, 0, 0, List.replicate 8 0, [7], 0, 0, 1, 0, 0, 0, none, [], 0, none, none, none, []⟩] })]
  cascade := [(2, 0, 0x1000)] }
theorem witness_CascadesAndRays : (∃ e, (rayed 2).cascade.find? (·.1 == 2) = some e) ∧
    (∃ k r c, (rayed 2).clusters.find 0 = some k ∧ k.rays.find? (·.serial == 3) = some r ∧ (rayed 2).rayReady 0 r = true ∧ r.cur = none ∧
      (rayed 2).contexts.find r.ctx = some c ∧ (r.entry 0 (rayed 2).clk 0).target < c.tcount) ∧
    (∃ k r c, (rayed 1).clusters.find 0 = some k ∧ k.rays.find? (·.serial == 3) = some r ∧ (rayed 1).rayReady 0 r = true ∧ r.cur = none ∧
      (rayed 1).contexts.find r.ctx = some c ∧ c.tcount ≤ (r.entry 0 (rayed 1).clk 0).target) :=
  ⟨⟨_, rfl⟩, ⟨_, _, _, rfl, rfl, by decide +kernel, rfl, rfl, by decide +kernel⟩, ⟨_, _, _, rfl, rfl, by decide +kernel, rfl, rfl, by decide +kernel⟩⟩
/-- Poison has come to the team, whose kernel keeps checkpoints or not; the crew's record as `f` makes it. -/
def poisonedTeam (roll : Bool) (f : Rollback → Rollback) : State :=
  withCrew (machine false fun t => { t with kernel := { t.kernel with rollback := roll }, pends := [⟨7, .v, 2, 1, 1, 0x80, .poison 5 0x40, []⟩] })
    fun c => { c with rb := f c.rb }
theorem shadowPoison_clean {s : State} (h : s.poison = []) (gang k : Nat) : s.shadowPoison gang k = none := by
  unfold State.shadowPoison
  split <;> [rfl; split <;> [rfl; exact List.find?_eq_none.2 fun va _ => by simp [State.poisonVia, h]]]
/-- A mapped machine whose crew is to take a checkpoint. -/
def wanting : State := withCrew (mapped false id) fun c => { c with rb := { c.rb with wanted := some 0 } }
/-- One whose checkpoint no operation waits for, and one whose operation has been performed. -/
def intervalEnd : State := withCrew (mapped false id) fun c => { c with rb := { c.rb with wanted := some noTeam } }
def closing0 : State := withCrew (mapped false id) fun c => { c with rb := { c.rb with closing := some 0 } }
theorem witness_Errors : (∃ t, lane.teams.find 0 = some t) ∧ (∃ g cr, lane.gangs.find 0 = some g ∧ g.crew? 0 = some cr) ∧
    (∃ g a, (control id).arrayGang 0 = some (0, g, a) ∧ (control id).gangs.find 0 = some g) ∧ (∃ c, lane.contexts.find 0 = some c) ∧
    (∃ t p c, (poisonedTeam false id).teams.find 0 = some t ∧ (t.pends.find? fun (p : Pend) => p.data == .poison 5 0x40) = some p ∧
      (poisonedTeam false id).context? t.ctx = some c ∧ t.kernel.rollback = false) ∧
    (∃ t p c cr, (poisonedTeam true fun r => { r with eligible := true }).teams.find 0 = some t ∧
      (t.pends.find? fun (p : Pend) => p.data == .poison 5 0x40) = some p ∧ (poisonedTeam true fun r => { r with eligible := true }).context? t.ctx = some c ∧
      t.kernel.rollback = true ∧ (poisonedTeam true fun r => { r with eligible := true }).crewOf t = some cr ∧ cr.rb.eligible = true ∧ cr.rb.consumed = false ∧
      (poisonedTeam true fun r => { r with eligible := true }).shadowPoison t.gang t.crew = none) ∧
    (∃ g cr, wanting.gangs.find 0 = some g ∧ g.crew? 0 = some cr ∧ wanting.checkpointReady 0 0 cr = true ∧
      wanting.shadowFault 0 0 (cr.rb.number + 1) = none ∧ cr.rb.wanted ≠ some noTeam) ∧
    (∃ g cr, intervalEnd.gangs.find 0 = some g ∧ g.crew? 0 = some cr ∧ intervalEnd.checkpointReady 0 0 cr = true ∧
      intervalEnd.shadowFault 0 0 (cr.rb.number + 1) = none ∧ cr.rb.wanted = some noTeam) ∧
    (∃ g cr, closing0.gangs.find 0 = some g ∧ g.crew? 0 = some cr ∧ closing0.closable cr = true ∧ closing0.shadowFault 0 0 cr.rb.number = none) ∧
    lane.removing.contains 0 = false ∧ (∃ g, lane.gangs.find 0 = some g ∧ g.residency = .resident ∧ g.cluster = 0) :=
  ⟨⟨_, rfl⟩, ⟨_, _, rfl, rfl⟩, ⟨_, _, rfl, rfl⟩, ⟨_, rfl⟩, ⟨_, _, _, rfl, rfl, rfl, rfl⟩, ⟨_, _, _, _, rfl, rfl, rfl, rfl, rfl, by decide +kernel, by decide +kernel, shadowPoison_clean rfl _ _⟩,
    ⟨_, _, rfl, rfl, by decide +kernel, by decide +kernel, by decide +kernel⟩, ⟨_, _, rfl, rfl, by decide +kernel, by decide +kernel, by decide +kernel⟩,
    ⟨_, _, rfl, rfl, by decide +kernel, by decide +kernel⟩, by decide, ⟨_, rfl, by decide +kernel, by decide +kernel⟩⟩
/-- A debugger on the host holds every right on the team of `f`; other registers of its window as given. -/
def examined (rs : SMap DWord) (f : Team → Team) : State := withContext (machine false f) fun c => { c with
  regs := SMap.set 0 c.regs (dbg 0) (BitVec.ofNat 64 (2 ^ 62 + 15)) ++ rs }
/-- What the statement asks of the debugger's target. -/
def targeted (s : State) : Bool :=
  s.dbgTarget 0 == some (0, teamOf s) && s.teams.find 0 == some (teamOf s) && !s.inService (teamOf s) && holderKind (s.winReg 0 (dbg 0)) != 0 &&
  s.hasRight 0 0 && s.hasRight 0 1 && s.hasRight 0 2 && !s.isSaved (teamOf s)
/-- A team that has halted, with uniform register 1 named and 9 to be its value. -/
def haltedTeam : State := examined [(dbg 0x18, 0x101), (dbg 0x20, 9)] fun t => { t with halt := 3 }
theorem witness_DebugCommands : targeted (examined [] id) = true ∧ (∃ c, (examined [] id).contexts.find 0 = some c) ∧ (teamOf (examined [] id)).halt = 0 ∧
    targeted haltedTeam = true ∧ (∃ c, haltedTeam.contexts.find 0 = some c) ∧ (teamOf haltedTeam).halt = 3 ∧ (teamOf haltedTeam).edits = [] ∧
    (∃ x, dbgItem (teamOf haltedTeam) (haltedTeam.winReg 0 (dbg 0x18)) = some x ∧ editOk x (haltedTeam.winReg 0 (dbg 0x20)) = true) ∧
    haltedTeam.editBuffers 0 < 64 ∧ (∃ c, lane.contexts.find 0 = some c) ∧ lane.hasRight 0 0 = false :=
  ⟨by decide +kernel, ⟨_, rfl⟩, by decide +kernel, by decide +kernel, ⟨_, rfl⟩, by decide +kernel, by decide +kernel, ⟨⟨1, 1, 0⟩, by decide +kernel, by decide +kernel⟩,
    by decide +kernel, ⟨_, rfl⟩, by decide +kernel⟩
/-- A halt record waits for room in the mailbox at 0x3000. -/
def recorded : State := withContext (mapped false id) fun c => { c with mbox := 0x3000, haltRecs := [⟨0, 0, 0x84, 1, 0, 0, 0, 0, 0, 0, 0, 0⟩] }
/-- A context whose stall samples come every 2^8 clk. -/
def sampling : State := { examined [(dbg 0x60, BitVec.ofNat 64 (2 ^ 62 + 8 * 2 ^ 51)), (dbg 0x38, 0)] id with clk := 256 }
/-- Pin 7 is an input, and every other pin is not. -/
def pinned : State := { withContext lane fun c => { c with regs := [(dbg 8, 1#64 <<< 63), (dbg 0x38, 0xBF000000)] } with mgt := [(0x10, 0x0BB8), (0x20, 0x4000)] }
theorem pinned_untraced : Untraced pinned := by
  intro c
  by_cases h : c = 0
  · subst h; decide +kernel
  · have e : SMap.find pinned.contexts c = none := by
      show (if 0 = c then some _ else SMap.find [] c) = none
      rw [if_neg (Ne.symm h)]; rfl
    simp [State.mayTrace, State.winReg, e]
theorem witness_DebugEvents :
    (∃ t, (machine false fun t => { t with stepState := 2 }).teams.find 0 = some t ∧ t.stepState = 2 ∧ t.halt = 0) ∧
    (∃ c h hs, recorded.context? 0 = some c ∧ c.haltRecs = h :: hs ∧ recorded.haltRoom 0 c = true) ∧ (recorded.winReg 0 0xD8).getLsbD 63 = false ∧
    (∃ c, (examined [] id).contexts.find 0 = some c) ∧ dbg 0xC0 ≤ dbg 0xF8 ∧ dbg 0xF8 < dbg 0x100 ∧ dbg 0xF8 % 8 = 0 ∧ dbg 0xC0 < dbg 0xE0 ∧
    (examined [] id).holds (.host 0) 0 = true ∧ (examined [] id).hasRight 0 2 = true ∧
    (5 : DWord) &&& (examined [(dbg 8, 4)] id).winReg 0 (dbg 8) ≠ 0 ∧ holderKind ((examined [(dbg 8, 4)] id).winReg 0 (dbg 0)) ≠ 0 ∧
    (examined [(dbg 8, 4)] id).mayTrace 0 = true ∧ holderKind (lane.winReg 0 (dbg 0)) = 0 ∧ (pinned.mgt.get 0 0x20).toNat / 4 ^ 7 % 4 = 1 ∧
    (pinned.mgt.get 0 0x20).toNat / 4 ^ 6 % 4 ≠ 1 ∧ Untraced pinned ∧ pinned.lineRests (56 + 7) = true ∧ (pinned.winReg 0 (dbg 8)).getLsbD (56 + 7) = true ∧
    (pinned.winReg 0 (dbg 0x38)).getLsbD 31 = true ∧ ((pinned.winReg 0 (dbg 0x38)).extractLsb' 24 6).toNat = 56 + 7 ∧
    State.lineRests { pinned with pulsed := [(63, 5)], clk := 8 } (56 + 7) = false ∧ State.lineRests { pinned with pulsed := [(63, 5)], clk := 9 } (56 + 7) = true ∧ sampling.sampleDue 0 0 0 = true ∧
    ((sampling.sampled 0 0 0).find? fun (p : Nat × Team) =>
      decide ((sampling.samples.get (0, 0) (sampleKey 0 0 0)).1 ≤ p.2.rindex)).or (sampling.sampled 0 0 0).head? = some (0, teamOf sampling) := by
  refine ⟨⟨_, rfl, by decide +kernel, by decide +kernel⟩, ⟨_, _, _, rfl, rfl, ?_⟩, by decide +kernel, ⟨_, rfl⟩, by decide, by decide, by decide, by decide, by decide +kernel, by decide +kernel,
    by decide +kernel, by decide +kernel, by decide +kernel, by decide +kernel, by decide +kernel, by decide +kernel,
    pinned_untraced, by decide +kernel, by decide +kernel, by decide +kernel, by decide +kernel, by decide +kernel, by decide +kernel, by decide +kernel, by decide +kernel⟩
  exact of_decide_eq_true (p := State.haltRoom _ _ _ = true) (by decide +kernel)
/-- A package with a partition, and one whose MGT_PCMD and buffer configure partition 3 with cluster 0 and no memory. -/
def parted (configured : Bool) : State := { State.reset with
  mgt := [(8, BitVec.ofNat 64 (2 ^ 10)), (0x18, 3)]
  pbuf := [(0, 3), (2, 1), (0x10, 1)]
  partitions := if configured then [(3, ⟨3, [0], [(0, 2 ^ 30)], 1, [1], 0, 0, 0, 0, 1, []⟩)] else [] }
theorem witness_PackagePort :
    (parted false).partitions.find (parted false).pcmdPart = none ∧ (parted false).cfgOk (parted false).pcmdPart (parted false).pbufNat = true ∧
    State.reset.partitions.find State.reset.pcmdPart = none ∧ State.reset.cfgOk State.reset.pcmdPart State.reset.pbufNat = false ∧
    (∃ p, (parted true).partitions.find (parted true).pcmdPart = some p) ∧
    (∀ x ∈ (parted true).contexts, ¬ (x.2.part = (parted true).pcmdPart ∧ x.2.configured = true ∧ x.2.terminated = false)) ∧
    (∃ p, (hosted id).partitions.find (hosted id).pcmdPart = some p) ∧
    (∃ x ∈ (hosted id).contexts, x.2.part = (hosted id).pcmdPart ∧ x.2.configured = true ∧ x.2.terminated = false) ∧
    State.reset.powered = true ∧ 1000 ≤ (3000 : DWord).toNat % 65536 ∧ (3000 : DWord).toNat % 65536 ≤ 3000 ∧ (∃ c, lane.contexts.find 0 = some c) ∧
    State.reset.mgtReg 0 = 0 ∧ bootOver (State.mgtReg { State.reset with mgt := [(0, 0x7E)] } 0) = true ∧ State.reset.partitions = [] ∧
    (parted true).partitions ≠ [] := by
  refine ⟨by decide +kernel, by decide +kernel, by decide +kernel, by decide +kernel, ⟨_, rfl⟩, by decide, ⟨_, rfl⟩,
    ⟨(0, Context.blank 0 0 0x10000), List.mem_singleton.2 rfl, by decide +kernel, rfl, rfl⟩, rfl, by decide, by decide, ⟨_, rfl⟩, by decide +kernel, by decide +kernel, rfl,
    by decide⟩
/-- The bundle of `fetching`, and the team in it. -/
def fetched (pc : Word) (b : BitVec 128) : State := machine false fun t => { t with pc := pc, bundle := some (0x80, b) }
def threeFences : BitVec 128 := 0xD500000BD500000BD500000B00000000
/-- A bundle whose last slot has a reserved opcode. -/
def reserved : BitVec 128 := 0x7F000000FA000000FA00000000000000
theorem witness_StepRuns :
    (∃ t, (fetched 0x88 threeFences).candidates = [.team 0] ∧ (fetched 0x88 threeFences).teams.find 0 = some t ∧
      t.bundle = some ((bundleOf t.pc).toNat, threeFences) ∧ (t.pc.extractLsb' 2 2).toNat = 2 ∧
      (Control.ofWord (bundleWord threeFences 0)).isLit 2 = false ∧
      decode (bundleWord threeFences 2) (slotLit threeFences (Control.ofWord (bundleWord threeFences 0)) 2) = .ok (.pfence 11)) ∧
    (∃ t, (fetched 0x8C reserved).candidates = [.team 0] ∧ (fetched 0x8C reserved).teams.find 0 = some t ∧ t.bundle = some ((bundleOf t.pc).toNat, reserved) ∧
      (t.pc.extractLsb' 2 2).toNat = 3 ∧ (Control.ofWord (bundleWord reserved 0)).isLit 3 = false ∧
      decode (bundleWord reserved 3) (slotLit reserved (Control.ofWord (bundleWord reserved 0)) 3) = .error .reservedOpcode) ∧
    (∃ t pa f, (fetching 0x84).candidates = [.team 0] ∧ (fetching 0x84).teams.find 0 = some t ∧ (t.pc.extractLsb' 2 2).toNat = 1 ∧ t.blk = none ∧
      t.kernel.kbase % 16 = 0 ∧ 0x80 ≤ (bundleOf t.pc).toNat ∧ (bundleOf t.pc).toNat < 0x80 + t.kernel.codeSize ∧
      (fetching 0x84).look t.unit t.ctx (t.kernel.kbase + (bundleOf t.pc).toNat) .fetch = .ok pa f ∧
      pa % 128 = (t.kernel.kbase + (bundleOf t.pc).toNat) % 128 ∧
      (fetching 0x84).line? .code t.unit t.ctx ((t.kernel.kbase + (bundleOf t.pc).toNat) / 128) = none ∧ (fetching 0x84).poison = [] ∧
      BitVec.ofNat 128 (memNat (fetching 0x84).mem pa 16) = threeFences ∧ bundleBad threeFences t.kernel.spCount = false ∧
      (Control.ofWord (bundleWord threeFences 0)).kind = 0#2 ∧ (∀ k, ((fetching 0x84).winReg t.ctx (dbg (0x80 + 8 * k))).getLsbD 63 = false) ∧
      decode (bundleWord threeFences 1) (slotLit threeFences (Control.ofWord (bundleWord threeFences 0)) 1) = .ok (.pfence 11)) ∧
    State.reset.candidates = [] := by
  refine ⟨⟨_, by decide +kernel, rfl, by decide +kernel, by decide +kernel, by decide +kernel, by decide +kernel⟩,
    ⟨_, by decide +kernel, rfl, by decide +kernel, by decide +kernel, by decide +kernel, by decide +kernel⟩,
    ⟨_, 0x80, _, by decide +kernel, rfl, by decide +kernel, by decide +kernel, by decide +kernel, by decide +kernel, by decide +kernel, rfl, by decide +kernel, by decide +kernel,
      by decide +kernel, by decide +kernel, by decide +kernel, by decide +kernel, fun k => ?_, by decide +kernel⟩, by decide +kernel⟩
  unfold State.winReg
  rw [show SMap.find (fetching 0x84).contexts _ = some (Context.blank 0 0 0x10000) from rfl]
  simp [Context.blank, SMap.get]
theorem witness_GoesOnAlways : (∃ t, lane.me = some t) ∧ encode .startUp = none ∧ ∀ i ∈ State.reset.inputs, encode i = none :=
  ⟨⟨_, rfl⟩, rfl, by simp [State.reset]⟩
theorem witness_StepKeepsMemoryForm : Safe State.reset ∧ (∃ s', step State.reset = .next s') ∧ Safe (fetching 0x84) :=
  ⟨rfl, ⟨_, rfl⟩, rfl⟩
theorem witness_DecodeEncode : Instr.wf .nop = true ∧ (∃ f, encode .nop = some f) ∧ decode 0xFA000000 none = .ok .nop :=
  ⟨by decide, ⟨_, rfl⟩, by decide⟩
/-- A pending register, and room for a path. -/
theorem witness_SlotChecks :
    (∃ t, (machine false fun t => { t with ex := 0 }).me = some t ∧ t.ex = 0 ∧ t.isCtl = false) ∧ encode (.iadd 3 1 (.reg 2)) ≠ none ∧
    (Instr.iadd 3 1 (.reg 2)).isU = false ∧ isMatrix (.iadd 3 1 (.reg 2)) = false ∧ (Instr.iadd 3 1 (.reg 2)).wf = true ∧
    (∃ t, ctl.me = some t ∧ coreIllegal (.iadd 3 1 (.reg 2)) t = true) ∧ encode (.cref 1) ≠ none ∧ (Instr.cref 1).wf = false ∧
    (∃ t, lane.me = some t ∧ coreIllegal (.iadd 33 1 (.reg 2)) t = false ∧ (Instr.iadd 33 1 (.reg 2)).wf = true ∧ lane.matrixTrap t = none ∧
      t.ex ≠ 0 ∧ t.outOfRange ((Instr.iadd 33 1 (.reg 2)).reads ++ (Instr.iadd 33 1 (.reg 2)).writes) = some 33) ∧
    (∃ t, (pending .v).me = some t ∧ slotCheck (pending .v).cur (.iadd 3 1 (.reg 2)) t (pending .v) = .block (.reg .v 1) ∧ ∀ p ∈ t.slots, p.v = false) :=
  ⟨⟨_, rfl, by decide +kernel, by decide +kernel⟩, by decide, by decide, by decide, by decide, ⟨_, rfl, by decide +kernel⟩, by decide, by decide,
    ⟨_, rfl, by decide +kernel, by decide +kernel, by decide +kernel, by decide +kernel, by decide +kernel⟩, ⟨_, rfl, by decide +kernel, by decide +kernel⟩⟩
/-- A term that breaks each check of WellFormed is refused: pairs, quads and octets, names below their limits, the queues of `qpop`, the count
of `wait`, the codes of `sldaq`, cross-lane literals, wide operands, lane sources, selectors, and the literals of `cvt` and `trc`. -/
theorem test_ill_formed : ∀ i ∈ ([.cref 5, .oleave 7, .ld64 3 2 0, .slea 2 3 (.lit 0) 0, .st128 6 2 0, .wait 1 6 1, .trc 12 2 0, .bar 16, .barw 127, .ctwait 8, .wbld 8 2,
    .mma 4 0 (.imm 1), .mma 0 8 (.imm 1), .mzero 4, .qpush 4 1, .lred 1 2 11 false, .qpop 1 3, .qpop 1 8, .wait 1 8 0, .wait 1 8 5, .sldaq 1 2 false 3,
    .sstrl 1 2 false 0, .iadd 1 2 (.pat 3 5), .iadd 1 2 (.pat 3 0x4000), .dadd 2 4 (.reg 5) 0, .dadd 2 4 (.uni 7) 0, .dadd 3 4 (.reg 6) 0, .dcmp 1 2 (.reg 3) 0,
    .shfl 1 2 (.lit 0x400), .shfl 1 2 (.pat 7), .atadd 3 4 true (.reg 6) 0, .atadd 2 4 true (.reg 5) 0, .atcas 2 4 true 6 0, .atcas 1 4 false 5 0,
    .satcas 2 4 true 2 0, .pballot 1 2 (.imm 32), .pballot 1 2 (.lit 3), .mburst (.imm 0), .mma 0 0 (.lit 3), .cvt 2 4 0x08, .cvt 2 4 0x11, .cvt 2 4 0x54,
    .cvt 2 4 0x520, .cvt 2 4 0x840, .cvt 2 4 0x1020, .cvt 3 4 0x30, .cvt 2 3 0x03, .trc 8 2 9, .trc 8 2 0x100, .trc 8 2 0x8000] : List Instr), i.wf = false := by decide

end Sys2Proof.Tests
end

section
/-! SUPPORT. What leaves memory as it is: the state that an operation leads to holds the memory that it had, for each operation that writes no
byte of the package's memory. Each lemma goes by the branches of its operation, and in each of them by the lemmas of what the branch calls. -/

namespace Sys2Proof.Machine

/-- A fold of steps that leave memory as it is leaves it so. -/
@[simp] theorem foldl_mem {β : Type} {f : State → β → State} (h : ∀ s x, (f s x).mem = s.mem) (xs : List β) (s : State) :
    (xs.foldl f s).mem = s.mem := foldl_same (fun s : State => s.mem) f h xs s

/-! The operations of Machine/Memory. -/
@[simp] theorem State.touchVia_mem (s : State) (unit : Option Nat) (ctx va n : Nat) (a : Access) :
    (s.touchVia unit ctx va n a).mem = s.mem := by
  have claims : ((pageStarts va n).foldl (fun (s : State) p => match s.lookVia unit ctx p a with
      | .ok pa x => s.letIn ctx pa x | _ => s) s).mem = s.mem := foldl_mem (fun s p => by split <;> simp) _ _
  unfold State.touchVia
  dsimp only
  split
  · exact claims
  · rw [foldl_mem fun s p => by split <;> simp]; exact claims
@[simp] theorem State.poisonAt_mem (s : State) (unit : Option Nat) (ctx va n : Nat) : (s.poisonAt unit ctx va n).mem = s.mem := by
  unfold State.poisonAt; split <;> rfl
@[simp] theorem State.cacheRead_mem (s : State) (kind : CacheKind) (unit ctx va pa n : Nat) (x : Translation) (fresh : BitVec 1024) :
    (s.cacheRead kind unit ctx va pa n x fresh).2.mem = s.mem := by
  unfold State.cacheRead; dsimp only; (repeat' split) <;> simp
@[simp] theorem State.readL1_mem (s : State) (unit cluster core ctx va pa n : Nat) (x : Translation) (own : Op → Bool)
    (held : List (Nat × Nat × Byte)) : (s.readL1 unit cluster core ctx va pa n x own held).2.mem = s.mem := by
  simp [State.readL1]
@[simp] theorem State.takeOp_mem (s : State) (o : Op) : (s.takeOp o).mem = s.mem := rfl

/-! The operations of Machine/Report. -/
@[simp] theorem State.raise_mem (s : State) (ctx kind : Nat) (args : List DWord) : (s.raise ctx kind args).mem = s.mem := by
  unfold State.raise; split <;> rfl
@[simp] theorem State.markPulsed_mem (s : State) (lines : DWord) : (s.markPulsed lines).mem = s.mem := rfl
@[simp] theorem State.captures_mem (s : State) (lines : DWord) : (s.captures lines).mem = s.mem := rfl

/-! The operations of Machine/Ops. -/
@[simp] theorem State.endAllow_mem (s : State) (id : Nat) : (s.endAllow id).mem = s.mem := by
  unfold State.endAllow; dsimp only; (repeat' split) <;> simp
@[simp] theorem State.sectionRecord_mem (s : State) (ctx : Nat) (x : SectTrap) : (s.sectionRecord ctx x).mem = s.mem := by
  unfold State.sectionRecord; dsimp only; split <;> simp
@[simp] theorem State.owedTrap_mem (s : State) (cause info : Nat) (addr : DWord) : (s.owedTrap cause info addr).mem = s.mem := by
  unfold State.owedTrap; (repeat' split) <;> simp
@[simp] theorem State.leaveQueues_mem (s : State) (gang : Nat) (ms : List Nat) : (s.leaveQueues gang ms).mem = s.mem := by
  unfold State.leaveQueues; split <;> simp
@[simp] theorem State.markPending_mem (s : State) (i : Instr) (reason : Nat) (data : PendData) :
    (s.markPending i reason data).mem = s.mem := by
  unfold State.markPending; split <;> rfl

/-! The operations of Machine/Preempt. -/
@[simp] theorem State.dropFaulted_mem (s : State) (unit ctx : Nat) : (s.dropFaulted unit ctx).mem = s.mem := rfl

/-! The operations of Machine/Fetch. -/
@[simp] theorem State.askPage_mem (s : State) (unit ctx va : Nat) :
    (s.askPage unit ctx va).mem = s.mem := by unfold State.askPage; split <;> rfl
@[simp] theorem State.consumeHere_mem (s : State) (storage : Nat) (addr : DWord) : (s.consumeHere storage addr).mem = s.mem := by
  simp [State.consumeHere]

/-! The operations of Machine/Registers. -/
@[simp] theorem State.admitSets_mem (s : State) : (s.admitSets).mem = s.mem := rfl
@[simp] theorem State.setRasInj_mem (s : State) (ctx : Nat) (v : DWord) : (s.setRasInj ctx v).mem = s.mem := by simp [State.setRasInj]
@[simp] theorem State.setMxaInj_mem (s : State) (ctx cluster : Nat) (v : DWord) : (s.setMxaInj ctx cluster v).mem = s.mem := by
  unfold State.setMxaInj; split <;> simp
@[simp] theorem State.dbgWpWrite_mem (s : State) (ctx off : Nat) (v : DWord) :
    (s.dbgWpWrite ctx off v).mem = s.mem := by simp [State.dbgWpWrite]
@[simp] theorem State.apErr_mem (s : State) (ctx cluster : Nat) : (s.apErr ctx cluster).mem = s.mem := by simp [State.apErr]
@[simp] theorem State.writeCluster_mem (s : State) (who : Agent) (ctx cluster off : Nat) (v : DWord) :
    (s.writeCluster who ctx cluster off v).mem = s.mem := by
  unfold State.writeCluster; dsimp only; (repeat' split) <;> simp

/-! The operations of Machine/Access. -/
@[simp] theorem State.claimOf_mem (s : State) (k : Looked) : (s.claimOf k).mem = s.mem := by unfold State.claimOf; split <;> simp
@[simp] theorem seeElem_mem (t : Team) (a : Access) (w : Bool) (xs : List DWord) (s : State) : (seeElem t a w xs s).2.mem = s.mem := by
  induction xs generalizing s with
  | nil => rfl
  | cons x xs ih => simp only [seeElem, ih, State.claimOf_mem]
@[simp] theorem seeAll_mem (t : Team) (a : Access) (w : Bool) (es : List Elem) (s : State) : (seeAll t a w es s).2.mem = s.mem := by
  induction es generalizing s with
  | nil => rfl
  | cons e es ih => simp only [seeAll, ih, seeElem_mem]
@[simp] theorem State.openGroup_mem (s : State) (t : Team) (i : Instr) (reason : Option Nat) : (s.openGroup t i reason).1.mem = s.mem := by
  unfold State.openGroup; (repeat' split) <;> simp
@[simp] theorem State.issue_mem (s : State) (t : Team) (group unit : Nat) (addr : DWord) (k : Looked) (n : Nat) (kind : OpKind)
    (ord : Option (BitVec 3)) (dest : Option (RFile × Nat)) (lane : Nat) :
    (s.issue t group unit addr k n kind ord dest lane).mem = s.mem := by
  unfold State.issue; split <;> rfl
@[simp] theorem State.readNow_mem (s : State) (t : Team) (va pa n : Nat) (x : Translation) : (s.readNow t va pa n x).1.mem = s.mem := by
  unfold State.readNow; dsimp only; split <;> simp
@[simp] theorem State.teamLoad_mem (s : State) (t : Team) (addr : DWord) (n : Nat) (k : Looked) :
    (s.teamLoad t addr n k).1.mem = s.mem := by
  unfold State.teamLoad; split <;> simp
@[simp] theorem State.issueLoad_mem (s : State) (t : Team) (group : Nat) (addr : DWord) (n : Nat) (k : Looked) (dest : RFile × Nat)
    (lane : Nat) : (s.issueLoad t group addr n k dest lane).mem = s.mem := by
  simp [State.issueLoad]
@[simp] theorem State.holdStore_mem (s : State) (t : Team) (va pa : Nat) (bs : List Byte) : (s.holdStore t va pa bs).mem = s.mem := by
  simp [State.holdStore]
@[simp] theorem State.spadStore_mem (s : State) (t : Team) (o : Word) (ws : List Word) : (s.spadStore t o ws).mem = s.mem := by
  simp [State.spadStore]
@[simp] theorem State.setFull_mem (s : State) (t : Team) (o : Word) (b : Bool) : (s.setFull t o b).mem = s.mem := by simp [State.setFull]
@[simp] theorem State.noteWatch_mem (s : State) (t : Team) (es : List (Nat × Word)) (n : Nat) (wr : Bool) :
    (s.noteWatch t es n wr).mem = s.mem := by
  unfold State.noteWatch; dsimp only; split <;> simp

/-! The operations of Machine/Sections. -/
@[simp] theorem State.secCount_mem (s : State) (ctx lo : Nat) : (s.secCount ctx lo).mem = s.mem := by simp [State.secCount]
@[simp] theorem State.cellConsumed_mem (s : State) (team : Nat) (enter : Option Nat) : (s.cellConsumed team enter).mem = s.mem := by
  simp [State.cellConsumed]
@[simp] theorem State.failEnter_mem (s : State) (k team serial cause : Nat) (lane : EnterLane) (c : Cell) :
    (s.failEnter k team serial cause lane c).1.mem = s.mem := by
  unfold State.failEnter; dsimp only; (repeat' split) <;> simp
@[simp] theorem State.enterCell_mem (s : State) (k i : Nat) (w : Waiter) : (s.enterCell k i w).1.mem = s.mem := by
  unfold State.enterCell; dsimp only; (repeat' split) <;> simp
theorem State.settleOne_mem {s : State} {k i : Nat} {x : State × List Nat} (h : s.settleOne k i = some x) : x.1.mem = s.mem := by
  unfold State.settleOne at h
  split at h
  · cases h
  · dsimp only at h
    split at h
    · cases h
    · split at h
      · obtain ⟨w, -, rfl⟩ := Option.map_eq_some_iff.1 h; simp
      · split at h
        · cases h; split <;> simp
        · split at h
          · cases h
          · obtain ⟨w, -, rfl⟩ := Option.map_eq_some_iff.1 h; split <;> simp
theorem State.settleCells_mem (n k : Nat) (cells : List Nat) (s : State) : (State.settleCells n k cells s).mem = s.mem := by
  induction n generalizing cells s with
  | zero => rfl
  | succ n ih =>
    cases cells with
    | nil => rfl
    | cons i is =>
      unfold State.settleCells
      split
      · rename_i hx; rw [ih, State.settleOne_mem hx]
      · exact ih _ _
@[simp] theorem State.compare_mem (s : State) (k : Nat) (cells : List Nat) :
    (s.compare k cells).mem = s.mem := State.settleCells_mem _ _ _ _
@[simp] theorem State.again_mem (s : State) (stream delay : Nat) (ev : Ev) : (s.again stream delay ev).mem = s.mem := rfl
@[simp] theorem State.oenterArrives_mem (s : State) (team serial : Nat) (key : DWord) : (s.oenterArrives team serial key).mem = s.mem := by
  unfold State.oenterArrives; dsimp only; (repeat' split) <;> simp
@[simp] theorem State.oleaveArrives_mem (s : State) (ctx : Nat) (ident key : DWord) : (s.oleaveArrives ctx ident key).mem = s.mem := by
  unfold State.oleaveArrives; dsimp only; (repeat' split) <;> simp
@[simp] theorem State.oskipArrives_mem (s : State) (ctx : Nat) (key : DWord) (sq : Word) : (s.oskipArrives ctx key sq).mem = s.mem := by
  unfold State.oskipArrives; dsimp only; (repeat' split) <;> simp
@[simp] theorem State.sectTimeout_mem (s : State) (team serial : Nat) : (s.sectTimeout team serial).mem = s.mem := by
  unfold State.sectTimeout; dsimp only; (repeat' split) <;> simp
@[simp] theorem State.sectionBreak_mem (s : State) (ctx : Nat) (ident : DWord) : (s.sectionBreak ctx ident).mem = s.mem := by
  unfold State.sectionBreak; dsimp only; (repeat' split) <;> simp
@[simp] theorem State.secResult_mem (s : State) (ctx result state : Nat) (value : Option Word) :
    (s.secResult ctx result state value).mem = s.mem := by
  simp [State.secResult]

/-! The operations of Machine/Atomics. -/
@[simp] theorem State.issueRmw_mem (s : State) (t : Team) (group : Nat) (addr : DWord) (k : Looked) (w : Bool) (op : RmwOp) (y : Nat)
    (ord : BitVec 3) (dest : Option (RFile × Nat)) (lane : Nat) : (s.issueRmw t group addr k w op y ord dest lane).mem = s.mem := by
  unfold State.issueRmw; split <;> simp

/-! The operations of Machine/LaneMem. -/
@[simp] theorem fullSteps_mem (op : FullOp) (t : Team) (d : RegNo) (x : Nat → Word) (es : List (Nat × Word)) (s : State)
    (waiting : List (Nat × Word)) :
    (fullSteps op t d x es s waiting).1.mem = s.mem := by
  induction es generalizing s waiting with
  | nil => rfl
  | cons e es ih =>
    obtain ⟨l, o⟩ := e
    unfold fullSteps
    dsimp only
    split
    · exact ih _ _
    · split
      · rfl
      · simp only [ih]
        split <;> simp
@[simp] theorem State.gangAcquire_mem (s : State) (t : Team) : (s.gangAcquire t).mem = s.mem := by
  unfold State.gangAcquire; (repeat' split) <;> simp
@[simp] theorem State.pathLoad_mem (s : State) (kind : CacheKind) (t : Team) (addr : DWord) (n : Nat) (k : Looked) :
    (s.pathLoad kind t addr n k).1.mem = s.mem := by
  unfold State.pathLoad; dsimp only; (repeat' split) <;> simp
@[simp] theorem State.readTexels_mem (s : State) (t : Team) (fmt : Nat) (xs : List (DWord × Looked)) :
    (s.readTexels t fmt xs).1.mem = s.mem := by
  induction xs generalizing s with
  | nil => rfl
  | cons x xs ih =>
    obtain ⟨a, k⟩ := x
    have hd := State.pathLoad_mem s .sampler t a (texelSize fmt) k
    unfold State.readTexels
    split
    · simp_all
    · have rest := ih (s.pathLoad .sampler t a (texelSize fmt) k).1
      split <;> simp_all

/-! The operations of Machine/Content. -/
@[simp] theorem State.countUp_mem (s : State) (k : Nat) (name : DWord) : (s.countUp k name).mem = s.mem := by simp [State.countUp]
@[simp] theorem State.countCollisions_mem (s : State) (ctx : Nat) (d : Domain) (p : DWord) (stop : Option Nat) :
    (s.countCollisions ctx d p stop).mem = s.mem := foldl_mem (fun _ _ => State.bumpReg_mem _ _ _ _ _) _ _

/-! The operations of Machine/Barrier. -/
@[simp] theorem State.wantPhaseCheckpoint_mem (s : State) (gang k : Nat) : (s.wantPhaseCheckpoint gang k).mem = s.mem := by
  unfold State.wantPhaseCheckpoint; dsimp only; (repeat' split) <;> simp
@[simp] theorem State.phaseAcquire_mem (s : State) (gang crew : Nat) (job : Bool) : (s.phaseAcquire gang crew job).mem = s.mem := by
  unfold State.phaseAcquire; (repeat' split) <;> simp
@[simp] theorem State.checkBarrier_mem (s : State) (gang crew k : Nat) (job : Bool) : (s.checkBarrier gang crew k job).mem = s.mem := by
  unfold State.checkBarrier; dsimp only; (repeat' split) <;> simp
@[simp] theorem State.barrierOp_mem (s : State) (gang crew k : Nat) (job : Bool) (f : Barrier → Barrier) :
    (s.barrierOp gang crew k job f).mem = s.mem := by
  simp [State.barrierOp]
@[simp] theorem State.barrierBytes_mem (s : State) (ctx cluster gang crew k n : Nat) :
    (s.barrierBytes ctx cluster gang crew k n).mem = s.mem := by
  unfold State.barrierBytes; dsimp only; (repeat' split) <;> simp
@[simp] theorem State.barrierLeave_mem (s : State) (gang crew : Nat) : (s.barrierLeave gang crew).mem = s.mem :=
  foldl_mem (fun _ _ => State.barrierOp_mem _ _ _ _ _ _) _ _

/-! The operations of Machine/Yarder. -/
@[simp] theorem State.updFuture_mem (s : State) (ctx cls slot : Nat) (f : FutSlot → FutSlot) :
    (s.updFuture ctx cls slot f).mem = s.mem := by
  simp [State.updFuture]
@[simp] theorem State.completeFuture_mem (s : State) (ctx cls slot : Nat) (status : Word) :
    (s.completeFuture ctx cls slot status).mem = s.mem := by
  unfold State.completeFuture; split <;> simp
@[simp] theorem State.updCard_mem (s : State) (cluster serial : Nat) (f : Card → Card) : (s.updCard cluster serial f).mem = s.mem := rfl
@[simp] theorem State.yardFault_mem (s : State) (cluster : Nat) (c : Card) (cause : Nat) (addr : DWord) :
    (s.yardFault cluster c cause addr).mem = s.mem := by
  unfold State.yardFault; dsimp only; split <;> simp
@[simp] theorem State.failCard_mem (s : State) (cluster serial cause : Nat) (addr : Nat) :
    (s.failCard cluster serial cause addr).mem = s.mem := by
  unfold State.failCard; (repeat' split) <;> simp
@[simp] theorem State.tileByte_mem (s : State) (cluster ctx va : Nat) : (s.tileByte cluster ctx va).1.mem = s.mem := by
  unfold State.tileByte; split <;> simp
@[simp] theorem State.tileBytes_mem (s : State) (cluster ctx va n : Nat) : (s.tileBytes cluster ctx va n).1.mem = s.mem := by
  induction n generalizing s va with
  | zero => rfl
  | succ n ih => simp only [State.tileBytes, ih, State.tileByte_mem]
@[simp] theorem State.joinCollective_mem (s : State) (group : DWord) (ctx : Nat) (coll : DWord) (parts : List RankPart)
    (jobs : List (Nat × Nat × Nat)) : (s.joinCollective group ctx coll parts jobs).mem = s.mem := rfl
@[simp] theorem State.giveResult_mem (s : State) (group ctx : Nat) (coll : DWord) : (s.giveResult group ctx coll).mem = s.mem := by
  unfold State.giveResult
  split
  · rfl
  · simp only [apply_ite State.mem]
    split
    · exact (foldl_mem (fun _ _ => State.failCard_mem _ _ _ _ _) _ _).trans rfl
    · rw [foldl_mem fun _ _ => State.updCard_mem _ _ _ _]; exact ite_self _
@[simp] theorem State.refillDeck_mem (s : State) (cluster : Nat) : (s.refillDeck cluster).mem = s.mem :=
  foldl_mem (fun s x => by
    split
    · split <;> rfl
    · rfl) _ _

/-! The operations of Machine/Gangs. -/
@[simp] theorem State.addTeams_mem (s : State) (ts : List Team) : (s.addTeams ts).mem = s.mem :=
  foldl_mem (f := fun (s : State) t => { s with serial := s.serial + 1, teams := s.teams.insert s.serial t }) (fun _ _ => rfl) _ _
@[simp] theorem State.unhaltTeam_mem (s : State) (id : Nat) : (s.unhaltTeam id).mem = s.mem := by
  unfold State.unhaltTeam; dsimp only; (repeat' split) <;> simp
@[simp] theorem State.flushSections_mem (s : State) (team : Nat) : (s.flushSections team).mem = s.mem :=
  (foldl_mem (fun s d => by split <;> simp) _ _).trans rfl
@[simp] theorem State.dropWaiters_mem (s : State) (team : Nat) : (s.dropWaiters team).mem = s.mem := rfl
@[simp] theorem State.retireGang_mem (s : State) (gang : Nat) : (s.retireGang gang).mem = s.mem := by
  unfold State.retireGang; dsimp only; (repeat' split) <;> simp
@[simp] theorem State.dropTeam_mem (s : State) (id : Nat) (status : Word) : (s.dropTeam id status).mem = s.mem := by
  unfold State.dropTeam; dsimp only; (repeat' split) <;> simp

/-! The operations of Machine/Queues. -/
@[simp] theorem State.popBeat_mem (s : State) (id : Nat) (t : Team) (e : Pend) : (s.popBeat id t e).mem = s.mem := by
  unfold State.popBeat; dsimp only; (repeat' split) <;> simp

/-! The operations of Machine/Matrix. -/
@[simp] theorem State.kick_mem (s : State) (gang : Nat) : (s.kick gang).mem = s.mem := by simp [State.kick]

/-! The operations of Machine/Sched. -/
@[simp] theorem State.launchError_mem (s : State) (ctx seq cause : Nat) :
    (s.launchError ctx seq cause).mem = s.mem := by simp [State.launchError]
@[simp] theorem State.launch_mem (s : State) (seq ctx kbase gangs tail prio : Nat) (param : DWord) (swap : Nat) :
    (s.launch seq ctx kbase gangs tail prio param swap).mem = s.mem := by
  unfold State.launch; dsimp only; (repeat' split) <;> simp
@[simp] theorem State.request_mem (s : State) (gang : Nat) : (s.request gang).mem = s.mem := by
  unfold State.request; dsimp only; (repeat' split) <;> simp
@[simp] theorem State.restoreTeam_mem (s : State) (g : Gang) (id cluster : Nat) (seat : Seat) :
    (s.restoreTeam g id cluster seat).mem = s.mem := by
  unfold State.restoreTeam
  split
  · rfl
  · split
    · exact State.dropTeam_mem _ _ _
    · dsimp only; split <;> simp
@[simp] theorem State.restoreGang_mem (s : State) (gang cluster base : Nat) : (s.restoreGang gang cluster base).mem = s.mem := by
  unfold State.restoreGang; dsimp only; (repeat' split) <;> simp

/-! The operations of Machine/Deck. -/
@[simp] theorem State.enqueue_mem (s : State) (cluster : Nat) (e : DeckEntry) : (s.enqueue cluster e).mem = s.mem := rfl
@[simp] theorem State.failEntry_mem (s : State) (e : DeckEntry) : (s.failEntry e).mem = s.mem := by
  unfold State.failEntry; (repeat' split) <;> simp
@[simp] theorem State.takeEntries_mem (s : State) (cluster : Nat) (es : List DeckEntry) : (s.takeEntries cluster es).mem = s.mem := by
  simp [State.takeEntries]
@[simp] theorem State.badTarget_mem (s : State) (cluster ctx target : Nat) (es : List DeckEntry) :
    (s.badTarget cluster ctx target es).mem = s.mem := by
  unfold State.badTarget
  rw [State.raise_mem, foldl_mem State.failEntry_mem, State.takeEntries_mem]

/-! The operations of Machine/Rays. -/
@[simp] theorem State.fillPiece_mem (s : State) (cluster : Nat) (p : RayPiece) : (s.fillPiece cluster p).mem = s.mem := by
  unfold State.fillPiece; dsimp only; (repeat' split) <;> simp
@[simp] theorem State.updRay_mem (s : State) (cluster serial : Nat) (f : Ray → Ray) : (s.updRay cluster serial f).mem = s.mem := rfl
@[simp] theorem State.loadPiece_mem (s : State) (cluster : Nat) (r : Ray) (piece pa : Nat) (x : Translation) :
    (s.loadPiece cluster r piece pa x).1.mem = s.mem := by
  simp [State.loadPiece]
@[simp] theorem State.ixuCount_mem (s : State) (ctx cluster lo : Nat) : (s.ixuCount ctx cluster lo).mem = s.mem := by simp [State.ixuCount]
@[simp] theorem State.continueRay_mem (s : State) (cluster : Nat) (e : DeckEntry) : (s.continue_ cluster e).mem = s.mem := by
  unfold State.continue_; (repeat' split) <;> simp
@[simp] theorem State.endRay_mem (s : State) (cluster : Nat) (r : Ray) (status : Nat) : (s.endRay cluster r status).mem = s.mem := by
  simp [State.endRay]
@[simp] theorem State.ixuRecord_mem (s : State) (ctx cluster addr : Nat) : (s.ixuRecord ctx cluster addr).mem = s.mem := by
  unfold State.ixuRecord; dsimp only; split <;> simp
@[simp] theorem State.readAhead_mem (s : State) (cluster serial piece : Nat) : (s.readAhead cluster serial piece).mem = s.mem := by
  unfold State.readAhead; (repeat' split) <;> simp
@[simp] theorem State.readPiece_mem (s : State) (cluster : Nat) (r : Ray) (piece va : Nat) :
    (s.readPiece cluster r piece va).1.mem = s.mem := by
  unfold State.readPiece; dsimp only; (repeat' split) <;> simp
@[simp] theorem State.readPieces_mem (s : State) (cluster : Nat) (r : Ray) (va : Nat) (ps : List Nat) :
    (s.readPieces cluster r va ps).1.mem = s.mem := by
  induction ps generalizing s with
  | nil => rfl
  | cons p ps ih =>
    have m := State.readPiece_mem s cluster r p (max va (16 * p))
    unfold State.readPieces
    split
    · rename_i s' b e
      have m' := ih s'
      split <;> simp_all
    · exact m
@[simp] theorem State.rayBytes_mem (s : State) (cluster : Nat) (r : Ray) (va n : Nat) : (s.rayBytes cluster r va n).1.mem = s.mem := by
  have m := State.readPieces_mem s cluster r va ((List.range ((va + n - 1) / 16 - va / 16 + 1)).map fun k => va / 16 + k)
  unfold State.rayBytes
  split <;> simp_all
@[simp] theorem State.rayTexels_mem (s : State) (cluster : Nat) (r : Ray) (fmt : Nat) (as : List DWord) :
    (s.rayTexels cluster r fmt as).1.mem = s.mem := by
  induction as generalizing s with
  | nil => rfl
  | cons a as ih =>
    have m := State.rayBytes_mem s cluster r a.toNat (texelSize fmt)
    unfold State.rayTexels
    split
    · rename_i s' bs e
      have m' := ih s'
      split <;> simp_all
    · simp_all
    · simp_all
/-- The state of a pair that a computation came to. -/
theorem mem_of_pair {α : Type} {s s' : State} {x : State × α} {a : α} (e : x = (s', a)) (m : x.1.mem = s.mem) : s'.mem = s.mem := by
  rw [e] at m; exact m
@[simp] theorem State.alphaTest_mem (s : State) (cluster : Nat) (r : Ray) (n : Nat) (u v : Word) :
    (s.alphaTest cluster r n u v).1.mem = s.mem := by
  unfold State.alphaTest
  split
  · rfl
  · dsimp only
    split
    · rfl
    · split
      · rename_i e; exact mem_of_pair e (State.rayBytes_mem _ _ _ _ _)
      · rename_i e; exact mem_of_pair e (State.rayBytes_mem _ _ _ _ _)
      · rename_i e
        have m := mem_of_pair e (State.rayBytes_mem _ _ _ _ _)
        split
        · exact m
        · split
          · rename_i e; exact (mem_of_pair e (State.rayTexels_mem _ _ _ _ _)).trans m
          · rename_i e; exact (mem_of_pair e (State.rayTexels_mem _ _ _ _ _)).trans m

/-! The operations of Machine/Traffic. -/
@[simp] theorem State.give_mem (s : State) (o : Op) (x : Nat) (fl : BitVec 5) : (s.give o x fl).mem = s.mem := by simp [State.give]
@[simp] theorem State.giveBad_mem (s : State) (o : Op) : (s.giveBad o).mem = s.mem := by simp [State.giveBad]
@[simp] theorem State.acquireOp_mem (s : State) (o : Op) : (s.acquireOp o).mem = s.mem := by unfold State.acquireOp; split <;> rfl
@[simp] theorem State.performLoad_mem (s : State) (o : Op) (older : List Op) (path : CacheKind) (pa : Nat) (x : Translation) :
    (s.performLoad o older path pa x).mem = s.mem := by
  unfold State.performLoad; dsimp only; (repeat' split) <;> simp
@[simp] theorem State.performPast_mem (s : State) (o : Op) (pa : Nat) : (s.performPast o pa).mem = s.mem := by
  unfold State.performPast; split <;> simp
@[simp] theorem State.spread_mem (s : State) (serial c : Nat) : (s.spread serial c).mem = s.mem := by unfold State.spread; (repeat' split) <;> simp

/-! The operations of Machine/Rast. -/
@[simp] theorem State.enterKey_mem (s : State) (ctx : Nat) (ident key : DWord) (i h : Nat) :
    (s.enterKey ctx ident key i h).mem = s.mem := by
  unfold State.enterKey; split <;> rfl
@[simp] theorem State.rastOn_mem (s : State) (cluster : Nat) (c : Card) : (s.rastOn cluster c).mem = s.mem := rfl

/-! The operations of Machine/Contain. -/
@[simp] theorem State.refillDecks_mem (s : State) : s.refillDecks.mem = s.mem := foldl_mem (fun _ _ => State.refillDeck_mem _ _) _ _
@[simp] theorem State.quarantine_mem (s : State) (ctx : Option Nat) (pos : Nat × Nat × Nat) : (s.quarantine ctx pos).mem = s.mem := by
  unfold State.quarantine; dsimp only; (repeat' split) <;> simp
@[simp] theorem State.countMeta_mem (s : State) (dom : Nat) : (s.countMeta dom).mem = s.mem := by
  unfold State.countMeta
  split
  · rfl
  · split
    · simp
    · exact foldl_mem (fun s p => by split <;> simp) _ _
@[simp] theorem State.moveDeck_mem (s : State) (cluster : Nat) : (s.moveDeck cluster).mem = s.mem := by
  unfold State.moveDeck
  split
  · rfl
  · dsimp only
    split
    · simp only [State.refillDecks_mem]; exact foldl_mem (fun s e => by split <;> rfl) _ _
    · exact foldl_mem (fun s e => by split <;> rfl) _ _
@[simp] theorem State.leavePartition_mem (s : State) (cluster : Nat) : (s.leavePartition cluster).mem = s.mem := by
  unfold State.leavePartition
  split
  · rfl
  · exact (foldl_mem (fun s x => by split <;> simp) _ _).trans rfl

/-! The operations of Machine/Commands. -/
@[simp] theorem State.ack_mem (s : State) (ch : Nat) : (s.ack ch).mem = s.mem := rfl
@[simp] theorem State.reply_mem (s : State) (ch kind ctx : Nat) (args : List DWord) : (s.reply ch kind ctx args).mem = s.mem := by
  unfold State.reply; split <;> simp
@[simp] theorem State.refuse_mem (s : State) (ch seq op ctx : Nat) : (s.refuse ch seq op ctx).mem = s.mem := by simp [State.refuse]
@[simp] theorem State.claimUnit_mem (s : State) (pa n : Nat) : (s.claimUnit pa n).mem = s.mem := rfl
@[simp] theorem State.newArea_mem (s : State) (c : Context) : (s.newArea c).mem = s.mem := by unfold State.newArea; split <;> rfl

/-! The operations of Machine/Debug. -/
@[simp] theorem State.dbgDone_mem (s : State) (ctx result : Nat) (pend : Bool) :
    (s.dbgDone ctx result pend).mem = s.mem := by simp [State.dbgDone]
@[simp] theorem State.dbgShow_mem (s : State) (ctx state reason : Nat) (pc : Word) : (s.dbgShow ctx state reason pc).mem = s.mem := by
  simp [State.dbgShow]

/-! The operations of Machine/Manage. -/
@[simp] theorem State.mgtDone_mem (s : State) (result : Nat) : (s.mgtDone result).mem = s.mem := rfl
@[simp] theorem State.mgtWrite_mem (s : State) (addr : Nat) (v : DWord) : (s.mgtWrite addr v).mem = s.mem := by
  unfold State.mgtWrite; dsimp only; (repeat' split) <;> simp

/-! The operations of Machine/System. -/
@[simp] theorem State.mute_mem (s : State) (id : Nat) : (s.mute id).mem = s.mem := rfl

/-! The operations of Machine/TeamEvents. -/
@[simp] theorem State.landCopy_mem (s : State) (team : Nat) (t : Team) (c : Copy) (bs : List Byte) (bad : List Bool) :
    (s.landCopy team t c bs bad).mem = s.mem := by
  simp [State.landCopy]

end Sys2Proof.Machine
end

section
/-! SUPPORT. The canonical form of memory under the operations that do write bytes, themselves or by what they call (R2, R282): every write
goes through `State.writeBytes` or `State.storeBytes`, or scrubs a domain or a partition. -/

namespace Sys2Proof.Machine

/-- A state whose memory is in canonical form. -/
@[simp] abbrev State.Wf (s : State) : Prop := Memory.wf s.mem = true
/-- A fold of steps that keep the canonical form keeps it. -/
theorem wf_foldl {β : Type} {f : State → β → State} {s : State} (h : s.Wf)
    (hf : ∀ s x, s.Wf → (f s x).Wf) (xs : List β) : (xs.foldl f s).Wf :=
  foldl_kept (fun a b : State => a.Wf → b.Wf) (fun _ h => h) (fun h k w => k (h w)) f hf xs s h
/-- So does one that gathers something beside the state. -/
theorem wf_foldl_fst {β γ : Type} {f : State × γ → β → State × γ} {x : State × γ} (h : x.1.Wf)
    (hf : ∀ x b, x.1.Wf → (f x b).1.Wf) (bs : List β) : (bs.foldl f x).1.Wf := by
  induction bs generalizing x with
  | nil => exact h
  | cons b bs ih => exact ih (hf x b h)

/-- What a slot comes to holds memory in canonical form; a trap holds no state of its own. -/
def Res.Wf : Res → Prop
  | .done s | .fixed s _ _ _ | .later s _ _ | .moved s _ _ _ | .trapIn s _ _ _ | .block s _ | .stop s => s.Wf
  | .trap _ _ _ => True
/-- An element of a generic instruction holds memory in canonical form. -/
def Perf.Wf : Perf → Prop
  | .ok s _ _ | .poison s _ => s.Wf
/-- A whole generic instruction holds memory in canonical form. -/
def Acc.Wf : Acc → Prop
  | .all s _ _ | .poison s _ _ _ => s.Wf
  | .res r => r.Wf
/-- The check of a generic instruction holds memory in canonical form. -/
def Sight.Wf : Sight → Prop
  | .go s _ _ => s.Wf
  | .res r => r.Wf
/-- A fetched slot holds memory in canonical form. -/
def Fetched.Wf : Fetched → Prop
  | .go s _ _ | .stop s => s.Wf
/-- A property of each end of a check. -/
def EndsIn {ε α : Type} (p : ε → Prop) (q : α → Prop) : Except ε α → Prop
  | .ok a => q a
  | .error e => p e
@[simp] theorem Res.wf_done (s : State) : (Res.done s).Wf ↔ s.Wf := .rfl
@[simp] theorem Res.wf_fixed (s : State) (lat : Nat) (ws : List RegWrite) (fl : BitVec 5) : (Res.fixed s lat ws fl).Wf ↔ s.Wf := .rfl
@[simp] theorem Res.wf_later (s : State) (reason : Nat) (d : PendData) : (Res.later s reason d).Wf ↔ s.Wf := .rfl
@[simp] theorem Res.wf_moved (s : State) (pc : Word) (code detail : Nat) : (Res.moved s pc code detail).Wf ↔ s.Wf := .rfl
@[simp] theorem Res.wf_trap (cause info : Nat) (addr : DWord) : (Res.trap cause info addr).Wf := trivial
@[simp] theorem Res.wf_trapIn (s : State) (cause info : Nat) (addr : DWord) : (Res.trapIn s cause info addr).Wf ↔ s.Wf := .rfl
@[simp] theorem Res.wf_block (s : State) (c : Cond) : (Res.block s c).Wf ↔ s.Wf := .rfl
@[simp] theorem Res.wf_stop (s : State) : (Res.stop s).Wf ↔ s.Wf := .rfl
@[simp] theorem Perf.wf_ok (s : State) (ws : List RegWrite) (fl : BitVec 5) : (Perf.ok s ws fl).Wf ↔ s.Wf := .rfl
@[simp] theorem Perf.wf_poison (s : State) (addr : DWord) : (Perf.poison s addr).Wf ↔ s.Wf := .rfl
@[simp] theorem Acc.wf_all (s : State) (ws : List RegWrite) (fl : BitVec 5) : (Acc.all s ws fl).Wf ↔ s.Wf := .rfl
@[simp] theorem Acc.wf_poison (s : State) (st : Nat) (addr : DWord) (ws : List RegWrite) : (Acc.poison s st addr ws).Wf ↔ s.Wf := .rfl
@[simp] theorem Acc.wf_res (r : Res) : (Acc.res r).Wf ↔ r.Wf := .rfl
@[simp] theorem Sight.wf_go (s : State) (good : List Seen) (bad : Option (DWord × Nat × Nat × DWord)) :
    (Sight.go s good bad).Wf ↔ s.Wf := .rfl
@[simp] theorem Sight.wf_res (r : Res) : (Sight.res r).Wf ↔ r.Wf := .rfl
@[simp] theorem Fetched.wf_go (s : State) (w : Word) (lit : Option Word) : (Fetched.go s w lit).Wf ↔ s.Wf := .rfl
@[simp] theorem Fetched.wf_stop (s : State) : (Fetched.stop s).Wf ↔ s.Wf := .rfl
@[simp] theorem EndsIn.ok {ε α : Type} {p : ε → Prop} {q : α → Prop} (a : α) : EndsIn p q (.ok a) ↔ q a := .rfl
@[simp] theorem EndsIn.error {ε α : Type} {p : ε → Prop} {q : α → Prop} (e : ε) : EndsIn p q (.error e) ↔ p e := .rfl

section
variable {s : State} (h : s.Wf)
include h

/-! The operations of Machine/Memory. -/
@[simp] theorem State.wf_writeVia (unit : Option Nat) (ctx va : Nat) (bs : List Byte) : (s.writeVia unit ctx va bs).Wf := by
  unfold State.writeVia
  refine wf_foldl h (fun s x h => ?_) _
  split <;> simp [h, State.wf_storeBytes]
@[simp] theorem State.wf_performStore (o : Op) (units : List Nat) (pa : Nat) (bs : List Byte) (past : Bool) :
    (s.performStore o units pa bs past).Wf := by
  unfold State.performStore; split <;> simp [h, State.wf_storeBytes]
@[simp] theorem State.wf_settleSeen (cluster : Nat) : (s.settleSeen cluster).Wf := by
  unfold State.settleSeen
  refine wf_foldl h (fun s o h => ?_) _
  split <;> simp [h]
@[simp] theorem State.wf_drainHeld (gang k : Nat) : (s.drainHeld gang k).Wf := by
  have drained (gs : List Nat) (ctx : Nat) (hs : List (Nat × Nat × List Byte)) (s : State) (h : s.Wf) :
      (hs.foldl (fun (s : State) x => (s.patchL1 gs ctx x.2.1 x.2.2).storeBytes ctx x.1 x.2.1 x.2.2) s).Wf :=
    wf_foldl h (fun s x h => by simp [h, State.wf_storeBytes]) _
  unfold State.drainHeld
  (repeat' split) <;> simp [h, drained]

/-! The operations of Machine/Report. -/
@[simp] theorem State.wf_ringRecord (ctx buf ptr : Nat) (bytes : List Byte) : (s.ringRecord ctx buf ptr bytes).Wf := by
  unfold State.ringRecord; dsimp only; (repeat' split) <;> simp [h, State.wf_devWrite]
@[simp] theorem State.wf_marker (ctx line : Nat) : (s.marker ctx line).1.Wf := by
  unfold State.marker; split <;> simp [h]
@[simp] theorem State.wf_markers (ctx : Nat) (lines : DWord) : (s.markers ctx lines).1.Wf := by
  unfold State.markers
  exact wf_foldl_fst (x := (s, 0)) h (fun x l h => by simp [State.wf_marker h]) _
omit h in
theorem State.wf_pulses (n : Nat) {s : State} (h : s.Wf) (lines : DWord) : (State.pulses n s lines).Wf := by
  induction n generalizing s lines with
  | zero => exact h
  | succ n ih =>
    unfold State.pulses
    split
    · exact h
    · exact ih (wf_foldl_fst (x := (_, 0)) (by simpa using h) (fun x p h => State.wf_markers h p.1 _) _) _
@[simp] theorem State.wf_pulse (lines : DWord) : (s.pulse lines).Wf := State.wf_pulses 65 h lines
@[simp] theorem State.wf_trigger (ctx src arg : Nat) : (s.trigger ctx src arg).Wf := by
  simp [State.trigger, h]
@[simp] theorem State.wf_traceAt (time : Nat) (t : Team) (pc : Word) (code detail : Nat) : (s.traceAt time t pc code detail).Wf := by
  unfold State.traceAt
  refine State.wf_trigger ?_ _ _ _
  dsimp only
  split
  · split
    · exact State.wf_trigger (State.wf_ringRecord h _ _ _ _) _ _ _
    · exact State.wf_ringRecord h _ _ _ _
  · exact h
@[simp] theorem State.wf_trace (t : Team) (pc : Word) (code detail : Nat) : (s.trace t pc code detail).Wf := by
  simp [State.trace, h]
@[simp] theorem State.wf_haltWith (id reason index wpset group : Nat) (wmask woff : Word) :
    (s.haltWith id reason index wpset group wmask woff).Wf := by
  unfold State.haltWith; dsimp only; (repeat' split) <;> simp [h]
@[simp] theorem State.wf_haltTeam (id reason index : Nat) : (s.haltTeam id reason index).Wf := by
  simp [State.haltTeam, h]
@[simp] theorem State.wf_haltAsked (id : Nat) : (s.haltAsked id).Wf := by
  unfold State.haltAsked; (repeat' split) <;> simp [h]
@[simp] theorem State.wf_flushFaults (fs : List FaultRec) : (s.flushFaults fs).Wf := by
  induction fs generalizing s with
  | nil => exact h
  | cons f fs ih =>
    unfold State.flushFaults
    refine ih ?_
    (repeat' split) <;> simp [h, State.wf_devWrite]
@[simp] theorem State.wf_pageFault (ctx : Nat) (agent : FaultAgent) (va : DWord) (kind level access source word : Nat) (pc : Word)
    (entry : DWord) :
    (s.pageFault ctx agent va kind level access source word pc entry).1.Wf := by
  unfold State.pageFault; split <;> simp [h]

/-! The operations of Machine/Ops. -/
@[simp] theorem State.wf_switchPath (id i : Nat) (blk : Option Cond) : (s.switchPath id i blk).Wf := by
  unfold State.switchPath; split <;> simp [h]
@[simp] theorem State.wf_blockOn (c : Cond) : (s.blockOn c).Wf := by
  unfold State.blockOn; (repeat' split) <;> simp [h]
@[simp] theorem State.wf_takeTrap (cause info : Nat) (addr : DWord) : (s.takeTrap cause info addr).Wf := by
  unfold State.takeTrap; dsimp only; (repeat' split) <;> simp [h]
@[simp] theorem State.wf_bundleEnd (id : Nat) : (s.bundleEnd id).Wf := by
  unfold State.bundleEnd; dsimp only; (repeat' split) <;> simp [h]
@[simp] theorem State.wf_afterSlot (id : Nat) : (s.afterSlot id).Wf := by
  unfold State.afterSlot; dsimp only; (repeat' split) <;> simp [h]
@[simp] theorem State.wf_advance (i : Instr) (next : Word) (transfer : Bool) : (s.advance i next transfer).Wf := by
  unfold State.advance; dsimp only; (repeat' split) <;> simp [h]
@[simp] theorem State.wf_retire (i : Instr) : (s.retire i).Wf := by
  unfold State.retire; split <;> simp [h]
theorem wf_settle (i : Instr) {r : Res} (hr : r.Wf) : (settle i s r).Wf := by
  cases r with
  | done s => simp_all [settle]
  | fixed s lat ws flags => simp_all [settle]
  | later s reason data => unfold settle; dsimp only; split <;> simp_all
  | moved s pc code detail => unfold settle; dsimp only; (repeat' split) <;> simp_all
  | trap cause info addr => simp [settle, h]
  | trapIn s cause info addr => simp_all [settle]
  | block s c => simp_all [settle]
  | stop s => simpa [settle] using hr

/-! The operations of Machine/Preempt. -/
@[simp] theorem State.wf_teamFault (va kind level access : Nat) (entry : DWord) : (s.teamFault va kind level access entry).Wf := by
  unfold State.teamFault; split <;> simp [h]
@[simp] theorem State.wf_reinstateTeam (id : Nat) (r : Reinstate) : (s.reinstateTeam id r).Wf := by
  unfold State.reinstateTeam; split <;> simp [h]
@[simp] theorem State.wf_redirect (spidx : Nat) : (s.redirect spidx).Wf := by
  unfold State.redirect; dsimp only; (repeat' split) <;> simp [h, State.wf_devWrite]

/-! The operations of Machine/Fetch. -/
theorem State.wf_readBundle (t : Team) (off : Nat) : EndsIn State.Wf (fun x => x.2.Wf) (s.readBundle t off) := by
  unfold State.readBundle; dsimp only; (repeat' split) <;> simp [h]
@[simp] theorem State.wf_slotOf (t : Team) (b : BitVec 128) : (s.slotOf t b).Wf := by
  unfold State.slotOf; dsimp only; split <;> simp [h]
theorem State.wf_breakCheck (t : Team) : EndsIn State.Wf State.Wf (s.breakCheck t) := by
  unfold State.breakCheck; split <;> simp [h]
theorem State.wf_safePointCheck (t : Team) (c : Control) : EndsIn State.Wf State.Wf (s.safePointCheck t c) := by
  unfold State.safePointCheck; dsimp only; (repeat' split) <;> simp [h]
/-- The check before slot 1 where the bundle is at hand. -/
theorem State.wf_firstCheck (t : Team) (c : Control) (first : Bool) :
    EndsIn State.Wf State.Wf (if first then s.safePointCheck t c else .ok s) := by
  split
  · exact State.wf_safePointCheck h t c
  · exact h
/-- The checks before slot 1 of a bundle just read. -/
theorem State.wf_slotChecks (t : Team) (c : Control) (first : Bool) : EndsIn State.Wf State.Wf
    (if first then match s.breakCheck t with | .error s => .error s | .ok s => s.safePointCheck t c else .ok s) := by
  have hb := State.wf_breakCheck h t
  split
  · split
    · simp_all
    · rename_i s e; exact State.wf_safePointCheck (by simpa [e] using hb) t c
  · exact h
omit h in
/-- The slot that is read where its checks have passed. -/
theorem wf_slotAfter {e : Except State State} (he : EndsIn State.Wf State.Wf e) (t : Team) (b : BitVec 128) :
    (match e with | .error s => Fetched.stop s | .ok s => s.slotOf t b).Wf := by
  cases e with
  | error s => exact he
  | ok s => exact State.wf_slotOf he t b
theorem State.wf_fetch : s.fetch.Wf := by
  unfold State.fetch
  split
  · exact h
  · rename_i t _
    dsimp only
    split
    · exact wf_slotAfter (State.wf_firstCheck h t _ _) t _
    · have hb := State.wf_readBundle h t (bundleOf t.pc).toNat
      split
      · simp_all
      · rename_i b s e
        have hs : s.Wf := by simpa [e] using hb
        split
        · simp [hs]
        · split
          · simp [hs]
          · exact wf_slotAfter (State.wf_slotChecks (by simpa using hs) t _ _) t b

/-! The operations of Machine/Registers. -/
@[simp] theorem State.wf_dbgPulseWrite (ctx : Nat) (v : DWord) : (s.dbgPulseWrite ctx v).Wf := by
  simp [State.dbgPulseWrite, h]
@[simp] theorem State.wf_writePackage (who : Agent) (ctx off : Nat) (v : DWord) : (s.writePackage who ctx off v).Wf := by
  unfold State.writePackage
  dsimp only
  by_cases low : off < 0x800
  · rw [if_pos low]
    clear low
    (repeat' split) <;> simp [h]
  · rw [if_neg low]
    (repeat' split) <;> simp [h]
@[simp] theorem State.wf_regWrite (who : Agent) (ctx off n : Nat) (v : DWord) : (s.regWrite who ctx off n v).Wf := by
  unfold State.regWrite; dsimp only; (repeat' split) <;> simp [h]

/-! The operations of Machine/Access. -/
@[simp] theorem State.wf_haltPart (t : Team) (a : Access) (good : List Seen) (group : Option Nat) (bad : DWord × Nat × Nat × DWord) :
    (s.haltPart t a good group bad).Wf := by
  simp [State.haltPart, h]
theorem wf_sight (t : Team) (a : Access) (w : Bool) (es : List Elem) : (sight t s a w es).Wf := by
  unfold sight; dsimp only; (repeat' split) <;> simp [h]
omit h in
theorem wf_performAll {f : State → Nat → List (DWord × Looked) → Perf}
    (hf : ∀ s l ks, s.Wf → (f s l ks).Wf) (es : List Seen) (s : State) (h : s.Wf)
    (ws : List RegWrite) (fl : BitVec 5) : (performAll f es s ws fl).Wf := by
  induction es generalizing s ws fl with
  | nil => exact h
  | cons e es ih =>
    have hp := hf s e.1 e.2 h
    unfold performAll
    split <;> simp_all
theorem wf_genericMany (t : Team) (a : Access) (w : Bool) (es : List Elem) {f : State → Nat → List (DWord × Looked) → Perf}
    (hf : ∀ s l ks, s.Wf → (f s l ks).Wf) : (genericMany t s a w es f).Wf := by
  have hs := wf_sight h t a w es
  unfold genericMany
  split
  · simp_all
  · rename_i s good bad e
    have hp := wf_performAll hf good s (by simpa [e] using hs) [] 0
    split
    · split <;> simp_all
    · exact hp
theorem wf_accesses (i : Instr) (t : Team) (a : Access) (w : Bool) (reason : Option Nat) (es : List (Nat × DWord))
    {f : State → Nat → Nat → DWord → Looked → State}
    (hf : ∀ s g l x k, s.Wf → (f s g l x k).Wf) : (accesses i t s a w reason es f).Wf := by
  have hs := wf_sight h t a w (es.map fun e => (e.1, [e.2]))
  unfold accesses
  split
  · simp_all
  · rename_i s good bad e
    have hs : s.Wf := by simpa [e] using hs
    have all (s : State) (g : Nat) (hs : s.Wf) :
        (good.foldl (fun (s : State) (e : Seen) => match e.2 with | (addr, k) :: _ => f s g e.1 addr k | [] => s) s).Wf :=
      wf_foldl hs (fun s e h => by
        split
        · exact hf s g e.1 _ _ h
        · exact h) _
    have hg : (if good.isEmpty then (s, 0) else s.openGroup t i reason).1.Wf := by split <;> simp [hs]
    dsimp only
    split
    · exact State.wf_haltPart (all _ _ hg) t a good _ _
    · exact all _ _ hg
@[simp] theorem State.wf_issueStore (t : Team) (group : Nat) (addr : DWord) (bs : List Byte) (k : Looked) (lane : Nat) :
    (s.issueStore t group addr bs k lane).Wf := by
  unfold State.issueStore; dsimp only; (repeat' split) <;> simp [h]
theorem State.wf_of_teamLoad {t : Team} {addr : DWord} {n : Nat} {k : Looked} {s' : State} {o : Option Nat}
    (e : s.teamLoad t addr n k = (s', o)) : s'.Wf := by
  have m := State.teamLoad_mem s t addr n k
  simp_all
theorem State.wf_readSlot (t : Team) (handle : Word) (lane reason : Nat) :
    EndsIn Res.Wf (fun x => x.1.Wf) (s.readSlot t handle lane reason) := by
  unfold State.readSlot; dsimp only
  (repeat' split) <;> simp [h]
  all_goals rename_i e; exact State.wf_of_teamLoad (by simpa using h) e
theorem State.wf_copyOutcome (t : Team) (tags : List Nat) (all : Bool) : ∀ r ∈ s.copyOutcome t tags all, r.Wf := by
  unfold State.copyOutcome
  simp only [Option.mem_map]
  rintro r ⟨c, -, rfl⟩
  (repeat' split) <;> simp [h]

/-! The operations of Machine/UniMem. -/
theorem wf_scalar (i : Instr) (t : Team) (a : Access) (w : Bool) (reason : Option Nat) (addr : DWord) (z : Nat)
    {f : State → Nat → Looked → State} (hf : ∀ s g k, s.Wf → (f s g k).Wf) : (scalar i t s a w reason addr z f).Wf := by
  unfold scalar; split
  · trivial
  · exact wf_accesses h i t a w reason _ fun s g _ _ k h => hf s g k h

/-! The operations of Machine/Content. -/
@[simp] theorem State.wf_countDown (k : Nat) (name : DWord) : (s.countDown k name).Wf := by
  unfold State.countDown; dsimp only; (repeat' split) <;> simp [h, State.wf_writeBytes]
theorem State.wf_swapCell (t : Team) (d : RegNo) (addr : DWord) (pa : Nat) (e m : DWord) : (s.swapCell t d addr pa e m).Wf := by
  unfold State.swapCell; dsimp only
  generalize (s.dropL1 (s.l1Units t) t.ctx pa).readNat pa 8 = n
  (repeat' split) <;> simp [h, State.wf_storeBytes]

/-! The operations of Machine/Yarder. -/
@[simp] theorem State.wf_jobRecord (cluster : Nat) (c : Card) (va kind level access : Nat) (entry : DWord) :
    (s.jobRecord cluster c va kind level access entry).1.Wf := by
  simp [State.jobRecord, h]
@[simp] theorem State.wf_jobFault (cluster serial va kind level access : Nat) (entry : DWord) :
    (s.jobFault cluster serial va kind level access entry).Wf := by
  unfold State.jobFault; split <;> simp [h]
theorem State.wf_jobWord (cluster ctx va : Nat) (v : DWord) : EndsIn (fun _ => True) State.Wf (s.jobWord cluster ctx va v) := by
  unfold State.jobWord; split <;> simp [h, State.wf_storeBytes]
@[simp] theorem State.wf_writeProgress (cluster : Nat) (c : Card) (v : Nat) : (s.writeProgress cluster c v).Wf := by
  have hw := State.wf_jobWord h cluster c.ctx (c.f 0x70 8) (BitVec.ofNat 64 v)
  unfold State.writeProgress; dsimp only; (repeat' split) <;> simp_all
@[simp] theorem State.wf_haltJob (cluster : Nat) (c : Card) (va kind level access : Nat) (entry : DWord) :
    (s.haltJob cluster c va kind level access entry).Wf := by
  unfold State.haltJob; split <;> simp [h]
@[simp] theorem State.wf_jobBar (cluster : Nat) (c : Card) (va access : Nat) (r : Looked) : (s.jobBar cluster c va access r).Wf := by
  unfold State.jobBar; split <;> simp [h]
@[simp] theorem State.wf_jobWrite (cluster ctx va : Nat) (bs : List (Byte × Bool)) : (s.jobWrite cluster ctx va bs).Wf := by
  unfold State.jobWrite
  refine wf_foldl (wf_foldl (State.wf_writeVia h _ _ _ _) (fun s x h => ?_) _) (fun s k h => by simp [h]) _
  (repeat' split) <;> simp [h]
@[simp] theorem State.wf_makeMove (cluster : Nat) (c : Card) (m : Move) : (s.makeMove cluster c m).Wf := by
  unfold State.makeMove; dsimp only; (repeat' split) <;> simp [h]
@[simp] theorem State.wf_countRows (cluster serial size : Nat) : (s.countRows cluster serial size).Wf := by
  unfold State.countRows; dsimp only; (repeat' split) <;> simp [h]
@[simp] theorem State.wf_readIndex (cluster : Nat) (c : Card) (row : Nat) : (s.readIndex cluster c row).Wf := by
  unfold State.readIndex; split <;> simp [h]
@[simp] theorem State.wf_landPiece (cluster : Nat) (c : Card) (piece : Nat) : (s.landPiece cluster c piece).Wf := by
  unfold State.landPiece; dsimp only; (repeat' split) <;> simp [h]
@[simp] theorem State.wf_landLeaf (cluster : Nat) (c : Card) : (s.landLeaf cluster c).Wf := by
  unfold State.landLeaf; dsimp only; (repeat' split) <;> simp [h]
@[simp] theorem State.wf_landXred (cluster : Nat) (c : Card) : (s.landXred cluster c).Wf := by
  unfold State.landXred; dsimp only; (repeat' split) <;> simp [h]
theorem State.wf_writeStamp (cluster : Nat) (c : Card) : EndsIn (fun _ => True) State.Wf (s.writeStamp cluster c) := by
  unfold State.writeStamp; dsimp only; (repeat' split) <;> simp [h, State.wf_storeBytes]
@[simp] theorem State.wf_finishCard (cluster : Nat) (c : Card) : (s.finishCard cluster c).Wf := by
  unfold State.finishCard; dsimp only; (repeat' split) <;> simp [h]
@[simp] theorem State.wf_dropRoot (c : Card) : (s.dropRoot c).Wf := by
  unfold State.dropRoot; (repeat' split) <;> simp [h]
@[simp] theorem State.wf_submit (cluster : Nat) (c : Card) (r : Formed) : (s.submit cluster c r).Wf := by
  unfold State.submit; dsimp only; (repeat' split) <;> simp [h]
@[simp] theorem State.wf_reform (cluster : Nat) (c : Card) : (s.reform cluster c).Wf := by
  unfold State.reform; dsimp only; (repeat' split) <;> simp [h]

/-! The operations of Machine/Gangs. -/
@[simp] theorem State.wf_writeShadowTeam (id : Nat) (g : Gang) (b : Nat) (t : Team) : (s.writeShadowTeam id g b t).Wf := by
  simp [State.writeShadowTeam, h, State.wf_devWrite]
@[simp] theorem State.wf_firstShadow (gang : Nat) : (s.firstShadow gang).Wf := by
  unfold State.firstShadow
  split
  · exact h
  · split
    · refine wf_foldl h (fun s k h => ?_) _
      exact wf_foldl (by simp [h, State.wf_devWrite]) (fun s p h => State.wf_writeShadowTeam h _ _ _ _) _
    · exact h
@[simp] theorem State.wf_writeBlocks (gang size : Nat) : (s.writeBlocks gang size).Wf := by
  unfold State.writeBlocks
  refine wf_foldl h (fun s p h => ?_) _
  split <;> simp [h, State.wf_devWrite]
@[simp] theorem State.wf_placeGang (gr : Grid) (m cluster base : Nat) : (s.placeGang gr m cluster base).Wf := by
  simp only [State.placeGang, State.Wf, State.admitSets_mem]
  refine State.wf_writeBlocks (State.wf_firstShadow ?_ _) _ _
  rw [State.Wf, State.addTeams_mem]
  exact h

/-! The operations of Machine/Matrix. -/
@[simp] theorem State.wf_arrayFault (gang : Nat) (g : Gang) (va kind level : Nat) (entry : DWord) (pc : Word) :
    (s.arrayFault gang g va kind level entry pc).Wf := by
  simp [State.arrayFault, h]

/-! The operations of Machine/Sched. -/
@[simp] theorem State.wf_saveCrew (g : Gang) (i : Nat) (c : Crew) : (s.saveCrew g i c).Wf := by
  simp [State.saveCrew, h, State.wf_devWrite]
@[simp] theorem State.wf_saveArray (ctx at_ : Nat) (a : Array) : (s.saveArray ctx at_ a).Wf := by
  have written {β : Type} (va : β → Nat) (bs : β → List Byte) (xs : List β) {s : State} (h : s.Wf) :
      (xs.foldl (fun (s : State) x => s.devWrite ctx (va x) (bs x)) s).Wf := wf_foldl h (fun s x h => State.wf_devWrite _ _ _ h) _
  unfold State.saveArray
  exact wf_foldl (written _ _ _ (written _ _ _ (written _ _ _ (State.wf_devWrite _ _ _ h)))) (fun s o h => by simp [h]) _

/-! The operations of Machine/Deck. -/
@[simp] theorem State.wf_holdEntries (cluster ctx : Nat) (es : List DeckEntry) (bin : Option (Nat × Target)) (va kind level access : Nat)
    (entry : DWord) : (s.holdEntries cluster ctx es bin va kind level access entry).Wf := by
  simp [State.holdEntries, h]
@[simp] theorem State.wf_placeTask (cluster core : Nat) (tg : Target) (slot : Nat) (es : List DeckEntry) :
    (s.placeTask cluster core tg slot es).Wf := by
  unfold State.placeTask
  split
  · refine State.wf_writeBlocks (State.wf_firstShadow ?_ _) _ _
    simp [h]
  · exact h
@[simp] theorem State.wf_dispatchBin (cluster : Nat) (c : Context) (e : DeckEntry) (tg : Target) (es : List DeckEntry) (core slot : Nat) :
    (s.dispatchBin cluster c e tg es core slot).Wf := by
  unfold State.dispatchBin; split <;> simp [h]
theorem State.wf_dispatch (cluster : Nat) : ∀ s' ∈ s.dispatch cluster, s'.Wf := by
  unfold State.dispatch
  split
  · simp
  · split
    · simp
    · split
      · simp
      · split
        · simp only [Option.mem_map]
          rintro _ ⟨x, -, rfl⟩
          exact State.wf_dispatchBin h _ _ _ _ _ _ _
        · split
          · simp [h]
          · simp [h]
          · split
            · simp
            · split
              · simp [h]
              · simp only [Option.mem_map]
                rintro _ ⟨slot, -, rfl⟩
                exact State.wf_dispatchBin h _ _ _ _ _ _ _

/-! The operations of Machine/Rays. -/
/-- A step of a ray holds memory in canonical form. -/
def Visit.Wf : Visit → Prop
  | .next s _ | .done s _ _ | .bad s _ _ | .fault s _ _ _ _ => s.Wf
omit h in
@[simp] theorem Visit.wf_next (s : State) (r : Ray) : (Visit.next s r).Wf ↔ s.Wf := .rfl
omit h in
@[simp] theorem Visit.wf_done (s : State) (r : Ray) (st : Nat) : (Visit.done s r st).Wf ↔ s.Wf := .rfl
omit h in
@[simp] theorem Visit.wf_bad (s : State) (st a : Nat) : (Visit.bad s st a).Wf ↔ s.Wf := .rfl
omit h in
@[simp] theorem Visit.wf_fault (s : State) (va k l : Nat) (e : DWord) : (Visit.fault s va k l e).Wf ↔ s.Wf := .rfl
theorem State.wf_rayRead (cluster : Nat) (r : Ray) (va n : Nat) {k : State → Nat → Visit} (hk : ∀ s m, s.Wf → (k s m).Wf) :
    (s.rayRead cluster r va n k).Wf := by
  have m := State.rayBytes_mem s cluster r va n
  unfold State.rayRead
  split <;> simp_all
theorem State.wf_visitNode (cluster : Nat) (r : Ray) (e : RayEntry) : (s.visitNode cluster r e).Wf := by
  unfold State.visitNode
  refine State.wf_rayRead h _ _ _ _ (fun s n h => ?_)
  have counted : ((List.range 4).foldl (fun (s : State) i =>
      if (childOf n i).1 = 4 && e.inst != noInst then s.ixuCount r.ctx cluster 0 else s) s).Wf :=
    wf_foldl h (fun s i h => by split <;> simp [h]) _
  dsimp only
  split
  · simp [h]
  · split
    · exact counted
    · split <;> exact counted
theorem State.wf_visitInstance (cluster : Nat) (r : Ray) (e : RayEntry) : (s.visitInstance cluster r e).Wf := by
  unfold State.visitInstance; dsimp only
  split
  · simp [h]
  · refine State.wf_rayRead h _ _ _ _ (fun s n h => ?_)
    split <;> simp [h]
theorem State.wf_visitTriangle (cluster : Nat) (r : Ray) (e : RayEntry) : (s.visitTriangle cluster r e).Wf := by
  unfold State.visitTriangle
  refine State.wf_rayRead h _ _ _ _ (fun s n h => ?_)
  dsimp only
  split
  · simp [h]
  · rename_i u v _ _
    have m := State.alphaTest_mem s cluster r n u v
    (repeat' split) <;> simp_all
theorem State.wf_visit (cluster : Nat) (r : Ray) : (s.visit cluster r).Wf := by
  unfold State.visit
  split
  · exact h
  · split
    · exact State.wf_visitNode h _ _ _
    · exact State.wf_visitTriangle h _ _ _
    · exact State.wf_visitInstance h _ _ _
@[simp] theorem State.wf_stepRay (cluster : Nat) (r : Ray) : (s.stepRay cluster r).Wf := by
  have hv := State.wf_visit h cluster r
  unfold State.stepRay
  split <;> rename_i e <;> rw [e] at hv
  · simpa using hv
  · split <;> simpa using hv
  · simpa using hv
  · simp [State.wf_pageFault hv]

/-! The operations of Machine/Traffic. -/
@[simp] theorem State.wf_performRmw (o : Op) (pa : Nat) (w : Bool) (op : RmwOp) (y : Nat) : (s.performRmw o pa w op y).Wf := by
  unfold State.performRmw; dsimp only; split <;> simp [h, State.wf_storeBytes]
@[simp] theorem State.wf_performOp (o : Op) : (s.performOp o).Wf := by
  unfold State.performOp; dsimp only; (repeat' split) <;> simp [h]
@[simp] theorem State.wf_perform (serial : Nat) : (s.perform serial).Wf := by
  unfold State.perform; (repeat' split) <;> simp [h]
@[simp] theorem State.wf_performAllOf (mine : Op → Bool) : (s.performAllOf mine).Wf := by
  unfold State.performAllOf
  exact wf_foldl (wf_foldl h (fun s o h => State.wf_performOp h o) _) (fun s o h => State.wf_performOp h o) _

/-! The operations of Machine/Rast. -/
@[simp] theorem State.wf_drawBlock (cluster : Nat) (c : Card) (r : Nat) (b : Nat × Nat) (prim : Word) (px : List (Nat × Word)) :
    (s.drawBlock cluster c r b prim px).Wf := by
  have drawn (ctx : Nat) (prim : Word) (xs : List (Nat × Word)) : (xs.foldl (fun (s : State) (x : Nat × Word) =>
      s.jobWrite cluster ctx x.1 ((dwordBytes (x.2 ++ prim)).map fun y => (y, false))) s).Wf :=
    wf_foldl h (fun s x h => State.wf_jobWrite h _ _ _ _) _
  unfold State.drawBlock; dsimp only; (repeat' split) <;> simp [h, drawn]
@[simp] theorem State.wf_leaveBlock (cluster : Nat) (c : Card) (r : Nat) (b : Nat × Nat) (key : DWord) :
    (s.leaveBlock cluster c r b key).Wf := by
  unfold State.leaveBlock; dsimp only; (repeat' split) <;> simp [h]
@[simp] theorem State.wf_landBlock (cluster : Nat) (c : Card) : (s.landBlock cluster c).Wf := by
  unfold State.landBlock; dsimp only; (repeat' split) <;> simp [h]

/-! The operations of Machine/Shading. -/
@[simp] theorem State.wf_winWrite (d : Domain) (off n v : Nat) : (s.winWrite d off n v).Wf := by
  simp [State.winWrite, h, State.wf_writeBytes]
@[simp] theorem State.wf_writeState (d : Domain) (t : Tag) (alloc : Bool) : (s.writeState d t alloc).Wf := by
  simp [State.writeState, h]
@[simp] theorem State.wf_setTag (k : Nat) (t : Tag) (alloc : Bool) : (s.setTag k t alloc).Wf := by
  unfold State.setTag; dsimp only; split <;> simp [h]
@[simp] theorem State.wf_dropTag (k : Nat) (t : Tag) : (s.dropTag k t).Wf := by
  simp [State.dropTag, h]
theorem State.wf_allocTag (key : DWord) (dom : Nat) (d : Domain) (version : Nat) : ∀ x ∈ s.allocTag key dom d version, x.1.Wf := by
  unfold State.allocTag
  (repeat' split) <;> simp [h]

@[simp] theorem State.wf_postService (ctx : Nat) (key : DWord) (d : Domain) (k : Nat) (t : Tag) : (s.postService ctx key d k t).Wf := by
  unfold State.postService; dsimp only; (repeat' split) <;> simp [h]
@[simp] theorem State.wf_lookupTile (t : Team) (key : DWord) : (s.lookupTile t key).1.Wf := by
  unfold State.lookupTile; dsimp only
  (repeat' split) <;> simp [h]
  rename_i e
  simp [State.wf_allocTag h _ _ _ _ _ e]
omit h in
@[simp] theorem State.wf_lookupTiles (t : Team) (d : Nat) (ks : List (Nat × DWord)) {s : State} (h : s.Wf) :
    (s.lookupTiles t d ks).1.Wf := by
  induction ks generalizing s with
  | nil => exact h
  | cons k ks ih => exact ih (State.wf_lookupTile h t k.2)
@[simp] theorem State.wf_fillTile (ctx : Nat) (key : DWord) (code : Word) (dom : Nat) (d : Domain) :
    (s.fillTile ctx key code dom d).Wf := by
  unfold State.fillTile; dsimp only; (repeat' split) <;> simp [h]
@[simp] theorem State.wf_invalidateObject (ctx n : Nat) (d : Domain) : (s.invalidateObject ctx n d).Wf := by
  unfold State.invalidateObject; dsimp only; split <;> simp [h]
@[simp] theorem State.wf_tileError (pa n : Nat) : (s.tileError pa n).Wf := by
  unfold State.tileError; dsimp only; (repeat' split) <;> simp [h]
@[simp] theorem State.wf_endService (ctx : Nat) : (s.endService ctx).Wf := by
  unfold State.endService
  split
  · exact h
  · split
    · exact h
    · refine wf_foldl h (fun s p h => ?_) _
      split <;> simp [h]

/-! The operations of Machine/Contain. -/
@[simp] theorem State.wf_rasRecord (ctx kind store : Nat) (pc : Word) (addr : DWord) : (s.rasRecord ctx kind store pc addr).Wf := by
  unfold State.rasRecord; dsimp only; split <;> simp [h]
@[simp] theorem State.wf_stopJob (cluster : Nat) (c : Card) : (s.stopJob cluster c).Wf := by
  have hw := State.wf_writeStamp h cluster { c with fail := some (c.fail.getD 0) }
  unfold State.stopJob
  refine State.wf_finishCard (State.wf_dropRoot ?_ _) _ _
  split
  · simp_all
  · exact h
@[simp] theorem State.wf_stopEngines (ctx : Nat) : (s.stopEngines ctx).Wf := by
  unfold State.stopEngines
  refine wf_foldl (by exact h) (fun s p h => ?_) _
  simp [wf_foldl h (fun s c h => State.wf_stopJob h p.1 c)]
@[simp] theorem State.wf_applyStores (ctx : Nat) : (s.applyStores ctx).Wf := by
  unfold State.applyStores
  exact wf_foldl (State.wf_performAllOf h _) (fun s p h => wf_foldl h (fun s k h => State.wf_drainHeld h p.1 k) _) _
/-- The teams of a context are dropped. -/
theorem State.wf_dropTeams (ctx : Nat) :
    (s.teams.foldl (fun (s : State) (p : Nat × Team) => if p.2.ctx = ctx then s.dropTeam p.1 2 else s) s).Wf :=
  wf_foldl h (fun s p h => by
    split
    · simp [h]
    · exact h) _
/-- The engines of a context are stopped, and its service ends. -/
theorem State.wf_stopWork (ctx : Nat) : (((s.stopEngines ctx).refillDecks).endService ctx).Wf := by simp [h]
@[simp] theorem State.wf_terminate (ctx kind store : Nat) (pc : Word) (addr : DWord) : (s.terminate ctx kind store pc addr).Wf := by
  unfold State.terminate
  split
  · exact h
  · simp only [State.Wf, State.updContext_mem]
    refine State.wf_rasRecord ?_ _ _ _ _ _
    simp only [State.Wf, State.raise_mem]
    refine State.wf_stopWork ?_ ctx
    exact State.wf_dropTeams (State.wf_applyStores h ctx) ctx
@[simp] theorem State.wf_completeShadow (gang : Nat) (g : Gang) (k number : Nat) : (s.completeShadow gang g k number).Wf := by
  simp [State.completeShadow, h, State.wf_devWrite]
@[simp] theorem State.wf_rollback (gang k : Nat) : (s.rollback gang k).Wf := by
  unfold State.rollback
  split
  · exact h
  · split
    · exact h
    · refine wf_foldl ?_ (fun s p h => ?_) _
      · dsimp only; split <;> simp [h]
      · split <;> simp [h]
@[simp] theorem State.wf_writeShadow (gang k number : Nat) : (s.writeShadow gang k number).Wf := by
  unfold State.writeShadow
  split
  · exact h
  · split
    · exact h
    · exact wf_foldl (wf_foldl h (fun s p h => State.wf_writeShadowTeam h _ _ _ _) _) (fun s q h => by simp [h, State.wf_devWrite]) _
@[simp] theorem State.wf_haltCheckpoint (gang crew : Nat) (g : Gang) (va kind level : Nat) (e : DWord) :
    (s.haltCheckpoint gang crew g va kind level e).Wf := by
  simp [State.haltCheckpoint, h]
@[simp] theorem State.wf_endCheckpoint (gang crew : Nat) (g : Gang) (c : Crew) (op : Option Nat) :
    (s.endCheckpoint gang crew g c op).Wf := by
  unfold State.endCheckpoint; dsimp only; split <;> simp [h]
@[simp] theorem State.wf_takeCheckpoint (gang crew : Nat) (g : Gang) (c : Crew) : (s.takeCheckpoint gang crew g c).Wf := by
  have hs : ((s.drainHeld gang crew).writeShadow gang crew (c.rb.number + 1)).Wf := by simp [h]
  have hu (f : Crew → Crew) : (((s.drainHeld gang crew).writeShadow gang crew (c.rb.number + 1)).updCrew gang crew f).Wf := by
    simp [hs]
  unfold State.takeCheckpoint
  dsimp only
  split
  · split
    · exact hu _
    · exact State.wf_endCheckpoint (hu _) _ _ _ _ _
  · split
    · exact hu _
    · exact State.wf_endCheckpoint (hu _) _ _ _ _ _
@[simp] theorem State.wf_loseLine (owner : Option Nat) (line : Nat) (pos : Nat × Nat × Nat) : (s.loseLine owner line pos).Wf := by
  unfold State.loseLine; dsimp only; (repeat' split) <;> simp [h]
@[simp] theorem State.wf_l2Error (ctx line : Nat) (pos : Nat × Nat × Nat) : (s.l2Error ctx line pos).Wf := by
  unfold State.l2Error; dsimp only; (repeat' split) <;> simp [h]
@[simp] theorem State.wf_closeFault (ctx seq : Nat) : (s.closeFault ctx seq).Wf := State.wf_flushFaults (by exact h) _
@[simp] theorem State.wf_reissue (f : FaultRec) : (s.reissue f).Wf := by
  unfold State.reissue; dsimp only
  split
  case h_4 => exact wf_foldl h (fun s p h => by simpa using h) _
  all_goals (repeat' split) <;> simp [h]

/-! The operations of Machine/Walks. -/
@[simp] theorem State.wf_drainRange (ctx base len : Nat) : (s.drainRange ctx base len).Wf := by
  unfold State.drainRange
  refine wf_foldl h (fun s x h => ?_) _
  (repeat' split) <;> simp [h]
@[simp] theorem State.wf_invalidate (ctx base len : Nat) : (s.invalidate ctx base len).Wf := by
  simp [State.invalidate, h]

/-! The operations of Machine/Commands. -/
@[simp] theorem State.wf_endContext (ctx : Nat) : (s.endContext ctx).Wf := by
  unfold State.endContext
  simp only [State.Wf]
  exact State.wf_stopWork (State.wf_dropTeams (State.wf_applyStores h ctx) ctx) ctx
@[simp] theorem State.wf_releaseTeam (id : Nat) : (s.releaseTeam id).Wf := by
  unfold State.releaseTeam; dsimp only; (repeat' split) <;> simp [h]
@[simp] theorem State.wf_revokeReplies (ctx : Nat) (c : Context) : (s.revokeReplies ctx c).Wf := by
  unfold State.revokeReplies; dsimp only
  split
  · exact h
  · split
    · exact h
    · exact State.wf_devWrite _ _ _ (wf_foldl h (fun s k h => State.wf_devWrite _ _ _ h) _)

/-! The operations of Machine/Debug. -/
@[simp] theorem State.wf_resumeTeam (id : Nat) (t : Team) (step : Nat) : (s.resumeTeam id t step).Wf := by
  simp [State.resumeTeam, h]

/-! The operations of Machine/Manage. -/
@[simp] theorem State.wf_endContexts : (s.endContexts).Wf := by
  unfold State.endContexts
  simp only [State.Wf]
  exact wf_foldl (f := fun (s : State) (p : Nat × Context) => s.endContext p.1) h (fun s p h => State.wf_endContext h p.1) _

/-! The operations of Machine/UniFlow. -/
@[simp] theorem State.wf_endPath (i : Instr) : (s.endPath i).Wf := by
  unfold State.endPath; dsimp only; (repeat' split) <;> simp [h]
theorem State.wf_drainWait (t : Team) (futures : Bool) : ∀ r ∈ s.drainWait t futures, r.Wf := by
  have hc := State.wf_copyOutcome h t (List.range 8) true
  unfold State.drainWait
  (repeat' split) <;> simp_all

end

end Sys2Proof.Machine
end

section
/-! SUPPORT. The canonical form of memory under an instruction slot, and under what instructions' bodies share. -/

namespace Sys2Proof.Machine

/-- A step leads, where it leads to a next state, to one whose memory is in canonical form. -/
def NextWf (o : Host.Outcome State Fault Refusal) : Prop := ∀ s, o = .next s → s.Wf
@[simp] theorem nextWf_next (s : State) : NextWf (.next s) ↔ s.Wf := ⟨fun h => h s rfl, fun h _ e => by cases e; exact h⟩
@[simp] theorem nextWf_fault (r : Fault) : NextWf (.fault r) := fun _ e => by cases e

section
variable {s : State} (h : s.Wf)
include h

/-- An instruction slot keeps the form where the instruction's own body does. -/
theorem slot_wf {i : Instr} {body : (r t : Team) → State → Res} (hb : ∀ r t, (body r t s).Wf) : NextWf (slot i body s) := by
  unfold slot
  split
  · simp
  · rw [nextWf_next]
    split
    · exact wf_settle h i (hb _ _)
    · simp [h]
    · simp [h]
    · refine State.wf_blockOn ?_ _
      split <;> simp [h]

/-! What the parts of instructions' bodies come to. -/
omit h in
@[simp] theorem Acc.wf_toLoad {x : Acc} (hx : x.Wf) (reason : Nat) : (x.toLoad reason).Wf := by cases x <;> exact hx
@[simp] theorem State.wf_wantCheckpoint (t : Team) : (s.wantCheckpoint t).Wf := by simp [State.wantCheckpoint, h]
@[simp] theorem State.wf_nameConsumed : s.nameConsumed.Wf := by simp [State.nameConsumed, h]
@[simp] theorem State.wf_linePoison : s.linePoison.Wf := by simp [State.linePoison, h]
@[simp] theorem State.wf_nameFull (ctx : Nat) (p : DWord) : (s.nameFull ctx p).Wf := by simp [State.nameFull, h]
@[simp] theorem State.wf_afterArrival (t : Team) (k count : Nat) : (s.afterArrival t k count).Wf := by
  unfold State.afterArrival; split <;> simp [h]
@[simp] theorem State.wf_armWait (i : Instr) (d : RegNo) (data : PendData) : (s.armWait i d data).Wf := by
  unfold State.armWait; dsimp only; split <;> simp [h]
@[simp] theorem State.wf_command (t : Team) (c : Cmd) : (s.command t c).Wf := by
  unfold State.command; (repeat' split) <;> simp [h]
@[simp] theorem State.wf_handRays (r t : Team) (a b : RegNo) (spec handle targets : Word) (n : Nat) :
    (s.handRays r t a b spec handle targets n).Wf := by
  unfold State.handRays; dsimp only; (repeat' split) <;> simp [h]
theorem State.wf_noArea (t : Team) (ks : List (Nat × DWord × Word)) : ∀ r ∈ s.noArea t ks, r.Wf := by
  unfold State.noArea
  split
  · simp
  · simp only [Option.mem_map]
    rintro _ ⟨p, -, rfl⟩
    simp [h]
theorem State.wf_lineOperand (t : Team) (x : Word) : EndsIn Res.Wf (fun _ => True) (s.lineOperand t x) := by
  unfold State.lineOperand; dsimp only; (repeat' split) <;> simp [h]
omit h in
theorem State.wf_record32 (t : Team) (off : Word) : EndsIn Res.Wf (fun _ => True) (s.record32 t off) := by
  unfold State.record32; (repeat' split) <;> simp
theorem State.wf_newFuture (ctx cls : Nat) : ∀ x ∈ s.newFuture ctx cls, x.1.Wf := by
  unfold State.newFuture
  split
  · simp
  · simp only [Option.mem_map]
    rintro _ ⟨slot, -, rfl⟩
    simp [h]
@[simp] theorem State.wf_hostCommand (ch seq : Nat) {body : State → State} (hb : ∀ s, s.Wf → (body s).Wf) :
    (s.hostCommand ch seq body).Wf := by
  unfold State.hostCommand; dsimp only
  split
  · exact h
  · split
    · split
      · exact hb _ (by simp [State.ack, h])
      · exact h
    · simp [State.ack, h]
theorem State.onContext_wf (ch seq op ctx : Nat) {f : Context → State → State} (hf : ∀ c s, s.Wf → (f c s).Wf) :
    NextWf (s.onContext ch seq op ctx f) := by
  unfold State.onContext
  rw [nextWf_next]
  refine State.wf_hostCommand h _ _ fun s h => ?_
  split
  · split
    · exact hf _ _ h
    · simp [h]
  · simp [h]
theorem State.dbgCommand_wf (ctx : Nat) (right : Option Nat) {f : Nat → Team → State → State} (hf : ∀ id t, (f id t s).Wf) :
    NextWf (s.dbgCommand ctx right f) := by
  unfold State.dbgCommand
  rw [nextWf_next]
  (repeat' split) <;> simp [h, hf]

omit h in
/-- A generic instruction that goes on with what its access performed. -/
theorem Acc.wf_thenLoad {x : Acc} (hx : x.Wf) {k : State → List RegWrite → BitVec 5 → Res} (hk : ∀ s ws fl, s.Wf → (k s ws fl).Wf)
    (reason : Nat) : (match x with | .all s ws fl => k s ws fl | x => x.toLoad reason).Wf := by
  cases x with
  | all s ws fl => exact hk s ws fl hx
  | poison s st addr ws => exact hx
  | res r => exact hx
/-- A read that leaves memory as it was. -/
theorem State.Wf.of_pair {α : Type} {s' : State} {x : State × α} {a : α} (e : x = (s', a)) (m : x.1.mem = s.mem) : s'.Wf := by
  rw [State.Wf, mem_of_pair e m]; exact h

/-! The shapes that groups of instructions share. -/
theorem laneFixed_wf (i : Instr) (lat : Nat) (f : (r : Team) → List RegWrite × BitVec 5) : NextWf (laneFixed i lat f s) :=
  slot_wf h fun _ _ => h
theorem laneSel_wf (i : Instr) (lat : Nat) (o : OpB) (f : (r : Team) → List RegWrite × BitVec 5) : NextWf (laneSel i lat o f s) :=
  slot_wf h fun _ _ => by split <;> exact h
theorem laneLater_wf (i : Instr) (reason : Nat) (f : (r : Team) → List RegWrite × BitVec 5) : NextWf (laneLater i reason f s) :=
  slot_wf h fun _ _ => h
theorem uniFixed_wf (i : Instr) (lat : Nat) (f : (r : Team) → List RegWrite) : NextWf (uniFixed i lat f s) :=
  slot_wf h fun _ _ => h
theorem teamOp_wf (i : Instr) (f : (r t : Team) → Team) : NextWf (teamOp i f s) :=
  slot_wf h fun _ _ => by simp [h]
theorem maskRead_wf (i : Instr) (d : RegNo) (f : (r : Team) → Word) : NextWf (maskRead i d f s) :=
  slot_wf h fun _ _ => h
theorem branch_wf {n : Nat} (i : Instr) (imm : BitVec n) (taken : (r t : Team) → Bool) : NextWf (branch i imm taken s) :=
  slot_wf h fun _ _ => by split <;> exact h
theorem jumpTo_wf (i : Instr) (a : RegNo) (code : Nat) : NextWf (jumpTo i a code s) :=
  slot_wf h fun _ _ => by dsimp only; split <;> simp [h]
theorem laneLoad_wf (i : Instr) (d a : RegNo) (disp : BitVec 10) (z : Nat) : NextWf (laneLoad i d a disp z s) :=
  slot_wf h fun _ t => by
    dsimp only
    split
    · simp
    · exact wf_accesses h _ _ _ _ _ _ fun s g l x k h => by simp [h]
theorem laneStore_wf (i : Instr) (d a : RegNo) (disp : BitVec 10) (z : Nat) : NextWf (laneStore i d a disp z s) :=
  slot_wf h fun _ t => by
    dsimp only
    split
    · simp
    · exact wf_accesses h _ _ _ _ _ _ fun s g l x k h => by simp [h]
theorem laneAtomic_wf (i : Instr) (d : RegNo) (a : BitVec 6) (w : Bool) (y : (r : Team) → Nat → Nat) (ord : BitVec 3) (op : RmwOp) :
    NextWf (laneAtomic i d a w y ord op s) :=
  slot_wf h fun _ t => by
    dsimp only
    split
    · simp
    · exact wf_accesses h _ _ _ _ _ _ fun s g l x k h => by simp [h]
theorem spadLoad_wf (i : Instr) (d a : RegNo) (disp : BitVec 10) (z : Nat) : NextWf (spadLoad i d a disp z s) :=
  slot_wf h fun _ t => by dsimp only; (repeat' split) <;> simp [h]
theorem spadStore_wf (i : Instr) (d a : RegNo) (disp : BitVec 10) (z : Nat) : NextWf (spadStore i d a disp z s) :=
  slot_wf h fun _ t => by dsimp only; (repeat' split) <;> simp [h]
theorem fullEmpty_wf (op : FullOp) (i : Instr) (d a : RegNo) (disp : BitVec 10) : NextWf (fullEmpty op i d a disp s) :=
  slot_wf h fun r t => by dsimp only; (repeat' split) <;> simp [h]
theorem uniLoad_wf (i : Instr) (d a : RegNo) (disp : BitVec 10) (z : Nat) : NextWf (uniLoad i d a disp z s) :=
  slot_wf h fun _ _ => wf_scalar h _ _ _ _ _ _ _ fun s g k h => by simp [h]
theorem uniStore_wf (i : Instr) (d a : RegNo) (disp : BitVec 10) (z : Nat) : NextWf (uniStore i d a disp z s) :=
  slot_wf h fun _ _ => wf_scalar h _ _ _ _ _ _ _ fun s g k h => by simp [h]
theorem uniAtomic_wf (i : Instr) (d : RegNo) (a : BitVec 6) (w : Bool) (y : (r : Team) → Nat) (ord : BitVec 3) (op : RmwOp) :
    NextWf (uniAtomic i d a w y ord op s) :=
  slot_wf h fun _ _ => wf_scalar h _ _ _ _ _ _ _ fun s g k h => by simp [h]
theorem countName_wf (i : Instr) (a : RegNo) {f : (t : Team) → State → Nat → DWord → Res}
    (hf : ∀ t s k name, s.Wf → (f t s k name).Wf) : NextWf (countName i a f s) :=
  slot_wf h fun _ t => by
    dsimp only
    split
    · exact h
    · split
      · exact State.wf_nameConsumed h
      · split
        · simp
        · exact hf _ _ _ _ (by simp [h])
end

end Sys2Proof.Machine
end

section
/-! SUPPORT. The canonical form of memory under each instruction and event that has a body of its own. -/

namespace Sys2Proof.Machine

section
variable {s : State} (h : s.Wf)
include h

/-! The operations of Machine/Sections. -/
@[simp] theorem execOenter_wf (d a b : RegNo) : NextWf (execOenter d a b s) :=
  slot_wf h fun r t => by
    dsimp only
    split
    · simp [h]
    · simp only [Res.wf_later, State.Wf]
      rw [foldl_mem fun s key => by simp]
      simp [h]
@[simp] theorem execOleave_wf (a : RegNo) : NextWf (execOleave a s) :=
  slot_wf h fun r t => by
    split
    · rename_i e; exact State.wf_noArea h _ _ _ e
    · exact wf_foldl h (fun s p h => by simpa using h) _
@[simp] theorem execOskip_wf (a b : RegNo) : NextWf (execOskip a b s) :=
  slot_wf h fun r t => by
    split
    · rename_i e; exact State.wf_noArea h _ _ _ e
    · exact wf_foldl h (fun s p h => by simpa using h) _
@[simp] theorem execOenterArrival_wf (team serial : Nat) (key : DWord) : NextWf (execOenterArrival team serial key s) := by
  simp [execOenterArrival, h]
@[simp] theorem execOleaveArrival_wf (ctx : Nat) (holder key : DWord) : NextWf (execOleaveArrival ctx holder key s) := by
  simp [execOleaveArrival, h]
@[simp] theorem execOskipArrival_wf (ctx : Nat) (key : DWord) (sq : Word) : NextWf (execOskipArrival ctx key sq s) := by
  simp [execOskipArrival, h]
@[simp] theorem execSectionTimeout_wf (team serial : Nat) : NextWf (execSectionTimeout team serial s) := by
  simp [execSectionTimeout, h]
@[simp] theorem execWaiterRetry_wf (team serial : Nat) (key : DWord) : NextWf (execWaiterRetry team serial key s) := by
  simp [execWaiterRetry, h]
@[simp] theorem execSecReset_wf (ctx : Nat) : NextWf (execSecReset ctx s) := by
  unfold execSecReset; split <;> simp [h]
@[simp] theorem execSecFree_wf (ctx : Nat) : NextWf (execSecFree ctx s) := by
  unfold execSecFree; dsimp only; (repeat' split) <;> simp [h]
@[simp] theorem execSecQuery_wf (ctx : Nat) : NextWf (execSecQuery ctx s) := by
  unfold execSecQuery; split <;> simp [h]
@[simp] theorem execClearall_wf (ctx : Nat) : NextWf (execClearall ctx s) := by
  unfold execClearall; (repeat' split) <;> simp [h]
@[simp] theorem execSecBadOp_wf (ctx : Nat) : NextWf (execSecBadOp ctx s) := by
  simp [execSecBadOp, h]

/-! The operations of Machine/LaneMem. -/
@[simp] theorem execLdc_wf (d a : RegNo) (disp : BitVec 10) : NextWf (execLdc d a disp s) :=
  slot_wf h fun r t => by
    dsimp only
    split
    · simp
    · exact wf_accesses h _ _ _ _ _ _ fun s g l x k h => by simp [h]
@[simp] theorem execSmp_wf (d a b : RegNo) : NextWf (execSmp d a b s) :=
  slot_wf h fun r t => by
    have hr := State.wf_readSlot h t (r.S b.toNat) (r.actives.headD 0) 1
    dsimp only
    split
    · rename_i e; rw [e] at hr; exact hr
    · rename_i s n e
      have hs : s.Wf := by rw [e] at hr; exact hr
      split
      · simp
      · refine Acc.wf_toLoad (wf_genericMany hs _ _ _ _ fun s l xs h => ?_) 1
        split
        · rename_i e; exact h.of_pair e (State.readTexels_mem _ _ _ _)
        · rename_i e; exact h.of_pair e (State.readTexels_mem _ _ _ _)
@[simp] theorem execCpa_wf (d a : RegNo) (o : OpB) : NextWf (execCpa d a o s) :=
  slot_wf h fun r t => by dsimp only; (repeat' split) <;> simp [h]

/-! The operations of Machine/UniMem. -/
@[simp] theorem execSldc_wf (d a : RegNo) (disp : BitVec 10) : NextWf (execSldc d a disp s) :=
  slot_wf h fun _ _ => wf_scalar h _ _ _ _ _ _ _ fun s g k h => by simp [h]
@[simp] theorem execSldaq_wf (d : RegNo) (a : BitVec 6) (w : Bool) (ord : BitVec 3) : NextWf (execSldaq d a w ord s) :=
  slot_wf h fun _ _ => wf_scalar h _ _ _ _ _ _ _ fun s g k h => by simp [h]
@[simp] theorem execSstrl_wf (d : RegNo) (a : BitVec 6) (w : Bool) (ord : BitVec 3) : NextWf (execSstrl d a w ord s) :=
  slot_wf h fun _ _ => wf_scalar h _ _ _ _ _ _ _ fun s g k h => by simp [h]

/-! The operations of Machine/Content. -/
@[simp] theorem execChash_wf (d a : RegNo) : NextWf (execChash d a s) :=
  slot_wf h fun r t => by
    have ho := State.wf_lineOperand h t (r.S a.toNat)
    split
    · rename_i e; simpa [e] using ho
    · dsimp only; (repeat' split) <;> simp [h]
@[simp] theorem execCput_wf (d a : RegNo) : NextWf (execCput d a s) :=
  slot_wf h fun r t => by
    have ho := State.wf_lineOperand h t (r.S a.toNat)
    have counted (k : Nat) (ms : List DWord) {s : State} (h : s.Wf) : (ms.foldl (fun (s : State) m => s.countUp k m) s).Wf := by simp [h]
    split
    · rename_i e; simpa [e] using ho
    · dsimp only; (repeat' split) <;> simp [h, State.wf_writeBytes]
@[simp] theorem execCget_wf (a b : RegNo) : NextWf (execCget a b s) :=
  slot_wf h fun r t => by
    have marked (c pa o : Nat) {s : State} (h : s.Wf) : ((List.range 32).foldl (fun (s' : State) k =>
        if s'.poisoned (pa + 4 * k) 4 then s'.updCrew t.gang c fun cr => { cr with poison := cr.poison.set false (o / 4 + k) true }
        else s') s).Wf := wf_foldl h (fun s k h => by split <;> simp [h]) _
    dsimp only
    split
    · simp
    · split
      · simp
      · split
        · simp
        · split
          · exact State.wf_wantCheckpoint h t
          · split
            · exact State.wf_nameConsumed h
            · exact marked _ _ _ (by simp [h])
@[simp] theorem execCref_wf (a : RegNo) : NextWf (execCref a s) :=
  countName_wf h _ _ fun _ s k name h => by simp [h]
@[simp] theorem execCdrop_wf (a : RegNo) : NextWf (execCdrop a s) :=
  countName_wf h _ _ fun _ s k name h => by split <;> simp [h]
@[simp] theorem execCswap_wf (d a b : RegNo) (m : BitVec 3) : NextWf (execCswap d a b m s) :=
  slot_wf h fun r t => by
    dsimp only
    split
    · simp
    · split
      · simp
      · refine Acc.wf_thenLoad (wf_genericMany h _ _ _ _ fun s l xs h => ?_) (fun s ws fl h => ?_) 14
        · split
          · exact State.wf_swapCell h _ _ _ _ _ _
          · exact h
        · split <;> simp [h]
@[simp] theorem execCascadeStep_wf (die : Nat) : NextWf (execCascadeStep die s) := by
  unfold execCascadeStep; split <;> simp [h]

/-! The operations of Machine/Sync. -/
@[simp] theorem execBar_wf (a : RegNo) : NextWf (execBar a s) :=
  slot_wf h fun r t => by (repeat' split) <;> simp [h]
@[simp] theorem execBarrv_wf (d a b : RegNo) : NextWf (execBarrv d a b s) :=
  slot_wf h fun r t => by (repeat' split) <;> simp [h]
@[simp] theorem execBarw_wf (a : RegNo) : NextWf (execBarw a s) :=
  slot_wf h fun r t => by (repeat' split) <;> simp [h]
@[simp] theorem execBarpend_wf (a : RegNo) (o : OpU) : NextWf (execBarpend a o s) :=
  slot_wf h fun _ _ => by simp [h]
@[simp] theorem execFence_wf (ord : BitVec 3) : NextWf (execFence ord s) :=
  slot_wf h fun r t => by split <;> simp [h]
@[simp] theorem execPfence_wf (mask : BitVec 4) : NextWf (execPfence mask s) :=
  slot_wf h fun r t => by (repeat' split) <;> simp [h]
@[simp] theorem execWait_wf (d a b : RegNo) : NextWf (execWait d a b s) :=
  slot_wf h fun r t => by
    split
    · exact h
    · dsimp only
      split
      · simp
      · exact Acc.wf_thenLoad (wf_genericMany h _ _ _ _ (f := fun s _ _ => .ok s [] 0) fun s l xs h => h)
          (fun s ws fl h => State.wf_armWait h _ _ _) 13
@[simp] theorem execCtcommit_wf : NextWf (execCtcommit s) :=
  slot_wf h fun r t => by
    split
    · simp [h]
    · cases e : s.copyOutcome t [t.nextTag] false with
      | none => exact h
      | some x => exact State.wf_copyOutcome h _ _ _ x e
@[simp] theorem execCtwait_wf (b : RegNo) : NextWf (execCtwait b s) :=
  slot_wf h fun r t => by
    split
    · rename_i e; exact State.wf_copyOutcome h _ _ _ _ e
    · split <;> exact h
@[simp] theorem execFwait_wf (d a : RegNo) : NextWf (execFwait d a s) :=
  slot_wf h fun r t => by dsimp only; (repeat' split) <;> simp [h]
@[simp] theorem execFtest_wf (d a : RegNo) : NextWf (execFtest d a s) :=
  slot_wf h fun r t => by (repeat' split) <;> simp [h]

/-! The operations of Machine/Yarder. -/
@[simp] theorem execJobCompletion_wf (cluster card : Nat) : NextWf (execJobCompletion cluster card s) := by
  unfold execJobCompletion
  rw [nextWf_next]
  split
  · exact h
  · rename_i c _
    split
    · exact h
    · dsimp only
      have hj := State.wf_jobWord h cluster c.ctx (c.f 0x70 8) (BitVec.ofNat 64 (c.f 0x30 4))
      split
      · simp [h]
      · simp [h]
      · rename_i s' e
        have hs : s'.Wf := by
          split at e
          · simpa [e] using hj
          · cases e; exact h
        have hw := State.wf_writeStamp hs cluster c
        split
        · rename_i e; rw [e] at hw; exact State.wf_finishCard (State.wf_dropRoot hw _) _ _
        · split <;> simp [hs]
        · simp [hs]
@[simp] theorem execJob_wf (d a b : RegNo) : NextWf (execJob d a b s) :=
  slot_wf h fun r t => by
    have hr := State.wf_record32 (s := s) t (r.S b.toNat)
    split
    · rename_i e
      split at e
      · cases e
      · split at e
        · cases e
        · rename_i e'; cases e; simpa [e'] using hr
    · split
      · exact h
      · split
        · rename_i e
          dsimp only
          split
          · simp
          · split
            · exact h
            · simp [State.wf_newFuture h _ _ _ e]
        · exact h
@[simp] theorem execFcancel_wf (d a : RegNo) : NextWf (execFcancel d a s) :=
  slot_wf h fun r t => by dsimp only; (repeat' split) <;> simp [h]
@[simp] theorem execApertureSubmit_wf (ctx cluster chan : Nat) (value : DWord) : NextWf (execApertureSubmit ctx cluster chan value s) := by
  unfold execApertureSubmit; (repeat' split) <;> simp [h]
@[simp] theorem execYrdAbort_wf (ctx : Nat) (coll : DWord) : NextWf (execYrdAbort ctx coll s) := by
  unfold execYrdAbort; split <;> simp [h]
@[simp] theorem execCollectiveResult_wf (group ctx : Nat) (coll : DWord) : NextWf (execCollectiveResult group ctx coll s) := by
  simp [execCollectiveResult, h]
@[simp] theorem execPartialSums_wf (group ctx : Nat) (coll : DWord) (parts : List RankPart) :
    NextWf (execPartialSums group ctx coll parts s) := by
  simp [execPartialSums, h]
@[simp] theorem execJobStart_wf (cluster : Nat) : NextWf (execJobStart cluster s) := by
  unfold execJobStart; dsimp only; (repeat' split) <;> simp [h]
@[simp] theorem execFillfullStep_wf (cluster card piece : Nat) : NextWf (execFillfullStep cluster card piece s) := by
  unfold execFillfullStep; (repeat' split) <;> simp [h]

/-! The operations of Machine/Gangs. -/
@[simp] theorem execTeamEnd_wf (team : Nat) : NextWf (execTeamEnd team s) := by
  unfold execTeamEnd; (repeat' split) <;> simp [h]
@[simp] theorem execGridEnd_wf (ctx grid : Nat) : NextWf (execGridEnd ctx grid s) := by
  unfold execGridEnd; (repeat' split) <;> simp [h]

/-! The operations of Machine/LaneFloat. -/
@[simp] theorem execCvt_wf (d a : RegNo) (spec : Word) : NextWf (execCvt d a spec s) := by
  unfold execCvt; dsimp only
  split
  · exact laneLater_wf h _ _ _
  · exact laneFixed_wf h _ _ _

/-! The operations of Machine/Queues. -/
@[simp] theorem execQpush_wf (d a : RegNo) : NextWf (execQpush d a s) :=
  slot_wf h fun r t => by dsimp only; (repeat' split) <;> simp [h]
@[simp] theorem execQpop_wf (d a : RegNo) : NextWf (execQpop d a s) :=
  slot_wf h fun r t => by split <;> simp [h]

/-! The operations of Machine/Matrix. -/
@[simp] theorem execMfmt_wf (a : RegNo) : NextWf (execMfmt a s) :=
  slot_wf h fun r t => by
    split
    · exact h
    · dsimp only
      split
      · simp
      · refine Acc.wf_thenLoad (wf_genericMany h _ _ _ _ fun s l xs h => ?_) (fun s ws fl h => State.wf_command h _ _) 9
        split
        · split <;> (rename_i e; exact State.wf_of_teamLoad h e)
        · exact h
@[simp] theorem execWbld_wf (d a : RegNo) : NextWf (execWbld d a s) :=
  slot_wf h fun r t => by dsimp only; split <;> simp [h]
@[simp] theorem execMma_wf (d a : RegNo) (n : Selr) : NextWf (execMma d a n s) :=
  slot_wf h fun _ _ => by simp [h]
@[simp] theorem execMzero_wf (d : RegNo) : NextWf (execMzero d s) :=
  slot_wf h fun _ _ => by simp [h]
@[simp] theorem execMdrain_wf (d : RegNo) : NextWf (execMdrain d s) :=
  slot_wf h fun _ _ => by simp [h]
@[simp] theorem execMburst_wf (n : Selr) : NextWf (execMburst n s) :=
  slot_wf h fun _ _ => by simp [h]
@[simp] theorem execMwait_wf (d : RegNo) : NextWf (execMwait d s) :=
  slot_wf h fun r t => by (repeat' split) <;> simp [h]
@[simp] theorem execMatrixChunkStart_wf (cluster : Nat) : NextWf (execMatrixChunkStart cluster s) := by
  unfold execMatrixChunkStart; dsimp only; (repeat' split) <;> simp [h]
@[simp] theorem execMatrixChunkEnd_wf (cluster : Nat) : NextWf (execMatrixChunkEnd cluster s) := by
  unfold execMatrixChunkEnd; dsimp only; (repeat' split) <;> simp [h]
@[simp] theorem execWeightLoadEnd_wf (cluster slot : Nat) : NextWf (execWeightLoadEnd cluster slot s) := by
  unfold execWeightLoadEnd; dsimp only; (repeat' split) <;> simp [h]
@[simp] theorem execDrainBeat_wf (cluster : Nat) : NextWf (execDrainBeat cluster s) := by
  unfold execDrainBeat; (repeat' split) <;> simp [h]
@[simp] theorem execRampupEnd_wf (cluster : Nat) : NextWf (execRampupEnd cluster s) := by
  unfold execRampupEnd; (repeat' split) <;> simp [h]
@[simp] theorem execRampdownEnd_wf (cluster : Nat) : NextWf (execRampdownEnd cluster s) := by
  unfold execRampdownEnd; (repeat' split) <;> simp [h]
@[simp] theorem execWarmToCold_wf (cluster : Nat) : NextWf (execWarmToCold cluster s) := by
  unfold execWarmToCold; (repeat' split) <;> simp [h]
@[simp] theorem execMxaInj_wf (ctx cluster : Nat) (value : DWord) : NextWf (execMxaInj ctx cluster value s) := by
  simp [execMxaInj, h]

/-! The operations of Machine/Sched. -/
@[simp] theorem execGangPlacement_wf (part : Nat) : NextWf (execGangPlacement part s) := by
  unfold execGangPlacement; split <;> simp [h]
@[simp] theorem execPreemptionRequest_wf (gang : Nat) : NextWf (execPreemptionRequest gang s) := by
  simp [execPreemptionRequest, h]
@[simp] theorem execPreemptionTimeout_wf (gang : Nat) : NextWf (execPreemptionTimeout gang s) := by
  unfold execPreemptionTimeout; (repeat' split) <;> simp [h]
@[simp] theorem execGangSave_wf (gang : Nat) : NextWf (execGangSave gang s) := by
  have crews (g : Gang) (cs : List (Nat × Crew)) : (cs.foldl (fun (s : State) x => s.saveCrew g x.1 x.2) s).Wf :=
    wf_foldl h (fun s x h => State.wf_saveCrew h _ _ _) _
  unfold execGangSave
  (repeat' split) <;> simp [h, crews]
@[simp] theorem execGangRestore_wf (gang : Nat) : NextWf (execGangRestore gang s) := by
  unfold execGangRestore; (repeat' split) <;> simp [h]

/-! The operations of Machine/Deck. -/
@[simp] theorem execSpawn_wf (d a b : RegNo) : NextWf (execSpawn d a b s) :=
  slot_wf h fun r t => by
    have hr := State.wf_record32 (s := s) t (r.S b.toNat)
    split
    · simp
    · split
      · rename_i e; simpa [e] using hr
      · split
        · simp [h]
        · split
          · exact h
          · split
            · exact h
            · split
              · exact h
              · rename_i e
                have hf := State.wf_newFuture h _ _ _ e
                dsimp only
                (repeat' split) <;> simp [hf]
@[simp] theorem execDeckDispatch_wf (cluster : Nat) : NextWf (execDeckDispatch cluster s) := by
  unfold execDeckDispatch
  rw [nextWf_next]
  cases e : s.dispatch cluster with
  | none => exact h
  | some s' => exact State.wf_dispatch h cluster s' e
@[simp] theorem execStealAttempt_wf (cluster : Nat) : NextWf (execStealAttempt cluster s) := by
  unfold execStealAttempt; (repeat' split) <;> simp [h]

/-! The operations of Machine/Rays. -/
@[simp] theorem execRayEnd_wf (cluster ray : Nat) : NextWf (execRayEnd cluster ray s) := by
  unfold execRayEnd; (repeat' split) <;> simp [h]
@[simp] theorem execTrc_wf (a b : RegNo) (spec : Word) : NextWf (execTrc a b spec s) :=
  slot_wf h fun r t => by
    have hr := State.wf_readSlot h t (r.S (spec.extractLsb' 8 7).toNat) (r.actives.headD 0) 5
    dsimp only
    split
    · exact State.wf_handRays h _ _ _ _ _ _ _ _
    · split
      · rename_i e; rw [e] at hr; exact hr
      · rename_i s n e
        rw [e] at hr
        split
        · simp
        · exact State.wf_handRays hr _ _ _ _ _ _ _ _

/-! The operations of Machine/Rast. -/
@[simp] theorem execJobLanding_wf (cluster card piece : Nat) : NextWf (execJobLanding cluster card piece s) := by
  unfold execJobLanding; (repeat' split) <;> simp [h]

/-! The operations of Machine/Shading. -/
@[simp] theorem execScq_wf (d a : RegNo) : NextWf (execScq d a s) :=
  slot_wf h fun r t => by split <;> simp [h]
@[simp] theorem execScfill_wf (a b : RegNo) : NextWf (execScfill a b s) :=
  slot_wf h fun r t => by
    split
    · simp
    · split
      · simp
      · exact wf_foldl h (fun s x h => State.wf_fillTile h _ _ _ _ _) _
      · exact h
@[simp] theorem execScinv_wf (a : RegNo) : NextWf (execScinv a s) :=
  slot_wf h fun r t => by
    dsimp only
    split
    · simp
    · exact wf_foldl h (fun s x h => State.wf_invalidateObject h _ _ _) _
    · exact h
@[simp] theorem execScframe_wf (a : RegNo) : NextWf (execScframe a s) :=
  slot_wf h fun r t => by dsimp only; (repeat' split) <;> simp [h]

/-! The operations of Machine/Contain. -/
@[simp] theorem execConsumption_wf (team storage : Nat) (addr : DWord) : NextWf (execConsumption team storage addr s) := by
  unfold execConsumption; dsimp only; (repeat' split) <;> simp [h]
@[simp] theorem execCheckpoint_wf (gang crew : Nat) : NextWf (execCheckpoint gang crew s) := by
  unfold execCheckpoint; dsimp only; (repeat' split) <;> simp [h]
@[simp] theorem execCorrectedError_wf (site : ErrSite) : NextWf (execCorrectedError site s) := by
  unfold execCorrectedError; dsimp only; (repeat' split) <;> simp [h]
@[simp] theorem execUncorrectedError_wf (site : ErrSite) : NextWf (execUncorrectedError site s) := by
  unfold execUncorrectedError
  rw [nextWf_next]
  split
  · simp [h]
  · simp [h]
  · simp [h]
  · simp [h]
  · simp [h]
  · split <;> simp [h]
  · split <;> simp [h]
  · split <;> simp [h]
  · split <;> simp [h, State.wf_writeBytes]
@[simp] theorem execRasInj_wf (ctx : Nat) (value : DWord) : NextWf (execRasInj ctx value s) := by
  simp [execRasInj, h]
@[simp] theorem execFaultRetry_wf (ctx seq : Nat) : NextWf (execFaultRetry ctx seq s) := by
  unfold execFaultRetry; (repeat' split) <;> simp [h]
@[simp] theorem execFaultReject_wf (ctx seq : Nat) : NextWf (execFaultReject ctx seq s) := by
  unfold execFaultReject; (repeat' split) <;> simp [h]
@[simp] theorem execClusterRemoval_wf (cluster : Nat) : NextWf (execClusterRemoval cluster s) := by
  have ended (cs : List Nat) : (cs.foldl (fun (s : State) c => s.terminate c 6 0 0 0) s).Wf :=
    wf_foldl h (fun s c h => State.wf_terminate h _ _ _ _ _) _
  have asked (s : State) (h : s.Wf) : (s.gangs.foldl (fun (s : State) (p : Nat × Gang) =>
      if p.2.here && p.2.cluster = cluster then s.request p.1 else s) s).Wf :=
    wf_foldl h (fun s p h => by split <;> simp [h]) _
  unfold execClusterRemoval
  rw [nextWf_next]
  split
  · have left : (((s.overdue cluster).foldl (fun (s : State) c => s.terminate c 6 0 0 0) s).moveDeck cluster).Wf := by
      rw [State.Wf, State.moveDeck_mem]; exact ended _
    dsimp only
    split
    · rw [State.Wf, State.leavePartition_mem]; exact left
    · exact left
  · rw [State.Wf, State.moveDeck_mem]
    exact asked _ (by exact h)

/-! The operations of Machine/Walks. -/
@[simp] theorem execPageWalk_wf (unit ctx va : Nat) : NextWf (execPageWalk unit ctx va s) := by
  unfold execPageWalk; dsimp only; (repeat' split) <;> simp [h]

/-! The operations of Machine/Commands. -/
@[simp] theorem execLaunch_wf (ch seq ctx kbase gangs tail prio param swap : Nat) :
    NextWf (execLaunch ch seq ctx kbase gangs tail prio param swap s) := by
  unfold execLaunch
  rw [nextWf_next]
  refine State.wf_hostCommand h _ _ fun s h => ?_
  split <;> simp [h]
@[simp] theorem execCommandRefused_wf (ch seq op ctx : Nat) : NextWf (execCommandRefused ch seq op ctx s) := by
  simp [execCommandRefused, h]
@[simp] theorem execCtxcfg_wf (ch seq ctx : Nat) (desc : BitVec 1024) : NextWf (execCtxcfg ch seq ctx desc s) := by
  unfold execCtxcfg
  rw [nextWf_next]
  refine State.wf_hostCommand h _ _ fun s h => ?_
  dsimp only
  split <;> simp [h]
@[simp] theorem execInval_wf (ch seq ctx base len : Nat) : NextWf (execInval ch seq ctx base len s) :=
  State.onContext_wf h _ _ _ _ fun c s h => by split <;> simp [h]
@[simp] theorem execKill_wf (ch seq ctx : Nat) (ident : DWord) : NextWf (execKill ch seq ctx ident s) :=
  State.onContext_wf h _ _ _ _ fun c s h => by split <;> simp [h]
@[simp] theorem execTerm_wf (ch seq ctx : Nat) : NextWf (execTerm ch seq ctx s) :=
  State.onContext_wf h _ _ _ _ fun c s h => by split <;> simp [h]
@[simp] theorem execEvread_wf (ch seq ctx first count : Nat) : NextWf (execEvread ch seq ctx first count s) :=
  State.onContext_wf h _ _ _ _ fun c s h => by dsimp only; (repeat' split) <;> simp [h]
@[simp] theorem execDomainCreate_wf (ch seq ctx domain hslots lines : Nat) :
    NextWf (execDomainCreate ch seq ctx domain hslots lines s) := by
  unfold execDomainCreate
  rw [nextWf_next]
  refine State.wf_hostCommand h _ _ fun s h => ?_
  split
  · simp [h]
  · dsimp only
    split
    · exact h
    · split
      · exact h
      · simp [Memory.wf_filter _ h]
@[simp] theorem execDomainDelete_wf (ch seq ctx domain : Nat) : NextWf (execDomainDelete ch seq ctx domain s) := by
  unfold execDomainDelete
  rw [nextWf_next]
  refine State.wf_hostCommand h _ _ fun s h => ?_
  (repeat' split) <;> simp [h, State.wf_dropDomain]
@[simp] theorem execSvcrole_wf (ch seq ctx grid : Nat) : NextWf (execSvcrole ch seq ctx grid s) :=
  State.onContext_wf h _ _ _ _ fun c s h => by split <;> simp [h]
@[simp] theorem execDebugGrant_wf (ch seq ctx holder node rights : Nat) : NextWf (execDebugGrant ch seq ctx holder node rights s) :=
  State.onContext_wf h _ _ _ _ fun c s h => by dsimp only; split <;> simp [h]
@[simp] theorem execDebugRevoke_wf (ch seq ctx : Nat) : NextWf (execDebugRevoke ch seq ctx s) :=
  State.onContext_wf h _ _ _ _ fun c s h => by
    have released (s : State) (h : s.Wf) : (s.teams.foldl (fun (s : State) (p : Nat × Team) =>
        if p.2.ctx = ctx then s.releaseTeam p.1 else s) s).Wf := wf_foldl h (fun s p h => by split <;> simp [h]) _
    have cleared : (revokedRegs.foldl (fun (s : State) off => s.setReg ctx off 0) s).Wf := wf_foldl h (fun s off h => by simp [h]) _
    simp only [State.Wf, State.admitSets_mem, State.setReg_mem]
    refine State.wf_revokeReplies ?_ _ _
    simp only [State.Wf, State.setReg_mem, State.updContext_mem]
    exact released _ cleared
@[simp] theorem execAttest_wf (ch seq ctx : Nat) (nonce : BitVec 256) : NextWf (execAttest ch seq ctx nonce s) := by
  unfold execAttest
  rw [nextWf_next]
  refine State.wf_hostCommand h _ _ fun s h => ?_
  split <;> simp [h]

/-! The operations of Machine/Debug. -/
@[simp] theorem execDbgHalt_wf (ctx : Nat) : NextWf (execDbgHalt ctx s) :=
  State.dbgCommand_wf h _ _ fun id t => by dsimp only; (repeat' split) <;> simp [h]
@[simp] theorem execDbgResume_wf (ctx : Nat) : NextWf (execDbgResume ctx s) :=
  State.dbgCommand_wf h _ _ fun id t => by split <;> simp [h]
@[simp] theorem execDbgStep_wf (ctx : Nat) : NextWf (execDbgStep ctx s) :=
  State.dbgCommand_wf h _ _ fun id t => by split <;> simp [h]
@[simp] theorem execDbgQuery_wf (ctx : Nat) : NextWf (execDbgQuery ctx s) := by
  unfold execDbgQuery; (repeat' split) <;> simp [h]
@[simp] theorem execDbgRead_wf (ctx : Nat) : NextWf (execDbgRead ctx s) :=
  State.dbgCommand_wf h _ _ fun id t => by (repeat' split) <;> simp [h]
@[simp] theorem execDbgEdit_wf (ctx : Nat) : NextWf (execDbgEdit ctx s) :=
  State.dbgCommand_wf h _ _ fun id t => by dsimp only; (repeat' split) <;> simp [h]
@[simp] theorem execDbgDiscard_wf (ctx : Nat) : NextWf (execDbgDiscard ctx s) :=
  State.dbgCommand_wf h _ _ fun id t => by simp [h]
@[simp] theorem execDbgBadOp_wf (ctx : Nat) : NextWf (execDbgBadOp ctx s) := by
  simp [execDbgBadOp, h]
@[simp] theorem execStepHalt_wf (team : Nat) : NextWf (execStepHalt team s) := by
  unfold execStepHalt; (repeat' split) <;> simp [h]
@[simp] theorem execHaltEvent_wf (ctx : Nat) : NextWf (execHaltEvent ctx s) := by
  unfold execHaltEvent
  (repeat' split) <;> simp [h, State.wf_devWrite]
@[simp] theorem execDbgWpWrite_wf (who : Agent) (ctx off : Nat) (value : DWord) : NextWf (execDbgWpWrite who ctx off value s) := by
  unfold execDbgWpWrite; split <;> simp [h]
@[simp] theorem execDbgPulse_wf (ctx : Nat) (value : DWord) : NextWf (execDbgPulse ctx value s) := by
  unfold execDbgPulse; split <;> simp [h]
@[simp] theorem execTriggerPin_wf (pin : Nat) : NextWf (execTriggerPin pin s) := by
  unfold execTriggerPin; split <;> simp [h]
@[simp] theorem execStallSample_wf (ctx cluster core : Nat) : NextWf (execStallSample ctx cluster core s) := by
  unfold execStallSample; dsimp only; (repeat' split) <;> simp [h]

/-! The operations of Machine/Exchange. -/
@[simp] theorem execShfl_wf (d a : RegNo) (src : LaneSrc) : NextWf (execShfl d a src s) := by
  unfold execShfl; dsimp only
  (repeat' split) <;> simp [laneLater_wf h, laneFixed_wf h]

/-! The operations of Machine/Manage. -/
@[simp] theorem execConfigure_wf : NextWf (execConfigure s) := by
  unfold execConfigure; dsimp only; (repeat' split) <;> simp [h]
@[simp] theorem execTeardown_wf : NextWf (execTeardown s) := by
  unfold execTeardown; dsimp only
  (repeat' split) <;> simp [h, State.wf_dropPartition]
@[simp] theorem execMgtRead_wf : NextWf (execMgtRead s) := by
  unfold execMgtRead; split <;> simp [h]
@[simp] theorem execMgtBadOp_wf : NextWf (execMgtBadOp s) := by
  simp [execMgtBadOp, h]
@[simp] theorem execRegisterWrite_wf (target : RegTarget) (value : DWord) : NextWf (execRegisterWrite target value s) := by
  unfold execRegisterWrite; (repeat' split) <;> simp [h]
@[simp] theorem execStartUp_wf : NextWf (execStartUp s) := by
  unfold execStartUp; dsimp only; split <;> simp [h]
omit h in
@[simp] theorem execPowerLoss_wf : NextWf (execPowerLoss s) :=
  (nextWf_next _).2 Memory.wf_reset
@[simp] theorem execThermalThrottle_wf (die : Nat) : NextWf (execThermalThrottle die s) := by
  simp [execThermalThrottle, h]
omit h in
@[simp] theorem execThermalShutdown_wf (_die : Nat) : NextWf (execThermalShutdown _die s) :=
  (nextWf_next _).2 Memory.wf_reset
@[simp] theorem execBypass_wf : NextWf (execBypass s) := by
  simp [execBypass, h]
@[simp] theorem execIdcode_wf : NextWf (execIdcode s) := by
  simp [execIdcode, h]
@[simp] theorem execSamplePreload_wf : NextWf (execSamplePreload s) := by
  simp [execSamplePreload, h]
@[simp] theorem execExtest_wf : NextWf (execExtest s) := by
  unfold execExtest; split <;> simp [h]
@[simp] theorem execClamp_wf : NextWf (execClamp s) := by
  simp [execClamp, h]
@[simp] theorem execHighz_wf : NextWf (execHighz s) := by
  simp [execHighz, h]
@[simp] theorem execLinkLevelReplay_wf (_port : Nat) : NextWf (execLinkLevelReplay _port s) := by
  simp [execLinkLevelReplay, h]

/-! The operations of Machine/System. -/
@[simp] theorem execSrd_wf (d b : RegNo) : NextWf (execSrd d b s) :=
  slot_wf h fun r t => by (repeat' split) <;> simp [h]
@[simp] theorem execSwr_wf (a b : RegNo) : NextWf (execSwr a b s) :=
  slot_wf h fun r t => by (repeat' split) <;> simp [h]
@[simp] theorem execNop_wf : NextWf (execNop s) :=
  slot_wf h fun _ _ => h
@[simp] theorem execRtt_wf : NextWf (execRtt s) :=
  slot_wf h fun r t => by (repeat' split) <;> simp [h]

/-! The operations of Machine/TeamEvents. -/
@[simp] theorem execResultResolve_wf (team serial : Nat) : NextWf (execResultResolve team serial s) := by
  unfold execResultResolve; (repeat' split) <;> simp [h]
@[simp] theorem execWaitReturn_wf (team reg : Nat) : NextWf (execWaitReturn team reg s) := by
  unfold execWaitReturn; (repeat' split) <;> simp [h]
@[simp] theorem execCopyLanding_wf (team serial : Nat) : NextWf (execCopyLanding team serial s) := by
  unfold execCopyLanding; (repeat' split) <;> simp [h]
@[simp] theorem execPathSwitch_wf (team : Nat) : NextWf (execPathSwitch team s) := by
  unfold execPathSwitch; (repeat' split) <;> simp [h]
@[simp] theorem execBundleFetch_wf (team : Nat) : NextWf (execBundleFetch team s) := by
  unfold execBundleFetch
  rw [nextWf_next]
  split
  · exact h
  · split
    · exact h
    · have hf : (State.fetch { s with cur := team }).Wf := State.wf_fetch (by exact h)
      split <;> (rename_i e; rw [e] at hf; exact hf)
@[simp] theorem execSafePointRedirection_wf (team : Nat) : NextWf (execSafePointRedirection team s) := by
  unfold execSafePointRedirection; (repeat' split) <;> simp [h]
@[simp] theorem execTrapEntry_wf (team cause info : Nat) (addr : DWord) : NextWf (execTrapEntry team cause info addr s) := by
  unfold execTrapEntry; split <;> simp [h]

/-! The operations of Machine/UniAlu. -/
@[simp] theorem execSmov_wf (d : RegNo) (o : OpU) : NextWf (execSmov d o s) :=
  slot_wf h fun r t => by (repeat' split) <;> simp [h]

/-! The operations of Machine/UniFlow. -/
@[simp] theorem execExsave_wf (d : RegNo) : NextWf (execExsave d s) :=
  slot_wf h fun _ _ => h
@[simp] theorem execPfill_wf (d a : RegNo) (n : Selr) : NextWf (execPfill d a n s) :=
  slot_wf h fun _ _ => h
@[simp] theorem execSget_wf (d a : RegNo) (n : Selr) : NextWf (execSget d a n s) :=
  slot_wf h fun r t => by split <;> simp [h]
@[simp] theorem execFork_wf (c : RegNo) (imm : BitVec 17) : NextWf (execFork c imm s) :=
  slot_wf h fun r t => by dsimp only; (repeat' split) <;> simp [h]
@[simp] theorem execPend_wf (imm : BitVec 24) : NextWf (execPend imm s) :=
  slot_wf h fun r t => by dsimp only; (repeat' split) <;> simp [h]
@[simp] theorem execCall_wf (c : RegNo) (imm : BitVec 17) : NextWf (execCall c imm s) :=
  slot_wf h fun _ _ => by simp [h]
@[simp] theorem execExit_wf : NextWf (execExit s) :=
  slot_wf h fun r t => by
    have hw (futures : Bool) := State.wf_drainWait h t futures
    split
    · split
      · rename_i e; exact hw _ _ e
      · simp [h]
    · dsimp only
      split
      · simp [h]
      · split
        · rename_i e; exact hw _ _ e
        · (repeat' split) <;> simp [h]
@[simp] theorem execTrap_wf (code : BitVec 16) : NextWf (execTrap code s) :=
  slot_wf h fun _ _ => by simp
@[simp] theorem execBrk_wf : NextWf (execBrk s) :=
  slot_wf h fun r t => by (repeat' split) <;> simp [h]
end

end Sys2Proof.Machine
end

section
/-! SUPPORT. The canonical form of memory under a step. -/

namespace Sys2Proof.Machine

section
variable {s : State} (h : s.Wf)
include h

/-- Every instruction and event keeps the canonical form of memory. -/
theorem exec_wf (i : Instr) : NextWf (exec i s) := by
  cases i
  case iadd | isub | imul | imulhi | imac | imin | imax | iabsd | iaddsat | isubsat | and | or | xor | andn | shl |
      shr | sar | bfx | bfi | mov | lea | fadd | fsub | fmul | ffma | fmin | fmax | fminnm | fmaxnm | pkadd | pkmul
      | pkfma | pkbfma | pkdot | tdec | tenc | npack | nunpk | fxq | fxdq =>
    simp only [exec]; exact laneSel_wf h _ _ _ _
  case popc | clz | brev | iaddi | movi | sel | icmp | fcmp | frcp | frsq | fsqrt | fex2 | flg2 | fsin | fcos |
      fclass | pset | plog | pmov =>
    simp only [exec]; exact laneFixed_wf h _ _ _
  case dadd | dmul | dfma | dcmp | lred | lscan | matchv =>
    simp only [exec]; exact laneLater_wf h _ _ _
  case ld8 | ld16 | ld32 | ld64 | ld128 =>
    simp only [exec]; exact laneLoad_wf h _ _ _ _ _
  case st8 | st16 | st32 | st64 | st128 =>
    simp only [exec]; exact laneStore_wf h _ _ _ _ _
  case lds32 | lds64 | lds128 =>
    simp only [exec]; exact spadLoad_wf h _ _ _ _ _
  case sts32 | sts64 | sts128 =>
    simp only [exec]; exact spadStore_wf h _ _ _ _ _
  case ldf | ste | ldfk =>
    simp only [exec]; exact fullEmpty_wf h _ _ _ _ _
  case atadd | atmin | atmax | atand | ator | atxor | atxch | atcas | atfadd | atfmin | atfmax | redadd | redfadd =>
    simp only [exec]; exact laneAtomic_wf h _ _ _ _ _ _ _
  case sadd | ssub | smul | smulhi | sand | sor | sxor | sandn | sshl | sshr | ssar | smin | smax | spopc | sclz |
      sbfx | sbfi | saddi | smovi | ssel | scmp | slea =>
    simp only [exec]; exact uniFixed_wf h _ _ _
  case sld32 | sld64 =>
    simp only [exec]; exact uniLoad_wf h _ _ _ _ _
  case sst32 | sst64 =>
    simp only [exec]; exact uniStore_wf h _ _ _ _ _
  case satadd | satcas | satxch =>
    simp only [exec]; exact uniAtomic_wf h _ _ _ _ _ _ _
  case exset | exand | exandn | exall | yld =>
    simp only [exec]; exact teamOp_wf h _ _
  case excnt | exany | pballot =>
    simp only [exec]; exact maskRead_wf h _ _ _
  case bra | brz | brnz | brex | brnex =>
    simp only [exec]; exact branch_wf h _ _ _
  case ret | jmp =>
    simp only [exec]; exact jumpTo_wf h _ _ _
  all_goals simp [exec, h]
/-- Every event of the machine keeps the canonical form of memory. -/
theorem runEv_wf (e : Ev) : NextWf (runEv e s) := by
  cases e <;> simp [runEv, h]

theorem runWord_wf (w : Word) (lit : Option Word) : NextWf (runWord s w lit) := by
  unfold runWord
  split
  · split
    · exact exec_wf (by exact h) _
    · exact exec_wf h _
  · simp [h]
theorem runTeam_wf (id : Nat) : NextWf (runTeam id s) := by
  unfold runTeam
  split
  · simpa using h
  · rename_i t _
    have hf : (State.fetch { s with cur := id, clk := max s.clk t.earliest + Config.issueDelay s.tick }).Wf :=
      State.wf_fetch (by exact h)
    split
    · rename_i e; rw [e] at hf; simpa using hf
    · rename_i e; rw [e] at hf; exact runWord_wf hf _ _
theorem runCand_wf (c : Cand) : NextWf (runCand c s) := by
  unfold runCand
  split
  · split
    · exact runEv_wf (by exact h) _
    · simpa using h
  · exact runEv_wf h _
  · split
    · exact exec_wf (by exact h) _
    · simpa using h
  · exact runTeam_wf h _
  · simp [h]
  · simp [h]
  · simp [h]
  · split
    · exact execUncorrectedError_wf (by exact h) _
    · simpa using h
theorem step_wf : NextWf (step s) := by
  unfold step
  split
  · simpa using h
  · exact runCand_wf (by exact h) _
end

end Sys2Proof.Machine
end

section
/-! PROOF of O58. -/

namespace Sys2Proof

/-- Settles O58: every step goes through the operations above, each of which keeps memory in canonical form. -/
theorem stepKeepsMemoryForm : Obligations.StepKeepsMemoryForm := by
  unfold Obligations.StepKeepsMemoryForm
  intro s s' h e
  exact Machine.step_wf h s' e

end Sys2Proof
end

section
/-! SUPPORT. Taking a trap (R30, R351) and the transfer of control at the end of a slot: what each leaves of the teams, the gangs and the rest. -/

namespace Sys2Proof.Machine

/-- `s'` is `s` but for its gangs. -/
def ButGangs (s s' : State) : Prop := s' = { s with gangs := s'.gangs }

theorem ButGangs.refl (s : State) : ButGangs s s := rfl
theorem ButGangs.trans {a b c : State} (h : ButGangs a b) (k : ButGangs b c) : ButGangs a c := by
  unfold ButGangs at *; rw [h] at k; exact k
theorem butGangs_updGang (s : State) (id : Nat) (f : Gang → Gang) : ButGangs s (s.updGang id f) := by
  unfold State.updGang; split <;> rfl
theorem butGangs_updCrew (s : State) (id k : Nat) (f : Crew → Crew) : ButGangs s (s.updCrew id k f) := butGangs_updGang s id _
theorem butGangs_endAllow (s : State) (id : Nat) : ButGangs s (s.endAllow id) := by
  unfold State.endAllow
  split
  · exact .refl s
  · split
    · exact butGangs_updCrew s _ _ _
    · exact .refl s
theorem butGangs_leaveQueues (s : State) (gang : Nat) (ms : List Nat) : ButGangs s (s.leaveQueues gang ms) := by
  unfold State.leaveQueues
  split
  · exact .refl s
  · exact butGangs_updGang s _ _

/-- A crew without rollback has no checkpoint to close. -/
theorem endAllow_plain {s : State} {id : Nat} {t : Team} (h : s.teams.find id = some t) (hr : t.kernel.rollback = false) :
    s.endAllow id = s := by
  unfold State.endAllow; simp [h, hr]
/-- A team whose running path waits at no queue holds no place there. -/
theorem pushMarks_plain {t : Team} (h : ∀ q n, t.blk ≠ some (.queueRoom q n)) : t.pushMarks false = [] := by
  unfold Team.pushMarks
  simp only [Bool.false_eq_true, if_false, List.append_nil]
  split
  · rename_i q n m e _; exact absurd e (h q n)
  · rfl
theorem leaveQueues_nil (s : State) (gang : Nat) : s.leaveQueues gang [] = s := rfl

/-- A trap that no section and no array owes settles nothing with a unit. -/
theorem owedTrap_plain {s : State} {cause info : Nat} {addr : DWord} (h1 : ¬ (0x10 ≤ cause ∧ cause ≤ 0x14)) (h2 : cause ≠ 0x16) :
    s.owedTrap cause info addr = s := by
  unfold State.owedTrap
  split
  · rfl
  · rw [if_neg (by simpa using h1), if_neg h2]

/-- A team with its slot abandoned by a trap. -/
def Team.abandoned (t : Team) : Team :=
  { t with blk := none, done := 0, mark := none, kept := [], stepState := if t.stepState = 1 then 2 else t.stepState }
/-- A team at slot 1 of its trap entry `entry`, with the saved state (R30). -/
def Team.entered (t : Team) (clk cause info : Nat) (addr : DWord) (entry : Word) : Team :=
  { t.abandoned with
    tpc := t.pc, tcause := causeWord cause info, tex := t.ex, taddr := addr, tlevel := true, pc := entry + 4
    earliest := max (max t.earliest clk) t.settledAt + 4, zeroStall := false }

/-- What the machine is when a trap is taken, before its team changes: the checkpoint of a rollback crew and the places at the queues go. -/
def State.trapped (s : State) (t : Team) : State := (s.endAllow s.cur).leaveQueues t.gang (t.pushMarks false)

theorem butGangs_trapped (s : State) (t : Team) : ButGangs s (s.trapped t) :=
  (butGangs_endAllow s s.cur).trans (butGangs_leaveQueues _ _ _)
theorem trapped_plain {s : State} {t : Team} (h : s.me = some t) (hr : t.kernel.rollback = false)
    (hb : ∀ q n, t.blk ≠ some (.queueRoom q n)) : s.trapped t = s := by
  unfold State.trapped; rw [endAllow_plain h hr, pushMarks_plain hb, leaveQueues_nil]

theorem ButGangs.setTeam {s s' : State} (h : ButGangs s s') (id : Nat) (t : Team) : ButGangs (s.setTeam id t) (s'.setTeam id t) := by
  unfold ButGangs at *; rw [h]; rfl
theorem ButGangs.teams {s s' : State} (h : ButGangs s s') : s'.teams = s.teams := by rw [h]
theorem ButGangs.contexts {s s' : State} (h : ButGangs s s') : s'.contexts = s.contexts := by rw [h]
theorem ButGangs.cur {s s' : State} (h : ButGangs s s') : s'.cur = s.cur := by rw [h]
theorem ButGangs.clk {s s' : State} (h : ButGangs s s') : s'.clk = s.clk := by rw [h]
theorem ButGangs.bare {s s' : State} (h : ButGangs s s') : s'.bare = s.bare := by rw [h]; rfl

/-- A trap at TLEVEL 0 with a trap entry (R30): all that it does but the saved state is trace and triggers. -/
theorem takeTrap_enters {s : State} {t : Team} {cause info : Nat} {addr : DWord} {entry : Word} (h : s.me = some t) (hl : t.tlevel = false)
    (he : t.kernel.trapEntry = some entry) (h1 : ¬ (0x10 ≤ cause ∧ cause ≤ 0x14)) (h2 : cause ≠ 0x16) :
    TraceKept ((s.trapped t).setTeam s.cur (t.entered s.clk cause info addr entry)) (s.takeTrap cause info addr) := by
  have hg := butGangs_trapped s t
  unfold State.takeTrap
  simp only [owedTrap_plain h1 h2, h, hl, he]
  rw [show (s.endAllow s.cur).leaveQueues t.gang (t.pushMarks false) = s.trapped t from rfl, hg.cur, hg.clk]
  exact (trace_kept _ _ _ _ _).trans (trigger_kept _ _ _ _)

/-- What tracing leaves of a state whose team has changed. -/
theorem restKept_of_traced {s s' : State} {t u : Team} (h : TraceKept (s.setTeam s.cur u) s') : RestKept s s' t :=
  ⟨fun k hk => by rw [h.teams]; exact State.setTeam_find_ne s u hk, fun _ => h.gangs, h.contexts, h.rest, h.memory⟩

theorem regsAfter_of_files {t t' : Team} (hv : t'.v = t.v) (hs : t'.s = t.s) (hp : t'.p = t.p) : RegsAfter t t' newNothing :=
  fun f n l _ => reg_eq hv hs hp f n l

/-- A transfer of control as the end of a slot: the team goes on at `pc`. -/
theorem onward_of_moved {s s1 : State} {u : Team} (h : s1.me = some u) (i : Instr) (pc : Word) (code detail : Nat) :
    Onward s1 (settle i s (.moved s1 pc code detail)) u pc := by
  obtain ⟨t', e⟩ := advance_spec h i pc true
  have hme : (s1.advance i pc true).me = some t' := by unfold State.me; rw [e.cur]; exact e.here
  simp only [settle, hme, h]
  split
  · exact onward_of_advanced e
  · have k := trace_kept (s1.advance i pc true) t' u.pc code detail
    obtain ⟨⟨t2, h2, h3⟩, h4⟩ := onward_of_advanced e
    refine ⟨⟨t2, by rw [k.teams]; exact h2, h3⟩, ⟨?_, ?_, ?_, ?_, ?_⟩⟩
    · intro j hj; rw [k.teams]; exact h4.others j hj
    · intro hr; exact k.gangs.trans (h4.gangs hr)
    · intro c; exact (k.contexts c).trans (h4.contexts c)
    · exact k.rest.trans h4.rest
    · intro hu; exact (k.memory (e.untraced hu)).trans (h4.memory hu)

/-- An event of a context stays raised when what follows adds nothing to the context but trace and halt records (R474, R475). -/
theorem Raises.mono {s0 s s' s'' : State} {ctx kind : Nat} {args : List DWord} (h : Raises s s' ctx kind args)
    (h0 : s0.contexts.find ctx = s.contexts.find ctx)
    (hc : (s''.contexts.find ctx).map Context.still = (s'.contexts.find ctx).map Context.still) (hk : s''.clk = s'.clk)
    (hs : s''.sent = s'.sent) : Raises s0 s'' ctx kind args := by
  obtain ⟨c, c', h1, h2, h3, h4, h5⟩ := h
  rw [h2, Option.map_some, Option.map_eq_some_iff] at hc
  obtain ⟨d, hd, e⟩ := hc
  have he : d.events = c'.events := (congrArg Context.events e : d.still.events = c'.still.events)
  have hn : d.eventSeq = c'.eventSeq := (congrArg Context.eventSeq e : d.still.eventSeq = c'.still.eventSeq)
  exact ⟨c, d, h0.trans h1, hd, by rw [he, hk]; exact h3, hn.trans h4, by rw [hk, hs]; exact h5⟩

/-- A context that has raised an event (R493). -/
def Context.withEvent (c : Context) (e : EventRec) : Context :=
  { c with eventSeq := (c.eventSeq + 1) % 2 ^ 32, events := (c.events ++ [e]).drop ((c.events ++ [e]).length - 4096) }

/-- The last of the events kept is the newest (R493). -/
theorem withEvent_last (c : Context) (e : EventRec) : (c.withEvent e).events.getLast? = some e := by
  have hn : (c.events ++ [e]).length - 4096 ≤ c.events.length := by
    simp only [List.length_append, List.length_singleton]; omega
  unfold Context.withEvent
  rw [List.drop_append_of_le_length hn, List.getLast?_concat]

theorem raise_eq {s : State} {ctx : Nat} {c : Context} (h : s.contexts.find ctx = some c) (kind : Nat) (args : List DWord) :
    s.raise ctx kind args = { s with
      contexts := s.contexts.insert ctx (c.withEvent ⟨c.eventSeq, kind, s.clk, args⟩)
      sent := s.sent ++ [⟨c.channel, eventWords ⟨c.eventSeq, kind, s.clk, args⟩ ctx c.part⟩] } := by
  unfold State.raise; rw [h]; rfl

/-- The device raises an event of a context that it has (R493). -/
theorem raises_raise {s : State} {ctx : Nat} {c : Context} (h : s.contexts.find ctx = some c) (kind : Nat) (args : List DWord) :
    Raises s (s.raise ctx kind args) ctx kind args := by
  rw [raise_eq h]
  exact ⟨c, _, h, SMap.find_insert_same _ _ _, withEvent_last c _, rfl, List.mem_append_right _ (List.mem_singleton_self _)⟩

@[simp] theorem State.raise_teams (s : State) (ctx kind : Nat) (args : List DWord) : (s.raise ctx kind args).teams = s.teams := by
  unfold State.raise; split <;> rfl
@[simp] theorem State.raise_cur (s : State) (ctx kind : Nat) (args : List DWord) : (s.raise ctx kind args).cur = s.cur := by
  unfold State.raise; split <;> rfl
@[simp] theorem State.raise_grids (s : State) (ctx kind : Nat) (args : List DWord) : (s.raise ctx kind args).grids = s.grids := by
  unfold State.raise; split <;> rfl

theorem sent_of_still {s s' : State} (h : s'.still = s.still) : s'.sent = s.sent :=
  (congrArg State.sent h : s'.still.sent = s.still.sent)

/-- The team that a halt leaves. -/
theorem haltWith_find {s : State} {id : Nat} {t : Team} (h : s.teams.find id = some t) (reason index wpset group : Nat) (wmask woff : Word) :
    ∃ t', (s.haltWith id reason index wpset group wmask woff).teams.find id = some t' ∧ t'.halt = reason := by
  unfold State.haltWith
  simp only [h]
  generalize hu : ({ t with halt := reason, haltFrom := _, earliest := _ } : Team) = u
  generalize (if decide (1 ≤ reason) && decide (reason ≤ 5) then max s.clk t.settledAt else s.clk) = time
  have hk := (traceAt_kept (s.setTeam id u) time t t.pc 12 reason).trans (trigger_kept _ t.ctx 1 reason)
  refine ⟨u, ?_, by subst hu; rfl⟩
  split
  · rw [State.updContext_teams, hk.teams]; exact State.setTeam_find _ _ _
  · rw [hk.teams]; exact State.setTeam_find _ _ _

/-- A halt for a team's double trap: the team halts for good and its event has been raised (R351). -/
theorem halts_after_raise {s : State} {u : Team} {c : Context} (ctx kind : Nat) (args : List DWord) (hc : s.contexts.find ctx = some c)
    (id reason index : Nat) :
    ∃ t', (((s.setTeam id u).raise ctx kind args).haltTeam id reason index).teams.find id = some t' ∧ t'.halt = reason ∧ t'.pc = u.pc ∧
      t'.ex = u.ex ∧ RegsAfter u t' newNothing ∧ Raises s (((s.setTeam id u).raise ctx kind args).haltTeam id reason index) ctx kind args := by
  have hr := raises_raise (s := s.setTeam id u) hc kind args
  have hf : ((s.setTeam id u).raise ctx kind args).teams.find id = some u := by rw [State.raise_teams]; exact State.setTeam_find _ _ _
  obtain ⟨t', e⟩ := haltWith_ends True hf reason index 0 0xFF 0 0
  obtain ⟨t2, h2, h3⟩ := haltWith_find hf reason index 0 0xFF 0 0
  obtain rfl : t' = t2 := Option.some.inj (e.here.symm.trans h2)
  obtain ⟨hex, hpc, _, _⟩ := e.path trivial
  exact ⟨t', e.here, h3, hpc, hex, regsAfter_of_files e.vr e.sr e.pr,
    hr.mono rfl (e.contexts ctx) e.clk (sent_of_still e.rest)⟩

end Sys2Proof.Machine
end

section
/-! PROOF of O14 and O15: traps, the return from them, and double traps. -/

namespace Sys2Proof.Machine

/-- `rtt` with a TLEVEL and a TPC that it takes: the array of a `ctl` team may go on, and control goes to the slot that TPC names (R254). -/
theorem execRtt_returns {s : State} {t : Team} (h : Issues s t .rtt) (hl : t.tlevel = true) (ha : t.tpc.extractLsb' 0 2 = 0#2) :
    ∃ s1, ButGangs s s1 ∧ (t.isCtl = false → s1 = s) ∧
      exec .rtt s = .next (settle .rtt s (.moved (s1.setTeam s.cur t.trapReturn) t.trapReturn.pc 10 0)) := by
  refine ⟨if t.isCtl then s.updGang t.gang fun g => { g with
      array := g.array.map fun a => { a with chunk := a.chunk.map fun c => { c with stopped := false } } } else s, ?_, fun hc => by simp [hc], ?_⟩
  · split
    · exact butGangs_updGang _ _ _
    · exact .refl s
  · show execRtt s = _
    unfold execRtt
    rw [slot_issues h]
    cases hc : t.isCtl <;> simp [hl, ha]
theorem execRtt_illegal {s : State} {t : Team} (h : Issues s t .rtt) (hl : t.tlevel = false) : Traps s .rtt 0x01 Instr.rtt.info 0 := by
  show execRtt s = _
  unfold execRtt; rw [slot_issues h]; simp [hl, settle]
theorem execRtt_misaligned {s : State} {t : Team} (h : Issues s t .rtt) (hl : t.tlevel = true) (ha : t.tpc.extractLsb' 0 2 ≠ 0#2) :
    Traps s .rtt 0x03 0 (t.tpc.setWidth 64) := by
  show execRtt s = _
  unfold execRtt; rw [slot_issues h]; simp [hl, ha, settle]

/-- A trap of a team at TLEVEL 0 (R30). -/
theorem takeTrap_saves {s : State} {t : Team} {cause info : Nat} {addr : DWord} {entry : Word} (h : s.me = some t) (hl : t.tlevel = false)
    (he : t.kernel.trapEntry = some entry) (hr : t.kernel.rollback = false) (hb : ∀ q n, t.blk ≠ some (.queueRoom q n))
    (h1 : ¬ (0x10 ≤ cause ∧ cause ≤ 0x14)) (h2 : cause ≠ 0x16) :
    (s.takeTrap cause info addr).teams.find s.cur = some (t.entered s.clk cause info addr entry) ∧
      RestKept s (s.takeTrap cause info addr) t := by
  have k := takeTrap_enters (info := info) (addr := addr) h hl he h1 h2
  rw [trapped_plain h hr hb] at k
  exact ⟨by rw [k.teams]; exact State.setTeam_find _ _ _, restKept_of_traced k⟩

/-- The event form of a trap changes no other team and, where nothing is traced, no byte of memory (R30). -/
theorem takeTrap_others {s : State} {t : Team} {cause info : Nat} {addr : DWord} {entry : Word} (h : s.me = some t) (hl : t.tlevel = false)
    (he : t.kernel.trapEntry = some entry) (h1 : ¬ (0x10 ≤ cause ∧ cause ≤ 0x14)) (h2 : cause ≠ 0x16) :
    (s.takeTrap cause info addr).teams.find s.cur = some (t.entered s.clk cause info addr entry) ∧
      (∀ k, k ≠ s.cur → (s.takeTrap cause info addr).teams.find k = s.teams.find k) ∧
      (Untraced s → SameMemory s (s.takeTrap cause info addr)) := by
  have k := takeTrap_enters (info := info) (addr := addr) h hl he h1 h2
  have hg := (butGangs_trapped s t).setTeam s.cur (t.entered s.clk cause info addr entry)
  refine ⟨by rw [k.teams, hg.teams]; exact State.setTeam_find _ _ _, fun j hj => ?_, fun hu a => ?_⟩
  · rw [k.teams, hg.teams]; exact State.setTeam_find_ne s _ hj
  · have hm : (s.takeTrap cause info addr).bare = s.bare := (k.memory (untraced_of_contexts hg.contexts hu)).trans hg.bare
    exact congrArg (fun m => Memory.read m a) (congrArg State.mem hm : (s.takeTrap cause info addr).bare.mem = s.bare.mem)

/-- A trap that cannot enter a handler: the event is raised, then the team halts (R30, R351). -/
theorem takeTrap_halts {s : State} {t : Team} {cause info : Nat} {addr : DWord} (h : s.me = some t)
    (h1 : ¬ (0x10 ≤ cause ∧ cause ≤ 0x14)) (h2 : cause ≠ 0x16) (hd : t.tlevel = true ∨ t.kernel.trapEntry = none) :
    ∃ u args, s.takeTrap cause info addr = (((s.trapped t).setTeam s.cur u).raise t.ctx 5 args).haltTeam s.cur 6 0 ∧ u.pc = t.pc ∧
      u.ex = t.ex ∧ RegsAfter t u newNothing ∧
      args.head? = some (if t.tlevel then causeWord cause info ++ t.tcause else (causeWord cause info).setWidth 64) := by
  have hcur := (butGangs_trapped s t).cur
  unfold State.takeTrap
  simp only [owedTrap_plain h1 h2, h]
  rw [show (s.endAllow s.cur).leaveQueues t.gang (t.pushMarks false) = s.trapped t from rfl]
  split
  · rename_i hl he
    exact absurd hd (by simp [hl, he])
  · rename_i hl he
    refine ⟨{ t.abandoned with tpc := t.pc, tcause := causeWord cause info, tex := t.ex, taddr := addr },
      [(causeWord cause info).setWidth 64, addr, 0, t.pc.setWidth 64, t.ident, BitVec.ofNat 64 t.agentWord], ?_, rfl, rfl,
      regsAfter_of_files rfl rfl rfl, by rw [hl]; rfl⟩
    rw [State.raise_cur, State.setTeam_cur, hcur]
    rfl
  · rename_i hl
    refine ⟨t.abandoned, [causeWord cause info ++ t.tcause, t.taddr, addr, t.pc ++ t.tpc, t.ident, BitVec.ofNat 64 t.agentWord], ?_, rfl,
      rfl, regsAfter_of_files rfl rfl rfl, by rw [hl]; rfl⟩
    rw [State.raise_cur, State.setTeam_cur, hcur]
    rfl

theorem has_of_find {α : Type} {m : SMap α} {k : Nat} {x : α} (h : m.find k = some x) : m.has k = true := by
  induction m with
  | nil => simp [SMap.find] at h
  | cons p m ih =>
    obtain ⟨j, v⟩ := p
    simp only [SMap.find] at h
    simp only [SMap.has, List.any_cons, Bool.or_eq_true, beq_iff_eq]
    split at h
    · exact .inl ‹_›
    · exact .inr (ih h)

end Sys2Proof.Machine

namespace Sys2Proof
open Machine

/-- Settles O14: a trap is the saved state with trace and triggers only, and `rtt` is a transfer of control from the restored state. -/
theorem trapsAndReturns : Obligations.TrapsAndReturns := by
  unfold Obligations.TrapsAndReturns
  refine ⟨⟨?_, ?_, ?_, ?_, ?_⟩, ?_⟩
  · intro s t cause info addr entry h hl he hr hb h1 h2
    obtain ⟨hf, hk⟩ := takeTrap_saves (info := info) (addr := addr) h hl he hr hb h1 h2
    exact ⟨_, hf, rfl, rfl, rfl, rfl, rfl, rfl, rfl, rfl, rfl, rfl, regsAfter_of_files rfl rfl rfl, rfl, rfl, hk⟩
  · intro s t h hl ha hc
    obtain ⟨s1, hg, hs, he⟩ := execRtt_returns h hl ha
    obtain rfl := hs hc
    exact ⟨_, he, (onward_of_moved (State.setTeam_me s1 _) _ _ _ _).of_setTeam⟩
  · intro s t h hl ha hc
    obtain ⟨s1, hg, hs, he⟩ := execRtt_returns h hl ha
    have hm : (s1.setTeam s.cur t.trapReturn).me = some t.trapReturn := by rw [← hg.cur]; exact State.setTeam_me s1 _
    obtain ⟨⟨t', hf, ht⟩, _⟩ := onward_of_moved (s := s) hm .rtt t.trapReturn.pc 10 0
    exact ⟨_, t', he, by rw [← hf, State.setTeam_cur, hg.cur], ht⟩
  · intro s t h hl
    exact execRtt_illegal h hl
  · intro s t h hl ha
    exact execRtt_misaligned h hl ha
  · intro team cause info addr s t entry h hl he hr h1 h2
    have hm : ({ s with cur := team } : State).me = some t := h
    obtain ⟨hf, ho, hmem⟩ := takeTrap_others (info := info) (addr := addr) hm hl he h1 h2
    refine ⟨_, _, ?_, hf, rfl, rfl, rfl, rfl, rfl, rfl, regsAfter_of_files rfl rfl rfl, ho, hmem⟩
    show execTrapEntry team cause info addr s = _
    unfold execTrapEntry; rw [if_pos (has_of_find h)]

/-- Settles O15: both ways to a double trap raise the event and then halt the team. -/
theorem doubleTrap : Obligations.DoubleTrap := by
  unfold Obligations.DoubleTrap
  intro s t cause info addr c h hc hr h1 h2 hd
  have hg := butGangs_trapped s t
  have hc' : (s.trapped t).contexts.find t.ctx = some c := by rw [hg.contexts]; exact hc
  obtain ⟨u, args, hs, hpc, hex, hreg, ha⟩ := takeTrap_halts (info := info) (addr := addr) h h1 h2 hd
  obtain ⟨t', hf, hh, hp, he, hr', hev⟩ := halts_after_raise (u := u) t.ctx 5 args hc' s.cur 6 0
  rw [← hs] at hf hev
  exact ⟨t', args, hf, hh, hp.trans hpc, he.trans hex, fun f n l hl => (hr' f n l hl).trans (hreg f n l hl),
    hev.mono (by rw [hg.contexts]) rfl rfl rfl, ha⟩

end Sys2Proof
end

section
/-! SUPPORT. Every instruction that has a word is a slot (R74): its meaning is the checks of a slot around a body of its own. -/

namespace Sys2Proof.Machine

/-- An outcome is that of the slot of an instruction. -/
def IsSlot (i : Instr) (s : State) (o : Host.Outcome State Fault Refusal) : Prop := ∃ body, o = slot i body s

theorem isSlot_slot (i : Instr) (body : (r t : Team) → State → Res) (s : State) : IsSlot i s (slot i body s) := ⟨body, rfl⟩

/-! The shapes that groups of instructions share. -/
theorem isSlot_laneFixed (i : Instr) (lat : Nat) (f : (r : Team) → List RegWrite × BitVec 5) (s : State) : IsSlot i s (laneFixed i lat f s) :=
  isSlot_slot i _ s
theorem isSlot_laneSel (i : Instr) (lat : Nat) (o : OpB) (f : (r : Team) → List RegWrite × BitVec 5) (s : State) :
    IsSlot i s (laneSel i lat o f s) := isSlot_slot i _ s
theorem isSlot_laneLater (i : Instr) (reason : Nat) (f : (r : Team) → List RegWrite × BitVec 5) (s : State) :
    IsSlot i s (laneLater i reason f s) := isSlot_slot i _ s
theorem isSlot_laneLoad (i : Instr) (d a : RegNo) (disp : BitVec 10) (z : Nat) (s : State) : IsSlot i s (laneLoad i d a disp z s) :=
  isSlot_slot i _ s
theorem isSlot_laneStore (i : Instr) (d a : RegNo) (disp : BitVec 10) (z : Nat) (s : State) : IsSlot i s (laneStore i d a disp z s) :=
  isSlot_slot i _ s
theorem isSlot_spadLoad (i : Instr) (d a : RegNo) (disp : BitVec 10) (z : Nat) (s : State) : IsSlot i s (spadLoad i d a disp z s) :=
  isSlot_slot i _ s
theorem isSlot_spadStore (i : Instr) (d a : RegNo) (disp : BitVec 10) (z : Nat) (s : State) : IsSlot i s (spadStore i d a disp z s) :=
  isSlot_slot i _ s
theorem isSlot_fullEmpty (op : FullOp) (i : Instr) (d a : RegNo) (disp : BitVec 10) (s : State) : IsSlot i s (fullEmpty op i d a disp s) :=
  isSlot_slot i _ s
theorem isSlot_laneAtomic (i : Instr) (d : RegNo) (a : BitVec 6) (w : Bool) (y : (r : Team) → Nat → Nat) (ord : BitVec 3) (op : RmwOp)
    (s : State) : IsSlot i s (laneAtomic i d a w y ord op s) := isSlot_slot i _ s
theorem isSlot_uniFixed (i : Instr) (lat : Nat) (f : (r : Team) → List RegWrite) (s : State) : IsSlot i s (uniFixed i lat f s) :=
  isSlot_slot i _ s
theorem isSlot_uniLoad (i : Instr) (d a : RegNo) (disp : BitVec 10) (z : Nat) (s : State) : IsSlot i s (uniLoad i d a disp z s) :=
  isSlot_slot i _ s
theorem isSlot_uniStore (i : Instr) (d a : RegNo) (disp : BitVec 10) (z : Nat) (s : State) : IsSlot i s (uniStore i d a disp z s) :=
  isSlot_slot i _ s
theorem isSlot_uniAtomic (i : Instr) (d : RegNo) (a : BitVec 6) (w : Bool) (y : (r : Team) → Nat) (ord : BitVec 3) (op : RmwOp) (s : State) :
    IsSlot i s (uniAtomic i d a w y ord op s) := isSlot_slot i _ s
theorem isSlot_teamOp (i : Instr) (f : (r t : Team) → Team) (s : State) : IsSlot i s (teamOp i f s) := isSlot_slot i _ s
theorem isSlot_maskRead (i : Instr) (d : RegNo) (f : (r : Team) → Word) (s : State) : IsSlot i s (maskRead i d f s) := isSlot_slot i _ s
theorem isSlot_branch {n : Nat} (i : Instr) (imm : BitVec n) (taken : (r t : Team) → Bool) (s : State) : IsSlot i s (branch i imm taken s) :=
  isSlot_slot i _ s
theorem isSlot_jumpTo (i : Instr) (a : RegNo) (code : Nat) (s : State) : IsSlot i s (jumpTo i a code s) := isSlot_slot i _ s
theorem isSlot_countName (i : Instr) (a : RegNo) (f : (t : Team) → State → Nat → DWord → Res) (s : State) : IsSlot i s (countName i a f s) :=
  isSlot_slot i _ s
theorem isSlot_shfl (d a : RegNo) (src : LaneSrc) (s : State) : IsSlot (.shfl d a src) s (execShfl d a src s) := by
  unfold execShfl
  split
  · split
    · exact isSlot_laneLater _ _ _ s
    · exact isSlot_laneFixed _ _ _ s
  · exact isSlot_laneLater _ _ _ s

theorem isSlot_cvt (d a : RegNo) (spec : Word) (s : State) : IsSlot (.cvt d a spec) s (execCvt d a spec s) := by
  unfold execCvt
  extract_lets src dst f
  split
  · exact isSlot_laneLater _ _ _ s
  · exact isSlot_laneFixed _ _ _ s

/-- Every instruction that has a word is a slot of the current team (R74). -/
theorem exec_isSlot {i : Instr} (h : encode i ≠ none) (s : State) : IsSlot i s (exec i s) := by
  cases i
  case iadd | isub | imul | imulhi | imac | imin | imax | iabsd | iaddsat | isubsat | and | or | xor | andn | shl |
      shr | sar | bfx | bfi | mov | lea | fadd | fsub | fmul | ffma | fmin | fmax | fminnm | fmaxnm | pkadd | pkmul
      | pkfma | pkbfma | pkdot | tdec | tenc | npack | nunpk | fxq | fxdq =>
    simp only [exec]; exact isSlot_laneSel _ _ _ _ s
  case popc | clz | brev | iaddi | movi | sel | icmp | fcmp | frcp | frsq | fsqrt | fex2 | flg2 | fsin | fcos |
      fclass | pset | plog | pmov =>
    simp only [exec]; exact isSlot_laneFixed _ _ _ s
  case dadd | dmul | dfma | dcmp | lred | lscan | matchv =>
    simp only [exec]; exact isSlot_laneLater _ _ _ s
  case ld8 | ld16 | ld32 | ld64 | ld128 =>
    simp only [exec]; exact isSlot_laneLoad _ _ _ _ _ s
  case st8 | st16 | st32 | st64 | st128 =>
    simp only [exec]; exact isSlot_laneStore _ _ _ _ _ s
  case lds32 | lds64 | lds128 =>
    simp only [exec]; exact isSlot_spadLoad _ _ _ _ _ s
  case sts32 | sts64 | sts128 =>
    simp only [exec]; exact isSlot_spadStore _ _ _ _ _ s
  case ldf | ste | ldfk =>
    simp only [exec]; exact isSlot_fullEmpty _ _ _ _ _ s
  case atadd | atmin | atmax | atand | ator | atxor | atxch | atcas | atfadd | atfmin | atfmax | redadd | redfadd =>
    simp only [exec]; exact isSlot_laneAtomic _ _ _ _ _ _ _ s
  case sadd | ssub | smul | smulhi | sand | sor | sxor | sandn | sshl | sshr | ssar | smin | smax | spopc | sclz |
      sbfx | sbfi | saddi | smovi | ssel | scmp | slea =>
    simp only [exec]; exact isSlot_uniFixed _ _ _ s
  case sld32 | sld64 =>
    simp only [exec]; exact isSlot_uniLoad _ _ _ _ _ s
  case sst32 | sst64 =>
    simp only [exec]; exact isSlot_uniStore _ _ _ _ _ s
  case satadd | satcas | satxch =>
    simp only [exec]; exact isSlot_uniAtomic _ _ _ _ _ _ _ s
  case exset | exand | exandn | exall | yld =>
    simp only [exec]; exact isSlot_teamOp _ _ s
  case excnt | exany | pballot =>
    simp only [exec]; exact isSlot_maskRead _ _ _ s
  case bra | brz | brnz | brex | brnex =>
    simp only [exec]; exact isSlot_branch _ _ _ s
  case ret | jmp =>
    simp only [exec]; exact isSlot_jumpTo _ _ _ s
  case cref | cdrop =>
    simp only [exec]; exact isSlot_countName _ _ _ s
  case shfl => exact isSlot_shfl _ _ _ s
  case cvt => exact isSlot_cvt _ _ _ s
  all_goals (try exact absurd rfl h)
  all_goals simp only [exec]; exact isSlot_slot _ _ s

end Sys2Proof.Machine
end

section
/-! SUPPORT. What the checks of a slot answer (R15, R17, R66, R74), and what a blocked slot leaves where no path can come in. -/

namespace Sys2Proof.Machine

/-- Where no path is deferred, none can come in. -/
theorem bestSlot_none {s : State} {id : Nat} {t : Team} (h : ∀ p ∈ t.slots, p.v = false) : bestSlot s id t = none := by
  cases hb : bestSlot s id t with
  | none => rfl
  | some i =>
    obtain ⟨q, hq, hv⟩ := bestSlot_valid hb
    rw [h q hq] at hv
    cases hv

/-- A path that blocks while no path is deferred stays at its slot (R27). -/
theorem blockOn_alone {s : State} {t : Team} (h : s.me = some t) (hs : ∀ p ∈ t.slots, p.v = false) (c : Cond) :
    s.blockOn c = s.setTeam s.cur { t with blk := some c } := by
  unfold State.blockOn
  simp only [h, bestSlot_none hs, ite_self]

theorem slotCheck_illegal {s : State} {t : Team} {i : Instr} (h : coreIllegal i t = true ∨ i.wf = false) :
    slotCheck s.cur i t s = .trap 0x01 i.info 0 := by
  unfold slotCheck
  rw [if_pos (by simpa using h)]
theorem slotCheck_idle {s : State} {t : Team} {i : Instr} (hc : coreIllegal i t = false) (hw : i.wf = true) (hu : i.isU = false) (he : t.ex = 0) :
    slotCheck s.cur i t s = .idle := by
  unfold slotCheck
  simp [hc, hw, hu, he]
theorem slotCheck_outOfRange {s : State} {t : Team} {i : Instr} {n : Nat} (hc : coreIllegal i t = false) (hw : i.wf = true)
    (he : i.isU = true ∨ t.ex ≠ 0) (hn : t.outOfRange (i.reads ++ i.writes) = some n) : slotCheck s.cur i t s = .trap 0x05 n 0 := by
  have hi : ¬ ((!i.isU && t.ex == 0#1024) = true) := by
    rcases he with h | h
    · simp [h]
    · simpa using fun _ => h
  unfold slotCheck
  rw [if_neg (by simp [hc, hw])]
  simp only [hi, hn]
  rfl

/-- What a slot of the current team does, by what its checks answer. -/
theorem exec_of_check {s : State} {t : Team} {i : Instr} (h : s.me = some t) (hi : encode i ≠ none) :
    (slotCheck s.cur i t s = .idle → exec i s = .next (s.retire i)) ∧
    (∀ cause info addr, slotCheck s.cur i t s = .trap cause info addr → Traps s i cause info addr) ∧
    (∀ c, slotCheck s.cur i t s = .block c → c ≠ .checkpoint → exec i s = .next (s.blockOn c)) := by
  obtain ⟨body, e⟩ := exec_isSlot hi s
  unfold Traps
  rw [e]
  unfold slot
  simp only [h]
  refine ⟨fun hv => by rw [hv], fun cause info addr hv => by rw [hv], fun c hv hc => ?_⟩
  rw [hv]
  dsimp only
  split
  · exact absurd rfl hc
  · rfl

end Sys2Proof.Machine
end

section
/-! PROOF of O60. -/

namespace Sys2Proof
open Machine

/-- Settles O60: each clause is one answer of the checks of a slot, in the order of R74. -/
theorem slotChecks : Obligations.SlotChecks := by
  unfold Obligations.SlotChecks
  refine ⟨?_, ?_, ?_, ?_⟩
  · intro i s t h hi hu he hc hm hw
    have hk : coreIllegal i t = false := by unfold coreIllegal; simp [hc, hm]
    obtain ⟨t', e⟩ := retire_spec h i
    exact ⟨_, (exec_of_check h hi).1 (slotCheck_idle hk hw hu he), onward_of_advanced e⟩
  · intro i s t h hi hx
    exact (exec_of_check h hi).2.1 _ _ _ (slotCheck_illegal hx)
  · intro i s t n h hi hc hw he hn
    exact (exec_of_check h hi).2.1 _ _ _ (slotCheck_outOfRange hc hw he hn)
  · intro i s t f n h hi hb hs
    rw [(exec_of_check h hi).2.2 _ hb (by simp), blockOn_alone h hs]
    rfl

end Sys2Proof
end

section
/-! SUPPORT. An event always has a next state, an instruction that is given a current team too; a fetch keeps the current team (R74). -/

namespace Sys2Proof.Machine

/-- The instruction that stands for a machine event; the compiler takes no constructor tag as high as theirs. -/
noncomputable def Ev.instr : Ev → Instr
  | .waitReturn team reg => .waitReturn team reg
  | .pathSwitch team => .pathSwitch team
  | .resultResolve team serial => .resultResolve team serial
  | .copyLanding team serial => .copyLanding team serial
  | .teamEnd team => .teamEnd team
  | .gridEnd ctx grid => .gridEnd ctx grid
  | .gangPlacement part => .gangPlacement part
  | .preemptionRequest gang => .preemptionRequest gang
  | .gangSave gang => .gangSave gang
  | .gangRestore gang => .gangRestore gang
  | .preemptionTimeout gang => .preemptionTimeout gang
  | .deckDispatch cluster => .deckDispatch cluster
  | .stealAttempt cluster => .stealAttempt cluster
  | .jobStart cluster => .jobStart cluster
  | .jobLanding cluster card piece => .jobLanding cluster card piece
  | .fillfullStep cluster card piece => .fillfullStep cluster card piece
  | .jobCompletion cluster card => .jobCompletion cluster card
  | .collectiveResult group ctx coll => .collectiveResult group ctx coll
  | .pageWalk unit ctx va => .pageWalk unit ctx va
  | .faultRetry ctx seq => .faultRetry ctx seq
  | .faultReject ctx seq => .faultReject ctx seq
  | .matrixChunkStart cluster => .matrixChunkStart cluster
  | .matrixChunkEnd cluster => .matrixChunkEnd cluster
  | .weightLoadEnd cluster slot => .weightLoadEnd cluster slot
  | .drainBeat cluster => .drainBeat cluster
  | .rampupEnd cluster => .rampupEnd cluster
  | .rampdownEnd cluster => .rampdownEnd cluster
  | .warmToCold cluster => .warmToCold cluster
  | .oenterArrival team serial key => .oenterArrival team serial key
  | .oleaveArrival ctx holder key => .oleaveArrival ctx holder key
  | .oskipArrival ctx key sq => .oskipArrival ctx key sq
  | .sectionTimeout team serial => .sectionTimeout team serial
  | .waiterRetry team serial key => .waiterRetry team serial key
  | .cascadeStep die => .cascadeStep die
  | .rayEnd cluster ray => .rayEnd cluster ray
  | .uncorrectedError site => .uncorrectedError site
  | .consumption team storage addr => .consumption team storage addr
  | .checkpoint gang crew => .checkpoint gang crew
  | .clusterRemoval cluster => .clusterRemoval cluster
  | .stepHalt team => .stepHalt team
  | .haltEvent ctx => .haltEvent ctx
  | .stallSample ctx cluster core => .stallSample ctx cluster core
  | .secReset ctx => .secReset ctx
  | .secFree ctx => .secFree ctx
  | .secQuery ctx => .secQuery ctx
  | .clearall ctx => .clearall ctx
  | .secBadOp ctx => .secBadOp ctx
  | .dbgHalt ctx => .dbgHalt ctx
  | .dbgResume ctx => .dbgResume ctx
  | .dbgStep ctx => .dbgStep ctx
  | .dbgQuery ctx => .dbgQuery ctx
  | .dbgRead ctx => .dbgRead ctx
  | .dbgEdit ctx => .dbgEdit ctx
  | .dbgDiscard ctx => .dbgDiscard ctx
  | .dbgBadOp ctx => .dbgBadOp ctx
  | .yrdAbort ctx coll => .yrdAbort ctx coll
  | .apertureSubmit ctx cluster chan value => .apertureSubmit ctx cluster chan value
  | .configure => .configure
  | .teardown => .teardown
  | .mgtRead => .mgtRead
  | .mgtBadOp => .mgtBadOp

/-- A machine event does what its instruction of the table does. -/
theorem runEv_instr (e : Ev) (s : State) : runEv e s = exec e.instr s := by
  cases e <;> rfl
theorem encode_evInstr (e : Ev) : encode e.instr = none := by
  cases e <;> rfl

/-- An event always has a next state. -/
theorem exec_event {i : Instr} (h : encode i = none) (s : State) : ∃ s', exec i s = .next s' := by
  cases i
  all_goals (try exact absurd h (Option.some_ne_none _))
  all_goals simp only [exec]; exact ⟨_, rfl⟩
/-- A slot of a current team always has a next state. -/
theorem slot_next {s : State} {t : Team} (h : s.me = some t) (i : Instr) (body : (r t : Team) → State → Res) : ∃ s', slot i body s = .next s' := by
  unfold slot; simp only [h]; exact ⟨_, rfl⟩
/-- A slot without a current team has none. -/
theorem slot_fault {s : State} (h : s.me = none) (i : Instr) (body : (r t : Team) → State → Res) : slot i body s = .fault .noRunningTeam := by
  unfold slot; simp only [h]
/-- An instruction that is given a current team always has a next state. -/
theorem exec_next {s : State} {t : Team} (h : s.me = some t) (i : Instr) : ∃ s', exec i s = .next s' := by
  by_cases hi : encode i = none
  · exact exec_event hi s
  · obtain ⟨body, e⟩ := exec_isSlot hi s
    rw [e]; exact slot_next h i body
/-- The one way to stop. -/
theorem exec_next_or_fault (i : Instr) (s : State) : (∃ s', exec i s = .next s') ∨ exec i s = .fault .noRunningTeam := by
  by_cases hi : encode i = none
  · exact .inl (exec_event hi s)
  · obtain ⟨body, e⟩ := exec_isSlot hi s
    rw [e]
    cases h : s.me with
    | none => exact .inr (slot_fault h i body)
    | some t => exact .inl (slot_next h i body)

/-- A state that has its current team. -/
def State.Manned (s : State) : Prop := ∃ t, s.me = some t
/-- A fetched slot has its team; a team that issues nothing need not be there any more. -/
def Fetched.Manned : Fetched → Prop
  | .go s _ _ => s.Manned
  | .stop _ => True

theorem State.Manned.congr {s s' : State} (h : s.Manned) (ht : s'.teams = s.teams) (hc : s'.cur = s.cur) : s'.Manned := by
  obtain ⟨t, h⟩ := h
  exact ⟨t, by unfold State.me at *; rw [ht, hc]; exact h⟩
theorem State.Manned.updMe {s : State} (h : s.Manned) (f : Team → Team) : (s.updMe f).Manned := by
  obtain ⟨t, h⟩ := h; exact ⟨_, State.updMe_me f h⟩
theorem State.cacheRead_teams (s : State) (kind : CacheKind) (unit ctx va pa n : Nat) (x : Translation) (fresh : BitVec 1024) :
    (s.cacheRead kind unit ctx va pa n x fresh).2.teams = s.teams := by
  unfold State.cacheRead; dsimp only; (repeat' split) <;> simp
theorem State.cacheRead_cur (s : State) (kind : CacheKind) (unit ctx va pa n : Nat) (x : Translation) (fresh : BitVec 1024) :
    (s.cacheRead kind unit ctx va pa n x fresh).2.cur = s.cur := by
  unfold State.cacheRead; dsimp only; (repeat' split) <;> simp

theorem readBundle_manned {s : State} (h : s.Manned) (t : Team) (off : Nat) :
    EndsIn (fun _ => True) (fun x => x.2.Manned) (s.readBundle t off) := by
  unfold State.readBundle
  dsimp only
  split
  · trivial
  · split
    case h_5 =>
      split
      · trivial
      · exact h.congr (by rw [State.cacheRead_teams, State.claim_teams]) (by rw [State.cacheRead_cur, State.claim_cur])
    all_goals trivial
theorem slotOf_manned {s : State} (h : s.Manned) (t : Team) (b : BitVec 128) : (s.slotOf t b).Manned := by
  unfold State.slotOf
  dsimp only
  split
  · trivial
  · exact h
theorem breakCheck_manned {s : State} (h : s.Manned) (t : Team) : EndsIn (fun _ => True) State.Manned (s.breakCheck t) := by
  unfold State.breakCheck
  split
  · trivial
  · exact h.updMe _
theorem safePointCheck_manned {s : State} (h : s.Manned) (t : Team) (c : Control) :
    EndsIn (fun _ => True) State.Manned (s.safePointCheck t c) := by
  unfold State.safePointCheck
  split
  · exact h
  · split
    · dsimp only
      split
      · rename_i u hu
        split
        · exact ⟨u, hu⟩
        · trivial
      · trivial
    · split
      · trivial
      · exact h
/-- The check before slot 1 of a bundle at hand. -/
theorem firstCheck_manned {s : State} (h : s.Manned) (t : Team) (c : Control) (first : Bool) :
    EndsIn (fun _ => True) State.Manned (if first then s.safePointCheck t c else .ok s) := by
  split
  · exact safePointCheck_manned h t c
  · exact h
/-- The checks before slot 1 of a bundle just read. -/
theorem slotChecks_manned {s : State} (h : s.Manned) (t : Team) (c : Control) (first : Bool) : EndsIn (fun _ => True) State.Manned
    (if first then match s.breakCheck t with | .error s => .error s | .ok s => s.safePointCheck t c else .ok s) := by
  have hb := breakCheck_manned h t
  split
  · split
    · trivial
    · rename_i e
      rw [e] at hb
      exact safePointCheck_manned hb t c
  · exact h
/-- The slot that is read where its checks have passed. -/
theorem slotAfter_manned {e : Except State State} (he : EndsIn (fun _ => True) State.Manned e) (t : Team) (b : BitVec 128) :
    (match e with | .error s => Fetched.stop s | .ok s => s.slotOf t b).Manned := by
  cases e with
  | error s => trivial
  | ok s => exact slotOf_manned he t b

/-- A fetch keeps the current team. -/
theorem fetch_manned {s : State} (h : s.Manned) : s.fetch.Manned := by
  unfold State.fetch
  split
  · trivial
  · rename_i t _
    dsimp only
    split
    · exact slotAfter_manned (firstCheck_manned h t _ _) t _
    · have hb := readBundle_manned h t (bundleOf t.pc).toNat
      split
      · trivial
      · rename_i b s' e
        rw [e] at hb
        split
        · trivial
        · split
          · trivial
          · exact slotAfter_manned (slotChecks_manned (State.Manned.updMe hb _) t _ _) t b

/-- A team that issues always has a next state. -/
theorem runTeam_next (id : Nat) (s : State) : ∃ s', runTeam id s = .next s' := by
  unfold runTeam
  split
  · exact ⟨_, rfl⟩
  · rename_i t ht
    have hf := fetch_manned (s := { s with cur := id, clk := max s.clk t.earliest + Config.issueDelay s.tick }) ⟨t, ht⟩
    split
    · exact ⟨_, rfl⟩
    · rename_i s' w lit e
      rw [e] at hf
      obtain ⟨u, hu⟩ := hf
      unfold runWord
      split
      · simp only [hu]
        exact exec_next (t := u) (by exact hu) _
      · exact ⟨_, rfl⟩

/-- Whatever a step takes up has a next state, where no instruction slot stands in the queue of inputs. -/
theorem runCand_next {s : State} (h : ∀ i ∈ s.inputs, encode i = none) (c : Cand) : ∃ s', runCand c s = .next s' := by
  have ev (e : Ev) (s : State) : ∃ s', runEv e s = .next s' := by rw [runEv_instr]; exact exec_event (encode_evInstr e) s
  cases c with
  | due k =>
    simp only [runCand]
    split
    · exact ev _ _
    · exact ⟨_, rfl⟩
  | ev e => exact ev e s
  | input =>
    simp only [runCand]
    split
    · rename_i i is hi
      exact exec_event (h i (by rw [hi]; exact List.mem_cons_self)) _
    · exact ⟨_, rfl⟩
  | team id => exact runTeam_next id s
  | access n => exact ⟨_, rfl⟩
  | spread n c => exact ⟨_, rfl⟩
  | ahead c r q => exact ⟨_, rfl⟩
  | check =>
    simp only [runCand]
    split
    · rename_i x xs _
      exact ev (.uncorrectedError x) _
    · exact ⟨_, rfl⟩

end Sys2Proof.Machine
end

section
/-! PROOF of O57. -/

namespace Sys2Proof
open Machine

/-- Settles O57: events have no way to stop, slots stop only without a current team, and a team that issues is there. -/
theorem goesOnAlways : Obligations.GoesOnAlways := by
  unfold Obligations.GoesOnAlways
  refine ⟨fun i s t h => exec_next h i, fun i s h => exec_event h s, exec_next_or_fault, fun s h => ?_⟩
  unfold GoesOn step
  split
  · exact ⟨_, rfl⟩
  · exact runCand_next (by exact h) _

end Sys2Proof
end

section
/-! SUPPORT. Little-endian numbers (R2): a part of the bytes of a number is a part of the number. -/

namespace Sys2Proof.Machine

theorem leNat_lt (bs : List Byte) : leNat bs < 2 ^ (8 * bs.length) := by
  induction bs with
  | nil => simp [leNat]
  | cons b bs ih =>
    have hb := b.isLt
    have hp : 2 ^ (8 * (b :: bs).length) = 256 * 2 ^ (8 * bs.length) := by
      rw [List.length_cons, Nat.mul_succ, Nat.pow_add, Nat.mul_comm]
    rw [leNat, hp]
    omega
theorem leNat_drop (bs : List Byte) (k : Nat) : leNat bs / 256 ^ k = leNat (bs.drop k) := by
  induction k generalizing bs with
  | zero => simp
  | succ k ih =>
    cases bs with
    | nil => simp [leNat]
    | cons b bs =>
      have hb := b.isLt
      have hd : (b.toNat + 256 * leNat bs) / 256 = leNat bs := by omega
      rw [Nat.pow_succ, Nat.mul_comm, ← Nat.div_div_eq_div_mul, leNat, hd, ih, List.drop_succ_cons]
theorem leBytes_leNat (bs : List Byte) (n : Nat) (h : n ≤ bs.length) : leBytes n (leNat bs) = bs.take n := by
  induction n generalizing bs with
  | zero => rfl
  | succ n ih =>
    cases bs with
    | nil => simp at h
    | cons b bs =>
      have hb := b.isLt
      have hd : (b.toNat + 256 * leNat bs) / 256 = leNat bs := by omega
      rw [leBytes, leNat, hd, ih bs (by simpa using h), List.take_succ_cons, BitVec.ofNat_add, BitVec.ofNat_toNat, BitVec.setWidth_eq]
      congr 1
      apply BitVec.eq_of_toNat_eq
      simp only [BitVec.toNat_add, BitVec.toNat_ofNat]
      omega
/-- Bytes cut out of a run of bytes of memory. -/
theorem leBytes_readNat (s : State) (base m o n : Nat) (h : o + n ≤ m) :
    leBytes n (s.readNat base m / 256 ^ o) = (List.range n).map fun k => Memory.read s.mem (base + o + k) := by
  rw [State.readNat, leNat_drop, leBytes_leNat _ _ (by simp [State.readBytes]; omega), State.readBytes, ← List.map_drop, ← List.map_take]
  apply List.ext_getElem
  · simp; omega
  · intro k h1 h2
    simp [Nat.add_assoc]

end Sys2Proof.Machine
end

section
/-! SUPPORT. What a fetch reads: the slot of a bundle at hand, and slot 1 of a bundle that memory holds (R44, R45, R52). -/

namespace Sys2Proof.Machine

/-- A slot of a bundle that is not a literal slot. -/
theorem slotOf_go {s : State} {t : Team} {b : BitVec 128}
    (h : (Control.ofWord (bundleWord b 0)).isLit (t.pc.extractLsb' 2 2).toNat = false) :
    s.slotOf t b = .go s (bundleWord b (t.pc.extractLsb' 2 2).toNat)
      (slotLit b (Control.ofWord (bundleWord b 0)) (t.pc.extractLsb' 2 2).toNat) := by
  unfold State.slotOf; simp only [h, Bool.false_eq_true, if_false]

/-- Slots 2 and 3 come from the bundle that the team holds. -/
theorem fetch_held {s : State} {t : Team} {b : BitVec 128} (h : s.me = some t) (hb : t.bundle = some ((bundleOf t.pc).toNat, b))
    (hk : (t.pc.extractLsb' 2 2).toNat ≠ 1) : s.fetch = s.slotOf t b := by
  have hf : (t.pc.extractLsb' 2 2 == 1#2) = false := by
    rw [beq_eq_false_iff_ne]
    exact fun e => hk (by rw [e]; rfl)
  unfold State.fetch
  simp [h, hb, hf]

theorem poisoned_clean {s : State} (h : s.poison = []) (pa n : Nat) : s.poisoned pa n = false := by
  unfold State.poisoned; simp [h]

/-- A read through a path cache that misses brings the bytes of memory (R282). -/
theorem cacheRead_miss {s : State} {kind : CacheKind} {unit ctx va pa n : Nat} (x : Translation) (hc : s.line? kind unit ctx (va / 128) = none)
    (hp : pa % 128 = va % 128) (hn : va % 128 + n ≤ 128) :
    (s.cacheRead kind unit ctx va pa n x (s.lineBytes pa)).1 = (List.range n).map fun k => Memory.read s.mem (pa + k) := by
  have hbase : pa / 128 * 128 + va % 128 = pa := by omega
  have hlt : s.readNat (pa / 128 * 128) 128 < 2 ^ 1024 := by
    have h := leNat_lt (s.readBytes (pa / 128 * 128) 128)
    rwa [show 8 * (s.readBytes (pa / 128 * 128) 128).length = 1024 by simp [State.readBytes]] at h
  have hcut := leBytes_readNat s (pa / 128 * 128) 128 (va % 128) n hn
  rw [hbase] at hcut
  unfold State.cacheRead
  simp only [hc]
  rw [← hcut]
  split <;> simp only [State.lineBytes, BitVec.toNat_ofNat, Nat.mod_eq_of_lt hlt]

/-- A bundle whose page the filter holds and whose line no cache has, read from clean memory (R44, R281, R293). -/
theorem readBundle_miss {s : State} {t : Team} {off pa : Nat} {x : Translation} (hlo : 0x80 ≤ off) (hhi : off < 0x80 + t.kernel.codeSize)
    (hl : s.look t.unit t.ctx (t.kernel.kbase + off) .fetch = .ok pa x) (hp : pa % 128 = (t.kernel.kbase + off) % 128)
    (ha : (t.kernel.kbase + off) % 16 = 0) (hc : s.line? .code t.unit t.ctx ((t.kernel.kbase + off) / 128) = none) (hq : s.poison = []) :
    ∃ s', s.readBundle t off = .ok (BitVec.ofNat 128 (memNat s.mem pa 16), s') ∧ s'.teams = s.teams ∧ s'.cur = s.cur ∧ s'.mem = s.mem ∧
      s'.gangs = s.gangs ∧ s'.contexts = s.contexts := by
  have hc' : (s.claim pa x).line? .code t.unit t.ctx ((t.kernel.kbase + off) / 128) = none := by
    unfold State.line? at *; rw [State.claim_caches]; exact hc
  have hb := cacheRead_miss (n := 16) x hc' hp (by omega)
  rw [State.claim_mem] at hb
  refine ⟨((s.claim pa x).cacheRead .code t.unit t.ctx (t.kernel.kbase + off) pa 16 x ((s.claim pa x).lineBytes pa)).2, ?_, ?_, ?_, ?_, ?_, ?_⟩
  · unfold State.readBundle
    rw [if_neg (by simp; omega), hl]
    dsimp only
    rw [if_neg (by simp [poisoned_clean (s := s.claim pa x) (by rw [State.claim_poison, hq])]), hb]
    rfl
  · rw [State.cacheRead_teams, State.claim_teams]
  · rw [State.cacheRead_cur, State.claim_cur]
  · rw [State.cacheRead_mem, State.claim_mem]
  · unfold State.cacheRead; dsimp only; (repeat' split) <;> simp
  · unfold State.cacheRead; dsimp only; (repeat' split) <;> simp

theorem breakpointAt_none {s : State} {ctx va : Nat} (h : ∀ k, (s.winReg ctx (dbg (0x80 + 8 * k))).getLsbD 63 = false) :
    s.breakpointAt ctx va = none := by
  unfold State.breakpointAt
  rw [List.find?_eq_none]
  intro k _
  simp only [h k, Bool.false_and, Bool.false_eq_true, not_false_eq_true]

/-- A bundle that keeps the rules of R52 has no literal in slot 1. -/
theorem isLit_one_of_good {b : BitVec 128} {n : Nat} (h : bundleBad b n = false) : (Control.ofWord (bundleWord b 0)).isLit 1 = false := by
  unfold bundleBad at h
  simp only [Bool.or_eq_false_iff] at h
  simp [h]

/-- Slot 1 of a plain bundle: the bundle is read, nothing holds the team before it, and the slot is the one of the bundle (R45, R52, R470). -/
theorem fetch_first {s s' : State} {t : Team} {b : BitVec 128} (h : s.me = some t) (hk : (t.pc.extractLsb' 2 2).toNat = 1) (hblk : t.blk = none)
    (hr : s.readBundle t (bundleOf t.pc).toNat = .ok (b, s')) (hkind : (Control.ofWord (bundleWord b 0)).kind = 0#2)
    (hgood : bundleBad b t.kernel.spCount = false)
    (hbp : ∀ k, (s'.winReg t.ctx (dbg (0x80 + 8 * k))).getLsbD 63 = false) :
    ∃ s2, s.fetch = .go s2 (bundleWord b 1) (slotLit b (Control.ofWord (bundleWord b 0)) 1) ∧
      s2 = (s'.updMe fun u => { u with bundle := some ((bundleOf t.pc).toNat, b) }).updMe fun u => { u with bpSkip := false } := by
  refine ⟨_, ?_, rfl⟩
  have hf : (t.pc.extractLsb' 2 2 == 1#2) = true := by
    rw [beq_iff_eq]; exact BitVec.eq_of_toNat_eq hk
  have hbreak : ∀ s : State, s.contexts = s'.contexts → s.breakCheck t = .ok (s.updMe fun t => { t with bpSkip := false }) := by
    intro s hs
    have hn := breakpointAt_none (s := s) (ctx := t.ctx) (va := t.kernel.kbase + (bundleOf t.pc).toNat)
      (by unfold State.winReg at *; rw [hs]; exact hbp)
    unfold State.breakCheck
    rw [hn, ite_self]
  have hsafe : ∀ s : State, s.safePointCheck t (Control.ofWord (bundleWord b 0)) = .ok s := by
    intro s; unfold State.safePointCheck; rw [hkind]; rfl
  unfold State.fetch
  simp only [h]
  split
  · rename_i e
    split at e
    · simp [hf, hblk] at e
    · cases e
  · rw [hr]
    dsimp only
    rw [if_neg (by rw [hkind]; decide), if_neg (by rw [hgood]; decide), if_pos hf, hbreak _ (State.updMe_contexts _ _)]
    dsimp only
    rw [hsafe]
    dsimp only
    rw [slotOf_go (by rw [hk]; exact isLit_one_of_good hgood), hk]

end Sys2Proof.Machine
end

section
/-! SUPPORT. A step by what it takes up (R44, R74). -/

namespace Sys2Proof.Machine

theorem step_idle {s : State} (h : s.candidates = []) : step s = .next { s with clk := s.clk + 1 } := by
  unfold step; rw [h]
theorem step_takes {s : State} {c : Cand} {cs : List Cand} (h : s.candidates = c :: cs) :
    ∃ (k : Nat) (x : Cand), (c :: cs)[k]? = some x ∧ step s = runCand x { s with tick := s.tick + 1 } := by
  unfold step
  rw [h]
  dsimp only
  split
  · exact ⟨0, c, rfl, rfl⟩
  · have hk : Config.pick s.tick % (cs.length + 1) < (c :: cs).length := Nat.mod_lt _ (Nat.succ_pos _)
    exact ⟨_, _, List.getElem?_eq_getElem hk, by rw [List.getElem?_eq_getElem hk]; rfl⟩
/-- The state in which a team fetches its next slot, when it is what the step takes up (R47). -/
def State.issuing (s : State) (id : Nat) (t : Team) : State :=
  { s with tick := s.tick + 1, cur := id, clk := max s.clk t.earliest + Config.issueDelay (s.tick + 1) }
/-- A step in which a team is all that can act runs the word that the team fetches. -/
theorem step_team {s s' : State} {id : Nat} {t : Team} {w : Word} {lit : Option Word} (h : s.candidates = [.team id])
    (ht : s.teams.find id = some t) (hf : (s.issuing id t).fetch = .go s' w lit) : step s = runWord s' w lit := by
  have hrun : runTeam id { s with tick := s.tick + 1 } = runWord s' w lit := by
    unfold runTeam
    simp only [ht]
    split
    · rename_i e; cases e.symm.trans hf
    · rename_i e; cases e.symm.trans hf; rfl
  unfold step
  rw [h]
  exact hrun

theorem runWord_ok {s : State} {t : Team} {w : Word} {lit : Option Word} {i : Instr} (h : s.me = some t) (hd : decode w lit = .ok i) :
    runWord s w lit = exec i { s with clk := s.clk + if t.zeroStall && t.lastSetU == i.isU then 1 else 0 } := by
  unfold runWord
  rw [hd]
  simp only [h]
  split <;> rfl
theorem runWord_error {s : State} {w : Word} {lit : Option Word} (hd : ∀ i, decode w lit ≠ .ok i) :
    runWord s w lit = .next (s.takeTrap 0x01 (w.extractLsb' 24 8).toNat 0) := by
  unfold runWord
  split
  · rename_i i e
    exact absurd e (hd i)
  · rfl

/-- The offset of a bundle is a multiple of 16 (R44). -/
theorem bundleOf_mod (pc : Word) : (bundleOf pc).toNat % 16 = 0 := by
  have h : (bundleOf pc).extractLsb' 0 4 = 0#4 := by
    unfold bundleOf
    rw [BitVec.extractLsb'_and]
    exact BitVec.and_zero
  have h2 := congrArg BitVec.toNat h
  simpa [BitVec.extractLsb'_toNat] using h2

end Sys2Proof.Machine
end

section
/-! PROOF of O56. -/

namespace Sys2Proof
open Machine

/-- Settles O56: the step of a team is the fetch of its slot and the execution of the word that it finds. -/
theorem stepRuns : Obligations.StepRuns := by
  unfold Obligations.StepRuns
  refine ⟨?_, ?_, ?_, fun s c cs h => step_takes h, fun s h => step_idle h, fun e => ⟨e.instr, runEv_instr e⟩⟩
  · intro s id t b i hc ht hb hk c k hl hd
    rw [step_team hc ht ((fetch_held (by exact ht) hb hk).trans (slotOf_go hl))]
    exact runWord_ok (by exact ht) hd
  · intro s id t b hc ht hb hk c k hl hd
    rw [step_team hc ht ((fetch_held (by exact ht) hb hk).trans (slotOf_go hl))]
    exact runWord_error hd
  · intro s id t pa f i hc ht hk hblk off b c hbase hlo hhi hlook hpa hline hq hkind hgood hbp hd
    have hm := bundleOf_mod t.pc
    obtain ⟨s', hr, hteams, hcur, hmem, hgangs, hctx⟩ := readBundle_miss (s := s.issuing id t) hlo hhi hlook hpa (by omega) hline hq
    have hme : s'.me = some t := by unfold State.me; rw [hteams, hcur]; exact ht
    obtain ⟨s2, hf, rfl⟩ := fetch_first (by exact ht) hk hblk hr hkind hgood (by unfold State.winReg at *; rw [hctx]; exact hbp)
    have hme2 := State.updMe_me (fun u => { u with bpSkip := false })
      (State.updMe_me (fun u => { u with bundle := some ((bundleOf t.pc).toNat, b) }) hme)
    rw [step_team hc ht hf]
    refine ⟨_, _, runWord_ok hme2 hd, hme2, rfl, rfl, rfl, regsAfter_of_files rfl rfl rfl, rfl, rfl, ?_, ?_, ?_⟩
    · exact (State.updMe_mem _ _).trans ((State.updMe_mem _ _).trans hmem)
    · exact (State.updMe_gangs _ _).trans ((State.updMe_gangs _ _).trans hgangs)
    · exact (State.updMe_contexts _ _).trans ((State.updMe_contexts _ _).trans hctx)

end Sys2Proof
end

section
/-! SUPPORT. Slots that change more than registers: results on a state whose team has changed, and what is said of the state before the change. -/

namespace Sys2Proof.Machine

theorem RestKept.of_setTeam {s s' : State} {t u v : Team} (h : RestKept (s.setTeam s.cur v) s' u) (hk : u.kernel = t.kernel) : RestKept s s' t :=
  ⟨fun k hj => (h.others k hj).trans (State.setTeam_find_ne s v hj), fun r => h.gangs (by rw [hk]; exact r), h.contexts, h.rest, h.memory⟩

/-- What is said of a state is said of one that differs from it in its current team and its serial numbers alone. -/
theorem RestKept.of_bare {s s1 s' : State} {t : Team} (h : RestKept s1 s' t) (hu : s1.cur = s.cur)
    (ho : ∀ k, k ≠ s.cur → s1.teams.find k = s.teams.find k) (hg : s1.gangs = s.gangs) (hc : s1.contexts = s.contexts) (hb : s1.bare = s.bare) :
    RestKept s s' t :=
  ⟨fun k hk => (h.others k (by rw [hu]; exact hk)).trans (ho k hk), fun r => (h.gangs r).trans hg, fun c => (h.contexts c).trans (by rw [hc]),
    h.rest.trans (still_of_bare hb), fun u => (h.memory (untraced_of_contexts hc u)).trans hb⟩
theorem Onward.of_bare {s s1 s' : State} {u : Team} {pc : Word} (h : Onward s1 s' u pc) (hu : s1.cur = s.cur)
    (ho : ∀ k, k ≠ s.cur → s1.teams.find k = s.teams.find k) (hg : s1.gangs = s.gangs) (hc : s1.contexts = s.contexts) (hb : s1.bare = s.bare) :
    Onward s s' u pc :=
  ⟨by rw [← hu]; exact h.1, h.2.of_bare hu ho hg hc hb⟩

/-- A result of variable latency, from a slot that issues: its destination is pending in the state that the body leaves, in which its team is
`u` (R65, R66). -/
theorem pends_of_later {s s1 : State} {t u : Team} {i : Instr} (h : Issues s t i) {body : (r t : Team) → State → Res} {reason : Nat}
    {data : PendData} {w : RegUse} {ws : List RegUse} (he : exec i s = slot i body s)
    (hb : body (t.viewAt s.clk) t s = .later s1 reason data) (hu : s1.me = some u) (hc : s1.cur = s.cur) (hw : i.writes = w :: ws)
    (ho : s.overfull i = false) :
    ∃ s' t', exec i s = .next s' ∧ s'.teams.find s.cur = some t' ∧
      ⟨s1.serial, w.file, w.n, w.cnt, reason, u.pc, data, []⟩ ∈ t'.pends ∧ t'.v = u.v ∧ t'.s = u.s ∧ t'.p = u.p ∧
      t'.fstat = u.fstat ∧ t'.still = u.still ∧ StepsOn i u t' ∧ RestKept s1 s' u := by
  generalize hx : ({ u.dropFutures i.writes with
    pends := (u.dropFutures i.writes).pends ++ [⟨s1.serial, w.file, w.n, w.cnt, reason, u.pc, data, []⟩] } : Team) = x
  have hm : s1.markPending i reason data = { s1.setTeam s1.cur x with serial := s1.serial + 1 } := by
    subst hx; unfold State.markPending; simp only [hu, hw]; rfl
  have hm2 : (s1.markPending i reason data).me = some x := by rw [hm]; exact State.setTeam_me s1 x
  obtain ⟨t', e⟩ := retire_spec hm2 i
  have hs : exec i s = .next ((s1.markPending i reason data).retire i) := by
    rw [he, slot_issues h, hb]; simp only [settle, ho, Bool.false_eq_true, if_false]
  have hcur : (s1.markPending i reason data).cur = s.cur := by rw [hm]; exact hc
  have o := onward_of_advanced e
  have hr : RestKept s1 ((s1.markPending i reason data).retire i) x :=
    o.2.of_bare (by rw [hm]; rfl) (fun k hk => by rw [hm]; exact State.setTeam_find_ne s1 x hk) (by rw [hm]; rfl) (by rw [hm]; rfl) (by rw [hm]; rfl)
  have hp := e.path
  subst hx
  refine ⟨_, t', hs, hcur ▸ e.here, ?_, e.vr, e.sr, e.pr, e.fstat, e.still, fun q => ?_, ⟨hr.others, hr.gangs, hr.contexts, hr.rest, hr.memory⟩⟩
  · rw [e.pends]; exact List.mem_append_right _ (List.mem_singleton_self _)
  · obtain ⟨h1, h2, h3, _⟩ := hp q
    exact ⟨h2, h1, h3⟩

/-- The same in the terms of claims. -/
theorem pendsIn_of_later {s s1 : State} {t u : Team} {i : Instr} (h : Issues s t i) {body : (r t : Team) → State → Res} {reason : Nat}
    {data : PendData} {w : RegUse} {ws : List RegUse} (he : exec i s = slot i body s)
    (hb : body (t.viewAt s.clk) t s = .later s1 reason data) (hu : s1.me = some u) (hc : s1.cur = s.cur) (hw : i.writes = w :: ws)
    (ho : s.overfull i = false) : PendsIn s s1 u i reason data := by
  obtain ⟨s', t', h1, h2, h3, hv, hs, hp, hf, hst, hon, hr⟩ := pends_of_later h he hb hu hc hw ho
  exact ⟨s', t', _, h1, h2, h3, by rw [hw]; exact List.mem_cons_self, rfl, rfl, regsAfter_of_files hv hs hp, hf, hst, hon, hr⟩

/-- An instruction that is not well formed, or on the wrong core, traps before anything else (R74). -/
theorem traps_of_illegal {s : State} {t : Team} {i : Instr} (h : s.me = some t) (hi : encode i ≠ none)
    (hx : coreIllegal i t = true ∨ i.wf = false) : Traps s i 0x01 i.info 0 :=
  (exec_of_check h hi).2.1 _ _ _ (slotCheck_illegal hx)

end Sys2Proof.Machine
end

section
/-! PROOF of O16: the special registers. -/

namespace Sys2Proof.Machine

theorem special_mask_words (s : State) (t : Team) (k : Nat) (h : k < 32) :
    s.special t (0x40 + k) = some (maskWord t.tex k) ∧ s.special t (0x60 + k) = some (maskWord t.live k) := by
  unfold State.special
  dsimp only
  constructor
  · rw [if_pos (by simp; omega), Nat.add_sub_cancel_left]
  · rw [if_neg (by simp; omega), if_pos (by simp; omega), Nat.add_sub_cancel_left]
/-- The numbers that R33 does not list. -/
theorem special_unlisted (s : State) (t : Team) (n : Nat) (h : 0x18 ≤ n ∧ n < 0x40 ∨ 0x80 ≤ n) : s.special t n = none := by
  unfold State.special
  dsimp only
  rw [if_neg (by simp; omega), if_neg (by simp; omega)]
  split
  case h_25 => rfl
  all_goals omega

/-- `srd` of a register that the state gives, and of no number that acts on the read (R33). -/
theorem execSrd_gives {s : State} {t : Team} {d b : RegNo} {x : Word} (h : Issues s t (.srd d b)) (hx : s.special t b.toNat = some x)
    (h7 : b ≠ 0x07) (hA : b ≠ 0x0A) : Gives s t (.srd d b) (newUni d x) 0 := by
  have he : exec (.srd d b) s = execSrd d b s := rfl
  unfold execSrd at he
  exact gives_of_fixed (lat := 2) h he (by simp only [hx, h7, hA, if_false]) (carries_uniWrite d x)
/-- `srd` of CLOCK latches the high word (R35). -/
theorem execSrd_clock {s : State} {t : Team} {d : RegNo} (h : Issues s t (.srd d 0x07)) : ∃ s' t', exec (.srd d 0x07) s = .next s' ∧
    s'.teams.find s.cur = some t' ∧ RegsAfter t t' (newUni d (BitVec.ofNat 32 s.clk)) ∧ t'.fstat = t.fstat ∧
    t'.still = { t with clockh := BitVec.ofNat 32 (s.clk / 2 ^ 32) }.still ∧ StepsOn (.srd d 0x07) t t' ∧ RestKept s s' t := by
  have he : exec (.srd d 0x07) s = execSrd d 0x07 s := rfl
  unfold execSrd at he
  have hx : s.special t (0x07 : RegNo).toNat = some (BitVec.ofNat 32 s.clk) := rfl
  rw [slot_issues h] at he
  simp only [hx, show (0x07 : RegNo) ≠ 0x0A by decide, if_false, if_true, updMe_eq h.1] at he
  obtain ⟨s', t', h1, h2, h3, h4, h5, h6, h7⟩ := settle_fixed (i := .srd d 0x07)
    (State.setTeam_me s { t with clockh := BitVec.ofNat 32 (s.clk / 2 ^ 32) }) 2 _ 0 (carries_uniWrite d (BitVec.ofNat 32 s.clk))
  exact ⟨s', t', he.trans (congrArg _ h1), h2, h3, h4.trans (BitVec.or_zero), h5, h6, h7.of_setTeam rfl⟩
/-- `srd` of FSTAT waits for the flags of every earlier slot (R69). -/
theorem execSrd_fstat {s : State} {t : Team} {d : RegNo} (h : Issues s t (.srd d 0x0A)) (ho : s.overfull (.srd d 0x0A) = false) :
    PendsIn s s t (.srd d 0x0A) 15 (.flagsOf t.allFlags) := by
  have he : exec (.srd d 0x0A) s = execSrd d 0x0A s := rfl
  unfold execSrd at he
  exact pendsIn_of_later h he rfl h.1 rfl rfl ho

/-! The slots of `swr`, by the number of the register (R33, R69, R253). -/
theorem execSwr_fmode (a : RegNo) (s : State) : exec (.swr a 0x09) s = slot (.swr a 0x09) (fun r _ s =>
    .done (s.updMe fun t => { t with fmode := (r.S a.toNat).extractLsb' 0 2 })) s := rfl
theorem execSwr_fstat (a : RegNo) (s : State) : exec (.swr a 0x0A) s = slot (.swr a 0x0A) (fun r _ s =>
    .done ((s.updMe fun t => t.setFstat ((r.S a.toNat).extractLsb' 0 5)).mute s.cur)) s := rfl
theorem execSwr_check (a : RegNo) (s : State) : exec (.swr a 0x0F) s = slot (.swr a 0x0F) (fun r _ s =>
    .done (s.updMe fun t => { t with check := (r.S a.toNat).getLsbD 0 })) s := rfl
theorem execSwr_tpc (a : RegNo) (s : State) : exec (.swr a 0x10) s = slot (.swr a 0x10) (fun r _ s =>
    .done (s.updMe fun t => { t with tpc := r.S a.toNat })) s := rfl
theorem execSwr_sectime (a : RegNo) (s : State) : exec (.swr a 0x17) s = slot (.swr a 0x17) (fun r t s =>
    if s.inService t then .done (s.updContext t.ctx fun c => { c with sectime := r.S a.toNat }) else .trap 0x0C 0x17 0) s := rfl

/-- A write of FSTAT drops the flags of the accesses on their way (R69). -/
theorem execSwr_fstat_leaves {s : State} {t : Team} {a : RegNo} (h : Issues s t (.swr a 0x0A)) : LeavesIn s (.swr a 0x0A)
    { s with traffic := s.traffic.map fun o => if o.team = s.cur ∧ o.muted = none then { o with muted := some s.serial } else o }
    (t.setFstat (((t.viewAt s.clk).S a.toNat).extractLsb' 0 5)) (nextPc t.pc false) := by
  obtain ⟨s', e, o⟩ := leavesIn_of_done h (execSwr_fstat a s) (s1 := (s.setTeam s.cur _).mute s.cur)
    (u := t.setFstat (((t.viewAt s.clk).S a.toNat).extractLsb' 0 5)) (by rw [updMe_eq h.1]) (State.setTeam_me s _) rfl
  refine ⟨s', e, o.of_bare rfl (fun k hk => State.setTeam_find_ne s _ hk) rfl rfl ?_⟩
  have hm : (s.traffic.map fun o => if o.team = s.cur && o.muted.isNone then { o with muted := some s.serial } else o) =
      s.traffic.map fun o => if o.team = s.cur ∧ o.muted = none then { o with muted := some s.serial } else o :=
    List.map_congr_left fun o _ => by simp only [Bool.and_eq_true, decide_eq_true_eq, Option.isNone_iff_eq_none]
  exact congrArg (fun m => State.bare { s with traffic := m }) hm

/-- SECTIME is written in the service role (R33). -/
theorem execSwr_sectime_leaves {s : State} {t : Team} {a : RegNo} {c : Context} (h : Issues s t (.swr a 0x17)) (hs : s.inService t = true)
    (hc : s.contexts.find t.ctx = some c) : ∃ s' t', exec (.swr a 0x17) s = .next s' ∧ s'.teams.find s.cur = some t' ∧
      GoesAs t t' (nextPc t.pc false) ∧
      (∀ k, (s'.contexts.find k).map Context.still =
        if k = t.ctx then some { c with sectime := (t.viewAt s.clk).S a.toNat }.still else (s.contexts.find k).map Context.still) ∧
      (t.kernel.rollback = false → s'.gangs = s.gangs) ∧ (Untraced s → SameMemory s s') := by
  have hu : ∀ f : Context → Context, s.updContext t.ctx f = { s with contexts := s.contexts.insert t.ctx (f c) } := fun f => by
    unfold State.updContext; rw [hc]
  obtain ⟨s', e, ⟨t', hf, hg⟩, hr⟩ := leavesIn_of_done (u := t)
    (s1 := { s with contexts := s.contexts.insert t.ctx { c with sectime := (t.viewAt s.clk).S a.toNat } }) h (execSwr_sectime a s)
    (by simp only [hs, if_true, hu]) h.1 rfl
  refine ⟨s', t', e, hf, hg, fun k => (hr.contexts k).trans ?_, hr.gangs, fun hn x => ?_⟩
  · dsimp only
    split
    · rename_i hk; rw [hk, SMap.find_insert_same]; rfl
    · rename_i hk; rw [SMap.find_insert_ne _ _ hk]
  · refine congrArg (fun m => Memory.read m x) (congrArg State.mem (hr.memory ?_) : s'.bare.mem = _)
    rw [← hu fun c => { c with sectime := (t.viewAt s.clk).S a.toNat }]
    exact untraced_updContext (fun _ => rfl) hn

end Sys2Proof.Machine

namespace Sys2Proof
open Machine

/-- Settles O16: each number by the branch of `srd` or `swr` that takes it; the numbers that R33 does not list are not well formed. -/
theorem specialRegisters : Obligations.SpecialRegisters := by
  unfold Obligations.SpecialRegisters
  refine ⟨⟨fun d b s t x h hx h7 hA => execSrd_gives h hx h7 hA, fun d s t h => execSrd_clock h, fun d s t h ho => execSrd_fstat h ho,
    ?_, ?_⟩, ?_, fun a s t h => execSwr_fstat_leaves h, ?_, ?_, ?_, ?_, ?_⟩
  · intro d b s t h h1 h2
    refine traps_of_illegal h (Option.some_ne_none _) (.inr ?_)
    show srdNumber b = false
    simp [srdNumber]; omega
  · intro s t
    refine ⟨rfl, rfl, rfl, rfl, rfl, ?_, rfl, rfl, rfl, rfl, ?_, special_mask_words s t, special_unlisted s t⟩
    · show some _ = _; cases t.check <;> rfl
    · show some _ = _; cases t.tlevel <;> rfl
  · intro a s t h
    exact leaves_of_done h (execSwr_fmode a s) (congrArg _ (updMe_eq h.1 _)) rfl
  · intro a s t h
    exact leaves_of_done h (execSwr_check a s) (congrArg _ (updMe_eq h.1 _)) rfl
  · intro a s t h
    exact leaves_of_done h (execSwr_tpc a s) (congrArg _ (updMe_eq h.1 _)) rfl
  · intro a s t c h hs hc
    exact execSwr_sectime_leaves h hs hc
  · intro a s t h hs
    exact traps_of_body h (execSwr_sectime a s) (by simp [hs])
  · intro a b s t h h9 hA hF h10 h17
    refine traps_of_illegal h (Option.some_ne_none _) (.inr ?_)
    show swrNumber b = false
    simp only [swrNumber, List.contains_eq_mem, decide_eq_false_iff_not, List.mem_cons, List.not_mem_nil, or_false, not_or]
    exact ⟨fun e => h9 (BitVec.eq_of_toNat_eq e), fun e => hA (BitVec.eq_of_toNat_eq e), fun e => hF (BitVec.eq_of_toNat_eq e),
      fun e => h10 (BitVec.eq_of_toNat_eq e), fun e => h17 (BitVec.eq_of_toNat_eq e)⟩

end Sys2Proof
end

section
/-! SUPPORT of O18: fences as filters of the caches, and slots that block. -/

namespace Sys2Proof.Machine

/-- Whether a cache line is one of those that `State.dropLines` gives up. -/
def CacheLine.goesWith (l : CacheLine) (kind : CacheKind) (units : List Nat) (ctx : Nat) : Bool :=
  l.kind == kind && units.contains l.unit && l.ctx == ctx

theorem dropLines_when (b : Bool) (s : State) (kind : CacheKind) (units : List Nat) (ctx : Nat) :
    (if b then s.dropLines kind units ctx else s) = { s with caches := s.caches.filter fun l => !(b && l.goesWith kind units ctx) } := by
  cases b with
  | true => rfl
  | false => simp

theorem acquire_when (b : Bool) (s : State) (t : Team) :
    (if b then s.acquire t else s) = { s with caches := s.caches.filter fun l => !(b && l.goesWith .l1 (s.l1Units t) t.ctx) } :=
  dropLines_when b s .l1 (s.l1Units t) t.ctx

theorem execFence_leaves {ord : BitVec 3} {s : State} {t : Team} (h : Issues s t (.fence ord)) : LeavesIn s (.fence ord)
    { s with caches := s.caches.filter fun l =>
      !(decide (4 ≤ ord.toNat) && l.kind == .l1 && (s.l1Units t).contains l.unit && l.ctx == t.ctx) } t (nextPc t.pc false) := by
  refine leavesIn_of_done (u := t) h (rfl : _ = execFence ord s) ?_ h.1 rfl
  have e := acquire_when (decide (4 ≤ ord.toNat)) s t
  simp only [decide_eq_true_eq] at e
  simp only [e, CacheLine.goesWith, Bool.and_assoc]

theorem not_or_four : ∀ x y z w : Bool, (!(x || y || z || w)) = (!w && (!z && (!y && !x))) := by decide

/-- What `pfence` gives up, by the bits of its mask. -/
theorem execPfence_leaves {mask : BitVec 4} {s : State} {t : Team} (h : Issues s t (.pfence mask)) : LeavesIn s (.pfence mask)
    { s with caches := s.caches.filter fun l => !(l.ctx == t.ctx &&
      ((mask.getLsbD 0 && l.kind == .l1 && (s.l1Units t).contains l.unit) || (mask.getLsbD 1 && l.kind == .constant && l.unit == t.unit) ||
        (mask.getLsbD 2 && l.kind == .sampler && l.unit == t.unit) || (mask.getLsbD 3 && l.kind == .tile && l.unit == unitOf t.cluster 5))) }
    t (nextPc t.pc false) := by
  refine leavesIn_of_done (u := t) h (rfl : _ = execPfence mask s) ?_ h.1 rfl
  simp only [acquire_when, dropLines_when, List.filter_filter]
  congr 3
  funext l
  simp only [CacheLine.goesWith, List.contains_cons, List.contains_nil, Bool.or_false, Bool.and_assoc]
  cases l.ctx == t.ctx with
  | false => simp only [Bool.and_false, Bool.false_and, Bool.not_false, Bool.and_self]
  | true => simp only [Bool.and_true, Bool.true_and, not_or_four]

/-- A slot that blocks where no deferred path can take its place: its team waits there, and nothing else has changed. -/
theorem stands_of_block {s : State} {t : Team} {i : Instr} (h : Issues s t i) {body : (r t : Team) → State → Res}
    (he : exec i s = slot i body s) {c : Cond} (hb : body (t.viewAt s.clk) t s = .block s c) (hs : ∀ p ∈ t.slots, p.v = false) :
    ∃ s' t', exec i s = .next s' ∧ s'.teams.find s.cur = some t' ∧ t'.blk = some c ∧ t'.pc = t.pc ∧
      RegsAfter t t' newNothing ∧ t'.still = t.still ∧ SameMemory s s' := by
  have hx : settle i s (.block s c) = s.setTeam s.cur { t with blk := some c } := blockOn_alone h.1 hs c
  exact ⟨s.setTeam s.cur { t with blk := some c }, { t with blk := some c }, by rw [he, slot_issues h, hb, hx], SMap.find_insert_same _ _ _, rfl, rfl,
    regsAfter_of_files rfl rfl rfl, rfl, fun _ => rfl⟩

theorem stuckCopy_flying {t : Team} (h : ∀ c ∈ t.copies, c.fate = .flying) (tags : List Nat) (all : Bool) : t.stuckCopy tags all = none := by
  unfold Team.stuckCopy
  refine List.find?_eq_none.2 fun c hc => ?_
  simp [h c hc]

theorem copyOutcome_flying {t : Team} (h : ∀ c ∈ t.copies, c.fate = .flying) (s : State) (tags : List Nat) (all : Bool) :
    s.copyOutcome t tags all = none := by
  unfold State.copyOutcome
  rw [stuckCopy_flying h]
  rfl

/-- The batches that `ctwait k` waits for have all completed iff none of their tags is in use. -/
theorem oldTags_free_iff (t : Team) (k : Nat) : (t.oldTags k).all t.tagFree = true ↔
    ∀ j, j < 8 - k → ∀ b, t.tags[(t.nextTag + j) % 8]? = some b → b.inUse = false := by
  have hf (n : Nat) : t.tagFree n = true ↔ ∀ b, t.tags[n]? = some b → b.inUse = false := by
    unfold Team.tagFree
    cases t.tags[n]? <;> simp
  simp only [Team.oldTags, List.all_map, List.all_eq_true, List.mem_range, Function.comp_apply, hf]

end Sys2Proof.Machine
end

section
/-! PROOF of O18. -/

namespace Sys2Proof
open Machine

/-- Settles O18: a fence is one filter of the caches; a batch instruction goes on when its tags are free and blocks otherwise. -/
theorem fencesAndBatches : Obligations.FencesAndBatches := by
  unfold Obligations.FencesAndBatches
  refine ⟨⟨fun ord s t h => execFence_leaves h, fun mask s t h => execPfence_leaves h⟩, ?_, ?_, ?_, ?_⟩
  · intro s t h hf
    exact leaves_of_done h (rfl : _ = execCtcommit s) (by simp only [hf, if_true]; exact congrArg _ (updMe_eq h.1 _)) rfl
  · intro s t h hf hc hs
    exact stands_of_block h (rfl : _ = execCtcommit s) (by simp [hf, copyOutcome_flying hc]) hs
  · intro k s t h hc hj
    refine leaves_of_nothing h (rfl : _ = execCtwait k s) ?_ rfl
    simp only [copyOutcome_flying hc, (oldTags_free_iff t k.toNat).2 hj, if_true]
  · intro k s t j b h hc hj hb hu hs
    have hn : ¬ (t.oldTags k.toNat).all t.tagFree = true := fun hx => by simp [(oldTags_free_iff t k.toNat).1 hx j hj b hb] at hu
    exact stands_of_block h (rfl : _ = execCtwait k s) (by simp only [copyOutcome_flying hc, if_neg hn]) hs

end Sys2Proof
end

section
/-! SUPPORT of O34: the choice of the path that comes in, and the switch. -/

namespace Sys2Proof.Machine

/-- One step of the search of `bestSlot`: slot `i` against the best slot and AGE so far. -/
def olderSlot (s : State) (id : Nat) (t : Team) (best : Option (Nat × Nat)) (i : Nat) : Option (Nat × Nat) :=
  match t.slots[i]? with
  | none => best
  | some p =>
    if slotReady s id t p then
      match best with
      | some (_, age) => if age < p.age then some (i, p.age) else best
      | none => some (i, p.age)
    else best

/-- Among the first `n` slots, `best` names the oldest path that can run, the lowest of equally old ones, with its AGE. -/
def OldestOf (s : State) (id : Nat) (t : Team) (n : Nat) (best : Option (Nat × Nat)) : Prop :=
  match best with
  | none => ∀ j < n, ∀ q, t.slots[j]? = some q → slotReady s id t q = false
  | some (i, age) => (∃ p, t.slots[i]? = some p ∧ slotReady s id t p = true ∧ p.age = age) ∧ i < n ∧
    ∀ j < n, ∀ q, t.slots[j]? = some q → slotReady s id t q = true → q.age ≤ age ∧ (j < i → q.age < age)

theorem oldestOf_skip {s : State} {id : Nat} {t : Team} {n : Nat} {best : Option (Nat × Nat)} (h : OldestOf s id t n best)
    (hn : ∀ q, t.slots[n]? = some q → slotReady s id t q = false) : OldestOf s id t (n + 1) best := by
  match best with
  | none =>
    intro j hj q hq
    rcases Nat.lt_succ_iff_lt_or_eq.1 hj with hj | rfl
    · exact h j hj q hq
    · exact hn q hq
  | some (i, age) =>
    obtain ⟨hp, hi, hall⟩ := h
    refine ⟨hp, by omega, fun j hj q hq hr => ?_⟩
    rcases Nat.lt_succ_iff_lt_or_eq.1 hj with hj | rfl
    · exact hall j hj q hq hr
    · simp [hn q hq] at hr

theorem oldestOf_step {s : State} {id : Nat} {t : Team} {n : Nat} {best : Option (Nat × Nat)} (h : OldestOf s id t n best) :
    OldestOf s id t (n + 1) (olderSlot s id t best n) := by
  unfold olderSlot
  cases hp : t.slots[n]? with
  | none => exact oldestOf_skip h fun q hq => by rw [hp] at hq; cases hq
  | some p =>
    dsimp only
    cases hr : slotReady s id t p with
    | false => exact oldestOf_skip h fun q hq => by rw [hp] at hq; cases hq; exact hr
    | true =>
      simp only [if_true]
      have hnew (hall : ∀ j < n, ∀ q, t.slots[j]? = some q → slotReady s id t q = true → q.age < p.age) :
          OldestOf s id t (n + 1) (some (n, p.age)) := by
        refine ⟨⟨p, hp, hr, rfl⟩, by omega, fun j hj q hq hq' => ?_⟩
        rcases Nat.lt_succ_iff_lt_or_eq.1 hj with hj | rfl
        · exact ⟨(hall j hj q hq hq').le, fun _ => hall j hj q hq hq'⟩
        · rw [hp] at hq; cases hq; exact ⟨le_rfl, fun hlt => absurd hlt (lt_irrefl _)⟩
      match best with
      | none => exact hnew fun j hj q hq hq' => by simp [h j hj q hq] at hq'
      | some (i, age) =>
        obtain ⟨hi, hin, hall⟩ := h
        dsimp only
        split
        · rename_i hlt
          exact hnew fun j hj q hq hq' => (hall j hj q hq hq').1.trans_lt hlt
        · refine ⟨hi, by omega, fun j hj q hq hq' => ?_⟩
          rcases Nat.lt_succ_iff_lt_or_eq.1 hj with hj | rfl
          · exact hall j hj q hq hq'
          · rw [hp] at hq; cases hq; exact ⟨by omega, fun hlt => by omega⟩

theorem oldestOf_range (s : State) (id : Nat) (t : Team) (n : Nat) : OldestOf s id t n ((List.range n).foldl (olderSlot s id t) none) := by
  induction n with
  | zero => exact fun j hj => absurd hj (Nat.not_lt_zero j)
  | succ n ih => rw [List.range_succ, List.foldl_append]; exact oldestOf_step ih

/-- The slot that `bestSlot` names holds the oldest path that can run, and is the lowest slot among equally old ones (R27). -/
theorem bestSlot_oldest {s : State} {id : Nat} {t : Team} {i : Nat} (h : bestSlot s id t = some i) :
    ∃ p, t.slots[i]? = some p ∧ slotReady s id t p = true ∧
      ∀ j q, t.slots[j]? = some q → slotReady s id t q = true → q.age ≤ p.age ∧ (j < i → q.age < p.age) := by
  have hf : ∃ age, (List.range t.slots.length).foldl (olderSlot s id t) none = some (i, age) := by
    unfold bestSlot at h
    obtain ⟨⟨_, age⟩, e, rfl⟩ := Option.map_eq_some_iff.1 (Option.ite_none_left_eq_some.1 h).2
    exact ⟨age, e⟩
  obtain ⟨age, e⟩ := hf
  have ho := oldestOf_range s id t t.slots.length
  rw [e] at ho
  obtain ⟨⟨p, hp, hr, rfl⟩, _, hall⟩ := ho
  exact ⟨p, hp, hr, fun j q hq => hall j (List.getElem?_eq_some_iff.1 hq).1 q hq⟩

theorem bring_of_slot {t : Team} {i : Nat} {p : PathSlot} (h : t.slots[i]? = some p) (old : PathSlot) : t.bring i old =
    { t with
      slots := t.slots.set i old, pc := p.pc, ex := p.mask &&& t.live, level := p.lvl, done := p.done, mark := p.mark, kept := p.kept,
      blk := none, noPath := false, earliest := max t.earliest t.settledAt } := by
  unfold Team.bring
  rw [h]

/-- The switch of a blocked team for the path in the slot that `bestSlot` names. -/
theorem execPathSwitch_blocked {team : Nat} {s : State} {t : Team} {c : Cond} {i : Nat} (h : s.teams.find team = some t) (hi : t.idle = false)
    (hl : t.tlevel = false) (hn : t.noPath = false) (hb : t.blk = some c) (hc : condHolds s team t c = false)
    (hbest : bestSlot s team t = some i) : exec (.pathSwitch team) s =
      .next ((s.setTeam team (t.bring i (t.outgoing (some c)))).trace (t.bring i (t.outgoing (some c)))
        (t.bring i (t.outgoing (some c))).pc 7 i) := by
  have hd : s.switchDue team t = some (i, some c) := by
    unfold State.switchDue
    simp [hi, hl, hn, hb, hc, hbest]
  show execPathSwitch team s = _
  unfold execPathSwitch State.switchPath
  simp only [h, hd, hn]
  rfl

end Sys2Proof.Machine
end

section
/-! PROOF of O34. -/

namespace Sys2Proof
open Machine

/-- Settles O34: the switch exchanges the running path with the slot that `bestSlot` names, and that slot is the oldest ready one. -/
theorem pathSwitches : Obligations.PathSwitches := by
  unfold Obligations.PathSwitches
  refine ⟨fun team s t c i p h hi hl hn hb hc hbest hp => ?_, fun s id t i h => bestSlot_oldest h⟩
  have e := execPathSwitch_blocked h hi hl hn hb hc hbest
  generalize hu : t.bring i (t.outgoing (some c)) = u at e
  have hk := trace_kept (s.setTeam team u) u u.pc 7 i
  rw [bring_of_slot hp] at hu
  refine ⟨_, u, t.outgoing (some c), e, by rw [hk.teams]; exact SMap.find_insert_same _ _ _, ?_⟩
  subst hu
  exact ⟨rfl, rfl, rfl, rfl, rfl, rfl, rfl, rfl, rfl, rfl, rfl, regsAfter_of_files rfl rfl rfl, rfl, rfl, rfl,
    fun hn' a => congrArg (fun m => Memory.read m a) (congrArg State.mem (hk.memory (untraced_of_contexts rfl hn')) :)⟩

end Sys2Proof
end

section
/-! SUPPORT of O19: handles, and what the arrival of a result leaves of a team. -/

namespace Sys2Proof.Machine

theorem handle_class (h : Word) : (h.extractLsb' 29 3).toNat = h.toNat / 2 ^ 29 := by
  rw [BitVec.extractLsb'_toNat, Nat.shiftRight_eq_div_pow, Nat.mod_eq_of_lt]
  exact Nat.div_lt_of_lt_mul h.isLt
theorem handle_slot (h : Word) : (h.extractLsb' 12 17).toNat = h.toNat / 4096 % 131072 := by
  rw [BitVec.extractLsb'_toNat, Nat.shiftRight_eq_div_pow]

theorem handleStatus_badClass (c : Context) {h : Word} (hc : h.toNat / 2 ^ 29 ≠ 1 ∧ h.toNat / 2 ^ 29 ≠ 2) : c.handleStatus h = some 4 := by
  unfold Context.handleStatus
  rw [handle_class, if_neg (by simpa using hc)]
theorem handleStatus_unused {c : Context} {h : Word} (hc : h.toNat / 2 ^ 29 = 1 ∨ h.toNat / 2 ^ 29 = 2)
    (hf : c.futures.find (futKey (h.toNat / 2 ^ 29) (h.toNat / 4096 % 131072)) = none) : c.handleStatus h = some 3 := by
  unfold Context.handleStatus
  rw [handle_class, handle_slot, if_pos (by simpa using hc), hf]
theorem handleStatus_used {c : Context} {h : Word} {f : FutSlot} (hc : h.toNat / 2 ^ 29 = 1 ∨ h.toNat / 2 ^ 29 = 2)
    (hf : c.futures.find (futKey (h.toNat / 2 ^ 29) (h.toNat / 4096 % 131072)) = some f) :
    c.handleStatus h = if f.gen = h.toNat % 4096 then f.status else some 3 := by
  unfold Context.handleStatus
  rw [handle_class, handle_slot, if_pos (by simpa using hc), hf]

theorem Team.land_still (t : Team) (ws : List RegWrite) : (t.land ws).still = t.still := Team.still_puts t ws
theorem Team.land_regs (t : Team) {ws : List RegWrite} {g : News} (hc : Carries ws g) : RegsAfter t (t.land ws) g := hc t
theorem Team.puts_board (ws : List RegWrite) : ∀ t : Team, (t.puts ws).fstat = t.fstat ∧ (t.puts ws).pends = t.pends := by
  induction ws with
  | nil => exact fun _ => ⟨rfl, rfl⟩
  | cons w ws ih =>
    intro t
    obtain ⟨h1, h2⟩ := ih (t.put w)
    obtain ⟨file, n, l, x⟩ := w
    cases file <;> exact ⟨h1, h2⟩

/-- A team's pending entry `serial` has resolved with the new values `g` and the flags `fl`. -/
structure Arrived (t t' : Team) (serial : Nat) (g : News) (fl : BitVec 5) : Prop where
  regs : RegsAfter t t' g
  fstat : t'.fstat = t.fstat ||| fl
  gone : ∀ q ∈ t'.pends, q.serial ≠ serial
  still : t'.still = t.still
  pc : t'.pc = t.pc
  ex : t'.ex = t.ex

theorem not_mem_filter_serial (ps : List Pend) (serial : Nat) : ∀ q ∈ ps.filter (·.serial != serial), q.serial ≠ serial :=
  fun q h => by simpa using (List.mem_filter.1 h).2

theorem wakeSgets_serial {t : Team} {p q : Pend} (h : q ∈ (t.wakeSgets p).pends) : ∃ q' ∈ t.pends, q.serial = q'.serial := by
  unfold Team.wakeSgets at h
  obtain ⟨q', hq, rfl⟩ := List.mem_map.1 h
  refine ⟨q', hq, ?_⟩
  split
  · split <;> rfl
  · rfl

theorem Arrived.wakeSgets {t u : Team} {serial : Nat} {g : News} {fl : BitVec 5} (h : Arrived t u serial g fl) (p : Pend) :
    Arrived t (u.wakeSgets p) serial g fl where
  regs := fun f n l hl => (reg_eq rfl rfl rfl f n l).trans (h.regs f n l hl)
  fstat := h.fstat
  gone := fun _ hq => by
    obtain ⟨q', hq', e⟩ := wakeSgets_serial hq
    rw [e]; exact h.gone q' hq'
  still := (show (u.wakeSgets p).still = u.still from rfl).trans h.still
  pc := h.pc
  ex := h.ex

/-- Landing nothing changes only which older results are still awaited. -/
theorem Team.land_nil (t : Team) : ∃ fs, t.land [] = { t with inflight := fs } := ⟨_, rfl⟩

theorem arrive_values {t : Team} {serial : Nat} {p : Pend} {ws : List RegWrite} {fl : BitVec 5} {g : News} (hp : t.pend? serial = some p)
    (hd : p.data = .values ws fl) (ha : p.after = []) (hc : Carries ws g) : Arrived t (t.arrive serial) serial g fl := by
  have hpc : (t.land ws).pc = t.pc := (puts_path ws t).1
  have hex : (t.land ws).ex = t.ex := (puts_path ws t).2.1
  have hr := t.land_regs hc
  have hs := t.land_still ws
  unfold Team.arrive
  simp only [hp, hd, ha]
  generalize t.land ws = u at *
  obtain ⟨fs, e⟩ := u.land_nil
  rw [e]
  refine Arrived.wakeSgets ?_ p
  exact ⟨hr, rfl, not_mem_filter_serial _ _, hs, hpc, hex⟩

theorem arrive_arriving {t : Team} {serial : Nat} {p : Pend} (hp : t.pend? serial = some p) (hd : p.data = .arriving) (ha : p.after = []) :
    Arrived t (t.arrive serial) serial newNothing 0 := by
  unfold Team.arrive
  simp only [hp, hd, ha]
  refine Arrived.wakeSgets ?_ p
  exact ⟨regsAfter_of_files rfl rfl rfl, BitVec.or_zero.symm, not_mem_filter_serial _ _, rfl, rfl, rfl⟩

theorem carries_one (n : Nat) (x : Word) : Carries [⟨.s, n, 0, x⟩] (fun file k _ => if file = .s ∧ k = n then some x else none) := by
  intro t file k l hl
  simp only [Team.puts, List.foldl_cons, List.foldl_nil]
  rw [Team.reg_put t _ file k l (Nat.zero_lt_succ 1023) hl]
  cases file <;> simp
  split <;> rfl

theorem arrive_flagsOf {t : Team} {serial : Nat} {p : Pend} {fl : BitVec 5} (hp : t.pend? serial = some p) (hd : p.data = .flagsOf fl)
    (ha : p.after = []) : Arrived t (t.arrive serial) serial (fun file n _ => if file = .s ∧ n = p.n then some (fl.setWidth 32) else none) 0 := by
  obtain ⟨hpc, hex, _⟩ := puts_path [⟨.s, p.n, 0, fl.setWidth 32⟩] t
  unfold Team.arrive
  simp only [hp, hd, ha]
  exact ⟨t.land_regs (carries_one p.n _), (Team.puts_board _ t).1.trans BitVec.or_zero.symm, not_mem_filter_serial _ _, t.land_still _, hpc, hex⟩

theorem serial_of_pend? {t : Team} {serial : Nat} {p : Pend} (h : t.pend? serial = some p) : p.serial = serial := by
  simpa using List.find?_some h

theorem resolve_arriving {team serial : Nat} {s : State} {t : Team} {p : Pend} (h : s.teams.find team = some t) (hp : t.pend? serial = some p)
    (hd : p.data = .arriving ∨ ∃ fl, p.data = .flagsOf fl) : exec (.resultResolve team serial) s =
      .next (if s.resolvable team t p then s.updTeam team fun t => t.arrive serial else s) := by
  show execResultResolve team serial s = _
  unfold execResultResolve
  rcases hd with hd | ⟨fl, hd⟩ <;> simp only [h, hp, hd]

theorem resolve_values {team serial : Nat} {s : State} {t : Team} {p : Pend} {ws : List RegWrite} {fl : BitVec 5} (h : s.teams.find team = some t)
    (hp : t.pend? serial = some p) (hd : p.data = .values ws fl) : exec (.resultResolve team serial) s =
      .next (if p.reason = 6 then (s.updTeam team fun t => t.arrive serial).acquire t else s.updTeam team fun t => t.arrive serial) := by
  show execResultResolve team serial s = _
  unfold execResultResolve
  simp only [h, hp, hd]

/-- An acquire leaves no generic line of the team's L1. -/
theorem acquire_caches (s : State) (t : Team) : ∀ l ∈ (s.acquire t).caches, ¬ (l.kind = .l1 ∧ l.unit ∈ s.l1Units t ∧ l.ctx = t.ctx) := by
  intro l hl hx
  obtain ⟨hk, hu, hc⟩ := hx
  have := (List.mem_filter.1 (show l ∈ s.caches.filter _ from hl)).2
  simp [hk, hu, hc] at this

theorem l1Units_updTeam (s : State) (id : Nat) (f : Team → Team) (t : Team) : (s.updTeam id f).l1Units t = s.l1Units t := by
  unfold State.l1Units State.gangOf
  rw [State.updTeam_gangs]

theorem resolvable_arriving_iff {s : State} {id : Nat} {t : Team} {p : Pend} (hd : p.data = .arriving) : s.resolvable id t p = true ↔
    (∀ o ∈ s.traffic, ¬ (o.team = id ∧ o.group = p.serial)) ∧ t.inPart p.serial = false := by
  unfold State.resolvable
  simp [hd, -not_and, not_and_or]

theorem resolvable_flagsOf {s : State} {id : Nat} {t : Team} {p : Pend} {fl : BitVec 5} (hd : p.data = .flagsOf fl)
    (h : ∀ o ∈ s.traffic, o.team = id → o.dest.isSome = true → p.serial ≤ o.group) : s.resolvable id t p = true := by
  unfold State.resolvable
  simp only [hd, List.all_eq_true]
  intro o ho
  by_cases hx : o.team = id ∧ o.dest.isSome = true
  · simp [hx, h o ho hx.1 hx.2]
  · have : (o.team == id && o.dest.isSome) = false := by simpa using hx
    simp [this]

theorem rawHandle_none {t : Team} {a : RegNo} (h : t.pendOf .s a.toNat = none) : rawHandle t a = none := by
  unfold rawHandle; rw [h]
theorem rawHandle_future {t : Team} {a : RegNo} {p : Pend} (h : t.pendOf .s a.toNat = some p) (hp : p.isFuture = true) : rawHandle t a = none := by
  unfold rawHandle; simp only [h, hp, if_true]

theorem execFwait_resolved {d a : RegNo} {s : State} {t : Team} {c : Context} {st : Word} (h : Issues s t (.fwait d a))
    (ho : s.overfull (.fwait d a) = false) (hr : rawHandle t a = none) (hc : s.contexts.find t.ctx = some c)
    (hs : c.handleStatus ((t.viewAt s.clk).S a.toNat) = some st) : Awaits s t (.fwait d a) 6 (newUni d st) 0 := by
  have he : exec (.fwait d a) s = execFwait d a s := rfl
  unfold execFwait at he
  exact awaits_of_later h he (by simp only [hr, hc, hs]; rfl) (BodyKept.refl s) rfl (carries_uniWrite d st) ho

/-- `u` is `t` with new register values and perhaps another scoreboard. -/
structure OnlyRegs (t u : Team) (g : News) : Prop where
  regs : RegsAfter t u g
  still : u.still = t.still
  fstat : u.fstat = t.fstat
  pc : u.pc = t.pc
  ex : u.ex = t.ex
  slots : u.slots = t.slots
  level : u.level = t.level
  tlevel : u.tlevel = t.tlevel
  yielded : u.yielded = t.yielded

theorem OnlyRegs.stepsOn {t u t' : Team} {g : News} {i : Instr} (h : OnlyRegs t u g) (hs : StepsOn i u t') : StepsOn i t t' := fun q => by
  obtain ⟨k1, k2, k3⟩ := hs (noSwitch_of h.slots h.tlevel h.yielded q)
  exact ⟨k1.trans (by rw [h.pc]), k2.trans h.ex, k3.trans h.level⟩

theorem onlyRegs_landS (t : Team) (d : RegNo) (x : Word) : OnlyRegs t (t.landS d.toNat x) (newUni d x) := by
  obtain ⟨hpc, hex, hsl, hlv, htl, hy⟩ := puts_path [⟨.s, d.toNat, 0, x⟩] t
  exact ⟨t.land_regs (carries_uniWrite d x), t.land_still _, (Team.puts_board _ t).1, hpc, hex, hsl, hlv, htl, hy⟩

/-- A slot that leaves a pending future in `d`: the handle stands in the register, and the register waits for what it resolves to (R22). -/
theorem pends_of_handle {s s1 : State} {t u : Team} {i : Instr} (h : Issues s t i) {body : (r t : Team) → State → Res} {d : RegNo} {x : Word}
    (he : exec i s = slot i body s) (hb : body (t.viewAt s.clk) t s = .later s1 6 .future) (hm : s1.me = some u) (hc : s1.cur = s.cur)
    (hu : OnlyRegs t u (newUni d x)) (hw : i.writes = [⟨.s, d.toNat, 1, false⟩]) (ho : s.overfull i = false) :
    ∃ s' t' p, exec i s = .next s' ∧ s'.teams.find s.cur = some t' ∧ RegsAfter t t' (newUni d x) ∧ p ∈ t'.pends ∧ p.file = .s ∧
      p.n = d.toNat ∧ p.cnt = 1 ∧ p.data = .future ∧ t'.fstat = t.fstat ∧ t'.still = t.still ∧ StepsOn i t t' ∧ RestKept s1 s' u := by
  obtain ⟨s', t', h1, h2, h3, hv, hs, hp, hf, hst, hon, hk⟩ := pends_of_later h he hb hm hc hw ho
  exact ⟨s', t', _, h1, h2, fun f n l hl => (reg_eq hv hs hp f n l).trans (hu.regs f n l hl), h3, rfl, rfl, rfl, rfl, hf.trans hu.fstat,
    hst.trans hu.still, hu.stepsOn hon, hk⟩

theorem execFwait_pending {d a : RegNo} {s : State} {t : Team} {c : Context} (h : Issues s t (.fwait d a))
    (ho : s.overfull (.fwait d a) = false) (hr : rawHandle t a = none) (hc : s.contexts.find t.ctx = some c)
    (hs : c.handleStatus ((t.viewAt s.clk).S a.toNat) = none) : ∃ s' t' q, exec (.fwait d a) s = .next s' ∧ s'.teams.find s.cur = some t' ∧
      RegsAfter t t' (newUni d ((t.viewAt s.clk).S a.toNat)) ∧ q ∈ t'.pends ∧ q.file = .s ∧ q.n = d.toNat ∧ q.cnt = 1 ∧ q.data = .future ∧
      t'.fstat = t.fstat ∧ t'.still = t.still ∧ StepsOn (.fwait d a) t t' ∧ RestKept s s' t := by
  have he : exec (.fwait d a) s = execFwait d a s := rfl
  unfold execFwait at he
  have hu := onlyRegs_landS t d ((t.viewAt s.clk).S a.toNat)
  obtain ⟨s', t', q, h1, h2, h3, h4, h5, h6, h7, h8, h9, h10, h11, hk⟩ := pends_of_handle (d := d) (x := (t.viewAt s.clk).S a.toNat)
    (s1 := s.setTeam s.cur (t.landS d.toNat ((t.viewAt s.clk).S a.toNat))) h he (by simp only [hr, hc, hs, updMe_eq h.1])
    (State.setTeam_me s _) rfl hu rfl ho
  exact ⟨s', t', q, h1, h2, h3, h4, h5, h6, h7, h8, h9, h10, h11, hk.of_setTeam (still_kernel hu.still)⟩

theorem execFtest_free {d a : RegNo} {s : State} {t : Team} {c : Context} (h : Issues s t (.ftest d a)) (hp : t.pendOf .s a.toNat = none)
    (hc : s.contexts.find t.ctx = some c) :
    Gives s t (.ftest d a) (newUni d (if (c.handleStatus ((t.viewAt s.clk).S a.toNat)).isSome then 1 else 0)) 0 := by
  have he : exec (.ftest d a) s = execFtest d a s := rfl
  unfold execFtest at he
  exact gives_of_fixed (lat := 2) h he (by simp only [rawHandle_none hp, hc, hp]) (carries_uniWrite d _)

theorem execFtest_pending {d a : RegNo} {s : State} {t : Team} {c : Context} {p : Pend} (h : Issues s t (.ftest d a))
    (ho : s.overfull (.ftest d a) = false) (hp : t.pendOf .s a.toNat = some p) (hf : p.isFuture = true) (hc : s.contexts.find t.ctx = some c) :
    Awaits s t (.ftest d a) 13 (newUni d (if (c.handleStatus ((t.viewAt s.clk).S a.toNat)).isSome then 1 else 0)) 0 := by
  have he : exec (.ftest d a) s = execFtest d a s := rfl
  unfold execFtest at he
  exact awaits_of_later h he (by simp only [rawHandle_future hp hf, hc, hp]; rfl) (BodyKept.refl s) rfl (carries_uniWrite d _) ho

end Sys2Proof.Machine
end

section
/-! PROOF of O19. -/

namespace Sys2Proof
open Machine

/-- Settles O19: handles by their class and slot, `fwait` and `ftest` by what the handle has come to, arrivals by `Arrived`. -/
theorem futures : Obligations.Futures := by
  unfold Obligations.Futures
  refine ⟨⟨fun c h => ⟨handleStatus_badClass c, fun hc => ⟨handleStatus_unused hc, fun f hf => handleStatus_used hc hf⟩⟩,
    fun d a s t c st h ho hr hc hs => execFwait_resolved h ho hr hc hs, fun d a s t c h ho hr hc hs => execFwait_pending h ho hr hc hs,
    fun d a s t c h hp hc => execFtest_free h hp hc, fun d a s t c p h ho hp hf hc => execFtest_pending h ho hp hf hc⟩, ?_, ?_, ?_⟩
  · intro team serial s t p ws fl g h hp hd ha hc
    have r := arrive_values hp hd ha hc
    have hf := State.updTeam_find (fun t => t.arrive serial) h
    have hn := fun k => State.updTeam_find_ne s (id := team) (k := k) fun t => t.arrive serial
    have e := resolve_values h hp hd
    by_cases h6 : p.reason = 6
    · rw [if_pos h6] at e
      refine ⟨_, _, e, hf, r.regs, r.fstat, r.gone, r.still, r.pc, r.ex, hn, by simp, fun hx => absurd h6 hx, fun _ => ?_⟩
      rw [← l1Units_updTeam s team fun t => t.arrive serial]
      exact acquire_caches _ t
    · rw [if_neg h6] at e
      exact ⟨_, _, e, hf, r.regs, r.fstat, r.gone, r.still, r.pc, r.ex, hn, by simp, fun _ => by simp, fun hx => absurd hx h6⟩
  · intro team serial s t p h hp hd ha
    have e := resolve_arriving h hp (.inl hd)
    have hi := resolvable_arriving_iff (s := s) (id := team) (t := t) hd
    rw [serial_of_pend? hp] at hi
    refine ⟨fun hpart htr => ?_, fun ⟨o, ho, hx⟩ => ?_⟩
    · rw [if_pos (hi.2 ⟨htr, hpart⟩)] at e
      have r := arrive_arriving hp hd ha
      exact ⟨_, _, e, State.updTeam_find _ h, r.regs, r.fstat.trans BitVec.or_zero, r.gone, r.still, r.pc,
        fun k hk => State.updTeam_find_ne s _ hk, by simp⟩
    · rw [if_neg fun hx' => (hi.1 hx').1 o ho hx] at e
      exact e
  · intro team serial s t p fl h hp hd ha htr
    have e := resolve_arriving h hp (.inr ⟨fl, hd⟩)
    rw [if_pos (resolvable_flagsOf hd (by rw [serial_of_pend? hp]; exact htr))] at e
    have r := arrive_flagsOf hp hd ha
    exact ⟨_, _, e, State.updTeam_find _ h, r.regs, r.fstat.trans BitVec.or_zero, r.gone, r.still, r.pc, by simp⟩

end Sys2Proof
end

section
/-! SUPPORT of O37: what an engine's read of memory depends on, the acceptance of a command, and the choice of a grid's identifier. -/

namespace Sys2Proof.Machine

/-- Two states in which memory reads the same through every context's translation. -/
structure ReadsAlike (s s' : State) : Prop where
  contexts : s'.contexts = s.contexts
  partitions : s'.partitions = s.partitions
  frames : s'.frames = s.frames
  translations : s'.translations = s.translations
  poison : s'.poison = s.poison
  mem : s'.mem = s.mem

section
variable {s s' : State}

theorem ReadsAlike.context? (h : ReadsAlike s s') (ctx : Nat) : s'.context? ctx = s.context? ctx := by
  unfold State.context?; rw [h.contexts]
theorem ReadsAlike.inRanges (h : ReadsAlike s s') (ctx pa n : Nat) : s'.inRanges ctx pa n = s.inRanges ctx pa n := by
  unfold State.inRanges State.partitionOf; rw [h.contexts, h.partitions]
theorem ReadsAlike.readNat (h : ReadsAlike s s') (pa n : Nat) : s'.readNat pa n = s.readNat pa n := by
  unfold State.readNat State.readBytes; rw [h.mem]
theorem ReadsAlike.walkFrom (h : ReadsAlike s s') (ctx va fuel : Nat) : ∀ level table g64,
    s'.walkFrom ctx va fuel level table g64 = s.walkFrom ctx va fuel level table g64 := by
  induction fuel with
  | zero => exact fun _ _ _ => rfl
  | succ fuel ih =>
    intro level table g64
    unfold State.walkFrom
    simp only [h.inRanges, h.readNat, ih]
theorem ReadsAlike.walk (h : ReadsAlike s s') (ctx va : Nat) : s'.walk ctx va = s.walk ctx va := by
  unfold State.walk; simp only [h.contexts, h.walkFrom]
theorem ReadsAlike.checkPage (h : ReadsAlike s s') (c : Context) (x : Translation) (va : Nat) (a : Access) :
    s'.checkPage c x va a = s.checkPage c x va a := by
  unfold State.checkPage; rw [h.frames]
theorem ReadsAlike.lookVia (h : ReadsAlike s s') (unit : Option Nat) (ctx va : Nat) (a : Access) :
    s'.lookVia unit ctx va a = s.lookVia unit ctx va a := by
  unfold State.lookVia State.lookWalk; simp only [h.context?, h.translations, h.checkPage, h.walk]
theorem ReadsAlike.readVia (h : ReadsAlike s s') (unit : Option Nat) (ctx n : Nat) : ∀ va,
    s'.readVia unit ctx va n = s.readVia unit ctx va n := by
  induction n with
  | zero => exact fun _ => rfl
  | succ n ih =>
    intro va
    unfold State.readVia
    simp only [h.lookVia, ih, h.mem]
theorem ReadsAlike.barsVia (h : ReadsAlike s s') (unit : Option Nat) (ctx va n : Nat) (a : Access) :
    s'.barsVia unit ctx va n a = s.barsVia unit ctx va n a := by
  unfold State.barsVia; simp only [h.lookVia]
theorem ReadsAlike.poisonVia (h : ReadsAlike s s') (unit : Option Nat) (ctx va n : Nat) :
    s'.poisonVia unit ctx va n = s.poisonVia unit ctx va n := by
  unfold State.poisonVia State.poisoned; simp only [h.lookVia, h.poison]
theorem ReadsAlike.engineRead (h : ReadsAlike s s') (unit : Option Nat) (ctx va n : Nat) :
    s'.engineRead unit ctx va n = s.engineRead unit ctx va n := by
  unfold State.engineRead; simp only [h.barsVia, h.poisonVia, h.readVia]
theorem ReadsAlike.readHeader (h : ReadsAlike s s') (ctx kbase : Nat) : s'.readHeader ctx kbase = s.readHeader ctx kbase := by
  unfold State.readHeader; simp only [h.engineRead]

end

/-- The state with the records of its channels replaced. -/
def State.withChannels (s : State) (cs : SMap Channel) : State := { s with channels := cs }
theorem readsAlike_withChannels (s : State) (cs : SMap Channel) : ReadsAlike s (s.withChannels cs) := ⟨rfl, rfl, rfl, rfl, rfl, rfl⟩

/-- A command that its channel accepts is performed; only the channel's own record differs around it (R491). -/
theorem hostCommand_accepts {s : State} {ch seq : Nat} (h : Accepts s ch seq) (body : State → State) :
    ∃ cs cs', s.hostCommand ch seq body = (body (s.withChannels cs)).withChannels cs' := by
  obtain ⟨hr, hd, ho⟩ := h
  unfold State.hostCommand
  simp only [hr, hd, ho, Bool.not_true, Bool.false_eq_true, if_false, if_true]
  exact ⟨_, _, rfl⟩

/-- The identifiers of the live grids of a context. -/
def State.gridsLive (s : State) (ctx : Nat) : List Nat :=
  (s.grids.filter fun (p : Nat × Grid) => p.2.ctx == ctx).map fun (p : Nat × Grid) => p.2.id
/-- The identifiers that the search of `State.freeGrid` tries. -/
def State.gridsTried (s : State) (ctx start : Nat) : List Nat := (List.range ((s.gridsLive ctx).length + 1)).map fun k => (start + k) % 0xFFFFFE

theorem freeGrid_eq (s : State) (ctx start : Nat) :
    s.freeGrid ctx start = ((s.gridsTried ctx start).find? fun k => !(s.gridsLive ctx).contains k).getD 0 := rfl

theorem freeGrid_lt (s : State) (ctx start : Nat) : s.freeGrid ctx start < 0xFFFFFE := by
  rw [freeGrid_eq]
  cases hf : (s.gridsTried ctx start).find? fun k => !(s.gridsLive ctx).contains k with
  | none => decide
  | some k =>
    obtain ⟨j, _, rfl⟩ := List.mem_map.1 (List.mem_of_find?_eq_some hf)
    exact Nat.mod_lt _ (by decide)

/-- Fewer tries than there are identifiers are all different. -/
theorem gridsTried_nodup {s : State} {ctx : Nat} (h : (s.gridsLive ctx).length < 0xFFFFFE) (start : Nat) : (s.gridsTried ctx start).Nodup := by
  refine List.Nodup.map_on (fun i hi j hj e => ?_) List.nodup_range
  rw [List.mem_range] at hi hj
  omega

/-- While a context has fewer live grids than there are identifiers, a new grid takes one that none of them has (R326). -/
theorem freeGrid_unused {s : State} {ctx : Nat} (h : s.grids.length < 0xFFFFFE) (start : Nat) :
    ∀ x ∈ s.grids, x.2.ctx = ctx → x.2.id ≠ s.freeGrid ctx start := by
  have hl : (s.gridsLive ctx).length < 0xFFFFFE := by
    rw [State.gridsLive, List.length_map]
    exact (List.length_filter_le _ _).trans_lt h
  intro x hx hc he
  have hm : s.freeGrid ctx start ∈ s.gridsLive ctx := by
    rw [← he]
    exact List.mem_map.2 ⟨x, List.mem_filter.2 ⟨hx, by simp [hc]⟩, rfl⟩
  rw [freeGrid_eq] at hm
  cases hf : (s.gridsTried ctx start).find? fun k => !(s.gridsLive ctx).contains k with
  | some k =>
    rw [hf] at hm
    have := List.find?_some hf
    simp [show k ∈ s.gridsLive ctx from hm] at this
  | none =>
    have hs : s.gridsTried ctx start ⊆ s.gridsLive ctx := fun k hk => by simpa using List.find?_eq_none.1 hf k hk
    have hlen := ((gridsTried_nodup hl start).subperm hs).length_le
    rw [State.gridsTried, List.length_map, List.length_range] at hlen
    omega

theorem context?_live {s : State} {ctx : Nat} {c : Context} (h : s.contexts.find ctx = some c) (hc : c.configured = true) (ht : c.terminated = false) :
    s.context? ctx = some c := by
  unfold State.context?; simp [h, hc, ht]
theorem context?_terminated {s : State} {ctx : Nat} {c : Context} (h : s.contexts.find ctx = some c) (ht : c.terminated = true) :
    s.context? ctx = none := by
  unfold State.context?; simp [h, ht]
theorem configured_of_owns {s : State} {ch ctx : Nat} {c : Context} (h : s.contexts.find ctx = some c) (ho : s.owns ch ctx = true) :
    c.configured = true := by
  unfold State.owns at ho
  simp only [h, Bool.and_eq_true] at ho
  exact ho.1

/-- The values of a launch that R326 permits before its kernel is read. -/
def launchValues (kbase gangs prio param swap : Nat) : Prop :=
  kbase % 128 = 0 ∧ gangs ≠ 0 ∧ gangs ≤ 2 ^ 24 ∧ prio ≤ 7 ∧ param % 8 = 0 ∧ param < 2 ^ 64 ∧ swap % 4096 = 0

/-- The grid that a launch makes under an identifier. -/
def State.gridOf (s : State) (c : Context) (h : Header) (ctx id gangs tail prio : Nat) (param : DWord) (swap : Nat) : Grid :=
  ⟨ctx, c.part, id, s.serial, prio, gangs, tail, param, swap, h.pref, h.fall, h.check, h.roles, h.kernel, 0, 0, false⟩

section
variable {s : State} {ctx seq kbase gangs tail prio param swap : Nat} {c : Context}

theorem launch_terminated (hc : s.context? ctx = none) (x : DWord) : s.launch seq ctx kbase gangs tail prio x swap = s.launchError ctx seq 3 := by
  unfold State.launch; rw [hc]

theorem launch_badValues (hc : s.context? ctx = some c) (hp : param < 2 ^ 64) (hv : ¬ launchValues kbase gangs prio param swap) :
    s.launch seq ctx kbase gangs tail prio (BitVec.ofNat 64 param) swap = s.launchError ctx seq 4 := by
  have hx : ((kbase % 128 ≠ 0 || gangs = 0 || decide (2 ^ 24 < gangs) || decide (7 < prio) || (BitVec.ofNat 64 param).toNat % 8 ≠ 0 ||
      swap % 4096 ≠ 0 : Bool)) = true := by
    rw [BitVec.toNat_ofNat, Nat.mod_eq_of_lt hp]
    unfold launchValues at hv
    simp only [Bool.or_eq_true, decide_eq_true_eq]
    omega
  unfold State.launch
  simp only [hc]
  rw [if_pos hx]

/-- A launch with permitted values goes by what the kernel's header reads as. -/
theorem launch_values (hc : s.context? ctx = some c) (hv : launchValues kbase gangs prio param swap) :
    (s.readHeader ctx kbase = .bad → s.launch seq ctx kbase gangs tail prio (BitVec.ofNat 64 param) swap = s.launchError ctx seq 1) ∧
    ∀ h, s.readHeader ctx kbase = .ok h → (tail = 0 ∨ tail < (h.roles.headD ⟨0, 0, 0, 0, false, 0⟩).lanes) →
      (h.fitsEmpty = false → s.launch seq ctx kbase gangs tail prio (BitVec.ofNat 64 param) swap = s.launchError ctx seq 2) ∧
      (h.fitsEmpty = true → ∃ id, id = s.freeGrid ctx (Config.gridId s.tick % 0xFFFFFE) ∧
        s.launch seq ctx kbase gangs tail prio (BitVec.ofNat 64 param) swap =
          { s with
            tick := s.tick + 1, serial := s.serial + 1
            grids := s.grids.insert (gridKey ctx id) (s.gridOf c h ctx id gangs tail prio (BitVec.ofNat 64 param) swap) }) := by
  obtain ⟨h1, h2, h3, h4, h5, h6, h7⟩ := hv
  have hx : ((kbase % 128 ≠ 0 || gangs = 0 || decide (2 ^ 24 < gangs) || decide (7 < prio) || (BitVec.ofNat 64 param).toNat % 8 ≠ 0 ||
      swap % 4096 ≠ 0 : Bool)) = false := by
    rw [BitVec.toNat_ofNat, Nat.mod_eq_of_lt h6]
    simp only [Bool.or_eq_false_iff, decide_eq_false_iff_not]
    omega
  unfold State.launch
  simp only [hc]
  rw [if_neg (by rw [hx]; decide)]
  refine ⟨fun hr => by rw [hr], fun h hr ht => ?_⟩
  have hy : (tail ≠ 0 && decide ((h.roles.headD ⟨0, 0, 0, 0, false, 0⟩).lanes ≤ tail) : Bool) = false := by
    simp only [Bool.and_eq_false_iff, decide_eq_false_iff_not]
    omega
  simp only [hr]
  rw [if_neg (by rw [hy]; decide)]
  exact ⟨fun hf => by rw [hf]; rfl, fun hf => ⟨_, rfl, by rw [hf]; rfl⟩⟩

end

end Sys2Proof.Machine
end

section
/-! PROOF of O37. -/

namespace Sys2Proof.Machine

section
variable {ch seq ctx kbase gangs tail prio param swap : Nat} {s : State} {c : Context}

/-- A launch on a context that the partition owns is `State.launch` on a state that differs in its channels alone. -/
theorem exec_launch (h : Accepts s ch seq) (ho : s.owns ch ctx = true) : ∃ cs cs', exec (.launch ch seq ctx kbase gangs tail prio param swap) s =
    .next (((s.withChannels cs).launch seq ctx kbase gangs tail prio (BitVec.ofNat 64 param) swap).withChannels cs') := by
  obtain ⟨cs, cs', e⟩ := hostCommand_accepts h fun s =>
    if s.owns ch ctx then s.launch seq ctx kbase gangs tail prio (BitVec.ofNat 64 param) swap else s.reply ch 2 ctx [BitVec.ofNat 64 seq, 4]
  refine ⟨cs, cs', ?_⟩
  show execLaunch ch seq ctx kbase gangs tail prio param swap s = _
  unfold execLaunch
  rw [e, if_pos (show (s.withChannels cs).owns ch ctx = true from ho)]

theorem exec_launch_unowned (h : Accepts s ch seq) (ho : s.owns ch ctx = false) :
    ∃ cs ms, exec (.launch ch seq ctx kbase gangs tail prio param swap) s = .next { s with channels := cs, sent := ms } := by
  obtain ⟨cs, cs', e⟩ := hostCommand_accepts h fun s =>
    if s.owns ch ctx then s.launch seq ctx kbase gangs tail prio (BitVec.ofNat 64 param) swap else s.reply ch 2 ctx [BitVec.ofNat 64 seq, 4]
  have ho' : ¬ (s.withChannels cs).owns ch ctx = true := by
    rw [show (s.withChannels cs).owns ch ctx = s.owns ch ctx from rfl, ho]; decide
  have hx : exec (.launch ch seq ctx kbase gangs tail prio param swap) s = execLaunch ch seq ctx kbase gangs tail prio param swap s := rfl
  unfold execLaunch at hx
  rw [e, if_neg ho'] at hx
  unfold State.reply at hx
  rw [if_neg ho'] at hx
  exact ⟨_, _, hx⟩

/-- A launch that is rejected raises its event and makes no grid. -/
theorem launch_rejected {cause : Nat} (h : Accepts s ch seq) (hc : s.contexts.find ctx = some c) (ho : s.owns ch ctx = true)
    (hl : ∀ s' : State, ReadsAlike s s' → s'.launch seq ctx kbase gangs tail prio (BitVec.ofNat 64 param) swap = s'.launchError ctx seq cause) :
    ∃ s', exec (.launch ch seq ctx kbase gangs tail prio param swap) s = .next s' ∧
      Raises s s' ctx 2 [BitVec.ofNat 64 seq, BitVec.ofNat 64 cause] ∧ s'.grids = s.grids := by
  obtain ⟨cs, cs', e⟩ := exec_launch (kbase := kbase) (gangs := gangs) (tail := tail) (prio := prio) (param := param) (swap := swap) h ho
  rw [hl _ (readsAlike_withChannels s cs)] at e
  refine ⟨_, e, (raises_raise (s := s.withChannels cs) hc 2 _).mono rfl rfl rfl rfl, ?_⟩
  exact State.raise_grids (s.withChannels cs) ctx 2 _

end

end Sys2Proof.Machine

namespace Sys2Proof
open Machine

/-- Settles O37: a launch makes a grid or raises its event by the branches of `State.launch`, on a state that reads memory alike. -/
theorem launches : Obligations.Launches := by
  unfold Obligations.Launches
  refine ⟨fun ch seq ctx kbase gangs tail prio param swap s h ho => ?_, fun ch seq ctx kbase gangs tail prio param swap s c h hc ho => ?_⟩
  · obtain ⟨cs, ms, e⟩ := exec_launch_unowned (kbase := kbase) (gangs := gangs) (tail := tail) (prio := prio) (param := param) (swap := swap) h ho
    exact ⟨_, e, rfl, rfl, rfl, rfl, rfl⟩
  have hcf := configured_of_owns hc ho
  have hlive (ht : c.terminated = false) {s' : State} (r : ReadsAlike s s') : s'.context? ctx = some c := by
    rw [r.context?]; exact context?_live hc hcf ht
  refine ⟨fun hd ht hv hr htail hf => ?_, fun ht hv hr => ?_, fun hd ht hv hr htail hf => ?_, fun ht => ?_, fun ht hp hv => ?_⟩
  · obtain ⟨cs, cs', e⟩ := exec_launch (kbase := kbase) (gangs := gangs) (tail := tail) (prio := prio) (param := param) (swap := swap) h ho
    have r := readsAlike_withChannels s cs
    obtain ⟨id, hid, el⟩ := ((launch_values (seq := seq) (hlive ht r) hv).2 hd ((r.readHeader ctx kbase).trans hr) htail).2 hf
    rw [el] at e
    refine ⟨_, State.gridOf (s.withChannels cs) c hd ctx id gangs tail prio (BitVec.ofNat 64 param) swap, e, SMap.find_insert_same _ _ _,
      by rw [State.gridOf, hid]; exact freeGrid_lt _ _ _, fun hn x hx hxc => ?_, rfl, rfl, rfl, rfl, rfl, rfl, rfl, rfl, rfl, rfl, rfl, rfl, rfl,
      rfl, rfl, rfl⟩
    rw [State.gridOf, hid]
    exact freeGrid_unused (s := s.withChannels cs) hn _ x hx hxc
  · exact launch_rejected h hc ho fun s' r => (launch_values (hlive ht r) hv).1 ((r.readHeader ctx kbase).trans hr)
  · exact launch_rejected h hc ho fun s' r => ((launch_values (hlive ht r) hv).2 hd ((r.readHeader ctx kbase).trans hr) htail).1 hf
  · exact launch_rejected h hc ho fun s' r => launch_terminated (by rw [r.context?]; exact context?_terminated hc ht) _
  · exact launch_rejected h hc ho fun s' r => launch_badValues (hlive ht r) hp hv

end Sys2Proof
end

section
/-! SUPPORT of O40: which operations keep the set of teams, though they change teams. -/

namespace Sys2Proof.Machine

/-- The state has the same teams, each perhaps changed. -/
def KeepsTeams (s s' : State) : Prop := ∀ k, (s'.teams.find k).isSome = (s.teams.find k).isSome

theorem KeepsTeams.refl (s : State) : KeepsTeams s s := fun _ => rfl
theorem KeepsTeams.trans {a b c : State} (h : KeepsTeams a b) (k : KeepsTeams b c) : KeepsTeams a c := fun i => (k i).trans (h i)
theorem KeepsTeams.of_teams {s s' : State} (h : s'.teams = s.teams) : KeepsTeams s s' := fun k => by rw [h]

theorem isSome_find_insert {α : Type} {m : SMap α} {i : Nat} {x : α} (y : α) (h : m.find i = some x) (k : Nat) :
    ((m.insert i y).find k).isSome = (m.find k).isSome := by
  by_cases hk : k = i
  · rw [hk, SMap.find_insert_same, h]; rfl
  · rw [SMap.find_insert_ne _ _ hk]
theorem isSome_find_map {α : Type} (m : SMap α) (f : Nat × α → Nat × α) (hf : ∀ p, (f p).1 = p.1) (k : Nat) :
    (SMap.find (m.map f) k).isSome = (m.find k).isSome := by
  induction m with
  | nil => rfl
  | cons p m ih =>
    obtain ⟨i, x⟩ := p
    rw [List.map_cons, show f (i, x) = (i, (f (i, x)).2) from Prod.ext (hf _) rfl]
    simp only [SMap.find]
    split
    · rfl
    · exact ih

theorem keepsTeams_setTeam {s : State} {id : Nat} {t : Team} (h : s.teams.find id = some t) (u : Team) : KeepsTeams s (s.setTeam id u) :=
  isSome_find_insert u h
theorem keepsTeams_updTeam (s : State) (id : Nat) (f : Team → Team) : KeepsTeams s (s.updTeam id f) := by
  unfold State.updTeam
  split
  · exact keepsTeams_setTeam ‹_› _
  · exact .refl s

theorem bumpReg_teams (s : State) (ctx off lo n : Nat) : (s.bumpReg ctx off lo n).teams = s.teams := by
  unfold State.bumpReg
  dsimp only
  split
  · rfl
  · exact State.updContext_teams _ _ _
theorem secCount_teams (s : State) (ctx lo : Nat) : (s.secCount ctx lo).teams = s.teams := bumpReg_teams s ctx 0x30 lo 16

theorem keepsTeams_cellConsumed (s : State) (team : Nat) (enter : Option Nat) : KeepsTeams s (s.cellConsumed team enter) :=
  keepsTeams_updTeam s team _
theorem keepsTeams_failEnter (s : State) (k team serial cause : Nat) (lane : EnterLane) (c : Cell) :
    KeepsTeams s (s.failEnter k team serial cause lane c).1 := by
  unfold State.failEnter
  split
  · refine KeepsTeams.trans (KeepsTeams.of_teams ?_) (keepsTeams_updTeam _ _ _)
    show State.teams (if cause = 0x11 then _ else _) = s.teams
    split
    · exact secCount_teams s _ _
    · split
      · exact secCount_teams s _ _
      · rfl
  · exact .refl s
theorem keepsTeams_enterCell (s : State) (k i : Nat) (w : Waiter) : KeepsTeams s (s.enterCell k i w).1 := by
  unfold State.enterCell
  split
  · split
    · exact keepsTeams_failEnter s _ _ _ _ _ _
    · refine KeepsTeams.trans (KeepsTeams.of_teams ?_) (keepsTeams_updTeam _ _ _)
      exact State.acquire_teams _ _
  · exact .refl s
  · exact .refl s
theorem keepsTeams_settleOne {s : State} {k i : Nat} {r : State × List Nat} (h : s.settleOne k i = some r) : KeepsTeams s r.1 := by
  unfold State.settleOne at h
  split at h
  · cases h
  dsimp only at h
  split at h
  · cases h
  split at h
  · obtain ⟨w, _, rfl⟩ := Option.map_eq_some_iff.1 h
    exact keepsTeams_failEnter s _ _ _ _ _ _
  split at h
  · split at h
    · cases h; exact .of_teams (secCount_teams _ _ _)
    · cases h; exact keepsTeams_failEnter s _ _ _ _ _ _
  split at h
  · cases h
  obtain ⟨w, _, rfl⟩ := Option.map_eq_some_iff.1 h
  split
  · exact .refl s
  · exact keepsTeams_enterCell s _ _ _
theorem keepsTeams_settleCells (n k : Nat) : ∀ (is : List Nat) (s : State), KeepsTeams s (State.settleCells n k is s) := by
  induction n with
  | zero => exact fun _ s => .refl s
  | succ n ih =>
    intro is s
    cases is with
    | nil => exact .refl s
    | cons i is =>
      unfold State.settleCells
      split
      · exact (keepsTeams_settleOne ‹_›).trans (ih _ _)
      · exact ih _ _
theorem keepsTeams_compare (s : State) (k : Nat) (cells : List Nat) : KeepsTeams s (s.compare k cells) := keepsTeams_settleCells _ k cells s

theorem keepsTeams_oleaveArrives (s : State) (ctx : Nat) (ident key : DWord) : KeepsTeams s (s.oleaveArrives ctx ident key) := by
  unfold State.oleaveArrives
  split
  · exact .of_teams (secCount_teams _ _ _)
  split
  · exact keepsTeams_cellConsumed s _ _
  · exact .of_teams (secCount_teams _ _ _)
  dsimp only
  split
  · exact keepsTeams_compare _ _ _
  · exact .of_teams (secCount_teams _ _ _)
theorem keepsTeams_oskipArrives (s : State) (ctx : Nat) (key : DWord) (sq : Word) : KeepsTeams s (s.oskipArrives ctx key sq) := by
  unfold State.oskipArrives
  split
  · exact .of_teams (secCount_teams _ _ _)
  split
  · exact keepsTeams_cellConsumed s _ _
  · exact .of_teams (secCount_teams _ _ _)
  extract_lets c due
  split
  · exact .of_teams (secCount_teams _ _ _)
  split
  · exact .refl s
  · exact keepsTeams_compare _ _ _
theorem keepsTeams_flushSections (s : State) (team : Nat) : KeepsTeams s (s.flushSections team) := by
  unfold State.flushSections
  refine foldl_kept KeepsTeams .refl .trans _ (fun s d => ?_) _ { s with agenda := s.agenda.filter fun d => !isSectStream team d.stream }
  split
  · exact keepsTeams_oleaveArrives s _ _ _
  · exact keepsTeams_oskipArrives s _ _ _
  · exact .refl s
theorem keepsTeams_sectionBreak (s : State) (ctx : Nat) (ident : DWord) : KeepsTeams s (s.sectionBreak ctx ident) := by
  unfold State.sectionBreak
  split
  · exact .refl s
  split
  · exact .refl s
  refine KeepsTeams.trans (b := List.foldl _ _ _) ?_ (keepsTeams_compare _ _ _)
  exact KeepsTeams.trans (.of_teams rfl) (foldl_kept KeepsTeams .refl .trans _ (fun s _ => .of_teams (secCount_teams s _ _)) _ _)

theorem keepsTeams_unhaltTeam (s : State) (id : Nat) : KeepsTeams s (s.unhaltTeam id) := by
  unfold State.unhaltTeam
  split
  · exact .refl s
  split
  · exact .refl s
  · exact KeepsTeams.trans (keepsTeams_setTeam ‹_› _) (.of_teams (State.updGang_teams _ _ _))
theorem keepsTeams_leaveQueues (s : State) (gang : Nat) (ms : List Nat) : KeepsTeams s (s.leaveQueues gang ms) :=
  .of_teams (butGangs_leaveQueues s gang ms).teams
theorem keepsTeams_wantPhaseCheckpoint (s : State) (gang crew : Nat) : KeepsTeams s (s.wantPhaseCheckpoint gang crew) := by
  unfold State.wantPhaseCheckpoint
  split
  · split
    · exact .of_teams (State.updCrew_teams _ _ _ _)
    · exact .refl s
  · exact .refl s
theorem keepsTeams_phaseAcquire (s : State) (gang crew : Nat) (job : Bool) : KeepsTeams s (s.phaseAcquire gang crew job) := by
  unfold State.phaseAcquire
  split
  · exact .refl s
  split
  · exact .refl s
  split
  · exact .refl s
  · exact .refl s
theorem keepsTeams_checkBarrier (s : State) (gang crew k : Nat) (job : Bool) : KeepsTeams s (s.checkBarrier gang crew k job) := by
  unfold State.checkBarrier
  split
  · exact .refl s
  split
  · exact .refl s
  split
  · refine KeepsTeams.trans ?_ ((keepsTeams_phaseAcquire _ _ _ _).trans (keepsTeams_wantPhaseCheckpoint _ _ _))
    intro i
    dsimp only
    rw [isSome_find_map _ _ fun p => by split <;> rfl, State.updCrew_teams]
  · exact .refl s
theorem keepsTeams_barrierLeave (s : State) (gang crew : Nat) : KeepsTeams s (s.barrierLeave gang crew) :=
  foldl_kept KeepsTeams .refl .trans _
    (fun s _ => KeepsTeams.trans (.of_teams (State.updCrew_teams s _ _ _)) (keepsTeams_checkBarrier _ _ _ _ _)) _ s
theorem keepsTeams_completeFuture (s : State) (ctx cls slot : Nat) (status : Word) : KeepsTeams s (s.completeFuture ctx cls slot status) := by
  unfold State.completeFuture
  split
  · exact .refl s
  · intro i
    dsimp only
    rw [isSome_find_map _ _ fun p => by split <;> rfl, State.updContext_teams]
theorem retireGang_teams (s : State) (gang : Nat) : (s.retireGang gang).teams = s.teams := by
  unfold State.retireGang
  split
  · rfl
  split
  · rfl
  dsimp only
  split
  · rfl
  split <;> rfl

/-- A team that is dropped goes, and no other with it. -/
theorem dropTeam_find (s : State) {id : Nat} {t : Team} (h : s.teams.find id = some t) (status : Word) (k : Nat) :
    (s.dropTeam id status).teams.find k = none ↔ k = id ∨ s.teams.find k = none := by
  have hb : KeepsTeams s (((s.unhaltTeam id).flushSections id).dropWaiters id) :=
    ((keepsTeams_unhaltTeam s id).trans (keepsTeams_flushSections _ id)).trans (.of_teams rfl)
  unfold State.dropTeam
  simp only [h]
  generalize ((s.unhaltTeam id).flushSections id).dropWaiters id = s1 at hb
  have key (s2 : State) (hk : KeepsTeams { s1 with teams := s1.teams.erase id } s2) : s2.teams.find k = none ↔ k = id ∨ s.teams.find k = none := by
    have hk := hk k
    by_cases hi : k = id
    · simp only [hi, SMap.find_erase_same] at hk
      simpa [hi] using hk
    · simp only [SMap.find_erase_ne _ hi, hb k] at hk
      rw [← Option.not_isSome_iff_eq_none, ← Option.not_isSome_iff_eq_none, hk]
      simp [hi]
  refine key _ (KeepsTeams.trans ?_ (.of_teams (retireGang_teams _ _)))
  have hfut (s3 : State) : KeepsTeams s3 (t.taskFutures.foldl (fun (s : State) slot => s.completeFuture t.ctx 2 slot status) s3) :=
    foldl_kept KeepsTeams .refl .trans _ (fun s slot => keepsTeams_completeFuture s _ _ _ _) _ s3
  have hbreak (s3 : State) : KeepsTeams s3 (((s3.leaveQueues t.gang (t.pushMarks true)).barrierLeave t.gang t.crew).sectionBreak t.ctx t.ident) :=
    ((keepsTeams_leaveQueues s3 _ _).trans (keepsTeams_barrierLeave _ _ _)).trans (keepsTeams_sectionBreak _ _ _)
  have hcrew (s3 : State) (f : Crew → Crew) : KeepsTeams s3 ((s3.dropFaulted t.unit t.ctx).updCrew t.gang t.crew f) :=
    .of_teams (State.updCrew_teams _ _ _ _)
  split
  · exact ((hcrew _ _).trans ((hbreak _).trans (hfut _))).trans (.of_teams (State.updContext_teams _ _ _))
  · exact (hcrew _ _).trans ((hbreak _).trans (hfut _))

end Sys2Proof.Machine
end

section
/-! SUPPORT of O40: the end of a grid, and what a placement leaves of the gang, its grid and its teams. -/

namespace Sys2Proof.Machine

theorem updContext_find {s : State} {ctx : Nat} {c : Context} (h : s.contexts.find ctx = some c) (f : Context → Context) :
    (s.updContext ctx f).contexts.find ctx = some (f c) := by
  unfold State.updContext
  rw [h]
  exact SMap.find_insert_same _ _ _

/-- An event is raised for a state whose context has the same sequence, channel and partition. -/
theorem Raises.before {s0 s s' : State} {ctx kind : Nat} {args : List DWord} {c0 c : Context} (h : Raises s s' ctx kind args)
    (h0 : s0.contexts.find ctx = some c0) (hc : s.contexts.find ctx = some c) (hs : c.eventSeq = c0.eventSeq) (hch : c.channel = c0.channel)
    (hp : c.part = c0.part) : Raises s0 s' ctx kind args := by
  obtain ⟨d, c', h1, h2, h3, h4, h5⟩ := h
  obtain rfl : c = d := Option.some.inj (hc.symm.trans h1)
  rw [hs] at h3 h4 h5
  rw [hch, hp] at h5
  exact ⟨c0, c', h0, h2, h3, h4, h5⟩

theorem raise_find {s : State} {ctx : Nat} {c : Context} (h : s.contexts.find ctx = some c) (kind : Nat) (args : List DWord) :
    (s.raise ctx kind args).contexts.find ctx = some (c.withEvent ⟨c.eventSeq, kind, s.clk, args⟩) := by
  rw [raise_eq h]; exact SMap.find_insert_same _ _ _

/-- A context whose service grid has ended. -/
def Context.unserved (c : Context) (grid : Nat) : Context := if c.service == some grid then { c with service := none } else c

theorem unserved_service (c : Context) (grid : Nat) : (c.unserved grid).service ≠ some grid := by
  unfold Context.unserved
  split
  · simp
  · rename_i h; simpa using h
theorem unserved_events (c : Context) (grid : Nat) :
    (c.unserved grid).eventSeq = c.eventSeq ∧ (c.unserved grid).channel = c.channel ∧ (c.unserved grid).part = c.part := by
  unfold Context.unserved; split <;> exact ⟨rfl, rfl, rfl⟩

theorem execGridEnd_over {ctx grid : Nat} {s : State} {gr : Grid} (h : s.grids.find (gridKey ctx grid) = some gr) (ho : gr.gangs ≤ gr.retired) :
    exec (.gridEnd ctx grid) s = .next
      ((State.updContext { s with grids := s.grids.erase (gridKey ctx grid) } ctx fun c => c.unserved grid).raise ctx 1 [BitVec.ofNat 64 grid, 0]) := by
  show execGridEnd ctx grid s = _
  unfold execGridEnd
  simp only [h, show gr.over = true from decide_eq_true ho, if_true]
  rfl

/-- The state has the same teams and grids, and the gang `id` as it was but for what its crews hold. -/
def CrewsAside (id : Nat) (s s' : State) : Prop :=
  s'.teams = s.teams ∧ s'.grids = s.grids ∧
    ∀ g, s.gangs.find id = some g → ∃ cs, s'.gangs.find id = some { g with crews := cs } ∧ cs.length = g.crews.length

section
variable {id : Nat} {s : State}

theorem CrewsAside.of_eq {s' : State} (ht : s'.teams = s.teams) (hg : s'.grids = s.grids) (hgs : s'.gangs = s.gangs) : CrewsAside id s s' :=
  ⟨ht, hg, fun g h => ⟨g.crews, by rw [hgs]; exact h, rfl⟩⟩
theorem CrewsAside.refl (s : State) : CrewsAside id s s := .of_eq rfl rfl rfl
theorem CrewsAside.trans {a b c : State} (h : CrewsAside id a b) (k : CrewsAside id b c) : CrewsAside id a c := by
  obtain ⟨ht, hg, hx⟩ := h
  obtain ⟨kt, kg, kx⟩ := k
  refine ⟨kt.trans ht, kg.trans hg, fun g e => ?_⟩
  obtain ⟨cs, e1, l1⟩ := hx g e
  obtain ⟨ds, e2, l2⟩ := kx _ e1
  exact ⟨ds, e2, l2.trans l1⟩

theorem crewsAside_devWrite (s : State) (ctx va : Nat) (bs : List Byte) : CrewsAside id s (s.devWrite ctx va bs) :=
  have k := devWrite_kept s ctx va bs
  .of_eq k.teams (congrArg State.grids k.rest : (s.devWrite ctx va bs).still.grids = s.still.grids) k.gangs
theorem crewsAside_updCrew (s : State) (k : Nat) (f : Crew → Crew) : CrewsAside id s (s.updCrew id k f) := by
  refine ⟨State.updCrew_teams _ _ _ _, State.updCrew_grids _ _ _ _, fun g h => ⟨g.crews.modify k f, ?_, List.length_modify _ _ _⟩⟩
  unfold State.updCrew State.updGang
  rw [h]
  exact SMap.find_insert_same _ _ _
theorem crewsAside_firstShadow (s : State) : CrewsAside id s (s.firstShadow id) := by
  unfold State.firstShadow
  split
  · exact .refl s
  split
  · refine foldl_kept (CrewsAside id) .refl .trans _ (fun s k => ?_) _ s
    refine CrewsAside.trans ?_ (foldl_kept (CrewsAside id) .refl .trans _ (fun s p => crewsAside_devWrite s _ _ _) _ _)
    exact ((crewsAside_updCrew s k _).trans (crewsAside_devWrite _ _ _ _)).trans (crewsAside_devWrite _ _ _ _)
  · exact .refl s
theorem crewsAside_writeBlocks (s : State) (gang size : Nat) : CrewsAside id s (s.writeBlocks gang size) := by
  unfold State.writeBlocks
  refine foldl_kept (CrewsAside id) .refl .trans _ (fun s' p => ?_) _ s
  split
  · exact crewsAside_devWrite s' _ _ _
  · exact .refl s'

end

theorem addTeams_kept (ts : List Team) (s : State) : (s.addTeams ts).gangs = s.gangs ∧ (s.addTeams ts).grids = s.grids := by
  induction ts generalizing s with
  | nil => exact ⟨rfl, rfl⟩
  | cons t ts ih => exact ih { s with serial := s.serial + 1, teams := s.teams.insert s.serial t }
theorem addTeams_find (ts : List Team) (s : State) {k : Nat} {t : Team} (h : (s.addTeams ts).teams.find k = some t) :
    t ∈ ts ∨ s.teams.find k = some t := by
  induction ts generalizing s with
  | nil => exact .inr h
  | cons u ts ih =>
    rcases ih { s with serial := s.serial + 1, teams := s.teams.insert s.serial u } h with ht | hf
    · exact .inl (List.mem_cons_of_mem _ ht)
    · by_cases hk : k = s.serial
      · rw [hk, SMap.find_insert_same] at hf
        exact .inl (by rw [Option.some.inj hf]; exact List.mem_cons_self)
      · rw [SMap.find_insert_ne _ _ hk] at hf
        exact .inr hf

theorem role_of_post {roles : List Role} {m : Nat} {p : Post} (h : p ∈ postsOf roles m) : p.role ∈ roles := by
  unfold postsOf at h
  obtain ⟨c, _, hp⟩ := List.mem_flatMap.1 h
  obtain ⟨⟨i, r⟩, hr, hp⟩ := List.mem_flatMap.1 hp
  obtain ⟨j, hj, e⟩ := List.mem_mapIdx.1 hr
  obtain rfl : roles[j] = r := congrArg Prod.snd e
  split at hp
  · cases hp
  · obtain ⟨k, _, rfl⟩ := List.mem_map.1 hp
    exact List.getElem_mem hj
theorem post_of_seat {s : State} {cluster base scratch m : Nat} {ps : List Post} {x : Post × Seat} (h : x ∈ s.seatPosts cluster base scratch ps m) :
    x.1 ∈ ps := by
  unfold State.seatPosts at h
  obtain ⟨i, _, hx⟩ := List.mem_flatMap.1 h
  rcases List.mem_append.1 hx with hx | hx
  · exact (List.mem_filter.1 (List.mem_filter.1 (List.of_mem_zip hx).1).1).1
  · obtain ⟨p, hp, rfl⟩ := List.mem_map.1 hx
    exact (List.mem_filter.1 (List.mem_filter.1 hp).1).1

/-- A team of a gang as the gang is placed, at its entry with its grid's parameter (R19, R330, R331). -/
def Team.startsFor (t : Team) (gr : Grid) (cluster : Nat) : Prop :=
  t.cluster = cluster ∧ t.gangReg = BitVec.ofNat 32 gr.nextGang ∧ t.gridReg = BitVec.ofNat 32 gr.id ∧ t.ex = t.live ∧
    t.tlevel = false ∧ t.S64 0 = gr.param ∧ ∃ r ∈ gr.roles, t.pc = r.entry + 4 ∧ t.isCtl = r.ctl ∧ t.lanes = r.lanes

theorem start_param (ctx lanes : Nat) (isCtl : Bool) (k : Kernel) (entry : Word) (param : DWord) (live : Mask) :
    (Team.start ctx lanes isCtl k entry param live).S64 0 = param := by
  have h0 : (Team.start ctx lanes isCtl k entry param live).S 0 = param.extractLsb' 0 32 := by
    simp [Team.S, Team.start, SMap.get_set]
  have h1 : (Team.start ctx lanes isCtl k entry param live).S 1 = param.extractLsb' 32 32 := by
    simp [Team.S, Team.start, SMap.get_set]
  unfold Team.S64
  rw [h0, h1, BitVec.extractLsb'_append_extractLsb'_eq_extractLsb' (by decide), BitVec.extractLsb'_eq_self]

theorem launched_param (g : Gang) (id pkg : Nat) (p : Post) (check : Bool) (param : DWord) (live : Mask) (seat : Seat) (save clk : Nat) :
    (Team.launched g id pkg p check param live seat save clk).S64 0 = param :=
  start_param g.ctx p.role.lanes p.role.ctl g.kernel p.role.entry param live

/-- What `State.placeGang` does: the gang is entered under the next number, its grid counts it, its teams join, and their records are written. -/
theorem placeGang_spec (s : State) (gr : Grid) (m cluster base : Nat) : ∃ (g : Gang) (ts : List Team) (s1 : State),
    s.placeGang gr m cluster base = (((s1.addTeams ts).firstShadow s.serial).writeBlocks s.serial m).admitSets ∧
    s1.teams = s.teams ∧ s1.gangs.find s.serial = some g ∧
    s1.grids.find (gridKey gr.ctx gr.id) = some { gr with nextGang := gr.nextGang + 1 } ∧
    (g.ctx = gr.ctx ∧ g.grid = gr.id ∧ g.number = gr.nextGang ∧ g.size = m ∧ g.cluster = cluster ∧ g.baseCore = base ∧
      g.residency = .resident ∧ g.requested = none ∧ g.placedClk = s.clk ∧ g.area = gr.swap + gr.nextGang * gangAreaSize gr.header ∧
      g.crews.length = m) ∧ ∀ t ∈ ts, t.startsFor gr cluster := by
  unfold State.placeGang
  extract_lets ps id pkg blank g offs off ts s1
  refine ⟨g, ts, s1, rfl, rfl, SMap.find_insert_same _ _ _, SMap.find_insert_same _ _ _,
    ⟨rfl, rfl, rfl, rfl, rfl, rfl, rfl, rfl, rfl, rfl, by simp [g]⟩, fun t ht => ?_⟩
  obtain ⟨x, hx, rfl⟩ := List.mem_map.1 ht
  exact ⟨rfl, rfl, rfl, rfl, rfl, launched_param g id pkg x.1 _ _ _ _ _ _, x.1.role, role_of_post (post_of_seat hx), rfl, rfl, rfl⟩

theorem execGangPlacement_fresh {part : Nat} {s : State} {gr : Grid} {m cluster base : Nat}
    (h : s.placeable part = some (.fresh gr, m, cluster, base)) : exec (.gangPlacement part) s = .next (s.placeGang gr m cluster base) := by
  show execGangPlacement part s = _
  unfold execGangPlacement
  rw [h]

end Sys2Proof.Machine
end

section
/-! PROOF of O40. -/

namespace Sys2Proof
open Machine

/-- Settles O40: a dropped team goes alone, a grid that is over raises its event, and a placement keeps what `placeGang_spec` enters. -/
theorem lifecycle : Obligations.Lifecycle := by
  unfold Obligations.Lifecycle
  refine ⟨fun team s t h he => ?_, fun ctx grid s gr c h ho hc => ?_, fun part s gr m cluster base h => ?_⟩
  · refine ⟨s.dropTeam team 0, ?_, (dropTeam_find s h 0 team).2 (.inl rfl), dropTeam_find s h 0⟩
    show execTeamEnd team s = _
    unfold execTeamEnd
    simp only [h, he, if_true]
  · generalize hs : State.updContext { s with grids := s.grids.erase (gridKey ctx grid) } ctx (fun c => c.unserved grid) = s1
    have e := execGridEnd_over h ho
    rw [hs] at e
    have hf : s1.contexts.find ctx = some (c.unserved grid) := by
      rw [← hs]; exact updContext_find (s := { s with grids := s.grids.erase (gridKey ctx grid) }) hc _
    obtain ⟨h1, h2, h3⟩ := unserved_events c grid
    refine ⟨_, _, e, ?_, (raises_raise hf 1 _).before hc hf h1 h2 h3, raise_find hf 1 _,
      unserved_service c grid, ?_, ?_⟩
    · rw [State.raise_grids, ← hs, State.updContext_grids]; exact SMap.find_erase_same _ _
    · rw [State.raise_teams, ← hs, State.updContext_teams]
    · rw [State.raise_mem, ← hs, State.updContext_mem]
  · obtain ⟨g, ts, s1, e, ht, hg, hgr, hfields, hts⟩ := placeGang_spec s gr m cluster base
    obtain ⟨hk, hkr⟩ := addTeams_kept ts s1
    obtain ⟨at_, ar, ag⟩ := (crewsAside_firstShadow (id := s.serial) (s1.addTeams ts)).trans (crewsAside_writeBlocks _ s.serial m)
    obtain ⟨cs, hcs, hlen⟩ := ag g (by rw [hk]; exact hg)
    obtain ⟨g1, g2, g3, g4, g5, g6, g7, g8, g9, g10, g11⟩ := hfields
    refine ⟨_, { g with crews := cs }, (execGangPlacement_fresh h).trans (congrArg _ e), hcs, g1, g2, g3, g4, g5, g6, g7, g8, g9, g10,
      hlen.trans g11, ?_, fun hnew k t hf hgt => ?_⟩
    · exact (congrArg (SMap.find · _) (ar.trans hkr)).trans hgr
    · rcases addTeams_find ts s1 ((congrArg (SMap.find · k) at_).symm.trans hf) with hm | hold
      · exact hts t hm
      · exact absurd hgt (hnew k t (by rw [← ht]; exact hold))

end Sys2Proof
end

section
/-! SUPPORT of O33: reserved futures, the words of a record, descriptor slots, and rays handed over. -/

namespace Sys2Proof.Machine

/-- What the reservation of a job slot leaves (R21): everything but the slots of its context and the open values drawn. -/
structure Reserved (s s' : State) : Prop where
  teams : s'.teams = s.teams
  cur : s'.cur = s.cur
  clusters : s'.clusters = s.clusters
  mem : s'.mem = s.mem
  untraced : Untraced s → Untraced s'

theorem reserved_newFuture {s s' : State} {ctx cls slot : Nat} {h : Word} (e : s.newFuture ctx cls = some (s', slot, h)) : Reserved s s' := by
  unfold State.newFuture at e
  split at e
  · cases e
  · obtain ⟨k, _, e⟩ := Option.map_eq_some_iff.1 e
    obtain rfl := (Prod.mk.inj e).1
    exact ⟨by simp, by simp, by simp, by simp, fun u => untraced_updContext (fun _ => rfl) (untraced_of_contexts rfl u)⟩

theorem leNat_append (as bs : List Byte) : leNat (as ++ bs) = leNat as + 256 ^ as.length * leNat bs := by
  induction as with
  | nil => simp [leNat]
  | cons a as ih => simp only [List.cons_append, leNat, ih, List.length_cons]; ring
theorem length_wordBytes (w : Word) : (wordBytes w).length = 4 := rfl
theorem leNat_wordBytes (w : Word) : leNat (wordBytes w) = w.toNat := by
  have h := w.isLt
  simp only [wordBytes, leBytes, leNat, BitVec.toNat_ofNat]
  omega

/-- Word `k` of the bytes of some words, as a number. -/
theorem leNat_words (ws : List Word) (k : Nat) : leNat (ws.flatMap wordBytes) / 2 ^ (32 * k) % 2 ^ 32 = (ws.getD k 0).toNat := by
  induction ws generalizing k with
  | nil => simp [leNat]
  | cons w ws ih =>
    have h := w.isLt
    rw [List.flatMap_cons, leNat_append, leNat_wordBytes, length_wordBytes]
    cases k with
    | zero => simp; omega
    | succ k =>
      rw [show 32 * (k + 1) = 32 + 32 * k by ring, Nat.pow_add, ← Nat.div_div_eq_div_mul, show (256 ^ 4 : Nat) = 2 ^ 32 by decide,
        Nat.add_mul_div_left _ _ (by decide), Nat.div_eq_of_lt h, Nat.zero_add, ih]
      rfl
theorem length_words (ws : List Word) : (ws.flatMap wordBytes).length = 4 * ws.length := by
  induction ws with
  | nil => rfl
  | cons w ws ih => rw [List.flatMap_cons, List.length_append, length_wordBytes, ih, List.length_cons]; ring

/-- The words of a record of 32 bytes are those that it was read from. -/
theorem record_words (f : Nat → Word) :
    ((List.range 8).map fun k => (BitVec.ofNat 256 (leNat ((List.range 8).flatMap fun k => wordBytes (f k)))).extractLsb' (32 * k) 32) =
      (List.range 8).map f := by
  refine List.map_congr_left fun k hk => BitVec.eq_of_toNat_eq ?_
  have hlt := leNat_lt (((List.range 8).map f).flatMap wordBytes)
  rw [length_words, List.length_map, List.length_range] at hlt
  have hw := leNat_words ((List.range 8).map f) k
  rw [List.flatMap_map] at hlt hw
  rw [BitVec.extractLsb'_toNat, Nat.shiftRight_eq_div_pow, BitVec.toNat_ofNat, Nat.mod_eq_of_lt hlt, hw]
  simp [List.mem_range.1 hk]

section
variable {s : State} {t : Team} {off : Word}

theorem record32_outside (h : s.inWindow t off 32 = false) : s.record32 t off = .error (.trap 0x06 noLane (off.setWidth 64)) := by
  unfold State.record32; simp [h]
theorem record32_misaligned (h : s.inWindow t off 32 = true) (ha : off.toNat % 32 ≠ 0) :
    s.record32 t off = .error (.trap 0x07 noLane (off.setWidth 64)) := by
  unfold State.record32; simp [h, ha]
theorem record32_ok (h : s.inWindow t off 32 = true) (ha : off.toNat % 32 = 0) : s.record32 t off =
    .ok (BitVec.ofNat 256 (leNat ((List.range 8).flatMap fun k => wordBytes (s.spadWord t off k))), s.spadPoison t off 8) := by
  unfold State.record32; simp [h, ha]

end

/-- What a read by a team at its issue leaves. -/
structure ReadKept (s s' : State) : Prop where
  teams : s'.teams = s.teams
  cur : s'.cur = s.cur
  clusters : s'.clusters = s.clusters

theorem ReadKept.trans {a b c : State} (h : ReadKept a b) (k : ReadKept b c) : ReadKept a c :=
  ⟨k.teams.trans h.teams, k.cur.trans h.cur, k.clusters.trans h.clusters⟩

theorem readKept_cacheRead (s : State) (kind : CacheKind) (unit ctx va pa n : Nat) (x : Translation) (fresh : BitVec 1024) :
    ReadKept s (s.cacheRead kind unit ctx va pa n x fresh).2 := by
  refine ⟨s.cacheRead_teams _ _ _ _ _ _ _ _, s.cacheRead_cur _ _ _ _ _ _ _ _, ?_⟩
  unfold State.cacheRead
  split
  · rfl
  · dsimp only
    split <;> simp
theorem readKept_readNow (s : State) (t : Team) (va pa n : Nat) (x : Translation) : ReadKept s (s.readNow t va pa n x).1 := by
  unfold State.readNow
  dsimp only
  split
  · exact ⟨rfl, rfl, rfl⟩
  · exact readKept_cacheRead s _ _ _ _ _ _ _ _
theorem readKept_of_teamLoad {s s' : State} {t : Team} {addr : DWord} {n : Nat} {k : Looked} {o : Option Nat}
    (h : s.teamLoad t addr n k = (s', o)) : ReadKept s s' := by
  unfold State.teamLoad at h
  split at h
  · rename_i pa page
    have hr := readKept_readNow s t addr.toNat pa n page
    rwa [h] at hr
  · obtain ⟨rfl, _⟩ := Prod.mk.inj h
    exact ⟨rfl, rfl, rfl⟩
theorem readKept_claimOf (s : State) (k : Looked) : ReadKept s (s.claimOf k) := by
  unfold State.claimOf
  split
  · exact ⟨by simp, by simp, by simp⟩
  · exact ⟨rfl, rfl, rfl⟩
theorem readKept_readSlot {s s1 : State} {t : Team} {handle : Word} {lane reason n : Nat}
    (h : s.readSlot t handle lane reason = .ok (s1, n)) : ReadKept s s1 := by
  unfold State.readSlot at h
  split at h
  · cases h
  dsimp only at h
  split at h
  · cases h
  generalize lookFor s t .read false _ = x at h
  split at h
  · cases h
  · cases h
  · cases h
  · split at h
    · cases h
      exact (readKept_claimOf s x).trans (readKept_of_teamLoad ‹_›)
    · cases h

/-- The rays of a `trc`'s active lanes, in lane order, numbered from `serial` on (R198, R199). -/
def raysOf (serial : Nat) (r t : Team) (a b : RegNo) (spec targets : Word) (n : Nat) : List Ray :=
  r.actives.mapIdx fun j l => Ray.new (serial + j) t ((List.range 8).map fun i => r.V l (a.toNat + i))
    ((List.range (spec.toNat % 16)).map fun i => r.V l (b.toNat + i)) spec targets n

/-- A cluster as `State.updCluster` finds it. -/
def State.clusterAt (s : State) (n : Nat) : Cluster := (s.clusters.find n).getD ⟨[], [], [], 0, 0, []⟩

theorem clusterAt_some {s : State} {n : Nat} {k : Cluster} (h : s.clusters.find n = some k) : s.clusterAt n = k := by
  unfold State.clusterAt; rw [h]; rfl
theorem clusterAt_none {s : State} {n : Nat} (h : s.clusters.find n = none) : s.clusterAt n = ⟨[], [], [], 0, 0, []⟩ := by
  unfold State.clusterAt; rw [h]; rfl
theorem clusterAt_congr {s s' : State} (h : s'.clusters = s.clusters) (n : Nat) : s'.clusterAt n = s.clusterAt n := by
  unfold State.clusterAt; rw [h]

theorem updCluster_find (s : State) (n : Nat) (f : Cluster → Cluster) : (s.updCluster n f).clusters.find n = some (f (s.clusterAt n)) := by
  unfold State.updCluster
  cases h : s.clusters.find n with
  | none => rw [clusterAt_none h]; exact SMap.find_insert_same _ _ _
  | some k => rw [clusterAt_some h]; exact SMap.find_insert_same _ _ _

/-- A `trc` hands all its rays over at once where the unit has room for them. -/
theorem handRays_room {s : State} {r t : Team} {a b : RegNo} {spec handle targets : Word} {n : Nat} (hd : t.done = 0)
    (hroom : (s.clusterAt t.cluster).rays.length + r.actives.length ≤ 2048) :
    s.handRays r t a b spec handle targets n = .done ({ s with serial := s.serial + r.actives.length }.updCluster t.cluster fun k =>
      { k with rays := k.rays ++ raysOf s.serial r t a b spec targets n }) := by
  have hleft : (r.actives.filter fun l => t.done &&& laneBit l == 0#1024) = r.actives := by simp [hd]
  have h16 : (spec.extractLsb' 0 4).toNat = spec.toNat % 16 := by simp
  have htake {k : Nat} (h : k + r.actives.length ≤ 2048) : r.actives.take (2048 - k) = r.actives := List.take_of_length_le (by omega)
  unfold State.handRays
  cases hk : s.clusters.find t.cluster with
  | none =>
    rw [clusterAt_none hk] at hroom
    simp only [hleft, h16, htake (k := 0) hroom]
    rw [if_pos (by dsimp only [List.length_nil] at hroom; omega)]
    rfl
  | some k =>
    rw [clusterAt_some hk] at hroom
    simp only [hleft, h16, htake hroom]
    rw [if_pos (by omega)]
    rfl

end Sys2Proof.Machine
end

section
/-! SUPPORT of O33: the instructions of the engines, case by case. -/

namespace Sys2Proof.Machine

/-- A slot that hands work to an engine and leaves the pending handle of its future (R22): what the engines hold is what the body leaves. -/
theorem pends_of_reserved {s sx : State} {t : Team} {i : Instr} (h : Issues s t i) {body : (r t : Team) → State → Res} {d : RegNo} {x : Word}
    (he : exec i s = slot i body s)
    (hb : body (t.viewAt s.clk) t s = .later (sx.updMe fun t => (t.dropFutures i.writes).landS d.toNat x) 6 .future)
    (ht : sx.teams = s.teams) (hc : sx.cur = s.cur) (hm : sx.mem = s.mem) (hn : Untraced s → Untraced sx)
    (hw : i.writes = [⟨.s, d.toNat, 1, false⟩]) (ho : s.overfull i = false) :
    ∃ s' t' p, exec i s = .next s' ∧ s'.teams.find s.cur = some t' ∧ RegsAfter t t' (newUni d x) ∧ p ∈ t'.pends ∧ p.file = .s ∧
      p.n = d.toNat ∧ p.data = .future ∧ t'.still = t.still ∧ StepsOn i t t' ∧ s'.clusters = sx.clusters ∧ (Untraced s → SameMemory s s') := by
  have hme : sx.me = some t := by unfold State.me; rw [ht, hc]; exact h.1
  rw [updMe_eq hme] at hb
  have k := onlyRegs_landS (t.dropFutures i.writes) d x
  have hu : OnlyRegs t ((t.dropFutures i.writes).landS d.toNat x) (newUni d x) :=
    ⟨fun f n l hl => (k.regs f n l hl).trans (congrArg _ (reg_eq rfl rfl rfl f n l)), k.still, k.fstat, k.pc, k.ex, k.slots, k.level, k.tlevel, k.yielded⟩
  obtain ⟨s', t', p, h1, h2, h3, h4, h5, h6, _, h8, _, h10, h11, hk⟩ := pends_of_handle h he hb (State.setTeam_me sx _) hc hu hw ho
  refine ⟨s', t', p, h1, h2, h3, h4, h5, h6, h8, h10, h11,
    (congrArg State.clusters hk.rest : s'.still.clusters = (sx.setTeam sx.cur _).still.clusters), fun hs a => ?_⟩
  rw [← hm]
  exact congrArg (fun m => Memory.read m a) (congrArg State.mem (hk.memory (untraced_of_contexts rfl (hn hs))) :)

theorem submit_ok {s : State} {cluster : Nat} {c c' : Card} (h : c'.fail = none) : s.submit cluster c (.ok c') =
    (s.updContext c.ctx fun x => { x with streams := x.streams.set 1 (streamKey cluster c.chan) (c.seqNo + 1) }).updCluster cluster fun k =>
      { k with cards := k.cards ++ [c'] } := by
  unfold State.submit
  simp only [h]

theorem enqueue_find (s : State) (n : Nat) (e : DeckEntry) : (s.enqueue n e).clusters.find n =
    some { s.clusterAt n with deck := (s.clusterAt n).deck ++ [{ e with serial := s.serial }] } :=
  updCluster_find { s with serial := s.serial + 1 } n _

section
variable {d a b : RegNo} {s s' : State} {t : Team} {x : Context} {slot : Nat} {h : Word}

/-- A `job` whose card its template forms, without a parameter block (R239, R299). -/
theorem execJob_formed {c c' : Card} (hi : Issues s t (.job d a b)) (ho : s.overfull (.job d a b) = false)
    (hroom : condHolds s s.cur t .cardRoom = true) (hb : (t.viewAt s.clk).S b.toNat = 0xFFFFFFFF) (hx : s.contexts.find t.ctx = some x)
    (hn : s.newFuture t.ctx 1 = some (s', slot, h))
    (hc : c = Card.new s.serial t.ctx (((t.viewAt s.clk).S a.toNat).toNat / 256 % 16)
      (x.nextSeq t.cluster (((t.viewAt s.clk).S a.toNat).toNat / 256 % 16)) (((t.viewAt s.clk).S a.toNat).toNat % 256) none false (some slot)
      (some t.gang) t.crew t.depth t.prio 0xFFFFFFFF false)
    (hf : s.formCard t.cluster c = .ok c') (hok : c'.fail = none) :
    ∃ s2 t' p, exec (.job d a b) s = .next s2 ∧ s2.teams.find s.cur = some t' ∧ RegsAfter t t' (newUni d h) ∧ p ∈ t'.pends ∧ p.file = .s ∧
      p.n = d.toNat ∧ p.data = .future ∧ t'.still = t.still ∧ StepsOn (.job d a b) t t' ∧
      s2.clusters.find t.cluster = some { s.clusterAt t.cluster with cards := (s.clusterAt t.cluster).cards ++ [c'] } ∧
      (Untraced s → SameMemory s s2) := by
  have r := reserved_newFuture hn
  have he : exec (.job d a b) s = execJob d a b s := rfl
  unfold execJob at he
  have hch : (((t.viewAt s.clk).S a.toNat).extractLsb' 8 4).toNat = ((t.viewAt s.clk).S a.toNat).toNat / 256 % 16 := by
    rw [BitVec.extractLsb'_toNat, Nat.shiftRight_eq_div_pow]
  have htm : (((t.viewAt s.clk).S a.toNat).extractLsb' 0 8).toNat = ((t.viewAt s.clk).S a.toNat).toNat % 256 := by
    rw [BitVec.extractLsb'_toNat, Nat.shiftRight_zero]
  obtain ⟨s2, t', p, h1, h2, h3, h4, h5, h6, h7, h8, h9, h10, h11⟩ := pends_of_reserved (d := d) (x := h)
    (sx := State.submit { s' with serial := s'.serial + 1 } t.cluster c (.ok c')) hi he
    (by
      simp only [hb, if_true, hroom, Bool.not_true, Bool.false_eq_true, if_false, hx, hn, hch, htm]
      rw [show (0xFFFFFFFF : Word).toNat = 0xFFFFFFFF from rfl, ← hc, hf]
      simp only [ho, Bool.false_eq_true, if_false])
    (by rw [submit_ok hok]; simp [r.teams]) (by rw [submit_ok hok]; simp [r.cur]) (by rw [submit_ok hok]; simp [r.mem])
    (fun u => by
      rw [submit_ok hok]
      exact untraced_of_contexts rfl (untraced_updContext (fun _ => rfl) (untraced_of_contexts rfl (r.untraced u)))) rfl ho
  refine ⟨s2, t', p, h1, h2, h3, h4, h5, h6, h7, h8, h9, ?_, h11⟩
  rw [h10, submit_ok hok, updCluster_find, clusterAt_congr (s := s) (by simp [r.clusters])]

/-- A `job` whose parameter block is not in a window, or not aligned (R226, R239). -/
theorem execJob_badBlock {off : Word} {cause : Nat} (hi : Issues s t (.job d a b)) (ho : (t.viewAt s.clk).S b.toNat = off) (hne : off ≠ 0xFFFFFFFF)
    (hr : s.record32 t off = .error (.trap cause noLane (off.setWidth 64))) : Traps s (.job d a b) cause 0xFFFF (off.setWidth 64) := by
  have he : exec (.job d a b) s = execJob d a b s := rfl
  unfold execJob at he
  exact traps_of_body hi he (by simp only [ho, hne, if_false, hr]; rfl)

/-- A `spawn` whose record is good and whose deck has room reserves its future (R240). -/
theorem execSpawn_reserves (hi : Issues s t (.spawn d a b)) (ho : s.overfull (.spawn d a b) = false)
    (hroom : condHolds s s.cur t .deckRoom = true) (hd : t.depth ≠ 8) (hw : s.inWindow t ((t.viewAt s.clk).S b.toNat) 32 = true)
    (ha : ((t.viewAt s.clk).S b.toNat).toNat % 32 = 0) (hp : s.spadPoison t ((t.viewAt s.clk).S b.toNat) 8 = false)
    (hx : s.contexts.find t.ctx = some x) (hn : s.newFuture t.ctx 2 = some (s', slot, h)) :
    exec (.spawn d a b) s = Sys2Proof.Machine.slot (.spawn d a b) (fun r t s =>
      if x.tcount ≤ (r.S a.toNat).toNat % 65536 then
        .later ((s'.completeFuture t.ctx 2 slot 2).raise t.ctx 7 [BitVec.ofNat 64 ((r.S a.toNat).toNat % 65536)]) 6 (.values [⟨.s, d.toNat, 0, 2⟩] 0)
      else
        let words := (List.range 8).map fun k => s.spadWord t (r.S b.toNat) k
        .later ((s'.enqueue t.cluster ⟨t.ctx, (r.S a.toNat).toNat % 65536, words.headD 0, words, false, t.depth + 1, some slot, t.prio, s.clk,
          none, none, none, 0⟩).updMe fun t => (t.dropFutures (Instr.spawn d a b).writes).landS d.toNat h) 6 .future) s := by
  have he : exec (.spawn d a b) s = execSpawn d a b s := rfl
  unfold execSpawn at he
  rw [he, slot_issues hi, slot_issues hi]
  have hwords := record_words (s.spadWord t ((t.viewAt s.clk).S b.toNat))
  simp only [hd, if_false, record32_ok hw ha, hp, hroom, ho, hn, hx, hwords, Bool.not_true, Bool.false_eq_true]
  split
  · rfl
  · rfl

theorem execSpawn_queued (hi : Issues s t (.spawn d a b)) (ho : s.overfull (.spawn d a b) = false)
    (hroom : condHolds s s.cur t .deckRoom = true) (hd : t.depth ≠ 8) (hw : s.inWindow t ((t.viewAt s.clk).S b.toNat) 32 = true)
    (ha : ((t.viewAt s.clk).S b.toNat).toNat % 32 = 0) (hp : s.spadPoison t ((t.viewAt s.clk).S b.toNat) 8 = false)
    (hx : s.contexts.find t.ctx = some x) (hn : s.newFuture t.ctx 2 = some (s', slot, h))
    (htg : ((t.viewAt s.clk).S a.toNat).toNat % 65536 < x.tcount) :
    ∃ s2 t' p, exec (.spawn d a b) s = .next s2 ∧ s2.teams.find s.cur = some t' ∧ RegsAfter t t' (newUni d h) ∧ p ∈ t'.pends ∧ p.file = .s ∧
      p.n = d.toNat ∧ p.data = .future ∧ t'.still = t.still ∧ StepsOn (.spawn d a b) t t' ∧
      s2.clusters.find t.cluster = some { s.clusterAt t.cluster with deck := (s.clusterAt t.cluster).deck ++
        [⟨t.ctx, ((t.viewAt s.clk).S a.toNat).toNat % 65536, ((List.range 8).map fun k => s.spadWord t ((t.viewAt s.clk).S b.toNat) k).headD 0,
          (List.range 8).map fun k => s.spadWord t ((t.viewAt s.clk).S b.toNat) k, false, t.depth + 1, some slot, t.prio, s.clk, none, none, none,
          s'.serial⟩] } ∧ (Untraced s → SameMemory s s2) := by
  have r := reserved_newFuture hn
  have he := execSpawn_reserves hi ho hroom hd hw ha hp hx hn
  obtain ⟨s2, t', p, h1, h2, h3, h4, h5, h6, h7, h8, h9, h10, h11⟩ := pends_of_reserved (d := d) (x := h) hi he
    (if_neg (Nat.not_le.2 htg)) r.teams r.cur r.mem (fun u => untraced_of_contexts rfl (r.untraced u)) rfl ho
  refine ⟨s2, t', p, h1, h2, h3, h4, h5, h6, h7, h8, h9, ?_, h11⟩
  rw [h10, enqueue_find, clusterAt_congr r.clusters]

theorem completeFuture_cur (s : State) (ctx cls slot : Nat) (status : Word) : (s.completeFuture ctx cls slot status).cur = s.cur := by
  unfold State.completeFuture
  split
  · rfl
  · exact State.updContext_cur _ _ _
theorem refillDeck_cur (s : State) (cluster : Nat) : (s.refillDeck cluster).cur = s.cur := by
  refine foldl_kept (fun s s' => s'.cur = s.cur) (fun _ => rfl) (fun h k => k.trans h) _ (fun s y => ?_) _ s
  split
  · split <;> rfl
  · rfl

/-- A `spawn` for a target that the context lacks (R240, R333). -/
theorem execSpawn_noTarget (hi : Issues s t (.spawn d a b)) (ho : s.overfull (.spawn d a b) = false)
    (hroom : condHolds s s.cur t .deckRoom = true) (hd : t.depth ≠ 8) (hw : s.inWindow t ((t.viewAt s.clk).S b.toNat) 32 = true)
    (ha : ((t.viewAt s.clk).S b.toNat).toNat % 32 = 0) (hp : s.spadPoison t ((t.viewAt s.clk).S b.toNat) 8 = false)
    (hx : s.contexts.find t.ctx = some x) (hn : s.newFuture t.ctx 2 = some (s', slot, h))
    (htg : x.tcount ≤ ((t.viewAt s.clk).S a.toNat).toNat % 65536) {u : Team}
    (hu : ((s'.completeFuture t.ctx 2 slot 2).raise t.ctx 7
      [BitVec.ofNat 64 (((t.viewAt s.clk).S a.toNat).toNat % 65536)]).teams.find s.cur = some u) :
    PendsIn s ((s'.completeFuture t.ctx 2 slot 2).raise t.ctx 7 [BitVec.ofNat 64 (((t.viewAt s.clk).S a.toNat).toNat % 65536)]) u
      (.spawn d a b) 6 (.values [⟨.s, d.toNat, 0, 2⟩] 0) := by
  have hc : ((s'.completeFuture t.ctx 2 slot 2).raise t.ctx 7 [BitVec.ofNat 64 (((t.viewAt s.clk).S a.toNat).toNat % 65536)]).cur = s.cur := by
    rw [State.raise_cur, completeFuture_cur, (reserved_newFuture hn).cur]
  exact pendsIn_of_later hi (execSpawn_reserves hi ho hroom hd hw ha hp hx hn) (if_pos htg) (by unfold State.me; rw [hc]; exact hu) hc rfl ho

/-- `fcancel` of a handle that names no live job (R237). -/
theorem execFcancel_dead (hi : Issues s t (.fcancel d a)) (ho : s.overfull (.fcancel d a) = false) (hr : rawHandle t a = none)
    (hf : ∀ x f, s.contexts.find t.ctx = some x →
      x.futures.find (futKey (((t.viewAt s.clk).S a.toNat).toNat / 2 ^ 29) (((t.viewAt s.clk).S a.toNat).toNat / 4096 % 131072)) = some f →
        f.live = false ∨ f.gen ≠ ((t.viewAt s.clk).S a.toNat).toNat % 4096) : Awaits s t (.fcancel d a) 6 (newUni d 0) 0 := by
  have he : exec (.fcancel d a) s = execFcancel d a s := rfl
  unfold execFcancel at he
  refine awaits_of_later (ws := uniWrite d 0) hi he ?_ (BodyKept.refl s) rfl (carries_uniWrite d 0) ho
  simp only [hr, handle_class, handle_slot]
  cases hx : s.contexts.find t.ctx with
  | none => rfl
  | some x =>
    cases hk : x.futures.find (futKey (((t.viewAt s.clk).S a.toNat).toNat / 2 ^ 29) (((t.viewAt s.clk).S a.toNat).toNat / 4096 % 131072)) with
    | none => simp only [Option.bind_some, hk]; rfl
    | some f =>
      have hl : (f.live && f.gen == ((t.viewAt s.clk).S a.toNat).toNat % 4096) = false := by
        rcases hf x f hx hk with h | h <;> simp [h]
      simp only [Option.bind_some, hk, hl]
      rfl

theorem updCard_find {n : Nat} {c : Card} (h : c ∈ (s.clusterAt n).cards) (f : Card → Card) :
    ∃ k, (s.updCard n c.serial f).clusters.find n = some k ∧ f c ∈ k.cards :=
  ⟨_, updCluster_find s n _, List.mem_map.2 ⟨c, h, if_pos rfl⟩⟩

/-- Whether a card is one that `fcancel` of a job's future cancels (R237). -/
def Card.cancels (c : Card) (ctx slot : Nat) : Bool :=
  c.ctx == ctx && c.future == some slot && !c.started && c.fail.isNone && !c.cancelled

/-- `fcancel` of a live job whose card has not started, where one cluster has cards (R237). -/
theorem execFcancel_card {f : FutSlot} {k : Nat} {c : Cluster} {e : Card} (hi : Issues s t (.fcancel d a)) (ho : s.overfull (.fcancel d a) = false)
    (hr : rawHandle t a = none) (hcls : ((t.viewAt s.clk).S a.toNat).toNat / 2 ^ 29 = 1) (hx : s.contexts.find t.ctx = some x)
    (hf : x.futures.find (futKey 1 (((t.viewAt s.clk).S a.toNat).toNat / 4096 % 131072)) = some f) (hl : f.live = true)
    (hg : f.gen = ((t.viewAt s.clk).S a.toNat).toNat % 4096) (hk : s.clusters = [(k, c)])
    (he : c.cards.find? (·.cancels t.ctx (((t.viewAt s.clk).S a.toNat).toNat / 4096 % 131072)) = some e) :
    ∃ s' t' p, exec (.fcancel d a) s = .next s' ∧ s'.teams.find s.cur = some t' ∧ p ∈ t'.pends ∧ p.file = .s ∧ p.n = d.toNat ∧
      p.data = .values [⟨.s, d.toNat, 0, 1⟩] 0 ∧ RegsAfter t t' newNothing ∧
      s'.clusters = (s.updCard k e.serial fun c => { c with cancelled := true, halted := none }).clusters := by
  have hx' : exec (.fcancel d a) s = execFcancel d a s := rfl
  unfold execFcancel at hx'
  have hfind : (s.clusters.findSome? fun (p : Nat × Cluster) => (p.2.cards.find? fun (c : Card) =>
      c.ctx == t.ctx && c.future == some (((t.viewAt s.clk).S a.toNat).toNat / 4096 % 131072) && !c.started && c.fail.isNone && !c.cancelled).map
        fun c => (p.1, c)) = some (k, e) := by
    rw [hk]
    simp only [Card.cancels] at he
    simp [he]
  obtain ⟨s2, t', h1, h2, h3, hv, hs, hp, hf', hst, hon, hkept⟩ := pends_of_later (u := t)
    (s1 := s.updCard k e.serial fun c => { c with cancelled := true, halted := none }) hi hx'
    (by
      simp only [hr, handle_class, handle_slot, hcls, hx, Option.bind_some, hf, hl, ← hg, beq_self_eq_true, Bool.and_self, Bool.not_true,
        Bool.false_eq_true, if_false, if_true, hfind]
      rfl)
    hi.1 rfl rfl ho
  exact ⟨s2, t', _, h1, h2, h3, rfl, rfl, rfl, regsAfter_of_files hv hs hp,
    (congrArg State.clusters hkept.rest : s2.still.clusters = (State.still (s.updCard k e.serial _)).clusters)⟩

/-- `fcancel` of a task that still waits in a deck (R237). -/
theorem execFcancel_deck {f : FutSlot} {k : Nat} (hi : Issues s t (.fcancel d a)) (ho : s.overfull (.fcancel d a) = false)
    (hr : rawHandle t a = none) (hcls : ((t.viewAt s.clk).S a.toNat).toNat / 2 ^ 29 = 2) (hx : s.contexts.find t.ctx = some x)
    (hf : x.futures.find (futKey 2 (((t.viewAt s.clk).S a.toNat).toNat / 4096 % 131072)) = some f) (hl : f.live = true)
    (hg : f.gen = ((t.viewAt s.clk).S a.toNat).toNat % 4096)
    (hw : s.deckWait t.ctx (((t.viewAt s.clk).S a.toNat).toNat / 4096 % 131072) = some k) {s2 : State}
    (hs2 : s2 = ((s.updCluster k fun k => { k with deck := k.deck.filter fun (e : DeckEntry) =>
      !(!e.cont && e.ctx == t.ctx && e.future == some (((t.viewAt s.clk).S a.toNat).toNat / 4096 % 131072)) }).refillDeck k).completeFuture t.ctx 2
        (((t.viewAt s.clk).S a.toNat).toNat / 4096 % 131072) 1) {u : Team} (hu : s2.teams.find s.cur = some u) :
    PendsIn s s2 u (.fcancel d a) 6 (.values [⟨.s, d.toNat, 0, 1⟩] 0) := by
  have hx' : exec (.fcancel d a) s = execFcancel d a s := rfl
  unfold execFcancel at hx'
  have hc : s2.cur = s.cur := by rw [hs2, completeFuture_cur, refillDeck_cur]; rfl
  refine pendsIn_of_later hi hx' ?_ (by unfold State.me; rw [hc]; exact hu) hc rfl ho
  simp only [hr, handle_class, handle_slot, hcls, hx, Option.bind_some, hf, hl, ← hg, beq_self_eq_true, Bool.and_self, Bool.not_true,
    Bool.false_eq_true, if_false, hw, ← hs2]
  rfl

end

section
variable {a b : RegNo} {spec : Word} {s s1 : State} {t : Team} {n : Nat}

theorem trc_slotReg (spec : Word) : (spec.extractLsb' 8 7).toNat = spec.toNat / 256 % 128 := by
  rw [BitVec.extractLsb'_toNat, Nat.shiftRight_eq_div_pow]

/-- A `trc` with a current acceleration root, where the unit has room for all its rays (R199). -/
theorem execTrc_hands (hi : Issues s t (.trc a b spec)) (hd : t.done = 0) (hk : t.kept = [])
    (hr : s.readSlot t ((t.viewAt s.clk).S (spec.toNat / 256 % 128)) ((t.viewAt s.clk).actives.headD 0) 5 = .ok (s1, n))
    (hs : slotStale n ((t.viewAt s.clk).S (spec.toNat / 256 % 128)) 3 = false) (hb : rootBad n = false)
    (hroom : (s1.clusterAt t.cluster).rays.length + (t.viewAt s.clk).actives.length ≤ 2048) :
    ∃ s' t', exec (.trc a b spec) s = .next s' ∧ s'.teams.find s.cur = some t' ∧ GoesAs t t' (nextPc t.pc true) ∧
      s'.clusters.find t.cluster = some { s.clusterAt t.cluster with
        rays := (s.clusterAt t.cluster).rays ++
          raysOf s1.serial (t.viewAt s.clk) t a b spec ((t.viewAt s.clk).S (spec.toNat / 256 % 128 + 1)) n } := by
  have he : exec (.trc a b spec) s = execTrc a b spec s := rfl
  unfold execTrc at he
  have r := readKept_readSlot hr
  generalize hs2 : State.updCluster { s1 with serial := s1.serial + (t.viewAt s.clk).actives.length } t.cluster (fun k =>
    { k with rays := k.rays ++ raysOf s1.serial (t.viewAt s.clk) t a b spec ((t.viewAt s.clk).S (spec.toNat / 256 % 128 + 1)) n }) = s2
  have hcur : s2.cur = s.cur := by rw [← hs2]; exact r.cur
  have hme : s2.me = some t := by
    unfold State.me
    rw [hcur, ← hs2]
    exact (congrArg (SMap.find · s.cur) r.teams).trans hi.1
  obtain ⟨s', e, ⟨t', hf, hg⟩, hrest⟩ := leavesIn_of_done hi he
    (by simp only [hk, List.isEmpty_nil, Bool.not_true, Bool.false_eq_true, if_false, trc_slotReg, hr, hs, hb, Bool.or_self,
        handRays_room hd hroom, hs2]) hme rfl
  refine ⟨s', t', e, by rw [← hcur]; exact hf, hg, ?_⟩
  rw [show s'.clusters = s2.clusters from (congrArg State.clusters hrest.rest : s'.still.clusters = s2.still.clusters), ← hs2, updCluster_find,
    show State.clusterAt { s1 with serial := s1.serial + (t.viewAt s.clk).actives.length } t.cluster = s.clusterAt t.cluster from
      clusterAt_congr r.clusters t.cluster]

/-- A `trc` whose acceleration root is stale or breaks R403. -/
theorem execTrc_stale (hi : Issues s t (.trc a b spec)) (hk : t.kept = [])
    (hr : s.readSlot t ((t.viewAt s.clk).S (spec.toNat / 256 % 128)) ((t.viewAt s.clk).actives.headD 0) 5 = .ok (s1, n))
    (hx : slotStale n ((t.viewAt s.clk).S (spec.toNat / 256 % 128)) 3 = true ∨ rootBad n = true) :
    Traps s (.trc a b spec) 0x0B 0 (((t.viewAt s.clk).S (spec.toNat / 256 % 128)).setWidth 64) := by
  have he : exec (.trc a b spec) s = execTrc a b spec s := rfl
  unfold execTrc at he
  refine traps_of_body hi he ?_
  have hor : (slotStale n ((t.viewAt s.clk).S (spec.toNat / 256 % 128)) 3 || rootBad n) = true := by simpa using hx
  simp only [hk, List.isEmpty_nil, Bool.not_true, Bool.false_eq_true, if_false, trc_slotReg, hr, hor, if_true]

end

end Sys2Proof.Machine
end

section
/-! PROOF of O33. -/

namespace Sys2Proof
open Machine

/-- Settles O33: each instruction by the branch of its body, on the state that the reservation of its future or the read of its slot leaves. -/
theorem engines : Obligations.Engines := by
  unfold Obligations.Engines
  refine ⟨?_, ?_, ?_, ?_, ?_, ?_, ?_, ?_, ?_, ?_⟩
  · intro d a b s t x s' slot h c c' hi ho hroom r hb hx hn hc hf hok
    obtain ⟨s2, t', p, h1, h2, h3, h4, h5, h6, h7, h8, h9, h10, h11⟩ := execJob_formed hi ho hroom hb hx hn hc hf hok
    refine ⟨s2, t', p, _, h1, h2, h3, h4, h5, h6, h7, h8, h9, h10, ?_, h11⟩
    unfold State.clusterAt
    cases s.clusters.find t.cluster <;> rfl
  · intro d a b s t off hi ho hne
    exact ⟨fun hw => execJob_badBlock hi ho hne (record32_outside hw), fun hw ha => execJob_badBlock hi ho hne (record32_misaligned hw ha)⟩
  · intro d a b s t x s' slot h hi ho hroom r off words hd hw ha hp hx hn htg
    obtain ⟨s2, t', p, h1, h2, h3, h4, h5, h6, h7, h8, h9, h10, h11⟩ := execSpawn_queued hi ho hroom hd hw ha hp hx hn htg
    refine ⟨s2, t', p, _, h1, h2, h3, h4, h5, h6, h7, h8, h9, h10, ?_, h11⟩
    unfold State.clusterAt
    cases s.clusters.find t.cluster <;> rfl
  · intro d a b s t x s' slot h hi ho hroom r off target hd hw ha hp hx hn htg s2 u hu
    exact execSpawn_noTarget hi ho hroom hd hw ha hp hx hn htg hu
  · intro d a b s t hi hd
    have he : exec (.spawn d a b) s = execSpawn d a b s := rfl
    unfold execSpawn at he
    exact traps_of_body hi he (by simp only [hd, if_true])
  · intro d a s t hi ho hr h hf
    exact execFcancel_dead hi ho hr hf
  · intro d a s t x f k c hi ho hr h slot hcls hx hf hl hg hk hex
    obtain ⟨e0, hm, h1, h2, h3, h4, h5⟩ := hex
    have hc0 : e0.cancels t.ctx slot = true := by simp [Card.cancels, h1, h2, h3, h4, h5]
    cases he : c.cards.find? (·.cancels t.ctx slot) with
    | none => exact absurd hc0 (List.find?_eq_none.1 he e0 hm)
    | some e =>
      obtain ⟨s', t', p, g1, g2, g3, g4, g5, g6, g7, g8⟩ := execFcancel_card hi ho hr hcls hx hf hl hg hk he
      have hck : s.clusterAt k = c := clusterAt_some (by rw [hk]; simp [SMap.find])
      have hfut : e.future = some slot := by
        have := List.find?_some he
        simp only [Card.cancels, Bool.and_eq_true, beq_iff_eq] at this
        exact this.1.1.1.2
      have hin : e ∈ (s.clusterAt k).cards := by rw [hck]; exact List.mem_of_find?_eq_some he
      obtain ⟨c', hc', hec⟩ := updCard_find hin fun c => { c with cancelled := true, halted := none }
      exact ⟨s', t', p, _, g1, g2, g3, g4, g5, g6, g7, c', by rw [g8]; exact hc', hec, hfut, rfl⟩
  · intro d a s t x f k hi ho hr h slot hcls hx hf hl hg hw s2 u hu
    exact execFcancel_deck hi ho hr hcls hx hf hl hg hw rfl hu
  · intro a b spec s t s1 n hi r sreg room haf hk hr hs hb hroom
    have hroom' : (s1.clusterAt t.cluster).rays.length + r.actives.length ≤ 2048 := by
      unfold State.clusterAt
      cases hc : s1.clusters.find t.cluster with
      | none => simpa [room, hc] using hroom
      | some k => simpa [room, hc] using hroom
    obtain ⟨s', t', h1, h2, h3, h4⟩ := execTrc_hands hi haf.1 hk hr hs hb hroom'
    refine ⟨s', t', _, h1, h2, h3, h4, ?_⟩
    unfold State.clusterAt
    cases s.clusters.find t.cluster <;> rfl
  · intro a b spec s t s1 n hi r sreg hk hr hx
    exact execTrc_stale hi hk hr hx

end Sys2Proof
end

section
/-! SUPPORT of O54: the fields of a word (R53), and how immediates and pair names are cut and joined again. -/

namespace Sys2Proof

/-! Fields joined to an immediate, and cut out of it again. -/
theorem imm10_b (b : RegNo) (m : BitVec 3) : (b ++ m : BitVec 10).extractLsb' 3 7 = b := BitVec.extractLsb'_append_eq_left
theorem imm10_m (b : RegNo) (m : BitVec 3) : (b ++ m : BitVec 10).extractLsb' 0 3 = m := BitVec.extractLsb'_append_eq_right
theorem imm17_a (a b : RegNo) (m : BitVec 3) : (a ++ b ++ m : BitVec 17).extractLsb' 10 7 = a := by
  rw [BitVec.extractLsb'_append_eq_of_le (by decide)]; exact BitVec.extractLsb'_append_eq_left
theorem imm17_b (a b : RegNo) (m : BitVec 3) : (a ++ b ++ m : BitVec 17).extractLsb' 3 7 = b := by
  rw [BitVec.extractLsb'_append_eq_of_le (by decide)]; exact BitVec.extractLsb'_append_eq_right
theorem imm17_m (a b : RegNo) (m : BitVec 3) : (a ++ b ++ m : BitVec 17).extractLsb' 0 3 = m := BitVec.extractLsb'_append_eq_right
theorem imm24_d (d a b : RegNo) (m : BitVec 3) : (d ++ a ++ b ++ m : BitVec 24).extractLsb' 17 7 = d := by
  rw [BitVec.extractLsb'_append_eq_of_le (by decide), BitVec.extractLsb'_append_eq_of_le (by decide)]
  exact BitVec.extractLsb'_append_eq_left
theorem imm24_a (d a b : RegNo) (m : BitVec 3) : (d ++ a ++ b ++ m : BitVec 24).extractLsb' 10 7 = a := by
  rw [BitVec.extractLsb'_append_eq_of_le (by decide), BitVec.extractLsb'_append_eq_of_le (by decide)]
  exact BitVec.extractLsb'_append_eq_right
theorem imm24_b (d a b : RegNo) (m : BitVec 3) : (d ++ a ++ b ++ m : BitVec 24).extractLsb' 3 7 = b := by
  rw [BitVec.extractLsb'_append_eq_of_le (by decide)]; exact BitVec.extractLsb'_append_eq_right
theorem imm24_m (d a b : RegNo) (m : BitVec 3) : (d ++ a ++ b ++ m : BitVec 24).extractLsb' 0 3 = m := BitVec.extractLsb'_append_eq_right
theorem imm10_joined (x : BitVec 10) : x.extractLsb' 3 7 ++ x.extractLsb' 0 3 = x := by
  rw [BitVec.extractLsb'_append_extractLsb'_eq_extractLsb' (by decide)]; exact BitVec.extractLsb'_eq_self
theorem imm17_joined (x : BitVec 17) : x.extractLsb' 10 7 ++ x.extractLsb' 3 7 ++ x.extractLsb' 0 3 = x := by
  iterate 2 rw [BitVec.extractLsb'_append_extractLsb'_eq_extractLsb' (by decide)]
  exact BitVec.extractLsb'_eq_self
theorem imm24_joined (x : BitVec 24) : x.extractLsb' 17 7 ++ x.extractLsb' 10 7 ++ x.extractLsb' 3 7 ++ x.extractLsb' 0 3 = x := by
  iterate 3 rw [BitVec.extractLsb'_append_extractLsb'_eq_extractLsb' (by decide)]
  exact BitVec.extractLsb'_eq_self

/-! Single bits: the width of an atomic beside its pair of registers (R61), and the flag in mod (R59). -/
theorem ofBool_getLsbD {w : Nat} (x : BitVec w) (k : Nat) : BitVec.ofBool (x.getLsbD k) = x.extractLsb' k 1 := by
  apply BitVec.eq_of_getLsbD_eq
  intro i hi
  obtain rfl : i = 0 := by omega
  simp
theorem pairWide_pair (a : BitVec 6) (w : Bool) : (a ++ BitVec.ofBool w : BitVec 7).extractLsb' 1 6 = a := BitVec.extractLsb'_append_eq_left
theorem pairWide_wide (a : BitVec 6) (w : Bool) : (a ++ BitVec.ofBool w : BitVec 7).getLsbD 0 = w := by
  rw [BitVec.getLsbD_append]; simp
theorem pairWide_joined (a : RegNo) : a.extractLsb' 1 6 ++ BitVec.ofBool (a.getLsbD 0) = a := by
  rw [ofBool_getLsbD, BitVec.extractLsb'_append_extractLsb'_eq_extractLsb' (by decide)]; exact BitVec.extractLsb'_eq_self
theorem mod_joined (m : BitVec 3) : BitVec.ofBool (m.getLsbD 2) ++ m.extractLsb' 0 2 = m := by
  rw [ofBool_getLsbD, BitVec.extractLsb'_append_extractLsb'_eq_extractLsb' (by decide)]; exact BitVec.extractLsb'_eq_self
theorem mod_flag (u : Bool) (m : BitVec 2) : (BitVec.ofBool u ++ m : BitVec 3).getLsbD 2 = u := by
  rw [BitVec.getLsbD_append]; simp
theorem mod_sel (u : Bool) (m : BitVec 2) : (BitVec.ofBool u ++ m : BitVec 3).extractLsb' 0 2 = m := BitVec.extractLsb'_append_eq_right

theorem mod_of_sel {m : BitVec 3} {x : BitVec 2} (h : (m.extractLsb' 0 2).toNat = x.toNat) : BitVec.ofBool (m.getLsbD 2) ++ x = m := by
  rw [← BitVec.eq_of_toNat_eq h]; exact mod_joined m
theorem mod_of_sel_flag {m : BitVec 3} {x : BitVec 2} (h : (m.extractLsb' 0 2).toNat = x.toNat) (hf : m.getLsbD 2 = false) :
    0#1 ++ x = m := by
  rw [← mod_of_sel h, hf]; rfl

/-! Fields of which some bits must be zero: mod of the reductions (R138 to R140), the code of `trap` and the mask of `pfence`. -/
theorem teamBit_joined : ∀ m : BitVec 3, m.extractLsb' 1 2 = 0 → 0#2 ++ BitVec.ofBool (m.getLsbD 0) = m := by decide
theorem teamExclBits_joined : ∀ m : BitVec 3, m.getLsbD 2 = false → 0#1 ++ BitVec.ofBool (m.getLsbD 1) ++ BitVec.ofBool (m.getLsbD 0) = m := by
  decide
theorem teamBit_top : ∀ w : Bool, (0#2 ++ BitVec.ofBool w : BitVec 3).extractLsb' 1 2 = 0 := by decide
theorem teamBit_low : ∀ w : Bool, (0#2 ++ BitVec.ofBool w : BitVec 3).getLsbD 0 = w := by decide
theorem teamExclBits_top : ∀ x w : Bool, (0#1 ++ BitVec.ofBool x ++ BitVec.ofBool w : BitVec 3).getLsbD 2 = false := by decide
theorem teamExclBits_team : ∀ x w : Bool, (0#1 ++ BitVec.ofBool x ++ BitVec.ofBool w : BitVec 3).getLsbD 0 = w := by decide
theorem teamExclBits_excl : ∀ x w : Bool, (0#1 ++ BitVec.ofBool x ++ BitVec.ofBool w : BitVec 3).getLsbD 1 = x := by decide
theorem sixBits_joined : ∀ a : RegNo, a.getLsbD 6 = false → 0#1 ++ a.extractLsb' 0 6 = a := by decide
theorem oneBit_joined : ∀ b : RegNo, b.extractLsb' 1 6 = 0 → 0#6 ++ b.extractLsb' 0 1 = b := by decide
theorem sixBits_top : ∀ x : BitVec 6, (0#1 ++ x : BitVec 7).getLsbD 6 = false := by decide
theorem sixBits_low (x : BitVec 6) : (0#1 ++ x : BitVec 7).extractLsb' 0 6 = x := BitVec.extractLsb'_append_eq_right
theorem oneBit_top : ∀ x : BitVec 1, (0#6 ++ x : BitVec 7).extractLsb' 1 6 = 0 := by decide
theorem oneBit_low (x : BitVec 1) : (0#6 ++ x : BitVec 7).extractLsb' 0 1 = x := BitVec.extractLsb'_append_eq_right
theorem trapCode_a (a : BitVec 6) (b : RegNo) (m : BitVec 3) : (a ++ b ++ m : BitVec 16).extractLsb' 10 6 = a := by
  rw [BitVec.extractLsb'_append_eq_of_le (by decide)]; exact BitVec.extractLsb'_append_eq_left
theorem trapCode_b (a : BitVec 6) (b : RegNo) (m : BitVec 3) : (a ++ b ++ m : BitVec 16).extractLsb' 3 7 = b := by
  rw [BitVec.extractLsb'_append_eq_of_le (by decide)]; exact BitVec.extractLsb'_append_eq_right
theorem trapCode_m (a : BitVec 6) (b : RegNo) (m : BitVec 3) : (a ++ b ++ m : BitVec 16).extractLsb' 0 3 = m := BitVec.extractLsb'_append_eq_right
theorem trapCode_joined (x : BitVec 16) : x.extractLsb' 10 6 ++ x.extractLsb' 3 7 ++ x.extractLsb' 0 3 = x := by
  iterate 2 rw [BitVec.extractLsb'_append_extractLsb'_eq_extractLsb' (by decide)]
  exact BitVec.extractLsb'_eq_self
theorem pathMask_b (b : BitVec 1) (m : BitVec 3) : (b ++ m : BitVec 4).extractLsb' 3 1 = b := BitVec.extractLsb'_append_eq_left
theorem pathMask_m (b : BitVec 1) (m : BitVec 3) : (b ++ m : BitVec 4).extractLsb' 0 3 = m := BitVec.extractLsb'_append_eq_right
theorem pathMask_joined (x : BitVec 4) : x.extractLsb' 3 1 ++ x.extractLsb' 0 3 = x := by
  rw [BitVec.extractLsb'_append_extractLsb'_eq_extractLsb' (by decide)]; exact BitVec.extractLsb'_eq_self

/-- The fields of the word that fields make are those fields (R53). -/
theorem Fields.ofWord_word (f : Fields) : Fields.ofWord f.word f.lit = f := by
  obtain ⟨u, op, d, a, b, m, lit⟩ := f
  simp only [Fields.ofWord, Fields.word, Fields.mk.injEq, and_true]
  refine ⟨?_, ?_, ?_, ?_, ?_, BitVec.extractLsb'_append_eq_right⟩
  · iterate 5 rw [BitVec.getLsbD_append]
    simp
  · iterate 4 rw [BitVec.extractLsb'_append_eq_of_le (by decide)]
    exact BitVec.extractLsb'_append_eq_right
  · iterate 3 rw [BitVec.extractLsb'_append_eq_of_le (by decide)]
    exact BitVec.extractLsb'_append_eq_right
  · iterate 2 rw [BitVec.extractLsb'_append_eq_of_le (by decide)]
    exact BitVec.extractLsb'_append_eq_right
  · rw [BitVec.extractLsb'_append_eq_of_le (by decide)]
    exact BitVec.extractLsb'_append_eq_right
/-- No bit of a word is outside its fields (R53). -/
theorem Fields.word_ofWord (w : Word) (lit : Option Word) : (Fields.ofWord w lit).word = w := by
  rw [Fields.word, Fields.ofWord, ofBool_getLsbD]
  iterate 5 rw [BitVec.extractLsb'_append_extractLsb'_eq_extractLsb' (by decide)]
  exact BitVec.extractLsb'_eq_self

end Sys2Proof
end

section
/-! SUPPORT of O54: each operand form, laid out and read back (R54 to R64). -/

namespace Sys2Proof

/-- The field b of an L-set "sel" operand. -/
def OpB.field : OpB → RegNo
  | .reg b => b
  | .uni b => b
  | .lit _ => 0
  | .pat b _ => b
/-- The low two bits of mod for an L-set "sel" operand (R57). -/
def OpB.selBits : OpB → BitVec 2
  | .reg _ => 0
  | .uni _ => 1
  | .lit _ => 2
  | .pat _ _ => 3
/-- The literal of an L-set "sel" operand. -/
def OpB.literal : OpB → Option Word
  | .reg _ => none
  | .uni _ => none
  | .lit w => some w
  | .pat _ w => some w
/-- An L-set operand that a U-set operand is laid out as (R57). -/
def OpU.toB : OpU → OpB
  | .reg b => .reg b
  | .lit w => .lit w
/-- The field b of a "lit" operand (R58). -/
def OpL.field : OpL → RegNo
  | .reg b => b
  | .lit _ => 0
/-- The literal of a "lit" operand. -/
def OpL.literal : OpL → Option Word
  | .reg _ => none
  | .lit w => some w
/-- The field b of a selector (R64). -/
def Selr.field : Selr → RegNo
  | .imm b => b
  | .uni b => b
  | .lit _ => 0
/-- The mod field of a selector (R64). -/
def Selr.mod : Selr → BitVec 3
  | .imm _ => 0
  | .uni _ => 1
  | .lit _ => 2
/-- The literal of a selector. -/
def Selr.literal : Selr → Option Word
  | .imm _ => none
  | .uni _ => none
  | .lit w => some w

theorem Selr.literal_of_wOk {n : Selr} (h : n.wOk = true) : n.literal = none := by
  cases n with
  | lit w => exact nomatch h
  | imm b => rfl
  | uni b => rfl
theorem Selr.literal_of_nOk {n : Selr} (h : n.nOk = true) : n.literal = none := by
  cases n with
  | lit w => exact nomatch h
  | imm b => rfl
  | uni b => rfl

theorem encB_eq (u : Bool) (op : BitVec 7) (d a : RegNo) (o : OpB) (flag : Bool) :
    encB u op d a o flag = ⟨u, op, d, a, o.field, BitVec.ofBool flag ++ o.selBits, o.literal⟩ := by cases o <;> rfl
theorem encU_eq (u : Bool) (op : BitVec 7) (d a : RegNo) (o : OpU) (flag : Bool) :
    encU u op d a o flag = ⟨u, op, d, a, o.toB.field, BitVec.ofBool flag ++ o.toB.selBits, o.toB.literal⟩ := by cases o <;> rfl
theorem encL_eq (u : Bool) (op : BitVec 7) (d a : RegNo) (o : OpL) (m : BitVec 3) :
    encL u op d a o m = ⟨u, op, d, a, o.field, m, o.literal⟩ := by cases o <;> rfl
theorem encSelr_eq (u : Bool) (op : BitVec 7) (d a : RegNo) (n : Selr) :
    encSelr u op d a n = ⟨u, op, d, a, n.field, n.mod, n.literal⟩ := by cases n <;> rfl

theorem guardField_pos {c : Prop} [Decidable c] {i : Instr} (h : c) : guardField c i = .ok i := if_pos h
theorem alsoField_ok {c : Prop} [Decidable c] {r : Except DecodeError Instr} {i : Instr} (h : c) (hr : r = .ok i) : alsoField c r = .ok i := by
  subst hr; exact guardField_pos h

section
variable (u : Bool) (op : BitVec 7) (d a b : RegNo) (m : BitVec 3)

/-! What is laid out is read back. -/
theorem withB_layout (o : OpB) {flag allowed : Bool} (h : flag = true → allowed = true) (k : OpB → Bool → Instr) :
    Fields.withB ⟨u, op, d, a, o.field, BitVec.ofBool flag ++ o.selBits, o.literal⟩ allowed k = .ok (k o flag) := by
  cases o <;> simp only [Fields.withB, mod_sel, mod_flag, OpB.selBits, OpB.field, OpB.literal] <;> exact guardField_pos (by simpa using h)
theorem withU_layout (o : OpU) {flag allowed : Bool} (h : flag = true → allowed = true) (k : OpU → Bool → Instr) :
    Fields.withU ⟨u, op, d, a, o.toB.field, BitVec.ofBool flag ++ o.toB.selBits, o.toB.literal⟩ allowed k = .ok (k o flag) := by
  cases o <;> simp only [Fields.withU, mod_sel, mod_flag, OpU.toB, OpB.selBits, OpB.field, OpB.literal] <;> exact guardField_pos (by simpa using h)
theorem withB_layout_unflagged (o : OpB) {allowed : Bool} (k : OpB → Instr) :
    Fields.withB ⟨u, op, d, a, o.field, BitVec.ofBool false ++ o.selBits, o.literal⟩ allowed (fun o _ => k o) = .ok (k o) :=
  withB_layout u op d a o Bool.noConfusion fun o _ => k o
theorem withU_layout_unflagged (o : OpU) {allowed : Bool} (k : OpU → Instr) :
    Fields.withU ⟨u, op, d, a, o.toB.field, BitVec.ofBool false ++ o.toB.selBits, o.toB.literal⟩ allowed (fun o _ => k o) = .ok (k o) :=
  withU_layout u op d a o Bool.noConfusion fun o _ => k o
theorem withL_layout (o : OpL) (k : OpL → Instr) : Fields.withL ⟨u, op, d, a, o.field, m, o.literal⟩ k = .ok (k o) := by
  cases o <;> rfl
theorem withSrc_layout (o : LaneSrc) (k : LaneSrc → Instr) : Fields.withSrc (encSrc u op d a o) k = .ok (k o) := by
  cases o <;> simp [encSrc, Fields.withSrc, guardField]
theorem withSelr_layout (n : Selr) {lane : Bool} (h : n.literal = none ∨ lane = true) (k : Selr → Instr) :
    Fields.withSelr ⟨u, op, d, a, n.field, n.mod, n.literal⟩ lane k = .ok (k n) := by
  cases n <;> simp_all [Fields.withSelr, Selr.field, Selr.mod, Selr.literal]
end

/-- The encoder lays out what a reading of the fields gives, if it gives something, as those fields. -/
def Lays (f : Fields) (r : Except DecodeError Instr) : Prop := ∀ i, r = .ok i → encode i = some f

section
variable {f : Fields}

theorem guardField_lays {c : Prop} [Decidable c] {i : Instr} (h : c → encode i = some f) : Lays f (guardField c i) := by
  intro j hj
  unfold guardField at hj
  split at hj
  · next hc => cases hj; exact h hc
  · cases hj
theorem alsoField_lays {c : Prop} [Decidable c] {r : Except DecodeError Instr} (h : c → Lays f r) : Lays f (alsoField c r) := by
  unfold alsoField
  split
  · exact guardField_lays fun hc => h hc _ rfl
  · exact fun _ hj => nomatch hj
theorem need_lays {c : Prop} [Decidable c] {i : Instr} (h : c → encode i = some { f with lit := none }) : Lays f (f.need c i) := by
  obtain ⟨u, op, d, a, b, m, lit⟩ := f
  cases lit with
  | none => exact guardField_lays h
  | some w => exact fun _ hj => nomatch hj
theorem plain_lays {i : Instr} (h : encode i = some { f with lit := none }) : Lays f (f.plain i) := by
  obtain ⟨u, op, d, a, b, m, lit⟩ := f
  cases lit with
  | none => exact fun _ hj => by cases hj; exact h
  | some w => exact fun _ hj => nomatch hj
/-- An immediate of 10, 17 or 24 bits (R53). -/
theorem plain_lays_imm10 {i : Instr}
    (h : encode i = some ⟨f.u, f.op, f.d, f.a, (f.b ++ f.m : BitVec 10).extractLsb' 3 7, (f.b ++ f.m : BitVec 10).extractLsb' 0 3, none⟩) :
    Lays f (f.plain i) := plain_lays (by rw [h, imm10_b, imm10_m])
theorem plain_lays_imm17 {i : Instr} (h : encode i = some ⟨f.u, f.op, f.d, (f.a ++ f.b ++ f.m : BitVec 17).extractLsb' 10 7,
      (f.a ++ f.b ++ f.m : BitVec 17).extractLsb' 3 7, (f.a ++ f.b ++ f.m : BitVec 17).extractLsb' 0 3, none⟩) :
    Lays f (f.plain i) := plain_lays (by rw [h, imm17_a, imm17_b, imm17_m])
theorem plain_lays_imm24 {i : Instr} (h : encode i = some ⟨f.u, f.op, (f.d ++ f.a ++ f.b ++ f.m : BitVec 24).extractLsb' 17 7,
      (f.d ++ f.a ++ f.b ++ f.m : BitVec 24).extractLsb' 10 7, (f.d ++ f.a ++ f.b ++ f.m : BitVec 24).extractLsb' 3 7,
      (f.d ++ f.a ++ f.b ++ f.m : BitVec 24).extractLsb' 0 3, none⟩) :
    Lays f (f.plain i) := plain_lays (by rw [h, imm24_d, imm24_a, imm24_b, imm24_m])
theorem plain_lays_wide {i : Instr}
    (h : encode i = some ⟨f.u, f.op, f.d, f.a.extractLsb' 1 6 ++ BitVec.ofBool (f.a.getLsbD 0), f.b, f.m, none⟩) :
    Lays f (f.plain i) := plain_lays (by rw [h, pairWide_joined])
/-- An acquiring load or a releasing store (R61). -/
theorem need_lays_wide {i : Instr}
    (h : encode i = some ⟨f.u, f.op, f.d, f.a.extractLsb' 1 6 ++ BitVec.ofBool (f.a.getLsbD 0), 0, f.m, none⟩) :
    Lays f (f.need (f.b = 0) i) := need_lays fun hb => by rw [h, pairWide_joined, hb]
theorem withLit_lays {c : Prop} [Decidable c] {k : Word → Instr} (h : c → ∀ w, encode (k w) = some { f with lit := some w }) :
    Lays f (f.withLit c k) := by
  obtain ⟨u, op, d, a, b, m, lit⟩ := f
  cases lit with
  | none => exact fun _ hj => nomatch hj
  | some w => exact guardField_lays fun hc => h hc w
theorem withB_lays {flag : Bool} {k : OpB → Bool → Instr}
    (h : ∀ o u, (u = true → flag = true) → encode (k o u) = some (encB f.u f.op f.d f.a o u)) : Lays f (f.withB flag k) := by
  have laid (o : OpB) (hs : (f.m.extractLsb' 0 2).toNat = o.selBits.toNat) (hl : f.lit = o.literal) (hb : f.b = o.field)
      (hf : f.m.getLsbD 2 = true → flag = true) : encode (k o (f.m.getLsbD 2)) = some f := by
    rw [h o _ hf, encB_eq, mod_of_sel hs, ← hl, ← hb]
  unfold Fields.withB
  split
  · next hs hl => exact guardField_lays (laid (.reg f.b) hs hl rfl)
  · next hs hl => exact guardField_lays (laid (.uni f.b) hs hl rfl)
  · next hs hl => exact guardField_lays fun hc => laid (.lit _) hs hl hc.1 hc.2
  · next hs hl => exact guardField_lays (laid (.pat f.b _) hs hl rfl)
  all_goals exact fun _ hj => nomatch hj
theorem withU_lays {flag : Bool} {k : OpU → Bool → Instr}
    (h : ∀ o u, (u = true → flag = true) → encode (k o u) = some (encU f.u f.op f.d f.a o u)) : Lays f (f.withU flag k) := by
  have laid (o : OpU) (hs : (f.m.extractLsb' 0 2).toNat = o.toB.selBits.toNat) (hl : f.lit = o.toB.literal) (hb : f.b = o.toB.field)
      (hf : f.m.getLsbD 2 = true → flag = true) : encode (k o (f.m.getLsbD 2)) = some f := by
    rw [h o _ hf, encU_eq, mod_of_sel hs, ← hl, ← hb]
  unfold Fields.withU
  split
  · next hs hl => exact guardField_lays (laid (.reg f.b) hs hl rfl)
  · next hs hl => exact guardField_lays fun hc => laid (.lit _) hs hl hc.1 hc.2
  all_goals exact fun _ hj => nomatch hj
/-! An instruction whose flag is free (R59), and one that has none. -/
theorem withB_lays_flagged {k : OpB → Bool → Instr} (h : ∀ o u, encode (k o u) = some (encB f.u f.op f.d f.a o u)) :
    Lays f (f.withB true k) := withB_lays fun o u _ => h o u
theorem withB_lays_unflagged {k : OpB → Instr} (h : ∀ o, encode (k o) = some (encB f.u f.op f.d f.a o false)) :
    Lays f (f.withB false fun o _ => k o) :=
  withB_lays fun o u hu => by rw [h, eq_false_of_ne_true fun hc => nomatch hu hc]
theorem withU_lays_flagged {k : OpU → Bool → Instr} (h : ∀ o u, encode (k o u) = some (encU f.u f.op f.d f.a o u)) :
    Lays f (f.withU true k) := withU_lays fun o u _ => h o u
theorem withU_lays_unflagged {k : OpU → Instr} (h : ∀ o, encode (k o) = some (encU f.u f.op f.d f.a o false)) :
    Lays f (f.withU false fun o _ => k o) :=
  withU_lays fun o u hu => by rw [h, eq_false_of_ne_true fun hc => nomatch hu hc]

theorem withL_lays {k : OpL → Instr} (h : ∀ o, encode (k o) = some (encL f.u f.op f.d f.a o f.m)) : Lays f (f.withL k) := by
  have laid (o : OpL) (hl : f.lit = o.literal) (hb : f.b = o.field) : encode (k o) = some f := by
    rw [h o, encL_eq, ← hl, ← hb]
  unfold Fields.withL
  split
  · next hl => exact fun _ hj => by cases hj; exact laid (.reg f.b) hl rfl
  · next w hl => exact guardField_lays (laid (.lit w) hl)
/-- An atomic, whose field a holds a pair of registers and the width (R61). -/
theorem withL_lays_wide {k : OpL → Instr} (h : ∀ o, encode (k o) = some (encL f.u f.op f.d (f.a.extractLsb' 1 6 ++ BitVec.ofBool (f.a.getLsbD 0)) o f.m)) :
    Lays f (f.withL k) := withL_lays fun o => by rw [h, pairWide_joined]
theorem withSrc_lays {k : LaneSrc → Instr} (h : ∀ o, encode (k o) = some (encSrc f.u f.op f.d f.a o)) : Lays f (f.withSrc k) := by
  have laid (x : BitVec 2) (hs : (f.m.extractLsb' 0 2).toNat = x.toNat) (hf : f.m.getLsbD 2 = false) :
      Fields.mk f.u f.op f.d f.a f.b (0#1 ++ x) f.lit = f := by
    rw [mod_of_sel_flag hs hf]
  unfold Fields.withSrc
  split
  · next hs hl => exact guardField_lays fun hc => by rw [h, ← laid 0 hs hc, hl]; rfl
  · next hs hl => exact guardField_lays fun hc => by rw [h, ← laid 1 hs hc, hl]; rfl
  · next hs hl => exact guardField_lays fun hc => by rw [h, ← laid 2 hs hc.1, hl, hc.2]; rfl
  · next hs hl => exact guardField_lays fun hc => by rw [h, ← laid 3 hs hc.1, hl, hc.2]; rfl
  all_goals exact fun _ hj => nomatch hj
theorem withSelr_lays {lane : Bool} {k : Selr → Instr} (h : ∀ n, encode (k n) = some (encSelr f.u f.op f.d f.a n)) :
    Lays f (f.withSelr lane k) := by
  have laid (n : Selr) (hm : f.m.toNat = n.mod.toNat) (hl : f.lit = n.literal) (hb : f.b = n.field) : encode (k n) = some f := by
    rw [h n, encSelr_eq, ← BitVec.eq_of_toNat_eq hm, ← hl, ← hb]
  unfold Fields.withSelr
  split
  · next hm hl => exact fun _ hj => by cases hj; exact laid (.imm f.b) hm hl rfl
  · next hm hl => exact fun _ hj => by cases hj; exact laid (.uni f.b) hm hl rfl
  · next hm hl =>
    split
    · exact fun _ hj => nomatch hj
    · exact guardField_lays (laid (.lit _) hm hl)
  · split <;> exact fun _ hj => nomatch hj
  all_goals exact fun _ hj => nomatch hj

end

/-! A word that the decoder reads is the word of its instruction (R70, R71): one line for each form, then the instructions whose fields
have a form of their own. -/

theorem decodeL_lays (op : BitVec 7) (d a b : RegNo) (m : BitVec 3) (lit : Option Word) :
    Lays ⟨false, op, d, a, b, m, lit⟩ (decodeL ⟨false, op, d, a, b, m, lit⟩) := by
  obtain ⟨n, hn⟩ := op
  unfold decodeL
  dsimp only [BitVec.toNat_ofFin]
  split
  any_goals exact withB_lays_flagged fun _ _ => rfl
  any_goals exact withB_lays_unflagged fun _ => rfl
  any_goals (refine alsoField_lays ?_; rintro rfl; exact withB_lays_unflagged fun _ => rfl)
  any_goals exact withL_lays fun _ => rfl
  any_goals exact withL_lays_wide fun _ => rfl
  any_goals (refine alsoField_lays ?_; rintro rfl; exact withL_lays_wide fun _ => rfl)
  any_goals exact withSrc_lays fun _ => rfl
  any_goals (refine withLit_lays ?_; rintro ⟨rfl, rfl⟩ _; rfl)
  any_goals exact plain_lays rfl
  any_goals exact plain_lays_imm10 rfl
  any_goals exact plain_lays_imm17 rfl
  any_goals exact plain_lays_wide rfl
  any_goals (refine need_lays ?_; rintro rfl; rfl)
  any_goals (refine need_lays ?_; rintro ⟨rfl, rfl⟩; rfl)
  any_goals (refine need_lays ?_; rintro ⟨rfl, rfl, rfl⟩; rfl)
  · exact need_lays fun h => congrArg (fun x => some (Fields.mk false 0x49 d a b x none)) (teamBit_joined m h)
  · exact need_lays fun h => congrArg (fun x => some (Fields.mk false 0x4A d a b x none)) (teamExclBits_joined m h)
  · refine need_lays ?_
    rintro ⟨rfl, h⟩
    exact congrArg (fun x => some (Fields.mk false 0x4B d a 0 x none)) (teamBit_joined m h)
  · exact fun _ hj => nomatch hj

theorem decodeU_lays (op : BitVec 7) (d a b : RegNo) (m : BitVec 3) (lit : Option Word) :
    Lays ⟨true, op, d, a, b, m, lit⟩ (decodeU ⟨true, op, d, a, b, m, lit⟩) := by
  obtain ⟨n, hn⟩ := op
  unfold decodeU
  dsimp only [BitVec.toNat_ofFin]
  split
  any_goals exact withU_lays_flagged fun _ _ => rfl
  any_goals exact withU_lays_unflagged fun _ => rfl
  any_goals (refine alsoField_lays ?_; rintro rfl; exact withU_lays_unflagged fun _ => rfl)
  any_goals exact withL_lays fun _ => rfl
  any_goals exact withL_lays_wide fun _ => rfl
  any_goals exact withSelr_lays fun _ => rfl
  any_goals (refine alsoField_lays ?_; rintro ⟨rfl, rfl⟩; exact withSelr_lays fun _ => rfl)
  any_goals exact plain_lays rfl
  any_goals exact plain_lays_imm10 rfl
  any_goals exact plain_lays_imm17 rfl
  any_goals exact plain_lays_imm24 rfl
  any_goals exact plain_lays_wide rfl
  any_goals exact need_lays_wide rfl
  any_goals (refine need_lays ?_; rintro rfl; rfl)
  any_goals (refine need_lays ?_; rintro ⟨rfl, rfl⟩; rfl)
  any_goals (refine need_lays ?_; rintro ⟨rfl, rfl, rfl⟩; rfl)
  any_goals (refine need_lays ?_; rintro ⟨rfl, rfl, rfl, rfl⟩; rfl)
  · refine need_lays ?_
    rintro ⟨rfl, h⟩
    rw [encode, trapCode_a, trapCode_b, trapCode_m, sixBits_joined a h]; rfl
  · refine need_lays ?_
    rintro ⟨rfl, rfl, h⟩
    rw [encode, pathMask_b, pathMask_m, oneBit_joined b h]; rfl
  · exact fun _ hj => nomatch hj

theorem decodeFields_lays (f : Fields) : Lays f (decodeFields f) := by
  obtain ⟨u, op, d, a, b, m, lit⟩ := f
  cases u with
  | false => exact decodeL_lays op d a b m lit
  | true => exact decodeU_lays op d a b m lit

/-! The word of a well-formed instruction is read back as the instruction (R70, R71). -/

section
variable (u : Bool) (op : BitVec 7) (d a b : RegNo) (m : BitVec 3)
/-- At an opcode whose instruction `C` has a "lit" operand and a condition in mod, and at one that is an atomic with such an operand (R61). -/
theorem decodeFields_encL {C : RegNo → RegNo → OpL → BitVec 3 → Instr}
    (h : ∀ d a b m lit, decodeFields ⟨u, op, d, a, b, m, lit⟩ = Fields.withL ⟨u, op, d, a, b, m, lit⟩ fun o => C d a o m) (o : OpL) :
    decodeFields (encL u op d a o m) = .ok (C d a o m) := by
  rw [encL_eq, h, withL_layout]
theorem decodeFields_encL_wide {C : RegNo → BitVec 6 → Bool → OpL → BitVec 3 → Instr}
    (h : ∀ d a b m lit, decodeFields ⟨u, op, d, a, b, m, lit⟩ =
      Fields.withL ⟨u, op, d, a, b, m, lit⟩ fun o => C d (a.extractLsb' 1 6) (a.getLsbD 0) o m) (p : BitVec 6) (w : Bool) (o : OpL) :
    decodeFields (encL u op d (p ++ BitVec.ofBool w) o m) = .ok (C d p w o m) := by
  rw [encL_eq, h, withL_layout, pairWide_pair, pairWide_wide]
end

theorem decodeFields_encode {i : Instr} (hw : i.wf = true) : ∀ f, encode i = some f → decodeFields f = .ok i := by
  cases i
  all_goals rintro _ ⟨⟩
  any_goals rfl
  case iadd | isub | imul | imac | and | or | xor | andn | shl | shr | sar | bfi | tdec | tenc | npack | nunpk | fxq | fxdq | cpa =>
    rw [encB_eq]; exact withB_layout_unflagged _ _ _ _ _ _
  case mov => rw [encB_eq]; exact alsoField_ok rfl (withB_layout_unflagged _ _ _ _ _ _)
  case imulhi | imin | imax | iabsd | iaddsat | isubsat | bfx | lea | fadd | fsub | fmul | ffma | fmin | fmax | fminnm | fmaxnm
      | pkadd | pkmul | pkfma | pkbfma | pkdot | dadd | dmul | dfma =>
    rw [encB_eq]; exact withB_layout _ _ _ _ _ (fun _ => rfl) _
  case sadd | ssub | smul | sand | sor | sxor | sandn | sshl | sshr | ssar | sbfi =>
    rw [encU_eq]; exact withU_layout_unflagged _ _ _ _ _ _
  case smov | barpend => rw [encU_eq]; exact alsoField_ok rfl (withU_layout_unflagged _ _ _ _ _ _)
  case smulhi | smin | smax | sbfx | slea => rw [encU_eq]; exact withU_layout _ _ _ _ _ (fun _ => rfl) _
  case icmp | fcmp | dcmp | scmp => exact decodeFields_encL _ _ _ _ _ (fun _ _ _ _ _ => rfl) _
  case atadd | atmin | atmax | atand | ator | atxor | atxch | atfadd | atfmin | atfmax | satadd | satxch =>
    exact decodeFields_encL_wide _ _ _ _ (fun _ _ _ _ _ => rfl) _ _ _
  case redadd | redfadd =>
    rw [encL_eq]; exact alsoField_ok rfl (Eq.trans (withL_layout _ _ _ _ _ _ _) (by dsimp only; rw [pairWide_pair, pairWide_wide]))
  case atcas | satcas | sldaq | sstrl => exact congrArg Except.ok (by dsimp only; rw [pairWide_pair, pairWide_wide])
  case iaddi | ld8 | ld16 | ld32 | ld64 | ld128 | st8 | st16 | st32 | st64 | st128 | lds32 | lds64 | lds128 | sts32 | sts64 | sts128
      | ldf | ste | ldfk | ldc | saddi | sld32 | sld64 | sst32 | sst64 | sldc => exact congrArg Except.ok (by dsimp only; rw [imm10_joined])
  case movi | smovi | fork | brz | brnz | call => exact congrArg Except.ok (by dsimp only; rw [imm17_joined])
  case pend | bra | brex | brnex => exact congrArg Except.ok (by dsimp only; rw [imm24_joined])
  case shfl d a src =>
    have arm : decodeFields (encSrc false 0x48 d a src) = (encSrc false 0x48 d a src).withSrc fun o => .shfl d a o := by cases src <;> rfl
    rw [arm, withSrc_layout]
  case pballot | pfill => rw [encSelr_eq]; exact withSelr_layout _ _ _ _ _ (.inl (Selr.literal_of_wOk hw)) _
  case sget => rw [encSelr_eq]; exact withSelr_layout _ _ _ _ _ (.inr rfl) _
  case mma => rw [encSelr_eq]; exact withSelr_layout _ _ _ _ _ (.inl (Selr.literal_of_nOk (Bool.and_elim_right hw))) _
  case mburst => rw [encSelr_eq]; exact alsoField_ok ⟨rfl, rfl⟩ (withSelr_layout _ _ _ _ _ (.inl (Selr.literal_of_nOk hw)) _)
  case lred => show ite (BitVec.extractLsb' 1 2 _ = 0) _ _ = _; rw [if_pos (teamBit_top _), teamBit_low]
  case lscan => show ite (BitVec.getLsbD _ 2 = false) _ _ = _; rw [if_pos (teamExclBits_top _ _), teamExclBits_team, teamExclBits_excl]
  case matchv => show ite (_ ∧ _) _ _ = _; rw [if_pos ⟨rfl, teamBit_top _⟩, teamBit_low]
  case trap => show ite (_ ∧ _) _ _ = _; rw [if_pos ⟨rfl, sixBits_top _⟩, sixBits_low, trapCode_joined]
  case pfence => show ite (_ ∧ _ ∧ _) _ _ = _; rw [if_pos ⟨rfl, rfl, oneBit_top _⟩, oneBit_low, pathMask_joined]

end Sys2Proof
end

section
/-! PROOF of O54. -/

namespace Sys2Proof

/-- Settles O54: decoding cuts the word into the fields that made it and reads each form back; and whatever the decoder reads, the encoder
lays out as the same fields, whose word is the word that was read. -/
theorem decodeEncode : Obligations.DecodeEncode := by
  refine ⟨fun i f hw hf => ?_, fun w lit i h => ?_⟩
  · rw [decode, Fields.ofWord_word]
    exact decodeFields_encode hw f hf
  · exact ⟨Fields.ofWord w lit, decodeFields_lays _ i h, Fields.word_ofWord w lit, rfl⟩

end Sys2Proof
end

section
/-! PROOF of O55. -/

namespace Sys2Proof

/-- Settles O55: the decoder, run on each of the words. -/
theorem decodeWords : Obligations.DecodeWords := by
  unfold Obligations.DecodeWords
  decide

end Sys2Proof
end

section
/-! SUPPORT of O35: what a fetch of a bundle that is not held comes to after slot 1 (R44, R45, R52), and what a redirection leaves (R342). -/

namespace Sys2Proof.Machine

/-- Slots 2 and 3 of a bundle that the team does not hold: the bundle is read and held, with neither breakpoint nor safe point before the slot. -/
theorem fetch_read {s s' : State} {t : Team} {b : BitVec 128} (h : s.me = some t) (hb : t.bundle = none) (hk : t.pc.extractLsb' 2 2 ≠ 1#2)
    (hr : s.readBundle t (bundleOf t.pc).toNat = .ok (b, s')) (hkind : (Control.ofWord (bundleWord b 0)).kind ≠ 2#2)
    (hgood : bundleBad b t.kernel.spCount = false) :
    s.fetch = (s'.updMe fun u => { u with bundle := some ((bundleOf t.pc).toNat, b) }).slotOf t b := by
  have hf : (t.pc.extractLsb' 2 2 == 1#2) = false := beq_eq_false_iff_ne.2 hk
  unfold State.fetch
  simp only [h, hb, hr, hf, hgood, beq_eq_false_iff_ne.2 hkind, Bool.false_eq_true, if_false]

/-- A bundle outside the code of the kernel is not read: the team traps (R52). -/
theorem fetch_outside {s : State} {t : Team} (h : s.me = some t) (hb : t.bundle = none)
    (ho : (bundleOf t.pc).toNat < 0x80 ∨ 0x80 + t.kernel.codeSize ≤ (bundleOf t.pc).toNat) :
    s.fetch = .stop ((s.updMe fun t => { t with bundle := none }).takeTrap 0x02 0 0) := by
  unfold State.fetch State.readBundle
  simp only [h, hb, Bool.or_eq_true, decide_eq_true_eq, if_pos ho]

/-- A bundle fetch is the fetch of the team that stands at it; the state it comes to is kept, whatever the slot (R44). -/
theorem execBundleFetch_go {s s' : State} {team : Nat} {t : Team} {w : Word} {lit : Option Word} (ht : s.teams.find team = some t)
    (hi : t.idle = false) (hf : State.fetch { s with cur := team } = .go s' w lit) : exec (.bundleFetch team) s = .next s' := by
  show execBundleFetch team s = _
  simp only [execBundleFetch, ht, hi, hf, Bool.false_eq_true, if_false]
theorem execBundleFetch_stop {s s' : State} {team : Nat} {t : Team} (ht : s.teams.find team = some t)
    (hi : t.idle = false) (hf : State.fetch { s with cur := team } = .stop s') : exec (.bundleFetch team) s = .next s' := by
  show execBundleFetch team s = _
  simp only [execBundleFetch, ht, hi, hf, Bool.false_eq_true, if_false]

/-- Which team is the current one changes nothing of what memory reads as. -/
theorem readsAlike_withCur (s : State) (team : Nat) : ReadsAlike s { s with cur := team } := ⟨rfl, rfl, rfl, rfl, rfl, rfl⟩

/-- The teams after a device write, a change of the current team, and its trace record. -/
theorem traced_setTeam_teams {s s' : State} (h : DevKept s s') (u : Team) (pc : Word) (code detail : Nat) :
    ((s'.setTeam s'.cur u).trace u pc code detail).teams = s.teams.insert s.cur u := by
  rw [(trace_kept _ _ _ _ _).teams, State.setTeam_teams, h.teams, h.cur]

/-- A redirection whose table entry and control block the device can reach (R342). -/
theorem redirect_open {s : State} {t : Team} {spidx : Nat} (h : s.me = some t)
    (hr : s.devBars t.ctx (t.kernel.kbase + t.kernel.spTable + 8 * spidx) 8 .read = none)
    (hw : s.devBars t.ctx (t.saveBase - 2048) 2048 .write = none) :
    ∃ t', (s.redirect spidx).teams = s.teams.insert s.cur t' ∧ t'.saving = true ∧ t'.saveIdx = spidx ∧ t'.ex = t.live ∧ t'.live = t.live ∧
      t'.slots = noSlots ∧ t'.level = baseLevel ∧ RegsAfter t t' newNothing := by
  unfold State.redirect
  simp only [h, hr, hw, Option.map_none, Option.or_none]
  exact ⟨_, traced_setTeam_teams (devWrite_kept s _ _ _) _ _ _ _, rfl, rfl, rfl, rfl, rfl, rfl, regsAfter_of_files rfl rfl rfl⟩

/-- No path stands in the slots that a redirection leaves. -/
theorem noSlots_unused : ∀ p ∈ noSlots, p.v = false := by decide

end Sys2Proof.Machine
end

section
/-! PROOF of O35. -/

namespace Sys2Proof
open Machine

/-- Settles O35: a fetch from the code reads the bundle and holds it; one from outside traps; and a redirection leaves the team with all of
its live lanes on one path of no level, on the device's reads and writes that its bars permit. -/
theorem bundlesAndSafePoints : Obligations.BundlesAndSafePoints := by
  unfold Obligations.BundlesAndSafePoints
  refine ⟨?_, ?_, ?_⟩
  · intro team s t pa f ht hi hb hk off b hlo hhi hlook hbase hpa hline hq hkind hgood hlit
    have hm := bundleOf_mod t.pc
    obtain ⟨s', hr, hteams, hcur, hmem, hgangs, _⟩ :=
      readBundle_miss (s := { s with cur := team }) hlo hhi hlook hpa (by omega) hline hq
    have hme : s'.me = some t := by unfold State.me; rw [hteams, hcur]; exact ht
    have hfetch := (fetch_read (s := { s with cur := team }) ht hb hk hr hkind hgood).trans (slotOf_go hlit)
    refine ⟨_, { t with bundle := some (off, b) }, execBundleFetch_go ht hi hfetch, ?_, rfl, rfl, rfl, regsAfter_of_files rfl rfl rfl, ?_, ?_⟩
    · have h2 := State.updMe_me (fun u => { u with bundle := some (off, b) }) hme
      unfold State.me at h2
      rw [State.updMe_cur, hcur] at h2
      exact h2
    · exact (State.updMe_mem _ _).trans hmem
    · exact (State.updMe_gangs _ _).trans hgangs
  · intro team s t ht hi hb ho
    exact execBundleFetch_stop ht hi (fetch_outside (s := { s with cur := team }) ht hb ho)
  · intro team s t o b ht hb hsp spidx entry hr hw
    have alike := readsAlike_withCur s team
    obtain ⟨t', hteams, hsave, hidx, hex, hlive, hslots, hlevel, hregs⟩ :=
      redirect_open (s := { s with cur := team }) (spidx := spidx) ht ((alike.barsVia _ _ _ _ _).trans hr) ((alike.barsVia _ _ _ _ _).trans hw)
    have hexec : exec (.safePointRedirection team) s = .next (State.redirect { s with cur := team } spidx) := by
      show execSafePointRedirection team s = _
      simp only [execSafePointRedirection, ht, hb, hsp, if_true]
      rfl
    refine ⟨_, t', hexec, ?_, hsave, hidx, hex, hlive, ?_, hlevel, hregs, ?_⟩
    · rw [hteams]; exact SMap.find_insert_same _ _ _
    · rw [hslots]; exact noSlots_unused
    · intro k hne; rw [hteams]; exact SMap.find_insert_ne _ _ hne

end Sys2Proof
end

section
/-! PROOF of what `Obligations.LaneMemory` comes to: it fails, since it does not say that the value of an access goes to a vector or a
uniform register: a predicate holds one bit of each lane, so no number from 2 on can come to it. -/

namespace Sys2Proof.Machine.Loads

/-- A load of one byte at physical address 0x40, whose value goes to predicate 1. -/
def predLoad : Op :=
  { serial := 1, team := 0, ctx := 0, group := 7, unit := 0, cluster := 0, core := 0, pc := 0x84, va := 0x40
    place := .mem 0x40 0 ⟨0, 0, 0, 4096, 0, true, true, 0, 0⟩, n := 1, kind := .load .l1, ord := none, dest := some (.p, 1), lane := 0
    seen := [], muted := none }
/-- A machine with that load on its way, a 2 in the byte that it reads, and its team waiting for it. -/
def predLoading : State :=
  { (State.reset.withTeam false []).updTeam 0 fun t => { t with pends := [⟨7, .p, 1, 1, 1, 0x80, .arriving, []⟩] } with
    mem := [(0x40, 2)], traffic := [predLoad] }

theorem predLoading_ready : Ready predLoading predLoad := by unfold Ready; decide +kernel
theorem predLoading_waits : ∃ t, predLoading.teams.find predLoad.team = some t ∧ t.pends.any (·.serial == predLoad.group) = true :=
  ⟨_, rfl, by decide +kernel⟩
/-- The load is performed: predicate 1 of lane 0 reads as 1, since the number is not 0. -/
theorem predLoading_gives_one : ((predLoading.perform 1).teams.find 0).map (fun t => t.reg .p 1 0) = some 1 := by decide +kernel
theorem newOp_predLoad : newOp predLoad (memNat predLoading.mem 0x40 1) .p 1 0 = some 2 := by decide +kernel

/-- `Brings` asks that predicate 1 of lane 0 reads as the number in memory, 2, and the model gives 1. -/
theorem predLoading_not_brings : ¬ Brings predLoading predLoad (memNat predLoading.mem 0x40 1) := by
  intro h
  obtain ⟨t, ht, hwaits⟩ := predLoading_waits
  obtain ⟨s', t', hrun, -, ht', hregs, -⟩ := h t ht hwaits
  have hs' : predLoading.perform 1 = s' := Host.Outcome.next.inj hrun
  have htwo : t'.reg .p 1 0 = 2 := by rw [hregs .p 1 0 (by decide), newOp_predLoad]; rfl
  have hone : some (t'.reg .p 1 0) = some 1 := by
    rw [← predLoading_gives_one, hs', show s'.teams.find 0 = some t' from ht']; rfl
  rw [htwo] at hone
  exact absurd hone (by decide)

end Sys2Proof.Machine.Loads

namespace Sys2Proof
open Machine Machine.Loads

/-- Refutes O21: a load that brings the number 2 from memory, with predicate 1 of lane 0 as its destination, cannot leave 2 there. -/
theorem not_laneMemory : ¬ Obligations.LaneMemory := by
  unfold Obligations.LaneMemory
  rintro ⟨-, -, hfromMemory, -⟩
  refine predLoading_not_brings (hfromMemory predLoading predLoad .l1 0x40 _ _ predLoading_ready rfl rfl ?_ ?_ ?_ ?_ ?_)
  case refine_1 => decide +kernel
  case refine_2 => decide +kernel
  case refine_3 =>
    intro p hp _ bs
    rw [List.mem_singleton.1 hp]
    simp [predLoad]
  case refine_4 => decide +kernel
  case refine_5 => decide +kernel

end Sys2Proof
end

section
/-! SUPPORT of O8: the fields of a format (R75), what `round` gives on a value that the format holds (R77), and what a NaN operand of the
FP32 instructions gives (R78, R145 to R147). -/

namespace Sys2Proof.Machine

/-- A format as R75 has them: a sign bit, an exponent field whose largest value is twice the bias and 1, and a fraction. -/
structure Fmt.Binary (f : Fmt) : Prop where
  frac_lt : f.frac < f.width
  top_eq : f.top = 2 * f.bias + 1

theorem fp32_binary : fp32.Binary := ⟨by decide, by decide⟩
theorem fp16_binary : fp16.Binary := ⟨by decide, by decide⟩
theorem bf16_binary : bf16.Binary := ⟨by decide, by decide⟩
theorem fp64_binary : fp64.Binary := ⟨by decide, by decide⟩

theorem fp32_qnan : fp32.qnan = 0x7FC00000 := by decide

/-- The bits with sign `s`, exponent field `ex` and fraction `fr`. -/
def Fmt.bits (f : Fmt) (s : Bool) (ex fr : Nat) : Nat := f.sign s + (ex * 2 ^ f.frac + fr)

/-- The number that a sign, an exponent field and a fraction stand for (R75). -/
def Fmt.ofFields (f : Fmt) (s : Bool) (ex fr : Nat) : Num :=
  if ex = f.top then if fr = 0 then .inf s else .nan (fr < 2 ^ (f.frac - 1))
  else if ex = 0 then .fin s fr (1 - (f.bias : Int) - f.frac)
  else .fin s (fr + 2 ^ f.frac) ((ex : Int) - f.bias - f.frac)

theorem Fmt.top_succ (f : Fmt) : f.top + 1 = 2 ^ (f.width - 1 - f.frac) :=
  Nat.sub_add_cancel Nat.one_le_two_pow

/-- Exponent field and fraction share the bits below the sign. -/
theorem Fmt.Binary.top_succ_mul {f : Fmt} (hf : f.Binary) : 2 ^ f.frac * (f.top + 1) = 2 ^ (f.width - 1) := by
  have hlt := hf.frac_lt
  rw [f.top_succ, ← pow_add, Nat.add_sub_cancel' (by omega)]

/-- What `num` reads as the sign is the bit above the others. -/
theorem Fmt.Binary.sign_topBit {f : Fmt} (hf : f.Binary) {x : Nat} (hx : x < 2 ^ f.width) :
    f.sign (x / 2 ^ (f.width - 1) % 2 == 1) = 2 ^ (f.width - 1) * (x / 2 ^ (f.width - 1)) := by
  have hlt : x / 2 ^ (f.width - 1) < 2 := by
    have hfrac := hf.frac_lt
    apply Nat.div_lt_of_lt_mul
    rwa [← pow_succ, Nat.sub_add_cancel (by omega)]
  obtain h | h := Nat.le_one_iff_eq_zero_or_eq_one.1 (Nat.lt_succ_iff.1 hlt)
  · simp [h, Fmt.sign]
  · simp [h, Fmt.sign]

/-- A word of the format is made of a sign, an exponent field and a fraction, and its number is theirs. -/
theorem Fmt.Binary.exists_fields {f : Fmt} (hf : f.Binary) {x : Nat} (hx : x < 2 ^ f.width) :
    ∃ s ex fr, ex ≤ f.top ∧ fr < 2 ^ f.frac ∧ f.bits s ex fr = x ∧ f.num x = f.ofFields s ex fr := by
  refine ⟨x / 2 ^ (f.width - 1) % 2 == 1, x / 2 ^ f.frac % (f.top + 1), x % 2 ^ f.frac,
    Nat.lt_succ_iff.1 (Nat.mod_lt _ f.top.succ_pos), Nat.mod_lt _ (by positivity), ?_, rfl⟩
  have hlow : x % 2 ^ (f.width - 1) = x % 2 ^ f.frac + 2 ^ f.frac * (x / 2 ^ f.frac % (f.top + 1)) := by
    rw [← hf.top_succ_mul, Nat.mod_mul]
  have hsplit := Nat.div_add_mod x (2 ^ (f.width - 1))
  have hmul := Nat.mul_comm (2 ^ f.frac) (x / 2 ^ f.frac % (f.top + 1))
  unfold Fmt.bits
  rw [hf.sign_topBit hx]
  omega

/-- A multiple of 2^q is its own rounding (R77). -/
theorem quantize_exact (mode : BitVec 2) (s : Bool) (m : Nat) {e q : Int} (h : q ≤ e) :
    quantize mode s m e q = (m * 2 ^ (e - q).toNat, false) := if_pos h

/-- Shifted up until its leading bit has the place of the hidden bit, a significand that fits still fits. -/
theorem significand_fits {m k : Nat} (hm : m ≠ 0) (hfit : m < 2 ^ (k + 1)) : m * 2 ^ (k - Nat.log2 m) < 2 ^ (k + 1) := by
  have hlog : Nat.log2 m < k + 1 := (Nat.log2_lt hm).2 hfit
  calc m * 2 ^ (k - Nat.log2 m) < 2 ^ (Nat.log2 m + 1) * 2 ^ (k - Nat.log2 m) :=
        Nat.mul_lt_mul_of_pos_right Nat.lt_log2_self (by positivity)
    _ = 2 ^ (k + 1) := by rw [← pow_add]; congr 1; omega

/-- `round` of a value whose significand fits, whose leading bit is in range and whose last place is not below that of the subnormals is
exact (R77): `q` is the place to which it is rounded, that of the subnormals at the lowest. -/
theorem Fmt.roundFin_exact (f : Fmt) (mode : BitVec 2) (s : Bool) {m : Nat} {e q : Int} (hm : m ≠ 0) (hfit : m < 2 ^ (f.frac + 1))
    (hlow : 1 - (f.bias : Int) - f.frac ≤ e) (hhigh : e + Nat.log2 m ≤ f.bias)
    (hq : q = max (e + Nat.log2 m - f.frac) (1 - (f.bias : Int) - f.frac)) :
    f.roundFin mode s m e =
      (f.sign s + (q - (1 - (f.bias : Int) - f.frac)).toNat * 2 ^ f.frac + m * 2 ^ (e - q).toNat, 0) := by
  have hlog : Nat.log2 m < f.frac + 1 := (Nat.log2_lt hm).2 hfit
  have hplace : e + Nat.log2 m - (f.frac + 1 - 1) ≤ e := by omega
  have hshift : (e - (e + Nat.log2 m - ((f.frac : Int) + 1 - 1))).toNat = f.frac - Nat.log2 m := by omega
  have hcarry : m * 2 ^ (f.frac - Nat.log2 m) ≠ 2 ^ (f.frac + 1) := (significand_fits hm hfit).ne
  unfold Fmt.roundFin
  simp only [quantize_exact mode s m hplace, quantize_exact mode s m hlow, hshift, hcarry, if_false, Int.not_lt.2 hhigh]
  rw [if_neg (by omega)]
  obtain hsub | hnorm := lt_or_ge (e + Nat.log2 m - f.frac) (1 - (f.bias : Int) - f.frac)
  · have hq' : q = 1 - (f.bias : Int) - f.frac := by omega
    subst hq'
    simp [hsub]
  · have hq' : q = e + Nat.log2 m - f.frac := by omega
    subst hq'
    have hplace' : (e - (e + Nat.log2 m - f.frac)).toNat = f.frac - Nat.log2 m := by omega
    simp [Int.not_lt.2 hnorm, hplace']

/-- A value that is not zero is packed by `round`. -/
theorem Fmt.pack_fin (f : Fmt) (mode : BitVec 2) (s : Bool) {m : Nat} (e : Int) (hm : m ≠ 0) :
    f.pack mode (.fin s m e) = f.roundFin mode s m e := by
  cases m with
  | zero => exact absurd rfl hm
  | succ n => rfl

/-- A subnormal value, and a zero, is its own rounding (R77). -/
theorem Fmt.pack_subnormal (f : Fmt) (mode : BitVec 2) (s : Bool) {fr : Nat} (hfr : fr < 2 ^ f.frac) :
    f.pack mode (.fin s fr (1 - (f.bias : Int) - f.frac)) = (f.bits s 0 fr, 0) := by
  obtain rfl | hne := Nat.eq_zero_or_pos fr
  · simp [Fmt.pack, Fmt.bits]
  have hlog : Nat.log2 fr < f.frac := (Nat.log2_lt hne.ne').2 hfr
  rw [f.pack_fin mode s _ hne.ne', f.roundFin_exact mode s hne.ne' (hfr.trans (Nat.pow_lt_pow_succ one_lt_two)) le_rfl (by omega)
    (q := 1 - (f.bias : Int) - f.frac) (by omega)]
  simp [Fmt.bits]

/-- A normal value is its own rounding (R77). -/
theorem Fmt.pack_normal (f : Fmt) (mode : BitVec 2) (s : Bool) {ex fr : Nat} (hfr : fr < 2 ^ f.frac) (hpos : ex ≠ 0)
    (hmax : ex ≤ 2 * f.bias) :
    f.pack mode (.fin s (fr + 2 ^ f.frac) ((ex : Int) - f.bias - f.frac)) = (f.bits s ex fr, 0) := by
  have hne : fr + 2 ^ f.frac ≠ 0 := by positivity
  have hfit : fr + 2 ^ f.frac < 2 ^ (f.frac + 1) := by rw [pow_succ]; omega
  have hlog : Nat.log2 (fr + 2 ^ f.frac) = f.frac := (Nat.log2_eq_iff hne).2 ⟨by omega, hfit⟩
  have hex : ((ex : Int) - f.bias - f.frac - (1 - (f.bias : Int) - f.frac)).toNat = ex - 1 := by omega
  have hmul : (ex - 1) * 2 ^ f.frac + 2 ^ f.frac = ex * 2 ^ f.frac := by
    rw [← Nat.succ_mul, Nat.succ_eq_add_one, Nat.sub_add_cancel (by omega)]
  rw [f.pack_fin mode s _ hne, f.roundFin_exact mode s hne hfit (by omega) (by omega) (q := (ex : Int) - f.bias - f.frac) (by omega), hex,
    sub_self, Int.toNat_zero, pow_zero, mul_one, Fmt.bits]
  congr 1
  omega

/-- What the fields stand for, where it is not a NaN, is packed into the same fields, in every mode and without flags (R77). -/
theorem Fmt.Binary.pack_ofFields {f : Fmt} (hf : f.Binary) (mode : BitVec 2) (s : Bool) {ex fr : Nat} (hex : ex ≤ f.top)
    (hfr : fr < 2 ^ f.frac) (hn : (f.ofFields s ex fr).isNan = false) : f.pack mode (f.ofFields s ex fr) = (f.bits s ex fr, 0) := by
  unfold Fmt.ofFields at hn ⊢
  by_cases htop : ex = f.top
  · by_cases hzero : fr = 0
    · simp [htop, hzero, Fmt.pack, Fmt.infinity, Fmt.bits]
    · simp [htop, hzero, Num.isNan] at hn
  · by_cases hsub : ex = 0
    · rw [if_neg htop, if_pos hsub, hsub]
      exact f.pack_subnormal mode s hfr
    · have hmax := hf.top_eq
      rw [if_neg htop, if_neg hsub]
      exact f.pack_normal mode s hfr hsub (by omega)

/-- A value that a binary format holds is its own rounding (R77). -/
theorem Fmt.Binary.pack_num {f : Fmt} (hf : f.Binary) (mode : BitVec 2) {x : Nat} (hx : x < 2 ^ f.width)
    (hn : (f.num x).isNan = false) : f.pack mode (f.num x) = (x, 0) := by
  obtain ⟨s, ex, fr, hex, hfr, hbits, hnum⟩ := hf.exists_fields hx
  rw [hnum] at hn ⊢
  rw [hf.pack_ofFields mode s hex hfr hn, hbits]

section
variable {f : Fmt} {x y : Nat} (h : (f.num x).isNan = true ∨ (f.num y).isNan = true)
include h

/-- The test with which the two-operand functions begin. -/
theorem isNan_or : ((f.num x).isNan || (f.num y).isNan) = true := Bool.or_eq_true_iff.2 h

/-- With a NaN operand an addition, a subtraction and a multiplication give the canonical NaN, and invalid for a signalling one (R78, R145). -/
theorem Fmt.add_nan (mode : BitVec 2) : f.add mode x y = (f.qnan, snanFlag [f.num x, f.num y]) := if_pos (isNan_or h)
theorem Fmt.sub_nan (mode : BitVec 2) : f.sub mode x y = (f.qnan, snanFlag [f.num x, f.num y]) := if_pos (isNan_or h)
theorem Fmt.mul_nan (mode : BitVec 2) : f.mul mode x y = (f.qnan, snanFlag [f.num x, f.num y]) := if_pos (isNan_or h)

/-- With a NaN factor a fused multiply-add gives the canonical NaN whatever the addend, and invalid for a signalling operand (R146). -/
theorem Fmt.fma_nan (mode : BitVec 2) (z : Nat) : f.fma mode x y z = (f.qnan, snanFlag [f.num x, f.num y, f.num z]) := by
  simp [Fmt.fma, isNan_or h]

/-- With a NaN operand eq is false and ne is true without flags (R147). -/
theorem Fmt.cmp_eq_nan : f.cmp 0 x y = (false, 0) := if_pos (isNan_or h)
theorem Fmt.cmp_ne_nan : f.cmp 1 x y = (true, 0) := if_pos (isNan_or h)
/-- With a NaN operand the four conditions of order are false and raise invalid (R147). -/
theorem Fmt.cmp_order_nan {c : BitVec 3} (h2 : 2 ≤ c.toNat) (h5 : c.toNat ≤ 5) : f.cmp c x y = (false, flagInvalid) := by
  have hc : c = 2 ∨ c = 3 ∨ c = 4 ∨ c = 5 := by bv_omega
  obtain rfl | rfl | rfl | rfl := hc <;> exact if_pos (isNan_or h)
/-- With a NaN operand the test for NaN is true, the test for none is false, and only a signalling one raises invalid (R147). -/
theorem Fmt.cmp_unordered_nan : f.cmp 6 x y = (true, snanFlag [f.num x, f.num y]) := if_pos (isNan_or h)
theorem Fmt.cmp_ordered_nan : f.cmp 7 x y = (false, snanFlag [f.num x, f.num y]) := if_pos (isNan_or h)
end

/-- A product does not depend on the order of its factors (R145). -/
theorem mulNums_comm (x y : Num) : mulNums x y = mulNums y x := by
  cases x with
  | nan => cases y <;> rfl
  | inf s => cases y <;> simp [mulNums, Bool.xor_comm s]
  | fin s m e => cases y <;> simp [mulNums, Nat.mul_comm m, Int.add_comm e, Bool.xor_comm s]

theorem snanFlag_swap (x y : Num) : snanFlag [x, y] = snanFlag [y, x] := by
  simp [snanFlag, or_comm]

theorem Fmt.mul_comm (f : Fmt) (mode : BitVec 2) (x y : Nat) : f.mul mode x y = f.mul mode y x := by
  simp only [Fmt.mul, Bool.or_comm (f.num x).isNan, snanFlag_swap (f.num x), mulNums_comm (f.num x)]

end Sys2Proof.Machine

namespace Sys2Proof
open Machine

/-- Settles O8: a held value is put together again from its fields, and each FP32 instruction takes its branch for a NaN. -/
theorem floatFormats : Obligations.FloatFormats := by
  unfold Obligations.FloatFormats
  refine ⟨?_, ?_, fp32.mul_comm⟩
  · rintro f (rfl | rfl | rfl | rfl) mode x hx hn
    · exact fp32_binary.pack_num mode hx hn
    · exact fp16_binary.pack_num mode hx hn
    · exact bf16_binary.pack_num mode hx hn
    · exact fp64_binary.pack_num mode hx hn
  · intro mode x y h
    rw [← fp32_qnan]
    exact ⟨Fmt.add_nan h mode, Fmt.sub_nan h mode, Fmt.mul_nan h mode, fun z => congrArg Prod.fst (Fmt.fma_nan h mode z), Fmt.cmp_eq_nan h,
      Fmt.cmp_ne_nan h, fun _ h2 h5 => Fmt.cmp_order_nan h h2 h5, Fmt.cmp_unordered_nan h, Fmt.cmp_ordered_nan h⟩

end Sys2Proof
end

section
/-! SUPPORT of O1 to O3: the functions of a lane on exact integers (R126, R127), bit by bit (R128, R129), and as conditions (R134). -/

namespace Sys2Proof.Machine

/-- The exact integer of an operand, cut to 32 bits, is the operand (R126). -/
theorem ofInt_extend (u : Bool) (x : Word) : BitVec.ofInt 32 (extend u x) = x := by
  cases u <;> simp [extend]

/-- A sum, a difference and a product in 32 bits are the exact ones, cut (R126). -/
theorem add_eq_ofInt (x y : Word) : x + y = BitVec.ofInt 32 (x.toInt + y.toInt) := by
  simp [BitVec.ofInt_add]
theorem mul_eq_ofInt (x y : Word) : x * y = BitVec.ofInt 32 (x.toInt * y.toInt) := by
  simp [BitVec.ofInt_mul]
theorem sub_eq_ofInt (x y : Word) : x - y = BitVec.ofInt 32 (x.toInt - y.toInt) := by
  rw [sub_eq_add_neg, sub_eq_add_neg, BitVec.ofInt_add, BitVec.ofInt_neg, BitVec.ofInt_toInt, BitVec.ofInt_toInt]
/-- `imac` cuts once what a product and a sum each would cut (R126). -/
theorem mulAdd_eq_ofInt (x y z : Word) : x + y * z = BitVec.ofInt 32 (x.toInt + y.toInt * z.toInt) := by
  simp [BitVec.ofInt_add, BitVec.ofInt_mul]
/-- A sum with an immediate, which is sign-extended (R130). -/
theorem add_sext_eq_ofInt {n : Nat} (x : Word) (imm : BitVec n) : x + sext imm = BitVec.ofInt 32 (x.toInt + imm.toInt) := by
  rw [BitVec.ofInt_add, BitVec.ofInt_toInt]
  rfl

/-- The high 32 bits of an integer cut to 64 bits. -/
theorem extractLsb'_high_ofInt (p : Int) : (BitVec.ofInt 64 p).extractLsb' 32 32 = BitVec.ofInt 32 (p / 2 ^ 32) := by
  apply BitVec.eq_of_toNat_eq
  rw [BitVec.extractLsb'_toNat, Nat.shiftRight_eq_div_pow, BitVec.toNat_ofInt, BitVec.toNat_ofInt]
  omega
/-- The high word of a product is the exact product over 2^32, rounded down (R126). -/
theorem mulHi_eq_ofInt (u : Bool) (x y : Word) : mulHi u x y = BitVec.ofInt 32 (extend u x * extend u y / 2 ^ 32) := by
  rw [← extractLsb'_high_ofInt, BitVec.ofInt_mul]
  cases u
  · rfl
  · simp only [mulHi, extend, if_true, BitVec.ofInt_natCast, BitVec.ofNat_toNat]

/-- The minimum, the maximum and the absolute difference of the exact integers (R126). -/
theorem minW_eq_ofInt (u : Bool) (x y : Word) : minW u x y = BitVec.ofInt 32 (min (extend u x) (extend u y)) := by
  rw [min_def, apply_ite (BitVec.ofInt 32), ofInt_extend, ofInt_extend, minW]
theorem maxW_eq_ofInt (u : Bool) (x y : Word) : maxW u x y = BitVec.ofInt 32 (max (extend u x) (extend u y)) := by
  rw [max_def, apply_ite (BitVec.ofInt 32), ofInt_extend, ofInt_extend, maxW]
theorem absDiff_eq_ofInt (u : Bool) (x y : Word) : absDiff u x y = BitVec.ofInt 32 |extend u x - extend u y| := by
  rw [absDiff, Int.natCast_natAbs]

/-- The shifts by the whole count, as products and quotients (R127). -/
theorem shlW_eq_mul (x y : Word) : shlW x y = if 32 ≤ y.toNat then 0 else BitVec.ofNat 32 (x.toNat * 2 ^ y.toNat) := by
  refine if_congr Iff.rfl rfl (BitVec.eq_of_toNat_eq ?_)
  rw [BitVec.toNat_shiftLeft, Nat.shiftLeft_eq, BitVec.toNat_ofNat]
theorem shrW_eq_div (x y : Word) : shrW x y = if 32 ≤ y.toNat then 0 else BitVec.ofNat 32 (x.toNat / 2 ^ y.toNat) := by
  refine if_congr Iff.rfl rfl (BitVec.eq_of_toNat_eq ?_)
  rw [BitVec.toNat_ushiftRight, Nat.shiftRight_eq_div_pow, BitVec.toNat_ofNat,
    Nat.mod_eq_of_lt ((Nat.div_le_self _ _).trans_lt x.isLt)]
/-- An arithmetic shift by the whole width leaves the sign alone. -/
theorem sshiftRight_width (x : Word) : x.sshiftRight 32 = if x.getLsbD 31 then 0xFFFFFFFF else 0 := by
  have hsign : x.getLsbD 31 = decide (x.toInt < 0) := (BitVec.msb_eq_getLsbD_last x).symm.trans BitVec.msb_eq_toInt
  have hlow := x.le_toInt
  have hhigh := x.toInt_lt
  rw [BitVec.sshiftRight_eq, Int.shiftRight_eq_div_pow, hsign]
  by_cases hneg : x.toInt < 0
  · rw [decide_eq_true hneg, show x.toInt / ((2 ^ 32 : Nat) : Int) = -1 by omega]
    rfl
  · rw [decide_eq_false hneg, show x.toInt / ((2 ^ 32 : Nat) : Int) = 0 by omega]
    rfl
theorem sarW_eq_div (x y : Word) : sarW x y =
    if 32 ≤ y.toNat then (if x.getLsbD 31 then 0xFFFFFFFF else 0) else BitVec.ofInt 32 (x.toInt / 2 ^ y.toNat) := by
  unfold sarW
  split
  next hall => rw [Nat.min_eq_right hall, sshiftRight_width]
  next hpart =>
    rw [Nat.min_eq_left (by omega), BitVec.sshiftRight_eq, Int.shiftRight_eq_div_pow, Nat.cast_pow]
    rfl

/-- The number of 1 bits, as the sum of the bits (R128). -/
theorem popcW_toNat (x : Word) : (popcW x).toNat = ((List.range 32).map fun i => if x.getLsbD i then 1 else 0).sum := by
  have hle : ((List.range 32).filter fun i => x.getLsbD i).length ≤ 32 := (List.length_filter_le _ _).trans_eq List.length_range
  rw [popcW, BitVec.toNat_ofNat, Nat.mod_eq_of_lt (by omega), List.sum_map_ite]
  simp

/-- Where the `n` highest bits of a word are 0, so is every bit from 32 - n up. -/
theorem getLsbD_of_high_zero {x : Word} {n i : Nat} (hzero : ∀ j < n, (!x.getLsbD (31 - j)) = true) (hi : 32 ≤ i + n) :
    x.getLsbD i = false := by
  obtain hbig | hsmall := Nat.lt_or_ge 31 i
  · exact BitVec.getLsbD_of_ge x i hbig
  · have := hzero (31 - i) (by omega)
    rwa [Nat.sub_sub_self hsmall, Bool.not_eq_true'] at this
/-- The bits above the highest 1 are 0, and a 1 follows them where there is one (R128). -/
theorem clzW_spec (x : Word) : (clzW x).toNat ≤ 32 ∧ (∀ i, 32 ≤ i + (clzW x).toNat → x.getLsbD i = false) ∧
    ((clzW x).toNat < 32 → x.getLsbD (31 - (clzW x).toNat) = true) := by
  unfold clzW
  split
  next n hn =>
    obtain ⟨hone, hmem, hzero⟩ := List.find?_range_eq_some.1 hn
    have hlt := List.mem_range.1 hmem
    rw [BitVec.toNat_ofNat, Nat.mod_eq_of_lt (by omega)]
    exact ⟨hlt.le, fun _ => getLsbD_of_high_zero hzero, fun _ => hone⟩
  next hnone =>
    exact ⟨le_rfl, fun _ => getLsbD_of_high_zero (List.find?_range_eq_none.1 hnone), fun h => absurd h (lt_irrefl 32)⟩

/-- The bits in the opposite order (R128). -/
theorem brevW_getLsbD (x : Word) {i : Nat} (hi : i < 32) : (brevW x).getLsbD i = x.getLsbD (31 - i) := by
  rw [brevW, BitVec.getLsbD_reverse, BitVec.getMsbD_eq_getLsbD, decide_eq_true hi, Bool.true_and]

/-- Position and length of a field, in numbers (R129). -/
theorem fieldOf_eq (ctl : Word) :
    fieldOf ctl = (ctl.toNat % 32, min (min (ctl.toNat / 256 % 64) 32) (32 - ctl.toNat % 32)) := by
  simp [fieldOf, BitVec.extractLsb'_toNat, Nat.shiftRight_eq_div_pow]

/-- Bit i of the field of length `n` at `p`. -/
theorem testBit_field (x : Word) (p n i : Nat) : (x.toNat / 2 ^ p % 2 ^ n).testBit i = (decide (i < n) && x.getLsbD (p + i)) := by
  rw [Nat.testBit_mod_two_pow, Nat.testBit_div_two_pow, BitVec.testBit_toNat, Nat.add_comm i p]

/-- An extracted field, zero-extended: 0 from its length on (R129). -/
theorem bfxW_unsigned_getLsbD {x ctl : Word} {p n i : Nat} (hf : fieldOf ctl = (p, n)) (hi : i < 32) :
    (bfxW true x ctl).getLsbD i = (decide (i < n) && x.getLsbD (p + i)) := by
  unfold bfxW
  simp only [hf, Bool.true_or, if_true]
  obtain rfl | hn := Nat.eq_zero_or_pos n
  · simp
  · rw [if_neg hn.ne', BitVec.getLsbD_ofNat, decide_eq_true hi, Bool.true_and, testBit_field]

/-- A field of length `n` in two's complement, as a number of 32 bits: from its length on, each bit is its last one. -/
theorem testBit_signed {f n i : Nat} (hn : 0 < n) (hle : n ≤ 32) (hf : f < 2 ^ n) (hi : i < 32) :
    (if f / 2 ^ (n - 1) = 0 then f else f + 2 ^ 32 - 2 ^ n).testBit i = if i < n then f.testBit i else f.testBit (n - 1) := by
  have hhalf : f / 2 ^ (n - 1) < 2 := Nat.div_lt_of_lt_mul (by rwa [← pow_succ, Nat.sub_add_cancel hn])
  rw [Nat.testBit_eq_decide_div_mod_eq (i := n - 1), Nat.mod_eq_of_lt hhalf]
  by_cases hsign : f / 2 ^ (n - 1) = 0
  · rw [if_pos hsign, hsign]
    split
    · rfl
    · exact Nat.testBit_lt_two_pow (hf.trans_le (Nat.pow_le_pow_right two_pos (by omega)))
  · have hones : f + 2 ^ 32 - 2 ^ n = 2 ^ n * (2 ^ (32 - n) - 1) + f := by
      have hsplit : 2 ^ n * 2 ^ (32 - n) = 2 ^ 32 := by rw [← pow_add, Nat.add_sub_cancel' hle]
      have hpow : 2 ^ n ≤ 2 ^ 32 := Nat.pow_le_pow_right two_pos hle
      rw [Nat.mul_sub_one, hsplit]
      omega
    rw [if_neg hsign, hones, Nat.testBit_two_pow_mul_add _ hf, Nat.testBit_two_pow_sub_one]
    have hlast : f / 2 ^ (n - 1) = 1 := (Nat.lt_succ_iff.1 hhalf).antisymm (Nat.pos_of_ne_zero hsign)
    split
    · rfl
    · rw [hlast, decide_eq_true (by omega : i - n < 32 - n)]
      rfl

/-- An extracted field, sign-extended: its last bit from its length on, and 0 where it has no bit (R129). -/
theorem bfxW_signed_getLsbD {x ctl : Word} {p n i : Nat} (hf : fieldOf ctl = (p, n)) (hle : n ≤ 32) (hi : i < 32) :
    (bfxW false x ctl).getLsbD i = if n = 0 then false else if i < n then x.getLsbD (p + i) else x.getLsbD (p + n - 1) := by
  unfold bfxW
  simp only [hf, Bool.false_or, decide_eq_true_eq]
  obtain rfl | hn := Nat.eq_zero_or_pos n
  · simp
  · rw [if_neg hn.ne', if_neg hn.ne', ← apply_ite (BitVec.ofNat 32), BitVec.getLsbD_ofNat, decide_eq_true hi, Bool.true_and,
      testBit_signed hn hle (Nat.mod_lt _ (by positivity)) hi, testBit_field, testBit_field,
      decide_eq_true (by omega : n - 1 < n), Bool.true_and, ← Nat.add_sub_assoc hn]
    refine ite_congr rfl (fun hin => ?_) fun _ => rfl
    rw [decide_eq_true hin, Bool.true_and]

/-- An inserted field has the low bits of `x`, and the rest of the word is as it was (R129). -/
theorem bfiW_getLsbD {old x ctl : Word} {p n i : Nat} (hf : fieldOf ctl = (p, n)) (hi : i < 32) :
    (bfiW old x ctl).getLsbD i = if p ≤ i ∧ i < p + n then x.getLsbD (i - p) else old.getLsbD i := by
  have hmask : (BitVec.ofNat 32 ((2 ^ n - 1) * 2 ^ p)).getLsbD i = decide (p ≤ i ∧ i < p + n) := by
    rw [BitVec.getLsbD_ofNat, Nat.testBit_mul_two_pow, Nat.testBit_two_pow_sub_one]
    simp only [hi, decide_true, Bool.true_and, ← Bool.decide_and]
    exact decide_eq_decide.2 (by omega)
  unfold bfiW
  simp only [hf, BitVec.getLsbD_or, BitVec.getLsbD_and, BitVec.getLsbD_not, BitVec.getLsbD_shiftLeft, hmask, hi, decide_true, Bool.true_and]
  by_cases hin : p ≤ i ∧ i < p + n <;> simp [hin]

/-- The eight conditions (R60, R134). -/
theorem condInt_spec (x y : Word) :
    (condInt 0 x y = true ↔ x = y) ∧ (condInt 1 x y = true ↔ x ≠ y) ∧
    (condInt 2 x y = true ↔ x.toInt < y.toInt) ∧ (condInt 3 x y = true ↔ x.toInt ≤ y.toInt) ∧
    (condInt 4 x y = true ↔ y.toInt < x.toInt) ∧ (condInt 5 x y = true ↔ y.toInt ≤ x.toInt) ∧
    (condInt 6 x y = true ↔ x.toNat < y.toNat) ∧ (condInt 7 x y = true ↔ y.toNat ≤ x.toNat) :=
  ⟨beq_iff_eq, bne_iff_ne, BitVec.slt_iff_toInt_lt, BitVec.sle_iff_toInt_le, BitVec.slt_iff_toInt_lt, BitVec.sle_iff_toInt_le,
    BitVec.ult_iff_toNat_lt, BitVec.ule_iff_toNat_le⟩

end Sys2Proof.Machine
end

section
/-! PROOF of O1 and O2: the arithmetic, the logic and the shifts of the lanes. -/

namespace Sys2Proof
open Machine

/-- Settles O1: each result in 32 bits is the exact integer cut to them. -/
theorem laneArithmetic : Obligations.LaneArithmetic := by
  unfold Obligations.LaneArithmetic
  exact ⟨fun d a o => sel_lanes rfl ⟨_, _, rfl⟩ fun _ _ => add_eq_ofInt _ _,
    fun d a o => sel_lanes rfl ⟨_, _, rfl⟩ fun _ _ => sub_eq_ofInt _ _,
    fun d a o => sel_lanes rfl ⟨_, _, rfl⟩ fun _ _ => mul_eq_ofInt _ _,
    fun d a o u => sel_lanes rfl ⟨_, _, rfl⟩ fun _ _ => mulHi_eq_ofInt u _ _,
    fun d a o => sel_lanes rfl ⟨_, _, rfl⟩ fun _ _ => mulAdd_eq_ofInt _ _ _,
    fun d a o u => sel_lanes rfl ⟨_, _, rfl⟩ fun _ _ => minW_eq_ofInt u _ _,
    fun d a o u => sel_lanes rfl ⟨_, _, rfl⟩ fun _ _ => maxW_eq_ofInt u _ _,
    fun d a o u => sel_lanes rfl ⟨_, _, rfl⟩ fun _ _ => absDiff_eq_ofInt u _ _,
    fun d a o u => sel_lanes rfl ⟨_, _, rfl⟩ fun _ _ => rfl,
    fun d a o u => sel_lanes rfl ⟨_, _, rfl⟩ fun _ _ => rfl⟩

/-- Settles O2: the shifts by the whole count are products and quotients by powers of 2. -/
theorem laneLogic : Obligations.LaneLogic := by
  unfold Obligations.LaneLogic
  exact ⟨fun d a o => sel_lanes rfl ⟨_, _, rfl⟩ fun _ _ => rfl,
    fun d a o => sel_lanes rfl ⟨_, _, rfl⟩ fun _ _ => rfl,
    fun d a o => sel_lanes rfl ⟨_, _, rfl⟩ fun _ _ => rfl,
    fun d a o => sel_lanes rfl ⟨_, _, rfl⟩ fun _ _ => rfl,
    fun d a o => sel_lanes rfl ⟨_, _, rfl⟩ fun _ _ => shlW_eq_mul _ _,
    fun d a o => sel_lanes rfl ⟨_, _, rfl⟩ fun _ _ => shrW_eq_div _ _,
    fun d a o => sel_lanes rfl ⟨_, _, rfl⟩ fun _ _ => sarW_eq_div _ _⟩

end Sys2Proof
end

section
/-! SUPPORT of O3: the moves whose result has a fixed latency and `lea`, and a result in the active lanes of a predicate (R132). -/

namespace Sys2Proof.Machine

/-! What the dispatcher runs for each of them (R128, R130, R132 to R134). -/

theorem exec_popc (d a : RegNo) : exec (.popc d a) = execPopc d a := rfl
theorem exec_clz (d a : RegNo) : exec (.clz d a) = execClz d a := rfl
theorem exec_brev (d a : RegNo) : exec (.brev d a) = execBrev d a := rfl
theorem exec_iaddi (d a : RegNo) (imm : BitVec 10) : exec (.iaddi d a imm) = execIaddi d a imm := rfl
theorem exec_movi (d : RegNo) (imm : BitVec 17) : exec (.movi d imm) = execMovi d imm := rfl
theorem exec_sel (d a b : RegNo) : exec (.sel d a b) = execSel d a b := rfl
theorem exec_lea (d a : RegNo) (o : OpB) (u : Bool) : exec (.lea d a o u) = execLea d a o u := rfl
theorem exec_icmp (d a : RegNo) (o : OpL) (c : BitVec 3) : exec (.icmp d a o c) = execIcmp d a o c := rfl

/-- Values for those active lanes in which `p` holds are new values in them, and none elsewhere. -/
theorem carries_laneWrites_filter (r : Team) (d : RegNo) (p : Nat → Bool) (f : Nat → Word) :
    Carries (laneWrites (r.actives.filter p) d f) fun file n l => if p l = true then newLanes r d f file n l else none := by
  intro t file n l hl
  rw [laneWrites, reg_puts_map _ _ _ f (fun _ h => actives_lt (List.mem_filter.1 h).1) (by decide) (by simp) t file n l hl]
  simp only [List.mem_filter, mem_actives, newLanes]
  by_cases hp : p l = true
  · simp only [hp, and_true, if_true]
    split <;> rfl
  · simp only [hp, and_false, if_false, Bool.false_eq_true]
    rfl

end Sys2Proof.Machine
end

section
/-! PROOF of O3. -/

namespace Sys2Proof
open Machine

/-- Settles O3: the slots by their functions, the functions bit by bit, and the conditions. -/
theorem laneMoves : Obligations.LaneMoves := by
  unfold Obligations.LaneMoves
  refine ⟨⟨fun d a => fix_lanes (exec_popc d a) fun _ _ => rfl,
      fun d a => fix_lanes (exec_clz d a) fun _ _ => rfl,
      fun d a => fix_lanes (exec_brev d a) fun _ _ => rfl,
      fun d a o u => sel_lanes rfl ⟨_, _, rfl⟩ fun _ _ => rfl,
      fun d a o => sel_lanes rfl ⟨_, _, rfl⟩ fun _ _ => rfl,
      fun d a imm => fix_lanes (exec_iaddi d a imm) fun _ _ => add_sext_eq_ofInt _ imm,
      fun d imm => fix_lanes (exec_movi d imm) fun _ _ => rfl,
      fun d o => sel_lanes rfl ⟨_, _, rfl⟩ fun _ _ => rfl,
      fun d a b => fixed_of_laneFixed (exec_sel d a b) (fun r => carries_laneWrites_filter r d _ _) fun _ => rfl,
      fun d a o u => sel_pairs (exec_lea d a o u) ⟨_, _, rfl⟩ fun _ _ => rfl,
      fun d a o c => fix_preds (exec_icmp d a o c) fun _ _ => rfl⟩,
    ⟨popcW_toNat, clzW_spec, fun _ _ => brevW_getLsbD _, fun x ctl i hi => ?_⟩, condInt_spec⟩
  have hf := fieldOf_eq ctl
  exact ⟨bfxW_unsigned_getLsbD hf hi, bfxW_signed_getLsbD hf (by omega) hi, fun old => bfiW_getLsbD hf hi⟩

end Sys2Proof
end

section
/-! SUPPORT of O4: the exchange and predicate instructions, and the lanes from which they take their values. -/

namespace Sys2Proof.Machine

/-! What the dispatcher runs for each of them (R136 to R140). -/

theorem exec_shfl (d a : RegNo) (src : LaneSrc) : exec (.shfl d a src) = execShfl d a src := rfl
theorem exec_lred (d a k : RegNo) (team : Bool) : exec (.lred d a k team) = execLred d a k team := rfl
theorem exec_lscan (d a k : RegNo) (team excl : Bool) : exec (.lscan d a k team excl) = execLscan d a k team excl := rfl
theorem exec_matchv (d a : RegNo) (team : Bool) : exec (.matchv d a team) = execMatchv d a team := rfl
theorem exec_pset (d a : RegNo) : exec (.pset d a) = execPset d a := rfl
theorem exec_pmov (d a : RegNo) : exec (.pmov d a) = execPmov d a := rfl
theorem exec_plog (d a b : RegNo) (m : BitVec 3) : exec (.plog d a b m) = execPlog d a b m := rfl

/-- A pattern within the lane group has a fixed latency, and one of the team a variable one (R136, R141). -/
theorem execShfl_pat_group (d a : RegNo) {w : Word} (hw : w.getLsbD 3 = false) :
    exec (.shfl d a (.pat w)) = laneFixed (.shfl d a (.pat w)) 6 fun r => perLane r d fun l => r.V (xsrcLit r l w) a.toNat := by
  funext s
  simp only [exec_shfl, execShfl, hw, Bool.false_eq_true, if_false]
  rfl
theorem execShfl_pat_team (d a : RegNo) {w : Word} (hw : w.getLsbD 3 = true) :
    exec (.shfl d a (.pat w)) = laneLater (.shfl d a (.pat w)) 11 fun r => perLane r d fun l => r.V (xsrcLit r l w) a.toNat := by
  funext s
  simp only [exec_shfl, execShfl, hw, if_true]
  rfl

/-- The lane that an index names, where it is live, and otherwise the reading lane itself (R136). -/
theorem shflSource_reg (r : Team) (l : Nat) (b : RegNo) : shflSource r l (.reg b) =
    if (r.V l b.toNat).toNat < r.lanes ∧ r.live.getLsbD (r.V l b.toNat).toNat = true then (r.V l b.toNat).toNat else l := by
  simp [shflSource]
theorem shflSource_uni (r : Team) (l : Nat) (b : RegNo) : shflSource r l (.uni b) =
    if (r.S b.toNat).toNat < r.lanes ∧ r.live.getLsbD (r.S b.toNat).toNat = true then (r.S b.toNat).toNat else l := by
  simp [shflSource]
theorem shflSource_lit (r : Team) (l : Nat) (w : Word) : shflSource r l (.lit w) =
    if w.toNat % 1024 < r.lanes ∧ r.live.getLsbD (w.toNat % 1024) = true then w.toNat % 1024 else l := by
  simp [shflSource, BitVec.extractLsb'_toNat]

/-- The tree of a scan has the leaves up to the lane, itself among them where the scan is inclusive (R94, R138). -/
theorem lscanW_eq (r : Team) (a k : RegNo) (team excl : Bool) (l : Nat) : lscanW r a k team excl l =
    (redTree r.fmode k.toNat (fun m => if m < l ∨ (m = l ∧ excl = false) then scopeLeaf r a.toNat m else none)
      (if team then 10 else 5) (if team then 0 else 32 * (l / 32))).getD (redEmpty k.toNat, 0) := by
  unfold lscanW
  simp only [Bool.or_eq_true, Bool.and_eq_true, decide_eq_true_eq, beq_iff_eq, Bool.not_eq_true']
  cases team <;> rfl

/-- A lane is the first holder of its value where no active lane of its scope below it holds that value (R139). -/
theorem firstHolder_eq (r : Team) (n l : Nat) (team : Bool) :
    (r.actives.all fun m => !(decide (m < l) && (team || m / 32 == l / 32) && r.V m n == r.V l n)) =
      decide (∀ m ∈ r.actives, m < l → (team = true ∨ m / 32 = l / 32) → r.V m n ≠ r.V l n) := by
  rw [Bool.eq_iff_iff, List.all_eq_true, decide_eq_true_eq]
  refine forall₂_congr fun m _ => ?_
  simp only [Bool.not_eq_true', Bool.and_eq_false_imp, Bool.and_eq_true, Bool.or_eq_true, decide_eq_true_eq, beq_iff_eq, and_imp,
    beq_eq_false_iff_ne]

/-- The eight functions of two predicates (R61, R140). -/
theorem plogB_spec (x y : Bool) : plogB 0 x y = (x && y) ∧ plogB 1 x y = (x || y) ∧ plogB 2 x y = (x ^^ y) ∧
    plogB 3 x y = (x && !y) ∧ plogB 4 x y = (x || !y) ∧ plogB 5 x y = !(x && y) ∧ plogB 6 x y = !(x || y) ∧ plogB 7 x y = !(x ^^ y) :=
  ⟨rfl, rfl, rfl, rfl, rfl, rfl, rfl, (Bool.not_not _).symm⟩

end Sys2Proof.Machine
end

section
/-! PROOF of O4. -/

namespace Sys2Proof
open Machine

/-- Settles O4: which lane `shfl` reads, which leaves a tree has, and which lane is the first holder of its value. -/
theorem laneExchange : Obligations.LaneExchange := by
  unfold Obligations.LaneExchange
  exact ⟨fun d a w hw => fix_lanes (execShfl_pat_group d a hw) fun _ _ => rfl,
    fun d a w hw => var_lanes (execShfl_pat_team d a hw) ⟨_, _, rfl⟩ fun _ _ => rfl,
    fun d a b => var_lanes (exec_shfl d a _) ⟨_, _, rfl⟩ fun r l => congrArg (r.V · a.toNat) (shflSource_reg r l b),
    fun d a b => var_lanes (exec_shfl d a _) ⟨_, _, rfl⟩ fun r l => congrArg (r.V · a.toNat) (shflSource_uni r l b),
    fun d a w => var_lanes (exec_shfl d a _) ⟨_, _, rfl⟩ fun r l => congrArg (r.V · a.toNat) (shflSource_lit r l w),
    fun d a k => var_lanesF (exec_lred d a k _) ⟨_, _, rfl⟩ fun _ _ => rfl,
    fun d a k => var_lanesF (exec_lred d a k _) ⟨_, _, rfl⟩ fun _ _ => rfl,
    fun d a k team excl => var_lanesF (exec_lscan d a k team excl) ⟨_, _, rfl⟩ fun r l => lscanW_eq r a k team excl l,
    fun d a team => var_preds (exec_matchv d a team) ⟨_, _, rfl⟩ fun r l => firstHolder_eq r a.toNat l team,
    fun d a => fix_preds (exec_pset d a) fun _ _ => (decide_not ..).symm,
    fun d a => fix_preds (exec_pmov d a) fun _ _ => rfl,
    fun d a b m => fix_preds (exec_plog d a b m) fun _ _ => rfl,
    plogB_spec⟩

end Sys2Proof
end

section
/-! SUPPORT of O5: the FP32 instructions whose operand b is no "sel" operand. -/

namespace Sys2Proof.Machine

/-! What the dispatcher runs for each of them (R147 to R149). -/

theorem exec_fcmp (d a : RegNo) (o : OpL) (c : BitVec 3) : exec (.fcmp d a o c) = execFcmp d a o c := rfl
theorem exec_fclass (d a : RegNo) : exec (.fclass d a) = execFclass d a := rfl
theorem exec_frcp (d a : RegNo) : exec (.frcp d a) = execFrcp d a := rfl
theorem exec_frsq (d a : RegNo) : exec (.frsq d a) = execFrsq d a := rfl
theorem exec_fsqrt (d a : RegNo) : exec (.fsqrt d a) = execFsqrt d a := rfl
theorem exec_fex2 (d a : RegNo) : exec (.fex2 d a) = execFex2 d a := rfl
theorem exec_flg2 (d a : RegNo) : exec (.flg2 d a) = execFlg2 d a := rfl
theorem exec_fsin (d a : RegNo) : exec (.fsin d a) = execFsin d a := rfl
theorem exec_fcos (d a : RegNo) : exec (.fcos d a) = execFcos d a := rfl

/-- The negation of operand b flips its sign bit (R142). -/
theorem negW_spec (y : Word) : negW false y = y ∧ negW true y = y ^^^ 0x80000000 := ⟨rfl, rfl⟩

end Sys2Proof.Machine
end

section
/-! PROOF of O5. -/

namespace Sys2Proof
open Machine

/-- Settles O5: each instruction by the function of a lane that it runs, its flags raised by all active lanes. -/
theorem laneFloat : Obligations.LaneFloat := by
  unfold Obligations.LaneFloat
  exact ⟨fun d a o u => sel_lanesF rfl ⟨_, _, rfl⟩ fun _ _ => rfl,
    fun d a o u => sel_lanesF rfl ⟨_, _, rfl⟩ fun _ _ => rfl,
    fun d a o u => sel_lanesF rfl ⟨_, _, rfl⟩ fun _ _ => rfl,
    fun d a o u => sel_lanesF rfl ⟨_, _, rfl⟩ fun _ _ => rfl,
    fun d a o u => sel_lanesF rfl ⟨_, _, rfl⟩ fun _ _ => rfl,
    fun d a o u => sel_lanesF rfl ⟨_, _, rfl⟩ fun _ _ => rfl,
    fun d a o u => sel_lanesF rfl ⟨_, _, rfl⟩ fun _ _ => rfl,
    fun d a o u => sel_lanesF rfl ⟨_, _, rfl⟩ fun _ _ => rfl,
    fun d a o c => fix_predsF (exec_fcmp d a o c) fun _ _ => rfl,
    fun d a => fix_lanes (exec_fclass d a) fun _ _ => rfl,
    fun d a => fix_lanesF (exec_frcp d a) fun _ _ => rfl,
    fun d a => fix_lanesF (exec_frsq d a) fun _ _ => rfl,
    fun d a => fix_lanesF (exec_fsqrt d a) fun _ _ => rfl,
    fun d a => fix_lanesF (exec_fex2 d a) fun _ _ => rfl,
    fun d a => fix_lanesF (exec_flg2 d a) fun _ _ => rfl,
    fun d a => fix_lanesF (exec_fsin d a) fun _ _ => rfl,
    fun d a => fix_lanesF (exec_fcos d a) fun _ _ => rfl,
    negW_spec⟩

end Sys2Proof
end

section
/-! SUPPORT of O6: FP64 and conversions; the latency and the width of the result of `cvt` (R64, R65, R153, R154). -/

namespace Sys2Proof.Machine

/-! What the dispatcher runs for each of them (R147, R152, R154). -/

theorem exec_dadd (d a : RegNo) (o : OpB) (u : Bool) : exec (.dadd d a o u) = execDadd d a o u := rfl
theorem exec_dmul (d a : RegNo) (o : OpB) (u : Bool) : exec (.dmul d a o u) = execDmul d a o u := rfl
theorem exec_dfma (d a : RegNo) (o : OpB) (u : Bool) : exec (.dfma d a o u) = execDfma d a o u := rfl
theorem exec_dcmp (d a : RegNo) (o : OpL) (c : BitVec 3) : exec (.dcmp d a o c) = execDcmp d a o c := rfl
theorem exec_cvt (d a : RegNo) (spec : Word) : exec (.cvt d a spec) = execCvt d a spec := rfl

/-- The source of `cvt` in lane `l`: a pair where its format has 64 bits, and a register otherwise (R153). -/
def cvtOperand (spec : Word) (a : RegNo) (r : Team) (l : Nat) : DWord :=
  if cvtWidth (spec.extractLsb' 0 4) = 2 then r.V64 l a.toNat else (r.V l a.toNat).setWidth 64
/-- What `cvt` gives in lane `l`, where its destination has 64 bits (R154). -/
def cvtPair (spec : Word) (a : RegNo) (r : Team) (l : Nat) : DWord × BitVec 5 := cvtW spec r.fmode (cvtOperand spec a r l)
/-- What `cvt` gives in lane `l`, where its destination has 32 bits (R154). -/
def cvtWord (spec : Word) (a : RegNo) (r : Team) (l : Nat) : Word × BitVec 5 :=
  ((cvtPair spec a r l).1.extractLsb' 0 32, (cvtPair spec a r l).2)

/-- An FP64 source is a pair. -/
theorem cvtOperand_fp64 {spec : Word} (hsrc : spec.extractLsb' 0 4 = 3#4) (a : RegNo) (r : Team) (l : Nat) :
    cvtOperand spec a r l = r.V64 l a.toNat := by
  rw [cvtOperand, hsrc]
  rfl
/-- An FP64 destination is a pair. -/
theorem cvtWidth_fp64 {c : BitVec 4} (hc : c = 3#4) : cvtWidth c = 2 := by
  rw [hc]
  rfl

section
variable (d a : RegNo) {spec : Word}

/-- Without FP64 the latency of `cvt` is fixed, whether it writes a register or a pair (R64). -/
theorem exec_cvt_fixed_word (hfp64 : ¬(spec.extractLsb' 0 4 = 3#4 ∨ spec.extractLsb' 4 4 = 3#4))
    (hwidth : cvtWidth (spec.extractLsb' 4 4) = 1) :
    exec (.cvt d a spec) = fun s => laneFixed (.cvt d a spec) 6 (fun r => perLaneF r d (cvtWord spec a r)) s := by
  rw [exec_cvt]
  funext s
  unfold execCvt
  simp only [hwidth, OfNat.one_ne_ofNat, if_false]
  exact if_neg hfp64
theorem exec_cvt_fixed_pair (hfp64 : ¬(spec.extractLsb' 0 4 = 3#4 ∨ spec.extractLsb' 4 4 = 3#4))
    (hwidth : cvtWidth (spec.extractLsb' 4 4) = 2) :
    exec (.cvt d a spec) = fun s => laneFixed (.cvt d a spec) 6 (fun r => perLaneF64 r d (cvtPair spec a r)) s := by
  rw [exec_cvt]
  funext s
  unfold execCvt
  simp only [hwidth, if_true]
  exact if_neg hfp64

/-- With FP64 on either side the latency of `cvt` is variable (R65). -/
theorem exec_cvt_later_word (hfp64 : spec.extractLsb' 0 4 = 3#4 ∨ spec.extractLsb' 4 4 = 3#4)
    (hwidth : cvtWidth (spec.extractLsb' 4 4) = 1) :
    exec (.cvt d a spec) = fun s => laneLater (.cvt d a spec) 10 (fun r => perLaneF r d (cvtWord spec a r)) s := by
  rw [exec_cvt]
  funext s
  unfold execCvt
  simp only [hwidth, OfNat.one_ne_ofNat, if_false]
  exact if_pos hfp64
theorem exec_cvt_later_pair (hfp64 : spec.extractLsb' 0 4 = 3#4 ∨ spec.extractLsb' 4 4 = 3#4)
    (hwidth : cvtWidth (spec.extractLsb' 4 4) = 2) :
    exec (.cvt d a spec) = fun s => laneLater (.cvt d a spec) 10 (fun r => perLaneF64 r d (cvtPair spec a r)) s := by
  rw [exec_cvt]
  funext s
  unfold execCvt
  simp only [hwidth, if_true]
  exact if_pos hfp64
end

end Sys2Proof.Machine
end

section
/-! PROOF of O6. -/

namespace Sys2Proof
open Machine

/-- Settles O6: each instruction by the function of a lane that it runs, and `cvt` by the four cases of its latency and its width. -/
theorem lanePacked : Obligations.LanePacked := by
  unfold Obligations.LanePacked
  refine ⟨fun d a o u => sel_lanesF rfl ⟨_, _, rfl⟩ fun _ _ => rfl,
    fun d a o u => sel_lanesF rfl ⟨_, _, rfl⟩ fun _ _ => rfl,
    fun d a o u => sel_lanesF rfl ⟨_, _, rfl⟩ fun _ _ => rfl,
    fun d a o u => sel_lanesF rfl ⟨_, _, rfl⟩ fun _ _ => rfl,
    fun d a o u => sel_lanesF rfl ⟨_, _, rfl⟩ fun _ _ => rfl,
    fun d a o u => var_pairsF (exec_dadd d a o u) ⟨_, _, rfl⟩ fun _ _ => rfl,
    fun d a o u => var_pairsF (exec_dmul d a o u) ⟨_, _, rfl⟩ fun _ _ => rfl,
    fun d a o u => var_pairsF (exec_dfma d a o u) ⟨_, _, rfl⟩ fun _ _ => rfl,
    fun d a o c => var_predsF (exec_dcmp d a o c) ⟨_, _, rfl⟩ fun _ _ => rfl,
    fun d a spec hsrc hdst hwidth => fix_lanesF (exec_cvt_fixed_word d a (not_or.2 ⟨hsrc, hdst⟩) hwidth) fun _ _ => rfl,
    fun d a spec hsrc hdst hwidth => fix_pairsF (exec_cvt_fixed_pair d a (not_or.2 ⟨hsrc, hdst⟩) hwidth) fun _ _ => rfl, ?_, ?_⟩
  · rintro d a spec ⟨hsrc, hwidth⟩
    refine var_lanesF (exec_cvt_later_word d a (.inl hsrc) hwidth) ⟨_, _, rfl⟩ fun r l => ?_
    rw [cvtWord, cvtPair, cvtOperand_fp64 hsrc]
  · intro d a spec hpair
    have hfp64 : spec.extractLsb' 0 4 = 3#4 ∨ spec.extractLsb' 4 4 = 3#4 := hpair.imp_left And.left
    have hwidth : cvtWidth (spec.extractLsb' 4 4) = 2 := hpair.elim And.right cvtWidth_fp64
    exact var_pairsF (exec_cvt_later_pair d a hfp64 hwidth) ⟨_, _, rfl⟩ fun _ _ => rfl

end Sys2Proof
end

section
/-! SUPPORT of O7: the two tapered formats that a control word selects (R155), in each of which a lane decodes and encodes. -/

namespace Sys2Proof.Machine

/-! What the dispatcher runs for those that give flags (R156, R157, R159). -/

theorem exec_tdec (d a : RegNo) (o : OpB) : exec (.tdec d a o) = execTdec d a o := rfl
theorem exec_tenc (d a : RegNo) (o : OpB) : exec (.tenc d a o) = execTenc d a o := rfl
theorem exec_fxq (d a : RegNo) (o : OpB) : exec (.fxq d a o) = execFxq d a o := rfl
theorem exec_fxdq (d a : RegNo) (o : OpB) : exec (.fxdq d a o) = execFxdq d a o := rfl

/-- The format of a control word: TF6 or TF8 by its bit 0 (R155). -/
theorem tfFormat_eq (ctl : Word) : tfFormat ctl = (if ctl.getLsbD 0 then 6 else 8, if ctl.getLsbD 0 then 0 else 1) := by
  unfold tfFormat
  split <;> rfl

/-- An encoded element, as a word, with its flags (R156). -/
theorem tencW_eq (x ctl : Word) : tencW x ctl =
    if tfScale ctl = -128 then (BitVec.ofNat 32 (2 ^ ((tfFormat ctl).1 - 1)), 0)
    else asWord (tfEncode (fp32.num x.toNat) (tfScale ctl) (tfFormat ctl).1 (tfFormat ctl).2) := rfl

/-- A decoded element, scaled and rounded; NaR and the scale of a block of NaR give a NaN (R157). -/
theorem tdecW_eq (mode : BitVec 2) (x ctl : Word) : tdecW mode x ctl =
    if tfScale ctl = -128 then (0x7FC00000, 0)
    else match tfDecode (x.toNat % 2 ^ (tfFormat ctl).1) (tfFormat ctl).1 (tfFormat ctl).2 with
      | none => (0x7FC00000, 0)
      | some (s, m, e) => asWord (fp32.pack mode (.fin s m (e + tfScale ctl))) := rfl

end Sys2Proof.Machine
end

section
/-! PROOF of O7. -/

namespace Sys2Proof
open Machine

/-- Settles O7: the slots by their functions, with the format of the control word written out. -/
theorem laneNarrow : Obligations.LaneNarrow := by
  unfold Obligations.LaneNarrow
  refine ⟨fun d a o => sel_lanesF (exec_tdec d a o) ⟨_, _, rfl⟩ fun r l => ?_,
    fun d a o => sel_lanesF (exec_tenc d a o) ⟨_, _, rfl⟩ fun r l => ?_,
    fun d a o => sel_lanes rfl ⟨_, _, rfl⟩ fun _ _ => rfl,
    fun d a o => sel_lanes rfl ⟨_, _, rfl⟩ fun _ _ => rfl,
    fun d a o => sel_pairsF (exec_fxq d a o) ⟨_, _, rfl⟩ fun _ _ => rfl,
    fun d a o => sel_lanesF (exec_fxdq d a o) ⟨_, _, rfl⟩ fun _ _ => rfl⟩
  · rw [tdecW_eq, tfFormat_eq]
    rfl
  · rw [tencW_eq, tfFormat_eq]
    rfl

end Sys2Proof
end

section
/-! PROOF of what `Obligations.AccessTraps` comes to: it fails, since it also speaks of a slot that is issued again after a page fault. Such a
slot leaves the lanes of its done mask out (R165), so that a done lane's address is not checked, whatever its register holds by now. -/

namespace Sys2Proof.Machine.DoneLane

/-- A team that issues its load again with lane 0 done, the only active one, whose address register has come to hold 2^52. -/
def team : Team :=
  { Team.start 0 32 false (Kernel.plain 0 0x200 (some 0x100) false) 0x80 0 1 with vregs := 32, sregs := 32, ex := 1, done := 1, v := [(1024 * 3, 0x00100000)] }
/-- The machine that runs it. -/
def state : State := (State.reset.withTeam false []).updTeam 0 fun _ => team

theorem issues : Issues state team (.ld8 8 2 0) := by unfold Issues; decide +kernel
/-- The load completes: its team goes on at the next slot, and not at its trap entry. -/
theorem goes_on : ∃ s', exec (.ld8 8 2 0) state = .next s' ∧ (s'.teams.find 0).map Team.pc = some 0x88 := ⟨_, rfl, by decide +kernel⟩
theorem trap_enters : ((state.takeTrap 0x08 0 (1 <<< 52)).teams.find 0).map Team.pc = some 0x104 := by decide +kernel
theorem not_traps : ¬ Traps state (.ld8 8 2 0) 0x08 0 (1 <<< 52) := by
  intro h
  obtain ⟨s', hexec, hpc⟩ := goes_on
  have hs' : s' = state.takeTrap 0x08 0 (1 <<< 52) := Host.Outcome.next.inj (hexec.symm.trans h)
  rw [hs', trap_enters] at hpc
  exact absurd hpc (by decide)

end Sys2Proof.Machine.DoneLane

namespace Sys2Proof
open Machine

/-- Refutes O22: lane 0, which is done, is at 2^52, and its load completes without a trap. -/
theorem not_accessTraps : ¬ Obligations.AccessTraps := by
  unfold Obligations.AccessTraps
  intro h
  obtain ⟨hld8, -⟩ := h 8 2 0
  refine DoneLane.not_traps (hld8 DoneLane.state DoneLane.team 0 8 DoneLane.issues ?_ ?_ ?_)
  · decide +kernel
  · decide +kernel
  · intro m _ hm
    exact absurd hm (Nat.not_lt_zero m)

end Sys2Proof
end

section
/-! PROOF of what `Obligations.LaneAtomics` comes to: it fails as `Obligations.LaneMemory` does, since it does not say that what a
read-modify-write finds goes to a vector or a uniform register, and a predicate of a lane cannot hold a number from 2 on. -/

namespace Sys2Proof.Machine.Loads

/-- A swap of the word at physical address 0x40 for 5; what it finds goes to predicate 1. -/
def predSwap : Op := { predLoad with n := 4, kind := .rmw false .xch 5 }
/-- A machine with that swap on its way, a 2 in the word, and its team waiting for it. -/
def predSwapping : State := { predLoading with traffic := [predSwap] }

theorem predSwapping_ready : Ready predSwapping predSwap := by unfold Ready; decide +kernel
theorem predSwapping_waits : ∃ t, predSwapping.teams.find predSwap.team = some t ∧
    t.pends.any (·.serial == predSwap.group) = predSwap.dest.isSome := ⟨_, rfl, by decide +kernel⟩
/-- The swap is performed: predicate 1 of lane 0 reads as 1, since the number found is not 0. -/
theorem predSwapping_gives_one : ((predSwapping.perform 1).teams.find 0).map (fun t => t.reg .p 1 0) = some 1 := by decide +kernel
theorem newOp_predSwap : newOp predSwap (memNat predSwapping.mem 0x40 4) .p 1 0 = some 2 := by decide +kernel

/-- `Swaps` asks that predicate 1 of lane 0 reads as the number found, 2, and the model gives 1. -/
theorem predSwapping_not_swaps (m : SMap Byte) (fl : BitVec 5) : ¬ Swaps predSwapping predSwap m (memNat predSwapping.mem 0x40 4) fl := by
  intro h
  obtain ⟨t, ht, hwaits⟩ := predSwapping_waits
  obtain ⟨s', t', hrun, -, ht', -, hregs, -⟩ := h t ht hwaits
  have hs' : predSwapping.perform 1 = s' := Host.Outcome.next.inj hrun
  have htwo : t'.reg .p 1 0 = 2 := by rw [hregs .p 1 0 (by decide), newOp_predSwap]; rfl
  have hone := predSwapping_gives_one
  rw [hs', show s'.teams.find 0 = some t' from ht', Option.map_some, htwo] at hone
  exact absurd hone (by decide)

end Sys2Proof.Machine.Loads

namespace Sys2Proof
open Machine Machine.Loads

/-- Refutes O26: a swap that finds the number 2, with predicate 1 of lane 0 as its destination, cannot leave 2 there. -/
theorem not_laneAtomics : ¬ Obligations.LaneAtomics := by
  unfold Obligations.LaneAtomics
  rintro ⟨-, hperformed⟩
  obtain ⟨hswaps, -⟩ := hperformed predSwapping predSwap 0x40 _ _ false .xch 5 predSwapping_ready rfl rfl rfl (by decide) (by decide +kernel)
    (by decide +kernel)
  exact predSwapping_not_swaps _ _ hswaps

end Sys2Proof
end

section
/-! SUPPORT of O30: a beat as its bytes, and the bodies of `qpush` and `qpop` (R185, R186). -/

namespace Sys2Proof.Machine

/-- A beat holds four bytes for each lane of its group. -/
theorem pushBeat_eq (r : Team) (n w : Nat) : pushBeat r n w = BitVec.ofNat 1024 (leNat ((List.range 32).flatMap fun p =>
    leBytes 4 (if r.ex.getLsbD (32 * w + p) then (r.V (32 * w + p) n).toNat else 0))) := by
  unfold pushBeat
  congr 3
  funext p
  unfold wordBytes
  split <;> rfl

section
variable {d a : RegNo} {s : State} {t : Team}

/-- The array at whose queues a team pushes and pops: the one of a gang with a control team (R186). -/
theorem queueArray_none (h : t.kernel.hasCtl = false ∨ s.arrayOf t = none) : (if t.kernel.hasCtl then s.arrayOf t else none) = none := by
  rcases h with h | h <;> simp [h]

/-- A `qpush` that begins at a queue where no other waits, and which has room for its beats (R186). -/
theorem execQpush_leaves {x : Array} (hi : Issues s t (.qpush d a)) (hc : t.kernel.hasCtl = true) (hx : s.arrayOf t = some x) (hf : Afresh t)
    (hp : x.pushers.getD d.toNat [] = []) (hroom : (x.queues.getD d.toNat []).length + (groupsOf t.ex).length ≤ 64) :
    LeavesIn s (.qpush d a) (State.updArray { s with serial := s.serial + 1 } t.gang fun x => { x with
      queues := x.queues.modify d.toNat fun l => l ++ (groupsOf t.ex).map fun w => (pushBeat (t.viewAt s.clk) a.toNat w, (0 : Word))
      pushers := x.pushers.set d.toNat [] }) t (nextPc t.pc false) := by
  obtain ⟨hd, hm⟩ := hf
  have he : exec (.qpush d a) s = execQpush d a s := rfl
  unfold execQpush at he
  refine leavesIn_of_done hi he ?_ ?_ rfl
  · have htake : (groupsOf t.ex).take (64 - (x.queues.getD d.toNat []).length) = groupsOf t.ex := List.take_of_length_le (by omega)
    simp [hc, hx, hd, hm, hp, joinTurn, htake, -List.getD_eq_getElem?_getD]
  · have h := hi.1
    unfold State.me at h ⊢
    simpa using h

end

end Sys2Proof.Machine
end

section
/-! PROOF of O30. -/

namespace Sys2Proof
open Machine

/-- Settles O30: each instruction by whether its gang has an array. -/
theorem queueBeats : Obligations.QueueBeats := by
  unfold Obligations.QueueBeats
  refine ⟨?_, ?_, ?_, ?_⟩
  · intro d a s t x hi hc hx hf hp r beats hroom
    have h := execQpush_leaves hi hc hx hf hp (by simpa [beats] using hroom)
    simp only [pushBeat_eq] at h
    exact h
  · intro d a s t hi hn
    exact traps_of_body hi (rfl : _ = execQpush d a s) (by simp only [queueArray_none hn])
  · intro d a s t x hi hc hx ho
    exact pendsIn_of_later hi (rfl : _ = execQpop d a s) (by simp only [hc, hx, if_true]) hi.1 rfl rfl ho
  · intro d a s t hi hn
    exact traps_of_body hi (rfl : _ = execQpop d a s) (by simp only [queueArray_none hn])

end Sys2Proof
end

section
/-! SUPPORT. The end of a slot whose body has done its work and leaves its destination, if it has one, without a result. -/

namespace Sys2Proof.Machine

/-- A slot whose body is done in a state in which its team is `u`: the team goes on, without the futures that the slot overwrites (R22). -/
theorem ends_of_done {s s1 : State} {t u : Team} {i : Instr} (h : Issues s t i) {body : (r t : Team) → State → Res} (he : exec i s = slot i body s)
    (hb : body (t.viewAt s.clk) t s = .done s1) (hu : s1.me = some u) (hc : s1.cur = s.cur) :
    ∃ s' t', exec i s = .next s' ∧ s'.teams.find s.cur = some t' ∧ RegsAfter u t' newNothing ∧ t'.fstat = u.fstat ∧
      t'.pends = (u.dropFutures i.writes).pends ∧ t'.still = u.still ∧ StepsOn i u t' ∧ RestKept s1 s' u := by
  have hm : (s1.updMe fun t => t.dropFutures i.writes).me = some (u.dropFutures i.writes) := State.updMe_me _ hu
  obtain ⟨t', e⟩ := retire_spec hm i
  refine ⟨_, t', by rw [he, slot_issues h, hb], ?_, regsAfter_of_files e.vr e.sr e.pr, e.fstat, e.pends, e.still, fun q => ?_, ?_⟩
  · rw [← hc, ← State.updMe_cur s1]
    exact e.here
  · obtain ⟨hex, hpc, hlv, -⟩ := e.path q
    exact ⟨hpc, hex, hlv⟩
  · have k : RestKept (s1.updMe fun t => t.dropFutures i.writes) _ (u.dropFutures i.writes) := (onward_of_advanced e).2
    simp only [settle]
    rw [updMe_eq hu] at k ⊢
    exact k.of_setTeam rfl

/-- A counter of a context that is not its debug right leaves the right to trace as it is. -/
theorem untraced_bumpReg {s : State} {ctx off lo n : Nat} (h : off ≠ dbg 0) (u : Untraced s) : Untraced (s.bumpReg ctx off lo n) := by
  unfold State.bumpReg
  dsimp only
  split
  · exact u
  · exact mayTrace_of_contexts (fun c => winReg_setReg_ne s ctx off _ c (dbg 0) h.symm) u
theorem untraced_secCount {s : State} {ctx lo : Nat} (u : Untraced s) : Untraced (s.secCount ctx lo) := untraced_bumpReg (by decide) u
theorem RestKept.sameMemory {s s1 s' : State} {t : Team} (k : RestKept s1 s' t) (hu : Untraced s → Untraced s1) (hm : s1.mem = s.mem)
    (un : Untraced s) : SameMemory s s' := fun a => by
  rw [← hm]
  exact congrArg (fun m => Memory.read m a) (congrArg State.mem (k.memory (hu un)) :)

end Sys2Proof.Machine
end

section
/-! SUPPORT of O32: how the operations of a section instruction travel, and each instruction with and without an area (R189 to R191, R396). -/

namespace Sys2Proof.Machine

/-- Events that are posted one after another, each into a stream of its own. -/
theorem foldl_postIn {α : Type} (stream : Nat → α → Nat) (ev : α → Ev) (xs : List α) (s : State) :
    xs.foldl (fun (s : State) x => s.postIn (stream s.cur x) 0 (ev x)) s =
      { s with agenda := s.agenda ++ xs.map fun x => (⟨stream s.cur x, s.clk, ev x⟩ : Due) } := by
  induction xs generalizing s with
  | nil => simp
  | cons x xs ih =>
    rw [List.foldl_cons, ih]
    simp [State.postIn]

/-- The lanes of an `oenter` (R189). -/
def enterLanes (r : Team) (a b : RegNo) : List EnterLane := r.actives.map fun l => ⟨l, r.V64 l a.toNat, r.V l b.toNat⟩
/-- An `oenter` as it begins: its keys are all on their way to their cells. -/
def beginEnter (s : State) (t : Team) (d : RegNo) (lanes : List EnterLane) : Enter :=
  ⟨s.serial, d.toNat, t.ownClk s.clk, lanes, (lanes.map (·.key)).eraseDups, [], [], [], []⟩

section
variable {d a b : RegNo} {s : State} {t : Team}

theorem noArea_some {x : Nat × Area} (h : s.areaOf t.ctx = some x) (ks : List (Nat × DWord × Word)) : s.noArea t ks = none := by
  unfold State.noArea
  simp [h]
theorem noArea_none (h : s.areaOf t.ctx = none) (p : Nat × DWord × Word) (ps : List (Nat × DWord × Word)) : s.noArea t (p :: ps) =
    some (.trapIn ((s.secCount t.ctx 0).updMe fun t => { t with sectTraps := ⟨0, 0x13, p.1, p.2.1, p.2.2, 0, 0, 0⟩ :: t.sectTraps }) 0x13 p.1 p.2.1) := by
  unfold State.noArea
  simp [h]

/-- What the body of an `oenter` comes to where its context has an area. -/
theorem execOenter_posts {x : Nat × Area} (hi : Issues s t (.oenter d a b)) (ho : s.overfull (.oenter d a b) = false)
    (hx : s.areaOf t.ctx = some x) :
    let e := beginEnter s t d (enterLanes (t.viewAt s.clk) a b)
    ∃ s' t' p, exec (.oenter d a b) s = .next s' ∧ s'.teams.find s.cur = some t' ∧ p ∈ t'.pends ∧ p.file = .p ∧ p.n = d.toNat ∧
      p.reason = 7 ∧ p.data = .entering s.serial ∧ RegsAfter t t' newNothing ∧ t'.fstat = t.fstat ∧
      t'.still = { t with enters := t.enters ++ [e] }.still ∧ StepsOn (.oenter d a b) t t' ∧
      (∀ k, k ≠ s.cur → s'.teams.find k = s.teams.find k) ∧ (Untraced s → SameMemory s s') ∧
      s'.agenda = s.agenda ++ e.coming.map fun (key : DWord) => (⟨sectStream s.cur key, s.clk, .oenterArrival s.cur s.serial key⟩ : Due) := by
  intro e
  have he : exec (.oenter d a b) s = execOenter d a b s := rfl
  unfold execOenter at he
  have hlanes : ((laneKeys (t.viewAt s.clk) a).map fun p => (⟨p.1, p.2, (t.viewAt s.clk).V p.1 b.toNat⟩ : EnterLane)) =
      enterLanes (t.viewAt s.clk) a b := by simp [laneKeys, enterLanes]
  have hpost := foldl_postIn (fun _ key => sectStream s.cur key) (fun key => .oenterArrival s.cur s.serial key) e.coming
    (s.setTeam s.cur { t with enters := t.enters ++ [e] })
  obtain ⟨s', t', hexec, hfind, hp, hv, hs, hpr, hf, hst, hon, hk⟩ := pends_of_later (u := { t with enters := t.enters ++ [e] })
    (s1 := { s.setTeam s.cur { t with enters := t.enters ++ [e] } with agenda := s.agenda ++ e.coming.map fun (key : DWord) =>
      (⟨sectStream s.cur key, s.clk, .oenterArrival s.cur s.serial key⟩ : Due) }) hi he
    (by simp only [hlanes, hx, updMe_eq hi.1]; exact congrArg (Res.later · 7 (.entering s.serial)) hpost) (State.setTeam_me s _) rfl rfl ho
  refine ⟨s', t', _, hexec, hfind, hp, rfl, rfl, rfl, rfl, regsAfter_of_files hv hs hpr, hf, hst, hon, fun k hne => ?_,
    hk.sameMemory (fun u => untraced_of_contexts rfl u) rfl, (congrArg State.agenda hk.rest : s'.still.agenda = _)⟩
  exact (hk.others k hne).trans (State.setTeam_find_ne s _ hne)

/-- An `oenter` in a context without an area owes the trap of its lowest lane (R396, R507). -/
theorem execOenter_owes {l : Nat} (hi : Issues s t (.oenter d a b)) (hx : s.areaOf t.ctx = none) (hl : (t.viewAt s.clk).actives.head? = some l) :
    ∃ s' t', exec (.oenter d a b) s = .next s' ∧ s'.teams.find s.cur = some t' ∧ RegsAfter t t' newNothing ∧
      t'.still = { t with sectTraps := t.sectTraps ++
        [(⟨d.toNat, 0x13, l, (t.viewAt s.clk).V64 l a.toNat, (t.viewAt s.clk).V l b.toNat, 0, 0, 0⟩ : SectTrap)] }.still ∧
      StepsOn (.oenter d a b) t t' ∧ (Untraced s → SameMemory s s') := by
  obtain ⟨ls, hls⟩ := List.head?_eq_some_iff.1 hl
  have he : exec (.oenter d a b) s = execOenter d a b s := rfl
  unfold execOenter at he
  generalize hu : ({ t with sectTraps := t.sectTraps ++
    [(⟨d.toNat, 0x13, l, (t.viewAt s.clk).V64 l a.toNat, (t.viewAt s.clk).V l b.toNat, 0, 0, 0⟩ : SectTrap)] } : Team) = u
  obtain ⟨s', t', hexec, hfind, hr, -, -, hst, hon, hk⟩ := ends_of_done (s1 := (s.setTeam s.cur u).secCount t.ctx 0) (u := u) hi he
    (by simp only [laneKeys, hls, hx, List.map_cons, updMe_eq hi.1, hu])
    (by unfold State.me; rw [secCount_teams]; simp [State.secCount])
    (by simp [State.secCount])
  subst hu
  exact ⟨s', t', hexec, hfind, hr, hst, hon, hk.sameMemory (fun u => untraced_secCount (untraced_of_contexts rfl u)) (by simp)⟩

theorem execOleave_posts {x : Nat × Area} (hi : Issues s t (.oleave a)) (hx : s.areaOf t.ctx = some x) :
    LeavesIn s (.oleave a) { s with agenda := s.agenda ++ (t.viewAt s.clk).actives.map fun l =>
      (⟨sectStream s.cur ((t.viewAt s.clk).V64 l a.toNat), s.clk, .oleaveArrival t.ctx t.ident ((t.viewAt s.clk).V64 l a.toNat)⟩ : Due) } t
      (nextPc t.pc false) := by
  refine leavesIn_of_done hi (rfl : _ = execOleave a s) ?_ hi.1 rfl
  simp only [noArea_some hx, laneKeys, List.foldl_map]
  exact congrArg Res.done (foldl_postIn (fun c l => sectStream c ((t.viewAt s.clk).V64 l a.toNat))
    (fun l => .oleaveArrival t.ctx t.ident ((t.viewAt s.clk).V64 l a.toNat)) _ s)

theorem execOskip_posts {x : Nat × Area} (hi : Issues s t (.oskip a b)) (hx : s.areaOf t.ctx = some x) :
    LeavesIn s (.oskip a b) { s with agenda := s.agenda ++ (t.viewAt s.clk).actives.map fun l =>
      (⟨sectStream s.cur ((t.viewAt s.clk).V64 l a.toNat), s.clk,
        .oskipArrival t.ctx ((t.viewAt s.clk).V64 l a.toNat) ((t.viewAt s.clk).V l b.toNat)⟩ : Due) } t (nextPc t.pc false) := by
  refine leavesIn_of_done hi (rfl : _ = execOskip a b s) ?_ hi.1 rfl
  simp only [noArea_some hx, laneKeys, List.foldl_map]
  exact congrArg Res.done (foldl_postIn (fun c l => sectStream c ((t.viewAt s.clk).V64 l a.toNat))
    (fun l => .oskipArrival t.ctx ((t.viewAt s.clk).V64 l a.toNat) ((t.viewAt s.clk).V l b.toNat)) _ s)

/-- A slot that traps and keeps what its body leaves. -/
theorem exec_of_trapIn {i : Instr} {s1 : State} {cause info : Nat} {addr : DWord} (h : Issues s t i) {body : (r t : Team) → State → Res}
    (he : exec i s = slot i body s) (hb : body (t.viewAt s.clk) t s = .trapIn s1 cause info addr) :
    exec i s = .next (s1.takeTrap cause info addr) := by rw [he, slot_issues h, hb]; rfl

end

end Sys2Proof.Machine
end

section
/-! PROOF of O32. -/

namespace Sys2Proof
open Machine

/-- Settles O32: each instruction by whether its context has a section area. -/
theorem orderedSections : Obligations.OrderedSections := by
  unfold Obligations.OrderedSections
  refine ⟨fun d a b s t x hi ho hx => execOenter_posts hi ho hx, fun a s t x hi hx => execOleave_posts hi hx,
    fun a b s t x hi hx => execOskip_posts hi hx, fun d a b s t l hi hx hl => execOenter_owes hi hx hl, ?_, ?_⟩
  · intro a s t l hi hx hl
    obtain ⟨ls, hls⟩ := List.head?_eq_some_iff.1 hl
    exact exec_of_trapIn hi (rfl : _ = execOleave a s) (by simp only [laneKeys, hls, List.map_cons, noArea_none hx])
  · intro a b s t l hi hx hl
    obtain ⟨ls, hls⟩ := List.head?_eq_some_iff.1 hl
    exact exec_of_trapIn hi (rfl : _ = execOskip a b s) (by simp only [laneKeys, hls, List.map_cons, noArea_none hx])

end Sys2Proof
end

section
/-! SUPPORT of O49: a ray that has nothing left to visit, and what becomes of its continuation (R199, R411, R415). -/

namespace Sys2Proof.Machine

/-- The state once a ray has left the unit of its cluster. -/
def State.withoutRay (s : State) (cluster ray : Nat) : State :=
  s.updCluster cluster fun k => { k with rays := k.rays.filter (·.serial != ray) }

/-- A ray with nothing left to visit leaves the unit, and its continuation is formed. -/
theorem execRayEnd_continues {s : State} {cluster ray : Nat} {k : Cluster} {r : Ray} (hk : s.clusters.find cluster = some k)
    (hr : k.rays.find? (·.serial == ray) = some r) (hready : s.rayReady cluster r = true) (hcur : r.cur = none) :
    exec (.rayEnd cluster ray) s = .next ((s.withoutRay cluster ray).continue_ cluster (r.entry 0 s.clk cluster)) := by
  have hserial : r.serial = ray := by simpa using List.find?_some hr
  have he : exec (.rayEnd cluster ray) s = execRayEnd cluster ray s := rfl
  unfold execRayEnd at he
  simp only [he, hk, Option.bind_some, hr, hready, if_true, State.stepRay, State.visit, hcur]
  rw [if_neg (by decide), State.endRay, hserial]
  rfl

section
variable {s : State} {e : DeckEntry} {c : Context} (cluster : Nat) (h : s.contexts.find e.ctx = some c)
include h

theorem continue_joins (ht : e.target < c.tcount) : s.continue_ cluster e = s.enqueue cluster e := by
  unfold State.continue_
  simp only [h]
  rw [if_neg (Nat.not_le.2 ht)]
theorem continue_discards (ht : c.tcount ≤ e.target) : s.continue_ cluster e = s.raise e.ctx 7 [BitVec.ofNat 64 e.target] := by
  unfold State.continue_
  simp only [h]
  rw [if_pos ht]

end

theorem raise_clusters (s : State) (ctx kind : Nat) (args : List DWord) : (s.raise ctx kind args).clusters = s.clusters := by
  unfold State.raise
  split <;> rfl
theorem withoutRay_clusterAt {s : State} {cluster : Nat} {k : Cluster} (h : s.clusters.find cluster = some k) (ray : Nat) :
    (s.withoutRay cluster ray).clusters.find cluster = some { k with rays := k.rays.filter (·.serial != ray) } := by
  unfold State.withoutRay
  rw [updCluster_find, clusterAt_some h]

end Sys2Proof.Machine
end

section
/-! PROOF of O49. -/

namespace Sys2Proof
open Machine

/-- Settles O49: the continuation of a ray joins the deck or is discarded, by its target. -/
theorem cascadesAndRays : Obligations.CascadesAndRays := by
  unfold Obligations.CascadesAndRays
  refine ⟨?_, ?_⟩
  · intro die s e he
    have hx : exec (.cascadeStep die) s = execCascadeStep die s := rfl
    rw [hx, execCascadeStep, he]
  · intro cluster ray s k r c hk hr hready hcur hc x
    have hexec := execRayEnd_continues hk hr hready hcur
    have hctx : (s.withoutRay cluster ray).contexts.find x.ctx = some c := hc
    have hleft := withoutRay_clusterAt hk ray
    refine ⟨fun ht => ?_, fun ht => ?_⟩
    · rw [continue_joins cluster hctx ht] at hexec
      refine ⟨_, _, hexec, enqueue_find _ cluster x, ?_, ?_, rfl, rfl⟩ <;> rw [clusterAt_some hleft]
      rfl
    · rw [continue_discards cluster hctx ht] at hexec
      refine ⟨_, _, hexec, (congrArg (SMap.find · cluster) (raise_clusters _ _ _ _)).trans hleft, rfl, rfl, ?_⟩
      exact (raises_raise hctx 7 _).before hc hctx rfl rfl rfl

end Sys2Proof
end

section
/-! SUPPORT of O47: the cell and the holder of a look-up, and the comparison of a cell with what waits at it (R380, R382, R384). -/

namespace Sys2Proof.Machine

/-- A look-up finds a valid cell of its key (R380). -/
theorem lookAlong_holds {a : Area} {key : DWord} {n : Nat} : ∀ {is : List Nat}, a.lookAlong key is = some n → (a.cell n).valid = true ∧ (a.cell n).key = key
  | i :: is, h => by
    unfold Area.lookAlong at h
    dsimp only at h
    split at h
    · rename_i hc
      cases h
      simpa using hc
    · split at h
      · cases h
      · exact lookAlong_holds h
theorem find_holds {a : Area} {key : DWord} {n : Nat} (h : a.find key = some n) : (a.cell n).valid = true ∧ (a.cell n).key = key :=
  lookAlong_holds h

@[simp] theorem setCell_cell (a : Area) (n : Nat) (c : Cell) : (a.setCell n c).cell n = c := by
  unfold Area.setCell Area.cell
  rw [SMap.get_set, if_pos rfl]

theorem holderAlong_congr {a b : Area} (h : b.holders = a.holders) (ident : DWord) : ∀ is, b.holderAlong ident is = a.holderAlong ident is
  | [] => rfl
  | i :: is => by unfold Area.holderAlong Area.holder; rw [h, holderAlong_congr h ident is]
/-- The holder-table entry that an identity has or takes is a matter of the table alone (R382). -/
theorem holderFor_congr {a b : Area} (h : b.holders = a.holders) (ident : DWord) :
    (b.holderOf ident).or (b.holderRoom ident) = (a.holderOf ident).or (a.holderRoom ident) := by
  unfold Area.holderOf Area.holderRoom Area.holder
  rw [holderAlong_congr h, h]

theorem setArea_find (s : State) (k : Nat) (a : Area) : (s.setArea k a).areas.find k = some a := SMap.find_insert_same _ _ _

section
variable {s : State} {k n : Nat} {a : Area}

/-- A cell at which nothing waits stays as it is. -/
theorem settleOne_nobody (ha : s.areas.find k = some a) (hb : (a.cell n).broken = false) (hq : a.queue.filter (·.key == (a.cell n).key) = []) :
    s.settleOne k n = none := by
  unfold State.settleOne
  simp only [ha, hb, hq]
  split
  · rfl
  · cases (a.cell n).held <;> rfl

variable {w : Waiter} (ha : s.areas.find k = some a) (hv : (a.cell n).valid = true) (hb : (a.cell n).broken = false)
  (hq : a.queue.filter (·.key == (a.cell n).key) = [w]) (hs : (w.sq - (a.cell n).next).getLsbD 31 = false)
include ha hv hb hq hs

/-- One thing that waits at a sound cell, not behind its turn: it waits while the cell is held or its turn has not come, and goes on otherwise. -/
theorem settleOne_alone : s.settleOne k n =
    if (a.cell n).held = false ∧ w.sq = (a.cell n).next then
      some (if w.skip then
          (s.setArea k { a.setCell n { a.cell n with next := (a.cell n).next + 1 } with queue := a.queue.erase w }, [])
        else s.enterCell k n w)
    else none := by
  unfold State.settleOne
  simp only [ha, hv, hb, hq, List.find?_cons, hs, List.find?_nil]
  cases hh : (a.cell n).held with
  | true => simp
  | false =>
    by_cases he : w.sq = (a.cell n).next
    · simp [he]
    · simp [beq_eq_false_iff_ne.2 he, he]

end

/-- Cells where nothing can go on stay as they are when they are compared again. -/
theorem settleCells_nil (m k : Nat) (s : State) : State.settleCells m k [] s = s := by cases m <;> rfl
theorem settleCells_still {s : State} {k n : Nat} (h : s.settleOne k n = none) : ∀ m, State.settleCells m k [n] s = s
  | 0 => rfl
  | m + 1 => by unfold State.settleCells; simp only [h, settleCells_nil]
theorem compare_still {s : State} {k n : Nat} (h : s.settleOne k n = none) : s.compare k [n] = s := settleCells_still h _
/-- A cell at which one thing goes on, and then nothing. -/
theorem compare_once {s s1 : State} {k n : Nat} (h : s.settleOne k n = some (s1, [])) (h1 : s1.settleOne k n = none) : s.compare k [n] = s1 := by
  unfold State.compare State.settleCells
  simp only [h, List.append_nil]
  exact settleCells_still h1 _

/-- The area with one thing more in its queue, at cell `n`. -/
def Area.joined (a : Area) (n : Nat) (w : Waiter) : Area := { a.setCell n (a.cell n) with queue := a.queue ++ [w] }
@[simp] theorem joined_cell (a : Area) (n : Nat) (w : Waiter) : (a.joined n w).cell n = a.cell n := setCell_cell a n (a.cell n)

/-- What joins a queue in which nothing has its key is there alone, and leaves the queue as it was. -/
theorem joined_filter {a : Area} {n : Nat} {w : Waiter} (h : ∀ x ∈ a.queue, x.key ≠ w.key) :
    (a.joined n w).queue.filter (·.key == w.key) = [w] := by
  unfold Area.joined
  rw [List.filter_append, List.filter_eq_nil_iff.2 (by simpa using h)]
  simp
theorem joined_erase {a : Area} {n : Nat} {w : Waiter} (h : ∀ x ∈ a.queue, x.key ≠ w.key) : (a.joined n w).queue.erase w = a.queue := by
  unfold Area.joined
  rw [List.erase_append_right [w] fun hm => h w hm rfl]
  simp
/-- A cell at whose key nothing waits is settled. -/
theorem settleOne_settled {s : State} {k n : Nat} {a : Area} (ha : s.areas.find k = some a) (hb : (a.cell n).broken = false)
    (hq : ∀ x ∈ a.queue, x.key ≠ (a.cell n).key) : s.settleOne k n = none :=
  settleOne_nobody ha hb (List.filter_eq_nil_iff.2 (by simpa using hq))
/-- What joins the queue at a cell of its key, where nothing else waits. -/
theorem settleOne_joined {s : State} {k n : Nat} {a : Area} {w : Waiter} (ha : s.areas.find k = some (a.joined n w)) (hf : a.find w.key = some n)
    (hb : (a.cell n).broken = false) (hq : ∀ x ∈ a.queue, x.key ≠ w.key) (hs : (w.sq - (a.cell n).next).getLsbD 31 = false) :
    s.settleOne k n = if (a.cell n).held = false ∧ w.sq = (a.cell n).next then
      some (if w.skip then
          (s.setArea k { (a.joined n w).setCell n { a.cell n with next := (a.cell n).next + 1 } with queue := a.queue }, [])
        else s.enterCell k n w)
    else none := by
  obtain ⟨hv, hk⟩ := find_holds hf
  have h := settleOne_alone (w := w) (n := n) ha (by simpa using hv) (by simpa using hb) (by rw [joined_cell, hk]; exact joined_filter hq) (by simpa using hs)
  rwa [joined_cell, joined_erase hq] at h

end Sys2Proof.Machine
end

section
/-! SUPPORT of O47: an `oenter` that comes to its cell, and enters it or waits (R189, R384, R385). -/

namespace Sys2Proof.Machine

theorem enter?_some {s : State} {team serial : Nat} {t : Team} {e : Enter} (h : s.enter? team serial = some (t, e)) :
    s.teams.find team = some t ∧ t.enters.find? (·.serial == serial) = some e := by
  unfold State.enter? at h
  split at h
  · cases h
  · obtain ⟨e', he, hp⟩ := Option.map_eq_some_iff.1 h
    obtain ⟨rfl, rfl⟩ := Prod.mk.inj hp
    exact ⟨‹_›, he⟩
theorem enter?_of {s : State} {team serial : Nat} {t : Team} {e : Enter} (ht : s.teams.find team = some t)
    (he : t.enters.find? (·.serial == serial) = some e) : s.enter? team serial = some (t, e) := by
  unfold State.enter?
  simp only [ht, he, Option.map_some]

/-- A change of an `oenter` that keeps its number, looked up again. -/
theorem find_updEnter {t : Team} {serial : Nat} {e : Enter} {f : Enter → Enter} (hf : ∀ e, (f e).serial = e.serial)
    (he : t.enters.find? (·.serial == serial) = some e) : (t.updEnter serial f).enters.find? (·.serial == serial) = some (f e) := by
  have hs : ∀ x : Enter, (if x.serial = serial then f x else x).serial = x.serial := fun x => by split <;> simp [hf]
  have hser : e.serial = serial := by simpa using List.find?_some he
  unfold Team.updEnter
  rw [List.find?_map, show ((fun x : Enter => x.serial == serial) ∘ fun x : Enter => if x.serial = serial then f x else x) =
    (fun x : Enter => x.serial == serial) from funext fun x => by simp [hs], he]
  simp [hser]

/-- The lane `l` of an `oenter` waits at its cell: its key is on its way no more. -/
def Enter.arrived (e : Enter) (l : EnterLane) : Enter := { e with coming := e.coming.filter (· != l.key), waiting := e.waiting ++ [l] }
/-- The lane `l` of an `oenter` has entered its cell. -/
def Enter.won (e : Enter) (l : EnterLane) : Enter :=
  { e with waiting := e.waiting.filter (·.key != l.key), entered := e.entered ++ [l.key], winners := e.winners ++ [l.lane] }
/-- The lane `l` of an `oenter` as it waits in the queue of its area. -/
def EnterLane.waiter (l : EnterLane) (t : Team) (team serial : Nat) : Waiter := ⟨false, t.ctx, team, serial, l.key, l.sq, l.lane⟩
/-- The state with the lane `l` in the queue of area `k`. -/
def State.arrived (s : State) (k n : Nat) (a : Area) (t : Team) (team serial : Nat) (l : EnterLane) : State :=
  (s.setArea k (a.joined n (l.waiter t team serial))).updTeam team fun t =>
    t.updEnter serial fun e => e.arrived l

section
variable {s : State} {team serial k n : Nat} {key : DWord} {t : Team} {e : Enter} {a : Area} {l : EnterLane}
  (he : s.enter? team serial = some (t, e)) (ha : s.areaOf t.ctx = some (k, a)) (hf : a.find key = some n) (hb : (a.cell n).broken = false)
  (hl : e.lanes.filter (·.key == key) = [l]) (hp : s.cellPoison a key = false) (hs : (l.sq - (a.cell n).next).getLsbD 31 = false)

include hl in
theorem lane_key : l.key = key := by
  have hm : l ∈ e.lanes.filter (·.key == key) := hl ▸ List.mem_singleton_self l
  simpa using (List.mem_filter.1 hm).2

include he ha hf hb hl hp hs in
/-- A lane that comes to a sound cell which its team does not hold, not behind its turn, and with room to wait where it has to: it joins the queue,
and the cell is compared with it. -/
theorem oenterArrives_joins (hh : (a.cell n).held = true → a.holderOf t.ident ≠ some (a.cell n).holder)
    (hr : ((a.cell n).held = false ∧ l.sq = (a.cell n).next) ∨ s.sliceRoom (a.slice n) false = true) :
    s.oenterArrives team serial key = (s.arrived k n a t team serial l).compare k [n] := by
  have hkey := lane_key hl
  unfold State.oenterArrives
  simp only [he, ha, hp, hf, hl, hb, Option.some_or, Option.isSome_some, if_true, Bool.false_eq_true, if_false, List.headD_cons]
  rw [if_neg (by
    intro hc
    simp only [Bool.and_eq_true, beq_iff_eq] at hc
    exact hh hc.1 hc.2)]
  simp only [List.find?_cons, hs, List.find?_nil, List.foldl_cons, List.foldl_nil, ite_self]
  rw [if_neg (by
    rcases hr with ⟨h1, h2⟩ | h
    · simp [h1, h2]
    · simp [h])]
  unfold State.arrived Area.joined EnterLane.waiter Enter.arrived
  rw [hkey]

include he in
theorem arrived_find : (s.arrived k n a t team serial l).enter? team serial = some (t.updEnter serial fun e => e.arrived l, e.arrived l) := by
  obtain ⟨ht, hen⟩ := enter?_some he
  exact enter?_of (State.updTeam_find _ ht) (find_updEnter (fun _ => rfl) hen)
theorem arrived_area : (s.arrived k n a t team serial l).areas.find k = some (a.joined n (l.waiter t team serial)) := by
  unfold State.arrived
  rw [State.updTeam_areas]
  exact setArea_find s k _

include hf hb hl hs in
/-- The comparison that follows the arrival of a lane for whose key nothing else waits. -/
theorem arrived_settles (hq : ∀ w ∈ a.queue, w.key ≠ key) : (s.arrived k n a t team serial l).settleOne k n =
    if (a.cell n).held = false ∧ l.sq = (a.cell n).next then
      some ((s.arrived k n a t team serial l).enterCell k n (l.waiter t team serial)) else none := by
  have hkey := lane_key hl
  subst hkey
  exact settleOne_joined (w := l.waiter t team serial) arrived_area hf hb hq hs

/-- A cell that a lane has entered, the lane's team with the holder-table entry `h` (R382). -/
def Area.entered (a : Area) (n : Nat) (w : Waiter) (h : Nat) (ident : DWord) : Area :=
  { (a.joined n w).take n h ident with queue := a.queue }
theorem entered_cell (a : Area) (n : Nat) (w : Waiter) (h : Nat) (ident : DWord) :
    (a.entered n w h ident).cell n = { a.cell n with held := true, holder := h } := by
  refine (setCell_cell (a.joined n w) n _).trans ?_
  rw [joined_cell]

include he in
/-- A lane that has arrived enters its cell. -/
theorem enterCell_arrived {h : Nat} (hq : ∀ w ∈ a.queue, w.key ≠ l.key) (hh : (a.holderOf t.ident).or (a.holderRoom t.ident) = some h) :
    ∃ s', (s.arrived k n a t team serial l).enterCell k n (l.waiter t team serial) = (s', []) ∧
      s'.areas.find k = some (a.entered n (l.waiter t team serial) h t.ident) ∧ s'.mem = s.mem ∧
      s'.teams.find team = some (((t.updEnter serial fun e => e.arrived l).updEnter serial fun e => e.won l).enterDone serial) := by
  obtain ⟨ht, hen⟩ := enter?_some he
  have hser : e.serial = serial := by simpa using List.find?_some hen
  have hhold : ((a.joined n (l.waiter t team serial)).holderOf t.ident).or ((a.joined n (l.waiter t team serial)).holderRoom t.ident) = some h :=
    (holderFor_congr rfl t.ident).trans hh
  have herase := joined_erase (n := n) (w := l.waiter t team serial) hq
  unfold State.enterCell
  simp only [show (l.waiter t team serial).team = team from rfl, show (l.waiter t team serial).serial = serial from rfl, arrived_find he, arrived_area,
    show (t.updEnter serial fun e => e.arrived l).ident = t.ident from rfl, hhold, herase]
  refine ⟨_, rfl, ?_, ?_, ?_⟩
  · rw [State.updTeam_areas]
    exact setArea_find _ k _
  · simp [State.arrived, State.setArea]
  · rw [show (e.arrived l).serial = serial from hser]
    exact State.updTeam_find _ (State.updTeam_find _ ht)

/-- An `oenter` with no key left on its way or waiting: its predicate's values are on their way (R189). -/
theorem enterDone_values {u : Team} {f : Enter} (hu : u.enters.find? (·.serial == serial) = some f) (hc : f.coming = []) (hw : f.waiting = [])
    {p : Pend} (hp : p ∈ u.pends) (hs : p.serial = serial) : ∃ q ∈ (u.enterDone serial).pends, q.serial = serial ∧ q.data = .values f.values 0 := by
  unfold Team.enterDone
  simp only [hu, hc, hw, List.isEmpty_nil, Bool.and_self, if_true]
  exact ⟨_, List.mem_map.2 ⟨p, hp, if_pos hs⟩, hs, rfl⟩

include he ha hf hb hl hp in
/-- A lane whose turn it is at a cell that is free enters it (R189). -/
theorem oenterArrives_enters {h : Nat} (hq : ∀ w ∈ a.queue, w.key ≠ key) (hfree : (a.cell n).held = false) (hturn : l.sq = (a.cell n).next)
    (hh : (a.holderOf t.ident).or (a.holderRoom t.ident) = some h) :
    ∃ s' a' t', s.oenterArrives team serial key = s' ∧ s'.areas.find k = some a' ∧
      a'.cell n = { a.cell n with held := true, holder := h } ∧ a'.queue = a.queue ∧ s'.teams.find team = some t' ∧
      (e.coming = [key] → e.waiting = [] → ∀ p ∈ t.pends, p.serial = serial → ∃ q ∈ t'.pends, q.serial = serial ∧
        q.data = .values (Enter.values { e with winners := e.winners ++ [l.lane] }) 0) ∧ s'.mem = s.mem := by
  have hs : (l.sq - (a.cell n).next).getLsbD 31 = false := by rw [hturn, BitVec.sub_self]; rfl
  have hkey := lane_key hl
  obtain ⟨s', henter, harea, hmem, hteam⟩ := enterCell_arrived (k := k) (n := n) he (hkey ▸ hq) hh
  have hone : (s.arrived k n a t team serial l).settleOne k n = some (s', []) := by
    rw [arrived_settles hf hb hl hs hq, if_pos ⟨hfree, hturn⟩, henter]
  have hthen : s'.settleOne k n = none :=
    settleOne_settled harea (by rw [entered_cell]; exact hb) (by rw [entered_cell]; exact (find_holds hf).2 ▸ hq)
  refine ⟨s', _, _, ?_, harea, entered_cell _ _ _ _ _, rfl, hteam, fun hc hw p hpm hps => ?_, hmem⟩
  · rw [oenterArrives_joins he ha hf hb hl hp hs (fun h => by simp [hfree] at h) (.inl ⟨hfree, hturn⟩), compare_once hone hthen]
  · have hen := find_updEnter (f := fun e => e.won l) (fun _ => rfl) (find_updEnter (f := fun e => e.arrived l) (fun _ => rfl) (enter?_some he).2)
    obtain ⟨q, hqm, hqs, hqd⟩ := enterDone_values hen (by simp [Enter.won, Enter.arrived, hc, hkey]) (by simp [Enter.won, Enter.arrived, hw]) hpm hps
    exact ⟨q, hqm, hqs, hqd⟩

include he ha hf hb hl hp hs in
/-- A lane whose turn has not come, or which finds the cell held by another team, waits there (R189, R385). -/
theorem oenterArrives_waits (hq : ∀ w ∈ a.queue, w.key ≠ key) (hwait : (a.cell n).held = true ∨ l.sq ≠ (a.cell n).next)
    (hh : (a.cell n).held = true → a.holderOf t.ident ≠ some (a.cell n).holder) (hr : s.sliceRoom (a.slice n) false = true) :
    ∃ s' a' t', s.oenterArrives team serial key = s' ∧ s'.areas.find k = some a' ∧ a'.cell n = a.cell n ∧
      a'.queue = a.queue ++ [⟨false, t.ctx, team, serial, key, l.sq, l.lane⟩] ∧ s'.teams.find team = some t' ∧ t'.pends = t.pends ∧
      s'.mem = s.mem := by
  have hstays : (s.arrived k n a t team serial l).settleOne k n = none := by
    rw [arrived_settles hf hb hl hs hq, if_neg (by rintro ⟨h1, h2⟩; simp [h1, h2] at hwait)]
  refine ⟨_, _, _, ?_, arrived_area, joined_cell _ _ _, by rw [← lane_key hl]; rfl, State.updTeam_find _ (enter?_some he).1, rfl, ?_⟩
  · rw [oenterArrives_joins he ha hf hb hl hp hs hh (.inr hr), compare_still hstays]
  · simp [State.arrived, State.setArea]

end

end Sys2Proof.Machine
end

section
/-! SUPPORT of O47: leaving and skipping (R190, R191). -/

namespace Sys2Proof.Machine

theorem secCount_setArea (s : State) (k : Nat) (a : Area) (ctx lo : Nat) : (s.setArea k a).secCount ctx lo = (s.secCount ctx lo).setArea k a := by
  unfold State.secCount State.bumpReg
  rw [show (s.setArea k a).winReg ctx 0x30 = s.winReg ctx 0x30 from rfl]
  dsimp only
  split
  · rfl
  · unfold State.setReg State.updContext State.setArea
    dsimp only
    split <;> rfl

section
variable {s : State} {ctx k n : Nat} {key : DWord} {a : Area} (ha : s.areaOf ctx = some (k, a)) (hf : a.find key = some n)
  (hq : ∀ w ∈ a.queue, w.key ≠ key) (hp : s.cellPoison a key = false)
include ha hf hp

include hq in
/-- The holder leaves a sound cell (R190). -/
theorem oleaveArrives_frees {ident : DWord} (hh : (a.cell n).held = true) (hb : (a.cell n).broken = false)
    (hi : a.holderOf ident = some (a.cell n).holder) : s.oleaveArrives ctx ident key =
      s.setArea k ((a.release (a.cell n).holder).setCell n { a.cell n with next := (a.cell n).next + 1, held := false }) := by
  unfold State.oleaveArrives
  simp only [ha, hf, hp, hh, hb, hi, Bool.false_eq_true, if_false, Bool.not_false, Bool.and_self, beq_self_eq_true, if_true]
  refine compare_still (settleOne_settled (setArea_find s k _) ?_ ?_)
  · rw [setCell_cell]
  · rw [setCell_cell]
    exact (find_holds hf).2 ▸ hq

/-- Who leaves a cell that is not held is counted (R190). -/
theorem oleaveArrives_counts {ident : DWord} (hh : (a.cell n).held = false) : s.oleaveArrives ctx ident key = s.secCount ctx 48 := by
  unfold State.oleaveArrives
  simp only [ha, hf, hp, hh, Bool.false_and, Bool.false_eq_true, if_false]

variable {sq : Word} (hb : (a.cell n).broken = false)
include hb

/-- A cell whose turn a skip has taken (R191). -/
def Area.skipped (a : Area) (n : Nat) (w : Waiter) : Area :=
  { (a.joined n w).setCell n { a.cell n with next := (a.cell n).next + 1 } with queue := a.queue }
omit ha hf hp hb in
theorem skipped_cell (w : Waiter) : (a.skipped n w).cell n = { a.cell n with next := (a.cell n).next + 1 } := setCell_cell (a.joined n w) n _

include hq in
/-- A skip at its turn, at a cell that is not held, advances NEXT (R191). -/
theorem oskipArrives_advances (hh : (a.cell n).held = false) (hs : sq = (a.cell n).next) :
    ∃ s' a', s.oskipArrives ctx key sq = s' ∧ s'.areas.find k = some a' ∧ a'.cell n = { a.cell n with next := (a.cell n).next + 1 } ∧
      a'.queue = a.queue ∧ s'.teams = s.teams := by
  have hstale : (sq - (a.cell n).next).getLsbD 31 = false := by rw [hs, BitVec.sub_self]; rfl
  generalize hw : (⟨true, ctx, 0, 0, key, sq, 0⟩ : Waiter) = w
  have hkey : w.key = key := by rw [← hw]
  have hwsq : w.sq = sq := by rw [← hw]
  have hskip : w.skip = true := by rw [← hw]
  have hone := settleOne_joined (setArea_find s k (a.joined n w)) (by rw [hkey]; exact hf) hb (by rw [hkey]; exact hq) (by rw [hwsq]; exact hstale)
  rw [if_pos ⟨hh, by rw [hwsq]; exact hs⟩, hskip, if_pos rfl] at hone
  change _ = some ((s.setArea k (a.joined n w)).setArea k (a.skipped n w), []) at hone
  refine ⟨_, a.skipped n w, ?_, setArea_find (s.setArea k (a.joined n w)) k _, skipped_cell w, rfl, rfl⟩
  unfold State.oskipArrives
  simp only [ha, hf, hp, hh, hb, hstale, hw, Option.some_or, Option.isSome_some, if_true, Bool.false_eq_true, if_false, Bool.not_false, Bool.true_and,
    Bool.or_self]
  rw [if_neg (by simp [hs])]
  refine compare_once hone (settleOne_settled (setArea_find _ k _) ?_ ?_)
  · rw [skipped_cell]
    exact hb
  · rw [skipped_cell]
    exact (find_holds hf).2 ▸ hq

/-- A skip behind its turn is counted, and changes nothing (R191). -/
theorem oskipArrives_counts (hs : (sq - (a.cell n).next).getLsbD 31 = true) :
    s.oskipArrives ctx key sq = (s.secCount ctx 48).setArea k (a.setCell n (a.cell n)) := by
  unfold State.oskipArrives
  simp only [ha, hf, hp, hb, hs, Option.some_or, Option.isSome_some, if_true, Bool.false_eq_true, if_false, Bool.or_true, secCount_setArea]

end

end Sys2Proof.Machine
end

section
/-! SUPPORT of O47: an `oenter` that has waited too long traps (R386). What a comparison of cells does to a team adds no `oenter` and takes back no
trap. -/

namespace Sys2Proof.Machine

/-- A team's `oenter` instructions are some of those before, and its owed section traps are owed still. -/
def Team.SectKept (t t' : Team) : Prop :=
  (∀ e' ∈ t'.enters, ∃ e ∈ t.enters, e.serial = e'.serial) ∧ ∀ x ∈ t.sectTraps, x ∈ t'.sectTraps
theorem Team.SectKept.refl (t : Team) : t.SectKept t := ⟨fun e h => ⟨e, h, rfl⟩, fun _ h => h⟩
theorem Team.SectKept.trans {t u v : Team} (h : t.SectKept u) (g : u.SectKept v) : t.SectKept v := by
  obtain ⟨henters, htraps⟩ := h
  obtain ⟨genters, gtraps⟩ := g
  refine ⟨fun e' he' => ?_, fun x hx => gtraps x (htraps x hx)⟩
  obtain ⟨e, he, hs⟩ := genters e' he'
  obtain ⟨e0, he0, hs0⟩ := henters e he
  exact ⟨e0, he0, hs0.trans hs⟩
theorem sectKept_updEnter (t : Team) (serial : Nat) {f : Enter → Enter} (hf : ∀ e, (f e).serial = e.serial) : t.SectKept (t.updEnter serial f) := by
  refine ⟨fun e' he' => ?_, fun _ h => h⟩
  obtain ⟨e, he, rfl⟩ := List.mem_map.1 he'
  refine ⟨e, he, ?_⟩
  split
  · exact (hf e).symm
  · rfl
theorem sectKept_enterDone (t : Team) (serial : Nat) : t.SectKept (t.enterDone serial) := by
  unfold Team.enterDone
  split
  · exact .refl t
  split
  · exact ⟨fun e he => ⟨e, List.mem_of_mem_filter he, rfl⟩, fun _ h => h⟩
  · exact .refl t
theorem sectKept_enterFailed (t : Team) (serial : Nat) (x : SectTrap) : t.SectKept (t.enterFailed serial x) := by
  unfold Team.enterFailed
  split
  · exact ⟨fun e he => ⟨e, List.mem_of_mem_filter he, rfl⟩, fun _ h => List.mem_append_left _ h⟩
  · exact .refl t

/-- A step that leaves every team as in `Team.SectKept`. -/
def SectsKept (s s' : State) : Prop := ∀ id t, s.teams.find id = some t → ∃ t', s'.teams.find id = some t' ∧ t.SectKept t'
theorem SectsKept.of_teams {s s' : State} (h : s'.teams = s.teams) : SectsKept s s' := fun _ t ht => ⟨t, h ▸ ht, .refl t⟩
theorem SectsKept.refl (s : State) : SectsKept s s := .of_teams rfl
theorem SectsKept.trans {a b c : State} (h : SectsKept a b) (g : SectsKept b c) : SectsKept a c := fun id t ht => by
  obtain ⟨u, hu, htu⟩ := h id t ht
  obtain ⟨v, hv, huv⟩ := g id u hu
  exact ⟨v, hv, htu.trans huv⟩
theorem sectsKept_updTeam (s : State) (id : Nat) {f : Team → Team} (hf : ∀ t : Team, t.SectKept (f t)) : SectsKept s (s.updTeam id f) := fun k t ht => by
  by_cases h : k = id
  · subst h
    exact ⟨f t, State.updTeam_find f ht, hf t⟩
  · exact ⟨t, (State.updTeam_find_ne s f h).trans ht, .refl t⟩

theorem sectsKept_failEnter (s : State) (k team serial cause : Nat) (lane : EnterLane) (c : Cell) :
    SectsKept s (s.failEnter k team serial cause lane c).1 := by
  unfold State.failEnter
  split
  · refine SectsKept.trans (SectsKept.of_teams ?_) (sectsKept_updTeam _ _ fun t => sectKept_enterFailed t _ _)
    show State.teams (if cause = 0x11 then _ else _) = s.teams
    split
    · exact secCount_teams s _ _
    · split
      · exact secCount_teams s _ _
      · rfl
  · exact .refl s
theorem sectsKept_enterCell (s : State) (k i : Nat) (w : Waiter) : SectsKept s (s.enterCell k i w).1 := by
  unfold State.enterCell
  split
  · split
    · exact sectsKept_failEnter s _ _ _ _ _ _
    · refine SectsKept.trans (SectsKept.of_teams ?_) (sectsKept_updTeam _ _ fun t => ?_)
      · exact State.acquire_teams _ _
      · exact (sectKept_updEnter t _ fun _ => by rfl).trans (sectKept_enterDone _ _)
  · exact .refl s
  · exact .refl s
theorem sectsKept_settleOne {s : State} {k i : Nat} {r : State × List Nat} (h : s.settleOne k i = some r) : SectsKept s r.1 := by
  unfold State.settleOne at h
  split at h
  · cases h
  dsimp only at h
  split at h
  · cases h
  split at h
  · obtain ⟨w, _, rfl⟩ := Option.map_eq_some_iff.1 h
    exact sectsKept_failEnter s _ _ _ _ _ _
  split at h
  · split at h
    · cases h
      exact .of_teams (secCount_teams _ _ _)
    · cases h
      exact sectsKept_failEnter s _ _ _ _ _ _
  split at h
  · cases h
  obtain ⟨w, _, rfl⟩ := Option.map_eq_some_iff.1 h
  split
  · exact .refl s
  · exact sectsKept_enterCell s _ _ _
theorem sectsKept_settleCells (k : Nat) : ∀ (m : Nat) (is : List Nat) (s : State), SectsKept s (State.settleCells m k is s)
  | 0, _, s => .refl s
  | _ + 1, [], s => .refl s
  | m + 1, i :: is, s => by
    unfold State.settleCells
    split
    · exact (sectsKept_settleOne ‹_›).trans (sectsKept_settleCells k m _ _)
    · exact sectsKept_settleCells k m is s
theorem sectsKept_compare (s : State) (k : Nat) (cells : List Nat) : SectsKept s (s.compare k cells) := sectsKept_settleCells k _ cells s

/-- A failed `oenter` is gone from its team, and its trap is owed (R507). -/
theorem failEnter_owed {s : State} {k team serial : Nat} {t : Team} {e : Enter} {a : Area} (he : s.enter? team serial = some (t, e))
    (ha : s.areas.find k = some a) (cause : Nat) (lane : EnterLane) (c : Cell) :
    ∃ x : SectTrap, (s.failEnter k team serial cause lane c).1.teams.find team = some (t.enterFailed serial x) ∧ x.cause = cause ∧ x.pd = e.pd := by
  unfold State.failEnter
  simp only [he, ha]
  refine ⟨_, State.updTeam_find _ ?_, rfl, rfl⟩
  rw [← (enter?_some he).1]
  show SMap.find (State.teams (if cause = 0x11 then _ else _)) team = _
  split
  · rw [secCount_teams]
  · split
    · rw [secCount_teams]
    · rfl

theorem enterFailed_owes {t : Team} {serial : Nat} {e : Enter} (he : t.enters.find? (·.serial == serial) = some e) (x : SectTrap) :
    (∀ q ∈ (t.enterFailed serial x).enters, q.serial ≠ serial) ∧ x ∈ (t.enterFailed serial x).sectTraps := by
  unfold Team.enterFailed
  rw [if_pos (List.any_eq_true.2 ⟨e, List.mem_of_find?_eq_some he, List.find?_some (p := fun q : Enter => q.serial == serial) he⟩)]
  exact ⟨fun q hq => by simpa using (List.mem_filter.1 hq).2, List.mem_append_right _ (List.mem_singleton_self x)⟩

/-- An `oenter` that is due traps (R386). -/
theorem sectTimeout_owes {s : State} {team serial k : Nat} {t : Team} {e : Enter} {a : Area} {w : EnterLane} {ws : List EnterLane}
    (he : s.enter? team serial = some (t, e)) (hd : s.sectDue t e = true) (hk : s.areaOf t.ctx = some (k, a)) (ha : s.areas.find k = some a)
    (hw : e.waiting = w :: ws) : ∃ t' x, (s.sectTimeout team serial).teams.find team = some t' ∧ (∀ q ∈ t'.enters, q.serial ≠ serial) ∧
      x ∈ t'.sectTraps ∧ x.cause = 0x11 ∧ x.pd = e.pd := by
  have hpend : e.pending = w :: ws := by
    unfold Enter.pending
    simp [hw]
  unfold State.sectTimeout
  simp only [he, hd, hk, hpend, if_true]
  obtain ⟨x, hx, hcause, hpd⟩ := failEnter_owed he ha 0x11 _ _
  obtain ⟨t', ht', henters, htraps⟩ := sectsKept_compare _ k _ team _ hx
  obtain ⟨hgone, howed⟩ := enterFailed_owes (enter?_some he).2 x
  refine ⟨t', x, ht', fun q hq => ?_, htraps x howed, hcause, hpd⟩
  obtain ⟨q', hq', hs⟩ := henters q hq
  exact hs ▸ hgone q' hq'

end Sys2Proof.Machine
end

section
/-! PROOF of O47. -/

namespace Sys2Proof
open Machine

/-- Settles O47. A lane that arrives joins the queue of its cell, and since nothing else waits for the key the comparison of the cell is about it
alone; after it nothing waits for the key, so that the comparison ends. A timeout's trap outlives the comparison that follows it. -/
theorem sectionArrivals : Obligations.SectionArrivals := by
  unfold Obligations.SectionArrivals
  refine ⟨?_, ?_, ?_, ?_⟩
  · intro i team serial key s t e k a n l hi he ha hf hb hl hq hp
    have hexec : exec i s = .next (s.oenterArrives team serial key) := by
      rcases hi with rfl | rfl
      · rfl
      · rfl
    rw [hexec]
    refine ⟨fun h hfree hturn hh => ?_, fun hs hwait hh hr => ?_⟩
    · obtain ⟨s', a', t', rfl, hrest⟩ := oenterArrives_enters he ha hf hb hl hp hq hfree hturn hh
      exact ⟨_, a', t', rfl, hrest⟩
    · obtain ⟨s', a', t', rfl, hrest⟩ := oenterArrives_waits he ha hf hb hl hp hs hq hwait hh hr
      exact ⟨_, a', t', rfl, hrest⟩
  · intro ctx ident key s k a n ha hf hq hp
    refine ⟨fun hh hb hi => ?_, fun hh => congrArg Host.Outcome.next (oleaveArrives_counts ha hf hp hh)⟩
    exact ⟨_, _, congrArg Host.Outcome.next (oleaveArrives_frees ha hf hq hp hh hb hi), setArea_find s k _, setCell_cell _ n _, rfl, rfl⟩
  · intro ctx key sq s k a n ha hf hb hq hp
    refine ⟨fun hh hs => ?_, fun hs => ?_⟩
    · obtain ⟨s', a', rfl, hrest⟩ := oskipArrives_advances ha hf hq hp hb hh hs
      exact ⟨_, a', rfl, hrest⟩
    · exact ⟨_, _, congrArg Host.Outcome.next (oskipArrives_counts ha hf hp hb hs), setArea_find _ k _, setCell_cell a n _, rfl, rfl⟩
  · intro team serial s t e k a w ws he hd hk ha hw
    obtain ⟨t', x, hrest⟩ := sectTimeout_owes he hd hk ha hw
    exact ⟨_, t', x, rfl, hrest⟩

end Sys2Proof
end

section
/-! SUPPORT of O29: the shading cache does not touch the teams. -/

namespace Sys2Proof.Machine

/-- A step that leaves the teams, and which of them is at its slot. -/
structure TeamsSame (s s' : State) : Prop where
  teams : s'.teams = s.teams
  cur : s'.cur = s.cur

theorem TeamsSame.refl (s : State) : TeamsSame s s := ⟨rfl, rfl⟩
theorem TeamsSame.trans {a b c : State} (h : TeamsSame a b) (g : TeamsSame b c) : TeamsSame a c := ⟨g.teams.trans h.teams, g.cur.trans h.cur⟩
theorem TeamsSame.me {s s' : State} (h : TeamsSame s s') : s'.me = s.me := by
  unfold State.me
  rw [h.teams, h.cur]
theorem teamsSame_foldl {α : Type} {f : State → α → State} (h : ∀ s x, TeamsSame s (f s x)) : ∀ (xs : List α) (s : State), TeamsSame s (xs.foldl f s)
  | [], s => .refl s
  | x :: xs, s => (h s x).trans (teamsSame_foldl h xs (f s x))

theorem teamsSame_bumpReg (s : State) (ctx off lo n : Nat) : TeamsSame s (s.bumpReg ctx off lo n) :=
  ⟨State.bumpReg_teams s ctx off lo n, State.bumpReg_cur s ctx off lo n⟩
theorem teamsSame_winWrite (s : State) (d : Domain) (off n v : Nat) : TeamsSame s (s.winWrite d off n v) :=
  ⟨State.writeBytes_teams s _ _ _, State.writeBytes_cur s _ _ _⟩
theorem teamsSame_setTag (s : State) (k : Nat) (t : Tag) (alloc : Bool) : TeamsSame s (s.setTag k t alloc) := by
  unfold State.setTag
  dsimp only
  split
  · refine TeamsSame.trans ?_ (teamsSame_winWrite _ _ _ _ _)
    exact ⟨rfl, rfl⟩
  · exact ⟨rfl, rfl⟩
theorem teamsSame_updDomain (s : State) (k : Nat) (f : Domain → Domain) : TeamsSame s (s.updDomain k f) :=
  ⟨State.updDomain_teams s k f, State.updDomain_cur s k f⟩
theorem teamsSame_dropTag (s : State) (k : Nat) (t : Tag) : TeamsSame s (s.dropTag k t) :=
  (teamsSame_setTag s k _ _).trans (teamsSame_updDomain _ _ _)
theorem teamsSame_allocTag {s : State} {key : DWord} {dom : Nat} {d : Domain} {version : Nat} {r : State × Nat × Tag}
    (h : s.allocTag key dom d version = some r) : TeamsSame s r.1 := by
  unfold State.allocTag at h
  split at h
  · cases h
  · split at h
    · cases h
    · cases h
      refine TeamsSame.trans ?_ (teamsSame_setTag _ _ _ _)
      refine TeamsSame.trans ?_ (teamsSame_updDomain _ _ _)
      split
      · exact TeamsSame.trans (teamsSame_dropTag s _ _) ⟨rfl, rfl⟩
      · exact ⟨rfl, rfl⟩
theorem teamsSame_postService (s : State) (ctx : Nat) (key : DWord) (d : Domain) (k : Nat) (t : Tag) : TeamsSame s (s.postService ctx key d k t) := by
  unfold State.postService
  dsimp only
  split
  · exact teamsSame_dropTag s k t
  split
  · split
    · exact (teamsSame_dropTag s k t).trans (teamsSame_bumpReg _ _ _ _ _)
    · exact (teamsSame_winWrite _ _ _ _ _).trans (teamsSame_winWrite _ _ _ _ _)
  split
  · exact .refl s
  split_ifs
  · exact ⟨rfl, rfl⟩
  · exact ⟨rfl, rfl⟩
theorem teamsSame_lookupTile (s : State) (t : Team) (key : DWord) : TeamsSame s (s.lookupTile t key).1 := by
  unfold State.lookupTile
  dsimp only
  split
  · exact teamsSame_bumpReg _ _ _ _ _
  split
  · refine TeamsSame.trans ?_ (teamsSame_bumpReg _ _ _ _ _)
    exact ⟨rfl, rfl⟩
  split
  · exact .refl s
  split
  · exact teamsSame_bumpReg _ _ _ _ _
  · rename_i h
    exact (teamsSame_allocTag h).trans ((teamsSame_bumpReg _ _ _ _ _).trans (teamsSame_postService _ _ _ _ _ _))
theorem teamsSame_lookupTiles (t : Team) (d : Nat) : ∀ (ks : List (Nat × DWord)) (s : State), TeamsSame s (s.lookupTiles t d ks).1
  | [], s => .refl s
  | (_, key) :: ks, s => (teamsSame_lookupTile s t key).trans (teamsSame_lookupTiles t d ks _)
theorem teamsSame_fillTile (s : State) (ctx : Nat) (key : DWord) (code : Word) (dom : Nat) (d : Domain) : TeamsSame s (s.fillTile ctx key code dom d) := by
  unfold State.fillTile
  split
  · exact teamsSame_bumpReg _ _ _ _ _
  · dsimp only
    split
    · exact teamsSame_setTag _ _ _ _
    · exact teamsSame_setTag _ _ _ _
theorem teamsSame_invalidateObject (s : State) (ctx n : Nat) (d : Domain) : TeamsSame s (s.invalidateObject ctx n d) := by
  unfold State.invalidateObject
  dsimp only
  split
  · exact teamsSame_winWrite _ _ _ _ _
  · exact teamsSame_bumpReg _ _ _ _ _

end Sys2Proof.Machine
end

section
/-! SUPPORT of O29: the look-up of a key (R195, R425). -/

namespace Sys2Proof.Machine

/-- A key that no domain of the context holds (R195). -/
theorem lookupTile_nowhere {s : State} {t : Team} {key : DWord} (h : ((s.contexts.find t.ctx).bind fun c => s.keyDomain c key) = none) :
    s.lookupTile t key = (s.bumpReg t.ctx 0x88 16 16, 3, 0) := by
  unfold State.lookupTile
  rw [h]

/-- The tags of a key's current version (R425). -/
def State.currentTags (s : State) (key : DWord) (dom : Nat) (d : Domain) : List (Nat × Tag) :=
  (s.keyTags key dom).filter fun (p : Nat × Tag) => p.2.version == (s.object d (keyObject key)).1

section
variable {s : State} {t : Team} {key : DWord} {pos dom : Nat} {d : Domain}
  (h : ((s.contexts.find t.ctx).bind fun c => s.keyDomain c key) = some (pos, dom, d))
include h

/-- A valid tile is found (R195). -/
theorem lookupTile_valid (hv : ∃ p ∈ s.currentTags key dom d, p.2.state = .valid) : (s.lookupTile t key).2.1 = 0 := by
  obtain ⟨q, hq⟩ := Option.isSome_iff_exists.1 (List.find?_isSome (p := fun p : Nat × Tag => p.2.state == TagState.valid) |>.2
    (hv.imp fun p hp => ⟨hp.1, beq_iff_eq.2 hp.2⟩))
  unfold State.currentTags at hq
  unfold State.lookupTile
  simp only [h, hq]

omit h in
theorem find_valid_none (hv : ∀ p ∈ s.currentTags key dom d, p.2.state ≠ .valid) :
    (s.currentTags key dom d).find? (fun p => p.2.state == TagState.valid) = none :=
  List.find?_eq_none.2 fun p hp => by simpa using hv p hp

/-- A tile that is on its way is found, and changes nothing (R195). -/
theorem lookupTile_inFlight (hv : ∀ p ∈ s.currentTags key dom d, p.2.state ≠ .valid)
    (hf : ∃ p ∈ s.currentTags key dom d, p.2.state = .inFlight) : (s.lookupTile t key).2.1 = 1 ∧ (s.lookupTile t key).1 = s := by
  have hnone := find_valid_none hv
  obtain ⟨q, hq⟩ := Option.isSome_iff_exists.1 (List.find?_isSome (p := fun p : Nat × Tag => p.2.state == TagState.inFlight) |>.2
    (hf.imp fun p hp => ⟨hp.1, beq_iff_eq.2 hp.2⟩))
  unfold State.currentTags at hnone hq
  unfold State.lookupTile
  simp only [h, hnone, hq]
  exact ⟨trivial, trivial⟩

/-- A tile that is neither valid nor on its way is allocated, or cannot be (R195, R427). -/
theorem lookupTile_missing (hm : ∀ p ∈ s.currentTags key dom d, p.2.state ≠ .valid ∧ p.2.state ≠ .inFlight) :
    (s.lookupTile t key).2.1 = 2 ∨ (s.lookupTile t key).2.1 = 3 := by
  have hnone := find_valid_none fun p hp => (hm p hp).1
  have hnone' : (s.currentTags key dom d).find? (fun p => p.2.state == TagState.inFlight) = none :=
    List.find?_eq_none.2 fun p hp => by simpa using (hm p hp).2
  unfold State.currentTags at hnone hnone'
  unfold State.lookupTile
  simp only [h, hnone, hnone']
  split
  · exact .inr rfl
  · exact .inl rfl

end

/-- A slot that works on the machine but not on its teams. -/
theorem leavesIn_of_teamsSame {s s1 : State} {t : Team} {i : Instr} (h : Issues s t i) {body : (r t : Team) → State → Res}
    (he : exec i s = slot i body s) (hb : body (t.viewAt s.clk) t s = .done s1) (hs : TeamsSame s s1) (hw : i.writes = []) (hl : i.hasLit = false) :
    LeavesIn s i s1 t (nextPc t.pc false) :=
  hl ▸ leavesIn_of_done h he hb (hs.me.trans h.1) hw

/-- The keys of the active lanes begin with that of the lowest one. -/
theorem laneKeys_head {r : Team} {a : RegNo} {l : Nat} (h : r.actives.head? = some l) : ∃ ks, laneKeys r a = (l, r.V64 l a.toNat) :: ks := by
  obtain ⟨ls, hls⟩ := List.head?_eq_some_iff.1 h
  exact ⟨_, by unfold laneKeys; rw [hls, List.map_cons]⟩

end Sys2Proof.Machine
end

section
/-! PROOF of O29. -/

namespace Sys2Proof
open Machine

/-- Settles O29. Each instruction's body answers at once, and what it does to tags, windows and counters touches no team. -/
theorem shading : Obligations.Shading := by
  unfold Obligations.Shading
  refine ⟨?_, fun _ _ _ _ _ _ => rfl, fun s t key h => lookupTile_nowhere h, ?_, ?_, ?_, ?_, ?_, ?_, ?_, ?_⟩
  · intro d a s t h ho
    have hkept := teamsSame_lookupTiles t d.toNat (laneKeys (t.viewAt s.clk) a) (s.acquire t)
    refine pendsIn_of_later h (body := fun r t s => if s.overfull (.scq d a) then .block s (.scoreboard (markCount (.scq d a)))
      else .later ((s.acquire t).lookupTiles t d.toNat (laneKeys r a)).1 8
        (.values ((s.acquire t).lookupTiles t d.toNat (laneKeys r a)).2 0)) rfl (if_neg (by simp [ho])) (hkept.me.trans h.1) hkept.cur rfl ho
  · intro s t key pos dom d h
    exact ⟨lookupTile_valid h, lookupTile_inFlight h, lookupTile_missing h⟩
  · intro a b s t dom d h hw r hcodes
    refine leavesIn_of_teamsSame h (rfl : _ = execScfill a b s) ?_ (teamsSame_foldl (fun s l => teamsSame_fillTile s _ _ _ _ _) _ s) rfl rfl
    simp only [hw, laneKeys, List.foldl_map]
    exact if_neg (by simpa using hcodes)
  · intro a b s t l h hl hcode
    exact traps_of_body h (rfl : _ = execScfill a b s) (if_pos (List.any_eq_true.2 ⟨l, hl, decide_eq_true hcode⟩))
  · intro a b s t l h hw hcodes hl
    obtain ⟨ks, hks⟩ := laneKeys_head (a := a) hl
    refine traps_of_body h (rfl : _ = execScfill a b s) ?_
    simp only [hw, hks]
    exact if_neg (by simpa using hcodes)
  · intro a s t dom d h hw r
    refine leavesIn_of_teamsSame h (rfl : _ = execScinv a s) ?_ (teamsSame_foldl (fun s l => teamsSame_invalidateObject s _ _ _) _ s) rfl rfl
    simp only [hw, List.foldl_map]
    rfl
  · intro a s t l h hw hl
    obtain ⟨ls, hls⟩ := List.head?_eq_some_iff.1 hl
    refine traps_of_body h (rfl : _ = execScinv a s) ?_
    simp only [hw, hls, List.map_cons]
  · intro a s t dom d h hw hid
    refine leavesIn_of_teamsSame h (rfl : _ = execScframe a s) ?_ (teamsSame_winWrite s _ _ _ _) rfl rfl
    simp only [hw]
    exact if_pos hid.symm
  · intro a s t h hid
    refine traps_of_body h (rfl : _ = execScframe a s) ?_
    dsimp only
    split
    · rename_i hw
      rw [if_neg fun he => hid _ _ hw he.symm]
      rfl
    · rfl

end Sys2Proof
end

section
/-! SUPPORT of O24 and O25: the words and the full/empty bits of the windows of a team's gang (R162, R170), after a change of a crew. -/

namespace Sys2Proof.Machine

/-- The crew of a team's gang with a number. -/
def State.gangCrew (s : State) (t : Team) (k : Nat) : Option Crew := (s.gangOf t).bind (·.crew? k)
theorem gangCrew_congr {s s' : State} (h : s'.gangs = s.gangs) (t : Team) (k : Nat) : s'.gangCrew t k = s.gangCrew t k := by
  unfold State.gangCrew State.gangOf
  rw [h]

theorem padWord_of {s : State} {t : Team} {k : Nat} {c : Crew} (h : s.gangCrew t k = some c) (w : Nat) : padWord s t k w = c.word w := by
  unfold State.gangCrew at h
  unfold padWord
  rw [h]
theorem padFull_of {s : State} {t : Team} {k : Nat} {c : Crew} (h : s.gangCrew t k = some c) (w : Nat) : padFull s t k w = c.full.get false w := by
  unfold State.gangCrew at h
  unfold padFull
  rw [h]
/-- Words and bits are those of the crews. -/
theorem padWord_congr {s s' : State} {t : Team} {k : Nat} (h : s'.gangCrew t k = s.gangCrew t k) (w : Nat) : padWord s' t k w = padWord s t k w := by
  unfold State.gangCrew at h
  unfold padWord
  rw [h]
theorem padFull_congr {s s' : State} {t : Team} {k : Nat} (h : s'.gangCrew t k = s.gangCrew t k) (w : Nat) : padFull s' t k w = padFull s t k w := by
  unfold State.gangCrew at h
  unfold padFull
  rw [h]

theorem gangCrew_updCrew {s : State} {t : Team} {k : Nat} {c : Crew} (h : s.gangCrew t k = some c) (f : Crew → Crew) :
    (s.updCrew t.gang k f).gangCrew t k = some (f c) := by
  obtain ⟨g, hg, hc⟩ := Option.bind_eq_some_iff.1 h
  unfold State.gangOf at hg
  unfold Gang.crew? at hc
  unfold State.updCrew State.updGang State.gangCrew State.gangOf
  simp only [hg, SMap.find_insert_same, Option.bind_some, Gang.crew?, List.getElem?_modify_eq, hc, Option.map_eq_map, Option.map_some]
theorem gangCrew_updCrew_ne (s : State) (t : Team) {k e : Nat} (h : e ≠ k) (f : Crew → Crew) :
    (s.updCrew t.gang k f).gangCrew t e = s.gangCrew t e := by
  unfold State.updCrew State.updGang State.gangCrew State.gangOf
  cases hg : s.gangs.find t.gang with
  | none => simp only [hg]
  | some g => simp only [SMap.find_insert_same, Option.bind_some, Gang.crew?, List.getElem?_modify, h.symm, if_false, id_eq, Option.map_eq_map,
      Option.map_id_fun']

end Sys2Proof.Machine
end

section
/-! SUPPORT of O25: the bytes that a copy brings, and their landing in a window (R178). -/

namespace Sys2Proof.Machine

/-- A crew after the first `n` words of a landing. -/
def Crew.landWords (c : Crew) (off x : Nat) (bad : List Bool) (n : Nat) : Crew :=
  (List.range n).foldl (fun (c : Crew) k =>
    Crew.soiled { c with
      window := c.window.set 0 (off / 4 + k) (BitVec.ofNat 32 (x / 2 ^ (32 * k))), poison := c.poison.set false (off / 4 + k) (bad.getD k false) }
      (off / 4 + k)) c
theorem landBytes_eq (c : Crew) (off : Nat) (bs : List Byte) (bad : List Bool) :
    c.landBytes off bs bad = c.landWords off (leNat bs) bad (bs.length / 4) := rfl
theorem landWords_succ (c : Crew) (off x : Nat) (bad : List Bool) (n : Nat) : c.landWords off x bad (n + 1) =
    Crew.soiled { c.landWords off x bad n with
      window := (c.landWords off x bad n).window.set 0 (off / 4 + n) (BitVec.ofNat 32 (x / 2 ^ (32 * n)))
      poison := (c.landWords off x bad n).poison.set false (off / 4 + n) (bad.getD n false) } (off / 4 + n) := by
  unfold Crew.landWords
  rw [List.range_succ, List.foldl_append]
  rfl
theorem landWords_word (c : Crew) (off x : Nat) (bad : List Bool) (w : Nat) : ∀ n, (c.landWords off x bad n).word w =
    if off / 4 ≤ w ∧ w < off / 4 + n then BitVec.ofNat 32 (x / 2 ^ (32 * (w - off / 4))) else c.word w
  | 0 => by rw [if_neg (by omega)]; rfl
  | n + 1 => by
    rw [landWords_succ]
    change SMap.get 0 (SMap.set 0 _ _ _) w = _
    rw [SMap.get_set]
    by_cases h : w = off / 4 + n
    · rw [if_pos h, if_pos (by omega), h, Nat.add_sub_cancel_left]
    · have hw := landWords_word c off x bad w n
      unfold Crew.word at hw
      rw [if_neg h, hw]
      by_cases hn : off / 4 ≤ w ∧ w < off / 4 + n
      · rw [if_pos hn, if_pos (by omega)]
      · rw [if_neg hn, if_neg (by omega)]
        rfl
theorem landWords_full (c : Crew) (off x : Nat) (bad : List Bool) : ∀ n, (c.landWords off x bad n).full = c.full
  | 0 => rfl
  | n + 1 => by
    rw [landWords_succ]
    exact landWords_full c off x bad n

/-- A word of a run of bytes (R2). -/
theorem word_of_bytes (bs : List Byte) (k : Nat) (h : 4 * k + 4 ≤ bs.length) :
    BitVec.ofNat 32 (leNat bs / 2 ^ (32 * k)) = BitVec.ofNat 32 (leNat ((List.range 4).map fun j => bs.getD (4 * k + j) 0)) := by
  have hpow : (2 : Nat) ^ (32 * k) = 256 ^ (4 * k) := by
    rw [show (256 : Nat) = 2 ^ 8 by rfl, ← Nat.pow_mul]
    congr 1
    omega
  have htake : (bs.drop (4 * k)).take 4 = (List.range 4).map fun j => bs.getD (4 * k + j) 0 := by
    apply List.ext_getElem
    · simp
      omega
    · intro j h1 h2
      have hj : 4 * k + j < bs.length := by simp at h2; omega
      simp [hj]
  rw [hpow, leNat_drop, ← List.take_append_drop 4 (bs.drop (4 * k)), leNat_append, htake]
  apply BitVec.eq_of_toNat_eq
  simp

/-- No store is on its way to a line. -/
def State.lineStill (s : State) (line : Nat) : Prop :=
  ∀ o ∈ s.traffic, o.line = some line → ∀ bs, o.kind ≠ .store bs ∧ o.kind ≠ .storePast bs
theorem lay_still {o : Op} (h : ∀ bs, o.kind ≠ .store bs ∧ o.kind ≠ .storePast bs) (pa : Nat) (bs : List Byte) : o.lay pa bs = bs := by
  unfold Op.lay
  dsimp only
  split
  · exact absurd ‹_› (h _).1
  · exact absurd ‹_› (h _).2
  · rfl
theorem foldl_lay_still {ops : List Op} (h : ∀ o ∈ ops, ∀ bs, o.kind ≠ .store bs ∧ o.kind ≠ .storePast bs) (pa : Nat) (bs : List Byte) :
    ops.foldl (fun bs o => o.lay pa bs) bs = bs := by
  induction ops with
  | nil => rfl
  | cons o ops ih =>
    rw [List.foldl_cons, lay_still (h o List.mem_cons_self)]
    exact ih fun p hp => h p (List.mem_cons_of_mem o hp)

/-- A read of a core that misses its L1, of a line to which no store is on its way, brings the bytes of memory (R282). -/
theorem readL1_miss {s : State} {unit cluster core ctx va pa n : Nat} (x : Translation) (own : Op → Bool)
    (hc : s.line? .l1 unit ctx (va / 128) = none) (hl : s.lineStill (pa / 128)) (hp : pa % 128 = va % 128) (hn : va % 128 + n ≤ 128) :
    (s.readL1 unit cluster core ctx va pa n x own []).1 = (List.range n).map fun k => Memory.read s.mem (pa + k) := by
  have hseen : s.seenBytes cluster (128 * (pa / 128)) 128 = s.readBytes (pa / 128 * 128) 128 := by
    unfold State.seenBytes
    rw [Nat.mul_comm, foldl_lay_still]
    intro o ho
    obtain ⟨hm, hline⟩ := List.mem_filter.1 ho
    have hdiv : pa / 128 * 128 / 128 = pa / 128 := by omega
    rw [hdiv] at hline
    exact hl o hm (by simpa using (Bool.and_eq_true _ _ |>.mp hline).1)
  have hbuf : ∀ bs, (s.buffer cluster core (pa / 128) own).foldl (fun bs o => o.lay pa bs) bs = bs := by
    refine foldl_lay_still (fun o ho => ?_) pa
    obtain ⟨hm, hline⟩ := List.mem_filter.1 ho
    simp only [Bool.and_eq_true, beq_iff_eq] at hline
    exact hl o hm hline.1.2
  unfold State.readL1
  rw [hseen]
  change overlay [] pa (List.foldl _ (s.cacheRead _ _ _ _ _ _ _ (s.lineBytes pa)).1 _) = _
  rw [hbuf]
  exact cacheRead_miss x hc hp hn

theorem readL1_gangs (s : State) (unit cluster core ctx va pa n : Nat) (x : Translation) (own : Op → Bool) (held : List (Nat × Nat × Byte)) :
    (s.readL1 unit cluster core ctx va pa n x own held).2.gangs = s.gangs := by
  unfold State.readL1 State.cacheRead
  dsimp only
  split
  · rfl
  · split
    · simp
    · simp
theorem readL1_teams (s : State) (unit cluster core ctx va pa n : Nat) (x : Translation) (own : Op → Bool) (held : List (Nat × Nat × Byte)) :
    (s.readL1 unit cluster core ctx va pa n x own held).2.teams = s.teams := State.cacheRead_teams s _ _ _ _ _ _ _ _

/-- A copy's bytes, those past its length zero, as words (R178). -/
theorem copied_word {n k : Nat} {f : Nat → Byte} (hn : n ≤ 32) (hk : k < 8) :
    BitVec.ofNat 32 (leNat ((List.range n).map f ++ List.replicate (32 - n) 0) / 2 ^ (32 * k)) =
      BitVec.ofNat 32 (leNat ((List.range 4).map fun j => if 4 * k + j < n then f (4 * k + j) else 0)) := by
  rw [word_of_bytes _ k (by simp; omega)]
  congr 2
  refine List.map_congr_left fun j hj => ?_
  have hj4 := List.mem_range.1 hj
  by_cases h : 4 * k + j < n
  · rw [if_pos h, List.getD_eq_getElem _ _ (by simp; omega), List.getElem_append_left (by simpa using h)]
    simp
  · rw [if_neg h, List.getD_eq_getElem _ _ (by simp; omega), List.getElem_append_right (by simpa using h)]
    simp

end Sys2Proof.Machine
end

section
/-! SUPPORT of O25: `cpa` and a landing. -/

namespace Sys2Proof.Machine

theorem copyBad_none {s : State} {t : Team} {es : List (Nat × DWord × Word)}
    (h : ∀ e ∈ es, e.2.1.toNat < 2 ^ 52 ∧ e.2.1.toNat % 32 = 0 ∧ s.inWindow t e.2.2 32 = true ∧ e.2.2.toNat % 32 = 0) : s.copyBad t es = none := by
  unfold State.copyBad
  rw [List.findSome?_eq_none_iff]
  intro e he
  obtain ⟨hlt, hal, hin, hoff⟩ := h e he
  have hhi : e.2.1.extractLsb' 52 12 = 0#12 := by
    apply BitVec.eq_of_toNat_eq
    rw [BitVec.extractLsb'_toNat, Nat.shiftRight_eq_div_pow, Nat.div_eq_of_lt hlt]
    rfl
  simp [hhi, hal, hin, hoff]
theorem mapIdx_map {α β γ : Type} (f : Nat → β → γ) (g : α → β) (xs : List α) : (xs.map g).mapIdx f = xs.mapIdx fun k x => f k (g x) :=
  List.ext_getElem? fun k => by simp [Option.map_map, Function.comp_def]
theorem needsCheckpoint_plain {s : State} {t : Team} (h : t.kernel.rollback = false) (es : List (Nat × Word)) : s.needsCheckpoint t es = false := by
  unfold State.needsCheckpoint
  rw [h]
  rfl

theorem heldOf_plain {s : State} {t : Team} (h : t.kernel.rollback = false) : s.heldOf t = [] := by
  unfold State.heldOf
  rw [h]
  rfl

theorem copyDone_copies (t : Team) (c : Copy) : (t.copyDone c).copies = t.copies.filter (·.serial != c.serial) := by
  unfold Team.copyDone
  dsimp only
  split
  · rfl
  · rfl
theorem copyDone_tags {t : Team} {c : Copy} {g : Nat} {b : BatchTag} (hg : c.tag = some g) (hb : t.tags[g]? = some b) :
    (t.copyDone c).tags[g]? = some ⟨b.count - 1, decide (1 < b.count)⟩ := by
  unfold Team.copyDone
  simp only [hg, List.getElem?_modify_eq, hb, Option.map_eq_map, Option.map_some]

section
variable {s : State} {team : Nat} {t : Team} {c : Copy} {cr : Crew} (hc : s.gangCrew t c.crew = some cr)
  (bs : List Byte) (bad : List Bool)
include hc

/-- What the landing of a copy leaves in the windows. -/
theorem landCopy_word (e w : Nat) : padWord (s.landCopy team t c bs bad) t e w =
    if e = c.crew ∧ c.dst / 4 ≤ w ∧ w < c.dst / 4 + bs.length / 4 then BitVec.ofNat 32 (leNat bs / 2 ^ (32 * (w - c.dst / 4))) else padWord s t e w := by
  unfold State.landCopy
  rw [padWord_congr (gangCrew_congr (State.updTeam_gangs _ _ _) t e)]
  by_cases he : e = c.crew
  · subst he
    rw [padWord_of (gangCrew_updCrew hc _), landBytes_eq, landWords_word, padWord_of hc]
    simp only [true_and]
  · rw [padWord_congr (gangCrew_updCrew_ne s t he _), if_neg fun h => he h.1]
theorem landCopy_full (e w : Nat) : padFull (s.landCopy team t c bs bad) t e w = padFull s t e w := by
  unfold State.landCopy
  rw [padFull_congr (gangCrew_congr (State.updTeam_gangs _ _ _) t e)]
  by_cases he : e = c.crew
  · subst he
    rw [padFull_of (gangCrew_updCrew hc _), landBytes_eq, landWords_full, padFull_of hc]
  · rw [padFull_congr (gangCrew_updCrew_ne s t he _)]

end

theorem landCopy_find {s : State} {team : Nat} {t : Team} (ht : s.teams.find team = some t) (u : Team) (c : Copy) (bs : List Byte) (bad : List Bool) :
    (s.landCopy team u c bs bad).teams.find team = some (t.copyDone c) :=
  State.updTeam_find _ (by rw [State.updCrew_teams]; exact ht)
theorem landCopy_mem (s : State) (team : Nat) (t : Team) (c : Copy) (bs : List Byte) (bad : List Bool) :
    (s.landCopy team t c bs bad).mem = s.mem := by
  unfold State.landCopy
  rw [State.updTeam_mem, State.updCrew_mem]

/-- A copy whose page is found lands from the state in which its read leaves the machine (R178). -/
theorem execCopyLanding_lands {s : State} {team serial : Nat} {t : Team} {c : Copy} {pa : Nat} {x : Translation} (ht : s.teams.find team = some t)
    (hc : t.copies.find? (fun (c : Copy) => c.serial == serial && c.fate == .flying) = some c) (hn : c.n ≠ 0)
    (hw : s.lookWalk t.unit t.ctx c.src.toNat .read = .ok pa x) :
    ∃ bad, execCopyLanding team serial s = .next
      (((s.letIn t.ctx pa x).readL1 ((s.letIn t.ctx pa x).l1Unit t c.src.toNat) t.cluster t.core t.ctx c.src.toNat pa c.n x (fun _ => true)
          ((s.letIn t.ctx pa x).heldOf t)).2.landCopy team t c
        (((s.letIn t.ctx pa x).readL1 ((s.letIn t.ctx pa x).l1Unit t c.src.toNat) t.cluster t.core t.ctx c.src.toNat pa c.n x (fun _ => true)
          ((s.letIn t.ctx pa x).heldOf t)).1 ++ List.replicate (32 - c.n) 0) bad) := by
  unfold execCopyLanding
  simp only [ht, hc, hn, if_false, hw]
  exact ⟨_, rfl⟩
/-- A copy whose page traps keeps its trap (R179). -/
theorem execCopyLanding_traps {s : State} {team serial cause : Nat} {t : Team} {c : Copy} (ht : s.teams.find team = some t)
    (hc : t.copies.find? (fun (c : Copy) => c.serial == serial && c.fate == .flying) = some c) (hn : c.n ≠ 0)
    (hw : s.lookWalk t.unit t.ctx c.src.toNat .read = .trap cause) :
    execCopyLanding team serial s = .next (s.setTeam team { t with
      copies := t.copies.map fun (k : Copy) => if k.serial = serial then { k with fate := .trapped cause } else k }) := by
  unfold execCopyLanding
  simp only [ht, hc, hn, if_false, hw]

end Sys2Proof.Machine
end

section
/-! PROOF of O25. -/

namespace Sys2Proof
open Machine

/-- Settles O25. A landing reads memory, since neither an L1 line nor a store on its way stands before it, and writes eight words of one window. -/
theorem copies : Obligations.Copies := by
  unfold Obligations.Copies
  refine ⟨?_, ?_, ?_⟩
  · intro d a o s t h hroll r hgood
    have hbad : s.copyBad t (r.actives.map fun l => (l, r.V64 l a.toNat, r.V l d.toNat)) = none := copyBad_none fun e he => by
      obtain ⟨l, hl, rfl⟩ := List.mem_map.1 he
      exact hgood l hl
    have hdone := updMe_eq (s := { s with serial := s.serial + r.actives.length }) (t := t) (f := fun u => { u with
      openCount := u.openCount + r.actives.length
      copies := u.copies ++ r.actives.mapIdx fun k l => ⟨s.serial + k, l, r.V64 l a.toNat, min 32 (r.opb l o).toNat,
        (decodeOffset t.crew (r.V l d.toNat)).1, (decodeOffset t.crew (r.V l d.toNat)).2, none, .flying⟩ }) h.1
    obtain ⟨s', hnext, hon⟩ := leavesIn_of_done h (rfl : _ = execCpa d a o s)
      (by simp only [show t.viewAt s.clk = r from rfl, hbad, needsCheckpoint_plain hroll, List.length_map, mapIdx_map]; exact congrArg Res.done hdone)
      (State.setTeam_me _ _) rfl
    exact ⟨s', hnext, hon.of_bare rfl (fun k hk => State.setTeam_find_ne _ _ hk) rfl rfl rfl⟩
  · intro team serial s t c pa f cr ht hc hn hn32 hal hw hpa hstores hline hroll hpoison hcr
    obtain ⟨bad, hexec⟩ := execCopyLanding_lands ht hc hn hw
    generalize hs1 : s.letIn t.ctx pa f = s1 at hexec
    have hgangs1 : s1.gangs = s.gangs := by rw [← hs1, State.letIn_gangs]
    have hunit : s1.l1Unit t c.src.toNat = s.l1Unit t c.src.toNat := by unfold State.l1Unit State.gangOf; rw [hgangs1]
    have hmiss : s1.line? .l1 (s.l1Unit t c.src.toNat) t.ctx (c.src.toNat / 128) = none := by
      unfold State.line? at *
      rw [← hs1, State.letIn_caches]
      exact hline
    have hstill : s1.lineStill (pa / 128) := by
      unfold State.lineStill
      rw [← hs1, State.letIn_traffic]
      exact hstores
    rw [hunit, heldOf_plain hroll, readL1_miss f _ hmiss hstill hpa (by omega), ← hs1, State.letIn_mem, hs1] at hexec
    generalize hs2 : (s1.readL1 (s.l1Unit t c.src.toNat) t.cluster t.core t.ctx c.src.toNat pa c.n f (fun _ => true) []).2 = s2 at hexec
    have hcrew : ∀ e, s2.gangCrew t e = s.gangCrew t e := fun e => gangCrew_congr (by rw [← hs2, readL1_gangs, hgangs1]) t e
    have hteam : s2.teams.find team = some t := by rw [← hs2, readL1_teams, ← hs1, State.letIn_teams]; exact ht
    have hlen : ((List.range c.n).map (fun k => Memory.read s.mem (pa + k)) ++ List.replicate (32 - c.n) 0).length / 4 = 8 := by
      simp
      omega
    have hword := landCopy_word (team := team) ((hcrew c.crew).trans hcr)
      ((List.range c.n).map (fun k => Memory.read s.mem (pa + k)) ++ List.replicate (32 - c.n) 0) bad
    rw [hlen] at hword
    refine ⟨_, _, hexec, landCopy_find hteam t c _ _, fun k hk => ?_, fun e w hew => ?_, fun e w => ?_, copyDone_copies t c,
      fun g b => copyDone_tags, ?_⟩
    · rw [hword, if_pos ⟨rfl, by omega, by omega⟩, Nat.add_sub_cancel_left, copied_word hn32 hk]
      simp only [Nat.add_assoc]
    · rw [hword, if_neg hew]
      exact padWord_congr (hcrew e) w
    · rw [landCopy_full ((hcrew c.crew).trans hcr)]
      exact padFull_congr (hcrew e) w
    · rw [landCopy_mem, ← hs2, State.readL1_mem, ← hs1, State.letIn_mem]
  · intro team serial s t c cause ht hc hn hw
    have hser : c.serial = serial := by
      have h := List.find?_some hc
      simp only [Bool.and_eq_true, beq_iff_eq] at h
      exact h.1
    refine ⟨_, _, execCopyLanding_traps ht hc hn hw, SMap.find_insert_same _ _ _, ⟨_, List.mem_map.2 ⟨c, List.mem_of_find?_eq_some hc, if_pos hser⟩, hser,
      rfl⟩, rfl, rfl⟩

end Sys2Proof
end

section
/-! SUPPORT of O23 and O24: values for a group of registers of each active lane (R42, R168). -/

namespace Sys2Proof.Machine

theorem reg_puts_group (d l m : Nat) (f : Nat → Word) (hl : l < 1024) (t : Team) (file : RFile) (n k : Nat) (hk : k < 1024) :
    (t.puts ((List.range m).map fun j => ⟨.v, d + j, l, f j⟩)).reg file n k =
      if file = .v ∧ d ≤ n ∧ n < d + m ∧ k = l then f (n - d) else t.reg file n k := by
  induction m with
  | zero =>
    rw [if_neg (by omega)]
    rfl
  | succ m ih =>
    rw [List.range_succ, List.map_append, Team.puts_append, List.map_singleton]
    refine (Team.reg_put _ ⟨.v, d + m, l, f m⟩ file n k hl hk).trans ?_
    rw [ih]
    by_cases hfile : file = .v
    · subst hfile
      by_cases h : n = d + m ∧ k = l
      · obtain ⟨rfl, rfl⟩ := h
        simp
      · rw [if_neg fun hc => h ⟨hc.2.1, by simpa using hc.2.2⟩]
        by_cases hm : d ≤ n ∧ n < d + m ∧ k = l
        · rw [if_pos ⟨rfl, hm⟩, if_pos ⟨rfl, hm.1, by omega, hm.2.2⟩]
        · rw [if_neg fun hc => hm hc.2, if_neg fun hc => h ⟨by omega, hc.2.2.2⟩]
    · simp [hfile]
theorem reg_puts_groups (ls : List Nat) (d m : Nat) (f : Nat → Nat → Word) (hl : ∀ l ∈ ls, l < 1024) (t : Team) (file : RFile) (n k : Nat) (hk : k < 1024) :
    (t.puts (ls.flatMap fun l => (List.range m).map fun j => ⟨.v, d + j, l, f l j⟩)).reg file n k =
      if file = .v ∧ d ≤ n ∧ n < d + m ∧ k ∈ ls then f k (n - d) else t.reg file n k := by
  induction ls generalizing t with
  | nil =>
    rw [if_neg (by simp)]
    rfl
  | cons l ls ih =>
    rw [List.flatMap_cons, Team.puts_append, ih fun x hx => hl x (List.mem_cons_of_mem l hx)]
    rw [reg_puts_group d l m (f l) (hl l List.mem_cons_self) t file n k hk]
    by_cases hin : file = .v ∧ d ≤ n ∧ n < d + m
    · obtain ⟨h1, h2, h3⟩ := hin
      by_cases hkl : k = l
      · subst hkl
        simp [h1, h2, h3]
      · simp [h1, h2, h3, hkl]
    · rw [if_neg fun h => hin ⟨h.1, h.2.1, h.2.2.1⟩, if_neg fun h => hin ⟨h.1, h.2.1, h.2.2.1⟩, if_neg fun h => hin ⟨h.1, h.2.1, h.2.2.1⟩]

theorem carries_groups (r : Team) (d m : Nat) (f : Nat → Nat → Word) :
    Carries (r.actives.flatMap fun l => (List.range m).map fun j => ⟨.v, d + j, l, f l j⟩) fun file n l =>
      if file = .v ∧ d ≤ n ∧ n < d + m ∧ l < r.lanes ∧ r.ex.getLsbD l = true then some (f l (n - d)) else none := by
  intro t file n l hl
  rw [reg_puts_groups _ d m f (fun _ h => actives_lt h) t file n l hl]
  simp only [mem_actives]
  split
  · rfl
  · rfl

theorem actives_sorted (t : Team) : t.actives.Pairwise (· < ·) := List.Pairwise.filter _ List.pairwise_lt_range

end Sys2Proof.Machine
end

section
/-! SUPPORT of O24: the offsets of a scratchpad access (R162, R170). -/

namespace Sys2Proof.Machine

theorem badOffset_none {s : State} {t : Team} {es : List (Nat × Word)} {n align : Nat}
    (h : ∀ e ∈ es, s.inWindow t e.2 n = true ∧ e.2.toNat % align = 0) : s.badOffset t es n align = none := by
  unfold State.badOffset
  rw [List.findSome?_eq_none_iff]
  intro e he
  obtain ⟨hin, hal⟩ := h e he
  simp [hin, hal]

/-- An offset in a window names a crew. -/
theorem gangCrew_of_inWindow {s : State} {t : Team} {o : Word} {n : Nat} (h : s.inWindow t o n = true) :
    ∃ c, s.gangCrew t (decodeOffset t.crew o).1 = some c := by
  unfold State.inWindow at h
  dsimp only at h
  split at h
  · rename_i g hg
    simp only [Bool.and_eq_true] at h
    obtain ⟨-, hcrew⟩ := h
    split at hcrew
    · exact ⟨_, by unfold State.gangCrew; rw [hg]; assumption⟩
    · cases hcrew
  · cases h

/-- An offset a few words on, within its 16-byte piece. -/
theorem decodeOffset_add {crew k : Nat} {o : Word} (h : o.toNat % 16 + 4 * k < 16) :
    decodeOffset crew (o + BitVec.ofNat 32 (4 * k)) = ((decodeOffset crew o).1, (decodeOffset crew o).2 + 4 * k) := by
  have hn := o.isLt
  have hsum : (o + BitVec.ofNat 32 (4 * k)).toNat = o.toNat + 4 * k := by
    rw [BitVec.toNat_add, BitVec.toNat_ofNat]
    omega
  have hbit : (o + BitVec.ofNat 32 (4 * k)).getLsbD 20 = o.getLsbD 20 := by
    simp only [BitVec.getLsbD, hsum, Nat.testBit_eq_decide_div_mod_eq]
    congr 2
    omega
  have hcut : ∀ m, m = 18 ∨ m = 20 → ((o + BitVec.ofNat 32 (4 * k)).extractLsb' 0 m).toNat = (o.extractLsb' 0 m).toNat + 4 * k := by
    intro m hm
    simp only [BitVec.extractLsb'_toNat, Nat.shiftRight_zero, hsum]
    rcases hm with rfl | rfl
    · omega
    · omega
  have hcrew : ((o + BitVec.ofNat 32 (4 * k)).extractLsb' 18 2).toNat = (o.extractLsb' 18 2).toNat := by
    simp only [BitVec.extractLsb'_toNat, Nat.shiftRight_eq_div_pow, hsum]
    omega
  unfold decodeOffset
  rw [hbit]
  split
  · rw [hcrew, hcut 18 (.inl rfl)]
  · rw [hcut 20 (.inr rfl)]
/-- An aligned offset is that of a word. -/
theorem decodeOffset_aligned {crew : Nat} {o : Word} (h : o.toNat % 4 = 0) : (decodeOffset crew o).2 % 4 = 0 := by
  unfold decodeOffset
  split
  · simp only [BitVec.extractLsb'_toNat, Nat.shiftRight_zero]
    omega
  · simp only [BitVec.extractLsb'_toNat, Nat.shiftRight_zero]
    omega

/-- The crew and the word at an offset. -/
def padPlace (t : Team) (o : Word) : Nat × Nat := ((decodeOffset t.crew o).1, (decodeOffset t.crew o).2 / 4)
/-- Aligned offsets of different places are of different words. -/
theorem padPlace_inj {t : Team} {o p : Word} (ho : o.toNat % 4 = 0) (hp : p.toNat % 4 = 0) (h : decodeOffset t.crew o ≠ decodeOffset t.crew p) :
    padPlace t o ≠ padPlace t p := by
  intro he
  obtain ⟨h1, h2⟩ := Prod.mk.inj he
  have := decodeOffset_aligned (crew := t.crew) ho
  have := decodeOffset_aligned (crew := t.crew) hp
  exact h (Prod.ext h1 (by omega))

theorem spadWord_eq (s : State) (t : Team) (o : Word) (k : Nat) : s.spadWord t o k = padWord s t (padPlace t o).1 ((padPlace t o).2 + k) := rfl
theorem isFull_eq (s : State) (t : Team) (o : Word) : s.isFull t o = padFull s t (padPlace t o).1 (padPlace t o).2 := rfl

theorem spadPoison_of {s : State} {t : Team} {o : Word} {c : Crew} (h : s.gangCrew t (decodeOffset t.crew o).1 = some c) (n : Nat) :
    s.spadPoison t o n = (List.range n).any fun k => c.poison.get false ((decodeOffset t.crew o).2 / 4 + k) := by
  unfold State.gangCrew at h
  unfold State.spadPoison State.crewAt
  rw [h]
theorem spadPoison_none {s : State} {t : Team} {o : Word} (h : s.gangCrew t (decodeOffset t.crew o).1 = none) (n : Nat) : s.spadPoison t o n = false := by
  unfold State.gangCrew at h
  unfold State.spadPoison State.crewAt
  rw [h]
theorem spadPoison_congr {s s' : State} {t : Team} {o : Word} (h : s'.gangCrew t (decodeOffset t.crew o).1 = s.gangCrew t (decodeOffset t.crew o).1)
    (n : Nat) : s'.spadPoison t o n = s.spadPoison t o n := by
  cases hc : s.gangCrew t (decodeOffset t.crew o).1 with
  | none => rw [spadPoison_none (h.trans hc), spadPoison_none hc]
  | some c => rw [spadPoison_of (h.trans hc), spadPoison_of hc]

/-- No word of a group is poisoned, looked at one by one (R455). -/
theorem spadPoisonAt_none {s : State} {t : Team} {o : Word} {z : Nat} (hz : z = 4 ∨ z = 8 ∨ z = 16) (ho : o.toNat % z = 0)
    (h : s.spadPoison t o (z / 4) = false) : s.spadPoisonAt t o (z / 4) = none := by
  unfold State.spadPoisonAt
  rw [List.find?_eq_none.2, Option.map_none]
  intro k hk
  have hkz := List.mem_range.1 hk
  have hpiece : o.toNat % 16 + 4 * k < 16 := by
    rcases hz with rfl | rfl | rfl
    · omega
    · omega
    · omega
  have hplace := decodeOffset_add (crew := t.crew) hpiece
  cases hc : s.gangCrew t (decodeOffset t.crew o).1 with
  | none => rw [spadPoison_none (by rw [hplace]; exact hc)]; exact Bool.false_ne_true
  | some c =>
    rw [spadPoison_of hc, List.any_eq_false] at h
    rw [spadPoison_of (by rw [hplace]; exact hc), hplace]
    have hword := h k hk
    simpa [Nat.add_mul_div_left] using hword

end Sys2Proof.Machine
end

section
/-! SUPPORT of O24: what an access of the windows notes of the watchpoints that it meets (R473), and a result that waits. -/

namespace Sys2Proof.Machine

/-- `s1` is `s`, but that its current team `t` may have noted watchpoints. -/
def Watched (s s1 : State) (t : Team) : Prop := s1 = s ∨ ∃ h, s1 = s.setTeam s.cur { t with watchHit := h }

theorem noteWatch_watched {s : State} {t : Team} (h : s.me = some t) (u : Team) (es : List (Nat × Word)) (n : Nat) (wr : Bool) :
    Watched s (s.noteWatch u es n wr) t := by
  unfold State.noteWatch
  dsimp only
  split
  · exact .inl rfl
  · exact .inr ⟨_, updMe_eq h _⟩

section
variable {s s1 : State} {t : Team} (w : Watched s s1 t)
include w

theorem Watched.me (h : s.me = some t) : ∃ h, s1.me = some { t with watchHit := h } := by
  rcases w with rfl | ⟨x, rfl⟩
  · exact ⟨_, h⟩
  · exact ⟨x, State.setTeam_me s _⟩
theorem Watched.cur : s1.cur = s.cur := by
  rcases w with rfl | ⟨x, rfl⟩
  · rfl
  · rfl
theorem Watched.gangs : s1.gangs = s.gangs := by
  rcases w with rfl | ⟨x, rfl⟩
  · rfl
  · rfl
theorem Watched.contexts : s1.contexts = s.contexts := by
  rcases w with rfl | ⟨x, rfl⟩
  · rfl
  · rfl
theorem Watched.mem : s1.mem = s.mem := by
  rcases w with rfl | ⟨x, rfl⟩
  · rfl
  · rfl
theorem Watched.bare : s1.bare = s.bare := by
  rcases w with rfl | ⟨x, rfl⟩
  · rfl
  · rfl
theorem Watched.others {k : Nat} (h : k ≠ s.cur) : s1.teams.find k = s.teams.find k := by
  rcases w with rfl | ⟨x, rfl⟩
  · rfl
  · exact State.setTeam_find_ne s _ h

/-- A result of variable latency from a slot that may have noted watchpoints. -/
theorem pendsIn_of_watched {i : Instr} (hi : Issues s t i) {body : (r t : Team) → State → Res} {reason : Nat} {data : PendData} {x : RegUse}
    {xs : List RegUse} (he : exec i s = slot i body s) (hb : body (t.viewAt s.clk) t s = .later s1 reason data) (hx : i.writes = x :: xs)
    (ho : s.overfull i = false) : PendsIn s s t i reason data := by
  obtain ⟨h, hme⟩ := w.me hi.1
  obtain ⟨s', t', hexec, hfind, hp, hv, hs, hpr, hf, hst, hon, hk⟩ := pends_of_later hi he hb hme w.cur hx ho
  exact ⟨s', t', _, hexec, hfind, hp, by rw [hx]; exact List.mem_cons_self, rfl, rfl, regsAfter_of_files hv hs hpr, hf, hst, hon,
    ⟨fun k hne => (hk.others k (by rw [w.cur]; exact hne)).trans (w.others hne), fun r => (hk.gangs r).trans w.gangs,
      fun c => (hk.contexts c).trans (by rw [w.contexts]), hk.rest.trans (still_of_bare w.bare),
      fun un => (hk.memory (untraced_of_contexts w.contexts un)).trans w.bare⟩⟩

end

end Sys2Proof.Machine
end

section
/-! SUPPORT of O24: changes of the windows of a team's gang (R170 to R172). -/

namespace Sys2Proof.Machine

/-- A step that changes nothing of the teams, of memory and of the contexts, and no gang but that of `t`. -/
structure WindowsOnly (s s' : State) (t : Team) : Prop where
  teams : s'.teams = s.teams
  cur : s'.cur = s.cur
  contexts : s'.contexts = s.contexts
  mem : s'.mem = s.mem
  gangs : ∀ g, g ≠ t.gang → s'.gangs.find g = s.gangs.find g
  crews : ∀ k, (s.gangCrew t k).isSome = true → (s'.gangCrew t k).isSome = true

theorem WindowsOnly.refl (s : State) (t : Team) : WindowsOnly s s t := ⟨rfl, rfl, rfl, rfl, fun _ _ => rfl, fun _ h => h⟩
theorem WindowsOnly.trans {a b c : State} {t : Team} (h : WindowsOnly a b t) (g : WindowsOnly b c t) : WindowsOnly a c t :=
  ⟨g.teams.trans h.teams, g.cur.trans h.cur, g.contexts.trans h.contexts, g.mem.trans h.mem, fun k hk => (g.gangs k hk).trans (h.gangs k hk),
    fun k hk => g.crews k (h.crews k hk)⟩
theorem WindowsOnly.me {s s' : State} {t : Team} (h : WindowsOnly s s' t) : s'.me = s.me := by
  unfold State.me
  rw [h.teams, h.cur]
theorem windowsOnly_foldl {α : Type} {t : Team} {f : State → α → State} (h : ∀ s x, WindowsOnly s (f s x) t) :
    ∀ (xs : List α) (s : State), WindowsOnly s (xs.foldl f s) t
  | [], s => .refl s t
  | x :: xs, s => (h s x).trans (windowsOnly_foldl h xs (f s x))

theorem windowsOnly_updCrew (s : State) (t : Team) (k : Nat) (f : Crew → Crew) : WindowsOnly s (s.updCrew t.gang k f) t := by
  refine ⟨State.updCrew_teams _ _ _ _, State.updCrew_cur _ _ _ _, State.updCrew_contexts _ _ _ _, State.updCrew_mem _ _ _ _, fun g hg => ?_, fun e he => ?_⟩
  · unfold State.updCrew State.updGang
    split
    · exact SMap.find_insert_ne _ _ hg
    · rfl
  · by_cases hek : e = k
    · subst hek
      obtain ⟨c, hc⟩ := Option.isSome_iff_exists.1 he
      rw [gangCrew_updCrew hc]
      rfl
    · rwa [gangCrew_updCrew_ne s t hek]
theorem windowsOnly_spadStore (s : State) (t : Team) (o : Word) (ws : List Word) : WindowsOnly s (s.spadStore t o ws) t :=
  windowsOnly_updCrew s t _ _
theorem windowsOnly_setFull (s : State) (t : Team) (o : Word) (b : Bool) : WindowsOnly s (s.setFull t o b) t := windowsOnly_updCrew s t _ _
theorem windowsOnly_gangAcquire (s : State) (t : Team) : WindowsOnly s (s.gangAcquire t) t := by
  unfold State.gangAcquire
  split
  · split
    · exact ⟨rfl, rfl, rfl, rfl, fun _ _ => rfl, fun _ h => h⟩
    · exact .refl s t
  · exact .refl s t
theorem gangAcquire_gangs (s : State) (t : Team) : (s.gangAcquire t).gangs = s.gangs := by
  unfold State.gangAcquire
  split
  · split
    · rfl
    · rfl
  · rfl

/-- A crew after the first `n` words of a store. -/
def Crew.setWords (c : Crew) (b : Nat) (f : Nat → Word) (n : Nat) : Crew := (List.range n).foldl (fun (c : Crew) k => c.setWord (b + k) (f k)) c
theorem setWords_succ (c : Crew) (b : Nat) (f : Nat → Word) (n : Nat) : c.setWords b f (n + 1) = (c.setWords b f n).setWord (b + n) (f n) := by
  unfold Crew.setWords
  rw [List.range_succ, List.foldl_append]
  rfl
theorem setWord_word (c : Crew) (v w : Nat) (x : Word) : (c.setWord v x).word w = if w = v then x else c.word w := SMap.get_set 0 c.window v w x
theorem setWords_word (c : Crew) (b : Nat) (f : Nat → Word) (w : Nat) :
    ∀ n, (c.setWords b f n).word w = if b ≤ w ∧ w < b + n then f (w - b) else c.word w
  | 0 => by rw [if_neg (by omega)]; rfl
  | n + 1 => by
    rw [setWords_succ, setWord_word, setWords_word c b f w n]
    by_cases h : w = b + n
    · rw [if_pos h, if_pos (by omega), h, Nat.add_sub_cancel_left]
    · rw [if_neg h]
      by_cases hn : b ≤ w ∧ w < b + n
      · rw [if_pos hn, if_pos (by omega)]
      · rw [if_neg hn, if_neg (by omega)]
theorem setWords_full (c : Crew) (b : Nat) (f : Nat → Word) : ∀ n, (c.setWords b f n).full = c.full
  | 0 => rfl
  | n + 1 => by
    rw [setWords_succ]
    exact setWords_full c b f n

theorem spadStore_eq (s : State) (t : Team) (o : Word) (f : Nat → Word) (n : Nat) :
    s.spadStore t o ((List.range n).map f) = s.updCrew t.gang (padPlace t o).1 fun c => c.setWords (padPlace t o).2 f n := by
  have hwords : (((List.range n).map f).mapIdx fun k w => ((decodeOffset t.crew o).2 / 4 + k, w)) =
      (List.range n).map fun k => ((decodeOffset t.crew o).2 / 4 + k, f k) := by
    apply List.ext_getElem
    · simp
    · intro k h1 h2
      simp
  unfold State.spadStore
  dsimp only
  rw [hwords]
  simp only [List.foldl_map]
  rfl

/-- A crew with the full/empty bit of a word set or cleared. -/
def Crew.setFull (c : Crew) (w : Nat) (b : Bool) : Crew := Crew.soiled { c with full := c.full.set false w b } w
theorem Crew.setFull_window (c : Crew) (w : Nat) (b : Bool) : (c.setFull w b).window = c.window := rfl
theorem Crew.setFull_poison (c : Crew) (w : Nat) (b : Bool) : (c.setFull w b).poison = c.poison := rfl
theorem setFull_eq (s : State) (t : Team) (o : Word) (b : Bool) :
    s.setFull t o b = s.updCrew t.gang (padPlace t o).1 fun c => c.setFull (padPlace t o).2 b := rfl

section
variable {s : State} {t : Team} {o : Word} {cr : Crew} (hc : s.gangCrew t (padPlace t o).1 = some cr)
include hc

theorem spadStore_word (f : Nat → Word) (n c w : Nat) : padWord (s.spadStore t o ((List.range n).map f)) t c w =
    if c = (padPlace t o).1 ∧ (padPlace t o).2 ≤ w ∧ w < (padPlace t o).2 + n then f (w - (padPlace t o).2) else padWord s t c w := by
  rw [spadStore_eq]
  by_cases h : c = (padPlace t o).1
  · subst h
    rw [padWord_of (gangCrew_updCrew hc _), setWords_word, padWord_of hc]
    simp only [true_and]
  · rw [padWord_congr (gangCrew_updCrew_ne s t h _), if_neg fun hn => h hn.1]
theorem setFull_full (b : Bool) (c w : Nat) : padFull (s.setFull t o b) t c w = if padPlace t o = (c, w) then b else padFull s t c w := by
  rw [setFull_eq]
  by_cases h : c = (padPlace t o).1
  · subst h
    rw [padFull_of (gangCrew_updCrew hc _), padFull_of hc]
    refine (SMap.get_set false cr.full (padPlace t o).2 w b).trans ?_
    by_cases hw : w = (padPlace t o).2
    · subst hw
      simp
    · rw [if_neg hw, if_neg fun he => hw (Prod.mk.inj he).2.symm]
  · rw [padFull_congr (gangCrew_updCrew_ne s t h _), if_neg fun he => h (Prod.mk.inj he).1.symm]

end

/-- A change that leaves a part of every crew. -/
theorem gangCrew_updCrew_map {β : Type} {p : Crew → β} {f : Crew → Crew} (hp : ∀ c, p (f c) = p c) (s : State) (t : Team) (k e : Nat) :
    ((s.updCrew t.gang k f).gangCrew t e).map p = (s.gangCrew t e).map p := by
  by_cases h : e = k
  · subst h
    cases hc : s.gangCrew t e with
    | some c => rw [gangCrew_updCrew hc, Option.map_some, hp, Option.map_some]
    | none =>
      unfold State.gangCrew State.gangOf at hc
      unfold State.updCrew State.updGang State.gangCrew State.gangOf
      cases hg : s.gangs.find t.gang with
      | none => simp [hg]
      | some g =>
        rw [hg, Option.bind_some] at hc
        unfold Gang.crew? at hc
        simp [SMap.find_insert_same, Gang.crew?, hc]
  · rw [gangCrew_updCrew_ne s t h]
theorem padWord_map (s : State) (t : Team) (k w : Nat) : padWord s t k w = ((s.gangCrew t k).map Crew.window).elim 0 fun m => m.get 0 w := by
  cases h : s.gangCrew t k with
  | none =>
    unfold State.gangCrew at h
    unfold padWord
    rw [h]
    rfl
  | some c =>
    rw [padWord_of h]
    rfl
theorem padFull_map (s : State) (t : Team) (k w : Nat) : padFull s t k w = ((s.gangCrew t k).map Crew.full).elim false fun m => m.get false w := by
  cases h : s.gangCrew t k with
  | none =>
    unfold State.gangCrew at h
    unfold padFull
    rw [h]
    rfl
  | some c =>
    rw [padFull_of h]
    rfl
theorem spadPoison_map (s : State) (t : Team) (o : Word) (n : Nat) : s.spadPoison t o n =
    ((s.gangCrew t (decodeOffset t.crew o).1).map Crew.poison).elim false fun m =>
      (List.range n).any fun k => m.get false ((decodeOffset t.crew o).2 / 4 + k) := by
  cases h : s.gangCrew t (decodeOffset t.crew o).1 with
  | none => rw [spadPoison_none h]; rfl
  | some c => rw [spadPoison_of h]; rfl

theorem spadStore_full (s : State) (t : Team) (o : Word) (f : Nat → Word) (n c w : Nat) :
    padFull (s.spadStore t o ((List.range n).map f)) t c w = padFull s t c w := by
  rw [spadStore_eq, padFull_map, padFull_map, gangCrew_updCrew_map fun c => setWords_full c _ f n]
theorem setFull_word (s : State) (t : Team) (o : Word) (b : Bool) (c w : Nat) : padWord (s.setFull t o b) t c w = padWord s t c w := by
  rw [setFull_eq, padWord_map, padWord_map, gangCrew_updCrew_map fun c => Crew.setFull_window c _ b]
theorem setFull_poison (s : State) (t : Team) (o p : Word) (b : Bool) (n : Nat) : (s.setFull t o b).spadPoison t p n = s.spadPoison t p n := by
  rw [setFull_eq, spadPoison_map, spadPoison_map, gangCrew_updCrew_map fun c => Crew.setFull_poison c _ b]

end Sys2Proof.Machine
end

section
/-! SUPPORT of O24: the lane loads and stores of scratchpad words (R171). -/

namespace Sys2Proof.Machine

/-- The offset of a lane. -/
def laneOffset (r : Team) (a : RegNo) (disp : BitVec 10) (z l : Nat) : Word := r.V l a.toNat + (disp.signExtend 64 * BitVec.ofNat 64 z).setWidth 32
theorem laneOffsets_eq (r : Team) (a : RegNo) (disp : BitVec 10) (z : Nat) :
    laneOffsets r a disp z = r.actives.map fun l => (l, laneOffset r a disp z l) := rfl

/-- A step that leaves the team but for the watchpoints that it met, the other teams, the contexts, memory and the other gangs. -/
structure PadsOnly (s s' : State) (t : Team) : Prop where
  me : s.me = some t → ∃ h, s'.me = some { t with watchHit := h }
  cur : s'.cur = s.cur
  others : ∀ k, k ≠ s.cur → s'.teams.find k = s.teams.find k
  contexts : s'.contexts = s.contexts
  mem : s'.mem = s.mem
  gangs : ∀ g, g ≠ t.gang → s'.gangs.find g = s.gangs.find g

theorem Watched.padsOnly {s s' : State} {t : Team} (w : Watched s s' t) : PadsOnly s s' t :=
  ⟨w.me, w.cur, fun _ h => w.others h, w.contexts, w.mem, fun _ _ => by rw [w.gangs]⟩
theorem PadsOnly.then_windows {a b c : State} {t : Team} (h : PadsOnly a b t) (g : WindowsOnly b c t) : PadsOnly a c t :=
  ⟨fun hm => by rw [g.me]; exact h.me hm, g.cur.trans h.cur, fun k hk => by rw [g.teams]; exact h.others k hk, g.contexts.trans h.contexts,
    g.mem.trans h.mem, fun k hk => (g.gangs k hk).trans (h.gangs k hk)⟩
theorem WindowsOnly.then_pads {a b c : State} {t : Team} (h : WindowsOnly a b t) (g : PadsOnly b c t) : PadsOnly a c t :=
  ⟨fun hm => g.me (h.me.trans hm), g.cur.trans h.cur, fun k hk => by rw [← h.teams]; exact g.others k (by rw [h.cur]; exact hk),
    g.contexts.trans h.contexts, g.mem.trans h.mem, fun k hk => (g.gangs k hk).trans (h.gangs k hk)⟩

/-- The slot completes and leaves the gangs as in `s1`; its team is as it was. -/
def PadsLeft (s : State) (i : Instr) (s1 : State) (t : Team) : Prop :=
  ∃ s' t', exec i s = .next s' ∧ s'.teams.find s.cur = some t' ∧ GoesAs t t' (nextPc t.pc i.hasLit) ∧ s'.gangs = s1.gangs ∧
    (∀ g, g ≠ t.gang → s'.gangs.find g = s.gangs.find g) ∧ (∀ k, k ≠ s.cur → s'.teams.find k = s.teams.find k) ∧ (Untraced s → SameMemory s s')

theorem padsLeft_of_done {s s1 : State} {t : Team} {i : Instr} (hi : Issues s t i) {body : (r t : Team) → State → Res} (he : exec i s = slot i body s)
    (hb : body (t.viewAt s.clk) t s = .done s1) (hp : PadsOnly s s1 t) (hx : i.writes = []) (hroll : t.kernel.rollback = false) :
    PadsLeft s i s1 t := by
  obtain ⟨h, hme⟩ := hp.me hi.1
  obtain ⟨s', hexec, ⟨t', hfind, hgoes⟩, hk⟩ := leavesIn_of_done hi he hb hme hx
  have hgangs := hk.gangs hroll
  refine ⟨s', t', hexec, by rw [← hp.cur]; exact hfind, hgoes, hgangs, fun g hg => by rw [hgangs]; exact hp.gangs g hg, fun k hne => ?_,
    hk.sameMemory (untraced_of_contexts hp.contexts) hp.mem⟩
  exact (hk.others k (by rw [hp.cur]; exact hne)).trans (hp.others k hne)

/-- The state after a lane store of a scratchpad to the offsets `o` of some lanes, in their order. -/
def State.padStored (s : State) (t r : Team) (d : RegNo) (n : Nat) (o : Nat → Word) (ls : List Nat) : State :=
  ls.foldl (fun (s : State) l => s.spadStore t (o l) ((List.range n).map fun k => r.V l (d.toNat + k))) s
theorem windowsOnly_padStored (s : State) (t r : Team) (d : RegNo) (n : Nat) (o : Nat → Word) (ls : List Nat) :
    WindowsOnly s (s.padStored t r d n o ls) t := windowsOnly_foldl (fun s _ => windowsOnly_spadStore s t _ _) ls s

/-- A lane's store reaches a word. -/
def Reached (t : Team) (n : Nat) (o : Word) (c w : Nat) : Prop := c = (padPlace t o).1 ∧ (padPlace t o).2 ≤ w ∧ w < (padPlace t o).2 + n

theorem padStored_full (t r : Team) (d : RegNo) (n : Nat) (o : Nat → Word) (c w : Nat) :
    ∀ (ls : List Nat) (s : State), padFull (s.padStored t r d n o ls) t c w = padFull s t c w
  | [], _ => rfl
  | l :: ls, s => (padStored_full t r d n o c w ls _).trans (spadStore_full s t (o l) _ n c w)
theorem padStored_kept (t r : Team) (d : RegNo) (n : Nat) (o : Nat → Word) (c w : Nat) :
    ∀ (ls : List Nat) (s : State), (∀ l ∈ ls, (s.gangCrew t (padPlace t (o l)).1).isSome = true) → (∀ l ∈ ls, ¬ Reached t n (o l) c w) →
      padWord (s.padStored t r d n o ls) t c w = padWord s t c w
  | [], _, _, _ => rfl
  | l :: ls, s, hc, hn => by
    obtain ⟨cr, hcr⟩ := Option.isSome_iff_exists.1 (hc l List.mem_cons_self)
    have hrest := padStored_kept t r d n o c w ls (s.spadStore t (o l) ((List.range n).map fun k => r.V l (d.toNat + k)))
      (fun m hm => (windowsOnly_spadStore s t _ _).crews _ (hc m (List.mem_cons_of_mem l hm))) fun m hm => hn m (List.mem_cons_of_mem l hm)
    exact hrest.trans ((spadStore_word hcr _ n c w).trans (if_neg (hn l List.mem_cons_self)))
/-- Where several lanes store to a word, the highest one's store stays (R171). -/
theorem padStored_last (t r : Team) (d : RegNo) (n : Nat) (o : Nat → Word) (c w l : Nat) :
    ∀ (ls : List Nat) (s : State), ls.Pairwise (· < ·) → (∀ l ∈ ls, (s.gangCrew t (padPlace t (o l)).1).isSome = true) → l ∈ ls →
      Reached t n (o l) c w → (∀ m ∈ ls, l < m → ¬ Reached t n (o m) c w) →
      padWord (s.padStored t r d n o ls) t c w = r.V l (d.toNat + (w - (padPlace t (o l)).2))
  | a :: ls, s, hs, hc, hl, hr, hm => by
    obtain ⟨ha, hs⟩ := List.pairwise_cons.1 hs
    have hc' : ∀ m ∈ ls, ((s.spadStore t (o a) ((List.range n).map fun k => r.V a (d.toNat + k))).gangCrew t (padPlace t (o m)).1).isSome = true :=
      fun m h => (windowsOnly_spadStore s t _ _).crews _ (hc m (List.mem_cons_of_mem a h))
    rcases List.mem_cons.1 hl with rfl | hl
    · obtain ⟨cr, hcr⟩ := Option.isSome_iff_exists.1 (hc l List.mem_cons_self)
      exact (padStored_kept t r d n o c w ls _ hc' fun m h => hm m (List.mem_cons_of_mem l h) (ha m h)).trans
        ((spadStore_word hcr _ n c w).trans (if_pos hr))
    · exact padStored_last t r d n o c w l ls _ hs hc' hl hr fun m h => hm m (List.mem_cons_of_mem a h)

section
variable {s : State} {t : Team} {i : Instr} {d a : RegNo} {disp : BitVec 10} {z : Nat} (hi : Issues s t i) (hroll : t.kernel.rollback = false)
  (hfit : ∀ l ∈ (t.viewAt s.clk).actives, s.inWindow t (laneOffset (t.viewAt s.clk) a disp z l) z = true ∧
    (laneOffset (t.viewAt s.clk) a disp z l).toNat % z = 0)
include hi hroll hfit

/-- A lane load of a scratchpad brings the words at each active lane's offset (R171). -/
theorem spadLoad_brings (he : exec i s = spadLoad i d a disp z s) {x : RegUse} {xs : List RegUse} (hx : i.writes = x :: xs) (ho : s.overfull i = false)
    (hz : z = 4 ∨ z = 8 ∨ z = 16)
    (hclean : ∀ l ∈ (t.viewAt s.clk).actives, s.spadPoison t (laneOffset (t.viewAt s.clk) a disp z l) (z / 4) = false) :
    PendsIn s s t i 2 (.values ((t.viewAt s.clk).actives.flatMap fun l => (List.range (z / 4)).map fun k =>
      ⟨.v, d.toNat + k, l, padWord s t (padPlace t (laneOffset (t.viewAt s.clk) a disp z l)).1
        ((padPlace t (laneOffset (t.viewAt s.clk) a disp z l)).2 + k)⟩) 0) := by
  have hw := noteWatch_watched hi.1 t (laneOffsets (t.viewAt s.clk) a disp z) (z / 4) false
  refine pendsIn_of_watched hw hi he ?_ hx ho
  have hbad : s.badOffset t (laneOffsets (t.viewAt s.clk) a disp z) z z = none := badOffset_none fun e he => by
    obtain ⟨l, hl, rfl⟩ := List.mem_map.1 he
    exact hfit l hl
  simp only [hbad, needsCheckpoint_plain hroll, Bool.false_eq_true, if_false]
  generalize s.noteWatch t (laneOffsets (t.viewAt s.clk) a disp z) (z / 4) false = s1 at hw
  have hcrew := fun k => gangCrew_congr hw.gangs t k
  have hpoison : (laneOffsets (t.viewAt s.clk) a disp z).findSome? (fun e => s1.spadPoisonAt t e.2 (z / 4)) = none := by
    rw [List.findSome?_eq_none_iff]
    intro e he
    obtain ⟨l, hl, rfl⟩ := List.mem_map.1 he
    exact spadPoisonAt_none hz (hfit l hl).2 ((spadPoison_congr (hcrew _) _).trans (hclean l hl))
  simp only [hpoison]
  simp only [laneOffsets_eq, List.flatMap_map, spadWord_eq, padWord_congr (hcrew _)]

/-- A lane store of a scratchpad stores the words of the lanes in lane order (R171). -/
theorem spadStore_stores (he : exec i s = spadStore i d a disp z s) (hx : i.writes = []) :
    ∃ s1 : State, s1.gangs = s.gangs ∧ PadsLeft s i
      (s1.padStored t (t.viewAt s.clk) d (z / 4) (laneOffset (t.viewAt s.clk) a disp z) (t.viewAt s.clk).actives) t := by
  have hw := noteWatch_watched hi.1 t (laneOffsets (t.viewAt s.clk) a disp z) (z / 4) true
  have hbad : s.badOffset t (laneOffsets (t.viewAt s.clk) a disp z) z z = none := badOffset_none fun e he => by
    obtain ⟨l, hl, rfl⟩ := List.mem_map.1 he
    exact hfit l hl
  refine ⟨_, hw.gangs, padsLeft_of_done hi he ?_ (hw.padsOnly.then_windows (windowsOnly_padStored _ _ _ _ _ _ _)) hx hroll⟩
  simp only [hbad, needsCheckpoint_plain hroll, Bool.false_eq_true, if_false]
  simp only [laneOffsets_eq, List.foldl_map]
  rfl

end

/-- What a lane store leaves in the windows (R171). -/
theorem padStored_spec {s s1 s' : State} {t r : Team} {d : RegNo} {n : Nat} {o : Nat → Word} (h1 : s1.gangs = s.gangs)
    (h' : s'.gangs = (s1.padStored t r d n o r.actives).gangs) (hc : ∀ l ∈ r.actives, (s.gangCrew t (padPlace t (o l)).1).isSome = true) :
    (∀ c w, (∀ l ∈ r.actives, ¬ Reached t n (o l) c w) → padWord s' t c w = padWord s t c w) ∧
    (∀ l ∈ r.actives, ∀ c w, Reached t n (o l) c w → (∀ m ∈ r.actives, l < m → ¬ Reached t n (o m) c w) →
      padWord s' t c w = r.V l (d.toNat + (w - (padPlace t (o l)).2))) ∧
    (∀ c w, padFull s' t c w = padFull s t c w) := by
  have hc1 : ∀ l ∈ r.actives, (s1.gangCrew t (padPlace t (o l)).1).isSome = true := fun l hl => by
    rw [gangCrew_congr h1]
    exact hc l hl
  refine ⟨fun c w hn => ?_, fun l hl c w hr hm => ?_, fun c w => ?_⟩
  · rw [padWord_congr (gangCrew_congr h' t c), padStored_kept t r d n o c w _ s1 hc1 hn, padWord_congr (gangCrew_congr h1 t c)]
  · rw [padWord_congr (gangCrew_congr h' t c), padStored_last t r d n o c w l _ s1 (actives_sorted r) hc1 hl hr hm]
  · rw [padFull_congr (gangCrew_congr h' t c), padStored_full, padFull_congr (gangCrew_congr h1 t c)]

end Sys2Proof.Machine
end

section
/-! SUPPORT of O24: the full/empty instructions (R172, R173). -/

namespace Sys2Proof.Machine

/-- One lane's step of a full/empty instruction. -/
def State.fullStep (op : FullOp) (t : Team) (x : Nat → Word) (s : State) (e : Nat × Word) : State :=
  match op with
  | .ldf => s.setFull t e.2 false
  | .ldfk => s
  | .ste => (s.spadStore t e.2 [x e.1]).setFull t e.2 true

theorem windowsOnly_fullStep (op : FullOp) (t : Team) (x : Nat → Word) (s : State) (e : Nat × Word) : WindowsOnly s (s.fullStep op t x e) t :=
  match op with
  | .ldf => windowsOnly_setFull s t _ _
  | .ldfk => .refl s t
  | .ste => (windowsOnly_spadStore s t _ _).trans (windowsOnly_setFull _ t _ _)

/-- The steps of some lanes, one after another. -/
def State.fullStepped (s : State) (op : FullOp) (t : Team) (x : Nat → Word) (es : List (Nat × Word)) : State :=
  es.foldl (fun s e => s.fullStep op t x e) s
@[simp] theorem fullStepped_nil (s : State) (op : FullOp) (t : Team) (x : Nat → Word) : s.fullStepped op t x [] = s := rfl
@[simp] theorem fullStepped_cons (s : State) (op : FullOp) (t : Team) (x : Nat → Word) (e : Nat × Word) (es : List (Nat × Word)) :
    s.fullStepped op t x (e :: es) = (s.fullStep op t x e).fullStepped op t x es := rfl
theorem windowsOnly_fullStepped (s : State) (op : FullOp) (t : Team) (x : Nat → Word) (es : List (Nat × Word)) :
    WindowsOnly s (s.fullStepped op t x es) t := windowsOnly_foldl (windowsOnly_fullStep op t x) es s

section
variable {op : FullOp} {t : Team} {x : Nat → Word} {s : State} {e : Nat × Word}
/-- What a step leaves of the full/empty bits, the words and the poison. -/
theorem fullStep_full (hc : (s.gangCrew t (padPlace t e.2).1).isSome = true) (c w : Nat) : padFull (s.fullStep op t x e) t c w =
    if op ≠ .ldfk ∧ padPlace t e.2 = (c, w) then op == .ste else padFull s t c w := by
  obtain ⟨cr, hcr⟩ := Option.isSome_iff_exists.1 hc
  cases op with
  | ldf =>
    have hop : (FullOp.ldf == .ste) = false := rfl
    refine (setFull_full hcr false c w).trans ?_
    simp [hop]
  | ldfk => simp [State.fullStep]
  | ste =>
    obtain ⟨cr', hcr'⟩ := Option.isSome_iff_exists.1 ((windowsOnly_spadStore s t e.2 [x e.1]).crews _ hc)
    refine (setFull_full hcr' true c w).trans ?_
    rw [show [x e.1] = (List.range 1).map fun _ => x e.1 from rfl, spadStore_full]
    simp
theorem fullStep_word (hc : (s.gangCrew t (padPlace t e.2).1).isSome = true) (c w : Nat) : padWord (s.fullStep op t x e) t c w =
    if op = .ste ∧ padPlace t e.2 = (c, w) then x e.1 else padWord s t c w := by
  obtain ⟨cr, hcr⟩ := Option.isSome_iff_exists.1 hc
  cases op with
  | ldf =>
    rw [if_neg (by simp)]
    exact setFull_word s t e.2 false c w
  | ldfk => simp [State.fullStep]
  | ste =>
    refine (setFull_word _ t e.2 true c w).trans ?_
    rw [show [x e.1] = (List.range 1).map fun _ => x e.1 from rfl, spadStore_word hcr]
    have hplace : padPlace t e.2 = (c, w) ↔ c = (padPlace t e.2).1 ∧ (padPlace t e.2).2 ≤ w ∧ w < (padPlace t e.2).2 + 1 := by
      rw [Prod.ext_iff]
      dsimp only
      omega
    simp only [hplace, true_and]
theorem fullStep_poison (hop : op ≠ .ste) (o : Word) (n : Nat) : (s.fullStep op t x e).spadPoison t o n = s.spadPoison t o n := by
  cases op with
  | ldf => exact setFull_poison s t _ o _ n
  | ldfk => rfl
  | ste => exact absurd rfl hop

end

/-- A lane that steps, and the lanes after it. -/
theorem fullSteps_step {op : FullOp} {t : Team} {s : State} {o : Word} (d : RegNo) (x : Nat → Word) (l : Nat) (es : List (Nat × Word))
    (hgo : (s.isFull t o != (op == .ste)) = true) (hp : (op != .ste && s.spadPoison t o 1) = false) : fullSteps op t d x ((l, o) :: es) s [] =
      ((fullSteps op t d x es (s.fullStep op t x (l, o)) []).1, (l, o) :: (fullSteps op t d x es (s.fullStep op t x (l, o)) []).2.1,
        (if op == .ste then (fullSteps op t d x es (s.fullStep op t x (l, o)) []).2.2.1
          else ⟨.v, d.toNat, l, s.spadWord t o 0⟩ :: (fullSteps op t d x es (s.fullStep op t x (l, o)) []).2.2.1),
        (fullSteps op t d x es (s.fullStep op t x (l, o)) []).2.2.2.1, (fullSteps op t d x es (s.fullStep op t x (l, o)) []).2.2.2.2) := by
  conv => lhs; unfold fullSteps
  simp only [hgo, hp, List.any_nil, Bool.not_false, Bool.and_self, Bool.not_true, Bool.false_eq_true, if_false]
  rfl

/-- Where every lane's word is as it waits for, every lane steps (R172). -/
theorem fullSteps_all (op : FullOp) (t : Team) (d : RegNo) (x : Nat → Word) : ∀ (es : List (Nat × Word)) (s : State),
    (∀ e ∈ es, s.isFull t e.2 = (op != .ste) ∧ (op ≠ .ste → s.spadPoison t e.2 1 = false)) →
    (∀ e ∈ es, (s.gangCrew t (padPlace t e.2).1).isSome = true) → es.Pairwise (fun a b => padPlace t a.2 ≠ padPlace t b.2) →
    fullSteps op t d x es s [] = (s.fullStepped op t x es, es,
      (if op == .ste then [] else es.map fun e => ⟨.v, d.toNat, e.1, padWord s t (padPlace t e.2).1 (padPlace t e.2).2⟩), [], none)
  | [], s, _, _, _ => by
    unfold fullSteps
    simp
  | (l, o) :: es, s, hready, hcrew, hdist => by
    obtain ⟨hne, hdist⟩ := List.pairwise_cons.1 hdist
    have hc := hcrew _ List.mem_cons_self
    have hgo : (s.isFull t o != (op == .ste)) = true := by
      rw [(hready _ List.mem_cons_self).1]
      cases op with
      | ldf => rfl
      | ldfk => rfl
      | ste => rfl
    have hpoison : (op != .ste && s.spadPoison t o 1) = false := by
      by_cases hop : op = .ste
      · simp [hop]
      · simp [(hready _ List.mem_cons_self).2 hop]
    have hrest := fullSteps_all op t d x es (s.fullStep op t x (l, o)) (fun e he => ?_)
      (fun e he => (windowsOnly_fullStep op t x s _).crews _ (hcrew e (List.mem_cons_of_mem _ he))) hdist
    · rw [fullSteps_step d x l es hgo hpoison, hrest]
      by_cases hop : op = .ste
      · simp [hop]
      · have hword : ∀ c w, padWord (s.fullStep op t x (l, o)) t c w = padWord s t c w := fun c w => by
          rw [fullStep_word hc, if_neg fun h => hop h.1]
        simp [hop, hword, spadWord_eq]
    · obtain ⟨hf, hp⟩ := hready e (List.mem_cons_of_mem _ he)
      refine ⟨?_, fun hop => (fullStep_poison hop _ _).trans (hp hop)⟩
      rw [isFull_eq, fullStep_full hc, if_neg fun h => hne e he h.2, ← isFull_eq, hf]

/-- Where no lane's word is as it waits for, every lane waits (R172). -/
theorem fullSteps_none (op : FullOp) (t : Team) (d : RegNo) (x : Nat → Word) (s : State) : ∀ (es w : List (Nat × Word)),
    (∀ e ∈ es, s.isFull t e.2 ≠ (op != .ste)) → fullSteps op t d x es s w = (s, [], [], w ++ es, none)
  | [], w, _ => by
    unfold fullSteps
    rw [List.append_nil]
  | (l, o) :: es, w, h => by
    have hwait : (s.isFull t o != (op == .ste)) = false := by
      rw [Bool.ne_not.1 (h _ List.mem_cons_self), bne_self_eq_false]
    unfold fullSteps
    simp only [hwait, Bool.false_and, Bool.not_false, if_true]
    rw [fullSteps_none op t d x s es _ fun e he => h e (List.mem_cons_of_mem _ he), List.append_assoc, List.singleton_append]

/-- What the steps of some lanes at different words leave in the windows. -/
theorem fullStepped_full (op : FullOp) (t : Team) (x : Nat → Word) (c w : Nat) : ∀ (es : List (Nat × Word)) (s : State),
    (∀ e ∈ es, (s.gangCrew t (padPlace t e.2).1).isSome = true) →
    padFull (s.fullStepped op t x es) t c w =
      if op ≠ .ldfk ∧ ∃ e ∈ es, padPlace t e.2 = (c, w) then op == .ste else padFull s t c w
  | [], s, _ => by simp
  | e :: es, s, hc => by
    have hrest := fullStepped_full op t x c w es (s.fullStep op t x e)
      fun p hp => (windowsOnly_fullStep op t x s e).crews _ (hc p (List.mem_cons_of_mem e hp))
    rw [fullStepped_cons, hrest, fullStep_full (hc e List.mem_cons_self)]
    by_cases h : op ≠ .ldfk ∧ ∃ p ∈ es, padPlace t p.2 = (c, w)
    · rw [if_pos h, if_pos ⟨h.1, by obtain ⟨p, hp, hw⟩ := h.2; exact ⟨p, List.mem_cons_of_mem e hp, hw⟩⟩]
    · rw [if_neg h]
      refine if_congr ⟨fun hn => ⟨hn.1, e, List.mem_cons_self, hn.2⟩, fun hn => ⟨hn.1, ?_⟩⟩ rfl rfl
      obtain ⟨hop, p, hp, hw⟩ := hn
      rcases List.mem_cons.1 hp with rfl | hp
      · exact hw
      · exact absurd ⟨hop, p, hp, hw⟩ h
theorem fullStepped_kept {op : FullOp} {t : Team} {x : Nat → Word} {c w : Nat} : ∀ (es : List (Nat × Word)) (s : State),
    (∀ e ∈ es, (s.gangCrew t (padPlace t e.2).1).isSome = true) → (op = .ste → ∀ e ∈ es, padPlace t e.2 ≠ (c, w)) →
    padWord (s.fullStepped op t x es) t c w = padWord s t c w
  | [], s, _, _ => rfl
  | e :: es, s, hc, hn => by
    have hrest := fullStepped_kept (x := x) (c := c) (w := w) es (s.fullStep op t x e)
      (fun p hp => (windowsOnly_fullStep op t x s e).crews _ (hc p (List.mem_cons_of_mem e hp)))
      (fun hop p hp => hn hop p (List.mem_cons_of_mem e hp))
    rw [fullStepped_cons, hrest, fullStep_word (hc e List.mem_cons_self), if_neg fun h => hn h.1 e List.mem_cons_self h.2]
theorem fullStepped_stored {t : Team} {x : Nat → Word} {e : Nat × Word} : ∀ (es : List (Nat × Word)) (s : State),
    (∀ e ∈ es, (s.gangCrew t (padPlace t e.2).1).isSome = true) → es.Pairwise (fun a b => padPlace t a.2 ≠ padPlace t b.2) → e ∈ es →
    padWord (s.fullStepped .ste t x es) t (padPlace t e.2).1 (padPlace t e.2).2 = x e.1
  | p :: es, s, hc, hdist, he => by
    obtain ⟨hne, hdist⟩ := List.pairwise_cons.1 hdist
    have hc' : ∀ q ∈ es, ((s.fullStep .ste t x p).gangCrew t (padPlace t q.2).1).isSome = true :=
      fun q hq => (windowsOnly_fullStep .ste t x s p).crews _ (hc q (List.mem_cons_of_mem p hq))
    rw [fullStepped_cons]
    rcases List.mem_cons.1 he with rfl | he
    · rw [fullStepped_kept (c := (padPlace t e.2).1) (w := (padPlace t e.2).2) es _ hc' fun _ q hq => (hne q hq).symm, fullStep_word (hc e List.mem_cons_self), if_pos ⟨rfl, rfl⟩]
    · exact fullStepped_stored es _ hc' hdist he

/-- Lanes of which none has stepped. -/
theorem todo_all {α : Type} {t : Team} {es : List (Nat × α)} (h : ∀ e ∈ es, e.1 < 1024 ∧ t.done.getLsbD e.1 = false) : t.todo es = es := by
  unfold Team.todo
  refine List.filter_eq_self.2 fun e he => ?_
  obtain ⟨hlt, hbit⟩ := h e he
  have hlane : laneBit e.1 = 1#1024 <<< e.1 := if_neg (by unfold noLane; omega)
  rw [hlane, beq_iff_eq]
  apply BitVec.eq_of_getLsbD_eq
  intro i hi
  by_cases hei : i = e.1
  · subst hei
    simp [hbit]
  · have hbits : (1#1024 <<< e.1).getLsbD i = false := by
      simp
      omega
    rw [BitVec.getLsbD_and, hbits]
    simp

/-- A slot whose body's answer is known. -/
theorem slot_answers {s : State} {t : Team} {i : Instr} (hi : Issues s t i) {body : (r t : Team) → State → Res} {x : Res} (he : exec i s = slot i body s)
    (hb : body (t.viewAt s.clk) t s = x) : exec i s = slot i (fun _ _ _ => x) s := by
  rw [he, slot_issues hi, slot_issues hi, hb]

/-- The active lanes with their offsets. -/
def laneWords (r : Team) (a : RegNo) (disp : BitVec 10) : List (Nat × Word) := r.actives.map fun l => (l, laneOffset r a disp 4 l)

section
variable {op : FullOp} {s : State} {t : Team} {i : Instr} {d a : RegNo} {disp : BitVec 10} (hi : Issues s t i)
  (he : exec i s = fullEmpty op i d a disp s) (hroll : t.kernel.rollback = false)
  (hfit : ∀ l ∈ (t.viewAt s.clk).actives, s.inWindow t (laneOffset (t.viewAt s.clk) a disp 4 l) 4 = true ∧
    (laneOffset (t.viewAt s.clk) a disp 4 l).toNat % 4 = 0)

include hfit in
theorem laneWords_crews : ∀ e ∈ laneWords (t.viewAt s.clk) a disp, (s.gangCrew t (padPlace t e.2).1).isSome = true := fun e h => by
  obtain ⟨l, hl, rfl⟩ := List.mem_map.1 h
  exact Option.isSome_iff_exists.2 (gangCrew_of_inWindow (hfit l hl).1)
include hfit in
theorem laneWords_distinct (hdist : ∀ l ∈ (t.viewAt s.clk).actives, ∀ m ∈ (t.viewAt s.clk).actives, m ≠ l →
      decodeOffset t.crew (laneOffset (t.viewAt s.clk) a disp 4 m) ≠ decodeOffset t.crew (laneOffset (t.viewAt s.clk) a disp 4 l)) :
    (laneWords (t.viewAt s.clk) a disp).Pairwise fun x y => padPlace t x.2 ≠ padPlace t y.2 := by
  refine List.pairwise_map.2 ((actives_sorted (t.viewAt s.clk)).imp_of_mem fun {l m} hl hm hlt => ?_)
  exact padPlace_inj (hfit l hl).2 (hfit m hm).2 (hdist m hm l hl (by omega))

include hfit in
theorem laneWords_good : s.badOffset t (laneWords (t.viewAt s.clk) a disp) 4 4 = none := badOffset_none fun e h => by
  obtain ⟨l, hl, rfl⟩ := List.mem_map.1 h
  exact hfit l hl

include hi he hroll hfit in
/-- A full/empty slot where every active lane steps (R172). -/
theorem fullEmpty_steps (hdone : t.done = 0) (hkept : t.kept = [])
    (hready : ∀ l ∈ (t.viewAt s.clk).actives, s.isFull t (laneOffset (t.viewAt s.clk) a disp 4 l) = (op != .ste) ∧
      (op ≠ .ste → s.spadPoison t (laneOffset (t.viewAt s.clk) a disp 4 l) 1 = false))
    (hdist : ∀ l ∈ (t.viewAt s.clk).actives, ∀ m ∈ (t.viewAt s.clk).actives, m ≠ l →
      decodeOffset t.crew (laneOffset (t.viewAt s.clk) a disp 4 m) ≠ decodeOffset t.crew (laneOffset (t.viewAt s.clk) a disp 4 l)) :
    ∃ s2, PadsOnly s s2 t ∧
      s2.gangs = (s.fullStepped op t (fun l => (t.viewAt s.clk).V l d.toNat) (laneWords (t.viewAt s.clk) a disp)).gangs ∧
      exec i s = slot i (fun _ _ _ => if op == .ste then .done s2 else .later s2 3 (.values (laneWrites (t.viewAt s.clk).actives d fun l =>
        padWord s t (padPlace t (laneOffset (t.viewAt s.clk) a disp 4 l)).1 (padPlace t (laneOffset (t.viewAt s.clk) a disp 4 l)).2) 0)) s := by
  have htodo : t.todo (laneOffsets (t.viewAt s.clk) a disp 4) = laneWords (t.viewAt s.clk) a disp := todo_all fun e h => by
    obtain ⟨l, hl, rfl⟩ := List.mem_map.1 h
    exact ⟨actives_lt hl, by simp [hdone]⟩
  have hsteps := fullSteps_all op t d (fun l => (t.viewAt s.clk).V l d.toNat) (laneWords (t.viewAt s.clk) a disp) s (fun e h => by
    obtain ⟨l, hl, rfl⟩ := List.mem_map.1 h
    exact hready l hl) (laneWords_crews hfit) (laneWords_distinct hfit hdist)
  have hstep := windowsOnly_fullStepped s op t (fun l => (t.viewAt s.clk).V l d.toNat) (laneWords (t.viewAt s.clk) a disp)
  generalize s.fullStepped op t (fun l => (t.viewAt s.clk).V l d.toNat) (laneWords (t.viewAt s.clk) a disp) = s1 at hsteps hstep ⊢
  have hnote := noteWatch_watched (hstep.me.trans hi.1) t (laneWords (t.viewAt s.clk) a disp) 1 (op == .ste)
  refine ⟨if op == .ste || (laneWords (t.viewAt s.clk) a disp).isEmpty then s1.noteWatch t (laneWords (t.viewAt s.clk) a disp) 1 (op == .ste)
    else (s1.noteWatch t (laneWords (t.viewAt s.clk) a disp) 1 (op == .ste)).gangAcquire t, ?_, ?_, slot_answers hi he ?_⟩
  · split
    · exact hstep.then_pads hnote.padsOnly
    · exact (hstep.then_pads hnote.padsOnly).then_windows (windowsOnly_gangAcquire _ t)
  · split
    · exact hnote.gangs
    · exact (gangAcquire_gangs _ t).trans hnote.gangs
  · simp only [htodo, laneWords_good hfit, needsCheckpoint_plain hroll, hsteps, hkept, List.nil_append, List.isEmpty_nil, if_true, Bool.false_eq_true,
      if_false]
    cases op with
    | ste => rfl
    | ldf => exact congrArg (fun ws => Res.later _ 3 (.values ws 0)) (List.map_map ..)
    | ldfk => exact congrArg (fun ws => Res.later _ 3 (.values ws 0)) (List.map_map ..)

theorem laneWords_any (r : Team) (p : Nat × Nat) :
    (∃ e ∈ laneWords r a disp, padPlace t e.2 = p) ↔ ∃ l ∈ r.actives, padPlace t (laneOffset r a disp 4 l) = p := by
  unfold laneWords
  simp

include hi he hroll hfit

section
variable (hdone : t.done = 0) (hkept : t.kept = [])
    (hready : ∀ l ∈ (t.viewAt s.clk).actives, s.isFull t (laneOffset (t.viewAt s.clk) a disp 4 l) = (op != .ste) ∧
      (op ≠ .ste → s.spadPoison t (laneOffset (t.viewAt s.clk) a disp 4 l) 1 = false))
    (hdist : ∀ l ∈ (t.viewAt s.clk).actives, ∀ m ∈ (t.viewAt s.clk).actives, m ≠ l →
      decodeOffset t.crew (laneOffset (t.viewAt s.clk) a disp 4 m) ≠ decodeOffset t.crew (laneOffset (t.viewAt s.clk) a disp 4 l))
include hdone hkept hready hdist

/-- `ldf` and `ldfk` read the words of all active lanes (R172). -/
theorem fullEmpty_brings (hop : op ≠ .ste) {x : RegUse} {xs : List RegUse} (hx : i.writes = x :: xs) (ho : s.overfull i = false) :
    ∃ s' t' p ws, exec i s = .next s' ∧ s'.teams.find s.cur = some t' ∧ p ∈ t'.pends ∧ p.file = x.file ∧ p.n = x.n ∧ p.reason = 3 ∧
      p.data = .values ws 0 ∧ Carries ws (newLanes (t.viewAt s.clk) d fun l =>
        padWord s t (padPlace t (laneOffset (t.viewAt s.clk) a disp 4 l)).1 (padPlace t (laneOffset (t.viewAt s.clk) a disp 4 l)).2) ∧
      RegsAfter t t' newNothing ∧ t'.still = t.still ∧ StepsOn i t t' ∧ (∀ c w, padWord s' t c w = padWord s t c w) ∧
      (∀ c w, padFull s' t c w = if op ≠ .ldfk ∧ ∃ l ∈ (t.viewAt s.clk).actives, padPlace t (laneOffset (t.viewAt s.clk) a disp 4 l) = (c, w) then false
        else padFull s t c w) ∧ (Untraced s → SameMemory s s') := by
  obtain ⟨s2, hpads, hgangs, hexec⟩ := fullEmpty_steps hi he hroll hfit hdone hkept hready hdist
  obtain ⟨h, hme⟩ := hpads.me hi.1
  rw [if_neg (by simpa using hop)] at hexec
  obtain ⟨s', t', hnext, hfind, hp, hv, hs, hpr, -, hst, hon, hk⟩ := pends_of_later hi hexec rfl hme hpads.cur hx ho
  have hcrew := gangCrew_congr ((hk.gangs hroll).trans hgangs)
  refine ⟨s', t', _, _, hnext, hfind, hp, rfl, rfl, rfl, rfl, carries_laneWrites _ d _, regsAfter_of_files hv hs hpr, hst, hon, fun c w => ?_,
    fun c w => ?_, hk.sameMemory (untraced_of_contexts hpads.contexts) hpads.mem⟩
  · rw [padWord_congr (hcrew t c), fullStepped_kept _ s (laneWords_crews hfit) fun h => absurd h hop]
  · rw [padFull_congr (hcrew t c), fullStepped_full op t _ c w _ s (laneWords_crews hfit), beq_eq_false_iff_ne.2 hop]
    exact if_congr (and_congr Iff.rfl (laneWords_any _ _)) rfl rfl

/-- `ste` stores the word of every active lane and makes it full (R172). -/
theorem fullEmpty_stores (hop : op = .ste) (hx : i.writes = []) :
    ∃ s' t', exec i s = .next s' ∧ s'.teams.find s.cur = some t' ∧ GoesAs t t' (nextPc t.pc i.hasLit) ∧
      (∀ l ∈ (t.viewAt s.clk).actives, padWord s' t (padPlace t (laneOffset (t.viewAt s.clk) a disp 4 l)).1
        (padPlace t (laneOffset (t.viewAt s.clk) a disp 4 l)).2 = (t.viewAt s.clk).V l d.toNat) ∧
      (∀ c w, (∀ l ∈ (t.viewAt s.clk).actives, padPlace t (laneOffset (t.viewAt s.clk) a disp 4 l) ≠ (c, w)) → padWord s' t c w = padWord s t c w) ∧
      (∀ c w, padFull s' t c w = if ∃ l ∈ (t.viewAt s.clk).actives, padPlace t (laneOffset (t.viewAt s.clk) a disp 4 l) = (c, w) then true
        else padFull s t c w) ∧ (Untraced s → SameMemory s s') := by
  obtain ⟨s2, hpads, hgangs, hexec⟩ := fullEmpty_steps hi he hroll hfit hdone hkept hready hdist
  subst hop
  obtain ⟨s', t', hnext, hfind, hgoes, hg, -, -, hmem⟩ := padsLeft_of_done hi hexec rfl hpads hx hroll
  have hcrew := gangCrew_congr (hg.trans hgangs)
  refine ⟨s', t', hnext, hfind, hgoes, fun l hl => ?_, fun c w hn => ?_, fun c w => ?_, hmem⟩
  · rw [padWord_congr (hcrew t _)]
    exact fullStepped_stored (e := (l, laneOffset (t.viewAt s.clk) a disp 4 l)) _ s (laneWords_crews hfit) (laneWords_distinct hfit hdist)
      (List.mem_map.2 ⟨l, hl, rfl⟩)
  · rw [padWord_congr (hcrew t c), fullStepped_kept _ s (laneWords_crews hfit) fun _ e hm hw => ?_]
    obtain ⟨l, hl, rfl⟩ := List.mem_map.1 hm
    exact hn l hl hw
  · rw [padFull_congr (hcrew t c), fullStepped_full .ste t _ c w _ s (laneWords_crews hfit)]
    exact if_congr ((and_iff_right (by decide)).trans (laneWords_any _ _)) rfl rfl

end

/-- A full/empty slot of which no lane can step waits (R173). -/
theorem fullEmpty_waits (hslots : ∀ p ∈ t.slots, p.v = false)
    (hwait : ∀ l ∈ (t.viewAt s.clk).actives, s.isFull t (laneOffset (t.viewAt s.clk) a disp 4 l) ≠ (op != .ste) ∧ t.done.getLsbD l = false)
    (hsome : (t.viewAt s.clk).actives ≠ []) :
    ∃ s' t', exec i s = .next s' ∧ s'.teams.find s.cur = some t' ∧ t'.blk.isSome = true ∧ t'.pc = t.pc ∧ RegsAfter t t' newNothing ∧
      s'.gangs = s.gangs ∧ SameMemory s s' := by
  have htodo : t.todo (laneOffsets (t.viewAt s.clk) a disp 4) = laneWords (t.viewAt s.clk) a disp := todo_all fun e h => by
    obtain ⟨l, hl, rfl⟩ := List.mem_map.1 h
    exact ⟨actives_lt hl, (hwait l hl).2⟩
  have hsteps := fullSteps_none op t d (fun l => (t.viewAt s.clk).V l d.toNat) s (laneWords (t.viewAt s.clk) a disp) [] fun e h => by
    obtain ⟨l, hl, rfl⟩ := List.mem_map.1 h
    exact (hwait l hl).1
  have hne : (laneWords (t.viewAt s.clk) a disp).isEmpty = false := by
    unfold laneWords
    simpa using hsome
  have hstay : s.updMe (fun u => { u with done := t.done, kept := t.kept ++ [] }) = s.setTeam s.cur t := by
    rw [updMe_eq hi.1, List.append_nil]
  have hexec := slot_answers hi he (x := .block (s.setTeam s.cur t)
      (.words (op != .ste) ((laneWords (t.viewAt s.clk) a disp).map fun e => padPlace t e.2))) (by
    simp only [htodo, laneWords_good hfit, needsCheckpoint_plain hroll, hsteps, List.nil_append, List.isEmpty_nil, Bool.or_true, hne, if_true,
      Bool.false_eq_true, if_false]
    exact congrArg (Res.block · _) hstay)
  rw [slot_issues hi] at hexec
  change exec i s = .next (State.blockOn (s.setTeam s.cur t) _) at hexec
  rw [blockOn_alone (State.setTeam_me s t) hslots] at hexec
  exact ⟨_, _, hexec, SMap.find_insert_same _ _ _, rfl, rfl, regsAfter_of_files rfl rfl rfl, rfl, fun _ => rfl⟩

end

end Sys2Proof.Machine
end

section
/-! PROOF of O24. -/

namespace Sys2Proof
open Machine

/-- Settles O24. Loads read the windows as they stand. Stores and full/empty steps are changes of one crew after another, each of which says which
words and bits it changes; sorted lanes make the last store win, and distinct places make the full/empty steps independent of one another. -/
theorem scratchpad : Obligations.Scratchpad := by
  unfold Obligations.Scratchpad
  refine ⟨fun d a disp => ?_, fun d a disp => ?_⟩
  · intro off place fits load store
    have hload : ∀ (i : Instr) z, (z = 4 ∨ z = 8 ∨ z = 16) → (∀ s, exec i s = spadLoad i d a disp z s) → (∃ x xs, i.writes = x :: xs) → load i z := by
      intro i z hz he ⟨x, xs, hx⟩ s t hi ho hroll r hfit hclean
      exact ⟨_, spadLoad_brings hi hroll hfit (he s) hx ho hz hclean, carries_groups r d.toNat (z / 4) _⟩
    have hstore : ∀ (i : Instr) z, (∀ s, exec i s = spadStore i d a disp z s) → i.writes = [] → i.hasLit = false → store i z := by
      intro i z he hx hlit s t hi hroll r covers hfit
      obtain ⟨s1, h1, s', t', hexec, hfind, hgoes, hg, hgangs, hothers, hmem⟩ := spadStore_stores hi hroll hfit (he s) hx
      obtain ⟨hkept, hlast, hfull⟩ := padStored_spec h1 hg fun l hl => Option.isSome_iff_exists.2 (gangCrew_of_inWindow (hfit l hl).1)
      exact ⟨s', t', hexec, hfind, hlit ▸ hgoes, hkept, hlast, hfull, hgangs, hothers, hmem⟩
    exact ⟨hload _ 4 (by decide) (fun _ => rfl) ⟨_, _, rfl⟩, hload _ 8 (by decide) (fun _ => rfl) ⟨_, _, rfl⟩,
      hload _ 16 (by decide) (fun _ => rfl) ⟨_, _, rfl⟩, hstore _ 4 (fun _ => rfl) rfl rfl, hstore _ 8 (fun _ => rfl) rfl rfl,
      hstore _ 16 (fun _ => rfl) rfl rfl⟩
  · intro off place ready load
    have hload : ∀ (op : FullOp) (i : Instr) empties, op ≠ .ste → (op ≠ .ldfk ↔ empties = true) → (∀ s, exec i s = fullEmpty op i d a disp s) →
        (∃ x xs, i.writes = x :: xs ∧ x.file = .v ∧ x.n = d.toNat) → load i empties := by
      intro op i empties hop hemp he ⟨x, xs, hx, hfile, hn⟩ s t hi ho ⟨hdone, hkept, hroll, hready⟩
      obtain ⟨s', t', p, ws, hexec, hfind, hp, hpf, hpn, hr, hdata, hc, hregs, hst, hon, hword, hfull, hmem⟩ := fullEmpty_brings hi (he s) hroll
        (fun l hl => let ⟨hin, hal, _⟩ := hready l hl; ⟨hin, hal⟩) hdone hkept
        (fun l hl => let ⟨_, _, hbit, hclean, _⟩ := hready l hl; ⟨hbit.trans (bne_iff_ne.2 hop).symm, fun _ => hclean rfl⟩)
        (fun l hl => let ⟨_, _, _, _, hdist⟩ := hready l hl; hdist) hop hx ho
      exact ⟨s', t', p, ws, hexec, hfind, hp, hpf.trans hfile, hpn.trans hn, hr, hdata, hc, hregs, hst, hon, hword,
        fun c w => (hfull c w).trans (if_congr (and_congr hemp Iff.rfl) rfl rfl), hmem⟩
    refine ⟨hload .ldf _ true (by decide) (by decide) (fun _ => rfl) ⟨_, _, rfl, rfl, rfl⟩,
      hload .ldfk _ false (by decide) (by decide) (fun _ => rfl) ⟨_, _, rfl, rfl, rfl⟩, ?_, ?_⟩
    · intro s t hi ⟨hdone, hkept, hroll, hready⟩
      exact fullEmpty_stores hi (rfl : _ = execSte d a disp s) hroll (fun l hl => let ⟨hin, hal, _⟩ := hready l hl; ⟨hin, hal⟩)
        hdone hkept (fun l hl => let ⟨_, _, hbit, _, _⟩ := hready l hl; ⟨hbit, fun h => absurd rfl h⟩)
        (fun l hl => let ⟨_, _, _, _, hdist⟩ := hready l hl; hdist) rfl rfl
    · intro i full s t hop hi hroll hslots r hwait hsome
      have hstays : ∀ op, exec i s = fullEmpty op i d a disp s → full = (op != .ste) → _ := fun op he hf =>
        fullEmpty_waits (op := op) hi he hroll (fun l hl => let ⟨hin, hal, _⟩ := hwait l hl; ⟨hin, hal⟩) hslots
          (fun l hl => let ⟨_, _, hbit, hdone⟩ := hwait l hl; ⟨hf ▸ hbit, hdone⟩) hsome
      rcases hop with ⟨rfl | rfl, hf⟩ | ⟨rfl, hf⟩
      · exact hstays .ldf rfl hf
      · exact hstays .ldfk rfl hf
      · exact hstays .ste rfl hf

end Sys2Proof
end

section
/-! SUPPORT of O23: elements that all go through (R164, R293), and the accesses that they send (R257). -/

namespace Sys2Proof.Machine

/-- A look-up that goes through. -/
def Looked.good (k : Looked) : Bool := !(k.isMiss || k.isTrap || k.isFault)
theorem Seen.first_none {e : Seen} {p : Looked → Bool} (h : ∀ x ∈ e.2, p x.2 = false) : Seen.first e p = none := by
  unfold Seen.first
  rw [List.find?_eq_none.2 fun x hx => by simp [h x hx], Option.map_none]

theorem sight_go {t : Team} {s s1 : State} {a : Access} {w : Bool} {es : List Elem} {seen : List Seen} (ht : t.todo es = es)
    (hs : seeAll t a w es s = (seen, s1)) (hg : ∀ e ∈ seen, ∀ x ∈ e.2, x.2.good = true) : sight t s a w es = .go s1 seen none := by
  have hnone : ∀ p : Looked → Bool, (∀ k, k.good = true → p k = false) → ∀ e ∈ seen, Seen.first e p = none :=
    fun p hp e he => Seen.first_none fun x hx => hp _ (hg e he x hx)
  have hmiss := hnone Looked.isMiss fun k hk => by
    unfold Looked.good at hk
    simp only [Bool.not_eq_true', Bool.or_eq_false_iff] at hk
    exact hk.1.1
  have htrap := hnone Looked.isTrap fun k hk => by
    unfold Looked.good at hk
    simp only [Bool.not_eq_true', Bool.or_eq_false_iff] at hk
    exact hk.1.2
  have hfault := hnone Looked.isFault fun k hk => by
    unfold Looked.good at hk
    simp only [Bool.not_eq_true', Bool.or_eq_false_iff] at hk
    exact hk.2
  unfold sight
  rw [ht, hs]
  simp only [List.findSome?_eq_none_iff.2 hmiss, List.findSome?_eq_none_iff.2 htrap, List.findSome?_eq_none_iff.2 hfault]
  rw [List.filter_eq_self.2 fun e he => by rw [hfault e he]; rfl]

/-- Looking elements up claims frames, and changes nothing else (R294). -/
theorem claim_frames (s : State) (pa : Nat) (x : Translation) : ∃ f, s.claim pa x = { s with frames := f } := by
  unfold State.claim
  split
  · exact ⟨_, rfl⟩
  · exact ⟨s.frames, rfl⟩
theorem claimOf_frames (s : State) (k : Looked) : ∃ f, s.claimOf k = { s with frames := f } := by
  unfold State.claimOf
  split
  · exact claim_frames s _ _
  · exact ⟨s.frames, rfl⟩
theorem seeElem_frames (t : Team) (a : Access) (w : Bool) : ∀ (xs : List DWord) (s : State), ∃ f, (seeElem t a w xs s).2 = { s with frames := f }
  | [], s => ⟨s.frames, rfl⟩
  | x :: xs, s => by
    obtain ⟨f, hf⟩ := claimOf_frames s (lookFor s t a w x)
    obtain ⟨g, hg⟩ := seeElem_frames t a w xs (s.claimOf (lookFor s t a w x))
    exact ⟨g, hg.trans (by rw [hf])⟩
theorem seeAll_frames (t : Team) (a : Access) (w : Bool) : ∀ (es : List Elem) (s : State), ∃ f, (seeAll t a w es s).2 = { s with frames := f }
  | [], s => ⟨s.frames, rfl⟩
  | e :: es, s => by
    obtain ⟨f, hf⟩ := seeElem_frames t a w e.2 s
    obtain ⟨g, hg⟩ := seeAll_frames t a w es (seeElem t a w e.2 s).2
    exact ⟨g, hg.trans (by rw [hf])⟩

/-- The state with accesses behind what is on its way. -/
def State.sending (s : State) (ops : List Op) : State := { s with serial := s.serial + ops.length, traffic := s.traffic ++ ops }

theorem placeOf_good {s : State} {k : Looked} {p : Place} (h : placeOf s k = some p) : k.good = true := by
  cases k with
  | ok => rfl
  | window => rfl
  | miss => cases h
  | trap => cases h
  | fault => cases h

/-- The access that a lane sends. -/
def laneOp (s : State) (t : Team) (group unit : Nat) (addr : DWord) (p : Place) (n : Nat) (kind : OpKind) (dest : Option (RFile × Nat)) (k lane : Nat) : Op :=
  { serial := s.serial + k, team := s.cur, ctx := t.ctx, group := group, unit := unit, cluster := t.cluster, core := t.core, pc := t.pc
    va := addr.toNat, place := p, n := n, kind := kind, ord := none, dest := dest, lane := lane, seen := [], muted := none }

theorem issue_sends {s : State} {k : Looked} {p : Place} (h : placeOf s k = some p) (t : Team) (group unit : Nat) (addr : DWord) (n : Nat)
    (kind : OpKind) (dest : Option (RFile × Nat)) (lane : Nat) :
    s.issue t group unit addr k n kind none dest lane = s.sending [laneOp s t group unit addr p n kind dest 0 lane] := by
  unfold State.issue
  rw [h]
  rfl
theorem placeOf_sending (s : State) (ops : List Op) (k : Looked) : placeOf (s.sending ops) k = placeOf s k := by
  cases k with
  | ok => rfl
  | window => rfl
  | miss => rfl
  | trap => rfl
  | fault => rfl

/-- The elements of some lanes join the traffic in their order (R257). -/
theorem issueLanes_sends (t : Team) (group unit : Nat) (addr : Nat → DWord) (look : Nat → Looked) (place : Nat → Place) (n : Nat) (kind : OpKind)
    (dest : Option (RFile × Nat)) : ∀ (ls : List Nat) (s : State), (∀ l ∈ ls, placeOf s (look l) = some (place l)) →
    ls.foldl (fun (s : State) l => s.issue t group unit (addr l) (look l) n kind none dest l) s =
      s.sending (ls.mapIdx fun k l => laneOp s t group unit (addr l) (place l) n kind dest k l)
  | [], s, _ => by
    unfold State.sending
    simp
  | l :: ls, s, h => by
    have hrest := issueLanes_sends t group unit addr look place n kind dest ls (s.sending [laneOp s t group unit (addr l) (place l) n kind dest 0 l])
      fun m hm => (placeOf_sending _ _ _).trans (h m (List.mem_cons_of_mem l hm))
    rw [List.foldl_cons, issue_sends (h l List.mem_cons_self), hrest]
    unfold State.sending laneOp
    simp [List.mapIdx_cons, Nat.add_comm, Nat.add_left_comm]

end Sys2Proof.Machine
end

section
/-! SUPPORT of O23: the constant path (R174). -/

namespace Sys2Proof.Machine

theorem firstBad_none {es : List (Nat × DWord)} {z : Nat} (h : ∀ e ∈ es, addrCheck e.2 z = none) : firstBad es z = none := by
  unfold firstBad
  exact List.findSome?_eq_none_iff.2 fun e he => by rw [h e he, Option.map_none]

theorem todo_map {α : Type} {t : Team} (hd : t.done = 0) {ls : List Nat} (hl : ∀ l ∈ ls, l < 1024) (f : Nat → α) :
    t.todo (ls.map fun l => (l, f l)) = ls.map fun l => (l, f l) := todo_all fun e he => by
  obtain ⟨l, hm, rfl⟩ := List.mem_map.1 he
  exact ⟨hl l hm, by simp [hd]⟩

/-- The first attempt of a slot opens the group of its result (R165). -/
theorem openGroup_new {s : State} {t : Team} (hm : s.me = some t) (hd : t.done = 0) {i : Instr} {x : RegUse} {xs : List RegUse}
    (hx : i.writes = x :: xs) (reason : Nat) : s.openGroup t i (some reason) =
      ({ s.setTeam s.cur { t.dropFutures i.writes with
        pends := (t.dropFutures i.writes).pends ++ [⟨s.serial, x.file, x.n, x.cnt, reason, t.pc, .arriving, []⟩] } with serial := s.serial + 1 },
        s.serial) := by
  unfold State.openGroup Team.ownGroup State.markPending
  have hbit : (t.done == 0#1024) = true := beq_iff_eq.2 hd
  simp only [hbit, if_true, hm, hx]
  rfl

/-- An `ldc` whose elements all go through sends them (R174). -/
theorem execLdc_sends {s s1 : State} {t : Team} {d a : RegNo} {disp : BitVec 10} {look : Nat → Looked} {place : Nat → Place}
    (hi : Issues s t (.ldc d a disp))
    (hr : Reaches s s1 t .read false (t.viewAt s.clk).actives (fun l => (t.viewAt s.clk).V64 l a.toNat + dispOf disp 4) 4 look place) :
    ∃ u, u = { t.dropFutures (Instr.ldc d a disp).writes with
        pends := (t.dropFutures (Instr.ldc d a disp).writes).pends ++ [⟨s.serial, .v, d.toNat, 1, 1, t.pc, .arriving, []⟩] } ∧
      exec (.ldc d a disp) s = slot (.ldc d a disp) (fun _ _ _ => .done ({ s1.setTeam s.cur u with serial := s.serial + 1 }.sending
        (sentOps s t (t.viewAt s.clk).actives (fun l => (t.viewAt s.clk).V64 l a.toNat + dispOf disp 4) 4 place (fun _ => t.unit)
          (fun _ => .load .constant) none (some (.v, d.toNat)) id))) s := by
  obtain ⟨hfresh, hsome, haligned, hlooks, hplaces, hplain⟩ := hr
  obtain ⟨f, hf⟩ := seeAll_frames t .read false
    ((t.viewAt s.clk).actives.map fun l => (l, [(t.viewAt s.clk).V64 l a.toNat + dispOf disp 4])) s
  rw [hlooks] at hf
  have hs1 : s1 = { s with frames := f } := hf
  have htodo := fun (β : Type) => todo_map (α := β) hfresh (ls := (t.viewAt s.clk).actives) fun l hl => actives_lt hl
  have hgood : firstBad (t.todo (laneAddrs (t.viewAt s.clk) a disp 4)) 4 = none := by
    unfold laneAddrs
    rw [htodo]
    refine firstBad_none fun e he => ?_
    obtain ⟨l, hl, rfl⟩ := List.mem_map.1 he
    exact haligned l hl
  have hgo := sight_go (htodo _ _) hlooks fun e he x hx => by
    obtain ⟨l, hl, rfl⟩ := List.mem_map.1 he
    rw [List.mem_singleton.1 hx]
    exact placeOf_good (hplaces l hl)
  refine ⟨_, rfl, slot_answers hi (rfl : _ = execLdc d a disp s) ?_⟩
  have hopen := openGroup_new (s := s1) (by rw [hs1]; exact hi.1) hfresh (i := .ldc d a disp) rfl 1
  simp only [hgood]
  unfold accesses laneAddrs
  simp only [List.map_map, Function.comp_def, hgo, List.isEmpty_map, List.isEmpty_eq_false_iff.2 hsome, Bool.false_eq_true, if_false, hopen,
    List.foldl_map]
  refine congrArg Res.done ((issueLanes_sends t _ _ _ look place 4 _ _ _ _ fun l hl => ?_).trans ?_)
  · exact hplaces l hl
  · subst hs1
    rfl

/-- What is on its way to a register that is no future stays when a slot overwrites the register's futures (R22). -/
theorem mem_dropFutures {t : Team} {p : Pend} (h : p ∈ t.pends) (hp : p.isFuture = false) (us : List RegUse) : p ∈ (t.dropFutures us).pends :=
  List.mem_filter.2 ⟨h, by rw [hp]; rfl⟩

/-- `ldc` reads through the constant path (R174). -/
theorem ldc_reads (d a : RegNo) (disp : BitVec 10) : LaneReads (.ldc d a disp) d 4 false .constant fun r l => r.V64 l a.toNat + disp.signExtend 64 * 4 := by
  intro s s1 t look place hi r hr
  obtain ⟨u, hu, he⟩ := execLdc_sends hi hr
  obtain ⟨f, hf⟩ := seeAll_frames t .read false (r.actives.map fun l => (l, [r.V64 l a.toNat + dispOf disp 4])) s
  obtain ⟨hfresh, hsome, haligned, hlooks, hplaces, hplain⟩ := hr
  have hs1 : s1 = { s with frames := f } := (congrArg Prod.snd hlooks).symm.trans hf
  subst hs1
  obtain ⟨s', t', hexec, hfind, hregs, hfl, hp, hst, hon, hk⟩ := ends_of_done hi he rfl (State.setTeam_me _ u) rfl
  subst hu
  refine ⟨s', t', hexec, hfind, ⟨⟨fun k hne => (hk.others k hne).trans (State.setTeam_find_ne _ _ hne), hk.gangs hplain, hk.contexts⟩,
    (congrArg State.traffic hk.rest : s'.still.traffic = _), (congrArg State.caches hk.rest : s'.still.caches = _),
    fun un => (congrArg State.frames (hk.memory (untraced_of_contexts rfl un)) : s'.bare.frames = _), fun un => ?_, ?_⟩,
    hregs, hfl, hst, hon, ⟨⟨s.serial, .v, d.toNat, 1, 1, t.pc, .arriving, []⟩, ?_, rfl, rfl, rfl,
      List.mem_cons_self⟩⟩
  · have hm := hk.memory (untraced_of_contexts rfl un)
    exact ⟨(congrArg State.mem hm : s'.bare.mem = _), (congrArg State.poison hm : s'.bare.poison = _), (congrArg State.l2 hm : s'.bare.l2 = _)⟩
  · rw [hk.rest]
    rfl
  · rw [hp]
    exact mem_dropFutures (List.mem_append_right _ (List.mem_singleton_self _)) rfl _

end Sys2Proof.Machine
end

section
/-! SUPPORT of O23: what reading leaves (R281, R282). -/

namespace Sys2Proof.Machine

/-- A step that leaves the teams, the gangs, the contexts, and memory with its poison. -/
structure Reading (s s' : State) : Prop where
  teams : s'.teams = s.teams
  cur : s'.cur = s.cur
  gangs : s'.gangs = s.gangs
  contexts : s'.contexts = s.contexts
  mem : s'.mem = s.mem
  poison : s'.poison = s.poison

theorem Reading.refl (s : State) : Reading s s := ⟨rfl, rfl, rfl, rfl, rfl, rfl⟩
theorem Reading.trans {a b c : State} (h : Reading a b) (g : Reading b c) : Reading a c :=
  ⟨g.teams.trans h.teams, g.cur.trans h.cur, g.gangs.trans h.gangs, g.contexts.trans h.contexts, g.mem.trans h.mem, g.poison.trans h.poison⟩
theorem Reading.me {s s' : State} (h : Reading s s') : s'.me = s.me := by
  unfold State.me
  rw [h.teams, h.cur]
theorem Reading.poisoned {s s' : State} (h : Reading s s') (pa n : Nat) : s'.poisoned pa n = s.poisoned pa n := by
  unfold State.poisoned
  rw [h.poison]
theorem Reading.lineBytes {s s' : State} (h : Reading s s') (pa : Nat) : s'.lineBytes pa = s.lineBytes pa := by
  unfold State.lineBytes State.readNat State.readBytes
  rw [h.mem]

theorem reading_cacheRead (s : State) (kind : CacheKind) (unit ctx va pa n : Nat) (x : Translation) (fresh : BitVec 1024) :
    Reading s (s.cacheRead kind unit ctx va pa n x fresh).2 := by
  unfold State.cacheRead
  dsimp only
  split
  · exact .refl s
  · split
    · exact ⟨by simp, by simp, by simp, by simp, by simp, by simp⟩
    · exact ⟨by simp, by simp, by simp, by simp, by simp, by simp⟩
theorem reading_claimOf (s : State) (k : Looked) : Reading s (s.claimOf k) := by
  obtain ⟨f, hf⟩ := claimOf_frames s k
  rw [hf]
  exact ⟨rfl, rfl, rfl, rfl, rfl, rfl⟩
theorem reading_teamLoad (s : State) (t : Team) (addr : DWord) (n : Nat) (k : Looked) : Reading s (s.teamLoad t addr n k).1 := by
  unfold State.teamLoad
  split
  · unfold State.readNow
    dsimp only
    split
    · exact .refl s
    · exact reading_cacheRead s _ _ _ _ _ _ _ _
  · exact .refl s
theorem reading_of_teamLoad {s s' : State} {t : Team} {addr : DWord} {n : Nat} {k : Looked} {o : Option Nat} (h : s.teamLoad t addr n k = (s', o)) :
    Reading s s' := by
  have hread := reading_teamLoad s t addr n k
  rwa [h] at hread
/-- A descriptor slot is read. -/
theorem reading_readSlot {s s1 : State} {t : Team} {handle : Word} {lane reason n : Nat} (h : s.readSlot t handle lane reason = .ok (s1, n)) :
    Reading s s1 := by
  unfold State.readSlot at h
  split at h
  · cases h
  dsimp only at h
  split at h
  · cases h
  generalize lookFor s t .read false _ = x at h
  split at h
  · cases h
  · cases h
  · cases h
  · split at h
    · rename_i hload
      cases h
      exact (reading_claimOf s x).trans (reading_of_teamLoad hload)
    · cases h

end Sys2Proof.Machine
end

section
/-! SUPPORT of O23: texels read through the sampler path (R175, R176). -/

namespace Sys2Proof.Machine

/-- Bytes cut out of a line of memory. -/
theorem cut_lineBytes (s : State) {va pa n : Nat} (hp : pa % 128 = va % 128) (hn : va % 128 + n ≤ 128) :
    leBytes n ((s.lineBytes pa).toNat / 256 ^ (va % 128)) = (List.range n).map fun k => Memory.read s.mem (pa + k) := by
  have hbase : pa / 128 * 128 + va % 128 = pa := by omega
  have hlt : s.readNat (pa / 128 * 128) 128 < 2 ^ 1024 := by
    have h := leNat_lt (s.readBytes (pa / 128 * 128) 128)
    rwa [show 8 * (s.readBytes (pa / 128 * 128) 128).length = 1024 by simp [State.readBytes]] at h
  have hcut := leBytes_readNat s (pa / 128 * 128) 128 (va % 128) n hn
  rw [hbase] at hcut
  simp only [State.lineBytes, BitVec.toNat_ofNat, Nat.mod_eq_of_lt hlt, hcut]

theorem mem_fillLine {s : State} {l c : CacheLine} (h : c ∈ (s.fillLine l).caches) : c = l ∨ c ∈ s.caches := by
  unfold State.fillLine at h
  dsimp only at h
  split at h
  · exact List.mem_cons.1 h
  · rcases List.mem_cons.1 h with h | h
    · exact .inl h
    · split at h
      · exact .inr (List.mem_of_mem_erase h)
      · exact .inr h
theorem mem_cacheRead {s : State} {kind : CacheKind} {unit ctx va pa n : Nat} {x : Translation} {fresh : BitVec 1024} {c : CacheLine}
    (h : c ∈ (s.cacheRead kind unit ctx va pa n x fresh).2.caches) : (c.vline = va / 128 ∧ c.bytes = fresh) ∨ c ∈ s.caches := by
  unfold State.cacheRead at h
  dsimp only at h
  split at h
  · exact .inr h
  · split at h
    · rw [State.touchLine_caches] at h
      exact .inr h
    · rcases mem_fillLine h with rfl | h
      · exact .inl ⟨rfl, rfl⟩
      · rw [State.touchLine_caches] at h
        exact .inr h

/-- The texels at some addresses can be read: each lies within a line at a sound place, and what the sampler path holds of their lines is as in
memory. -/
structure Sampled (s : State) (t : Team) (n : Nat) (xs : List DWord) (pa : DWord → Nat) : Prop where
  place : ∀ x ∈ xs, pa x % 128 = x.toNat % 128
  inside : ∀ x ∈ xs, x.toNat % 128 + n ≤ 128
  lines : ∀ x ∈ xs, ∀ y ∈ xs, x.toNat / 128 = y.toNat / 128 → pa x / 128 = pa y / 128
  sound : ∀ x ∈ xs, s.poisoned (pa x) n = false
  held : ∀ c ∈ s.caches, c.kind = .sampler → c.unit = t.unit → c.ctx = t.ctx → ∀ x ∈ xs, c.vline = x.toNat / 128 → c.bytes = s.lineBytes (pa x)

section
variable {s : State} {t : Team} {n : Nat} {xs : List DWord} {pa : DWord → Nat} (h : Sampled s t n xs pa)
include h

theorem Sampled.cacheRead {y : DWord} (hy : y ∈ xs) (page : Translation) :
    (s.cacheRead .sampler t.unit t.ctx y.toNat (pa y) n page (s.lineBytes (pa y))).1 = (List.range n).map (fun k => Memory.read s.mem (pa y + k)) ∧
      Sampled (s.cacheRead .sampler t.unit t.ctx y.toNat (pa y) n page (s.lineBytes (pa y))).2 t n xs pa := by
  have hcut := cut_lineBytes s (h.place y hy) (h.inside y hy)
  have hread := reading_cacheRead s .sampler t.unit t.ctx y.toNat (pa y) n page (s.lineBytes (pa y))
  refine ⟨?_, h.place, h.inside, h.lines, fun x hx => (hread.poisoned _ _).trans (h.sound x hx), fun c hc hk hu hx x hm hv => ?_⟩
  · rw [← hcut]
    unfold State.cacheRead
    dsimp only
    split
    · rename_i l hl
      have hfound := List.find?_some hl
      simp only [Bool.and_eq_true, beq_iff_eq] at hfound
      obtain ⟨⟨⟨hk, hu⟩, hx⟩, hv⟩ := hfound
      rw [h.held l (List.mem_of_find?_eq_some hl) hk hu hx y hy hv]
    · split
      · rfl
      · rfl
  · rw [hread.lineBytes]
    rcases mem_cacheRead hc with ⟨hline, hbytes⟩ | hc
    · have hsame := h.lines x hm y hy (hv.symm.trans hline)
      rw [hbytes]
      unfold State.lineBytes
      rw [hsame]
    · exact h.held c hc hk hu hx x hm hv

/-- A texel is read. -/
theorem Sampled.pathLoad {y : DWord} (hy : y ∈ xs) (page : Translation) :
    ∃ s', s.pathLoad .sampler t y n (.ok (pa y) page) = (s', some (memNat s.mem (pa y) n)) ∧ Reading s s' ∧ Sampled s' t n xs pa := by
  obtain ⟨hbytes, hs'⟩ := h.cacheRead hy page
  refine ⟨_, ?_, reading_cacheRead s .sampler t.unit t.ctx y.toNat (pa y) n page (s.lineBytes (pa y)), hs'⟩
  unfold State.pathLoad
  simp only [h.sound y hy, Bool.false_and, Bool.false_eq_true, if_false, hbytes]
  rfl

end

/-- The texels of a sample are read in order (R176). -/
theorem readTexels_brings {t : Team} {fmt : Nat} {xs : List DWord} {pa : DWord → Nat} (page : DWord → Translation) :
    ∀ (ys : List DWord) (s : State), Sampled s t (texelSize fmt) xs pa → (∀ y ∈ ys, y ∈ xs) →
    ∃ s', s.readTexels t fmt (ys.map fun y => (y, .ok (pa y) (page y))) =
        (s', .ok (ys.map fun y => texel fmt (memNat s.mem (pa y) (texelSize fmt)))) ∧ Reading s s' ∧ Sampled s' t (texelSize fmt) xs pa
  | [], s, h, _ => ⟨s, rfl, .refl s, h⟩
  | y :: ys, s, h, hy => by
    obtain ⟨s1, hload, hread, h1⟩ := h.pathLoad (hy y List.mem_cons_self) (page y)
    obtain ⟨s2, hrest, hread2, h2⟩ := readTexels_brings page ys s1 h1 fun z hz => hy z (List.mem_cons_of_mem y hz)
    refine ⟨s2, ?_, hread.trans hread2, h2⟩
    rw [List.map_cons]
    unfold State.readTexels
    rw [hload]
    dsimp only
    rw [hrest, hread.mem]
    rfl

/-- Elements that are all performed, without flags. -/
theorem performAll_done {f : State → Nat → List (DWord × Looked) → Perf} {g : Seen → List RegWrite} {P : State → Prop} :
    ∀ (es : List Seen) (s : State) (ws : List RegWrite), (∀ e ∈ es, ∀ s, P s → ∃ s', f s e.1 e.2 = .ok s' (g e) 0 ∧ P s') → P s →
      ∃ s', performAll f es s ws 0 = .all s' (ws ++ es.flatMap g) 0 ∧ P s'
  | [], s, ws, _, h => ⟨s, by rw [List.flatMap_nil, List.append_nil]; rfl, h⟩
  | e :: es, s, ws, hf, h => by
    obtain ⟨s1, he, h1⟩ := hf e List.mem_cons_self s h
    obtain ⟨s2, hes, h2⟩ := performAll_done es s1 (ws ++ g e) (fun x hx => hf x (List.mem_cons_of_mem e hx)) h1
    refine ⟨s2, ?_, h2⟩
    unfold performAll
    rw [he]
    dsimp only
    rw [show (0 : BitVec 5) ||| 0 = 0 from rfl, hes, List.flatMap_cons, List.append_assoc]

/-- Elements that all go through and are all performed. -/
theorem genericMany_all {t : Team} {s s1 s2 : State} {a : Access} {w : Bool} {es : List Elem} {seen : List Seen} {ws : List RegWrite} {fl : BitVec 5}
    {f : State → Nat → List (DWord × Looked) → Perf} (hgo : sight t s a w es = .go s1 seen none) (hall : performAll f seen s1 [] 0 = .all s2 ws fl) :
    genericMany t s a w es f = .all s2 ws fl := by
  unfold genericMany
  simp only [hgo, hall]

end Sys2Proof.Machine
end

section
/-! SUPPORT of O23: `smp` (R175, R176). -/

namespace Sys2Proof.Machine

/-- A slot that issues and may halt with parts of it done has room on the scoreboard (R66). -/
theorem overfull_of_go {id : Nat} {i : Instr} {t : Team} {s : State} (h : slotCheck id i t s = .go) (hi : actsInParts i = true) : s.overfull i = false := by
  cases ho : s.overfull i with
  | false => rfl
  | true =>
    have hfull : (actsInParts i && s.overfull i) = true := by rw [hi, ho]; rfl
    unfold slotCheck at h
    simp only [hfull, if_true] at h
    repeat' split at h
    all_goals cases h

theorem texel_length (fmt x : Nat) : (texel fmt x).length = 4 := by
  unfold texel
  split
  · rfl
  · rfl
  · rfl
  · rfl
theorem sampleColour_length {ts : List (List Nat)} (h : ts ≠ []) (hl : ∀ a ∈ ts, a.length = 4) (α β : Num) : (sampleColour ts α β).length = 4 := by
  unfold sampleColour
  split
  · simp
  · exact hl _ List.mem_cons_self
  · exact absurd rfl h

/-- A texel of a sound record lies at a multiple of its size (R175). -/
theorem texelAddr_aligned {rec : Nat} (h : textureBad rec = false) (i j : Nat) : (texelAddr rec i j).toNat % texelSize (field rec 0x11 1) = 0 := by
  unfold textureBad at h
  simp only [Bool.or_eq_false_iff, bne_eq_false_iff_eq] at h
  obtain ⟨⟨⟨⟨⟨⟨⟨hbase, -⟩, -⟩, hpitch⟩, -⟩, -⟩, -⟩, -⟩ := h
  have hp : j * field rec 0x0C 4 % 16 = 0 := by rw [Nat.mul_mod, hpitch, Nat.mul_zero, Nat.zero_mod]
  unfold texelAddr
  rw [BitVec.toNat_ofNat]
  unfold texelSize
  split
  · omega
  · omega
theorem sampleTexels_aligned {rec : Nat} (h : textureBad rec = false) (u v : Word) :
    ∀ x ∈ (sampleTexels rec u v).1, x.toNat % texelSize (field rec 0x11 1) = 0 := by
  intro x hx
  unfold sampleTexels at hx
  dsimp only at hx
  split at hx
  · simp only [List.mem_cons, List.not_mem_nil, or_false] at hx
    rcases hx with rfl | rfl | rfl | rfl
    · exact texelAddr_aligned h _ _
    · exact texelAddr_aligned h _ _
    · exact texelAddr_aligned h _ _
    · exact texelAddr_aligned h _ _
  · rw [List.mem_singleton.1 hx]
    exact texelAddr_aligned h _ _
/-- A texel at a multiple of its size lies within a line. -/
theorem texel_inside {fmt x : Nat} (h : x % texelSize fmt = 0) : x % 128 + texelSize fmt ≤ 128 := by
  have hsize : texelSize fmt = 8 ∨ texelSize fmt = 4 := by
    unfold texelSize
    split
    · exact .inl rfl
    · exact .inr rfl
  rcases hsize with h8 | h4
  · rw [h8] at h ⊢
    omega
  · rw [h4] at h ⊢
    omega
theorem sampleTexels_some (rec : Nat) (u v : Word) : (sampleTexels rec u v).1 ≠ [] := by
  unfold sampleTexels
  dsimp only
  split
  · exact List.cons_ne_nil _ _
  · exact List.cons_ne_nil _ _

/-- The texels of a lane's sample with their weights. -/
def laneTexels (r : Team) (a : RegNo) (rec l : Nat) : List DWord × Num × Num := sampleTexels rec (r.V l a.toNat) (r.V l (a.toNat + 1))
/-- The colour of a lane's sample, its texels read from a memory at `pa`. -/
def laneColour (m : SMap Byte) (r : Team) (a : RegNo) (rec : Nat) (pa : DWord → Nat) (l : Nat) : List Nat :=
  sampleColour ((laneTexels r a rec l).1.map fun x => texel (field rec 0x11 1) (memNat m (pa x) (texelSize (field rec 0x11 1))))
    (laneTexels r a rec l).2.1 (laneTexels r a rec l).2.2
theorem laneColour_length (m : SMap Byte) (r : Team) (a : RegNo) (rec : Nat) (pa : DWord → Nat) (l : Nat) : (laneColour m r a rec pa l).length = 4 := by
  refine sampleColour_length (fun h => sampleTexels_some _ _ _ (List.map_eq_nil_iff.1 h)) (fun c hc => ?_) _ _
  obtain ⟨x, -, rfl⟩ := List.mem_map.1 hc
  exact texel_length _ _
theorem colour_writes {c : List Nat} (h : c.length = 4) (d l : Nat) : (c.mapIdx fun k x => (⟨.v, d + k, l, BitVec.ofNat 32 x⟩ : RegWrite)) =
    (List.range 4).map fun k => ⟨.v, d + k, l, BitVec.ofNat 32 (c.getD k 0)⟩ := by
  apply List.ext_getElem
  · simp [h]
  · intro k h1 h2
    have hk : k < c.length := by simpa using h1
    simp [hk]

/-- What `smp` does with the texels of a lane. -/
def sampleLane (t r : Team) (d a : RegNo) (rec : Nat) (s : State) (l : Nat) (xs : List (DWord × Looked)) : Perf :=
  match s.readTexels t (field rec 0x11 1) xs with
  | (s, .error a) => .poison s a
  | (s, .ok ts) => .ok s ((sampleColour ts (laneTexels r a rec l).2.1 (laneTexels r a rec l).2.2).mapIdx fun k c =>
      ⟨.v, d.toNat + k, l, BitVec.ofNat 32 c⟩) 0

theorem sampleLane_done {t r : Team} {d a : RegNo} {rec : Nat} {xs : List DWord} {pa : DWord → Nat} {s : State}
    (h : Sampled s t (texelSize (field rec 0x11 1)) xs pa) (page : DWord → Translation) {l : Nat} (hl : ∀ x ∈ (laneTexels r a rec l).1, x ∈ xs) :
    ∃ s', sampleLane t r d a rec s l ((laneTexels r a rec l).1.map fun x => (x, .ok (pa x) (page x))) =
        .ok s' ((List.range 4).map fun k => ⟨.v, d.toNat + k, l, BitVec.ofNat 32 ((laneColour s.mem r a rec pa l).getD k 0)⟩) 0 ∧
      Reading s s' ∧ Sampled s' t (texelSize (field rec 0x11 1)) xs pa := by
  obtain ⟨s', htexels, hread, hs'⟩ := readTexels_brings page (laneTexels r a rec l).1 s h hl
  refine ⟨s', ?_, hread, hs'⟩
  unfold sampleLane
  rw [htexels, ← colour_writes (laneColour_length _ _ _ _ _ _)]
  rfl

/-- A sample is on its way to the destination (R176). -/
theorem execSmp_loads {s s1 s2 : State} {t : Team} {d a b : RegNo} {rec : Nat} {pa : DWord → Nat} {page : DWord → Translation} {xs : List DWord}
    (hi : Issues s t (.smp d a b)) (hdone : t.done = 0) (hroll : t.kernel.rollback = false)
    (hslot : s.readSlot t ((t.viewAt s.clk).S b.toNat) ((t.viewAt s.clk).actives.headD 0) 1 = .ok (s1, rec))
    (hstale : slotStale rec ((t.viewAt s.clk).S b.toNat) 1 = false) (hbad : textureBad rec = false)
    (hsee : seeAll t .read false ((t.viewAt s.clk).actives.map fun l => (l, (laneTexels (t.viewAt s.clk) a rec l).1)) s1 =
      ((t.viewAt s.clk).actives.map fun l => (l, (laneTexels (t.viewAt s.clk) a rec l).1.map fun x => (x, .ok (pa x) (page x))), s2))
    (hs : Sampled s2 t (texelSize (field rec 0x11 1)) xs pa)
    (hxs : ∀ l ∈ (t.viewAt s.clk).actives, ∀ x ∈ (laneTexels (t.viewAt s.clk) a rec l).1, x ∈ xs) :
    Loads s t (.smp d a b) 1 fun file k l =>
      if file = .v ∧ d.toNat ≤ k ∧ k < d.toNat + 4 ∧ l < (t.viewAt s.clk).lanes ∧ (t.viewAt s.clk).ex.getLsbD l = true then
        some (BitVec.ofNat 32 ((laneColour s.mem (t.viewAt s.clk) a rec pa l).getD (k - d.toNat) 0)) else none := by
  have hread2 : Reading s s2 := by
    obtain ⟨f, hf⟩ := seeAll_frames t .read false ((t.viewAt s.clk).actives.map fun l => (l, (laneTexels (t.viewAt s.clk) a rec l).1)) s1
    rw [hsee] at hf
    have hs2 : s2 = { s1 with frames := f } := hf
    exact (reading_readSlot hslot).trans (hs2 ▸ ⟨rfl, rfl, rfl, rfl, rfl, rfl⟩)
  have hgo := sight_go (todo_map hdone (fun l hl => actives_lt hl) _) hsee fun e he x hx => by
    obtain ⟨l, hl, rfl⟩ := List.mem_map.1 he
    obtain ⟨y, hy, rfl⟩ := List.mem_map.1 hx
    rfl
  obtain ⟨s3, hall, hread3, -⟩ := performAll_done (f := sampleLane t (t.viewAt s.clk) d a rec)
    (g := fun e => (List.range 4).map fun k => ⟨.v, d.toNat + k, e.1, BitVec.ofNat 32 ((laneColour s.mem (t.viewAt s.clk) a rec pa e.1).getD k 0)⟩)
    (P := fun s' => Reading s s' ∧ Sampled s' t (texelSize (field rec 0x11 1)) xs pa)
    ((t.viewAt s.clk).actives.map fun l => (l, (laneTexels (t.viewAt s.clk) a rec l).1.map fun x => (x, .ok (pa x) (page x)))) s2 [] (fun e he s4 h4 => by
      obtain ⟨l, hl, rfl⟩ := List.mem_map.1 he
      obtain ⟨s5, h5, hread5, hs5⟩ := sampleLane_done (d := d) h4.2 page (hxs l hl)
      rw [h4.1.mem] at h5
      exact ⟨s5, h5, h4.1.trans hread5, hs5⟩) ⟨hread2, hs⟩
  rw [List.nil_append, List.flatMap_map] at hall
  have hexec := slot_answers hi (rfl : _ = execSmp d a b s) (x := .later s3 1 (.values ((t.viewAt s.clk).actives.flatMap fun l =>
      (List.range 4).map fun k => ⟨.v, d.toNat + k, l, BitVec.ofNat 32 ((laneColour s.mem (t.viewAt s.clk) a rec pa l).getD k 0)⟩) 0)) (by
    simp only [hslot, hstale, hbad, Bool.or_self, Bool.false_eq_true, if_false]
    rw [List.map_map]
    exact congrArg (Acc.toLoad · 1) (genericMany_all hgo hall))
  obtain ⟨s', t', hnext, hfind, hp, hv, hsr, hpr, hf, hst, hon, hk⟩ :=
    pends_of_later hi hexec rfl (hread3.me.trans hi.1) hread3.cur rfl (overfull_of_go hi.2 rfl)
  exact ⟨s', t', _, _, hnext, hfind, hp, List.mem_cons_self, rfl, rfl, carries_groups _ d.toNat 4 _, regsAfter_of_files hv hsr hpr, hf, hst, hon,
    ⟨fun k hne => (hk.others k (by rw [hread3.cur]; exact hne)).trans (by rw [hread3.teams]), (hk.gangs hroll).trans hread3.gangs,
      fun c => (hk.contexts c).trans (by rw [hread3.contexts])⟩, hk.sameMemory (untraced_of_contexts hread3.contexts) hread3.mem⟩

end Sys2Proof.Machine
end

section
/-! PROOF of O23. -/

namespace Sys2Proof
open Machine

/-- Settles O23. The elements of an `ldc` all go through and join the traffic. A sample's texels are read one after another, and a line that the sampler
path takes for one of them holds what memory has for the others of that line. -/
theorem readOnlyPaths : Obligations.ReadOnlyPaths := by
  unfold Obligations.ReadOnlyPaths
  refine ⟨ldc_reads, ?_⟩
  intro d a b s t s1 s2 rec pa page hi hdone hroll r texels n hslot hstale hbad hsee htexels
  have hframes : ∃ f, s2 = { s1 with frames := f } := by
    obtain ⟨f, hf⟩ := seeAll_frames t .read false (r.actives.map fun l => (l, (texels l).1)) s1
    exact ⟨f, (congrArg Prod.snd hsee).symm.trans hf⟩
  obtain ⟨f, hs2⟩ := hframes
  refine execSmp_loads (xs := r.actives.flatMap fun l => (texels l).1) hi hdone hroll hslot hstale hbad hsee ?_
    fun l hl x hx => List.mem_flatMap.2 ⟨l, hl, hx⟩
  subst hs2
  have hof : ∀ x ∈ r.actives.flatMap fun l => (texels l).1, ∃ l ∈ r.actives, x ∈ (texels l).1 := fun x hx => List.mem_flatMap.1 hx
  refine ⟨fun x hx => ?_, fun x hx => ?_, fun x hx y hy => ?_, fun x hx => ?_, fun c hc hk hu hctx x hx hv => ?_⟩
  · obtain ⟨l, hl, hxl⟩ := hof x hx
    obtain ⟨-, hplace, -, -⟩ := htexels l hl x hxl
    exact hplace
  · obtain ⟨l, -, hxl⟩ := hof x hx
    exact texel_inside (sampleTexels_aligned hbad _ _ x hxl)
  · obtain ⟨l, hl, hxl⟩ := hof x hx
    obtain ⟨m, hm, hym⟩ := hof y hy
    obtain ⟨-, -, -, hsame⟩ := htexels l hl x hxl
    exact hsame m hm y hym
  · obtain ⟨l, hl, hxl⟩ := hof x hx
    obtain ⟨hsound, -, -, -⟩ := htexels l hl x hxl
    exact hsound
  · obtain ⟨l, hl, hxl⟩ := hof x hx
    obtain ⟨-, -, hline, -⟩ := htexels l hl x hxl
    exact absurd (by simp [hk, hu, hctx, hv]) (List.find?_eq_none.1 hline c hc)

end Sys2Proof
end

section
/-! SUPPORT of O9: the bodies of `ssel` and `smov` (R22, R204, R205). -/

namespace Sys2Proof.Machine

/-! What the dispatcher runs for each instruction of a uniform result (R204, R205). -/

theorem exec_sadd (d a : RegNo) (o : OpU) : exec (.sadd d a o) = execSadd d a o := rfl
theorem exec_ssub (d a : RegNo) (o : OpU) : exec (.ssub d a o) = execSsub d a o := rfl
theorem exec_smul (d a : RegNo) (o : OpU) : exec (.smul d a o) = execSmul d a o := rfl
theorem exec_smulhi (d a : RegNo) (o : OpU) (u : Bool) : exec (.smulhi d a o u) = execSmulhi d a o u := rfl
theorem exec_smin (d a : RegNo) (o : OpU) (u : Bool) : exec (.smin d a o u) = execSmin d a o u := rfl
theorem exec_smax (d a : RegNo) (o : OpU) (u : Bool) : exec (.smax d a o u) = execSmax d a o u := rfl
theorem exec_saddi (d a : RegNo) (imm : BitVec 10) : exec (.saddi d a imm) = execSaddi d a imm := rfl
theorem exec_smovi (d : RegNo) (imm : BitVec 17) : exec (.smovi d imm) = execSmovi d imm := rfl
theorem exec_slea (d a : RegNo) (o : OpU) (u : Bool) : exec (.slea d a o u) = execSlea d a o u := rfl
theorem exec_scmp (d a : RegNo) (o : OpL) (c : BitVec 3) : exec (.scmp d a o c) = execScmp d a o c := rfl
theorem exec_sand (d a : RegNo) (o : OpU) : exec (.sand d a o) = execSand d a o := rfl
theorem exec_sor (d a : RegNo) (o : OpU) : exec (.sor d a o) = execSor d a o := rfl
theorem exec_sxor (d a : RegNo) (o : OpU) : exec (.sxor d a o) = execSxor d a o := rfl
theorem exec_sandn (d a : RegNo) (o : OpU) : exec (.sandn d a o) = execSandn d a o := rfl
theorem exec_sshl (d a : RegNo) (o : OpU) : exec (.sshl d a o) = execSshl d a o := rfl
theorem exec_sshr (d a : RegNo) (o : OpU) : exec (.sshr d a o) = execSshr d a o := rfl
theorem exec_ssar (d a : RegNo) (o : OpU) : exec (.ssar d a o) = execSsar d a o := rfl
theorem exec_sbfx (d a : RegNo) (o : OpU) (u : Bool) : exec (.sbfx d a o u) = execSbfx d a o u := rfl
theorem exec_sbfi (d a : RegNo) (o : OpU) : exec (.sbfi d a o) = execSbfi d a o := rfl
theorem exec_spopc (d a : RegNo) : exec (.spopc d a) = execSpopc d a := rfl
theorem exec_sclz (d a : RegNo) : exec (.sclz d a) = execSclz d a := rfl

/-- `ssel` writes one of two registers (R205). -/
theorem exec_ssel (d a b : RegNo) : exec (.ssel d a b) = fun s =>
    uniFixed (.ssel d a b) 2 (fun r => uniWrite d (if r.S b.toNat = 0 then r.S d.toNat else r.S a.toNat)) s := by
  have hpick : (fun r : Team => if r.S b.toNat != 0 then uniWrite d (r.S a.toNat) else uniWrite d (r.S d.toNat)) =
      fun r => uniWrite d (if r.S b.toNat = 0 then r.S d.toNat else r.S a.toNat) := by
    funext r
    by_cases h : r.S b.toNat = 0
    · rw [if_pos h, if_neg fun hne => bne_iff_ne.1 hne h]
    · rw [if_neg h, if_pos (bne_iff_ne.2 h)]
  have he : exec (.ssel d a b) = execSsel d a b := rfl
  rw [he, ← hpick]
  rfl

section
variable {d b : RegNo} {s : State} {t : Team}

theorem execSmov_literal {w : Word} (h : Issues s t (.smov d (.lit w))) : Gives s t (.smov d (.lit w)) (newUni d w) 0 :=
  gives_of_fixed h (rfl : _ = execSmov d (.lit w) s) rfl (carries_uniWrite d w)

theorem execSmov_free (h : Issues s t (.smov d (.reg b))) (hp : t.pendOf .s b.toNat = none) :
    Gives s t (.smov d (.reg b)) (newUni d ((t.viewAt s.clk).S b.toNat)) 0 :=
  gives_of_fixed (lat := 2) h (rfl : _ = execSmov d (.reg b) s) (by simp only [hp]) (carries_uniWrite d _)

/-- A move of a pending future leaves its handle and its pending mark, without blocking (R22). -/
theorem execSmov_future {p : Pend} (h : Issues s t (.smov d (.reg b))) (hp : t.pendOf .s b.toNat = some p) (hf : p.isFuture = true)
    (ho : s.overfull (.smov d (.reg b)) = false) : ∃ s' t' q, exec (.smov d (.reg b)) s = .next s' ∧ s'.teams.find s.cur = some t' ∧
      RegsAfter t t' (newUni d (t.S b.toNat)) ∧ q ∈ t'.pends ∧ q.file = .s ∧ q.n = d.toNat ∧ q.cnt = 1 ∧ q.data = .future ∧
      t'.fstat = t.fstat ∧ t'.still = t.still ∧ StepsOn (.smov d (.reg b)) t t' ∧ RestKept s s' t := by
  have hu := onlyRegs_landS t d (t.S b.toNat)
  obtain ⟨s', t', q, hexec, hfind, hregs, hq, hfile, hn, hcnt, hdata, hfl, hst, hon, hk⟩ :=
    pends_of_handle (s1 := s.setTeam s.cur (t.landS d.toNat (t.S b.toNat))) h (rfl : _ = execSmov d (.reg b) s)
      (by simp only [hp, hf, if_true, updMe_eq h.1]) (State.setTeam_me s _) rfl hu rfl ho
  exact ⟨s', t', q, hexec, hfind, hregs, hq, hfile, hn, hcnt, hdata, hfl, hst, hon, hk.of_setTeam (still_kernel hu.still)⟩

end

end Sys2Proof.Machine
end

section
/-! PROOF of O9. -/

namespace Sys2Proof
open Machine

/-- Settles O9: the functions on exact integers are those of the lanes (R204), and a move is one of three. -/
theorem uniformAlu : Obligations.UniformAlu := by
  unfold Obligations.UniformAlu
  refine ⟨⟨fun d a o => fix_uni (exec_sadd d a o) fun _ => add_eq_ofInt _ _,
      fun d a o => fix_uni (exec_ssub d a o) fun _ => sub_eq_ofInt _ _,
      fun d a o => fix_uni (exec_smul d a o) fun _ => mul_eq_ofInt _ _,
      fun d a o u => fix_uni (exec_smulhi d a o u) fun _ => mulHi_eq_ofInt u _ _,
      fun d a o u => fix_uni (exec_smin d a o u) fun _ => minW_eq_ofInt u _ _,
      fun d a o u => fix_uni (exec_smax d a o u) fun _ => maxW_eq_ofInt u _ _,
      fun d a imm => fix_uni (exec_saddi d a imm) fun _ => add_sext_eq_ofInt _ imm,
      fun d imm => fix_uni (exec_smovi d imm) fun _ => rfl,
      fun d a o u => fix_uni64 (exec_slea d a o u) fun _ => rfl,
      fun d a b => fix_uni (exec_ssel d a b) fun _ => rfl,
      fun d a o c => fix_uni (exec_scmp d a o c) fun _ => rfl⟩,
    ⟨fun d a o => fix_uni (exec_sand d a o) fun _ => rfl,
      fun d a o => fix_uni (exec_sor d a o) fun _ => rfl,
      fun d a o => fix_uni (exec_sxor d a o) fun _ => rfl,
      fun d a o => fix_uni (exec_sandn d a o) fun _ => rfl,
      fun d a o => fix_uni (exec_sshl d a o) fun _ => shlW_eq_mul _ _,
      fun d a o => fix_uni (exec_sshr d a o) fun _ => shrW_eq_div _ _,
      fun d a o => fix_uni (exec_ssar d a o) fun _ => sarW_eq_div _ _,
      fun d a o u => fix_uni (exec_sbfx d a o u) fun _ => rfl,
      fun d a o => fix_uni (exec_sbfi d a o) fun _ => rfl,
      fun d a => fix_uni (exec_spopc d a) fun _ => rfl,
      fun d a => fix_uni (exec_sclz d a) fun _ => rfl⟩,
    fun d w s t h => execSmov_literal h, fun d b s t h hp => execSmov_free h hp, fun d b s t p h hp hf ho => execSmov_future h hp hf ho⟩

end Sys2Proof
end

section
/-! SUPPORT of O10: values for lanes of a predicate, in or out of EX (R212, R213), and `sget` (R214). -/

namespace Sys2Proof.Machine

/-- A lane beyond the last of a mask changes no bit of it. -/
theorem putLane_beyond (m : Mask) {l : Nat} (b : Bool) (hl : 1024 ≤ l) : putLane m l b = m := by
  have hshift : (1#1024) <<< l = 0#1024 := BitVec.shiftLeft_eq_zero hl
  unfold putLane
  rw [hshift]
  cases b with
  | true => exact BitVec.or_zero
  | false =>
    rw [if_neg Bool.false_ne_true, BitVec.not_zero, BitVec.and_allOnes]

/-- A predicate after the bit of one lane has arrived. -/
theorem reg_put_pred (t : Team) (n l : Nat) (b : Bool) (file : RFile) (m : Nat) {k : Nat} (hk : k < 1024) :
    (t.put ⟨.p, n, l, if b then 1 else 0⟩).reg file m k =
      if file = .p ∧ m = n ∧ k = l then (if b then 1 else 0) else t.reg file m k := by
  obtain hl | hl := Nat.lt_or_ge l 1024
  · rw [Team.reg_put t _ file m k hl hk]
    cases file <;> cases b <;> simp
  · have hlane : ¬ (file = .p ∧ m = n ∧ k = l) := fun he => by omega
    rw [if_neg hlane]
    cases file with
    | v => rfl
    | s => rfl
    | p =>
      simp only [Team.put, Team.reg, putLane_beyond _ _ hl, Team.P_setP]
      by_cases hm : m = n
      · rw [if_pos hm, hm]
      · rw [if_neg hm]

/-- Bits of a predicate for some lanes. -/
theorem reg_puts_preds (n : Nat) (f : Nat → Bool) (file : RFile) (m : Nat) {k : Nat} (hk : k < 1024) : ∀ (ls : List Nat) (t : Team),
    (t.puts (ls.map fun l => ⟨.p, n, l, if f l then 1 else 0⟩)).reg file m k =
      if file = .p ∧ m = n ∧ k ∈ ls then (if f k then 1 else 0) else t.reg file m k
  | [], t => by simp [Team.puts]
  | l :: ls, t => by
    refine (reg_puts_preds n f file m hk ls (t.put ⟨.p, n, l, if f l then 1 else 0⟩)).trans ?_
    rw [reg_put_pred t n l (f l) file m hk]
    by_cases hm : file = .p ∧ m = n
    · obtain ⟨rfl, rfl⟩ := hm
      by_cases hl : k = l
      · simp [hl]
      · simp [hl]
    · have hpred : ∀ q : Prop, ¬ (file = .p ∧ m = n ∧ q) := fun q he => hm ⟨he.1, he.2.1⟩
      simp only [hpred, if_false]

/-- `exsave` writes the bits of EX of every lane of the team (R212). -/
theorem carries_lanesOfTeam (r : Team) (d : RegNo) : Carries (predWrites (List.range r.lanes) d fun l => r.ex.getLsbD l) fun file n l =>
    if file = .p ∧ n = d.toNat ∧ l < r.lanes then some (if r.ex.getLsbD l then 1 else 0) else none := by
  intro t file n l hl
  refine (reg_puts_preds d.toNat (fun l => r.ex.getLsbD l) file n hl (List.range r.lanes) t).trans ?_
  simp only [List.mem_range]
  split
  · rfl
  · rfl

/-- The predicate bits that `pfill` writes: those of one mask word, where the team has lanes in it (R213). -/
def fillWrites (d : RegNo) (w lanes : Nat) (x : Word) : List RegWrite :=
  if 32 * w < lanes then (List.range 32).map fun p => ⟨.p, d.toNat, 32 * w + p, if x.getLsbD p then 1 else 0⟩ else []
/-- Lane `l` is lane `l % 32` of its group. -/
theorem carries_fillWrites (d : RegNo) (w lanes : Nat) (x : Word) : Carries (fillWrites d w lanes x) fun file m l =>
    if file = .p ∧ m = d.toNat ∧ l / 32 = w ∧ 32 * w < lanes then some (if x.getLsbD (l % 32) then 1 else 0) else none := by
  intro t file m l hl
  unfold fillWrites
  split
  next hw =>
    have hlanes : ((List.range 32).map fun p => (⟨.p, d.toNat, 32 * w + p, if x.getLsbD p then 1 else 0⟩ : RegWrite)) =
        ((List.range 32).map (32 * w + ·)).map fun l => ⟨.p, d.toNat, l, if x.getLsbD (l % 32) then 1 else 0⟩ := by
      rw [List.map_map]
      refine List.map_congr_left fun p hp => ?_
      have := List.mem_range.1 hp
      rw [Function.comp_apply, show (32 * w + p) % 32 = p by omega]
    have hmem : l ∈ (List.range 32).map (32 * w + ·) ↔ l / 32 = w := by
      simp only [List.mem_map, List.mem_range]
      exact ⟨fun ⟨p, hp, he⟩ => by omega, fun h => ⟨l % 32, by omega, by omega⟩⟩
    rw [hlanes, reg_puts_preds d.toNat (fun l => x.getLsbD (l % 32)) file m hl]
    simp only [hmem, hw, and_true]
    split
    · rfl
    · rfl
  next hw =>
    simp only [hw, and_false, if_false]
    rfl

theorem exec_pfill (d a : RegNo) (n : Selr) (s : State) : exec (.pfill d a n) s =
    slot (.pfill d a n) (fun r _ s => .fixed s 2 (fillWrites d (r.selr n 5) r.lanes (r.S a.toNat)) 0) s := rfl

section
variable {d a : RegNo} {n : Selr} {s : State} {t : Team}

/-- `sget` of a register that is not pending gives the word of one lane (R214). -/
theorem execSget_gives (h : Issues s t (.sget d a n)) (hp : t.pendOf .v a.toNat = none) : Gives s t (.sget d a n)
    (newUni d (if (t.viewAt s.clk).selr n 10 < (t.viewAt s.clk).lanes then (t.viewAt s.clk).V ((t.viewAt s.clk).selr n 10) a.toNat else 0)) 0 :=
  gives_of_fixed (lat := 4) h (rfl : _ = execSget d a n s) (by simp only [hp]) (carries_uniWrite d _)
/-- `sget` of a pending register waits for it (R214). -/
theorem execSget_pends {p : Pend} (h : Issues s t (.sget d a n)) (hp : t.pendOf .v a.toNat = some p) (ho : s.overfull (.sget d a n) = false) :
    PendsIn s s t (.sget d a n) 12 (.laneOf a.toNat ((t.viewAt s.clk).selr n 10)) :=
  pendsIn_of_later h (rfl : _ = execSget d a n s) (by simp only [hp]) h.1 rfl rfl ho

end

/-- A uniform instruction that reads a mask (R225). -/
theorem fix_maskRead {i : Instr} {d : RegNo} {f : Team → Word} (he : exec i = maskRead i d f) : Fixed i fun r => uni d (f r) :=
  fun _ _ h => gives_of_fixed h (by rw [he]; rfl) rfl (carries_uniWrite d _)

end Sys2Proof.Machine
end

section
/-! PROOF of O10. -/

namespace Sys2Proof
open Machine

/-- Settles O10: an instruction that writes EX is one change of its team, and one that reads a mask gives a result of fixed latency, but for
the `sget` of a pending register. -/
theorem masks : Obligations.Masks := by
  unfold Obligations.Masks
  refine ⟨⟨fun a s t h => leaves_of_teamOp h (rfl : _ = execExset a s) rfl, fun a s t h => leaves_of_teamOp h (rfl : _ = execExand a s) rfl,
      fun a s t h => leaves_of_teamOp h (rfl : _ = execExandn a s) rfl, fun s t h => leaves_of_teamOp h (rfl : _ = execExall s) rfl,
      fun s t h => leaves_of_teamOp h (rfl : _ = execYld s) rfl⟩,
    fun d s t h => gives_of_fixed h (rfl : _ = execExsave d s) rfl (carries_lanesOfTeam _ d), fun d => fix_maskRead rfl, fun d a => fix_maskRead rfl,
    fun d a n => fix_maskRead rfl, fun d a n s t h => gives_of_fixed h (exec_pfill d a n s) rfl (carries_fillWrites d _ _ _),
    fun d a n s t h hp => execSget_gives h hp, fun d a n s t p h hp ho => execSget_pends h hp ho⟩

end Sys2Proof
end

section
/-! SUPPORT of O11: branches, and the link of a call (R220, R221). -/

namespace Sys2Proof.Machine

/-- A slot whose body transfers control and changes nothing else. -/
theorem leaves_of_transfer {s : State} {t : Team} {i : Instr} (h : Issues s t i) {body : (r t : Team) → State → Res} {pc : Word}
    {code detail : Nat} (he : exec i s = slot i body s) (hb : body (t.viewAt s.clk) t s = .moved s pc code detail) : Leaves s i t pc :=
  ⟨_, by rw [he, slot_issues h, hb], onward_of_moved h.1 i pc code detail⟩

/-- A branch goes to its target where its condition holds, and on otherwise (R220). -/
theorem leaves_of_branch {n : Nat} {s : State} {t : Team} {i : Instr} (h : Issues s t i) {imm : BitVec n} {taken : (r t : Team) → Bool}
    (he : exec i s = branch i imm taken s) (hw : i.writes = []) (hl : i.hasLit = false) : Leaves s i t
      (if taken (t.viewAt s.clk) t = true then bundleOf t.pc + 16 * imm.signExtend 32 + 4 else nextPc t.pc false) := by
  cases hx : taken (t.viewAt s.clk) t with
  | true => exact leaves_of_transfer h he (if_pos hx)
  | false =>
    have hon := leaves_of_nothing h he (if_neg (by rw [hx]; exact Bool.false_ne_true)) hw
    rwa [hl] at hon

/-- A transfer to a register's value, which must be the address of a bundle (R221). -/
theorem leaves_of_jump {s : State} {t : Team} {i : Instr} {a : RegNo} {code : Nat} (h : Issues s t i) (he : exec i s = jumpTo i a code s)
    (hx : ((t.viewAt s.clk).S a.toNat).extractLsb' 0 4 = 0#4) : Leaves s i t ((t.viewAt s.clk).S a.toNat + 4) :=
  leaves_of_transfer h he (if_neg (by simp [hx]))
theorem traps_of_jump {s : State} {t : Team} {i : Instr} {a : RegNo} {code : Nat} (h : Issues s t i) (he : exec i s = jumpTo i a code s)
    (hx : ((t.viewAt s.clk).S a.toNat).extractLsb' 0 4 ≠ 0#4) : Traps s i 0x03 0 (((t.viewAt s.clk).S a.toNat).setWidth 64) :=
  traps_of_body h he (if_pos (bne_iff_ne.2 hx))
theorem jump_spec {s : State} {t : Team} {i : Instr} {a : RegNo} {code : Nat} (h : Issues s t i) (he : exec i s = jumpTo i a code s) :
    if ((t.viewAt s.clk).S a.toNat).extractLsb' 0 4 = 0#4 then Leaves s i t ((t.viewAt s.clk).S a.toNat + 4)
      else Traps s i 0x03 0 (((t.viewAt s.clk).S a.toNat).setWidth 64) := by
  split
  next hx => exact leaves_of_jump h he hx
  next hx => exact traps_of_jump h he hx

/-- What a delivery of results of fixed latency leaves of a team (R63). -/
theorem deliver_regs (t : Team) (i : Instr) (clk lat : Nat) {ws : List RegWrite} (fl : BitVec 5) {g : News} (hc : Carries ws g) :
    RegsAfter t (t.deliver i clk lat ws fl) g := fun f n l hl =>
  (reg_eq (t := (t.dropFutures i.writes).puts ws) rfl rfl rfl f n l).trans
    ((hc (t.dropFutures i.writes) f n l hl).trans (congrArg _ (reg_eq rfl rfl rfl f n l)))
theorem deliver_still (t : Team) (i : Instr) (clk lat : Nat) (ws : List RegWrite) (fl : BitVec 5) :
    (t.deliver i clk lat ws fl).still = t.still := (Team.still_puts (t.dropFutures i.writes) ws).trans rfl

/-- A call delivers its link and goes to its target (R221). -/
theorem execCall_leaves {c : RegNo} {imm : BitVec 17} {s : State} {t : Team} (h : Issues s t (.call c imm)) : Leaves s (.call c imm)
    (t.deliver (.call c imm) s.clk 2 (uniWrite c (bundleOf t.pc + 16)) 0) (bundleOf t.pc + 16 * imm.signExtend 32 + 4) :=
  leaves_of_moved h (rfl : _ = execCall c imm s) (by rw [updMe_eq h.1]; rfl)

end Sys2Proof.Machine
end

section
/-! PROOF of O11. -/

namespace Sys2Proof
open Machine

/-- Settles O11: each branch by its condition, the call by the delivery of its link, and the transfers to a register's value. -/
theorem branches : Obligations.Branches := by
  unfold Obligations.Branches
  refine ⟨fun imm s t h => leaves_of_branch h (rfl : _ = execBra imm s) rfl rfl, ?_, ?_, ?_, ?_, ?_,
    fun a s t h => jump_spec h (rfl : _ = execRet a s), fun a s t h => jump_spec h (rfl : _ = execJmp a s)⟩
  · intro c imm s t h
    have hb := leaves_of_branch h (rfl : _ = execBrz c imm s) rfl rfl
    simp only [beq_iff_eq] at hb
    exact hb
  · intro c imm s t h
    have hb := leaves_of_branch h (rfl : _ = execBrnz c imm s) rfl rfl
    simp only [bne_iff_ne, ne_eq, ite_not] at hb
    exact hb
  · intro imm s t h
    have hb := leaves_of_branch h (rfl : _ = execBrex imm s) rfl rfl
    simp only [beq_iff_eq] at hb
    exact hb
  · intro imm s t h
    have hb := leaves_of_branch h (rfl : _ = execBrnex imm s) rfl rfl
    simp only [bne_iff_ne, ne_eq, ite_not] at hb
    exact hb
  · intro c imm s t h
    obtain ⟨-, hex, hslots, hlevel, -, -, hfl⟩ := deliver_path t (.call c imm) s.clk 2 (uniWrite c (bundleOf t.pc + 16)) 0
    exact ⟨_, execCall_leaves h, deliver_regs t _ _ _ _ (carries_uniWrite c _), hfl.trans BitVec.or_zero, deliver_still t _ _ _ _ _, hex, hlevel, hslots⟩

end Sys2Proof
end

section
/-! SUPPORT of O12 and O13: slots that end with a trace event, and slots that end otherwise than at the next one. -/

namespace Sys2Proof.Machine

theorem RestKept.after_traced {a b c : State} {t : Team} (h : RestKept b c t) (k : TraceKept a b) : RestKept a c t :=
  ⟨fun j hj => (h.others j (by rw [k.cur]; exact hj)).trans (by rw [k.teams]), fun r => (h.gangs r).trans k.gangs,
    fun c => (h.contexts c).trans (k.contexts c), h.rest.trans k.rest, fun u => (h.memory (k.untraced u)).trans (k.memory u)⟩
theorem restKept_of_ends {c : Prop} {s s' : State} {t t' : Team} (e : Ends c s s' s.cur t t') : RestKept s s' t :=
  ⟨e.others, e.gangs, e.contexts, e.rest, e.memory⟩
theorem TraceKept.me {s s' : State} (k : TraceKept s s') : s'.me = s.me := by
  unfold State.me
  rw [k.teams, k.cur]

/-- A slot whose body ends it otherwise. -/
theorem exec_of_stop {s s1 : State} {t : Team} {i : Instr} (h : Issues s t i) {body : (r t : Team) → State → Res}
    (he : exec i s = slot i body s) (hb : body (t.viewAt s.clk) t s = .stop s1) : exec i s = .next s1 := by
  rw [he, slot_issues h, hb]
  rfl

/-- A slot that changes its team, records that in the trace and goes on. -/
theorem leaves_of_traced {s s1 : State} {t u : Team} {i : Instr} (h : Issues s t i) {body : (r t : Team) → State → Res}
    (he : exec i s = slot i body s) (hb : body (t.viewAt s.clk) t s = .done s1) (k : TraceKept (s.setTeam s.cur u) s1) (hw : i.writes = []) :
    Leaves s i u (nextPc u.pc i.hasLit) := by
  obtain ⟨s', hexec, ⟨t', hfind, hgoes⟩, hk⟩ := leavesIn_of_done h he hb (k.me.trans (State.setTeam_me s u)) hw
  rw [k.cur] at hfind
  exact ⟨s', hexec, ⟨t', hfind, hgoes⟩, (hk.after_traced k).of_setTeam rfl⟩

end Sys2Proof.Machine
end

section
/-! SUPPORT of O13: the ends of a team, and `brk` (R222, R224, R342). -/

namespace Sys2Proof.Machine

section
variable {s : State} {t : Team}

/-- A team without section traps, copies and pending registers waits for nothing at its end (R222). -/
theorem drainWait_none (hx : t.sectTraps = []) (hc : t.copies = []) (hp : t.pends = []) (futures : Bool) : s.drainWait t futures = none := by
  unfold State.drainWait State.copyOutcome Team.stuckCopy Team.drained
  simp [hx, hc, hp]

/-- Lanes that exit leave the others of their team to go on (R222). -/
theorem execExit_leaves (h : Issues s t .exit) (hs : t.saving = false) (hl : t.live &&& ~~~t.ex ≠ 0) :
    Leaves s .exit { t with live := t.live &&& ~~~t.ex, ex := 0 } (nextPc t.pc false) :=
  leaves_of_traced h (rfl : _ = execExit s)
    (by simp only [hs, Bool.false_eq_true, if_false, bne_iff_ne, ne_eq, hl, not_false_eq_true, if_true]; rfl) (trace_kept _ _ _ _ _) rfl

/-- The last lanes that exit end their team (R222). -/
theorem execExit_ends (h : Issues s t .exit) (hs : t.saving = false) (hl : t.live &&& ~~~t.ex = 0) (hx : t.sectTraps = []) (hc : t.copies = [])
    (hp : t.pends = []) (hroll : t.kernel.rollback = false) : ∃ s', exec .exit s = .next s' ∧
      s'.teams.find s.cur = some { t with live := 0, ex := 0, ended := true, blk := none } ∧ RestKept s s' t := by
  generalize hu : ({ t with live := 0, ex := 0, ended := true, blk := none } : Team) = u
  generalize hs1 : (s.setTeam s.cur { t with live := 0, ex := 0 }).setTeam s.cur u = s1
  have hme : s1.teams.find s.cur = some u := by
    subst hs1
    exact SMap.find_insert_same _ _ _
  have k := trace_kept s1 u u.pc 8 0
  have e := endAllow_ends True (id := s.cur) (by rw [k.teams]; exact hme)
  have hexec : exec .exit s = .next ((s1.trace u u.pc 8 0).endAllow s.cur) := by
    refine exec_of_stop h (rfl : _ = execExit s) ?_
    subst hs1 hu
    simp only [hs, hl, drainWait_none hx hc hp, hroll, bne_self_eq_false, Bool.false_and, Bool.false_eq_true, if_false]
    rfl
  have hcur : (s1.trace u u.pc 8 0).cur = s.cur := by
    rw [k.cur]
    subst hs1
    rfl
  refine ⟨_, hexec, e.here, ?_⟩
  have hk := (restKept_of_ends (hcur.symm ▸ e)).after_traced k
  rw [hcur] at hk
  subst hs1 hu
  exact (hk.of_setTeam (s := s.setTeam s.cur { t with live := 0, ex := 0 }) (t := t) rfl).of_setTeam rfl

/-- In a save routine `exit` ends the residency of its team, which keeps its lanes (R342). -/
theorem execExit_saves (h : Issues s t .exit) (hs : t.saving = true) (hx : t.sectTraps = []) (hc : t.copies = []) (hp : t.pends = []) :
    ∃ s', exec .exit s = .next s' ∧ s'.teams.find s.cur = some { t with pends := [], gone := true, blk := none } ∧ RestKept s s' t := by
  generalize hu : ({ t with pends := [], gone := true, blk := none } : Team) = u
  have k := trace_kept (s.setTeam s.cur u) u u.pc 8 (countLanes u.live u.lanes)
  refine ⟨_, exec_of_stop h (rfl : _ = execExit s) ?_, ?_, restKept_of_traced k⟩
  · subst hu
    simp only [hs, drainWait_none hx hc hp, if_true]
  · rw [k.teams]
    exact SMap.find_insert_same _ _ _

/-- A team halts at `brk` for a debugger that may halt it, and its PC stays (R224). -/
theorem execBrk_halts (h : Issues s t .brk) (hl : t.tlevel = false) (hk : holderKind (s.winReg t.ctx (dbg 0)) ≠ 0)
    (hr : s.hasRight t.ctx 0 = true) : ∃ s' t', exec .brk s = .next s' ∧ s'.teams.find s.cur = some t' ∧ t'.halt = 3 ∧ t'.pc = t.pc ∧
      t'.ex = t.ex ∧ t'.live = t.live ∧ RegsAfter t t' newNothing ∧ t'.fstat = t.fstat ∧ RestKept s s' t := by
  generalize hu : ({ t with blk := none, stepState := 0, earliest := max t.earliest (s.clk + t.stallHere) } : Team) = u
  have hf : (s.setTeam s.cur u).teams.find s.cur = some u := SMap.find_insert_same _ _ _
  obtain ⟨t', e⟩ := haltWith_ends True hf 3 0 0 0xFF 0 0
  obtain ⟨t2, hfind, hhalt⟩ := haltWith_find hf 3 0 0 0xFF 0 0
  obtain rfl : t' = t2 := Option.some.inj (e.here.symm.trans hfind)
  obtain ⟨hex, hpc, -, -⟩ := e.path trivial
  have hlive : t'.live = u.live := (congrArg Team.live e.still : t'.still.live = u.still.live)
  have hk' := restKept_of_ends (s := s.setTeam s.cur u) e
  refine ⟨_, t', exec_of_stop h (rfl : _ = execBrk s) ?_, e.here, hhalt, ?_⟩
  · have hmay : (holderKind (s.winReg t.ctx (dbg 0)) != 0 && s.hasRight t.ctx 0) = true := by rw [bne_iff_ne.2 hk, hr]; rfl
    rw [if_neg (by rw [hl]; exact Bool.false_ne_true), if_pos hmay, updMe_eq h.1, hu]
    rfl
  · subst hu
    exact ⟨hpc, hex, hlive, regsAfter_of_files e.vr e.sr e.pr, e.fstat, hk'.of_setTeam rfl⟩

/-- Without such a debugger `brk` traps (R224). -/
theorem execBrk_traps (h : Issues s t .brk) (hl : t.tlevel = false)
    (hk : holderKind (s.winReg t.ctx (dbg 0)) = 0 ∨ s.hasRight t.ctx 0 = false) : Traps s .brk 0x17 0 0 := by
  refine traps_of_body h (rfl : _ = execBrk s) ?_
  have hmay : (holderKind (s.winReg t.ctx (dbg 0)) != 0 && s.hasRight t.ctx 0) = false := by
    rcases hk with hk | hk
    · simp [hk]
    · simp [hk]
  simp only [hl, hmay, Bool.false_eq_true, if_false]

end

end Sys2Proof.Machine
end

section
/-! PROOF of O13. -/

namespace Sys2Proof
open Machine

/-- Settles O13: `exit` by what it leaves of LIVE and by its routine, `brk` by its level and its debugger. -/
theorem endings : Obligations.Endings := by
  unfold Obligations.Endings
  refine ⟨fun s t h hs hl => execExit_leaves h hs hl, ?_, ?_, fun code s t h => traps_of_body h (rfl : _ = execTrap code s) rfl,
    fun s t h hl => leaves_of_nothing h (rfl : _ = execBrk s) (if_pos hl) rfl, fun s t h hl hk hr => execBrk_halts h hl hk hr,
    fun s t h hl hk => execBrk_traps h hl hk, fun s t h => leaves_of_nothing h (rfl : _ = execNop s) rfl rfl⟩
  · intro s t h hs hl hx hc hp hroll
    obtain ⟨s', hexec, hfind, hk⟩ := execExit_ends h hs hl hx hc hp hroll
    exact ⟨s', _, hexec, hfind, rfl, rfl, rfl, rfl, regsAfter_of_files rfl rfl rfl, rfl, hk⟩
  · intro s t h hs hx hc hp
    obtain ⟨s', hexec, hfind, hk⟩ := execExit_saves h hs hx hc hp
    exact ⟨s', _, hexec, hfind, rfl, rfl, rfl, regsAfter_of_files rfl rfl rfl, hk⟩

end Sys2Proof
end

section
/-! SUPPORT of O12: the ages of the deferred paths at a slot that leaves them (R27, R215), and the end of a path (R216). -/

namespace Sys2Proof.Machine

/-- Each path of `ys` is the one at its place in `xs`, at most one slot older. -/
def AgedFrom (xs ys : List PathSlot) : Prop := ∀ (j : Nat) (p : PathSlot), ys[j]? = some p → ∃ q, xs[j]? = some q ∧ q.v = p.v ∧ p.age ≤ q.age + 1

theorem agedFrom_agedSlots (s : State) (id : Nat) (t : Team) (still : Bool) : AgedFrom t.slots (agedSlots s id t still) := by
  intro j p hp
  unfold agedSlots at hp
  split at hp
  · exact ⟨p, hp, rfl, Nat.le_succ _⟩
  · rw [List.getElem?_map] at hp
    obtain ⟨q, hq, rfl⟩ := Option.map_eq_some_iff.1 hp
    refine ⟨q, hq, ?_⟩
    split
    · exact ⟨rfl, Nat.min_le_right _ _⟩
    · exact ⟨rfl, Nat.le_succ _⟩

/-- A path that enters a slot is of one age in both. -/
theorem AgedFrom.set {xs ys : List PathSlot} (h : AgedFrom xs ys) (k : Nat) (x : PathSlot) : AgedFrom (xs.set k x) (ys.set k x) := by
  intro j p hp
  by_cases hkj : k = j
  · subst hkj
    obtain ⟨hlt, hxp⟩ : k < ys.length ∧ x = p := by simpa [List.getElem?_set] using hp
    obtain ⟨q, hq, -⟩ := h k _ (List.getElem?_eq_getElem hlt)
    have hlt' : k < xs.length := (List.getElem?_eq_some_iff.1 hq).1
    exact ⟨x, List.getElem?_set_self hlt', by rw [hxp], by rw [hxp]; exact Nat.le_succ _⟩
  · rw [List.getElem?_set_ne hkj] at hp ⊢
    exact h j p hp

theorem AgedFrom.unused {xs ys : List PathSlot} (h : AgedFrom xs ys) (hx : ∀ p ∈ xs, p.v = false) : ∀ p ∈ ys, p.v = false := fun p hp => by
  obtain ⟨j, hj⟩ := List.mem_iff_getElem?.1 hp
  obtain ⟨q, hq, hv, -⟩ := h j p hj
  rw [← hv]
  exact hx q (List.mem_of_getElem? hq)

/-- Where no switch could become due, none is due one slot later (R27). -/
theorem calm_of_agedFrom {u : Team} {ys : List PathSlot} (h : AgedFrom u.slots ys) (q : NoSwitch u) : Calm { u with slots := ys } := by
  rcases q with q | q | ⟨hy, hage⟩
  · exact .inl (h.unused q)
  · exact .inr (.inl q)
  · refine .inr (.inr ⟨hy, fun p hp hv => ?_⟩)
    obtain ⟨j, hj⟩ := List.mem_iff_getElem?.1 hp
    obtain ⟨x, hx, hxv, hle⟩ := h j p hj
    have := hage x (List.mem_of_getElem? hx) (hxv.trans hv)
    omega

/-- A team as the end of its slot leaves it at the next one (R47, R48). -/
def Team.goneOn (t : Team) (s : State) (i : Instr) (next : Word) (transfer : Bool) : Team :=
  { t with
    pc := next, blk := none, done := 0, mark := none, kept := [], slots := agedSlots s s.cur t (keepsAges i)
    earliest := s.clk + (if transfer then max t.stallHere 2 else if writesMask i then max t.stallHere 1 else t.stallHere)
    zeroStall := t.stallHere == 0 && !transfer && !writesMask i, lastSetU := i.isU, lastIssue := s.clk
    spSkip := if t.spSkip && bundleOf next == bundleOf t.pc && !transfer then t.spSkip else false }

/-- After the slot of the current team, which is left as `u`: at the end of a bundle, the switch of paths that is due (R27 rule 2). -/
def State.atBoundary (s : State) (u : Team) (boundary : Bool) : State :=
  let s := (s.setTeam s.cur u).endAllow s.cur
  if boundary then s.bundleEnd s.cur else s

theorem advance_eq {s : State} {t : Team} (h : s.me = some t) (i : Instr) (next : Word) (tr : Bool) : s.advance i next tr =
    (s.atBoundary (t.goneOn s i next tr) (tr || bundleOf next != bundleOf t.pc)).afterSlot
      (s.atBoundary (t.goneOn s i next tr) (tr || bundleOf next != bundleOf t.pc)).cur := by
  unfold State.advance
  simp only [h]
  rfl

theorem atBoundary_ends (s : State) (u : Team) (boundary : Bool) :
    ∃ w, Ends (Calm u) (s.setTeam s.cur u) (s.atBoundary u boundary) s.cur u w := by
  have hallow := endAllow_ends (Calm u) (State.setTeam_find s s.cur u)
  unfold State.atBoundary
  dsimp only
  rw [hallow.cur, State.setTeam_cur]
  split
  · obtain ⟨w, hw⟩ := bundleEnd_ends hallow.here
    exact ⟨w, hallow.trans hw⟩
  · exact ⟨u, hallow⟩

/-- The end of a slot keeps the team that has gone on, with its path where no switch is due at the boundary. -/
theorem advance_ends {s : State} {t : Team} (h : s.me = some t) (i : Instr) (next : Word) (tr : Bool) :
    ∃ t', Ends (Calm (t.goneOn s i next tr)) (s.setTeam s.cur (t.goneOn s i next tr)) (s.advance i next tr) s.cur (t.goneOn s i next tr) t' := by
  obtain ⟨w, hw⟩ := atBoundary_ends s (t.goneOn s i next tr) (tr || bundleOf next != bundleOf t.pc)
  obtain ⟨t', hafter⟩ := afterSlot_ends (Calm (t.goneOn s i next tr)) hw.here
  rw [advance_eq h, hw.cur, State.setTeam_cur]
  exact ⟨t', hw.trans hafter⟩

/-- A slot that has aged the deferred paths itself, so that its end leaves their ages (R215): its team is `u`, with the aged paths `ys`. -/
theorem leaves_of_aged {s : State} {t u : Team} {i : Instr} {ys : List PathSlot} {pc : Word} {code detail : Nat} (h : Issues s t i)
    {body : (r t : Team) → State → Res} (he : exec i s = slot i body s)
    (hb : body (t.viewAt s.clk) t s = .done ((s.setTeam s.cur { u with slots := ys }).trace { u with slots := ys } pc code detail))
    (hw : i.writes = []) (hages : keepsAges i = true) (haged : AgedFrom u.slots ys)
    (hstill : ys.map PathSlot.still = u.slots.map PathSlot.still) : Leaves s i u (nextPc u.pc i.hasLit) := by
  generalize hv : ({ u with slots := ys } : Team) = v at hb
  have k := trace_kept (s.setTeam s.cur v) v pc code detail
  generalize (s.setTeam s.cur v).trace v pc code detail = s1 at hb k
  have hme : s1.me = some v := k.me.trans (State.setTeam_me s v)
  have hcur : s1.cur = s.cur := k.cur
  obtain ⟨t', e⟩ := advance_ends (State.setTeam_me s1 v) i (nextPc v.pc i.hasLit) false
  have hexec : exec i s = .next ((s1.setTeam s1.cur v).advance i (nextPc v.pc i.hasLit) false) := by
    rw [he, slot_issues h, hb]
    simp only [settle, writes_nil_updMe hme hw, State.retire, State.setTeam_me]
  have hslots : agedSlots (s1.setTeam s1.cur v) s1.cur v (keepsAges i) = v.slots := by
    unfold agedSlots
    simp only [hages, Bool.or_true, if_true]
  have hcalm : Calm v → Calm (v.goneOn (s1.setTeam s1.cur v) i (nextPc v.pc i.hasLit) false) := fun hc => by
    unfold Calm at hc ⊢
    rw [← hslots] at hc
    exact hc
  have hrest := ((restKept_of_ends e).of_setTeam (s := s1.setTeam s1.cur v) (t := v) rfl).of_setTeam (t := v) rfl
  have hfind := (congrArg (SMap.find _) hcur).symm.trans e.here
  have hpath := e.path
  subst hv
  refine ⟨_, hexec, ⟨t', hfind, regsAfter_of_files e.vr e.sr e.pr, e.fstat, e.pends, e.still, fun q => ?_⟩, (hrest.after_traced k).of_setTeam rfl⟩
  obtain ⟨hex, hpc, hlevel, hsl⟩ := hpath (hcalm (calm_of_agedFrom haged q))
  exact ⟨hpc, hex, hlevel, by rw [hsl, ← hstill]; exact congrArg _ hslots⟩

/-- A team whose running path has ended at slot `i` (R216). -/
def Team.pathEnded (t : Team) (s : State) (i : Instr) : Team :=
  { t with
    ex := 0, blk := none, done := 0, mark := none, kept := [], noPath := true, yielded := false, slots := agedSlots s s.cur t false
    earliest := s.clk + max t.stallHere 2, zeroStall := false, lastSetU := i.isU, lastIssue := s.clk, spSkip := false }
/-- After the end of the running path of the current team, which is left as `u`: the deferred path that comes in, if one can (R27 rule 4). -/
def State.pathGone (s : State) (u : Team) : State :=
  let s := (s.setTeam s.cur u).endAllow s.cur
  match (if u.tlevel then none else bestSlot s s.cur u) with
  | some k => s.switchPath s.cur k none
  | none => s

theorem endPath_eq {s : State} {t : Team} (h : s.me = some t) (i : Instr) :
    s.endPath i = (s.pathGone (t.pathEnded s i)).afterSlot (s.pathGone (t.pathEnded s i)).cur := by
  unfold State.endPath
  simp only [h]
  rfl

/-- Where no path is deferred, none comes in. -/
theorem pathGone_ends (s : State) (u : Team) : ∃ w, Ends (∀ p ∈ u.slots, p.v = false) (s.setTeam s.cur u) (s.pathGone u) s.cur u w ∧
    ((∀ p ∈ u.slots, p.v = false) → w = u) := by
  have hallow := endAllow_ends (∀ p ∈ u.slots, p.v = false) (State.setTeam_find s s.cur u)
  unfold State.pathGone
  dsimp only
  rw [hallow.cur, State.setTeam_cur]
  split
  next k hk =>
    have hbest : bestSlot ((s.setTeam s.cur u).endAllow s.cur) s.cur u = some k := (Option.ite_none_left_eq_some.1 hk).2
    obtain ⟨p, hp, hv⟩ := bestSlot_valid hbest
    have hsome : ¬ ∀ p ∈ u.slots, p.v = false := fun hn => Bool.false_ne_true ((hn p hp).symm.trans hv)
    obtain ⟨w, hw⟩ := switchPath_ends hallow.here k none hsome
    exact ⟨w, hallow.trans hw, fun hn => absurd hn hsome⟩
  next => exact ⟨u, hallow, fun _ => rfl⟩

/-- A halt after a slot leaves a team without a running path. -/
theorem haltWith_noPath {s : State} {id : Nat} {t : Team} (h : s.teams.find id = some t) (reason index wpset group : Nat) (wmask woff : Word) :
    ∃ t', (s.haltWith id reason index wpset group wmask woff).teams.find id = some t' ∧ t'.noPath = t.noPath := by
  unfold State.haltWith
  simp only [h]
  generalize hu : ({ t with halt := reason, haltFrom := _, earliest := _ } : Team) = u
  generalize (if decide (1 ≤ reason) && decide (reason ≤ 5) then max s.clk t.settledAt else s.clk) = time
  have hk := (traceAt_kept (s.setTeam id u) time t t.pc 12 reason).trans (trigger_kept _ t.ctx 1 reason)
  refine ⟨u, ?_, by subst hu; rfl⟩
  split
  · rw [State.updContext_teams, hk.teams]
    exact State.setTeam_find _ _ _
  · rw [hk.teams]
    exact State.setTeam_find _ _ _
theorem afterSlot_noPath {s : State} {id : Nat} {t : Team} (h : s.teams.find id = some t) :
    ∃ t', (s.afterSlot id).teams.find id = some t' ∧ t'.noPath = t.noPath := by
  unfold State.afterSlot
  simp only [h]
  split
  · obtain ⟨t', hfind, hno⟩ := haltWith_noPath (State.setTeam_find s id { t with watchHit := none, stepState := 0 }) 5 _ _ _ _ _
    exact ⟨t', hfind, hno⟩
  · split
    · exact ⟨_, State.setTeam_find _ _ _, rfl⟩
    · exact ⟨t, h, rfl⟩

/-- The end of a path leaves the rest of its team as it was; where no path is deferred, the team has none (R216). -/
theorem endPath_ends {s : State} {t : Team} (h : s.me = some t) (i : Instr) : ∃ t',
    Ends (∀ p ∈ t.slots, p.v = false) (s.setTeam s.cur (t.pathEnded s i)) (s.endPath i) s.cur (t.pathEnded s i) t' ∧
      ((∀ p ∈ t.slots, p.v = false) → t'.noPath = true) := by
  obtain ⟨w, hgone, hw⟩ := pathGone_ends s (t.pathEnded s i)
  have hunused : (∀ p ∈ t.slots, p.v = false) → ∀ p ∈ (t.pathEnded s i).slots, p.v = false := (agedFrom_agedSlots s s.cur t false).unused
  rw [endPath_eq h, hgone.cur, State.setTeam_cur]
  obtain ⟨t', hafter⟩ := afterSlot_ends (∀ p ∈ (t.pathEnded s i).slots, p.v = false) hgone.here
  obtain ⟨t2, hfind, hno⟩ := afterSlot_noPath hgone.here
  obtain rfl : t' = t2 := Option.some.inj (hafter.here.symm.trans hfind)
  have e := hgone.trans hafter
  exact ⟨t', { e with path := fun q => e.path (hunused q) }, fun q => by rw [hno, hw (hunused q)]; rfl⟩

end Sys2Proof.Machine
end

section
/-! SUPPORT of O12: the bodies of `fork` and `pend` (R215, R216). -/

namespace Sys2Proof.Machine

section
variable {c : RegNo} {imm : BitVec 17} {s : State} {t : Team} {n : Nat} (h : Issues s t (.fork c imm))
include h

/-- `fork` defers the lanes of the predicate at the target and goes on with the others one level further in (R215). -/
theorem execFork_splits {k : Nat} (hn : t.levels.findIdx? (fun l => !l.opened) = some n) (hk : t.slots.findIdx? (fun p => !p.v) = some k)
    (hf : (t.viewAt s.clk).P c.toNat &&& t.ex ≠ 0) : Leaves s (.fork c imm)
      { t with
        ex := t.ex &&& ~~~((t.viewAt s.clk).P c.toNat &&& t.ex), level := n, levels := t.levels.set n (Level.fork t.level 2)
        slots := t.slots.set k (PathSlot.fork n (branchPc t imm) ((t.viewAt s.clk).P c.toNat &&& t.ex)) } (nextPc t.pc false) := by
  refine leaves_of_aged h (rfl : _ = execFork c imm s) (ys := (agedSlots s s.cur t false).set k
    (PathSlot.fork n (branchPc t imm) ((t.viewAt s.clk).P c.toNat &&& t.ex))) (pc := t.pc) (code := 5) (detail := n) ?_ rfl rfl
    ((agedFrom_agedSlots s s.cur t false).set k _) ?_
  · simp only [hn, hk, bne_iff_ne.2 hf, Option.isNone_some, Bool.and_false, Bool.false_eq_true, if_false, if_true]
  · rw [List.map_set, List.map_set, agedSlots_still]

/-- Without lanes to defer `fork` only opens a level (R215). -/
theorem execFork_opens (hn : t.levels.findIdx? (fun l => !l.opened) = some n) (hf : (t.viewAt s.clk).P c.toNat &&& t.ex = 0) :
    Leaves s (.fork c imm) { t with level := n, levels := t.levels.set n (Level.fork t.level 1) } (nextPc t.pc false) := by
  refine leaves_of_aged h (rfl : _ = execFork c imm s) (ys := agedSlots s s.cur t false) (pc := t.pc) (code := 5) (detail := n) ?_ rfl rfl
    (agedFrom_agedSlots s s.cur t false) (agedSlots_still _ _ _ _)
  have hall : t.ex &&& ~~~(0 : Mask) = t.ex := by
    change t.ex &&& ~~~(0#1024) = t.ex
    rw [BitVec.not_zero, BitVec.and_allOnes]
  simp only [hn, hf, bne_self_eq_false, Bool.false_and, Bool.false_eq_true, if_false, hall]
  cases t.slots.findIdx? fun p => !p.v <;> rfl

theorem execFork_noLevel (hn : t.levels.findIdx? (fun l => !l.opened) = none) : Traps s (.fork c imm) 0x0E 0 0 :=
  traps_of_body h (rfl : _ = execFork c imm s) (by simp only [hn])
theorem execFork_noSlot (hk : t.slots.findIdx? (fun p => !p.v) = none) (hf : (t.viewAt s.clk).P c.toNat &&& t.ex ≠ 0) :
    Traps s (.fork c imm) 0x0E 0 0 := by
  refine traps_of_body h (rfl : _ = execFork c imm s) ?_
  cases hn : t.levels.findIdx? fun l => !l.opened with
  | none => rfl
  | some n => simp only [hk, bne_iff_ne.2 hf, Option.isNone_none, Bool.and_self, if_true]

end

/-- The join that a `pend` names (R56, R216). -/
def joinOf (t : Team) (imm : BitVec 24) : Word := bundleOf t.pc + 16 * imm.signExtend 32

section
variable {imm : BitVec 24} {s : State} {t : Team} {lv : Level} (h : Issues s t (.pend imm)) (hlv : t.levels[t.level]? = some lv)

/-- A join that none contradicts. -/
theorem join_agrees {join : Word} (hj : lv.jset = true → lv.join = join) : (lv.jset && join != lv.join) = false := by
  cases hset : lv.jset with
  | false => rfl
  | true => simp [hj hset]

include h hlv

/-- The last path of a level goes on at the join with all the lanes that have come there (R216). -/
theorem execPend_joins (hj : lv.jset = true → lv.join = joinOf t imm) (hn : lv.n = 1) : Leaves s (.pend imm)
    { t with
      ex := (lv.jm ||| t.ex) &&& t.live, level := lv.parent
      levels := t.levels.set t.level ⟨false, lv.parent, true, joinOf t imm, 0, lv.jm ||| t.ex⟩ } (joinOf t imm + 4) := by
  refine leaves_of_moved (code := 6) (detail := t.level) h (rfl : _ = execPend imm s) ?_
  have hagree : (lv.jset && bundleOf t.pc + 16 * imm.signExtend 32 != lv.join) = false := join_agrees hj
  simp only [hlv, hagree, hn, Bool.false_eq_true, if_false, Nat.sub_self, if_true]
  rfl

theorem execPend_mismatch (hset : lv.jset = true) (hj : lv.join ≠ joinOf t imm) :
    Traps s (.pend imm) 0x0D t.level ((joinOf t imm).setWidth 64) := by
  refine traps_of_body h (rfl : _ = execPend imm s) ?_
  have hdiffer : (bundleOf t.pc + 16 * imm.signExtend 32 != lv.join) = true := bne_iff_ne.2 hj.symm
  simp only [hlv, hset, hdiffer, Bool.and_self, if_true]
  rfl

/-- A path of a level that others are still to join ends (R216). -/
theorem execPend_ends (hj : lv.jset = true → lv.join = joinOf t imm) (hn : 2 ≤ lv.n) : ∃ s' t', exec (.pend imm) s = .next s' ∧
    s'.teams.find s.cur = some t' ∧
    t'.still = { t with levels := t.levels.set t.level ⟨lv.opened, lv.parent, true, joinOf t imm, lv.n - 1, lv.jm ||| t.ex⟩ }.still ∧
    RegsAfter t t' newNothing ∧ t'.fstat = t.fstat ∧ t'.pends = t.pends ∧ RestKept s s' t ∧
    ((∀ p ∈ t.slots, p.v = false) → t'.noPath = true ∧ t'.ex = 0) := by
  generalize hu : ({ t with
    levels := t.levels.set t.level ⟨lv.opened, lv.parent, true, joinOf t imm, lv.n - 1, lv.jm ||| t.ex⟩
    slots := t.slots.map fun (p : PathSlot) => if p.v && p.lvl == t.level then { p with join := joinOf t imm } else p } : Team) = u
  have k := trace_kept (s.setTeam s.cur u) u t.pc 6 t.level
  obtain ⟨t', e, hno⟩ := endPath_ends (k.me.trans (State.setTeam_me s u)) (.pend imm)
  have hrest := (((restKept_of_ends e).of_setTeam (t := u) rfl).after_traced k).of_setTeam (t := t) (by subst hu; rfl)
  have hunused : (∀ p ∈ t.slots, p.v = false) → ∀ p ∈ u.slots, p.v = false := by
    subst hu
    intro hn p hp
    obtain ⟨q, hq, rfl⟩ := List.mem_map.1 hp
    rw [hn q hq]
    exact hn q hq
  have hexec := exec_of_stop h (rfl : _ = execPend imm s) (s1 := ((s.setTeam s.cur u).trace u t.pc 6 t.level).endPath (.pend imm)) (by
    have hagree : (lv.jset && bundleOf t.pc + 16 * imm.signExtend 32 != lv.join) = false := join_agrees hj
    have hleft : ¬ lv.n - 1 = 0 := by omega
    subst hu
    simp only [hlv, hagree, hleft, Bool.false_eq_true, if_false]
    rfl)
  refine ⟨_, t', hexec, (congrArg (SMap.find _) k.cur).symm.trans e.here, ?_, ?_, ?_, ?_, hrest, fun hn => ⟨hno (hunused hn), (e.path (hunused hn)).1⟩⟩
  · subst hu
    exact e.still
  · subst hu
    exact regsAfter_of_files e.vr e.sr e.pr
  · subst hu
    exact e.fstat
  · subst hu
    exact e.pends

end

end Sys2Proof.Machine
end

section
/-! PROOF of O12. -/

namespace Sys2Proof
open Machine

/-- Settles O12: `fork` and `pend` by what they find of levels and slots. -/
theorem paths : Obligations.Paths := by
  unfold Obligations.Paths
  exact ⟨fun c imm s t n k h hn hk hf => execFork_splits h hn hk hf, fun c imm s t n h hn hf => execFork_opens h hn hf,
    fun c imm s t h hn => execFork_noLevel h hn, fun c imm s t h hk hf => execFork_noSlot h hk hf,
    fun imm s t lv h hlv hj hn => execPend_joins h hlv hj hn, fun imm s t lv h hlv hset hj => execPend_mismatch h hlv hset hj,
    fun imm s t lv h hlv hj hn => execPend_ends h hlv hj hn⟩

end Sys2Proof
end

section
/-! SUPPORT of O27: the one element of a uniform access (R206), and the pending result that its slot opens (R65, R165). -/

namespace Sys2Proof.Machine

/-- An element of no lane has not been done where nothing has. -/
theorem todo_noLane {α : Type} {t : Team} (hd : t.done = 0) (x : α) : t.todo [(noLane, x)] = [(noLane, x)] := by
  refine List.filter_eq_self.2 fun e _ => beq_iff_eq.2 ?_
  rw [hd]
  exact BitVec.zero_and

/-- A uniform access whose element goes through sends it, under the number of the slot's result (R164, R206). -/
theorem scalar_goes {s s1 : State} {t : Team} {a : Access} {w : Bool} {addr : DWord} {z : Nat} {look : Nat → Looked} {place : Nat → Place}
    (hr : Reaches s s1 t a w [noLane] (fun _ => addr) z look place) (i : Instr) (reason : Option Nat) (f : State → Nat → Looked → State) :
    scalar i t s a w reason addr z f = .done (f (s1.openGroup t i reason).1 (s1.openGroup t i reason).2 (look noLane)) := by
  obtain ⟨hfresh, -, haligned, hlooks, hplaces, -⟩ := hr
  have hgood : firstBad [(noLane, addr)] z = none := firstBad_none fun e he => by
    rw [List.mem_singleton.1 he]
    exact haligned noLane List.mem_cons_self
  have hgo : sight t s a w [(noLane, [addr])] = .go s1 [(noLane, [(addr, look noLane)])] none :=
    sight_go (todo_noLane hfresh _) hlooks fun e he x hx => by
      rw [List.mem_singleton.1 he] at hx
      rw [List.mem_singleton.1 hx]
      exact placeOf_good (hplaces noLane List.mem_cons_self)
  unfold scalar accesses
  simp only [hgood, List.map_cons, List.map_nil, hgo]
  rfl

/-- The scoreboard that a slot which sends accesses leaves: with its own result, for the reason given, or as it was (R65, R66). -/
def Opens (s : State) (t : Team) (i : Instr) (reason : Option Nat) (ps : List Pend) : Prop :=
  match reason with
  | some r => ∃ p ∈ ps, p.isFuture = false ∧ p.serial = s.serial ∧ p.reason = r ∧ p.data = .arriving ∧
      (p.file, p.n, p.cnt) ∈ (i.writes.map fun (u : RegUse) => (u.file, u.n, u.cnt))
  | none => ps = t.pends

/-- The first attempt of a slot takes a number, and opens its result where it has one: `ts` are the teams then. -/
theorem openGroup_opens {s : State} {t : Team} {i : Instr} {reason : Option Nat} (hm : s.me = some t) (hd : t.done = 0)
    (hw : reason = none ↔ i.writes = []) : ∃ ts ps, s.openGroup t i reason = ({ s with teams := ts, serial := s.serial + 1 }, s.serial) ∧
      ts.find s.cur = some { t with pends := ps } ∧ (∀ k, k ≠ s.cur → ts.find k = s.teams.find k) ∧ Opens s t i reason ps := by
  cases reason with
  | none =>
    have hnone : t.ownGroup = none := if_pos (beq_iff_eq.2 hd)
    refine ⟨s.teams, t.pends, ?_, hm, fun _ _ => rfl, rfl⟩
    unfold State.openGroup
    rw [hnone]
  | some r =>
    obtain ⟨x, xs, hx⟩ := List.exists_cons_of_ne_nil fun he => Option.some_ne_none r (hw.2 he)
    refine ⟨_, (t.dropFutures i.writes).pends ++ [⟨s.serial, x.file, x.n, x.cnt, r, t.pc, .arriving, []⟩], openGroup_new hm hd hx r,
      State.setTeam_find _ _ _, fun k hk => State.setTeam_find_ne s _ hk, ?_⟩
    exact ⟨_, List.mem_append_right _ (List.mem_singleton_self _), rfl, rfl, rfl, rfl, by rw [hx]; exact List.mem_cons_self⟩

/-- What the end of the slot leaves of that scoreboard: it overwrites no result that is no future (R22). -/
theorem Opens.dropFutures {s : State} {t : Team} {i : Instr} {reason : Option Nat} {ps : List Pend} (h : Opens s t i reason ps)
    (hw : reason = none ↔ i.writes = []) : Opens s t i reason (({ t with pends := ps } : Team).dropFutures i.writes).pends := by
  cases reason with
  | none =>
    rw [hw.1 rfl, dropFutures_nil]
    exact h
  | some r =>
    obtain ⟨p, hp, hf, hrest⟩ := h
    exact ⟨p, mem_dropFutures hp hf _, hf, hrest⟩

/-- The teams and the numbers do not say where an address lies. -/
theorem placeOf_opened (s : State) (ts : SMap Team) (n : Nat) (k : Looked) : placeOf { s with teams := ts, serial := n } k = placeOf s k := by
  cases k with
  | ok => rfl
  | window => rfl
  | miss => rfl
  | trap => rfl
  | fault => rfl

/-- The one access that a uniform slot sends (R206, R257). -/
def scalarOp (s : State) (t : Team) (addr : DWord) (z : Nat) (p : Place) (unit : Nat) (kind : OpKind) (ord : Option (BitVec 3))
    (dest : Option (RFile × Nat)) : Op :=
  { serial := s.serial + 1, team := s.cur, ctx := t.ctx, group := s.serial, unit := unit, cluster := t.cluster, core := t.core, pc := t.pc
    va := addr.toNat, place := p, n := z, kind := kind, ord := ord, dest := dest, lane := 0, seen := [], muted := none }

/-- What sends that access from a state whose slot has opened its result, and leaves the lines `caches`. -/
def SendsOne (s : State) (f : State → Nat → Looked → State) (k : Looked) (op : Op) (caches : List CacheLine) : Prop :=
  ∀ ts, f { s with teams := ts, serial := s.serial + 1 } s.serial k =
    { s with teams := ts, serial := s.serial + 2, traffic := s.traffic ++ [op], caches := caches }

/-- A uniform access whose element goes through: it is on its way, and its destination is pending where it has one (R206, R257). -/
theorem sends_of_scalar {s s1 : State} {t : Team} {i : Instr} {a : Access} {w : Bool} {addr : DWord} {z : Nat} {look : Nat → Looked}
    {place : Nat → Place} {unit : Nat} {kind : OpKind} {ord : Option (BitVec 3)} {dest : Option (RFile × Nat)} {reason : Option Nat}
    {caches : List CacheLine} {body : (r t : Team) → State → Res} {f : State → Nat → Looked → State} (hi : Issues s t i)
    (hr : Reaches s s1 t a w [noLane] (fun _ => addr) z look place) (he : exec i s = slot i body s)
    (hb : body (t.viewAt s.clk) t s = scalar i t s a w reason addr z f) (hw : reason = none ↔ i.writes = [])
    (hf : ∀ fr, placeOf { s with frames := fr } (look noLane) = some (place noLane) →
      SendsOne { s with frames := fr } f (look noLane) (scalarOp s t addr z (place noLane) unit kind ord dest) caches) :
    Sends s s1 t i reason (sentOps s t [noLane] (fun _ => addr) z place (fun _ => unit) (fun _ => kind) ord dest fun _ => 0) caches := by
  have hbody := hb.trans (scalar_goes hr i reason f)
  obtain ⟨hfresh, -, -, hlooks, hplaces, hplain⟩ := hr
  obtain ⟨fr, hfr⟩ := seeAll_frames t a w ([noLane].map fun l => (l, [addr])) s
  have hs1 : s1 = { s with frames := fr } := (congrArg Prod.snd hlooks).symm.trans hfr
  subst hs1
  obtain ⟨ts, ps, hopen, hmine, hothers, hps⟩ := openGroup_opens (s := { s with frames := fr }) hi.1 hfresh hw
  rw [hopen, hf fr (hplaces noLane List.mem_cons_self) ts] at hbody
  obtain ⟨s', t', hexec, hfind, hregs, hfl, hp, hst, hon, hk⟩ := ends_of_done hi he hbody hmine rfl
  refine ⟨s', t', hexec, hfind, ⟨⟨fun k hne => (hk.others k hne).trans (hothers k hne), hk.gangs hplain, hk.contexts⟩,
    (congrArg State.traffic hk.rest : s'.still.traffic = _), (congrArg State.caches hk.rest : s'.still.caches = _),
    fun un => (congrArg State.frames (hk.memory (untraced_of_contexts rfl un)) : s'.bare.frames = _), fun un => ?_, ?_⟩,
    hregs, hfl, hst, hon, ?_⟩
  · have hm := hk.memory (untraced_of_contexts rfl un)
    exact ⟨(congrArg State.mem hm : s'.bare.mem = _), (congrArg State.poison hm : s'.bare.poison = _), (congrArg State.l2 hm : s'.bare.l2 = _)⟩
  · rw [hk.rest]
    rfl
  · have hleft := hps.dropFutures hw
    rw [← hp] at hleft
    cases reason with
    | none => exact hleft
    | some r =>
      obtain ⟨p, hmem, -, hserial, hreason, hdata, hdest⟩ := hleft
      exact ⟨p, hmem, hserial, hreason, hdata, hdest⟩

end Sys2Proof.Machine
end

section
/-! SUPPORT of O27: how each kind of uniform access joins the traffic (R207 to R209). -/

namespace Sys2Proof.Machine

section
variable {s : State} {t : Team} {k : Looked} {p : Place} (hp : placeOf s k = some p) {addr : DWord} {z unit : Nat}
include hp

theorem issue_sendsOne (kind : OpKind) (ord : Option (BitVec 3)) (dest : Option (RFile × Nat)) :
    SendsOne s (fun s g k => s.issue t g unit addr k z kind ord dest 0) k (scalarOp s t addr z p unit kind ord dest) s.caches := by
  intro ts
  have hplace := (placeOf_opened s ts (s.serial + 1) k).trans hp
  unfold State.issue
  simp only [hplace]
  rfl

/-- The L1 unit of an address does not change with the teams. -/
theorem issue_l1_sendsOne (kind : OpKind) (ord : Option (BitVec 3)) (dest : Option (RFile × Nat)) :
    SendsOne s (fun s g k => s.issue t g (s.l1Unit t addr.toNat) addr k z kind ord dest 0) k
      (scalarOp s t addr z p (s.l1Unit t addr.toNat) kind ord dest) s.caches := fun ts => issue_sendsOne hp kind ord dest ts

theorem issueLoad_sendsOne (dest : RFile × Nat) : SendsOne s (fun s g k => s.issueLoad t g addr z k dest 0) k
    (scalarOp s t addr z p (s.l1Unit t addr.toNat) (.load .l1) none (some dest)) s.caches := issue_l1_sendsOne hp _ _ _

/-- A team of no rollback crew holds no store back (R274). -/
theorem issueStore_sendsOne (hplain : t.kernel.rollback = false) (bs : List Byte) : SendsOne s (fun s g k => s.issueStore t g addr bs k 0) k
    (scalarOp s t addr bs.length p (s.l1Unit t addr.toNat) (.store bs) none none) s.caches := by
  intro ts
  refine Eq.trans ?_ (issue_l1_sendsOne hp (.store bs) none none ts)
  unfold State.issueStore
  simp only [hplain, Bool.false_eq_true, if_false]

/-- A read-modify-write makes the lines of its address invalid in the team's L1 (R282). -/
theorem issueRmw_sendsOne (w : Bool) (op : RmwOp) (y : Nat) (ord : BitVec 3) (dest : Option (RFile × Nat)) (look : Nat → Looked)
    (hlook : look noLane = k) : SendsOne s (fun s g k => s.issueRmw t g addr k w op y ord dest 0) k
      (scalarOp s t addr (atomBytes w) p (s.l1Unit t addr.toNat) (.rmw w op y) (some ord) dest) (withoutL1 s t [noLane] look) := by
  intro ts
  subst hlook
  unfold withoutL1 State.issueRmw State.issue
  cases hk : look noLane with
  | ok pa x =>
    rw [hk] at hp
    cases hp
    simp only [List.all_cons, List.all_nil, hk, Bool.and_true]
    rfl
  | window off =>
    rw [hk] at hp
    cases hp
    simp only [List.all_cons, List.all_nil, hk, Bool.and_true, List.filter_true]
    rfl
  | miss => rw [hk] at hp; cases hp
  | trap c => rw [hk] at hp; cases hp
  | fault k l e => rw [hk] at hp; cases hp

end

/-- The data of a uniform store, byte by byte (R207). -/
theorem wordBytes_eq (w : Word) : wordBytes w = (List.range 4).map fun k => w.extractLsb' (8 * k) 8 := by
  simp [wordBytes, leBytes, List.range_succ, BitVec.extractLsb', Nat.shiftRight_eq_div_pow, Nat.div_div_eq_div_mul]
theorem uniBytes_eq {z : Nat} (hz : z = 4 ∨ z = 8) (r : Team) (d : RegNo) : uniBytes r d z =
    (List.range z).map fun k => (r.S (d.toNat + k / 4)).extractLsb' (8 * (k % 4)) 8 := by
  rcases hz with rfl | rfl
  · simp [uniBytes, wordBytes_eq, List.range_succ]
  · simp [uniBytes, wordBytes_eq, List.range_succ]
theorem uniBytes_length {z : Nat} (hz : z = 4 ∨ z = 8) (r : Team) (d : RegNo) : (uniBytes r d z).length = z := by
  rw [uniBytes_eq hz, List.length_map, List.length_range]

/-! The uniform instructions by what they run. Each sends its element by one of the rules above. -/

section
variable {i : Instr} {d a : RegNo} {disp : BitVec 10} {e : BitVec 6} {z : Nat} {w : Bool} {ord : BitVec 3}

theorem uniLoad_reads (he : ∀ s, exec i s = uniLoad i d a disp z s) (hw : i.writes ≠ []) : UniformReads i d z true (.load .l1) none
    fun r => r.S64 a.toNat + disp.signExtend 64 * BitVec.ofNat 64 z := by
  intro s s1 t look place hi r hr
  have hl1 : ¬ (OpKind.load .l1 = .load .constant) := by decide
  simp only [hl1, if_false]
  exact sends_of_scalar hi hr (he s) rfl (by simp [hw]) fun fr hp => issueLoad_sendsOne hp _

theorem sldc_reads : UniformReads (.sldc d a disp) d 4 false (.load .constant) none
    fun r => r.S64 a.toNat + disp.signExtend 64 * BitVec.ofNat 64 4 := by
  intro s s1 t look place hi r hr
  simp only [if_true]
  exact sends_of_scalar hi hr (rfl : _ = execSldc d a disp s) rfl (by simp [Instr.writes]) fun fr hp => issue_sendsOne hp _ _ _

/-- `sldaq` reads past the L1 (R209). -/
theorem sldaq_reads : UniformReads (.sldaq d e w ord) d (atomBytes w) false .loadPast (some ord) fun r => r.S64 (2 * e.toNat) := by
  intro s s1 t look place hi r hr
  have hpast : ¬ (OpKind.loadPast = .load .constant) := by decide
  simp only [hpast, if_false]
  exact sends_of_scalar hi hr (rfl : _ = execSldaq d e w ord s) rfl (by simp [Instr.writes]) fun fr hp => issue_l1_sendsOne hp _ _ _

theorem uniStore_writes (he : ∀ s, exec i s = uniStore i d a disp z s) (hw : i.writes = []) (hz : z = 4 ∨ z = 8) :
    UniformWrites i z true .store none (fun r => r.S64 a.toNat + disp.signExtend 64 * BitVec.ofNat 64 z)
      fun r => (List.range z).map fun k => (r.S (d.toNat + k / 4)).extractLsb' (8 * (k % 4)) 8 := by
  intro s s1 t look place hi r hr
  obtain ⟨-, -, -, -, -, hplain⟩ := id hr
  simp only [← uniBytes_eq hz]
  refine sends_of_scalar hi hr (he s) rfl (by simp [hw]) fun fr hp => ?_
  have hstore := issueStore_sendsOne (addr := r.S64 a.toNat + disp.signExtend 64 * BitVec.ofNat 64 z) hp hplain (uniBytes r d z)
  rw [uniBytes_length hz] at hstore
  exact hstore

/-- `sstrl` stores past the L1 (R209). -/
theorem sstrl_writes : UniformWrites (.sstrl d e w ord) (atomBytes w) false .storePast (some ord) (fun r => r.S64 (2 * e.toNat))
    fun r => (List.range (atomBytes w)).map fun k => (r.S (d.toNat + k / 4)).extractLsb' (8 * (k % 4)) 8 := by
  intro s s1 t look place hi r hr
  have hz : atomBytes w = 4 ∨ atomBytes w = 8 := by cases w <;> decide
  simp only [← uniBytes_eq hz]
  exact sends_of_scalar hi hr (rfl : _ = execSstrl d e w ord s) rfl (by simp [Instr.writes]) fun fr hp => issue_l1_sendsOne hp _ _ _

/-- The form with destination 0 leaves no pending register (R208). -/
theorem uniAtomic_swaps {op : RmwOp} {y : Team → Nat} (he : ∀ s, exec i s = uniAtomic i d e w y ord op s) (hw : d = 0 ↔ i.writes = []) :
    UniformAtomic i d e w ord op y := by
  intro s s1 t look place hi r addr hr
  have hreason : (if d = 0 then none else some 9) = (none : Option Nat) ↔ i.writes = [] := by
    rw [← hw]
    split
    next hd => exact ⟨fun _ => hd, fun _ => rfl⟩
    next hd => exact ⟨fun h => absurd h (Option.some_ne_none 9), fun h => absurd h hd⟩
  exact sends_of_scalar hi hr (he s) rfl hreason fun fr hp => issueRmw_sendsOne hp _ _ _ _ _ look rfl

end

/-- A pair as a number: its second register above its first. -/
theorem toNat_S64 (r : Team) (n : Nat) : (r.S64 n).toNat = (r.S n).toNat + 2 ^ 32 * (r.S (n + 1)).toNat := by
  rw [Team.S64, BitVec.toNat_append, ← Nat.shiftLeft_add_eq_or_of_lt (r.S n).isLt, Nat.shiftLeft_eq]
  omega
/-- The compare value of `satcas` stands below the new value (R208). -/
theorem casOperand_eq (w : Bool) (r : Team) (b : RegNo) :
    (if w then (r.S64 (b.toNat + 2) ++ r.S64 b.toNat).toNat else (r.S64 b.toNat).toNat) =
      if w then (r.S64 b.toNat).toNat + 2 ^ 64 * (r.S64 (b.toNat + 2)).toNat else (r.S b.toNat).toNat + 2 ^ 32 * (r.S (b.toNat + 1)).toNat := by
  cases w with
  | false => exact toNat_S64 r b.toNat
  | true =>
    simp only [if_true]
    rw [BitVec.toNat_append, ← Nat.shiftLeft_add_eq_or_of_lt (r.S64 b.toNat).isLt, Nat.shiftLeft_eq]
    omega

end Sys2Proof.Machine
end

section
/-! PROOF of O27. -/

namespace Sys2Proof
open Machine

/-- Settles O27: each instruction by the body that it shares with its like, the operands as numbers and bytes. -/
theorem uniformMemory : Obligations.UniformMemory := by
  unfold Obligations.UniformMemory
  intro d a b disp e w o ord
  have hdest : ∀ n, d = 0 ↔ (if d = 0 then [] else [(⟨.s, d.toNat, n, false⟩ : RegUse)]) = [] := fun n => by
    split
    next hd => exact ⟨fun _ => rfl, fun _ => hd⟩
    next hd => exact ⟨fun h => absurd h hd, fun h => absurd h (List.cons_ne_nil _ _)⟩
  refine ⟨uniLoad_reads (fun _ => rfl) (List.cons_ne_nil _ _), uniLoad_reads (fun _ => rfl) (List.cons_ne_nil _ _), sldc_reads, sldaq_reads,
    uniStore_writes (fun _ => rfl) rfl (.inl rfl), uniStore_writes (fun _ => rfl) rfl (.inr rfl), sstrl_writes,
    uniAtomic_swaps (fun _ => rfl) (hdest _), uniAtomic_swaps (fun _ => rfl) (hdest _), ?_⟩
  simp only [← casOperand_eq]
  exact uniAtomic_swaps (fun _ => rfl) (hdest _)

end Sys2Proof
end

section
/-! SUPPORT of O17: the check of a barrier, and what an operation on a barrier leaves of its crew (R229). -/

namespace Sys2Proof.Machine

/-- A slot whose path blocks in a state that the slot has changed, and in which no deferred path can come in (R27). -/
theorem exec_of_block {s s1 : State} {t u : Team} {i : Instr} {c : Cond} (hi : Issues s t i) {body : (r t : Team) → State → Res}
    (he : exec i s = slot i body s) (hb : body (t.viewAt s.clk) t s = .block s1 c) (hu : s1.me = some u) (hs : ∀ p ∈ u.slots, p.v = false) :
    exec i s = .next (s1.setTeam s1.cur { u with blk := some c }) := by
  rw [he, slot_issues hi, hb]
  exact congrArg _ (blockOn_alone hu hs c)

/-- A slot's destination becomes pending on a result (R66). -/
theorem markPending_eq {s : State} {t : Team} {i : Instr} {x : RegUse} {xs : List RegUse} (hm : s.me = some t) (hw : i.writes = x :: xs) (reason : Nat)
    (data : PendData) : s.markPending i reason data = { s.setTeam s.cur { t.dropFutures i.writes with
      pends := (t.dropFutures i.writes).pends ++ [⟨s.serial, x.file, x.n, x.cnt, reason, t.pc, data, []⟩] } with serial := s.serial + 1 } := by
  unfold State.markPending
  simp only [hm, hw]
  rfl

theorem crewOf_congr {s s' : State} (h : s'.gangs = s.gangs) (t : Team) : s'.crewOf t = s.crewOf t := gangCrew_congr h t t.crew

/-- A barrier after the check that follows every operation on it: a phase that is complete makes way for the next one (R229). -/
def Barrier.checked (b : Barrier) : Barrier :=
  if b.expect ≤ b.arrived ∧ b.pend = 0 then { b with arrived := 0, sum := 0, count := b.count + 1 } else b
/-- A team of the crew after that check: its `barrv` results of a phase that is complete are on their way. -/
def Team.afterCheck (t : Team) (k : Nat) (b : Barrier) : Team := if b.expect ≤ b.arrived ∧ b.pend = 0 then t.sumReady k b.sum else t

theorem find_map_teams (f : Team → Team) (c : Team → Prop) [DecidablePred c] (id : Nat) : ∀ m : SMap Team,
    SMap.find (m.map fun (p : Nat × Team) => if c p.2 then (p.1, f p.2) else p) id = (m.find id).map fun t => if c t then f t else t
  | [] => rfl
  | (k, t) :: m => by
    have hrest := find_map_teams f c id m
    by_cases hk : k = id
    · by_cases hc : c t <;> simp [SMap.find, hc, hk]
    · by_cases hc : c t <;> simpa [SMap.find, hc, hk] using hrest

theorem phaseAcquire_caches (s : State) (gang crew : Nat) (job : Bool) : ∃ cs, s.phaseAcquire gang crew job = { s with caches := cs } := by
  unfold State.phaseAcquire
  split
  · exact ⟨_, rfl⟩
  · split
    · exact ⟨_, rfl⟩
    · split <;> exact ⟨_, rfl⟩

/-- A kernel without rollback wants no checkpoint (R445). -/
theorem wantPhaseCheckpoint_plain {s : State} {gang : Nat} (k : Nat) (h : ∀ g, s.gangs.find gang = some g → g.kernel.rollback = false) :
    s.wantPhaseCheckpoint gang k = s := by
  unfold State.wantPhaseCheckpoint
  split
  · rename_i g hg
    rw [h g hg]
    rfl
  · rfl

/-- What an operation on a barrier of the current team's crew leaves: the team is `u` and the crew `cr`. -/
structure BarrierMoved (s s' : State) (t u : Team) (cr : Crew) : Prop where
  me : s'.me = some u
  crew : s'.crewOf t = some cr
  cur : s'.cur = s.cur
  contexts : s'.contexts = s.contexts
  mem : s'.mem = s.mem

section
variable {s : State} {t : Team} {cr : Crew} {k : Nat} {b : Barrier}

theorem modify_barrier (hb : cr.barriers[k]? = some b) (f : Barrier → Barrier) : cr.barriers.modify k f = cr.barriers.set k (f b) := by
  refine List.ext_getElem? fun j => ?_
  rw [List.getElem?_modify, List.getElem?_set]
  by_cases hj : k = j
  · subst hj
    obtain ⟨hlt, rfl⟩ := List.getElem?_eq_some_iff.1 hb
    simp [hlt]
  · simp [hj]
theorem getElem?_set_barrier (hb : cr.barriers[k]? = some b) (b' : Barrier) : (cr.barriers.set k b')[k]? = some b' := by
  obtain ⟨hlt, -⟩ := List.getElem?_eq_some_iff.1 hb
  exact List.getElem?_set_self hlt

/-- The check of a barrier whose phase is not complete. -/
theorem checkBarrier_open {job : Bool} (hc : s.gangCrew t t.crew = some cr) (hb : cr.barriers[k]? = some b)
    (he : ¬ (b.expect ≤ b.arrived ∧ b.pend = 0)) : s.checkBarrier t.gang t.crew k job = s := by
  have hc' : (s.gangs.find t.gang).bind (·.crew? t.crew) = some cr := hc
  unfold State.checkBarrier
  simp only [hc', hb]
  rw [if_neg (by simpa using he)]

/-- The check of a barrier whose phase is complete (R229). -/
theorem checkBarrier_complete {job : Bool} (hm : s.me = some t) (hc : s.gangCrew t t.crew = some cr) (hb : cr.barriers[k]? = some b)
    (hg : ∀ g, s.gangs.find t.gang = some g → g.kernel.rollback = false) (he : b.expect ≤ b.arrived ∧ b.pend = 0) :
    BarrierMoved s (s.checkBarrier t.gang t.crew k job) t (t.sumReady k b.sum)
      { cr with barriers := cr.barriers.set k { b with arrived := 0, sum := 0, count := b.count + 1 } } := by
  have hc' : (s.gangs.find t.gang).bind (·.crew? t.crew) = some cr := hc
  unfold State.checkBarrier
  simp only [hc', hb]
  rw [if_pos (by simpa using he)]
  generalize hx : ({ s.updCrew t.gang t.crew fun c => { c with barriers := c.barriers.set k { b with arrived := 0, sum := 0, count := b.count + 1 } } with
      teams := (s.updCrew t.gang t.crew fun c => { c with barriers := c.barriers.set k { b with arrived := 0, sum := 0, count := b.count + 1 } }).teams.map
        fun (p : Nat × Team) => if (decide (p.2.gang = t.gang) && decide (p.2.crew = t.crew)) = true then (p.1, p.2.sumReady k b.sum) else p } : State) = x
  obtain ⟨cs, hcs⟩ := phaseAcquire_caches x t.gang t.crew job
  have hgang : ∀ g, x.gangs.find t.gang = some g → g.kernel.rollback = false := by
    subst hx
    intro g h
    obtain ⟨g0, hg0, -⟩ := Option.bind_eq_some_iff.1 hc'
    simp only [State.updCrew, State.updGang, hg0, SMap.find_insert_same, Option.some.injEq] at h
    subst h
    exact hg g0 hg0
  rw [hcs, wantPhaseCheckpoint_plain (s := { x with caches := cs }) t.crew hgang]
  subst hx
  have hme : (s.updCrew t.gang t.crew fun c => { c with barriers := c.barriers.set k { b with arrived := 0, sum := 0, count := b.count + 1 } }).teams.find
      s.cur = some t := by rw [State.updCrew_teams]; exact hm
  refine ⟨?_, gangCrew_updCrew hc _, State.updCrew_cur _ _ _ _, State.updCrew_contexts _ _ _ _, State.updCrew_mem _ _ _ _⟩
  unfold State.me
  dsimp only
  rw [State.updCrew_cur, find_map_teams (fun t => t.sumReady k b.sum) (fun u => (decide (u.gang = t.gang) && decide (u.crew = t.crew)) = true) s.cur, hme]
  simp

/-- A barrier operation of the current team's crew, with the check that follows it (R229). -/
theorem barrierOp_moves (hm : s.me = some t) (hc : s.crewOf t = some cr) (hb : cr.barriers[k]? = some b)
    (hg : ∀ g, s.gangOf t = some g → g.kernel.rollback = false) (f : Barrier → Barrier) :
    BarrierMoved s (s.barrierOp t.gang t.crew k false f) t (t.afterCheck k (f b)) { cr with barriers := cr.barriers.set k (f b).checked } := by
  have hcrew := gangCrew_updCrew (t := t) (k := t.crew) hc fun c => { c with barriers := c.barriers.modify k f }
  rw [modify_barrier hb f] at hcrew
  have hb' := getElem?_set_barrier hb (f b)
  have hme : (s.updCrew t.gang t.crew fun c => { c with barriers := c.barriers.modify k f }).me = some t := by
    unfold State.me
    rw [State.updCrew_teams, State.updCrew_cur]
    exact hm
  have hgang : ∀ g, (s.updCrew t.gang t.crew fun c => { c with barriers := c.barriers.modify k f }).gangs.find t.gang = some g →
      g.kernel.rollback = false := fun g h => by
    obtain ⟨g0, hg0, -⟩ := Option.bind_eq_some_iff.1 hc
    unfold State.gangOf at hg0 hg
    simp only [State.updCrew, State.updGang, hg0, SMap.find_insert_same, Option.some.injEq] at h
    subst h
    exact hg g0 hg0
  unfold State.barrierOp Team.afterCheck Barrier.checked
  by_cases he : (f b).expect ≤ (f b).arrived ∧ (f b).pend = 0
  · obtain ⟨h1, h2, h3, h4, h5⟩ := checkBarrier_complete (job := false) hme hcrew hb' hgang he
    rw [if_pos he, if_pos he]
    rw [List.set_set] at h2
    exact ⟨h1, h2, h3.trans (State.updCrew_cur _ _ _ _), h4.trans (State.updCrew_contexts _ _ _ _), h5.trans (State.updCrew_mem _ _ _ _)⟩
  · rw [if_neg he, if_neg he, checkBarrier_open hcrew hb' he]
    exact ⟨hme, hcrew, State.updCrew_cur _ _ _ _, State.updCrew_contexts _ _ _ _, State.updCrew_mem _ _ _ _⟩

/-- Whether the phase that an arrival belongs to has completed (R230). -/
theorem condHolds_phase (hc : s.crewOf t = some cr) (hw : cr.rb.wanted = none) (hb : cr.barriers[k]? = some b) (id n : Nat) :
    condHolds s id t (.phase k n) = decide (n < b.count) := by
  unfold condHolds
  simp only [hc, hb, hw, Option.isNone_none, Bool.and_true]
theorem barrier?_of (hc : s.crewOf t = some cr) (hb : cr.barriers[k]? = some b) : s.barrier? t k = some b := by
  unfold State.barrier?
  rw [hc]
  exact hb
theorem phases_of (hc : s.crewOf t = some cr) (hb : cr.barriers[k]? = some b) : s.phases t k = b.count := by
  unfold State.phases
  rw [barrier?_of hc hb]
/-- Where an arrival leaves the path (R230). -/
theorem afterArrival_eq (hc : s.crewOf t = some cr) (hw : cr.rb.wanted = none) (hb : cr.barriers[k]? = some b) (n : Nat) :
    s.afterArrival t k n = if n < b.count then .done s else .block (s.updMe fun t => { t with mark := some n }) (.phase k n) := by
  unfold State.afterArrival
  rw [phases_of hc hb, condHolds_phase hc hw hb]
  simp

end

end Sys2Proof.Machine
end

section
/-! SUPPORT of O17: the barrier instructions (R230). -/

namespace Sys2Proof.Machine

theorem afterCheck_complete {b : Barrier} (h : b.expect ≤ b.arrived ∧ b.pend = 0) (t : Team) (k : Nat) : t.afterCheck k b = t.sumReady k b.sum := if_pos h
theorem afterCheck_open {b : Barrier} (h : ¬ (b.expect ≤ b.arrived ∧ b.pend = 0)) (t : Team) (k : Nat) : t.afterCheck k b = t := if_neg h
theorem checked_complete {b : Barrier} (h : b.expect ≤ b.arrived ∧ b.pend = 0) :
    b.checked = { b with arrived := 0, sum := 0, count := b.count + 1 } := if_pos h
theorem checked_open {b : Barrier} (h : ¬ (b.expect ≤ b.arrived ∧ b.pend = 0)) : b.checked = b := if_neg h
/-- The check changes nothing of a team but its results on their way. -/
theorem afterCheck_pends (t : Team) (k : Nat) (b : Barrier) : ∃ ps, t.afterCheck k b = { t with pends := ps } := by
  unfold Team.afterCheck
  split
  · exact ⟨_, rfl⟩
  · exact ⟨_, rfl⟩

section
variable {s : State} {t : Team} {cr : Crew} {b : Barrier} {d k c : RegNo} {i : Instr}

/-- A slot that is done with a barrier operation: the team goes on, and the crew is as the operation left it. -/
theorem ends_of_barrier {s1 : State} {u : Team} {cr' : Crew} (hi : Issues s t i) {body : (r t : Team) → State → Res} (he : exec i s = slot i body s)
    (hb : body (t.viewAt s.clk) t s = .done s1) (hop : BarrierMoved s s1 t u cr') (hk : u.kernel.rollback = false) :
    ∃ s' t', exec i s = .next s' ∧ s'.teams.find s.cur = some t' ∧ RegsAfter u t' newNothing ∧ t'.fstat = u.fstat ∧
      t'.pends = (u.dropFutures i.writes).pends ∧ t'.still = u.still ∧ StepsOn i u t' ∧ s'.crewOf t = some cr' := by
  obtain ⟨hme, hcrew, hcur, -, -⟩ := hop
  obtain ⟨s', t', hexec, hfind, hregs, hf, hp, hst, hon, hrest⟩ := ends_of_done hi he hb hme hcur
  exact ⟨s', t', hexec, hfind, hregs, hf, hp, hst, hon, (crewOf_congr (hrest.gangs hk) t).trans hcrew⟩

/-- The path of a slot that blocks after a barrier operation waits with its arrival marked (R230). -/
theorem blocks_of_barrier {s1 : State} {u : Team} {cr' : Crew} {n m : Nat} (hi : Issues s t i) {body : (r t : Team) → State → Res}
    (he : exec i s = slot i body s) (hb : body (t.viewAt s.clk) t s = .block (s1.updMe fun t => { t with mark := some n }) (.phase m n))
    (hop : BarrierMoved s s1 t u cr') (hs : ∀ p ∈ u.slots, p.v = false) :
    ∃ s', exec i s = .next s' ∧ s'.teams.find s.cur = some { u with mark := some n, blk := some (.phase m n) } ∧ s'.crewOf t = some cr' ∧
      SameMemory s s' := by
  obtain ⟨hme, hcrew, hcur, -, hmem⟩ := hop
  have hexec := exec_of_block hi he hb (State.updMe_me _ hme) hs
  refine ⟨_, hexec, ?_, (crewOf_congr (State.updMe_gangs _ _) t).trans hcrew, fun a => ?_⟩
  · rw [← hcur, ← State.updMe_cur s1]
    exact State.setTeam_find _ _ _
  · rw [State.setTeam_mem, State.updMe_mem, hmem]

/-- A path whose phase has completed goes on (R230). -/
theorem leaves_of_phase {n : Nat} (hi : Issues s t i) (hc : s.crewOf t = some cr) (hw : cr.rb.wanted = none) (hb : cr.barriers[k.toNat]? = some b)
    (hn : n < b.count) {body : (r t : Team) → State → Res} (he : exec i s = slot i body s)
    (hbody : body (t.viewAt s.clk) t s = if condHolds s s.cur t (.phase k.toNat n) then .done s else .block s (.phase k.toNat n))
    (hwr : i.writes = []) : Leaves s i t (nextPc t.pc i.hasLit) :=
  leaves_of_nothing hi he (by rw [hbody, condHolds_phase hc hw hb, if_pos (by simpa using hn)]) hwr

/-- An arrival whose barrier is `b'` after it, by whether the phase has completed. -/
theorem afterArrival_of_moved {s1 : State} {u : Team} {b' : Barrier} (hop : BarrierMoved s s1 t u { cr with barriers := cr.barriers.set k.toNat b' })
    (hw : cr.rb.wanted = none) (hb : cr.barriers[k.toNat]? = some b) (n : Nat) : s1.afterArrival t k.toNat n =
      if n < b'.count then .done s1 else .block (s1.updMe fun t => { t with mark := some n }) (.phase k.toNat n) :=
  afterArrival_eq hop.crew hw (getElem?_set_barrier hb b') n

variable (hc : s.crewOf t = some cr) (hw : cr.rb.wanted = none) (hb : cr.barriers[k.toNat]? = some b)
  (hg : ∀ g, s.gangOf t = some g → g.kernel.rollback = false)
include hc hw hb hg

/-- What an arrival of `bar` comes to. -/
theorem execBar_body (hi : Issues s t (.bar k)) (hm : t.mark = none) :
    ∃ s1, BarrierMoved s s1 t (t.afterCheck k.toNat { b with arrived := b.arrived + 1 })
        { cr with barriers := cr.barriers.set k.toNat (Barrier.checked { b with arrived := b.arrived + 1 }) } ∧
      exec (.bar k) s = slot (.bar k) (fun _ _ _ => if b.count < (Barrier.checked { b with arrived := b.arrived + 1 }).count then .done s1
        else .block (s1.updMe fun t => { t with mark := some b.count }) (.phase k.toNat b.count)) s := by
  have hop := barrierOp_moves hi.1 hc hb hg fun b => { b with arrived := b.arrived + 1 }
  refine ⟨_, hop, slot_answers hi (rfl : _ = execBar k s) ?_⟩
  simp only [hm, phases_of hc hb]
  exact afterArrival_of_moved hop hw hb b.count

theorem execBar_complete (hr : t.kernel.rollback = false) (hi : Issues s t (.bar k)) (hm : t.mark = none)
    (he : b.expect ≤ b.arrived + 1 ∧ b.pend = 0) : ∃ s' t', exec (.bar k) s = .next s' ∧
      s'.teams.find s.cur = some t' ∧ GoesAs (t.sumReady k.toNat b.sum) t' (nextPc t.pc false) ∧
      s'.crewOf t = some { cr with barriers := cr.barriers.set k.toNat (Barrier.checked { b with arrived := b.arrived + 1 }) } ∧
      (Untraced s → SameMemory s s') := by
  obtain ⟨s1, hop, hexec⟩ := execBar_body hc hw hb hg hi hm
  rw [afterCheck_complete he] at hop
  rw [checked_complete he] at hexec hop ⊢
  obtain ⟨hme, hcrew, hcur, hcont, hmem⟩ := hop
  obtain ⟨s', hnext, ⟨t', hfind, hgoes⟩, hrest⟩ := leavesIn_of_done hi hexec (if_pos (Nat.lt_succ_self b.count)) hme rfl
  exact ⟨s', t', hnext, hcur ▸ hfind, hgoes, (crewOf_congr (hrest.gangs hr) t).trans hcrew,
    hrest.sameMemory (untraced_of_contexts hcont) hmem⟩

theorem execBar_waits (hi : Issues s t (.bar k)) (hm : t.mark = none) (he : ¬ (b.expect ≤ b.arrived + 1 ∧ b.pend = 0))
    (hs : ∀ p ∈ t.slots, p.v = false) : ∃ s', exec (.bar k) s = .next s' ∧
      s'.teams.find s.cur = some { t with mark := some b.count, blk := some (.phase k.toNat b.count) } ∧
      s'.crewOf t = some { cr with barriers := cr.barriers.set k.toNat { b with arrived := b.arrived + 1 } } ∧ SameMemory s s' := by
  obtain ⟨s1, hop, hexec⟩ := execBar_body hc hw hb hg hi hm
  rw [afterCheck_open he] at hop
  rw [checked_open he] at hexec hop
  exact blocks_of_barrier hi hexec (if_neg (Nat.lt_irrefl _)) hop hs

omit hw in
theorem execBarpend_ends (hr : t.kernel.rollback = false) (o : OpU) (hi : Issues s t (.barpend k o)) :
    ∃ s' t', exec (.barpend k o) s = .next s' ∧ s'.teams.find s.cur = some t' ∧
      RegsAfter t t' newNothing ∧ t'.fstat = t.fstat ∧ t'.still = t.still ∧ StepsOn (.barpend k o) t t' ∧
      s'.crewOf t = some { cr with barriers := cr.barriers.set k.toNat (Barrier.checked { b with pend := b.pend + (t.viewAt s.clk).opu o }) } := by
  have hop := barrierOp_moves hi.1 hc hb hg fun b => { b with pend := b.pend + (t.viewAt s.clk).opu o }
  obtain ⟨ps, hps⟩ := afterCheck_pends t k.toNat { b with pend := b.pend + (t.viewAt s.clk).opu o }
  rw [hps] at hop
  obtain ⟨s', t', hexec, hfind, hregs, hf, -, hst, hon, hcrew⟩ := ends_of_barrier hi (rfl : _ = execBarpend k o s) rfl hop hr
  exact ⟨s', t', hexec, hfind, hregs, hf, hst, hon, hcrew⟩

/-- The team of a `barrv` that has marked its destination pending (R230). -/
def Team.awaitsSum (t : Team) (serial : Nat) (d k : RegNo) : Team :=
  { t.dropFutures [⟨.s, d.toNat, 1, false⟩] with
    pends := (t.dropFutures [⟨.s, d.toNat, 1, false⟩]).pends ++ [⟨serial, .s, d.toNat, 1, 13, t.pc, .sum k.toNat, []⟩] }

omit hc hw hb hg in
/-- Once the phase is complete its SUM is on its way to that destination. -/
theorem awaitsSum_ready (t : Team) (serial : Nat) (d k : RegNo) (x : Word) : ∃ ps, (t.awaitsSum serial d k).sumReady k.toNat x = { t with pends := ps } ∧
    (⟨serial, .s, d.toNat, 1, 13, t.pc, .values [⟨.s, d.toNat, 0, x⟩] 0, []⟩ : Pend) ∈ ps :=
  ⟨_, rfl, List.mem_map.2 ⟨⟨serial, .s, d.toNat, 1, 13, t.pc, .sum k.toNat, []⟩, List.mem_append_right _ (List.mem_singleton_self _), if_pos rfl⟩⟩

/-- What an arrival of `barrv` comes to. -/
theorem execBarrv_body (hi : Issues s t (.barrv d k c)) (hm : t.mark = none) (ho : s.overfull (.barrv d k c) = false) {b1 : Barrier}
    (hb1 : b1 = { b with arrived := b.arrived + 1, sum := b.sum + (t.viewAt s.clk).S c.toNat }) :
    ∃ s1, BarrierMoved s s1 t ((t.awaitsSum s.serial d k).afterCheck k.toNat b1) { cr with barriers := cr.barriers.set k.toNat b1.checked } ∧
      exec (.barrv d k c) s = slot (.barrv d k c) (fun _ _ _ => if b.count < b1.checked.count then .done s1
        else .block (s1.updMe fun t => { t with mark := some b.count }) (.phase k.toNat b.count)) s := by
  have hmark : s.markPending (.barrv d k c) 13 (.sum k.toNat) =
      { s.setTeam s.cur (t.awaitsSum s.serial d k) with serial := s.serial + 1 } := (markPending_eq hi.1 (i := .barrv d k c) rfl 13 _).trans rfl
  have hop := barrierOp_moves (s := { s.setTeam s.cur (t.awaitsSum s.serial d k) with serial := s.serial + 1 }) (t := t.awaitsSum s.serial d k)
    (State.setTeam_me s _) hc hb hg fun b => { b with arrived := b.arrived + 1, sum := b.sum + (t.viewAt s.clk).S c.toNat }
  subst hb1
  have hop' : BarrierMoved s _ t _ _ := ⟨hop.me, hop.crew, hop.cur, hop.contexts, hop.mem⟩
  refine ⟨_, hop', slot_answers hi (rfl : _ = execBarrv d k c s) ?_⟩
  simp only [hm, ho, Bool.false_eq_true, if_false, phases_of hc hb, hmark]
  exact afterArrival_of_moved hop' hw hb b.count

theorem execBarrv_complete (hr : t.kernel.rollback = false) (hi : Issues s t (.barrv d k c)) (hm : t.mark = none)
    (ho : s.overfull (.barrv d k c) = false) (he : b.expect ≤ b.arrived + 1 ∧ b.pend = 0) :
    ∃ s' t' p, exec (.barrv d k c) s = .next s' ∧ s'.teams.find s.cur = some t' ∧ p ∈ t'.pends ∧ p.file = .s ∧ p.n = d.toNat ∧
      p.data = .values [⟨.s, d.toNat, 0, b.sum + (t.viewAt s.clk).S c.toNat⟩] 0 ∧ RegsAfter t t' newNothing ∧ t'.fstat = t.fstat ∧
      t'.still = t.still ∧ StepsOn (.barrv d k c) t t' ∧
      s'.crewOf t = some { cr with barriers := cr.barriers.set k.toNat { b with arrived := 0, sum := 0, count := b.count + 1 } } := by
  obtain ⟨s1, hop, hexec⟩ := execBarrv_body hc hw hb hg hi hm ho rfl
  obtain ⟨ps, hps, hmem⟩ := awaitsSum_ready t s.serial d k (b.sum + (t.viewAt s.clk).S c.toNat)
  rw [checked_complete he] at hexec hop
  rw [afterCheck_complete he, hps] at hop
  obtain ⟨s', t', hnext, hfind, hregs, hf, hp, hst, hon, hcrew⟩ := ends_of_barrier hi hexec (if_pos (Nat.lt_succ_self b.count)) hop hr
  exact ⟨s', t', _, hnext, hfind, hp ▸ mem_dropFutures hmem rfl _, rfl, rfl, rfl, hregs, hf, hst, hon, hcrew⟩

theorem execBarrv_waits (hi : Issues s t (.barrv d k c)) (hm : t.mark = none) (ho : s.overfull (.barrv d k c) = false)
    (he : ¬ (b.expect ≤ b.arrived + 1 ∧ b.pend = 0)) (hs : ∀ p ∈ t.slots, p.v = false) :
    let b' : Barrier := { b with arrived := b.arrived + 1, sum := b.sum + (t.viewAt s.clk).S c.toNat }
    ∃ s', exec (.barrv d k c) s = .next s' ∧
      s'.teams.find s.cur = some { t.awaitsSum s.serial d k with mark := some b.count, blk := some (.phase k.toNat b.count) } ∧
      s'.crewOf t = some { cr with barriers := cr.barriers.set k.toNat b' } := by
  obtain ⟨s1, hop, hexec⟩ := execBarrv_body hc hw hb hg hi hm ho rfl
  rw [afterCheck_open he] at hop
  rw [checked_open he] at hexec hop
  obtain ⟨s', hnext, hfind, hcrew, -⟩ := blocks_of_barrier hi hexec (if_neg (Nat.lt_irrefl _)) hop hs
  exact ⟨s', hnext, hfind, hcrew⟩

omit hw hg in
/-- `barw` at an idle barrier whose last phase is done (R230). -/
theorem execBarw_idle (hi : Issues s t (.barw k)) (hm : t.mark = none) (ha : b.arrived = 0) (hp : b.pend = 0) (hn : b.count ≠ 0) :
    Leaves s (.barw k) t (nextPc t.pc false) :=
  leaves_of_nothing hi (rfl : _ = execBarw k s) (by simp [hm, barrier?_of hc hb, ha, hp, hn]) rfl

omit hw hg in
/-- `barw` elsewhere waits for the phase that goes on (R230). -/
theorem execBarw_waits (hi : Issues s t (.barw k)) (hm : t.mark = none) (hx : b.arrived ≠ 0 ∨ b.pend ≠ 0 ∨ b.count = 0)
    (hs : ∀ p ∈ t.slots, p.v = false) : exec (.barw k) s =
      .next ((s.setTeam s.cur { t with mark := some b.count }).setTeam s.cur { t with mark := some b.count, blk := some (.phase k.toNat b.count) }) := by
  refine exec_of_block hi (rfl : _ = execBarw k s) ?_ (State.setTeam_me s { t with mark := some b.count }) hs
  have hx' : ¬ ((decide (b.arrived = 0) && b.pend == 0#32 && b.count != 0) = true) := by
    simp only [Bool.and_eq_true, decide_eq_true_eq, beq_iff_eq, bne_iff_ne]
    rintro ⟨⟨h1, h2⟩, h3⟩
    rcases hx with h | h | h <;> contradiction
  simp only [hm, barrier?_of hc hb]
  rw [if_neg hx', updMe_eq hi.1]

end

end Sys2Proof.Machine
end

section
/-! PROOF of O17. -/

namespace Sys2Proof
open Machine

/-- Settles O17: an operation on a barrier is one change of its crew, after which the check either ends the phase or leaves it open. -/
theorem crewBarriers : Obligations.CrewBarriers := by
  unfold Obligations.CrewBarriers
  intro s t cr k b hc hw hb hroll hg after ends
  refine ⟨fun hi hm he => execBar_complete hc hw hb hg hroll hi hm he, fun hi hm he hs => ?_,
    fun n hi hm hn => leaves_of_phase hi hc hw hb hn (rfl : _ = execBar k s) (by simp only [hm]) rfl,
    fun d c hi hm ho he => execBarrv_complete hc hw hb hg hroll hi hm ho he, fun d c hi hm ho he hs => ?_,
    fun hi hm ha hp hn => execBarw_idle hc hb hi hm ha hp hn, fun hi hm hx hs => ?_,
    fun n hi hm hn => leaves_of_phase hi hc hw hb hn (rfl : _ = execBarw k s) (by simp only [hm]) rfl,
    fun o hi => execBarpend_ends hc hb hg hroll o hi⟩
  · obtain ⟨s', hnext, hfind, hcrew, hmem⟩ := execBar_waits hc hw hb hg hi hm he hs
    exact ⟨s', _, hnext, hfind, rfl, rfl, rfl, rfl, regsAfter_of_files rfl rfl rfl, rfl, rfl, hcrew, hmem⟩
  · obtain ⟨s', hnext, hfind, hcrew⟩ := execBarrv_waits hc hw hb hg hi hm ho he hs
    exact ⟨s', _, ⟨s.serial, .s, d.toNat, 1, 13, t.pc, .sum k.toNat, []⟩, hnext, hfind, List.mem_append_right _ (List.mem_singleton_self _), rfl,
      rfl, rfl, rfl, rfl, regsAfter_of_files rfl rfl rfl, hcrew⟩
  · exact ⟨_, _, execBarw_waits hc hb hi hm hx hs, State.setTeam_find _ _ _, rfl, rfl, rfl, regsAfter_of_files rfl rfl rfl, rfl, rfl, fun _ => rfl⟩

end Sys2Proof
end

section
/-! SUPPORT of O31: commands that join the queue of a team's array, or wait for room there (R244). -/

namespace Sys2Proof.Machine

theorem updArray_me (s : State) (gang : Nat) (f : Array → Array) : (s.updArray gang f).me = s.me := by
  unfold State.me
  rw [State.updArray_teams, State.updArray_cur]
theorem kick_me (s : State) (gang : Nat) : (s.kick gang).me = s.me := updArray_me s gang _

/-- The state after a command has joined the queue of a team's array, which then goes as far as it goes at once. -/
def State.queueCmd (s : State) (t : Team) (c : Cmd) : State := (s.updArray t.gang fun a => { a with cmds := a.cmds ++ [c] }).kick t.gang
theorem queueCmd_me (s : State) (t : Team) (c : Cmd) : (s.queueCmd t c).me = s.me := (kick_me _ _).trans (updArray_me _ _ _)

section
variable {s : State} {t : Team} {x : Array} {i : Instr} {body : (r t : Team) → State → Res}

theorem command_room (hx : s.arrayOf t = some x) (hq : x.queued.length < 16) (c : Cmd) : s.command t c = .done (s.queueCmd t c) := by
  unfold State.command
  simp only [hx, hq, if_true]
  rfl
theorem command_full (hx : s.arrayOf t = some x) (hq : 16 ≤ x.queued.length) (c : Cmd) : s.command t c = .block s .commandRoom := by
  unfold State.command
  simp only [hx, Nat.not_lt.2 hq, if_false]

theorem leavesIn_of_command {c : Cmd} (hi : Issues s t i) (hx : s.arrayOf t = some x) (hq : x.queued.length < 16) (he : exec i s = slot i body s)
    (hb : body (t.viewAt s.clk) t s = s.command t c) (hw : i.writes = []) : LeavesIn s i (s.queueCmd t c) t (nextPc t.pc i.hasLit) :=
  leavesIn_of_done hi he (hb.trans (command_room hx hq c)) ((queueCmd_me s t c).trans hi.1) hw

/-- A slot that blocks with nothing changed, where no deferred path can come in. -/
theorem waits_of_block {c : Cond} (hi : Issues s t i) (he : exec i s = slot i body s) (hb : body (t.viewAt s.clk) t s = .block s c)
    (hs : ∀ p ∈ t.slots, p.v = false) : ∃ s' t', exec i s = .next s' ∧ s'.teams.find s.cur = some t' ∧ t'.blk = some c ∧ t'.pc = t.pc ∧
      RegsAfter t t' newNothing ∧ t'.still = t.still ∧ s'.gangs = s.gangs ∧ SameMemory s s' :=
  ⟨_, _, exec_of_block hi he hb hi.1 hs, State.setTeam_find _ _ _, rfl, rfl, regsAfter_of_files rfl rfl rfl, rfl, rfl, fun _ => rfl⟩

end

/-- The low words of a number, put together again. -/
theorem leNat_lowWords (v n : Nat) : leNat ((List.range n).flatMap fun i => wordBytes (BitVec.ofNat 32 (v / 2 ^ (32 * i)))) = v % 2 ^ (32 * n) := by
  induction n with
  | zero => simp [leNat, Nat.mod_one]
  | succ n ih =>
    have hlen : ((List.range n).flatMap fun i => wordBytes (BitVec.ofNat 32 (v / 2 ^ (32 * i)))).length = 4 * n := by
      simpa [List.flatMap_map] using length_words ((List.range n).map fun i => BitVec.ofNat 32 (v / 2 ^ (32 * i)))
    rw [List.range_succ, List.flatMap_append, leNat_append, hlen, ih, List.flatMap_singleton, leNat_wordBytes, BitVec.toNat_ofNat,
      show 256 ^ (4 * n) = 2 ^ (32 * n) by rw [show (256 : Nat) = 2 ^ 8 by decide, ← Nat.pow_mul]; congr 1; ring,
      Nat.mul_succ, Nat.pow_add, Nat.mod_mul]
/-- The eight words of a format block, put together again (R243). -/
theorem block_of_words (v : Nat) : BitVec.ofNat 256 (leNat (((List.range 8).map fun i => (⟨.s, i, 0, BitVec.ofNat 32 (v / 2 ^ (32 * i))⟩ : RegWrite)).flatMap
    fun w => wordBytes w.val)) = BitVec.ofNat 256 v := by
  rw [List.flatMap_map, leNat_lowWords]
  exact BitVec.eq_of_toNat_eq (by simp)

/-- An instruction of no lane whose look-ups all go through is performed (R164, R293). -/
theorem genericMany_noLane {t : Team} {s s1 s2 : State} {a : Access} {w : Bool} {addrs : List DWord} {xs : List (DWord × Looked)}
    {ws : List RegWrite} {fl : BitVec 5} {f : State → Nat → List (DWord × Looked) → Perf} (hd : t.done = 0)
    (hs : seeAll t a w [(noLane, addrs)] s = ([(noLane, xs)], s1)) (hg : ∀ x ∈ xs, x.2.good = true) (hf : f s1 noLane xs = .ok s2 ws fl) :
    genericMany t s a w [(noLane, addrs)] f = .all s2 ws fl := by
  refine genericMany_all (sight_go (todo_noLane hd addrs) hs fun e he => by rw [List.mem_singleton.1 he]; exact hg) ?_
  simp only [performAll, hf, List.nil_append]
  exact congrArg (Acc.all s2 ws) BitVec.zero_or

/-- `mfmt` whose block is read (R243): the command with the block joins the queue. -/
theorem execMfmt_leaves {a : RegNo} {s s1 s2 : State} {t : Team} {x : Array} {pa v : Nat} {page : Translation} (hi : Issues s t (.mfmt a))
    (hx : s.arrayOf t = some x) (hq : x.queued.length < 16) (hd : t.done = 0) (ha : addrCheck ((t.viewAt s.clk).S64 a.toNat) 32 = none)
    (hsee : seeAll t .read false [(noLane, [(t.viewAt s.clk).S64 a.toNat])] s = ([(noLane, [((t.viewAt s.clk).S64 a.toNat, .ok pa page)])], s1))
    (hload : s1.teamLoad t ((t.viewAt s.clk).S64 a.toNat) 32 (.ok pa page) = (s2, some v)) :
    LeavesIn s (.mfmt a) (s2.queueCmd t (.fmt (BitVec.ofNat 256 v))) t (nextPc t.pc false) := by
  obtain ⟨f, hf⟩ := seeAll_frames t .read false [(noLane, [(t.viewAt s.clk).S64 a.toNat])] s
  rw [hsee] at hf
  have hread : Reading s s2 := .trans (by rw [show s1 = { s with frames := f } from hf]; exact ⟨rfl, rfl, rfl, rfl, rfl, rfl⟩) (reading_of_teamLoad hload)
  have hx2 : s2.arrayOf t = some x := by
    unfold State.arrayOf State.gangOf at hx ⊢
    rw [hread.gangs]
    exact hx
  have hroom : condHolds s s.cur t .commandRoom = true := by
    unfold State.arrayOf at hx
    unfold condHolds
    simp only [hx, hq, decide_true]
  refine leavesIn_of_done hi (rfl : _ = execMfmt a s) ?_ ((queueCmd_me s2 t _).trans (hread.me.trans hi.1)) rfl
  simp only [hroom, Bool.not_true, Bool.false_eq_true, if_false, firstBad_none (es := [(noLane, (t.viewAt s.clk).S64 a.toNat)])
    fun e he => by rw [List.mem_singleton.1 he]; exact ha]
  rw [genericMany_noLane (s2 := s2) (fl := 0) hd hsee (fun x hx => by rw [List.mem_singleton.1 hx]; rfl) (by simp only [hload]; rfl)]
  dsimp only
  rw [block_of_words, command_room hx2 hq]

end Sys2Proof.Machine
end

section
/-! PROOF of O31. -/

namespace Sys2Proof
open Machine

/-- Settles O31: each instruction puts its own command, by the rule of the queue that they share; `mwait` by whether the array is idle. -/
theorem matrixCommands : Obligations.MatrixCommands := by
  unfold Obligations.MatrixCommands
  intro puts any
  have hputs : ∀ {i : Instr} {ok : State → Team → Prop} {c : State → Team → Cmd} (body : State → (r t : Team) → State → Res),
      (∀ s, exec i s = slot i (body s) s) → (∀ s t, ok s t → body s (t.viewAt s.clk) t s = s.command t (c s t)) → i.writes = [] → puts i ok c :=
    fun body he hb hw => ⟨fun s t x hi hok hx hq => leavesIn_of_command hi hx hq (he s) (hb s t hok) hw,
      fun s t x hi hok hx hq hs => waits_of_block hi (he s) ((hb s t hok).trans (command_full hx hq _)) hs⟩
  refine ⟨fun d a => hputs _ (fun s => (rfl : _ = execWbld d a s)) (fun s t ha => by simp only [ha]) rfl,
    fun d a n => hputs _ (fun s => (rfl : _ = execMma d a n s)) (fun _ _ _ => rfl) rfl,
    fun d => hputs _ (fun s => (rfl : _ = execMzero d s)) (fun _ _ _ => rfl) rfl,
    fun d => hputs _ (fun s => (rfl : _ = execMdrain d s)) (fun _ _ _ => rfl) rfl,
    fun n => hputs _ (fun s => (rfl : _ = execMburst n s)) (fun _ _ _ => rfl) rfl,
    fun d a s t c hi hc => traps_of_body hi (rfl : _ = execWbld d a s) (by simp only [hc]; rfl),
    fun a s t x pa page s1 s2 v hi hx hq hd => execMfmt_leaves hi hx hq hd, ?_, ?_⟩
  · intro d s t x hi ho hx hidle
    refine pendsIn_of_later hi (rfl : _ = execMwait d s) ?_ ((updArray_me s _ _).trans hi.1) (State.updArray_cur _ _ _) rfl ho
    simp only [hx, hidle, Bool.not_true, Bool.false_eq_true, if_false]
    rfl
  · intro d s t x hi hx hidle hs
    exact waits_of_block hi (rfl : _ = execMwait d s) (by simp only [hx, hidle, Bool.not_false, if_true]) hs

end Sys2Proof
end

section
/-! SUPPORT of O20: a `wait` that arms its words (R235). -/

namespace Sys2Proof.Machine

theorem overfull_congr {s s' : State} (h : s'.me = s.me) (i : Instr) : s'.overfull i = s.overfull i := by
  unfold State.overfull
  rw [h]

section
variable {s s1 : State} {t : Team} {d a b : RegNo}

/-- The team of a `wait` that has armed the words `es` (R235). -/
def Team.armedOn (t : Team) (serial : Nat) (d : RegNo) (es : List (DWord × DWord)) : Team :=
  { t.dropFutures [⟨.s, d.toNat, 1, false⟩] with
    mark := some 0
    pends := (t.dropFutures [⟨.s, d.toNat, 1, false⟩]).pends ++ [⟨serial, .s, d.toNat, 1, 13, t.pc, .armed es, []⟩] }

theorem armWait_eq (hm : s.me = some t) (hk : t.kernel.rollback = false) (ho : s.overfull (.wait d a b) = false) (es : List (DWord × DWord)) :
    ∃ s2, s.armWait (.wait d a b) d (.armed es) = .block s2 (.reg .s d.toNat) ∧ s2.me = some (t.armedOn s.serial d es) ∧ s2.cur = s.cur ∧
      s2.mem = s.mem := by
  have hmark := markPending_eq hm (i := .wait d a b) rfl 13 (.armed es)
  have hme : ((s.markPending (.wait d a b) 13 (.armed es)).updMe fun t => { t with mark := some 0 }).me = some (t.armedOn s.serial d es) :=
    (State.updMe_me (fun t => { t with mark := some 0 }) (by rw [hmark]; exact State.setTeam_me s _)).trans rfl
  unfold State.armWait
  rw [ho, if_neg Bool.false_ne_true]
  refine ⟨_, rfl, ?_, ?_, ?_⟩
  all_goals rw [endAllow_plain hme hk]
  · exact hme
  · rw [State.updMe_cur, hmark]
    rfl
  · rw [State.updMe_mem, hmark]
    rfl

theorem execWait_arms {xs : List (DWord × Looked)} (hi : Issues s t (.wait d a b)) (hm : t.mark = none) (ho : s.overfull (.wait d a b) = false)
    (hd : t.done = 0) (hk : t.kernel.rollback = false) (hs : ∀ p ∈ t.slots, p.v = false)
    (hgood : ∀ e ∈ waitEntries (t.viewAt s.clk) a b, addrCheck e.1 8 = none)
    (hsee : seeAll t .read false [(noLane, (waitEntries (t.viewAt s.clk) a b).map (·.1))] s = ([(noLane, xs)], s1)) (hx : ∀ x ∈ xs, x.2.good = true) :
    ∃ s', exec (.wait d a b) s = .next s' ∧ s'.teams.find s.cur =
      some { t.armedOn s.serial d (waitEntries (t.viewAt s.clk) a b) with blk := some (.reg .s d.toNat) } ∧ SameMemory s s' := by
  obtain ⟨f, hf⟩ := seeAll_frames t .read false [(noLane, (waitEntries (t.viewAt s.clk) a b).map (·.1))] s
  rw [hsee] at hf
  have hs1 : s1 = { s with frames := f } := hf
  have hme : s1.me = s.me := by rw [hs1]; rfl
  obtain ⟨s2, harm, hme2, hcur, hmem⟩ := armWait_eq (hme.trans hi.1) hk ((overfull_congr hme _).trans ho) (waitEntries (t.viewAt s.clk) a b)
  have hbad : firstBad ((waitEntries (t.viewAt s.clk) a b).map fun e => (noLane, e.1)) 8 = none := firstBad_none fun e he => by
    obtain ⟨x, hx, rfl⟩ := List.mem_map.1 he
    exact hgood x hx
  have hexec := exec_of_block hi (rfl : _ = execWait d a b s) (s1 := s2) (c := .reg .s d.toNat) (by
    simp only [hm, Option.isSome_none, Bool.false_eq_true, if_false, hbad,
      genericMany_noLane (f := fun s _ _ => .ok s [] 0) hd hsee hx rfl, harm]) hme2 hs
  rw [hs1] at hcur hmem hexec
  refine ⟨_, hexec, ?_, fun x => ?_⟩
  · rw [hcur]
    exact State.setTeam_find _ _ _
  · rw [State.setTeam_mem, hmem]

/-- A `wait` that has returned goes on (R235). -/
theorem execWait_returned {n : Nat} (hi : Issues s t (.wait d a b)) (hm : t.mark = some n) : ∃ s' t', exec (.wait d a b) s = .next s' ∧
    s'.teams.find s.cur = some t' ∧ GoesAs (t.dropFutures [⟨.s, d.toNat, 1, false⟩]) t' (nextPc t.pc false) ∧ RestKept s s' t := by
  have hme : (s.updMe fun t => t.dropFutures (Instr.wait d a b).writes).me = some (t.dropFutures [⟨.s, d.toNat, 1, false⟩]) :=
    State.updMe_me _ hi.1
  obtain ⟨_, e⟩ := retire_spec hme (.wait d a b)
  obtain ⟨⟨t', hf, hgo⟩, hk⟩ := onward_of_advanced e
  rw [State.updMe_cur] at hf
  refine ⟨_, t', (slot_answers hi (rfl : _ = execWait d a b s) (if_pos (by rw [hm]; rfl))).trans (slot_issues hi _), hf, hgo, ?_⟩
  rw [updMe_eq hi.1] at hk
  simp only [settle, updMe_eq hi.1]
  exact hk.of_setTeam (t := t) rfl

/-- The lowest misaligned word (R235). -/
theorem execWait_traps {k : Nat} (hi : Issues s t (.wait d a b)) (hm : t.mark = none) (hk : k < b.toNat) {cause : Nat}
    (hx : addrCheck ((t.viewAt s.clk).S64 (a.toNat + 4 * k)) 8 = some cause)
    (hlow : ∀ j, j < k → addrCheck ((t.viewAt s.clk).S64 (a.toNat + 4 * j)) 8 = none) :
    Traps s (.wait d a b) cause 0xFFFF ((t.viewAt s.clk).S64 (a.toNat + 4 * k)) := by
  refine traps_of_body hi (rfl : _ = execWait d a b s) ?_
  have hbad : firstBad ((waitEntries (t.viewAt s.clk) a b).map fun e => (noLane, e.1)) 8 = some (cause, noLane, (t.viewAt s.clk).S64 (a.toNat + 4 * k)) := by
    obtain ⟨m, hm⟩ := Nat.exists_eq_add_of_lt hk
    have hnone : (List.range k).findSome? (fun j => (addrCheck ((t.viewAt s.clk).S64 (a.toNat + 4 * j)) 8).map fun c =>
        (c, noLane, (t.viewAt s.clk).S64 (a.toNat + 4 * j))) = none :=
      List.findSome?_eq_none_iff.2 fun j hj => by rw [hlow j (List.mem_range.1 hj)]; rfl
    unfold firstBad waitEntries
    rw [List.findSome?_map, List.findSome?_map, hm, Nat.add_assoc, List.range_add, List.findSome?_append, List.range_succ_eq_map]
    exact (congrArg (Option.or · _) hnone).trans (by simp [hx])
  simp only [hm, Option.isSome_none, Bool.false_eq_true, if_false, hbad]
  rfl

end

end Sys2Proof.Machine
end

section
/-! SUPPORT of O20: a `wait`'s words looked at again, and its return (R235, R484). -/

namespace Sys2Proof.Machine

section
variable {s : State} {t : Team}

/-- The return of a `wait` takes the lowest word that is not as expected. -/
theorem armedDiffers_lowest {es : List (DWord × DWord)} {i : Nat} {x : Armed} (h : s.armedDiffers t es = some (i, x)) :
    x ≠ .same ∧ (∃ e, es[i]? = some e ∧ s.armedLook t e = x) ∧ ∀ j e, j < i → es[j]? = some e → s.armedLook t e = .same := by
  obtain ⟨hx, n, hn, hget, hlow⟩ := List.find?_eq_some_iff_getElem.1 h
  rw [List.getElem_mapIdx, Prod.mk.injEq] at hget
  obtain ⟨rfl, rfl⟩ := hget
  rw [List.length_mapIdx] at hn
  refine ⟨by simpa using hx, ⟨es[n], List.getElem?_eq_getElem hn, rfl⟩, fun j e hj he => ?_⟩
  obtain ⟨hlt, rfl⟩ := List.getElem?_eq_some_iff.1 he
  simpa using hlow j hj

theorem readNat_eq_memNat (s : State) (pa n : Nat) : s.readNat pa n = memNat s.mem pa n := rfl
theorem memNat_lt (m : SMap Byte) (pa n : Nat) : memNat m pa n < 2 ^ (8 * n) := by
  have h := leNat_lt ((List.range n).map fun k => Memory.read m (pa + k))
  rwa [List.length_map, List.length_range] at h

/-- A word of memory compared with another. -/
theorem word64_beq (m : SMap Byte) (pa : Nat) (x : DWord) : (BitVec.ofNat 64 (memNat m pa 8) == x) = decide (memNat m pa 8 = x.toNat) := by
  have hlt := memNat_lt m pa 8
  rw [Bool.eq_iff_iff, beq_iff_eq, decide_eq_true_iff, ← BitVec.toNat_inj, BitVec.toNat_ofNat, Nat.mod_eq_of_lt hlt]

/-- A line whose stores no cluster sees yet reads as memory has it (R268). -/
theorem seenBytes_settled {pa : Nat} (h : ∀ o ∈ s.traffic, o.line = some (pa / 128) → o.seen = []) (cluster n : Nat) :
    s.seenBytes cluster pa n = s.readBytes pa n := by
  have hnear : (s.traffic.filter fun o => o.line == some (pa / 128) && o.seen.contains cluster) = [] :=
    List.filter_eq_nil_iff.2 fun o ho hx => by
      simp only [Bool.and_eq_true, beq_iff_eq] at hx
      rw [h o ho hx.1] at hx
      simp at hx
  unfold State.seenBytes
  rw [hnear]
  rfl

theorem armedLook_poison {e : DWord × DWord} {pa : Nat} {f : Translation} (hl : s.lookWalk t.unit t.ctx e.1.toNat .read = .ok pa f)
    (hp : s.poisoned pa 8 = true) : s.armedLook t e = .poison := by
  unfold State.armedLook
  simp only [hl, hp, if_true]
/-- A word that is looked at again is compared with what it was expected to be (R235). -/
theorem armedLook_word {e : DWord × DWord} {pa : Nat} {f : Translation} (hl : s.lookWalk t.unit t.ctx e.1.toNat .read = .ok pa f)
    (hp : s.poisoned pa 8 = false) (hheld : s.heldOf t = []) (hseen : ∀ o ∈ s.traffic, o.line = some (pa / 128) → o.seen = []) :
    s.armedLook t e = if memNat s.mem pa 8 = e.2.toNat then .same else .differs := by
  have hword : leNat (overlay (s.heldOf t) pa (s.seenBytes t.cluster pa 8)) = memNat s.mem pa 8 := by
    rw [hheld, seenBytes_settled hseen]
    rfl
  unfold State.armedLook
  simp only [hl, hp, hword, word64_beq, Bool.false_eq_true, if_false, decide_eq_true_eq]

theorem execWaitReturn_returns {team reg i : Nat} {p : Pend} {es : List (DWord × DWord)} (ht : s.teams.find team = some t)
    (hp : t.pends.find? (fun (p : Pend) => p.n == reg && match p.data with | .armed _ => true | _ => false) = some p) (hd : p.data = .armed es)
    (ha : p.after = []) (hx : s.armedDiffers t es = some (i, .differs)) : exec (.waitReturn team reg) s =
      .next ((s.acquire t).setTeam team { t.land [⟨.s, reg, 0, BitVec.ofNat 32 i⟩] with
        pends := (t.land [⟨.s, reg, 0, BitVec.ofNat 32 i⟩]).pends.filter (·.serial != p.serial) }) := by
  show execWaitReturn team reg s = _
  unfold execWaitReturn
  simp only [ht]
  generalize hq : List.find? _ t.pends = o
  obtain rfl : o = some p := hq.symm.trans hp
  simp only [hd, ha, hx]

end

end Sys2Proof.Machine
end

section
/-! PROOF of O20. -/

namespace Sys2Proof
open Machine

/-- Settles O20: at the look, the words of a `wait` are armed in one step; the return takes the lowest that differs. -/
theorem wordWaits : Obligations.WordWaits := by
  unfold Obligations.WordWaits
  refine ⟨⟨?_, fun d a b s t n hi hm => execWait_returned hi hm, fun d a b s t k hi hm hk hx hlow => execWait_traps hi hm hk hx hlow⟩,
    fun s t es i x h => armedDiffers_lowest h,
    fun s t e pa f hl => ⟨armedLook_poison hl, fun hp hheld hseen => armedLook_word hl hp hheld hseen⟩, ?_⟩
  · intro d a b s s1 t pa page hi hm ho hd words hgood hsee hk hs
    have hwords : (waitEntries (t.viewAt s.clk) a b).map (·.1) = words := List.map_map
    obtain ⟨s', hexec, hfind, hmem⟩ := execWait_arms hi hm ho hd hk hs
      (fun e he => hgood e.1 (by rw [← hwords]; exact List.mem_map_of_mem he)) (by rw [hwords]; exact hsee) fun x hx => by
        obtain ⟨y, -, rfl⟩ := List.mem_map.1 hx
        rfl
    exact ⟨s', _, _, hexec, hfind, List.mem_append_right _ (List.mem_singleton_self _), rfl, rfl, rfl, rfl, rfl, regsAfter_of_files rfl rfl rfl, rfl, hmem⟩
  · intro team reg s t p es i ht hp hd ha hx
    obtain ⟨hpc, -⟩ := puts_path [⟨.s, reg, 0, BitVec.ofNat 32 i⟩] t
    have hpends := (Team.puts_board [⟨.s, reg, 0, BitVec.ofNat 32 i⟩] t).2
    exact ⟨_, _, execWaitReturn_returns ht hp hd ha hx, State.setTeam_find _ _ _, t.land_regs (carries_one reg _),
      congrArg (List.filter _) hpends, t.land_still _, hpc, rfl, acquire_caches s t⟩

end Sys2Proof
end

section
/-! SUPPORT of O28: what a probe of the names of a line finds, and `chash` and `cput` (R248, R249). -/

namespace Sys2Proof.Machine

theorem teamsSame_countCollisions (s : State) (ctx : Nat) (d : Domain) (p : DWord) (stop : Option Nat) : TeamsSame s (s.countCollisions ctx d p stop) :=
  teamsSame_foldl (fun s _ => teamsSame_bumpReg s _ _ _ _) _ s
theorem teamsSame_countUp (s : State) (k : Nat) (name : DWord) : TeamsSame s (s.countUp k name) := teamsSame_updDomain s k _
theorem teamsSame_writeBytes (s : State) (pa : Nat) (bs : List Byte) (own : Option Nat) : TeamsSame s (s.writeBytes pa bs own) :=
  ⟨State.writeBytes_teams s _ _ _, State.writeBytes_cur s _ _ _⟩
@[simp] theorem countCollisions_poison (s : State) (ctx : Nat) (d : Domain) (p : DWord) (stop : Option Nat) :
    (s.countCollisions ctx d p stop).poison = s.poison := foldl_same State.poison _ (fun _ _ => State.bumpReg_poison _ _ _ _ _) _ _

theorem poisoned_congr {s s' : State} (h : s'.poison = s.poison) (pa n : Nat) : s'.poisoned pa n = s.poisoned pa n := by
  unfold State.poisoned
  rw [h]
theorem probePoison_congr {s s' : State} (h : s'.poison = s.poison) (d : Domain) (p : DWord) (last : Nat) :
    s'.probePoison d p last = s.probePoison d p last := by
  unfold State.probePoison
  simp only [poisoned_congr h]

section
variable {s : State} {dom : Domain} {p : DWord} {bytes i : Nat} {node : Bool}

theorem probe_same (h : (s.probe dom p bytes node).same = some i) : i < 16 ∧
    ∃ l, dom.table.find (16 * nameBucket p dom.lines + i) = some l ∧ l.node = node ∧ memNat s.mem (dom.dataAt (16 * nameBucket p dom.lines + i)) 128 = bytes := by
  have hline := List.find?_some h
  have hmem := List.mem_range.1 (List.mem_filter.1 (List.mem_of_find?_eq_some h)).1
  dsimp only at hline
  split at hline
  next l hl =>
    rw [Bool.and_eq_true, beq_iff_eq, beq_iff_eq] at hline
    exact ⟨hmem, l, hl, hline⟩
  next => exact absurd hline Bool.false_ne_true
theorem probe_free (h : (s.probe dom p bytes node).free = some i) : i < 16 ∧ dom.table.find (16 * nameBucket p dom.lines + i) = none :=
  ⟨List.mem_range.1 (List.mem_filter.1 (List.mem_of_find?_eq_some h)).1, Option.isNone_iff_eq_none.1 (List.find?_some h :)⟩

end

/-- A slot with a result that is on its way, which leaves the teams alone. -/
theorem pendsIn_of_teamsSame {s s1 : State} {t : Team} {i : Instr} (hi : Issues s t i) {body : (r t : Team) → State → Res} {reason : Nat}
    {data : PendData} {w : RegUse} {ws : List RegUse} (he : exec i s = slot i body s) (hb : body (t.viewAt s.clk) t s = .later s1 reason data)
    (hs : TeamsSame s s1) (hw : i.writes = w :: ws) (ho : s.overfull i = false) : PendsIn s s1 t i reason data :=
  pendsIn_of_later hi he hb (hs.me.trans hi.1) hs.cur hw ho
/-- A line for which no name is left (R249, R397). -/
theorem nameFull_traps {s s1 : State} {t : Team} {i : Instr} {p : DWord} (hi : Issues s t i) {body : (r t : Team) → State → Res}
    (he : exec i s = slot i body s) (hb : body (t.viewAt s.clk) t s = s1.nameFull t.ctx p) :
    exec i s = .next ((s1.bumpReg t.ctx 0x40 0 16).takeTrap 0x15 0 p) := by
  rw [he, slot_issues hi, hb]
  rfl

theorem lineOperand_outside {s : State} {t : Team} {x : Word} (h : s.inWindow t (x &&& 0xFFFFFF80#32) 128 = false) :
    s.lineOperand t x = .error (.trap 0x06 noLane ((x &&& 0xFFFFFF80#32).setWidth 64)) := by
  unfold State.lineOperand
  dsimp only
  rw [h]
  rfl

section
variable {s : State} {t : Team} {d a : RegNo}

/-- An operand outside the window. -/
theorem lineOperand_traps {i : Instr} (hi : Issues s t i) (h : i = .chash d a ∨ i = .cput d a)
    (hw : s.inWindow t ((t.viewAt s.clk).S a.toNat &&& 0xFFFFFF80#32) 128 = false) :
    Traps s i 0x06 0xFFFF (((t.viewAt s.clk).S a.toNat &&& 0xFFFFFF80#32).setWidth 64) := by
  have hop := lineOperand_outside hw
  rcases h with rfl | rfl
  · refine traps_of_body hi (rfl : _ = execChash d a s) ?_
    simp only [hop]
    rfl
  · refine traps_of_body hi (rfl : _ = execCput d a s) ?_
    simp only [hop]
    rfl

variable {x : Word} {k i : Nat} {dom : Domain} {bytes : List Byte} {p m : DWord} {q : Probed}
  (hx : (t.viewAt s.clk).S a.toNat = x) (hop : s.lineOperand t x = .ok (k, dom, bytes)) (hp : namePrefix (s.saltOf t.ctx dom) bytes = p)
  (hq : s.probe dom p (leNat bytes) (x.getLsbD 0) = q)
include hx hop hp hq

theorem execChash_names (hi : Issues s t (.chash d a)) (ho : s.overfull (.chash d a) = false)
    (hclean : s.probePoison dom p (q.same.getD 15) = false) (hname : q.same.or q.free = some i) :
    PendsIn s (s.countCollisions t.ctx dom p (some i)) t (.chash d a) 14 (.values (uniWrite64 d (p ||| BitVec.ofNat 64 i)) 0) := by
  refine pendsIn_of_teamsSame hi (rfl : _ = execChash d a s) ?_ (teamsSame_countCollisions ..) rfl ho
  simp only [hx, hop, hp, hq, hname, probePoison_congr (countCollisions_poison ..), hclean, Bool.false_eq_true, if_false]
theorem execChash_full (hi : Issues s t (.chash d a)) (hclean : s.probePoison dom p 15 = false) (hsame : q.same = none) (hfree : q.free = none) :
    exec (.chash d a) s = .next (((s.countCollisions t.ctx dom p none).bumpReg t.ctx 0x40 0 16).takeTrap 0x15 0 p) := by
  refine nameFull_traps hi (rfl : _ = execChash d a s) ?_
  simp only [hx, hop, hp, hq, hsame, hfree, Option.or_none, Option.getD_none, probePoison_congr (countCollisions_poison ..), hclean, Bool.false_eq_true,
    if_false]

theorem execCput_full (hi : Issues s t (.cput d a)) (hclean : s.probePoison dom p 15 = false) (hsame : q.same = none) (hfree : q.free = none) :
    exec (.cput d a) s = .next (((s.countCollisions t.ctx dom p none).bumpReg t.ctx 0x40 0 16).takeTrap 0x15 0 p) := by
  refine nameFull_traps hi (rfl : _ = execCput d a s) ?_
  have hfirst : q.first = none := by unfold Probed.first; rw [hsame, hfree]; rfl
  simp only [hx, hop, hp, hq, hfirst, Option.getD_none, probePoison_congr (countCollisions_poison ..), hclean, Bool.false_eq_true, if_false]
/-- The identical line comes first. -/
theorem execCput_same (hi : Issues s t (.cput d a)) (ho : s.overfull (.cput d a) = false) (hfirst : q.first = some i)
    (hclean : s.probePoison dom p i = false) (hsame : q.same = some i) :
    PendsIn s ((s.countCollisions t.ctx dom p (some i)).countUp k (p ||| BitVec.ofNat 64 i)) t (.cput d a) 14
      (.values (uniWrite64 d (p ||| BitVec.ofNat 64 i)) 0) := by
  refine pendsIn_of_teamsSame hi (rfl : _ = execCput d a s) ?_ ((teamsSame_countCollisions ..).trans (teamsSame_countUp ..)) rfl ho
  simp only [hx, hop, hp, hq, hfirst, Option.getD_some, probePoison_congr (countCollisions_poison ..), hclean, Bool.false_eq_true, if_false, hsame,
    beq_self_eq_true, if_true]

/-- A name without a line comes first, and takes the new line. -/
theorem execCput_new (hi : Issues s t (.cput d a)) (ho : s.overfull (.cput d a) = false) (hfirst : q.first = some i)
    (hclean : s.probePoison dom p i = false) (hsame : q.same ≠ some i) {kids : List DWord}
    (hkids : (if x.getLsbD 0 then childNames (leNat bytes) else []) = kids)
    (hthere : ∀ m ∈ kids, (dom.line? m).isSome = true ∧ s.poisoned (dom.metaAt (nameSlot m dom.lines)) 16 = false) :
    PendsIn s (((kids.foldl (fun (s : State) m => s.countUp k m) (s.countCollisions t.ctx dom p (some i))).updDomain k fun d => { d with
        table := d.table.insert (nameSlot (p ||| BitVec.ofNat 64 i) dom.lines) ⟨p ||| BitVec.ofNat 64 i, 1, x.getLsbD 0⟩ }).writeBytes
          (dom.dataAt (nameSlot (p ||| BitVec.ofNat 64 i) dom.lines)) bytes none) t (.cput d a) 14
      (.values (uniWrite64 d (p ||| BitVec.ofNat 64 i)) 0) := by
  refine pendsIn_of_teamsSame hi (rfl : _ = execCput d a s) ?_ ((teamsSame_countCollisions s t.ctx dom p (some i)).trans
    ((teamsSame_foldl (fun s m => teamsSame_countUp s k m) kids _).trans ((teamsSame_updDomain ..).trans (teamsSame_writeBytes ..)))) rfl ho
  have habsent : (kids.find? fun m => (dom.line? m).isNone) = none := List.find?_eq_none.2 fun m hm => by
    rw [← Option.not_isSome, (hthere m hm).1]
    exact Bool.false_ne_true
  have hpoison : (kids.any fun m => (s.countCollisions t.ctx dom p (some i)).poisoned (dom.metaAt (nameSlot m dom.lines)) 16) = false :=
    List.any_eq_false.2 fun m hm => by rw [poisoned_congr (countCollisions_poison ..), (hthere m hm).2]; exact Bool.false_ne_true
  simp only [hx, hop, hp, hq, hfirst, Option.getD_some, probePoison_congr (countCollisions_poison ..), hclean, Bool.false_eq_true, if_false,
    beq_eq_false_iff_ne.2 hsame, hkids, habsent, hpoison]
/-- A node with an absent child. -/
theorem execCput_orphan (hi : Issues s t (.cput d a)) (hfirst : q.first = some i) (hclean : s.probePoison dom p i = false) (hsame : q.same ≠ some i)
    (hm : ((if x.getLsbD 0 then childNames (leNat bytes) else []).find? fun m => (dom.line? m).isNone) = some m) :
    Traps s (.cput d a) 0x08 0xFFFF m := by
  refine traps_of_body hi (rfl : _ = execCput d a s) ?_
  simp only [hx, hop, hp, hq, hfirst, Option.getD_some, probePoison_congr (countCollisions_poison ..), hclean, Bool.false_eq_true, if_false,
    beq_eq_false_iff_ne.2 hsame, hm]
  rfl

end

end Sys2Proof.Machine
end

section
/-! SUPPORT of O28: names found in a context's domains, their counts, and the bytes of their lines (R250, R251). -/

namespace Sys2Proof.Machine

theorem leBytes_zero (n : Nat) : leBytes n 0 = List.replicate n 0 := by
  induction n with
  | zero => rfl
  | succ n ih => exact congrArg (0 :: ·) ((congrArg (leBytes n) (Nat.zero_div 256)).trans ih)

section
variable {s : State} {k : Nat} {d : Domain} {l : Line} {name : DWord}

/-- What `findName` finds is a domain of the machine whose table has the name. -/
theorem findName_some {ctx : Nat} (h : s.findName ctx name = some (k, d)) : s.domains.find k = some d ∧ (d.line? name).isSome = true := by
  unfold State.findName at h
  split at h
  next => exact absurd h (Option.some_ne_none _).symm
  next c _ =>
    obtain ⟨id, -, hid⟩ := List.exists_of_findSome?_eq_some h
    obtain ⟨e, he, hl⟩ := Option.bind_eq_some_iff.1 hid
    obtain ⟨e', hf, he'⟩ := Option.bind_eq_some_iff.1 he
    split at hl
    next hsome =>
      obtain ⟨rfl, rfl⟩ := Prod.mk.inj (Option.some.inj hl)
      split at he'
      next => exact absurd he' (Option.some_ne_none _).symm
      next => exact ⟨hf.trans he', hsome⟩
    next => exact absurd hl (Option.some_ne_none _).symm

variable (hd : s.domains.find k = some d) (hl : d.line? name = some l)
include hd hl

theorem countUp_eq : s.countUp k name = { s with domains := s.domains.insert k { d with
    table := d.table.insert (nameSlot name d.lines) { l with count := if l.count = saturated then l.count else l.count + 1 } } } := by
  unfold State.countUp State.updDomain
  simp only [hd, hl]
theorem countDown_saturated (h : l.count = saturated) : s.countDown k name = s := by
  unfold State.countDown
  simp only [hd, hl]
  exact if_pos h
theorem countDown_many (h : 1 < l.count.toNat) (hn : l.count ≠ saturated) : s.countDown k name = { s with domains := s.domains.insert k { d with
    table := d.table.insert (nameSlot name d.lines) { l with count := l.count - 1 } } } := by
  unfold State.countDown State.updDomain
  simp only [hd, hl, if_neg hn, if_pos h]
/-- The line whose count falls to 0 is gone, and its bytes are zero. -/
theorem countDown_last (h : l.count.toNat ≤ 1) : TeamsSame s (s.countDown k name) ∧ (s.countDown k name).contexts = s.contexts ∧
    (s.countDown k name).domains.find k = some { d with table := d.table.erase (nameSlot name d.lines) } ∧
    (s.countDown k name).mem = Memory.writes s.mem (d.dataAt (nameSlot name d.lines)) (List.replicate 128 0) := by
  have hn : l.count ≠ saturated := fun hs => absurd (hs ▸ h) (by decide)
  unfold State.countDown
  simp only [hd, hl, if_neg hn, if_neg (Nat.not_lt.2 h), leBytes_zero]
  refine ⟨⟨by simp, by simp⟩, by simp, ?_, by rw [State.writeBytes_mem, State.updDomain_mem]⟩
  unfold State.updDomain
  simp only [hd, State.writeBytes_domains]
  exact SMap.find_insert_same _ _ _

end

theorem line?_erased (d : Domain) (name : DWord) : Domain.line? { d with table := d.table.erase (nameSlot name d.lines) } name = none := by
  unfold Domain.line?
  simp only [SMap.find_erase_same]

section
variable {s : State} {t : Team} {a : RegNo} {k : Nat} {d : Domain} {l : Line} {name : DWord}

variable {f : Team → State → Nat → DWord → Res}

/-- The body of a count operation (R251). -/
def countStep (a : RegNo) (f : Team → State → Nat → DWord → Res) (r t : Team) (s : State) : Res :=
  if r.S64 a.toNat = 0 then .done s
  else if s.namePoison t.ctx (r.S64 a.toNat) then s.nameConsumed
  else
    match s.findName t.ctx (r.S64 a.toNat) with
    | none => .trap 0x08 noLane (r.S64 a.toNat)
    | some (k, _) => f t (s.acquire t) k (r.S64 a.toNat)
theorem exec_cref : exec (.cref a) s = slot (.cref a) (countStep a fun _ s k name => .done (s.countUp k name)) s := rfl
theorem exec_cdrop : exec (.cdrop a) s =
    slot (.cdrop a) (countStep a fun _ s k name => if s.dropPoison k name then s.nameConsumed else .done (s.countDown k name)) s := rfl

/-- The name 0 does nothing. -/
theorem count_nothing {i : Instr} (hi : Issues s t i) (h : i = .cref a ∨ i = .cdrop a) (hz : (t.viewAt s.clk).S64 a.toNat = 0) :
    Leaves s i t (nextPc t.pc false) := by
  have hbody : ∀ f, countStep a f (t.viewAt s.clk) t s = .done s := fun f => if_pos hz
  rcases h with rfl | rfl
  · exact leaves_of_nothing hi exec_cref (hbody _) rfl
  · exact leaves_of_nothing hi exec_cdrop (hbody _) rfl

variable (hx : (t.viewAt s.clk).S64 a.toNat = name) (hz : name ≠ 0) (hclean : s.namePoison t.ctx name = false)
include hx hz hclean

/-- An absent name traps. -/
theorem count_absent {i : Instr} (hi : Issues s t i) (h : i = .cref a ∨ i = .cdrop a) (hnone : s.findName t.ctx name = none) :
    Traps s i 0x08 0xFFFF name := by
  have hbody : ∀ f, countStep a f (t.viewAt s.clk) t s = .trap 0x08 noLane name := fun f => by
    simp only [countStep, hx, if_neg hz, hclean, hnone, Bool.false_eq_true, if_false]
  rcases h with rfl | rfl
  · exact traps_of_body hi exec_cref (hbody _)
  · exact traps_of_body hi exec_cdrop (hbody _)

variable (hfind : s.findName t.ctx name = some (k, d)) (hl : d.line? name = some l)
include hfind

theorem countStep_found : countStep a f (t.viewAt s.clk) t s = f t (s.acquire t) k name := by
  simp only [countStep, hx, if_neg hz, hclean, hfind, Bool.false_eq_true, if_false]
theorem execCref_counts (hi : Issues s t (.cref a)) : LeavesIn s (.cref a) ((s.acquire t).countUp k name) t (nextPc t.pc false) :=
  leavesIn_of_teamsSame hi exec_cref (countStep_found hx hz hclean hfind) ⟨State.updDomain_teams .., State.updDomain_cur ..⟩ rfl rfl
theorem execCdrop_counts (hi : Issues s t (.cdrop a)) (hsame : TeamsSame s ((s.acquire t).countDown k name)) (hdrop : s.dropPoison k name = false) :
    LeavesIn s (.cdrop a) ((s.acquire t).countDown k name) t (nextPc t.pc false) :=
  leavesIn_of_teamsSame hi exec_cdrop ((countStep_found hx hz hclean hfind).trans (if_neg (ne_true_of_eq_false hdrop))) hsame rfl rfl

omit hx hz hclean hfind
include hl

/-- A count above 1 leaves the line's bytes alone, so that no poison in them matters (R441). -/
theorem dropPoison_many (hd : s.domains.find k = some d) (h : 1 < l.count.toNat) : s.dropPoison k name = false := by
  unfold State.dropPoison
  simp only [hd, hl, decide_eq_false (Nat.not_le.2 h), Bool.and_false, Bool.false_and]

include hx hz hclean hfind

theorem execCdrop_saturated (hi : Issues s t (.cdrop a)) (hs : l.count = saturated) : LeavesIn s (.cdrop a) (s.acquire t) t (nextPc t.pc false) := by
  have hd := (findName_some hfind).1
  have heq := countDown_saturated (s := s.acquire t) hd hl hs
  exact heq ▸ execCdrop_counts hx hz hclean hfind hi (by rw [heq]; exact ⟨rfl, rfl⟩) (dropPoison_many hl hd (by rw [hs]; decide))
theorem execCdrop_many (hi : Issues s t (.cdrop a)) (hone : 1 < l.count.toNat) (hs : l.count ≠ saturated) :
    LeavesIn s (.cdrop a) { s.acquire t with domains := s.domains.insert k { d with
      table := d.table.insert (nameSlot name d.lines) { l with count := l.count - 1 } } } t (nextPc t.pc false) := by
  have hd := (findName_some hfind).1
  have heq := countDown_many (s := s.acquire t) hd hl hone hs
  exact heq ▸ execCdrop_counts hx hz hclean hfind hi (by rw [heq]; exact ⟨rfl, rfl⟩) (dropPoison_many hl hd hone)
theorem execCdrop_last (hi : Issues s t (.cdrop a)) (h : l.count.toNat ≤ 1) (hdrop : s.dropPoison k name = false) :
    ∃ s' t' d', exec (.cdrop a) s = .next s' ∧ s'.teams.find s.cur = some t' ∧ GoesAs t t' (nextPc t.pc false) ∧ s'.domains.find k = some d' ∧
      d'.line? name = none ∧ (Untraced s → ∀ j, j < 128 → Memory.read s'.mem (d.dataAt (nameSlot name d.lines) + j) = 0) := by
  obtain ⟨hteams, hctx, hdom, hmem⟩ := countDown_last (s := s.acquire t) (findName_some hfind).1 hl h
  have hsame : TeamsSame s ((s.acquire t).countDown k name) := ⟨hteams.teams, hteams.cur⟩
  obtain ⟨s', hexec, ⟨t', hf, hgo⟩, hk⟩ := execCdrop_counts hx hz hclean hfind hi hsame hdrop
  rw [hsame.cur] at hf
  have hdoms : s'.domains = ((s.acquire t).countDown k name).domains := (congrArg State.domains hk.rest :)
  refine ⟨s', t', _, hexec, hf, hgo, by rw [hdoms, hdom], line?_erased d name, fun un j hj => ?_⟩
  have hbytes : s'.mem = ((s.acquire t).countDown k name).mem := (congrArg State.mem (hk.memory (untraced_of_contexts hctx un)) :)
  rw [hbytes, hmem, Memory.read_writes, if_pos (by rw [List.length_replicate]; omega), Nat.add_sub_cancel_left, List.getD_eq_getElem?_getD,
    List.getElem?_replicate, if_pos hj]
  rfl

end

section
variable {s : State} {t : Team} {a b : RegNo} {k : Nat} {d : Domain} {off : Word} {name : DWord}

/-- The 32 words of a line's 128 bytes (R250). -/
def lineWord (s : State) (pa j : Nat) : Word := BitVec.ofNat 32 (memNat s.mem (pa + 4 * j) 4)

theorem execCget_copies (hi : Issues s t (.cget a b)) (hr : t.kernel.rollback = false) (hp : s.poison = []) (hoff : (t.viewAt s.clk).S a.toNat = off)
    (hname : (t.viewAt s.clk).S64 b.toNat = name) (hw : s.inWindow t off 128 = true) (hal : off.toNat % 128 = 0)
    (hfind : s.findName t.ctx name = some (k, d)) :
    LeavesIn s (.cget a b) ((s.acquire t).spadStore t off ((List.range 32).map (lineWord s (d.dataAt (nameSlot name d.lines))))) t (nextPc t.pc false) := by
  have hsame : TeamsSame s ((s.acquire t).spadStore t off ((List.range 32).map (lineWord s (d.dataAt (nameSlot name d.lines))))) := by
    rw [spadStore_eq]
    exact ⟨State.updCrew_teams .., State.updCrew_cur ..⟩
  refine leavesIn_of_teamsSame hi (rfl : _ = execCget a b s) ?_ hsame rfl rfl
  have hclean : ∀ pa n, s.poisoned pa n = false := fun pa n => by unfold State.poisoned; rw [hp]; simp
  have hnames : s.namePoison t.ctx name = false := by
    unfold State.namePoison
    simp only [hclean]
    split <;> simp
  have hpoison : ((s.acquire t).spadStore t off ((List.range 32).map (lineWord s (d.dataAt (nameSlot name d.lines))))).poison = [] := by
    rw [spadStore_eq, State.updCrew_poison, State.acquire_poison, hp]
  have hlands : ∀ pa n, ((s.acquire t).spadStore t off ((List.range 32).map (lineWord s (d.dataAt (nameSlot name d.lines))))).poisoned pa n = false :=
    fun pa n => by unfold State.poisoned; rw [hpoison]; simp
  simp only [hoff, hname, hw, hal, hfind, needsCheckpoint_plain hr, hnames, Bool.not_true, bne_self_eq_false, Bool.false_eq_true, if_false]
  exact congrArg Res.done (List.foldl_fixed' (fun j => if_neg (ne_true_of_eq_false (hlands _ _))) _)

/-- The windows of a `cget`'s gang take the line's words, and nothing else changes (R250). -/
theorem execCget_windows (hi : Issues s t (.cget a b)) (hr : t.kernel.rollback = false) (hp : s.poison = []) (hoff : (t.viewAt s.clk).S a.toNat = off)
    (hname : (t.viewAt s.clk).S64 b.toNat = name) (hw : s.inWindow t off 128 = true) (hal : off.toNat % 128 = 0)
    (hfind : s.findName t.ctx name = some (k, d)) :
    ∃ s' t', exec (.cget a b) s = .next s' ∧ s'.teams.find s.cur = some t' ∧ GoesAs t t' (nextPc t.pc false) ∧
      (∀ e v, padWord s' t e v = if e = (padPlace t off).1 ∧ (padPlace t off).2 ≤ v ∧ v < (padPlace t off).2 + 32 then
        lineWord s (d.dataAt (nameSlot name d.lines)) (v - (padPlace t off).2) else padWord s t e v) ∧
      (∀ e v, padFull s' t e v = padFull s t e v) ∧ (Untraced s → SameMemory s s') := by
  obtain ⟨cr, hcr⟩ := gangCrew_of_inWindow hw
  obtain ⟨s', hexec, ⟨t', hf, hgo⟩, hk⟩ := execCget_copies hi hr hp hoff hname hw hal hfind
  have hcrews : ∀ e, s'.gangCrew t e = _ := gangCrew_congr (hk.gangs hr) t
  refine ⟨s', t', hexec, ?_, hgo, fun e v => ?_, fun e v => ?_, hk.sameMemory (untraced_of_contexts ?_) (State.spadStore_mem ..)⟩
  · rw [spadStore_eq, State.updCrew_cur] at hf
    exact hf
  · exact (padWord_congr (hcrews e) v).trans (spadStore_word (s := s.acquire t) hcr _ 32 e v)
  · exact (padFull_congr (hcrews e) v).trans (spadStore_full (s.acquire t) t off _ 32 e v)
  · rw [spadStore_eq, State.updCrew_contexts]
    rfl

end

end Sys2Proof.Machine
end

section
/-! SUPPORT of O28: a count that changes, and the names that are found before and after it (R251, R393). -/

namespace Sys2Proof.Machine

/-- A line whose count has gone up by 1, but for a saturated one (R251). -/
def Line.up (l : Line) : Line := { l with count := if l.count = saturated then l.count else l.count + 1 }
theorem one_lt_up {l : Line} (h : 1 < l.count.toNat) : 1 < l.up.count.toNat := by
  unfold Line.up
  dsimp only
  split
  · exact h
  next hn =>
    have hlt : l.count.toNat ≠ 4294967295 := fun he => hn (BitVec.eq_of_toNat_eq he)
    have := l.count.isLt
    rw [BitVec.toNat_add, show (1 : Word).toNat = 1 from rfl]
    omega

/-- A domain in which a name has been counted up. -/
def Domain.countedUp (d : Domain) (name : DWord) : Domain :=
  match d.line? name with
  | some l => { d with table := d.table.insert (nameSlot name d.lines) l.up }
  | none => d
theorem countUp_def (s : State) (k : Nat) (name : DWord) : s.countUp k name = s.updDomain k fun d => d.countedUp name := rfl
theorem countedUp_lines (d : Domain) (name : DWord) : (d.countedUp name).lines = d.lines := by
  unfold Domain.countedUp
  split <;> rfl
theorem line?_countedUp (d : Domain) (name m : DWord) : (d.countedUp name).line? m = (d.line? m).map fun l => if m = name then l.up else l := by
  cases hl : d.line? name with
  | none =>
    have hsame : d.countedUp name = d := by unfold Domain.countedUp; rw [hl]
    rw [hsame]
    by_cases hm : m = name
    · rw [hm, hl, Option.map_none]
    · simp only [if_neg hm, Option.map_id_fun', id_eq]
  | some l =>
    have hslot : d.table.find (nameSlot name d.lines) = some l ∧ l.name = name := by
      unfold Domain.line? at hl
      split at hl
      next x hx =>
        split at hl
        next hn =>
          obtain rfl := Option.some.inj hl
          exact ⟨hx, hn⟩
        next => exact absurd hl (Option.some_ne_none _).symm
      next => exact absurd hl (Option.some_ne_none _).symm
    obtain ⟨hfind, hname⟩ := hslot
    unfold Domain.countedUp
    rw [hl]
    by_cases hs : nameSlot m d.lines = nameSlot name d.lines
    · by_cases hm : m = name
      · subst hm
        rw [hl, Option.map_some, if_pos rfl]
        simp only [Domain.line?, SMap.find_insert_same]
        exact if_pos hname
      · have hne : ¬ l.name = m := fun he => hm (he.symm.trans hname)
        simp only [Domain.line?, hs, SMap.find_insert_same, hfind, Line.up, if_neg hne, Option.map_none]
    · have hm : m ≠ name := fun he => hs (by rw [he])
      simp only [Domain.line?, SMap.find_insert_ne _ _ hs, if_neg hm, Option.map_id_fun', id_eq]

theorem updDomain_eq (s : State) (k : Nat) (f : Domain → Domain) : s.updDomain k f = { s with domains := match s.domains.find k with
    | some d => s.domains.insert k (f d)
    | none => s.domains } := by
  unfold State.updDomain
  cases s.domains.find k <;> rfl
theorem updDomain_find (s : State) (j : Nat) (f : Domain → Domain) (k : Nat) :
    (s.updDomain j f).domains.find k = (s.domains.find k).map fun d => if k = j then f d else d := by
  rw [updDomain_eq]
  by_cases hk : k = j
  · subst hk
    cases h : s.domains.find k with
    | none => simp [h]
    | some d => simp [SMap.find_insert_same]
  · cases h : s.domains.find j with
    | none => simp [hk]
    | some d => simp [SMap.find_insert_ne _ _ hk, hk]

/-- The same names are found after a name has been counted up. -/
theorem findName_countUp (s : State) (j : Nat) (name : DWord) (ctx : Nat) (m : DWord) : (s.countUp j name).findName ctx m =
    (s.findName ctx m).map fun x => (x.1, if x.1 = j then x.2.countedUp name else x.2) := by
  have hlines : ∀ k (d : Domain), (if k = j then d.countedUp name else d).lines = d.lines := fun k d => by
    split
    · exact countedUp_lines d name
    · rfl
  have hnames : ∀ k (d : Domain), ((if k = j then d.countedUp name else d).line? m).isSome = (d.line? m).isSome := fun k d => by
    split
    · rw [line?_countedUp, Option.isSome_map]
    · rfl
  unfold State.findName
  rw [countUp_def, State.updDomain_contexts]
  cases s.contexts.find ctx with
  | none => rfl
  | some c =>
    dsimp only
    rw [List.map_findSome?]
    congr 1
    funext id
    unfold State.tableOf
    simp only [Function.comp_apply, updDomain_find]
    cases s.domains.find (domKey c.part id) with
    | none => rfl
    | some d =>
      simp only [Option.map_some, Option.bind_some, hlines]
      by_cases hz : d.lines = 0
      · simp only [if_pos hz, Option.bind_none, Option.map_none]
      · simp only [if_neg hz, Option.bind_some, hnames]
        split <;> rfl

/-- A state in which the new name of a `cswap` has been counted up, where a domain of the context has it (R252). -/
def State.countedIn (s : State) (ctx : Nat) (m : DWord) : State := match s.findName ctx m with | some (k, _) => s.countUp k m | none => s
/-- A state in which the expected name of a `cswap` has been counted down, where a domain of the context has it (R252). -/
def State.countedOut (s : State) (ctx : Nat) (e : DWord) : State := match s.findName ctx e with | some (k, _) => s.countDown k e | none => s

/-- A count above 1 is above 1 after another name, or the same, has been counted up. -/
theorem countedIn_many {s : State} {ctx : Nat} {e m : DWord} (h : ∀ k d l, s.findName ctx e = some (k, d) → d.line? e = some l → 1 < l.count.toNat) :
    ∀ k d l, (s.countedIn ctx m).findName ctx e = some (k, d) → d.line? e = some l → 1 < l.count.toNat := by
  intro k d l hf hl
  unfold State.countedIn at hf
  split at hf
  next j _ _ =>
    rw [findName_countUp] at hf
    obtain ⟨⟨k', d'⟩, hf', hx⟩ := Option.map_eq_some_iff.1 hf
    obtain ⟨rfl, rfl⟩ := Prod.mk.inj hx
    by_cases hj : k' = j
    · rw [if_pos hj, line?_countedUp] at hl
      obtain ⟨l', hl', rfl⟩ := Option.map_eq_some_iff.1 hl
      split
      · exact one_lt_up (h _ _ _ hf' hl')
      · exact h _ _ _ hf' hl'
    · rw [if_neg hj] at hl
      exact h _ _ _ hf' hl
  next => exact h _ _ _ hf hl

section
variable {s s' : State} (hc : s'.contexts = s.contexts) (hd : s'.domains = s.domains)
include hd

theorem countDown_domains_congr (k : Nat) (n : DWord) : (s'.countDown k n).domains = (s.countDown k n).domains := by
  unfold State.countDown
  rw [hd]
  split
  · exact hd
  · split
    · exact hd
    · dsimp only
      split
      · exact hd
      · split <;> simp only [State.writeBytes_domains, updDomain_eq, hd]

include hc

theorem findName_congr (ctx : Nat) (n : DWord) : s'.findName ctx n = s.findName ctx n := by
  unfold State.findName State.tableOf
  rw [hc, hd]
theorem countedIn_domains_congr (ctx : Nat) (m : DWord) : (s'.countedIn ctx m).domains = (s.countedIn ctx m).domains := by
  unfold State.countedIn
  rw [findName_congr hc hd]
  split
  · simp only [countUp_def, updDomain_eq, hd]
  · exact hd
theorem countedOut_domains_congr (ctx : Nat) (e : DWord) : (s'.countedOut ctx e).domains = (s.countedOut ctx e).domains := by
  unfold State.countedOut
  rw [findName_congr hc hd]
  split
  · exact countDown_domains_congr hd _ e
  · exact hd
theorem namePoison_congr (hp : s'.poison = s.poison) (ctx : Nat) (n : DWord) : s'.namePoison ctx n = s.namePoison ctx n := by
  unfold State.namePoison State.tableOf
  simp only [hc, hd, poisoned_congr hp]

end

theorem countedIn_eq (s : State) (ctx : Nat) (m : DWord) : s.countedIn ctx m = { s with domains := (s.countedIn ctx m).domains } := by
  unfold State.countedIn
  split
  · rw [countUp_def, updDomain_eq]
  · rfl
/-- A count above 1 that falls leaves the line's bytes. -/
theorem countDown_eq {s : State} {k : Nat} {d : Domain} {l : Line} {name : DWord} (hd : s.domains.find k = some d) (hl : d.line? name = some l)
    (h : 1 < l.count.toNat) : s.countDown k name = { s with domains := (s.countDown k name).domains } := by
  by_cases hs : l.count = saturated
  · rw [countDown_saturated hd hl hs]
  · rw [countDown_many hd hl h hs]

end Sys2Proof.Machine
end

section
/-! SUPPORT of O28: `cswap` at its cell, and what its slot comes to (R248, R252). -/

namespace Sys2Proof.Machine

/-- What an operation on the content region leaves: the teams, the gangs and the contexts. -/
structure CrewsSame (s s' : State) : Prop extends TeamsSame s s' where
  gangs : s'.gangs = s.gangs
  contexts : s'.contexts = s.contexts
theorem CrewsSame.trans {a b c : State} (h : CrewsSame a b) (k : CrewsSame b c) : CrewsSame a c :=
  ⟨h.toTeamsSame.trans k.toTeamsSame, k.gangs.trans h.gangs, k.contexts.trans h.contexts⟩
theorem crewsSame_acquire (b : Bool) (s : State) (t : Team) : CrewsSame s (if b then s.acquire t else s) := by
  rw [acquire_when]
  exact ⟨⟨rfl, rfl⟩, rfl, rfl⟩
/-- A slot that leaves the crews leaves the other crews. -/
theorem RestKept.othersKept {s s1 s' : State} {t : Team} (h : RestKept s1 s' t) (hs : CrewsSame s s1) (hr : t.kernel.rollback = false) : OthersKept s s' t :=
  ⟨fun k hk => (h.others k (by rwa [hs.cur])).trans (by rw [hs.teams]), (h.gangs hr).trans hs.gangs, fun c => (h.contexts c).trans (by rw [hs.contexts])⟩

theorem crewsSame_countedIn (s : State) (ctx : Nat) (m : DWord) : CrewsSame s (s.countedIn ctx m) := by
  rw [countedIn_eq]
  exact ⟨⟨rfl, rfl⟩, rfl, rfl⟩

theorem winReg_congr {s s' : State} (h : s'.contexts = s.contexts) (ctx off : Nat) : s'.winReg ctx off = s.winReg ctx off := by
  unfold State.winReg
  rw [h]
/-- A store of a context that no injection waits for. -/
theorem crewsSame_storeBytes {s : State} {ctx : Nat} (h : (s.winReg ctx 0xD8).getLsbD 63 = false) (va pa : Nat) (bs : List Byte) :
    CrewsSame s (s.storeBytes ctx va pa bs) := by
  have hplain : s.storeBytes ctx va pa bs = s.writeBytes pa bs (some ctx) := by
    unfold State.storeBytes State.injected
    simp only [winReg_congr (State.writeBytes_contexts s pa bs (some ctx)), h, Bool.false_and, Bool.false_eq_true, if_false]
  rw [hplain]
  exact ⟨teamsSame_writeBytes .., State.writeBytes_gangs .., State.writeBytes_contexts ..⟩

section
variable {s : State} {t : Team} {d : RegNo} {addr e m : DWord} {pa : Nat}

/-- The cell holds another name than the expected one. -/
theorem swapCell_differs (hclean : s.poisoned pa 8 = false) (h : memNat s.mem pa 8 ≠ e.toNat) :
    s.swapCell t d addr pa e m = .ok (s.dropL1 (s.l1Units t) t.ctx pa) [⟨.s, d.toNat, 0, 0⟩] 0 := by
  have hclean' : (s.dropL1 (s.l1Units t) t.ctx pa).poisoned pa 8 = false := hclean
  have hword : (BitVec.ofNat 64 ((s.dropL1 (s.l1Units t) t.ctx pa).readNat pa 8) != e) = true := by
    rw [bne, readNat_eq_memNat, word64_beq, State.dropL1_mem, decide_eq_false h]
    rfl
  unfold State.swapCell
  simp only [hclean', hword, Bool.false_eq_true, if_false, if_true]

/-- The machine of a `cswap` whose cell has taken the new name, before the expected name is counted down (R252). -/
def State.swapStored (s : State) (t : Team) (addr : DWord) (pa : Nat) (m : DWord) : State :=
  (((s.dropL1 (s.l1Units t) t.ctx pa).countedIn t.ctx m).storeBytes t.ctx addr.toNat pa (dwordBytes m)).acquire t

theorem swapStored_kept (hinj : (s.winReg t.ctx 0xD8).getLsbD 63 = false) : CrewsSame s (s.swapStored t addr pa m) ∧
    (s.swapStored t addr pa m).domains = (s.countedIn t.ctx m).domains ∧ (s.swapStored t addr pa m).mem = Memory.writes s.mem pa (leBytes 8 m.toNat) := by
  have hcount := crewsSame_countedIn (s.dropL1 (s.l1Units t) t.ctx pa) t.ctx m
  have hstore := crewsSame_storeBytes ((congrArg (BitVec.getLsbD · 63) (winReg_congr hcount.contexts _ _)).trans hinj) addr.toNat pa (dwordBytes m)
  obtain ⟨⟨hteams, hcur⟩, hgangs, hcontexts⟩ := hcount.trans hstore
  refine ⟨⟨⟨hteams, hcur⟩, hgangs, hcontexts⟩, ?_, ?_⟩
  · exact (State.storeBytes_domains ..).trans (countedIn_domains_congr (s := s) (s' := s.dropL1 (s.l1Units t) t.ctx pa) rfl rfl _ _)
  · refine (State.storeBytes_mem ..).trans ?_
    rw [countedIn_eq]
    rfl

/-- The end of a `cswap` that has swapped: the expected name is counted down, unless its line's bytes are poisoned (R252, R441). -/
def State.swapEnd (s : State) (t : Team) (d : RegNo) (e : DWord) : Perf :=
  match s.findName t.ctx e with
  | some (k, _) =>
    if s.dropPoison k e then .poison { s with tick := s.tick + 1 } (Config.rasAddr s.tick) else .ok (s.countDown k e) [⟨.s, d.toNat, 0, 1⟩] 0
  | none => .ok s [⟨.s, d.toNat, 0, 1⟩] 0
theorem swapEnd_counts {s : State} (h : ∀ k x, s.findName t.ctx e = some (k, x) → s.dropPoison k e = false) :
    s.swapEnd t d e = .ok (s.countedOut t.ctx e) [⟨.s, d.toNat, 0, 1⟩] 0 := by
  unfold State.swapEnd State.countedOut
  split
  next k x hf => rw [h k x hf, if_neg Bool.false_ne_true]
  next => rfl

/-- The cell takes the new name, and the counts move (R252). -/
theorem swapCell_swaps (hclean : s.poisoned pa 8 = false) (h : memNat s.mem pa 8 = e.toNat) (hinj : (s.winReg t.ctx 0xD8).getLsbD 63 = false)
    (hold : s.namePoison t.ctx e = false) (hnew : s.namePoison t.ctx m = false)
    (hmany : ∀ k x l, s.findName t.ctx e = some (k, x) → x.line? e = some l → 1 < l.count.toNat) :
    ∃ s2, s.swapCell t d addr pa e m = .ok s2 [⟨.s, d.toNat, 0, 1⟩] 0 ∧ CrewsSame s s2 ∧
      s2.domains = ((s.countedIn t.ctx m).countedOut t.ctx e).domains ∧ s2.mem = Memory.writes s.mem pa (leBytes 8 m.toNat) := by
  obtain ⟨hkept, hdoms, hmem⟩ := swapStored_kept (addr := addr) (pa := pa) (m := m) hinj
  have hctx : (s.swapStored t addr pa m).contexts = (s.countedIn t.ctx m).contexts := hkept.contexts.trans (crewsSame_countedIn s t.ctx m).contexts.symm
  have hlines : ∀ k x, (s.swapStored t addr pa m).findName t.ctx e = some (k, x) → ∃ l, x.line? e = some l ∧ 1 < l.count.toNat := fun k x hf => by
    obtain ⟨l, hl⟩ := Option.isSome_iff_exists.1 (findName_some hf).2
    exact ⟨l, hl, countedIn_many hmany k x l ((findName_congr hctx hdoms _ _).symm.trans hf) hl⟩
  have hcell : s.swapCell t d addr pa e m = .ok ((s.swapStored t addr pa m).countedOut t.ctx e) [⟨.s, d.toNat, 0, 1⟩] 0 := by
    have hclean' : (s.dropL1 (s.l1Units t) t.ctx pa).poisoned pa 8 = false := hclean
    have hword : (BitVec.ofNat 64 ((s.dropL1 (s.l1Units t) t.ctx pa).readNat pa 8) != e) = false := by
      rw [bne, readNat_eq_memNat, word64_beq, State.dropL1_mem, decide_eq_true h]
      rfl
    have hnames : ([e, m].any fun n => n != 0 && (s.dropL1 (s.l1Units t) t.ctx pa).namePoison t.ctx n) = false := by
      have hpoison := namePoison_congr (s := s) (s' := s.dropL1 (s.l1Units t) t.ctx pa) rfl rfl rfl t.ctx
      simp only [List.any_cons, List.any_nil, hpoison, hold, hnew, Bool.and_false, Bool.or_false]
    unfold State.swapCell
    simp only [hclean', hword, hnames, Bool.false_eq_true, if_false]
    exact swapEnd_counts fun k x hf => by
      obtain ⟨l, hl, hone⟩ := hlines k x hf
      exact dropPoison_many hl (findName_some hf).1 hone
  refine ⟨_, hcell, ?_⟩
  have hout : (s.swapStored t addr pa m).countedOut t.ctx e =
      { s.swapStored t addr pa m with domains := ((s.swapStored t addr pa m).countedOut t.ctx e).domains } := by
    unfold State.countedOut
    split
    next k x hf =>
      obtain ⟨l, hl, hone⟩ := hlines k x hf
      exact countDown_eq (findName_some hf).1 hl hone
    next => rfl
  rw [hout]
  exact ⟨⟨⟨hkept.teams, hkept.cur⟩, hkept.gangs, hkept.contexts⟩, countedOut_domains_congr hctx hdoms _ _, hmem⟩

end

end Sys2Proof.Machine
end

section
/-! SUPPORT of O28: the slot of a `cswap` (R252). -/

namespace Sys2Proof.Machine

theorem lookFor_of_seeAll {s s1 : State} {t : Team} {a : Access} {w : Bool} {addr : DWord} {k : Looked}
    (h : seeAll t a w [(noLane, [addr])] s = ([(noLane, [(addr, k)])], s1)) : lookFor s t a w addr = k := by
  simp only [seeAll, seeElem, Prod.mk.injEq, List.cons.injEq, true_and, and_true] at h
  exact h.1

section
variable {s : State} {ctx : Nat} {e m n : DWord}

theorem absent_true (h : n ≠ 0 ∧ s.findName ctx n = none) : (n != 0 && (s.findName ctx n).isNone) = true := by
  rwa [Bool.and_eq_true, bne_iff_ne, Option.isNone_iff_eq_none]
theorem absent_false (h : ¬ (n ≠ 0 ∧ s.findName ctx n = none)) : (n != 0 && (s.findName ctx n).isNone) = false :=
  eq_false_of_ne_true fun ht => h (by rwa [Bool.and_eq_true, bne_iff_ne, Option.isNone_iff_eq_none] at ht)

theorem swapAbsent_none (he : ¬ (e ≠ 0 ∧ s.findName ctx e = none)) (hm : ¬ (m ≠ 0 ∧ s.findName ctx m = none)) : s.swapAbsent ctx e m = none := by
  simp only [State.swapAbsent, List.find?_cons, List.find?_nil, absent_false he, absent_false hm, Bool.false_and]
theorem swapAbsent_new (hm : m ≠ 0 ∧ s.findName ctx m = none) (hc : s.namePoison ctx m = false) : s.swapAbsent ctx e m = some m := by
  simp only [State.swapAbsent, List.find?_cons, absent_true hm, hc, Bool.not_false, Bool.and_self]
theorem swapAbsent_old (hm : ¬ (m ≠ 0 ∧ s.findName ctx m = none)) (he : e ≠ 0 ∧ s.findName ctx e = none) (hc : s.namePoison ctx e = false) :
    s.swapAbsent ctx e m = some e := by
  simp only [State.swapAbsent, List.find?_cons, absent_false hm, absent_true he, hc, Bool.false_and, Bool.not_false, Bool.and_self]

end

section
variable {s s1 s2 : State} {t : Team} {d a b : RegNo} {o : BitVec 3} {addr e m : DWord} {pa : Nat} {page : Translation} {x : Word}
  (hi : Issues s t (.cswap d a b o)) (hx : (t.viewAt s.clk).S64 a.toNat = addr) (he : (t.viewAt s.clk).S64 b.toNat = e)
  (hm : (t.viewAt s.clk).S64 (b.toNat + 2) = m) (hal : addrCheck addr 8 = none)
  (hsee : seeAll t .rmw false [(noLane, [addr])] s = ([(noLane, [(addr, .ok pa page)])], s1)) (hclean : s.poisoned pa 8 = false)
include hi hx he hm hal hsee hclean

/-- A name that keeps a `cswap` from its cell. -/
theorem execCswap_traps {n : DWord} (h : memNat s.mem pa 8 = e.toNat) (hn : s.swapAbsent t.ctx e m = some n) : Traps s (.cswap d a b o) 0x08 0xFFFF n := by
  have hbad : firstBad [(noLane, addr)] 8 = none := firstBad_none fun y hy => by rw [List.mem_singleton.1 hy]; exact hal
  have hword : (BitVec.ofNat 64 (s.readNat pa 8) == e) = true := by rw [readNat_eq_memNat, word64_beq, decide_eq_true h]
  refine traps_of_body hi (rfl : _ = execCswap d a b o s) ?_
  simp only [hx, he, hm, hbad, lookFor_of_seeAll hsee, hclean, hword, Bool.not_false, Bool.and_self, if_true, hn]
  rfl

/-- A `cswap` that comes to its cell has its answer on its way. -/
theorem execCswap_answers (ho : s.overfull (.cswap d a b o) = false) (hd : t.done = 0) (hr : t.kernel.rollback = false)
    (hn : memNat s.mem pa 8 = e.toNat → s.swapAbsent t.ctx e m = none) (hcell : s1.swapCell t d addr pa e m = .ok s2 [⟨.s, d.toNat, 0, x⟩] 0)
    (hkept : CrewsSame s s2) :
    ∃ s' t', exec (.cswap d a b o) s = .next s' ∧ s'.teams.find s.cur = some t' ∧ ((∃ p ∈ t'.pends, p.file = .s ∧ p.n = d.toNat ∧ p.reason = 14 ∧
      p.data = .values [⟨.s, d.toNat, 0, x⟩] 0) ∧ RegsAfter t t' newNothing ∧ t'.still = t.still ∧ OthersKept s s' t) ∧ s'.domains = s2.domains ∧
      (Untraced s → s'.mem = s2.mem) := by
  have hbad : firstBad [(noLane, addr)] 8 = none := firstBad_none fun y hy => by rw [List.mem_singleton.1 hy]; exact hal
  have hgo : (if (decide (memNat s.mem pa 8 = e.toNat)) = true then s.swapAbsent t.ctx e m else none) = none := by
    split
    next h => exact hn (of_decide_eq_true h)
    next => rfl
  have hacq := crewsSame_acquire (acquires o) s2 t
  have hall := hkept.trans hacq
  obtain ⟨s', t', hexec, hf, hp, hv, hs, hpr, -, hst, -, hk⟩ := pends_of_later hi (rfl : _ = execCswap d a b o s)
    (s1 := if acquires o then s2.acquire t else s2) (reason := 14) (data := .values [⟨.s, d.toNat, 0, x⟩] 0) (by
      simp only [hx, he, hm, hbad, lookFor_of_seeAll hsee, hclean, readNat_eq_memNat, word64_beq, Bool.not_false, Bool.true_and, hgo]
      rw [genericMany_noLane hd hsee (by rintro y hy; rw [List.mem_singleton.1 hy]; rfl) hcell]) (hall.me.trans hi.1) hall.cur rfl ho
  refine ⟨s', t', hexec, hf, ⟨⟨_, hp, rfl, rfl, rfl, rfl⟩, regsAfter_of_files hv hs hpr, hst, hk.othersKept hall hr⟩, ?_, fun un => ?_⟩
  · exact (congrArg State.domains hk.rest :).trans (by rw [acquire_when]; rfl)
  · exact (congrArg State.mem (hk.memory (untraced_of_contexts hall.contexts un)) :).trans (by rw [acquire_when]; rfl)

end

end Sys2Proof.Machine
end

section
/-! PROOF of O28. -/

namespace Sys2Proof
open Machine

/-- Settles O28: each instruction's body answers at once; the states that it leaves are the machine with one domain's table changed. -/
theorem content : Obligations.Content := by
  unfold Obligations.Content
  refine ⟨⟨?_, ?_, ?_, ?_, fun i d a s t h hi => lineOperand_traps hi h, fun s dom p bytes node i h => probe_same h,
    fun s dom p bytes node i h => probe_free h⟩, ⟨?_, fun i a s t h hi hz => count_nothing hi h hz, ?_, ?_,
    fun i a s t h hi hz hclean hnone => count_absent rfl hz hclean hi h hnone⟩, ?_⟩
  · intro d a s t k dom bytes i hi ho x p q hop hclean hname
    exact execChash_names rfl hop rfl rfl hi ho hclean hname
  · intro d a s t k dom bytes hi x p q hop hclean hsame hfree
    exact execChash_full rfl hop rfl rfl hi hclean hsame hfree
  · intro d a s t k dom bytes i hi ho x p q name s0 kids hop hfirst hclean
    exact ⟨execCput_same rfl hop rfl rfl hi ho hfirst hclean, fun hsame hthere => execCput_new rfl hop rfl rfl hi ho hfirst hclean hsame rfl hthere,
      fun m hsame hm => execCput_orphan rfl hop rfl rfl hi hfirst hclean hsame hm⟩
  · intro d a s t k dom bytes hi x p q hop hclean hsame hfree
    exact execCput_full rfl hop rfl rfl hi hclean hsame hfree
  · intro a b s t k d hi hr hp off name c w pa hw hal hfind
    obtain ⟨s', t', hexec, hf, hgo, hwords, hfull, hmem⟩ := execCget_windows hi hr hp rfl rfl hw hal hfind
    refine ⟨s', t', hexec, hf, hgo, fun j hj => ?_, fun e v hv => (hwords e v).trans (if_neg hv), hfull, hmem⟩
    refine (hwords c (w + j)).trans ((if_pos ⟨rfl, Nat.le_add_right _ _, Nat.add_lt_add_left hj _⟩).trans ?_)
    exact congrArg (lineWord s pa) (Nat.add_sub_cancel_left w j)
  · intro a s t k d l hi name hz hclean hfind hl line dom
    exact countUp_eq (s := s.acquire t) (findName_some hfind).1 hl ▸ execCref_counts rfl hz hclean hfind hi
  · intro a s t k d l hi name hz hclean hfind hl
    exact ⟨fun hs => execCdrop_saturated rfl hz hclean hfind hl hi hs, fun hone hs => execCdrop_many rfl hz hclean hfind hl hi hone hs,
      fun hlast hdrop => execCdrop_last rfl hz hclean hfind hl hi hlast hdrop⟩
  · intro d a b m s s1 t pa page hi ho hd hr r addr old new absent counted swapped done hal hsee hclean hinj hold hnew
    obtain ⟨f, hf⟩ := seeAll_frames t .rmw false [(noLane, [addr])] s
    obtain rfl : s1 = { s with frames := f } := by rw [hsee] at hf; exact hf
    refine ⟨fun hne => ?_, fun heq hm => execCswap_traps hi rfl rfl rfl hal hsee hclean heq (swapAbsent_new hm hnew),
      fun heq hm he => execCswap_traps hi rfl rfl rfl hal hsee hclean heq (swapAbsent_old hm he hold), fun heq hm he hmany => ?_⟩
    · obtain ⟨s', t', hexec, hfind, hdone, hdom, hmem⟩ := execCswap_answers hi rfl rfl rfl hal hsee hclean ho hd hr (fun heq => absurd heq hne)
        (swapCell_differs (s := { s with frames := f }) hclean hne) ⟨⟨rfl, rfl⟩, rfl, rfl⟩
      exact ⟨s', t', hexec, hfind, hdone, hdom, fun un x => congrArg (Memory.read · x) (hmem un)⟩
    · have hpoison := namePoison_congr (s := s) (s' := { s with frames := f }) rfl rfl rfl t.ctx
      obtain ⟨s2, hcell, hkept, hdoms, hbytes⟩ := swapCell_swaps (s := { s with frames := f }) (d := d) (addr := addr) hclean heq hinj
        ((hpoison old).trans hold) ((hpoison new).trans hnew) hmany
      obtain ⟨s', t', hexec, hfind, hdone, hdom, hmem⟩ := execCswap_answers hi rfl rfl rfl hal hsee hclean ho hd hr
        (fun _ => swapAbsent_none he hm) hcell ⟨⟨hkept.teams, hkept.cur⟩, hkept.gangs, hkept.contexts⟩
      have hcounted := countedIn_domains_congr (s := s) (s' := { s with frames := f }) rfl rfl t.ctx new
      have hcontexts := (crewsSame_countedIn { s with frames := f } t.ctx new).contexts.trans (crewsSame_countedIn s t.ctx new).contexts.symm
      exact ⟨s', t', hexec, hfind, hdone, hdom.trans (hdoms.trans (countedOut_domains_congr hcontexts hcounted t.ctx old)),
        fun un => (hmem un).trans hbytes⟩

end Sys2Proof
end

section
/-! SUPPORT of O46: a filter that takes up a page, and the array of a gang that changes (R293, R294, R357). -/

namespace Sys2Proof.Machine

theorem fill_held {s : State} {x : Translation} (h : x ∈ s.translations) : s.fill x = s := by
  unfold State.fill
  rw [if_pos (List.any_eq_true.2 ⟨x, h, by simp⟩)]

/-- A filter with room takes up a page, and holds what it held. -/
theorem fill_room {s : State} {x : Translation} (hu : ∀ y ∈ s.translations, y.unit ≠ x.unit) :
    (s.fill x).translations = x :: s.translations := by
  have hany : ¬ (s.translations.any fun y => y.unit == x.unit && y.ctx == x.ctx && y.vbase == x.vbase && y.size == x.size) = true := by
    rw [List.any_eq_true]
    rintro ⟨y, hy, hx⟩
    simp only [Bool.and_eq_true, beq_iff_eq] at hx
    exact hu y hy hx.1.1.1
  have hroom : (s.translations.filter (·.unit == x.unit)).length < filterSize x.unit := by
    rw [List.filter_eq_nil_iff.2 fun y hy => by simpa using hu y hy]
    unfold filterSize
    split <;> decide
  unfold State.fill
  rw [if_neg hany]
  exact congrArg State.translations (if_pos hroom)

/-- Two states that differ at most in what a touched line leaves: they have the same frames, translations, contexts and gangs. -/
structure SameButLines (s s' : State) : Prop where
  frames : s'.frames = s.frames
  translations : s'.translations = s.translations
  contexts : s'.contexts = s.contexts
  gangs : s'.gangs = s.gangs
theorem SameButLines.refl (s : State) : SameButLines s s := ⟨rfl, rfl, rfl, rfl⟩
theorem SameButLines.trans {a b c : State} (h : SameButLines a b) (k : SameButLines b c) : SameButLines a c :=
  ⟨k.frames.trans h.frames, k.translations.trans h.translations, k.contexts.trans h.contexts, k.gangs.trans h.gangs⟩
theorem sameButLines_touchLine (s : State) (ctx : Option Nat) (pa : Nat) (own : Option (Option Nat)) : SameButLines s (s.touchLine ctx pa own) :=
  ⟨s.touchLine_frames .., s.touchLine_translations .., s.touchLine_contexts .., s.touchLine_gangs ..⟩

/-- A read of bytes of one page lets that page in, and touches lines. -/
theorem touchVia_onePage {s : State} {unit : Option Nat} {ctx va n p pa : Nat} {x : Translation} (hp : pageStarts va n = [p])
    (hl : s.lookVia unit ctx p .read = .ok pa x) : SameButLines (s.letIn ctx pa x) (s.touchVia unit ctx va n .read) := by
  unfold State.touchVia
  rw [hp]
  simp only [List.foldl_cons, List.foldl_nil, hl]
  refine foldl_kept SameButLines .refl .trans _ (fun s p => ?_) _ _
  split
  · exact sameButLines_touchLine _ _ _ _
  · exact .refl s

theorem le_controllerFor (ctx va : Nat) : 100000 ≤ controllerFor ctx va := Nat.le_add_right _ _
/-- A page that a unit's filter holds goes to its controller when it is let in (R292). -/
theorem letIn_held {s : State} {x : Translation} (hx : x ∈ s.translations) (hu : ∀ y ∈ s.translations, y.unit < 100000) (ctx pa : Nat) :
    ∃ c : Translation, 100000 ≤ c.unit ∧ (s.letIn ctx pa x).translations = c :: s.translations := by
  have hfill := fill_room (s := s.claim pa x) (x := { x with unit := controllerFor ctx (x.vbase + (pa - x.pbase)) }) fun y hy => by
    rw [State.claim_translations] at hy
    exact Nat.ne_of_lt (Nat.lt_of_lt_of_le (hu y hy) (le_controllerFor _ _))
  rw [State.claim_translations] at hfill
  refine ⟨{ x with unit := controllerFor ctx (x.vbase + (pa - x.pbase)) }, le_controllerFor _ _, ?_⟩
  unfold State.letIn
  rw [fill_held (by rw [hfill]; exact List.mem_cons_of_mem _ hx), hfill]

/-- A page of a unit's filter under which an address is looked up decides (R293). -/
theorem lookVia_of_held {s : State} {unit ctx va : Nat} {a : Access} {c : Context} {x : Translation} (hv : va < 2 ^ 52) (hc : s.context? ctx = some c)
    (hw : c.inWindow va = false) (hx : s.translations.find? (·.covers unit ctx va) = some x) :
    s.lookVia (some unit) ctx va a = s.checkPage c { x with unit := unit } va a := by
  unfold State.lookVia State.lookWalk
  rw [if_neg (Nat.not_le.2 hv), hc]
  simp only [Option.getD_some, hw, hx, Option.some_or, Bool.false_eq_true, if_false]

theorem runHeads_noCmds {a : Array} (h : a.cmds = []) (clk n : Nat) : a.runHeads clk n = a := by
  cases n with
  | zero => rfl
  | succ n =>
    have hdrain : a.startDrain = none := by unfold Array.startDrain; simp [h]
    have hhead : a.headStep clk = none := by unfold Array.headStep; simp [h]
    rw [Array.runHeads, hdrain, hhead]
    rfl

theorem updArray_find {s : State} {id : Nat} {g : Gang} (h : s.gangs.find id = some g) (f : Array → Array) :
    (s.updArray id f).gangs.find id = some { g with array := g.array.map f } := by
  unfold State.updArray State.updGang
  rw [h]
  exact SMap.find_insert_same _ _ _

/-- Whether a gang has an array whose weight slot `w` is valid. -/
def State.slotValid (s : State) (gang w : Nat) : Bool :=
  ((s.gangs.find gang).bind (·.array)).any fun a => (a.slots.getD w WeightSlot.empty).valid
/-- A failed load leaves its slot unused (R362). -/
theorem loadFailed_slot {s : State} {id w : Nat} {g : Gang} {a : Array} (hg : s.gangs.find id = some g) (ha : g.array = some a) (hc : a.cmds = []) :
    ((s.updArray id fun a => a.loadFailed w).kick id).slotValid id w = false := by
  have hslots : ((a.slots.set w WeightSlot.empty).getD w WeightSlot.empty).valid = false := by
    rw [List.getD_eq_getElem?_getD]
    by_cases h : w < a.slots.length
    · rw [List.getElem?_set_self h]
      rfl
    · rw [List.getElem?_eq_none (by rw [List.length_set]; omega)]
      rfl
  unfold State.slotValid State.kick
  rw [updArray_find (updArray_find hg _), ha]
  simp only [Option.map_some, Option.bind_some, Option.any_some]
  rw [runHeads_noCmds (show (a.loadFailed w).cmds = [] from hc)]
  exact hslots

/-- The bytes that a read of an array has brought, if it has. -/
def ArrayRead.bytes? : ArrayRead → Option (List Byte)
  | .bytes bs => some bs
  | _ => none
theorem ArrayRead.eq_bytes {r : ArrayRead} {bs : List Byte} (h : r.bytes? = some bs) : r = .bytes bs := by
  cases r with
  | bytes _ => exact congrArg ArrayRead.bytes (Option.some.inj h)
  | bad => exact absurd h (Option.some_ne_none _).symm
  | fault => exact absurd h (Option.some_ne_none _).symm

end Sys2Proof.Machine
end

section
/-! SUPPORT of O46: a weight image that lies on two pages that claim one frame. Before the load each page lets the array read; the read of the
image's header claims the frame for the first page's name, and the second page's name is refused from then on (R294). -/

namespace Sys2Proof.Machine

/-- A page of the control core's filter, which claims frame 5 (R294). -/
def pageOfFrame5 (vbase : Nat) : Translation := ⟨unitOf 0 4, 0, vbase, 4096, 0x5000, true, true, 0, 0⟩
/-- The `ctl` machine, its weight slot 7 loading an image of one empty chunk, whose header is the end of page 0x20 and whose record is the
start of page 0x21. -/
def aliasedImage : State := { (State.reset.withTeam true []).updArray 0 fun a => { a with slots := a.slots.set 7 ⟨true, some (0x20F80, 0x84), 0, [], 0, 0⟩ } with
  translations := [pageOfFrame5 0x20000, pageOfFrame5 0x21000]
  mem := [(0x5F80, 0x57), (0x5F81, 0x57), (0x5F82, 0x42), (0x5F83, 0x31), (0x5F88, 1), (0x5F8C, 0x80), (0x5F8D, 2)] }
/-- The header of the image. -/
def aliasedHead : List Byte := [0x57, 0x57, 0x42, 0x31, 0, 0, 0, 0, 1, 0, 0, 0, 0x80, 2] ++ List.replicate 114 0
/-- The image after the array has read its header. -/
def headerRead : State := aliasedImage.touchVia (ctlUnit 0) 0 (0x20F80 : DWord).toNat 128 .read

/-- The array that loads the image. -/
def loadingArray : Array := { Array.new with slots := Array.new.slots.set 7 ⟨true, some (0x20F80, 0x84), 0, [], 0, 0⟩ }
theorem aliasedImage_gang : aliasedImage.arrayGang 0 = some (0, Gang.single (Kernel.plain 0 0x200 (some 0x100) true) (some loadingArray), loadingArray) := rfl

theorem aliasedImage_header : aliasedImage.arrayRead 0 0 (0x20F80 : DWord).toNat 128 = .bytes aliasedHead :=
  ArrayRead.eq_bytes (by decide +kernel)
theorem aliasedImage_image : aliasedImage.arrayRead 0 0 (0x20F80 : DWord).toNat 640 = .bytes (aliasedHead ++ List.replicate 512 0) :=
  ArrayRead.eq_bytes (by decide +kernel)
theorem aliasedHead_good : headerGood aliasedHead = true ∧ field (leNat aliasedHead) 12 4 = 640 ∧
    recordsGood (field (leNat aliasedHead) 4 1) (field (leNat aliasedHead) 8 4) ((aliasedHead ++ List.replicate 512 0).drop 128) = true := by
  decide +kernel

theorem headerRead_same : SameButLines (aliasedImage.letIn 0 0x5F80 (pageOfFrame5 0x20000)) headerRead :=
  touchVia_onePage (p := 0x20F80) (by decide) (by decide +kernel)
theorem headerRead_frames : headerRead.frames = [(5, .claimed 0 0x20)] := by
  rw [headerRead_same.frames]
  simp only [State.letIn, State.fill_frames]
  decide +kernel
theorem headerRead_translations : ∃ c : Translation, 100000 ≤ c.unit ∧ headerRead.translations = c :: aliasedImage.translations := by
  rw [headerRead_same.translations]
  exact letIn_held (List.mem_cons_self ..) (by decide) _ _
theorem headerRead_contexts : headerRead.contexts = aliasedImage.contexts := headerRead_same.contexts.trans (State.letIn_contexts _ _ _ _)
theorem headerRead_gangs : headerRead.gangs = aliasedImage.gangs := headerRead_same.gangs.trans (State.letIn_gangs _ _ _ _)

/-- The second page's name of the frame, which the first page's name has claimed. -/
theorem headerRead_bars : headerRead.barsVia (ctlUnit 0) 0 (0x20F80 : DWord).toNat 640 .read = some (0x21000, .trap 0x09) := by
  obtain ⟨c, hc, htrans⟩ := headerRead_translations
  have hctx : headerRead.context? 0 = some (Context.blank 0 0 0x10000) := by
    unfold State.context?
    rw [headerRead_contexts]
    rfl
  have hfind : ∀ va, headerRead.translations.find? (·.covers (unitOf 0 4) 0 va) = aliasedImage.translations.find? (·.covers (unitOf 0 4) 0 va) := fun va => by
    have hne : c.unit ≠ unitOf 0 4 := fun h => absurd (h ▸ hc) (by decide)
    rw [htrans, List.find?_cons_of_neg (by simp [Translation.covers, hne])]
  have hlook : ∀ va x, va < 2 ^ 52 → aliasedImage.translations.find? (·.covers (unitOf 0 4) 0 va) = some x →
      headerRead.lookVia (ctlUnit 0) 0 va .read = { State.reset with frames := [(5, .claimed 0 0x20)] }.checkPage (Context.blank 0 0 0x10000)
        { x with unit := unitOf 0 4 } va .read := fun va x hv hx => by
    rw [ctlUnit, lookVia_of_held hv hctx rfl ((hfind va).trans hx)]
    unfold State.checkPage
    rw [headerRead_frames]
  have hfirst := hlook 0x20F80 (pageOfFrame5 0x20000) (by decide) (by decide +kernel)
  have hsecond := hlook 0x21000 (pageOfFrame5 0x21000) (by decide) (by decide +kernel)
  unfold State.barsVia
  rw [show pageStarts (0x20F80 : DWord).toNat 640 = [0x20F80, 0x21000] by decide]
  simp only [List.findSome?_cons, hfirst, hsecond]
  rfl
theorem headerRead_bad : headerRead.arrayRead 0 0 (0x20F80 : DWord).toNat 640 = .bad := by
  unfold State.arrayRead
  simp only [headerRead_bars]

/-- The load of the image fails, though all of it could be read before. -/
theorem aliasedImage_fails : exec (.weightLoadEnd 0 7) aliasedImage = .next ((headerRead.updArray 0 fun a => a.loadFailed 7).kick 0) := by
  obtain ⟨hgood, hlen, -⟩ := aliasedHead_good
  show execWeightLoadEnd 0 7 aliasedImage = _
  unfold execWeightLoadEnd
  have hload : (loadingArray.slots[7]?).bind (·.loading) = some (0x20F80, 0x84) := rfl
  have hctx : (Gang.single (Kernel.plain 0 0x200 (some 0x100) true) (some loadingArray)).ctx = 0 := rfl
  have htouch : aliasedImage.touchVia (ctlUnit 0) 0 (0x20F80 : DWord).toNat 128 .read = headerRead := rfl
  have hhalted : loadingArray.halted.isSome = false := rfl
  simp only [aliasedImage_gang, hload, hctx, hhalted, aliasedImage_header, htouch, hgood, hlen, headerRead_bad, Bool.false_eq_true, Bool.not_true, if_false]

end Sys2Proof.Machine
end

section
/-! PROOF of the negation of O46. -/

namespace Sys2Proof
open Machine

/-- Refutes O46: a weight image is read again after the read of its header has claimed the header's frame; an image on two pages that claim one
frame then fails to load, though both of the statement's reads succeed before. -/
theorem not_matrixEvents : ¬ Obligations.MatrixEvents := by
  unfold Obligations.MatrixEvents
  rintro ⟨hevents, -⟩
  obtain ⟨hgood, hlen, hrec⟩ := aliasedHead_good
  obtain ⟨-, -, hload, -⟩ := hevents 0 aliasedImage 0 _ _ aliasedImage_gang rfl
  obtain ⟨s', hexec, hfind, -⟩ := hload 7 0x20F80 0x84 aliasedHead (aliasedHead ++ List.replicate 512 0) rfl rfl aliasedImage_header hgood
    (by rw [hlen]; exact aliasedImage_image) hrec
  obtain rfl := Host.Outcome.next.inj (aliasedImage_fails.symm.trans hexec)
  have hfails := loadFailed_slot (s := headerRead) (id := 0) (w := 7) (by rw [headerRead_gangs]; rfl) rfl rfl
  rw [State.slotValid, hfind] at hfails
  simp only [Option.bind_some, Option.any_some] at hfails
  rw [runHeads_noCmds rfl] at hfails
  exact absurd hfails (by decide)

end Sys2Proof
end

section
/-! SUPPORT of O45: what a permission filter holds after it is filled, and the size of the page at which a walk ends (R291 to R293). -/

namespace Sys2Proof.Machine

theorem Translation.covers_base {x : Translation} (h : 0 < x.size) : x.covers x.unit x.ctx x.vbase = true := by
  simp [Translation.covers, h]
/-- Whether a page covers an address depends on where it lies alone. -/
theorem Translation.covers_congr {x y : Translation} (hu : y.unit = x.unit) (hc : y.ctx = x.ctx) (hv : y.vbase = x.vbase) (hs : y.size = x.size)
    (unit ctx va : Nat) : y.covers unit ctx va = x.covers unit ctx va := by
  unfold Translation.covers; rw [hu, hc, hv, hs]
theorem Translation.size_pos {x : Translation} {unit ctx va : Nat} (h : x.covers unit ctx va = true) : 0 < x.size := by
  simp only [Translation.covers, Bool.and_eq_true, decide_eq_true_eq] at h
  omega

section
variable {s : State} {x y : Translation}

/-- Filling a filter adds the page, unless the filter holds one that lies as it does, and takes away pages of that filter alone. -/
theorem fill_cases (s : State) (x : Translation) :
    ((s.fill x) = s ∧ ∃ y ∈ s.translations, y.unit = x.unit ∧ y.ctx = x.ctx ∧ y.vbase = x.vbase ∧ y.size = x.size) ∨
    ∃ ys, (s.fill x).translations = x :: ys ∧ (∀ y ∈ ys, y ∈ s.translations) ∧ ∀ y ∈ s.translations, y.unit ≠ x.unit → y ∈ ys := by
  unfold State.fill
  split
  next h =>
    obtain ⟨y, hy, hsame⟩ := List.any_eq_true.1 h
    simp only [Bool.and_eq_true, beq_iff_eq] at hsame
    obtain ⟨⟨⟨hu, hc⟩, hv⟩, hs⟩ := hsame
    exact .inl ⟨rfl, y, hy, hu, hc, hv, hs⟩
  next =>
    right
    dsimp only
    split
    · exact ⟨_, rfl, fun _ h => h, fun _ h _ => h⟩
    refine ⟨_, rfl, ?_, ?_⟩ <;> split
    · exact fun _ h => List.mem_of_mem_erase h
    · exact fun _ h => h
    next v hv =>
      intro y hy hne
      refine (List.mem_erase_of_ne ?_).2 hy
      rintro rfl
      exact hne (by simpa using (List.mem_filter.1 (List.mem_of_getElem? hv)).2)
    · exact fun _ h _ => h

theorem fill_covers (hx : 0 < x.size) : ∃ y ∈ (s.fill x).translations, y.covers x.unit x.ctx x.vbase = true := by
  rcases fill_cases s x with ⟨hs, y, hy, hu, hc, hv, hz⟩ | ⟨ys, hys, -, -⟩
  · exact ⟨y, by rwa [hs], (Translation.covers_congr hu hc hv hz _ _ _).trans (Translation.covers_base hx)⟩
  · exact ⟨x, by rw [hys]; exact List.mem_cons_self, Translation.covers_base hx⟩
theorem mem_fill_of_unit_ne (hy : y ∈ s.translations) (hu : y.unit ≠ x.unit) : y ∈ (s.fill x).translations := by
  rcases fill_cases s x with ⟨hs, -⟩ | ⟨ys, hys, -, hkept⟩
  · rwa [hs]
  · rw [hys]; exact List.mem_cons_of_mem _ (hkept y hy hu)
theorem of_mem_fill (hy : y ∈ (s.fill x).translations) : y = x ∨ y ∈ s.translations := by
  rcases fill_cases s x with ⟨hs, -⟩ | ⟨ys, hys, hold, -⟩
  · exact .inr (by rwa [hs] at hy)
  · rw [hys] at hy
    exact (List.mem_cons.1 hy).imp id (hold y)
/-- A filter that holds the page already, or none that covers its base, holds it when it is filled. -/
theorem mem_fill (hx : 0 < x.size) (h : x ∈ s.translations ∨ ∀ y ∈ s.translations, y.covers x.unit x.ctx x.vbase = false) :
    x ∈ (s.fill x).translations := by
  rcases h with hin | hnone
  · rwa [fill_held hin]
  · rcases fill_cases s x with ⟨-, y, hy, hu, hc, hv, hz⟩ | ⟨ys, hys, -, -⟩
    · have hcov := (Translation.covers_congr hu hc hv hz x.unit x.ctx x.vbase).trans (Translation.covers_base hx)
      rw [hnone y hy] at hcov
      cases hcov
    · rw [hys]; exact List.mem_cons_self

end

/-- The filters of several units take up a page (R292). -/
def State.fillUnits (s : State) (us : List Nat) (x : Translation) : State := us.foldl (fun (s : State) u => s.fill { x with unit := u }) s

section
variable (s : State) (us : List Nat) (x : Translation)

theorem fillUnits_kept : DevKept s (s.fillUnits us x) :=
  foldl_kept DevKept .refl .trans _ (fun s u => fill_kept s { x with unit := u }) us s
theorem fillUnits_agenda : (s.fillUnits us x).agenda = s.agenda :=
  (congrArg State.agenda (fillUnits_kept s us x).rest : (s.fillUnits us x).still.agenda = s.still.agenda)
theorem fillUnits_mem : (s.fillUnits us x).mem = s.mem :=
  foldl_mem (fun s u => State.fill_mem s { x with unit := u }) us s
variable {s us x}
theorem mem_fillUnits {y : Translation} (hy : y ∈ s.translations) (hu : y.unit ∉ us) : y ∈ (s.fillUnits us x).translations := by
  induction us generalizing s with
  | nil => exact hy
  | cons u us ih =>
    rw [List.mem_cons, not_or] at hu
    exact ih (mem_fill_of_unit_ne hy hu.1) hu.2

/-- The filters of a page's controller and of the units that asked, the first of which is `x`'s, take it up (R292, R293). -/
theorem fillUnits_asked (hx : 0 < x.size) (ctl : Nat) (hus : x.unit ∉ us) :
    (∃ y ∈ (s.fillUnits (ctl :: x.unit :: us) x).translations, y.covers x.unit x.ctx x.vbase = true) ∧
    ((∀ y ∈ s.translations, y.covers x.unit x.ctx x.vbase = false) → x ∈ (s.fillUnits (ctl :: x.unit :: us) x).translations) := by
  have hsplit : s.fillUnits (ctl :: x.unit :: us) x = ((s.fill { x with unit := ctl }).fill x).fillUnits us x := rfl
  rw [hsplit]
  constructor
  · obtain ⟨y, hy, hcov⟩ := fill_covers (s := s.fill { x with unit := ctl }) hx
    have hunit : y.unit = x.unit := by
      simp only [Translation.covers, Bool.and_eq_true, beq_iff_eq] at hcov
      exact hcov.1.1.1
    exact ⟨y, mem_fillUnits hy (hunit ▸ hus), hcov⟩
  · intro hnone
    refine mem_fillUnits (mem_fill hx ?_) hus
    by_cases hctl : ctl = x.unit
    · subst hctl
      exact .inl (mem_fill hx (.inr hnone))
    · refine .inr fun y hy => ?_
      rcases of_mem_fill hy with rfl | hold
      · simp [Translation.covers, hctl]
      · exact hnone y hold

end

/-- A leaf at a level that has pages has a size (R289, R291). -/
theorem walkIndex_size_pos {va level : Nat} (h : 2 ≤ level) (g64 : Bool) : 0 < (walkIndex va level g64).2 := by
  unfold walkIndex
  split
  · omega
  · omega
  · exact Nat.two_pow_pos 30
  · exact Nat.two_pow_pos 21
  · split
    · exact Nat.two_pow_pos 16
    · exact Nat.two_pow_pos 12
theorem walkFrom_size_pos {s : State} {ctx va vb size pb cls dom : Nat} {r w : Bool} : ∀ {fuel level table : Nat} {g64 : Bool},
    s.walkFrom ctx va fuel level table g64 = .page vb size pb r w cls dom → 0 < size := by
  intro fuel
  induction fuel with
  | zero => intro _ _ _ h; cases h
  | succ fuel ih =>
    intro level table g64 h
    have hsize := walkIndex_size_pos (va := va) (level := level) (g64 := g64)
    unfold State.walkFrom at h
    obtain ⟨idx, n⟩ := walkIndex va level g64
    dsimp only at h hsize
    split at h
    · cases h
    split at h
    · cases h
    next hgood =>
    split at h
    next hleaf =>
      split at h
      · cases h
        refine hsize ?_
        by_contra hlow
        exact hgood (by simp [entryMalformed, hleaf, show level ≤ 1 by omega])
      · cases h
    next =>
      split at h
      · exact ih h
      · cases h
/-- The answer to a walk is a page of some size (R291, R292). -/
theorem answerWalk_size_pos {s : State} {ctx va vb size pb cls dom : Nat} {r w : Bool} (h : s.answerWalk ctx va = .page vb size pb r w cls dom) :
    0 < size := by
  unfold State.answerWalk at h
  split at h
  next x hx =>
    cases h
    have hcov := List.find?_some hx
    exact Translation.size_pos hcov
  next =>
    unfold State.walk at h
    split at h
    · cases h
    · exact walkFrom_size_pos h

/-- The requests for a page leave the agenda when their walk is answered (R292). -/
def State.asked (s : State) (ctx va : Nat) : State :=
  { s with agenda := s.agenda.filter fun d => match d.ev with | .pageWalk _ c va' => !(c == ctx && va' / 4096 == va / 4096) | _ => true }
/-- The units whose filters the answer fills, but for the first. -/
def State.joined (s : State) (unit ctx va : Nat) : List Nat := ((s.askers ctx va).filter fun u => !u == unit).eraseDups

section
variable {s : State} {ctx va : Nat}

theorem context?_agenda (s : State) (ds : List Due) (ctx : Nat) : State.context? { s with agenda := ds } ctx = s.context? ctx := rfl
theorem answerWalk_agenda (s : State) (ds : List Due) (ctx va : Nat) : State.answerWalk { s with agenda := ds } ctx va = s.answerWalk ctx va := by
  have hreads : ReadsAlike s { s with agenda := ds } := ⟨rfl, rfl, rfl, rfl, rfl, rfl⟩
  unfold State.answerWalk
  rw [hreads.translations, hreads.walk]
theorem walking_asked {s' : State} (h : s'.agenda = (s.asked ctx va).agenda) (unit : Nat) : s'.walking unit ctx (va / 4096) = false := by
  unfold State.walking
  rw [h, List.any_eq_false]
  intro d hd
  have hkept := (List.mem_filter.1 hd).2
  cases he : d.ev with
  | pageWalk u c v =>
    simp only [he, Bool.not_eq_true', Bool.and_eq_false_iff, beq_eq_false_iff_ne] at hkept
    simp only [Bool.and_eq_true, beq_iff_eq]
    rintro ⟨⟨-, hc⟩, hv⟩
    exact hkept.elim (· hc) (· hv)
  | _ => exact Bool.false_ne_true
theorem joined_unit (s : State) (unit ctx va : Nat) : unit ∉ s.joined unit ctx va := by
  simp [State.joined, List.mem_eraseDups]

/-- PAGE WALK at a page: the filters of the page's controller and of the units that asked take it up. -/
theorem execPageWalk_page {x : Context} {unit vb size pb cls dom : Nat} {r w : Bool} (hc : s.context? ctx = some x)
    (h : s.answerWalk ctx va = .page vb size pb r w cls dom) : exec (.pageWalk unit ctx va) s =
      .next ((s.asked ctx va).fillUnits (controllerFor ctx va :: unit :: s.joined unit ctx va) ⟨unit, ctx, vb, size, pb, r, w, cls, dom⟩) := by
  show execPageWalk unit ctx va s = _
  unfold execPageWalk
  simp only [context?_agenda, hc, answerWalk_agenda, h, List.eraseDups_cons]
  rfl
/-- PAGE WALK at a fault: it waits for each unit that asked (R297). -/
theorem execPageWalk_fault {x : Context} {unit k l : Nat} {e : DWord} (hc : s.context? ctx = some x) (h : s.answerWalk ctx va = .fault k l e) :
    exec (.pageWalk unit ctx va) s =
      .next { s.asked ctx va with faulted := ((unit :: s.joined unit ctx va).map fun u => ⟨u, ctx, va / 4096, k, l, e⟩) ++ s.faulted } := by
  show execPageWalk unit ctx va s = _
  unfold execPageWalk
  simp only [context?_agenda, hc, answerWalk_agenda, h, List.eraseDups_cons]
  rfl

end

end Sys2Proof.Machine
end

section
/-! SUPPORT of O45: no work that stops, and no report of it, takes a context away. -/

namespace Sys2Proof.Machine

/-- Whether the state has a context of a number. -/
@[simp] abbrev State.hasContext (s : State) (c : Nat) : Bool := (s.contexts.find c).isSome

theorem hasContext_of_still {s s' : State} (h : ∀ c, (s'.contexts.find c).map Context.still = (s.contexts.find c).map Context.still) (c : Nat) :
    s'.hasContext c = s.hasContext c := by
  simpa using congrArg Option.isSome (h c)
theorem foldl_contexts {β : Type} {f : State → β → State} (h : ∀ s x, (f s x).contexts = s.contexts) (xs : List β) (s : State) :
    (xs.foldl f s).contexts = s.contexts :=
  foldl_kept (fun a b : State => b.contexts = a.contexts) (fun _ => rfl) (fun h k => k.trans h) f h xs s
theorem foldl_hasContext {β : Type} {f : State → β → State} {c : Nat} (h : ∀ s x, (f s x).hasContext c = s.hasContext c) (xs : List β) (s : State) :
    (xs.foldl f s).hasContext c = s.hasContext c :=
  foldl_kept (fun a b : State => b.hasContext c = a.hasContext c) (fun _ => rfl) (fun h k => k.trans h) f h xs s

/-! Operations that leave the contexts as they are. -/
section
variable (s : State)

@[simp] theorem State.give_contexts (o : Op) (x : Nat) (fl : BitVec 5) : (s.give o x fl).contexts = s.contexts := by
  simp [State.give]
@[simp] theorem State.giveBad_contexts (o : Op) : (s.giveBad o).contexts = s.contexts := by
  simp [State.giveBad]
@[simp] theorem State.acquireOp_contexts (o : Op) : (s.acquireOp o).contexts = s.contexts := by
  unfold State.acquireOp; split <;> rfl
@[simp] theorem State.cacheRead_contexts (kind : CacheKind) (unit ctx va pa n : Nat) (x : Translation) (fresh : BitVec 1024) :
    (s.cacheRead kind unit ctx va pa n x fresh).2.contexts = s.contexts := by
  unfold State.cacheRead; dsimp only; (repeat' split) <;> simp
@[simp] theorem State.readL1_contexts (unit cluster core ctx va pa n : Nat) (x : Translation) (own : Op → Bool)
    (held : List (Nat × Nat × Byte)) : (s.readL1 unit cluster core ctx va pa n x own held).2.contexts = s.contexts := by
  unfold State.readL1; exact State.cacheRead_contexts s _ _ _ _ _ _ _ _
@[simp] theorem State.performLoad_contexts (o : Op) (older : List Op) (path : CacheKind) (pa : Nat) (x : Translation) :
    (s.performLoad o older path pa x).contexts = s.contexts := by
  unfold State.performLoad; dsimp only; (repeat' split) <;> simp
@[simp] theorem State.performPast_contexts (o : Op) (pa : Nat) : (s.performPast o pa).contexts = s.contexts := by
  unfold State.performPast; split <;> simp

@[simp] theorem State.setTag_contexts (k : Nat) (t : Tag) (alloc : Bool) : (s.setTag k t alloc).contexts = s.contexts := by
  unfold State.setTag; dsimp only; split <;> simp [State.writeState, State.winWrite]
@[simp] theorem State.dropTag_contexts (k : Nat) (t : Tag) : (s.dropTag k t).contexts = s.contexts := by
  simp [State.dropTag]
@[simp] theorem State.endService_contexts (ctx : Nat) : (s.endService ctx).contexts = s.contexts := by
  unfold State.endService
  split
  · rfl
  · split
    · rfl
    · exact foldl_contexts (fun s p => by split <;> simp) _ s
@[simp] theorem State.countDown_contexts (k : Nat) (name : DWord) : (s.countDown k name).contexts = s.contexts := by
  unfold State.countDown; dsimp only; (repeat' split) <;> simp
@[simp] theorem State.dropRoot_contexts (c : Card) : (s.dropRoot c).contexts = s.contexts := by
  unfold State.dropRoot; (repeat' split) <;> simp
@[simp] theorem State.refillDeck_contexts (cluster : Nat) : (s.refillDeck cluster).contexts = s.contexts :=
  foldl_contexts (fun s x => by (repeat' split) <;> simp) _ s
@[simp] theorem State.refillDecks_contexts : s.refillDecks.contexts = s.contexts :=
  foldl_contexts (fun s (p : Nat × Cluster) => State.refillDeck_contexts s p.1) _ s

@[simp] theorem State.unhaltTeam_contexts (id : Nat) : (s.unhaltTeam id).contexts = s.contexts := by
  unfold State.unhaltTeam; (repeat' split) <;> simp
@[simp] theorem State.cellConsumed_contexts (team : Nat) (enter : Option Nat) : (s.cellConsumed team enter).contexts = s.contexts := by
  simp [State.cellConsumed]
@[simp] theorem State.leaveQueues_contexts (gang : Nat) (ms : List Nat) : (s.leaveQueues gang ms).contexts = s.contexts :=
  (butGangs_leaveQueues s gang ms).contexts
@[simp] theorem State.wantPhaseCheckpoint_contexts (gang crew : Nat) : (s.wantPhaseCheckpoint gang crew).contexts = s.contexts := by
  unfold State.wantPhaseCheckpoint; (repeat' split) <;> simp
@[simp] theorem State.phaseAcquire_contexts (gang crew : Nat) (job : Bool) : (s.phaseAcquire gang crew job).contexts = s.contexts := by
  unfold State.phaseAcquire; (repeat' split) <;> simp
@[simp] theorem State.checkBarrier_contexts (gang crew k : Nat) (job : Bool) : (s.checkBarrier gang crew k job).contexts = s.contexts := by
  unfold State.checkBarrier; dsimp only; (repeat' split) <;> simp
@[simp] theorem State.barrierLeave_contexts (gang crew : Nat) : (s.barrierLeave gang crew).contexts = s.contexts :=
  foldl_contexts (fun s k => by simp [State.barrierOp]) _ s
@[simp] theorem State.retireGang_contexts (gang : Nat) : (s.retireGang gang).contexts = s.contexts := by
  unfold State.retireGang; dsimp only; (repeat' split) <;> rfl

end

/-! Operations that change contexts: each context stays one. -/
section
variable (s : State) (c : Nat)

@[simp] theorem State.updContext_hasContext (ctx : Nat) (f : Context → Context) : (s.updContext ctx f).hasContext c = s.hasContext c := by
  unfold State.updContext
  split
  · exact isSome_find_insert _ ‹_› c
  · rfl
@[simp] theorem State.setReg_hasContext (ctx off : Nat) (v : DWord) : (s.setReg ctx off v).hasContext c = s.hasContext c :=
  State.updContext_hasContext s c ctx _
@[simp] theorem State.bumpReg_hasContext (ctx off lo n : Nat) : (s.bumpReg ctx off lo n).hasContext c = s.hasContext c := by
  unfold State.bumpReg; dsimp only; split <;> simp
@[simp] theorem State.secCount_hasContext (ctx lo : Nat) : (s.secCount ctx lo).hasContext c = s.hasContext c :=
  State.bumpReg_hasContext s c ctx 0x30 lo 16
@[simp] theorem State.raise_hasContext (ctx kind : Nat) (args : List DWord) : (s.raise ctx kind args).hasContext c = s.hasContext c := by
  unfold State.raise
  split
  · rfl
  · exact isSome_find_insert _ ‹_› c
@[simp] theorem State.pulse_hasContext (lines : DWord) : (s.pulse lines).hasContext c = s.hasContext c :=
  hasContext_of_still (pulse_kept s lines).contexts c
@[simp] theorem State.trigger_hasContext (ctx src arg : Nat) : (s.trigger ctx src arg).hasContext c = s.hasContext c :=
  State.pulse_hasContext s c _
@[simp] theorem State.storeBytes_hasContext (ctx va pa : Nat) (bs : List Byte) : (s.storeBytes ctx va pa bs).hasContext c = s.hasContext c :=
  hasContext_of_still (storeBytes_kept s ctx va pa bs).contexts c
@[simp] theorem State.admitSets_hasContext : s.admitSets.hasContext c = s.hasContext c := by
  show (SMap.find (s.contexts.map _) c).isSome = _
  refine isSome_find_map _ _ ?_ c
  exact fun _ => rfl

/-! Writes to the register window (R497). -/
@[simp] theorem State.setMxaInj_hasContext (ctx cluster : Nat) (v : DWord) : (s.setMxaInj ctx cluster v).hasContext c = s.hasContext c := by
  unfold State.setMxaInj; dsimp only; (repeat' split) <;> simp
@[simp] theorem State.writePackage_hasContext (who : Agent) (ctx off : Nat) (v : DWord) :
    (s.writePackage who ctx off v).hasContext c = s.hasContext c := by
  unfold State.writePackage
  dsimp only
  by_cases low : off < 0x800
  · rw [if_pos low]
    clear low
    (repeat' split) <;> simp [State.setRasInj]
  · rw [if_neg low]
    (repeat' split) <;> simp [State.dbgWpWrite, State.dbgPulseWrite]
@[simp] theorem State.writeCluster_hasContext (who : Agent) (ctx cluster off : Nat) (v : DWord) :
    (s.writeCluster who ctx cluster off v).hasContext c = s.hasContext c := by
  unfold State.writeCluster; dsimp only; (repeat' split) <;> simp [State.apErr]
@[simp] theorem State.regWrite_hasContext (who : Agent) (ctx off n : Nat) (v : DWord) : (s.regWrite who ctx off n v).hasContext c = s.hasContext c := by
  unfold State.regWrite; dsimp only; (repeat' split) <;> simp [State.apErr]

/-! Accesses on their way, and the stores that crews hold. -/
@[simp] theorem State.performStore_hasContext (o : Op) (units : List Nat) (pa : Nat) (bs : List Byte) (past : Bool) :
    (s.performStore o units pa bs past).hasContext c = s.hasContext c := by
  unfold State.performStore; split <;> simp
@[simp] theorem State.performRmw_hasContext (o : Op) (pa : Nat) (w : Bool) (op : RmwOp) (y : Nat) :
    (s.performRmw o pa w op y).hasContext c = s.hasContext c := by
  unfold State.performRmw; dsimp only; split <;> simp
@[simp] theorem State.performOp_hasContext (o : Op) : (s.performOp o).hasContext c = s.hasContext c := by
  unfold State.performOp; dsimp only; (repeat' split) <;> simp [State.takeOp]
@[simp] theorem State.performAllOf_hasContext (mine : Op → Bool) : (s.performAllOf mine).hasContext c = s.hasContext c := by
  unfold State.performAllOf
  exact (foldl_hasContext (fun s o => State.performOp_hasContext s c o) _ _).trans (foldl_hasContext (fun s o => State.performOp_hasContext s c o) _ s)
@[simp] theorem State.settleSeen_hasContext (cluster : Nat) : (s.settleSeen cluster).hasContext c = s.hasContext c :=
  foldl_hasContext (fun s o => by split <;> simp [State.takeOp]) _ s
@[simp] theorem State.drainHeld_hasContext (gang k : Nat) : (s.drainHeld gang k).hasContext c = s.hasContext c := by
  unfold State.drainHeld
  split
  · rfl
  · split
    · rfl
    · rw [State.hasContext, State.updCrew_contexts]
      exact (foldl_hasContext (fun s h => by simp) _ _).trans (State.settleSeen_hasContext s c _)
@[simp] theorem State.applyStores_hasContext (ctx : Nat) : (s.applyStores ctx).hasContext c = s.hasContext c := by
  unfold State.applyStores
  exact (foldl_hasContext (fun s (p : Nat × Gang) => foldl_hasContext (fun s k => State.drainHeld_hasContext s c p.1 k) _ s) _ _).trans
    (State.performAllOf_hasContext s c _)

/-! The comparison of cells, and what leaves a section. -/
@[simp] theorem State.failEnter_hasContext (k team serial cause : Nat) (lane : EnterLane) (cell : Cell) :
    (s.failEnter k team serial cause lane cell).1.hasContext c = s.hasContext c := by
  unfold State.failEnter; dsimp only; (repeat' split) <;> simp
@[simp] theorem State.enterCell_hasContext (k i : Nat) (w : Waiter) : (s.enterCell k i w).1.hasContext c = s.hasContext c := by
  unfold State.enterCell; dsimp only; (repeat' split) <;> simp
theorem settleOne_hasContext {s : State} {k i : Nat} {r : State × List Nat} (h : s.settleOne k i = some r) : r.1.hasContext c = s.hasContext c := by
  unfold State.settleOne at h
  split at h
  · cases h
  dsimp only at h
  split at h
  · cases h
  split at h
  · obtain ⟨w, _, rfl⟩ := Option.map_eq_some_iff.1 h
    exact State.failEnter_hasContext s c _ _ _ _ _ _
  split at h
  · split at h <;> cases h <;> simp
  split at h
  · cases h
  obtain ⟨w, _, rfl⟩ := Option.map_eq_some_iff.1 h
  split <;> simp
theorem settleCells_hasContext (n k : Nat) : ∀ (is : List Nat) (s : State), (State.settleCells n k is s).hasContext c = s.hasContext c := by
  induction n with
  | zero => exact fun _ _ => rfl
  | succ n ih =>
    intro is s
    cases is with
    | nil => rfl
    | cons i is =>
      unfold State.settleCells
      split
      · exact (ih _ _).trans (settleOne_hasContext c ‹_›)
      · exact ih _ _
@[simp] theorem State.compare_hasContext (k : Nat) (cells : List Nat) : (s.compare k cells).hasContext c = s.hasContext c :=
  settleCells_hasContext c _ k cells s
@[simp] theorem State.oleaveArrives_hasContext (ctx : Nat) (ident key : DWord) : (s.oleaveArrives ctx ident key).hasContext c = s.hasContext c := by
  unfold State.oleaveArrives; dsimp only; (repeat' split) <;> simp
@[simp] theorem State.oskipArrives_hasContext (ctx : Nat) (key : DWord) (sq : Word) : (s.oskipArrives ctx key sq).hasContext c = s.hasContext c := by
  unfold State.oskipArrives
  split
  · simp
  split
  · simp
  · simp
  extract_lets
  (repeat' split) <;> simp
@[simp] theorem State.flushSections_hasContext (team : Nat) : (s.flushSections team).hasContext c = s.hasContext c :=
  foldl_hasContext (fun s d => by split <;> simp) _ { s with agenda := s.agenda.filter fun d => !isSectStream team d.stream }
@[simp] theorem State.sectionBreak_hasContext (ctx : Nat) (ident : DWord) : (s.sectionBreak ctx ident).hasContext c = s.hasContext c := by
  unfold State.sectionBreak
  split
  · rfl
  split
  · rfl
  · exact (State.compare_hasContext _ c _ _).trans (foldl_hasContext (fun s _ => State.secCount_hasContext s c _ _) _ _)

/-! The end of a team, of a job and of a context's work (R222, R317, R450). -/
@[simp] theorem State.completeFuture_hasContext (ctx cls slot : Nat) (status : Word) :
    (s.completeFuture ctx cls slot status).hasContext c = s.hasContext c := by
  unfold State.completeFuture; dsimp only; split <;> simp
@[simp] theorem State.dropTeam_hasContext (id : Nat) (status : Word) : (s.dropTeam id status).hasContext c = s.hasContext c := by
  have futures (ctx : Nat) (slots : List Nat) (s : State) :
      (slots.foldl (fun (s : State) slot => s.completeFuture ctx 2 slot status) s).hasContext c = s.hasContext c :=
    foldl_hasContext (fun s slot => State.completeFuture_hasContext s c ctx 2 slot status) _ s
  unfold State.dropTeam; dsimp only; (repeat' split) <;> simp [State.dropWaiters, State.dropFaulted, futures]
theorem writeStamp_hasContext {s s' : State} {cluster : Nat} {card : Card} (h : s.writeStamp cluster card = .ok s') : s'.hasContext c = s.hasContext c := by
  unfold State.writeStamp at h
  dsimp only at h
  split at h
  · cases h; rfl
  · split at h <;> cases h
    simp
@[simp] theorem State.finishCard_hasContext (cluster : Nat) (card : Card) : (s.finishCard cluster card).hasContext c = s.hasContext c := by
  unfold State.finishCard; dsimp only; (repeat' split) <;> simp
@[simp] theorem State.stopJob_hasContext (cluster : Nat) (card : Card) : (s.stopJob cluster card).hasContext c = s.hasContext c := by
  unfold State.stopJob
  dsimp only
  split
  · simpa using writeStamp_hasContext c ‹_›
  · simp
@[simp] theorem State.stopEngines_hasContext (ctx : Nat) : (s.stopEngines ctx).hasContext c = s.hasContext c :=
  foldl_hasContext (fun s p => by simpa using foldl_hasContext (fun s card => State.stopJob_hasContext s c p.1 card) _ s) _
    { s with tagHeld := s.tagHeld.filter fun x => x.2.ctx != ctx }
@[simp] theorem State.rasRecord_hasContext (ctx kind store : Nat) (pc : Word) (addr : DWord) :
    (s.rasRecord ctx kind store pc addr).hasContext c = s.hasContext c := by
  unfold State.rasRecord; dsimp only; split <;> simp

end

end Sys2Proof.Machine
end

section
/-! SUPPORT of O45: what closing a fault record, and writing those that waited for its index, leaves of the teams, the contexts and the open
records (R297, R298). -/

namespace Sys2Proof.Machine

/-- The teams are as they were, the contexts that are in use stay in use, and a record that is not open stays so. -/
structure RecordsKept (s s' : State) : Prop where
  teams : s'.teams = s.teams
  live : ∀ ctx, (s'.context? ctx).isSome = (s.context? ctx).isSome
  closed : ∀ ctx sn, s.fault? ctx sn = none → s'.fault? ctx sn = none

theorem RecordsKept.refl (s : State) : RecordsKept s s := ⟨rfl, fun _ => rfl, fun _ _ => id⟩
theorem RecordsKept.trans {a b c : State} (h : RecordsKept a b) (k : RecordsKept b c) : RecordsKept a c :=
  ⟨k.teams.trans h.teams, fun ctx => (k.live ctx).trans (h.live ctx), fun ctx sn hn => k.closed ctx sn (h.closed ctx sn hn)⟩

/-- Whether a context is configured and has not been terminated. -/
def Context.inUse (c : Context) : Bool := c.configured && !c.terminated
theorem isSome_context? (s : State) (ctx : Nat) : (s.context? ctx).isSome = (s.contexts.find ctx).any Context.inUse := by
  unfold State.context? Context.inUse
  split
  · split <;> simp_all
  · simp_all
theorem hasContext_of_live {s : State} {ctx : Nat} (h : (s.context? ctx).isSome = true) : s.hasContext ctx = true := by
  rw [isSome_context?] at h
  cases hfind : s.contexts.find ctx with
  | none => rw [hfind] at h; cases h
  | some c => rw [State.hasContext, hfind]; rfl
theorem fault?_congr {s s' : State} (h : s'.faults = s.faults) (ctx sn : Nat) : s'.fault? ctx sn = s.fault? ctx sn := by
  unfold State.fault?; rw [h]
theorem fault?_none {s : State} {ctx sn : Nat} : s.fault? ctx sn = none ↔ ∀ f ∈ s.faults, ¬ (f.ctx = ctx ∧ f.sn = sn) := by
  simp [State.fault?, List.find?_eq_none]

theorem faults_of_still {s s' : State} (h : s'.still = s.still) : s'.faults = s.faults :=
  (congrArg State.faults h : s'.still.faults = s.still.faults)
theorem recordsKept_devWrite (s : State) (ctx va : Nat) (bs : List Byte) : RecordsKept s (s.devWrite ctx va bs) := by
  have hkept := devWrite_kept s ctx va bs
  refine ⟨hkept.teams, fun c => ?_, fun c sn hn => (fault?_congr (faults_of_still hkept.rest) c sn).trans hn⟩
  have huse (x : Option Context) : x.any Context.inUse = (x.map Context.still).any Context.inUse := by cases x <;> rfl
  rw [isSome_context?, isSome_context?, huse, hkept.contexts, ← huse]
theorem recordsKept_raise (s : State) (ctx kind : Nat) (args : List DWord) : RecordsKept s (s.raise ctx kind args) := by
  cases hc : s.contexts.find ctx with
  | none =>
    have hsame : s.raise ctx kind args = s := by unfold State.raise; rw [hc]
    rw [hsame]
    exact .refl s
  | some c =>
    rw [raise_eq hc]
    refine ⟨rfl, fun k => ?_, fun _ _ => id⟩
    rw [isSome_context?, isSome_context?]
    by_cases hk : k = ctx
    · rw [hk, hc, SMap.find_insert_same]; rfl
    · rw [SMap.find_insert_ne _ _ hk]
/-- A note on the records that changes none's context and number. -/
theorem recordsKept_notes (s : State) (note : FaultRec → FaultRec) (h : ∀ f, (note f).ctx = f.ctx ∧ (note f).sn = f.sn) :
    RecordsKept s { s with faults := s.faults.map note } := by
  refine ⟨rfl, fun _ => rfl, fun ctx sn hn => fault?_none.2 ?_⟩
  intro g hg
  obtain ⟨f, hf, rfl⟩ := List.mem_map.1 hg
  obtain ⟨hctx, hsn⟩ := h f
  rw [hctx, hsn]
  exact fault?_none.1 hn f hf
theorem recordsKept_flushFaults (fs : List FaultRec) : ∀ s : State, RecordsKept s (s.flushFaults fs) := by
  induction fs with
  | nil => exact .refl
  | cons f fs ih =>
    intro s
    unfold State.flushFaults
    refine RecordsKept.trans ?_ (ih _)
    split
    · exact .refl s
    split
    · exact .refl s
    split
    · exact .refl s
    extract_lets slot old s1 note s2
    refine RecordsKept.trans (b := s2) ((recordsKept_devWrite s _ _ _).trans (recordsKept_notes s1 note fun g => ?_)) (recordsKept_raise s2 _ _ _)
    unfold note
    split
    · exact ⟨rfl, rfl⟩
    split
    · exact ⟨rfl, rfl⟩
    split <;> exact ⟨rfl, rfl⟩

section
variable (s : State) (ctx seq : Nat)

/-- The state without the record that is closed, before those that waited for its index are written. -/
def State.withoutFault : State := { s with faults := s.faults.filter fun f => !(f.ctx == ctx && f.sn == seq) }
theorem recordsKept_closeFault : RecordsKept (s.withoutFault ctx seq) (s.closeFault ctx seq) := recordsKept_flushFaults _ _
theorem closeFault_teams : (s.closeFault ctx seq).teams = s.teams := (recordsKept_closeFault s ctx seq).teams
theorem closeFault_live : ((s.closeFault ctx seq).context? ctx).isSome = (s.context? ctx).isSome := (recordsKept_closeFault s ctx seq).live ctx
theorem closeFault_closed : (s.closeFault ctx seq).fault? ctx seq = none := by
  refine (recordsKept_closeFault s ctx seq).closed ctx seq (fault?_none.2 fun f hf => ?_)
  have hkept := (List.mem_filter.1 hf).2
  rintro ⟨hctx, hsn⟩
  simp [hctx, hsn] at hkept

end

end Sys2Proof.Machine
end

section
/-! SUPPORT of O45: a team whose record is answered with a retry (R298, R469). -/

namespace Sys2Proof.Machine

/-- A team goes on as its record's answer has it: at the slot where it stands, with its registers and its pending results; the other teams and the
open records are as they were. -/
structure GoesOn (s s' : State) (id : Nat) (t t' : Team) : Prop where
  here : s'.teams.find id = some t'
  others : ∀ k, k ≠ id → s'.teams.find k = s.teams.find k
  faults : s'.faults = s.faults
  regs : RegsAfter t t' newNothing
  pc : t'.pc = t.pc
  ex : t'.ex = t.ex
  pends : t'.pends = t.pends

section
variable {s : State} {id : Nat} {t u : Team}

theorem GoesOn.refl (h : s.teams.find id = some t) : GoesOn s s id t t := ⟨h, fun _ _ => rfl, rfl, .refl t, rfl, rfl, rfl⟩
theorem GoesOn.trans {a b c : State} {w : Team} (h : GoesOn a b id t u) (k : GoesOn b c id u w) : GoesOn a c id t w :=
  ⟨k.here, fun j hj => (k.others j hj).trans (h.others j hj), k.faults.trans h.faults,
    fun f n l hl => (k.regs f n l hl).trans (h.regs f n l hl), k.pc.trans h.pc, k.ex.trans h.ex, k.pends.trans h.pends⟩
theorem goesOn_setTeam (s : State) (id : Nat) (hv : u.v = t.v) (hs : u.s = t.s) (hp : u.p = t.p) (hpc : u.pc = t.pc) (hex : u.ex = t.ex)
    (hpends : u.pends = t.pends) : GoesOn s (s.setTeam id u) id t u :=
  ⟨State.setTeam_find _ _ _, fun _ hk => State.setTeam_find_ne s u hk, rfl, regsAfter_of_files hv hs hp, hpc, hex, hpends⟩
theorem GoesOn.of_ends {a b : State} (e : Ends True a b id t u) : GoesOn a b id t u := by
  obtain ⟨hex, hpc, -, -⟩ := e.path trivial
  exact ⟨e.here, e.others, faults_of_still e.rest, regsAfter_of_files e.vr e.sr e.pr, hpc, hex, e.pends⟩
theorem updGang_faults (s : State) (gang : Nat) (f : Gang → Gang) : (s.updGang gang f).faults = s.faults := by
  unfold State.updGang; split <;> rfl
/-- What changes a gang afterwards leaves the team. -/
theorem GoesOn.updGang {a b : State} (h : GoesOn a b id t u) (gang : Nat) (f : Gang → Gang) : GoesOn a (b.updGang gang f) id t u := by
  refine ⟨?_, fun k hk => ?_, ?_, h.regs, h.pc, h.ex, h.pends⟩
  · rw [State.updGang_teams]; exact h.here
  · rw [State.updGang_teams]; exact h.others k hk
  · rw [updGang_faults]; exact h.faults

theorem goesOn_unhaltTeam (h : s.teams.find id = some t) (h0 : t.halt ≠ 0) : GoesOn s (s.unhaltTeam id) id t (t.unhalt s.clk) := by
  have hu : t.unhalt s.clk = { t with halt := 0, haltClk := t.haltClk + (s.clk - t.haltFrom) } := if_neg h0
  unfold State.unhaltTeam
  simp only [h, if_neg h0]
  refine GoesOn.updGang ?_ _ _
  rw [hu]
  exact goesOn_setTeam s id rfl rfl rfl rfl rfl rfl
/-- The halt that the debugger has asked for comes, if it has (R469, log entry 87). -/
theorem goesOn_haltAsked (h : s.teams.find id = some t) : ∃ t', GoesOn s (s.haltAsked id) id t t' ∧
    t'.halt = (if t.haltWanted then 1 else t.halt) ∧ t'.faultSeq = t.faultSeq := by
  unfold State.haltAsked
  simp only [h]
  split
  · have hset := goesOn_setTeam (t := t) (u := { t with haltWanted := false }) s id rfl rfl rfl rfl rfl rfl
    obtain ⟨t', e⟩ := haltWith_ends True hset.here 1 0 0 0xFF 0 0
    obtain ⟨t2, h2, hreason⟩ := haltWith_find hset.here 1 0 0 0xFF 0 0
    obtain rfl : t' = t2 := Option.some.inj (e.here.symm.trans h2)
    have hseq : t'.faultSeq = t.faultSeq := (congrArg Team.faultSeq e.still : t'.still.faultSeq = _)
    exact ⟨t', hset.trans (.of_ends e), hreason, hseq⟩
  · exact ⟨t, .refl h, rfl, rfl⟩

/-- A team after a retry: it waits for no record, and its copies that met the fault are on their way again (R298). -/
def Team.retried (t : Team) : Team := { t with
  faultSeq := none, copies := t.copies.map fun c => match c.fate with | .faulted => { c with fate := .flying } | _ => c }
theorem reissue_team {f : FaultRec} (hf : f.agent = .team id) : s.reissue f = ((s.unhaltTeam id).updTeam id Team.retried).haltAsked id := by
  unfold State.reissue
  rw [hf]
  rfl
theorem goesOn_reissue {f : FaultRec} (hf : f.agent = .team id) (h : s.teams.find id = some t) (h0 : t.halt ≠ 0) :
    ∃ t', GoesOn s (s.reissue f) id t t' ∧ t'.halt = (if t.haltWanted then 1 else 0) ∧ t'.faultSeq = none := by
  have hu : t.unhalt s.clk = { t with halt := 0, haltClk := t.haltClk + (s.clk - t.haltFrom) } := if_neg h0
  have hrun := goesOn_unhaltTeam h h0
  have hretry : (s.unhaltTeam id).updTeam id Team.retried = (s.unhaltTeam id).setTeam id (t.unhalt s.clk).retried := by
    unfold State.updTeam; rw [hrun.here]
  have hset := goesOn_setTeam (t := t.unhalt s.clk) (u := (t.unhalt s.clk).retried) (s.unhaltTeam id) id rfl rfl rfl rfl rfl rfl
  rw [reissue_team hf, hretry]
  obtain ⟨t', hasked, hhalt, hseq⟩ := goesOn_haltAsked hset.here
  refine ⟨t', (hrun.trans hset).trans hasked, ?_, hseq⟩
  rw [hhalt, hu]
  rfl

end

theorem execFaultRetry_answered {s : State} {ctx seq : Nat} {f : FaultRec} (hf : s.fault? ctx seq = some f) (ha : s.answer f = some 1) :
    exec (.faultRetry ctx seq) s = .next ((s.closeFault ctx seq).reissue f) := by
  show execFaultRetry ctx seq s = _
  unfold execFaultRetry
  simp only [hf, if_pos ha]
theorem execFaultReject_answered {s : State} {ctx seq r : Nat} {f : FaultRec} (hf : s.fault? ctx seq = some f) (ha : s.answer f = some r)
    (hr : r ≠ 1) : exec (.faultReject ctx seq) s = .next ((s.closeFault ctx seq).terminate ctx 7 0 0 f.va) := by
  show execFaultReject ctx seq s = _
  unfold execFaultReject
  simp only [hf, ha, if_neg hr]

end Sys2Proof.Machine
end

section
/-! SUPPORT of O45: the termination of a context (R450). -/

namespace Sys2Proof.Machine

/-- The state of a context's termination in which its work has stopped, before its records go (R450). -/
def State.workStopped (s : State) (ctx : Nat) : State :=
  let s := s.applyStores ctx
  let s := s.teams.foldl (fun (s : State) (p : Nat × Team) => if p.2.ctx = ctx then s.dropTeam p.1 2 else s) s
  let s := { s with
    grids := s.grids.filter fun (p : Nat × Grid) => p.2.ctx != ctx
    agenda := s.agenda.filter fun d => match d.ev with | .pageWalk _ c _ => c != ctx | _ => true }
  ((s.stopEngines ctx).refillDecks).endService ctx
@[simp] theorem State.workStopped_hasContext (s : State) (ctx c : Nat) : (s.workStopped ctx).hasContext c = s.hasContext c := by
  have teams (xs : List (Nat × Team)) (s : State) :
      (xs.foldl (fun (s : State) (p : Nat × Team) => if p.2.ctx = ctx then s.dropTeam p.1 2 else s) s).hasContext c = s.hasContext c :=
    foldl_hasContext (fun s p => by
      split
      · exact State.dropTeam_hasContext s c _ _
      · rfl) xs s
  unfold State.workStopped
  dsimp only
  rw [State.hasContext, State.endService_contexts, State.refillDecks_contexts]
  exact (State.stopEngines_hasContext _ c ctx).trans ((teams _ _).trans (State.applyStores_hasContext s c ctx))

theorem rasRecord_faults (s : State) (ctx kind store : Nat) (pc : Word) (addr : DWord) : (s.rasRecord ctx kind store pc addr).faults = s.faults := by
  refine faults_of_still (?_ : _ = s.still)
  unfold State.rasRecord
  dsimp only
  split
  · exact (still_setReg _ _ _ _).trans (trigger_kept s ctx 4 0).rest
  · exact ((still_setReg _ _ _ _).trans (still_setReg _ _ _ _)).trans (trigger_kept s ctx 4 0).rest
theorem raise_faults (s : State) (ctx kind : Nat) (args : List DWord) : (s.raise ctx kind args).faults = s.faults := by
  unfold State.raise; split <;> rfl
theorem updContext_faults (s : State) (ctx : Nat) (f : Context → Context) : (s.updContext ctx f).faults = s.faults :=
  faults_of_still (still_updContext s ctx f)

/-- A terminated context stays, as terminated, and none of its records is open (R450). -/
theorem terminate_spec {s : State} {ctx : Nat} (hc : (s.context? ctx).isSome = true) (kind store : Nat) (pc : Word) (addr : DWord) :
    ∃ c, (s.terminate ctx kind store pc addr).contexts.find ctx = some c ∧ c.terminated = true ∧
      ∀ f ∈ (s.terminate ctx kind store pc addr).faults, f.ctx ≠ ctx := by
  obtain ⟨c0, h0⟩ := Option.isSome_iff_exists.1 hc
  have hdef : s.terminate ctx kind store pc addr =
      (((State.raise { s.workStopped ctx with faults := (s.workStopped ctx).faults.filter fun f => f.ctx != ctx } ctx 3
        [BitVec.ofNat 64 kind, BitVec.ofNat 64 store, addr]).rasRecord ctx kind store pc addr).updContext ctx
        fun c => { c with terminated := true, haltRecs := [], service := none }) := by
    unfold State.terminate
    rw [h0]
    rfl
  rw [hdef]
  generalize hrec : State.rasRecord _ _ _ _ _ _ = s2
  have hhas2 : s2.hasContext ctx = true := by
    rw [← hrec, State.rasRecord_hasContext, State.raise_hasContext]
    exact (State.workStopped_hasContext s ctx ctx).trans (hasContext_of_live hc)
  obtain ⟨c, hfind⟩ := Option.isSome_iff_exists.1 hhas2
  refine ⟨_, updContext_find hfind _, rfl, fun f hf => ?_⟩
  rw [updContext_faults, ← hrec, rasRecord_faults, raise_faults] at hf
  simpa using (List.mem_filter.1 hf).2

end Sys2Proof.Machine
end

section
/-! PROOF of O45. -/

namespace Sys2Proof
open Machine

/-- Settles O45: a walk's answer goes into the filters of all that asked, or stays for them as a fault; the answer to a record reissues its team's
access, or terminates the context. -/
theorem walksAndAnswers : Obligations.WalksAndAnswers := by
  unfold Obligations.WalksAndAnswers
  refine ⟨?page, ?fault, ?retry, ?reject⟩
  case page =>
    intro unit ctx va s x vb size pb r w cls dom hc hwalk
    obtain ⟨hcovers, hnew⟩ := fillUnits_asked (s := s.asked ctx va) (us := s.joined unit ctx va) (x := ⟨unit, ctx, vb, size, pb, r, w, cls, dom⟩)
      (answerWalk_size_pos hwalk) (controllerFor ctx va) (joined_unit s unit ctx va)
    exact ⟨_, execPageWalk_page hc hwalk, hcovers, hnew, walking_asked (fillUnits_agenda _ _ _) unit, (fillUnits_kept _ _ _).teams,
      fillUnits_mem _ _ _⟩
  case fault =>
    intro unit ctx va s x k l e hc hwalk
    exact ⟨_, execPageWalk_fault hc hwalk, List.mem_append_left _ (List.mem_cons_self), rfl, rfl, rfl⟩
  case retry =>
    intro ctx seq s f id t hf ha hagent ht hhalt
    have hteams := closeFault_teams s ctx seq
    obtain ⟨t', hgoes, hhalt', hseq⟩ := goesOn_reissue hagent (hteams ▸ ht) (by rw [hhalt]; decide)
    refine ⟨_, t', execFaultRetry_answered hf ha, hgoes.here, hhalt', hseq, hgoes.pc, hgoes.ex, hgoes.regs, hgoes.pends, ?_, fun k hk => ?_⟩
    · exact (fault?_congr hgoes.faults ctx seq).trans (closeFault_closed s ctx seq)
    · exact (hgoes.others k hk).trans (by rw [hteams])
  case reject =>
    intro ctx seq s f r c hf ha hr hc
    have hlive : ((s.closeFault ctx seq).context? ctx).isSome = true := by rw [closeFault_live, hc]; rfl
    obtain ⟨c', hfind, hended, hnone⟩ := terminate_spec hlive 7 0 0 f.va
    exact ⟨_, c', execFaultReject_answered hf ha hr, hfind, hended, hnone⟩

end Sys2Proof
end

section
/-! SUPPORT of O43 and O44: the cards of the clusters when one is changed, or fails (R304, R317). -/

namespace Sys2Proof.Machine

/-- The first card with a serial number, among cards of which those with a number are changed. -/
theorem find_changed {f : Card → Card} (hf : ∀ c, (f c).serial = c.serial) (m j : Nat) (cs : List Card) :
    (cs.map fun c => if c.serial = m then f c else c).find? (·.serial == j) =
      (cs.find? (·.serial == j)).map fun c => if j = m then f c else c := by
  induction cs with
  | nil => rfl
  | cons c cs ih =>
    have hserial : (if c.serial = m then f c else c).serial = c.serial := by split <;> simp [hf]
    rw [List.map_cons, List.find?_cons, List.find?_cons, hserial]
    by_cases hj : c.serial = j
    · simp [hj]
    · rw [beq_false_of_ne hj]
      exact ih

theorem card?_eq (s : State) (n m : Nat) : s.card? n m = (s.clusterAt n).cards.find? (·.serial == m) := by
  unfold State.card? State.clusterAt
  cases s.clusters.find n <;> rfl
theorem card?_congr {s s' : State} (h : s'.clusters = s.clusters) (n m : Nat) : s'.card? n m = s.card? n m := by
  unfold State.card?
  rw [h]
theorem card?_serial {s : State} {n m : Nat} {c : Card} (h : s.card? n m = some c) : c.serial = m := by
  rw [card?_eq] at h
  simpa using List.find?_some h
/-- The cards of a state in which a cluster is changed. -/
theorem card?_updCluster (s : State) (n : Nat) (f : Cluster → Cluster) (m : Nat) :
    (s.updCluster n f).card? n m = (f (s.clusterAt n)).cards.find? (·.serial == m) := by
  unfold State.card?
  rw [updCluster_find]
  rfl
/-- The cards of a state in which a card is changed. -/
theorem card?_updCard {f : Card → Card} (hf : ∀ c, (f c).serial = c.serial) (s : State) (n m i j : Nat) :
    (s.updCard n m f).card? i j = (s.card? i j).map fun c => if i = n ∧ j = m then f c else c := by
  by_cases hi : i = n
  · subst hi
    unfold State.updCard
    rw [card?_updCluster, card?_eq]
    simpa using find_changed hf m j (s.clusterAt i).cards
  · have hother : (s.updCard n m f).clusters.find i = s.clusters.find i := SMap.find_insert_ne _ _ hi
    unfold State.card?
    rw [hother]
    simp [hi]
theorem card?_updCard_same {f : Card → Card} (hf : ∀ c, (f c).serial = c.serial) {s : State} {n m : Nat} {c : Card} (h : s.card? n m = some c) :
    (s.updCard n m f).card? n m = some (f c) := by
  rw [card?_updCard hf, h]
  simp

/-- A card of a job that has failed with a cause and an address (R304). -/
def Card.failed (c : Card) (cause addr : Nat) : Card := { c with fail := some cause, failAddr := BitVec.ofNat 64 addr }

theorem updCard_collectives (s : State) (n m : Nat) (f : Card → Card) : (s.updCard n m f).collectives = s.collectives := rfl
theorem yardFault_still (s : State) (n : Nat) (c : Card) (cause : Nat) (addr : DWord) : (s.yardFault n c cause addr).still = s.still := by
  unfold State.yardFault
  dsimp only
  split
  · exact still_setReg _ _ _ _
  · exact (still_setReg _ _ _ _).trans (still_setReg _ _ _ _)
theorem yardFault_clusters (s : State) (n : Nat) (c : Card) (cause : Nat) (addr : DWord) : (s.yardFault n c cause addr).clusters = s.clusters :=
  (congrArg State.clusters (yardFault_still s n c cause addr) : (s.yardFault n c cause addr).still.clusters = s.still.clusters)
theorem yardFault_collectives (s : State) (n : Nat) (c : Card) (cause : Nat) (addr : DWord) :
    (s.yardFault n c cause addr).collectives = s.collectives :=
  (congrArg State.collectives (yardFault_still s n c cause addr) : (s.yardFault n c cause addr).still.collectives = s.still.collectives)
theorem failCard_collectives (s : State) (n m cause addr : Nat) : (s.failCard n m cause addr).collectives = s.collectives := by
  unfold State.failCard
  split
  · rfl
  · split
    · rfl
    · exact yardFault_collectives _ _ _ _ _

end Sys2Proof.Machine
end

section
/-! SUPPORT of O44: work on the jobs of a collective, one after the other (R316, R499). -/

namespace Sys2Proof.Machine

/-- A step that gives the card `m` of cluster `n` a property and takes it from no card; every card that was there is still there. -/
def Marks (P : Card → Prop) (s s' : State) (n m : Nat) : Prop :=
  ∀ i j c, s.card? i j = some c → ∃ c', s'.card? i j = some c' ∧ (P c ∨ (i = n ∧ j = m) → P c')

theorem marks_updCard {P : Card → Prop} {f : Card → Card} (hf : ∀ c, (f c).serial = c.serial) (hP : ∀ c, P (f c)) (s : State) (n m : Nat) :
    Marks P s (s.updCard n m f) n m := by
  intro i j c h
  rw [card?_updCard hf, h]
  refine ⟨_, rfl, fun hc => ?_⟩
  split
  next => exact hP c
  next hn => exact hc.resolve_right hn
theorem marks_failCard (s : State) (n m cause addr : Nat) : Marks (·.fail.isSome = true) s (s.failCard n m cause addr) n m := by
  unfold State.failCard
  split
  next hnone =>
    intro i j c h
    exact ⟨c, h, fun hc => hc.resolve_right fun ⟨hi, hj⟩ => by rw [hi, hj, hnone] at h; cases h⟩
  next d hd =>
    split
    next hfail =>
      intro i j c h
      refine ⟨c, h, fun hc => hc.elim id fun ⟨hi, hj⟩ => ?_⟩
      rw [hi, hj, hd] at h
      cases h
      exact hfail
    next =>
      intro i j c h
      rw [card?_congr (yardFault_clusters _ _ _ _ _)]
      exact marks_updCard (P := fun c => c.fail.isSome = true) (f := (·.failed cause addr)) (fun _ => rfl) (fun _ => rfl) s n m i j c h

/-- Of jobs that are worked on one after the other, each card has the property in the end. -/
theorem foldl_marks {P : Card → Prop} {f : State → Nat × Nat × Nat → State} (hf : ∀ s j, Marks P s (f s j) j.1 j.2.1)
    (js : List (Nat × Nat × Nat)) : ∀ (s : State) (i m : Nat) (c : Card), s.card? i m = some c →
      ∃ c', (js.foldl f s).card? i m = some c' ∧ (P c ∨ (∃ j ∈ js, i = j.1 ∧ m = j.2.1) → P c') := by
  induction js with
  | nil => exact fun s i m c h => ⟨c, h, fun hc => hc.elim id fun ⟨_, hj, _⟩ => by cases hj⟩
  | cons j js ih =>
    intro s i m c h
    obtain ⟨c1, h1, hstep⟩ := hf s j i m c h
    obtain ⟨c2, h2, hrest⟩ := ih (f s j) i m c1 h1
    refine ⟨c2, h2, fun hc => hrest ?_⟩
    rcases hc with hc | ⟨k, hk, hik⟩
    · exact .inl (hstep (.inl hc))
    · rcases List.mem_cons.1 hk with rfl | hk
      · exact .inl (hstep (.inr hik))
      · exact .inr ⟨k, hk, hik⟩
theorem foldl_marks_mem {P : Card → Prop} {f : State → Nat × Nat × Nat → State} (hf : ∀ s j, Marks P s (f s j) j.1 j.2.1)
    {js : List (Nat × Nat × Nat)} {j : Nat × Nat × Nat} (hj : j ∈ js) {s : State} {c : Card} (h : s.card? j.1 j.2.1 = some c) :
    ∃ c', (js.foldl f s).card? j.1 j.2.1 = some c' ∧ P c' := by
  obtain ⟨c', hc', hP⟩ := foldl_marks hf js s j.1 j.2.1 c h
  exact ⟨c', hc', hP (.inr ⟨j, hj, rfl, rfl⟩)⟩

/-- A card that a collective has given its result (R316). -/
def Card.given (c : Card) (p : RankPart) (parts : List RankPart) : Card :=
  { c with result := some ((reduceAll p.mode parts).flatMap fun d => leBytes (elemSize p.mode) d.toNat) }

section
variable {s : State} {group ctx : Nat} {coll : DWord} {x : Collective}
  (hx : s.collectives.find? (·.named (BitVec.ofNat 64 group) ctx coll) = some x)
include hx

/-- A collective whose ranks disagree fails its jobs. -/
theorem execCollectiveResult_fails (hdis : x.disagree = true) : execCollectiveResult group ctx coll s =
    .next (x.jobs.foldl (fun (s : State) j => s.failCard j.1 j.2.1 0x08 coll.toNat) { s with collectives := s.collectives.erase x }) := by
  unfold execCollectiveResult State.giveResult
  simp only [hx, hdis, if_true]
/-- A collective whose ranks are all there gives its jobs the result. -/
theorem execCollectiveResult_gives {p : RankPart} {ps : List RankPart} (hdis : x.disagree = false) (hparts : x.parts = p :: ps)
    (hall : p.nrank = x.parts.length) : execCollectiveResult group ctx coll s =
    .next (x.jobs.foldl (fun (s : State) j => s.updCard j.1 j.2.1 (·.given p x.parts)) { s with collectives := s.collectives.erase x }) := by
  rw [hparts] at hall
  unfold execCollectiveResult State.giveResult
  simp only [hx, hdis, Bool.false_eq_true, if_false, hparts]
  rw [if_pos (decide_eq_true hall.symm)]
  rfl

end

/-- A collective of which parts arrive is there, with the parts behind those that it had (R499). -/
theorem joinCollective_find (s : State) (group : DWord) (ctx : Nat) (coll : DWord) (parts : List RankPart) (jobs : List (Nat × Nat × Nat)) :
    ∃ x, (s.joinCollective group ctx coll parts jobs).collectives.find? (·.named group ctx coll) = some x ∧
      (∀ y, s.collectives.find? (·.named group ctx coll) = some y → x.parts = y.parts ++ parts ∧ x.jobs = y.jobs ++ jobs) ∧
      (s.collectives.find? (·.named group ctx coll) = none → x.parts = parts ∧ x.jobs = jobs) := by
  have hlast (x : Collective) (h : x.named group ctx coll = true) :
      ((s.collectives.filter fun x => !x.named group ctx coll) ++ [x]).find? (·.named group ctx coll) = some x := by
    rw [List.find?_append, List.find?_eq_none.2 fun y hy => by simpa using (List.mem_filter.1 hy).2]
    simp [h]
  unfold State.joinCollective
  cases hold : s.collectives.find? (·.named group ctx coll) with
  | none => exact ⟨_, hlast _ (by simp [Collective.named]), fun y hy => (by cases hy), fun _ => ⟨rfl, rfl⟩⟩
  | some y =>
    have hnamed : y.named group ctx coll = true := by simpa using List.find?_some hold
    exact ⟨_, hlast _ hnamed, fun z hz => (by cases hz; exact ⟨rfl, rfl⟩), fun hz => (by cases hz)⟩

/-- A card that is formed without a defect joins the cards of its cluster (R299). -/
theorem submit_formed (s : State) (cluster : Nat) (c0 : Card) {c : Card} (h : c.fail = none) : s.submit cluster c0 (.ok c) =
    (s.updContext c0.ctx fun x => { x with streams := x.streams.set 1 (streamKey cluster c0.chan) (c0.seqNo + 1) }).updCluster cluster
      fun k => { k with cards := k.cards ++ [c] } := by
  unfold State.submit
  simp only [h]

end Sys2Proof.Machine
end

section
/-! PROOF of O44. -/

namespace Sys2Proof
open Machine

/-- Settles O44: a collective that leaves the table gives each of its jobs the reduced elements, or fails it; parts that arrive join theirs; a
store to an aperture submits a card. -/
theorem collectives : Obligations.Collectives := by
  unfold Obligations.Collectives
  refine ⟨?gives, ?disagree, ?parts, ?aborted, ?aperture⟩
  case gives =>
    intro group ctx coll s x p ps hx hdis hparts hall
    refine ⟨_, execCollectiveResult_gives hx hdis hparts hall, ?_, fun j hj c hc => ?_⟩
    · exact foldl_same State.collectives _ (fun _ _ => updCard_collectives _ _ _ _) _ _
    · exact foldl_marks_mem (fun s j => marks_updCard (f := (·.given p x.parts)) (fun _ => rfl) (fun _ => rfl) s j.1 j.2.1) hj hc
  case disagree =>
    intro group ctx coll s x hx hdis
    refine ⟨_, execCollectiveResult_fails hx hdis, ?_, fun j hj c hc => ?_⟩
    · exact foldl_same State.collectives _ (fun _ _ => failCard_collectives _ _ _ _ _) _ _
    · exact foldl_marks_mem (fun s j => marks_failCard s j.1 j.2.1 _ _) hj hc
  case parts =>
    intro group ctx coll parts s
    obtain ⟨x, hfind, hold, hnew⟩ := joinCollective_find s (BitVec.ofNat 64 group) ctx coll parts []
    exact ⟨_, x, rfl, hfind, fun y hy => by simpa using hold y hy, hnew, rfl⟩
  case aborted =>
    intro ctx coll s x hx
    have hexec : execYrdAbort ctx coll s = .next (x.jobs.foldl (fun (s : State) j => s.failCard j.1 j.2.1 0x09 coll.toNat)
        { s with collectives := s.collectives.erase x }) := by
      unfold execYrdAbort
      simp only [hx]
    refine ⟨_, hexec, ?_, fun j hj c hc => ?_⟩
    · exact foldl_same State.collectives _ (fun _ _ => failCard_collectives _ _ _ _ _) _ _
    · exact foldl_marks_mem (fun s j => marks_failCard s j.1 j.2.1 _ _) hj hc
  case aperture =>
    intro ctx cluster chan value s x k c hx hvalue hk hroom hform hfail
    have hexec : execApertureSubmit ctx cluster chan value s =
        .next ({ s with serial := s.serial + 1 }.submit cluster (Card.new s.serial ctx (chan % 16) (x.nextSeq cluster (chan % 16))
          (value.extractLsb' 0 8).toNat none false none none 0 0 0 0 true) (.ok c)) := by
      unfold execApertureSubmit
      simp only [hx, hvalue, bne_self_eq_false, Bool.false_eq_true, if_false, hk, decide_eq_false (Nat.not_le.2 hroom), hform]
    refine ⟨_, { k with cards := k.cards ++ [c] }, hexec, ?_, rfl, ?_, ?_⟩
    all_goals rw [submit_formed _ _ _ hfail]
    · rw [updCluster_find, clusterAt_some (k := k) (by rw [State.updContext_clusters]; exact hk)]
    · simp
    · simp

end Sys2Proof
end

section
/-! SUPPORT of O43: the bytes that land in a window, with the full/empty bit of a FILLFULL step (R309, R312, R440). -/

namespace Sys2Proof.Machine

/-- A byte of a word is the byte that the word was made of (R2). -/
theorem byte_of_word (f : Nat → Byte) {j : Nat} (hj : j < 4) :
    (BitVec.ofNat 32 (leNat ((List.range 4).map f))).extractLsb' (8 * j) 8 = f j := by
  have hbytes : wordBytes (BitVec.ofNat 32 (leNat ((List.range 4).map f))) = (List.range 4).map f := by
    have hlt := leNat_lt ((List.range 4).map f)
    rw [List.length_map, List.length_range] at hlt
    unfold wordBytes
    rw [BitVec.toNat_ofNat, Nat.mod_eq_of_lt hlt, leBytes_leNat _ _ (by simp)]
    simp
  rw [wordBytes_eq] at hbytes
  exact List.map_inj_left.1 hbytes j (List.mem_range.2 hj)

section
variable (c : Crew) (off : Nat) (bs : List (Byte × Bool))

/-- A byte of a window in which bytes have landed from an offset, with its poison. -/
def Crew.landedByte (a : Nat) : Byte × Bool := if a < off || off + bs.length ≤ a then c.byte a else bs.getD (a - off) (0, false)
/-- A crew in whose window one word of a landing has been written. -/
def Crew.landWord (w : Nat) : Crew :=
  let cells := (List.range 4).map fun j => c.landedByte off bs (4 * w + j)
  Crew.soiled { c with
    window := c.window.set 0 w (BitVec.ofNat 32 (leNat (cells.map (·.1))))
    poison := c.poison.set false w (cells.any (·.2)) } w
/-- A crew in whose window the first `n` words of a landing have been written. -/
def Crew.landFirst (n : Nat) : Crew := (List.range n).foldl (fun (c : Crew) k => c.landWord off bs (off / 4 + k)) c

theorem land_eq : c.land off bs = c.landFirst off bs ((off + bs.length + 3) / 4 - off / 4) := rfl
theorem landFirst_succ (n : Nat) : c.landFirst off bs (n + 1) = (c.landFirst off bs n).landWord off bs (off / 4 + n) := by
  unfold Crew.landFirst
  rw [List.range_succ, List.foldl_append]
  rfl
theorem landFirst_full : ∀ n, (c.landFirst off bs n).full = c.full
  | 0 => rfl
  | n + 1 => by
    rw [landFirst_succ]
    exact landFirst_full n

theorem landWord_word (v w : Nat) : (c.landWord off bs v).word w =
    if w = v then BitVec.ofNat 32 (leNat ((List.range 4).map fun j => (c.landedByte off bs (4 * v + j)).1)) else c.word w := by
  refine (SMap.get_set 0 c.window v w _).trans ?_
  rw [List.map_map]
  rfl

variable {c}
theorem landedByte_congr {d : Crew} {a : Nat} (h : d.word (a / 4) = c.word (a / 4)) : (d.landedByte off bs a).1 = (c.landedByte off bs a).1 := by
  unfold Crew.landedByte Crew.byte
  rw [h]
  split <;> rfl

theorem landFirst_word (w : Nat) : ∀ n, (c.landFirst off bs n).word w = if off / 4 ≤ w ∧ w < off / 4 + n then
    BitVec.ofNat 32 (leNat ((List.range 4).map fun j => (c.landedByte off bs (4 * w + j)).1)) else c.word w
  | 0 => by rw [if_neg (by omega)]; rfl
  | n + 1 => by
    have hword := landFirst_word w n
    rw [landFirst_succ, landWord_word]
    by_cases h : w = off / 4 + n
    · rw [if_neg (by omega)] at hword
      rw [if_pos h, if_pos (by omega), ← h]
      congr 2
      refine List.map_congr_left fun j hj => landedByte_congr off bs ?_
      have hj4 := List.mem_range.1 hj
      rwa [show (4 * w + j) / 4 = w by omega]
    · rw [if_neg h, hword]
      by_cases hn : off / 4 ≤ w ∧ w < off / 4 + n
      · rw [if_pos hn, if_pos (by omega)]
      · rw [if_neg hn, if_neg (by omega)]
/-- The bytes of a window in which bytes have landed. -/
theorem land_byte (a : Nat) : ((c.land off bs).byte a).1 = (c.landedByte off bs a).1 := by
  have ha : 4 * (a / 4) + a % 4 = a := by omega
  rw [land_eq]
  unfold Crew.byte
  rw [landFirst_word]
  by_cases h : off / 4 ≤ a / 4 ∧ a / 4 < off / 4 + ((off + bs.length + 3) / 4 - off / 4)
  · rw [if_pos h, byte_of_word _ (Nat.mod_lt a (by decide)), ha]
  · have hout : a < off ∨ off + bs.length ≤ a := by omega
    rw [if_neg h]
    unfold Crew.landedByte
    rw [if_pos (by simpa using hout)]
    rfl

end

/-- A crew in whose window a pattern has landed, with its word set full where the landing is a FILLFULL step (R309). -/
def Crew.filled (c : Crew) (steps : Bool) (off : Nat) (lit : List Byte) : Crew :=
  let cr := c.land off (lit.map fun b => (b, false))
  if steps then { cr with full := cr.full.set false (off / 4) true } else cr

section
variable (c : Crew) (steps : Bool) (off : Nat) (lit : List Byte)

theorem filled_byte (a : Nat) : ((c.filled steps off lit).byte a).1 =
    if off ≤ a ∧ a < off + lit.length then lit.getD (a - off) 0 else (c.byte a).1 := by
  have hbyte : ((c.filled steps off lit).byte a).1 = ((c.land off (lit.map fun b => (b, false))).byte a).1 := by
    unfold Crew.filled
    cases steps <;> rfl
  rw [hbyte, land_byte]
  unfold Crew.landedByte
  rw [List.length_map]
  by_cases h : off ≤ a ∧ a < off + lit.length
  · have hlt : a - off < lit.length := by omega
    rw [if_pos h, if_neg (by simpa using h), List.getD_eq_getElem _ _ (by simpa using hlt), List.getD_eq_getElem _ _ hlt, List.getElem_map]
  · have hout : a < off ∨ off + lit.length ≤ a := by omega
    rw [if_neg h, if_pos (by simpa using hout)]
theorem filled_full (w : Nat) : (c.filled steps off lit).full.get false w = if steps = true ∧ w = off / 4 then true else c.full.get false w := by
  have hland : (c.land off (lit.map fun b => (b, false))).full = c.full := landFirst_full c off _ _
  unfold Crew.filled
  cases steps with
  | false => simp [hland]
  | true => simp [hland, SMap.get_set]

end

end Sys2Proof.Machine
end

section
/-! SUPPORT of O43: a landing of a FILL job in windows (R309, R312). -/

namespace Sys2Proof.Machine

/-- Crews of a gang that are changed one after the other, each once. -/
theorem foldl_updCrew_crew {gang : Nat} (f : Crew → Crew) (ks : List Nat) : ∀ (s : State) (g : Gang), ks.Nodup → s.gangs.find gang = some g →
    ∃ g', (ks.foldl (fun (s : State) k => s.updCrew gang k f) s).gangs.find gang = some g' ∧
      ∀ k, g'.crew? k = (g.crew? k).map fun c => if k ∈ ks then f c else c := by
  induction ks with
  | nil => exact fun s g _ hg => ⟨g, hg, fun k => by simp⟩
  | cons k ks ih =>
    intro s g hks hg
    obtain ⟨hk, hks⟩ := List.nodup_cons.1 hks
    have hstep : (s.updCrew gang k f).gangs.find gang = some { g with crews := g.crews.modify k f } := by
      unfold State.updCrew State.updGang
      simp only [hg, SMap.find_insert_same]
    obtain ⟨g', hg', hcrews⟩ := ih _ _ hks hstep
    refine ⟨g', hg', fun e => ?_⟩
    rw [hcrews, Gang.crew?, Gang.crew?, List.getElem?_modify]
    cases g.crews[e]? with
    | none => rfl
    | some c =>
      by_cases he : k = e
      · subst he
        simp [hk]
      · simp [he, Ne.symm he]

section
variable {c : Card} (hkind : c.kind = 4)
include hkind

/-- A landing of a FILL reads nothing and no index (R310, R312). -/
theorem move_fill (size piece idx : Nat) : c.move size piece idx =
    ⟨.none, 0, (c.move size piece 0).lit, 0, (c.move size piece 0).dst, (c.move size piece 0).count⟩ := by
  unfold Card.move
  simp only [hkind, if_true]
theorem indexDue_fill : c.indexDue = none := by
  unfold Card.indexDue
  simp [hkind]
theorem counts_fill : c.counts = false := by
  unfold Card.counts
  simp [hkind]
/-- A landing of a FILL names each window once (R309). -/
theorem move_fill_nodup {size piece idx off : Nat} {ks : List Nat} (h : (c.move size piece idx).dst = .pad ks off) : ks.Nodup := by
  have hmembers : (c.members size).Nodup := by
    unfold Card.members
    split
    · exact List.nodup_range
    · exact List.nodup_singleton _
  unfold Card.move at h
  simp only [hkind, if_true] at h
  split at h
  · cases h
    split
    · exact List.nodup_singleton _
    · exact hmembers
  · cases h

end

section
variable {s : State} {cluster card piece off : Nat} {c : Card} {ks : List Nat}

/-- The machine in which a pattern has landed in windows of a card's gang. -/
def State.filledPads (s : State) (c : Card) (ks : List Nat) (off : Nat) (lit : List Byte) : State :=
  ks.foldl (fun (s : State) k => s.updCrew (c.gang.getD 0) k (·.filled c.steps off lit)) s
theorem filledPads_teams (lit : List Byte) : (s.filledPads c ks off lit).teams = s.teams :=
  foldl_same State.teams _ (fun _ _ => State.updCrew_teams _ _ _ _) ks s
theorem filledPads_mem (lit : List Byte) : (s.filledPads c ks off lit).mem = s.mem :=
  foldl_same State.mem _ (fun _ _ => State.updCrew_mem _ _ _ _) ks s
theorem filledPads_clusters (lit : List Byte) : (s.filledPads c ks off lit).clusters = s.clusters :=
  foldl_same State.clusters _ (fun _ _ => State.updCrew_clusters _ _ _ _) ks s

theorem makeMove_pattern (hflag : c.flag 2 = false) (lit : List Byte) (count : Nat) :
    s.makeMove cluster c ⟨.none, 0, lit, 0, .pad ks off, count⟩ = s.filledPads c ks off lit := by
  unfold State.makeMove State.filledPads Crew.filled
  simp only [hflag, Bool.false_and, Bool.false_eq_true, if_false, List.replicate_zero, List.append_nil]

/-- A card of which a landing has been performed. -/
def Card.landedAt (c : Card) (piece : Nat) : Card := { c with landed := c.landed.set false piece true }
/-- A card of which the leading rows have landed. -/
def Card.leading (c : Card) (lead : Nat) : Card := { c with lead := lead }
/-- The rows of a card that keeps no progress word are counted in the card alone (R311). -/
theorem countRows_plain {size : Nat} (h : s.card? cluster card = some c) (hcounts : c.counts = false) : s.countRows cluster card size =
    s.updCard cluster card (·.leading (leadRows c size (c.landed.length + 1) c.lead)) := by
  unfold State.countRows
  simp only [h, hcounts, Bool.false_and, Bool.false_eq_true, if_false]
  rfl

/-- A landing of a FILL job in windows. -/
theorem landPiece_fill (h : s.card? cluster card = some c) (hkind : c.kind = 4) (hflag : c.flag 2 = false)
    (hdst : (c.move (s.cardSize c) piece 0).dst = .pad ks off) :
    ∃ lead, s.landPiece cluster c piece = (((s.filledPads c ks off (c.move (s.cardSize c) piece 0).lit).updCard cluster card
      (·.landedAt piece)).updCard cluster card (·.leading lead)) := by
  have hserial := card?_serial h
  have hmove (idx : Nat) : c.move (s.cardSize c) piece idx =
      ⟨.none, 0, (c.move (s.cardSize c) piece 0).lit, 0, .pad ks off, (c.move (s.cardSize c) piece 0).count⟩ := by
    rw [move_fill hkind, hdst]
  generalize (c.move (s.cardSize c) piece 0).lit = lit at hmove ⊢
  generalize (c.move (s.cardSize c) piece 0).count = count at hmove
  have hrows : s.landPiece cluster c piece = ((s.filledPads c ks off lit).updCard cluster card (·.landedAt piece)).countRows cluster card
      (s.cardSize c) := by
    have hindex : (c.kind == 2 || c.kind == 3) = false := by rw [hkind]; rfl
    unfold State.landPiece
    simp only [indexDue_fill hkind, hmove, State.sideBar, Option.or_self, hindex, Bool.false_and, Bool.false_eq_true, if_false,
      makeMove_pattern hflag, hserial]
    rfl
  have hlanded : ((s.filledPads c ks off lit).updCard cluster card (·.landedAt piece)).card? cluster card = some (c.landedAt piece) :=
    card?_updCard_same (f := (·.landedAt piece)) (fun _ => rfl) ((card?_congr (filledPads_clusters _) _ _).trans h)
  exact ⟨_, hrows.trans (countRows_plain hlanded (counts_fill (c := c.landedAt piece) hkind))⟩

section
variable (h : s.card? cluster card = some c) (hstart : c.started = true) (hfail : c.fail = none) (hhalt : c.halted = none)
  (hdue : c.progDue = false) (hpiece : piece < c.landings (s.cardSize c)) (hnew : c.landed.get false piece = false)
include h hstart hfail hhalt hdue hpiece hnew

theorem execJobLanding_fill (hkind : c.kind = 4) (hsteps : c.steps = false) :
    exec (.jobLanding cluster card piece) s = .next (s.landPiece cluster c piece) := by
  change execJobLanding cluster card piece s = _
  unfold execJobLanding
  simp only [h, hstart, hfail, hhalt, hdue, hkind, hsteps, hnew, decide_eq_false (Nat.not_le.2 hpiece), Bool.not_true, Option.isSome_none,
    Bool.or_self, Bool.false_eq_true, if_false]
theorem execFillfullStep_fill (hsteps : c.steps = true) (hpermit : s.permit c piece = true) :
    exec (.fillfullStep cluster card piece) s = .next (s.landPiece cluster c piece) := by
  change execFillfullStep cluster card piece s = _
  unfold execFillfullStep
  simp only [h, hstart, hfail, hhalt, hdue, hsteps, hnew, hpermit, decide_eq_true hpiece, Option.isNone_none, Bool.not_false, Bool.and_self,
    if_true]

end

end

end Sys2Proof.Machine
end

section
/-! SUPPORT of O43: the start of a job (R307). -/

namespace Sys2Proof.Machine

/-- One step of the search of `nextCard`: a card against the oldest so far. -/
def olderCard (m : Option Card) (c : Card) : Option Card :=
  match m with
  | some e => if c.serial < e.serial then some c else some e
  | none => some c
theorem olderCard_eq (m : Option Card) (c : Card) : olderCard m c = some c ∨ olderCard m c = m := by
  unfold olderCard
  split
  · split
    · exact .inl rfl
    · exact .inr rfl
  · exact .inl rfl
theorem foldl_olderCard_mem (cs : List Card) : ∀ {m : Option Card} {c : Card}, cs.foldl olderCard m = some c → c ∈ cs ∨ m = some c := by
  induction cs with
  | nil => exact fun h => .inr h
  | cons d cs ih =>
    intro m c h
    rcases ih h with hc | hc
    · exact .inl (List.mem_cons_of_mem d hc)
    · rcases olderCard_eq m d with hd | hm
      · rw [hd] at hc
        cases hc
        exact .inl List.mem_cons_self
      · exact .inr (hm.symm.trans hc)
/-- The card that starts next is one of the cluster's. -/
theorem nextCard_mem {k : Cluster} {c : Card} (h : k.nextCard = some c) : c ∈ k.cards := by
  unfold Cluster.nextCard at h
  split at h
  · cases h
  · rcases foldl_olderCard_mem _ h with hc | hc
    · exact List.mem_of_mem_filter hc
    · cases hc

theorem updFuture_find {s : State} {ctx cls slot : Nat} {x : Context} {f : FutSlot} (hx : s.contexts.find ctx = some x)
    (hf : x.futures.find (futKey cls slot) = some f) (g : FutSlot → FutSlot) :
    ∃ x', (s.updFuture ctx cls slot g).contexts.find ctx = some x' ∧ x'.futures.find (futKey cls slot) = some (g f) := by
  unfold State.updFuture State.updContext
  simp only [hx, hf, SMap.find_insert_same, Option.some.injEq, exists_eq_left']

/-- A card whose job has started. -/
def Card.begun (c : Card) : Card := { c with started := true }
/-- The machine in which a card has started, with its future (R307). -/
def State.startCard (s : State) (cluster : Nat) (c : Card) : State :=
  match c.future with
  | some slot => (s.updCard cluster c.serial Card.begun).updFuture c.ctx 1 slot fun f => { f with started := true }
  | none => s.updCard cluster c.serial Card.begun
theorem startCard_others (s : State) (cluster : Nat) (c : Card) : (s.startCard cluster c).teams = s.teams ∧ (s.startCard cluster c).mem = s.mem ∧
    (s.startCard cluster c).clusters = (s.updCard cluster c.serial Card.begun).clusters := by
  unfold State.startCard
  split
  · exact ⟨State.updContext_teams _ _ _, State.updContext_mem _ _ _, State.updContext_clusters _ _ _⟩
  · exact ⟨rfl, rfl, rfl⟩
theorem startCard_future {s : State} {c : Card} {slot : Nat} {x : Context} {f : FutSlot} (hslot : c.future = some slot)
    (hx : s.contexts.find c.ctx = some x) (hf : x.futures.find (futKey 1 slot) = some f) (cluster : Nat) :
    ∃ x', (s.startCard cluster c).contexts.find c.ctx = some x' ∧ x'.futures.find (futKey 1 slot) = some { f with started := true } := by
  unfold State.startCard
  simp only [hslot]
  exact updFuture_find (s := s.updCard cluster c.serial Card.begun) hx hf _

theorem execJobStart_starts {s : State} {cluster : Nat} {k : Cluster} {c : Card} (hk : s.clusters.find cluster = some k) (hc : k.nextCard = some c)
    (hkind : c.kind ≠ 5) : exec (.jobStart cluster) s = .next (s.startCard cluster c) := by
  change execJobStart cluster s = _
  unfold execJobStart
  simp only [hk, Option.bind_some, hc, hkind, if_false]
  rfl

end Sys2Proof.Machine
end

section
/-! SUPPORT of O43: what a trigger and the breaking of keys leave of the jobs (R317, R383). -/

namespace Sys2Proof.Machine

/-- The clusters with their cards are as they were, and the contexts but for their registers and halt records. -/
structure JobsKept (s s' : State) : Prop where
  clusters : s'.clusters = s.clusters
  contexts : ∀ c, (s'.contexts.find c).map Context.still = (s.contexts.find c).map Context.still

theorem JobsKept.refl (s : State) : JobsKept s s := ⟨rfl, fun _ => rfl⟩
theorem JobsKept.trans {a b c : State} (h : JobsKept a b) (k : JobsKept b c) : JobsKept a c :=
  ⟨k.clusters.trans h.clusters, fun c => (k.contexts c).trans (h.contexts c)⟩
theorem JobsKept.of_eq {s s' : State} (hk : s'.clusters = s.clusters) (hc : s'.contexts = s.contexts) : JobsKept s s' := ⟨hk, fun _ => by rw [hc]⟩
/-- The futures of a context are kept with it. -/
theorem JobsKept.futures {s s' : State} (h : JobsKept s s') {ctx : Nat} {x : Context} (hx : s.contexts.find ctx = some x) :
    ∃ x', s'.contexts.find ctx = some x' ∧ x'.futures = x.futures := by
  have hstill := h.contexts ctx
  rw [hx, Option.map_some, Option.map_eq_some_iff] at hstill
  obtain ⟨x', hx', heq⟩ := hstill
  exact ⟨x', hx', (congrArg Context.futures heq : x'.still.futures = x.still.futures)⟩

theorem jobsKept_trigger (s : State) (ctx src arg : Nat) : JobsKept s (s.trigger ctx src arg) :=
  have h := trigger_kept s ctx src arg
  ⟨(congrArg State.clusters h.rest : (s.trigger ctx src arg).still.clusters = s.still.clusters), h.contexts⟩
theorem jobsKept_bumpReg (s : State) (ctx off lo n : Nat) : JobsKept s (s.bumpReg ctx off lo n) := by
  refine ⟨State.bumpReg_clusters s ctx off lo n, fun c => ?_⟩
  unfold State.bumpReg
  dsimp only
  split
  · rfl
  · exact contexts_setReg s ctx off _ c
theorem jobsKept_secCount (s : State) (ctx lo : Nat) : JobsKept s (s.secCount ctx lo) := jobsKept_bumpReg s ctx 0x30 lo 16
theorem jobsKept_updTeam (s : State) (id : Nat) (f : Team → Team) : JobsKept s (s.updTeam id f) :=
  .of_eq (State.updTeam_clusters s id f) (State.updTeam_contexts s id f)
theorem jobsKept_setArea (s : State) (k : Nat) (a : Area) : JobsKept s (s.setArea k a) := .of_eq rfl rfl

theorem jobsKept_failEnter (s : State) (k team serial cause : Nat) (lane : EnterLane) (c : Cell) :
    JobsKept s (s.failEnter k team serial cause lane c).1 := by
  unfold State.failEnter
  split
  next t e a _ _ =>
    dsimp only
    refine JobsKept.trans (b := if cause = 0x11 then s.secCount t.ctx 32 else if cause = 0x13 then s.secCount t.ctx 0 else s) ?_
      ((jobsKept_setArea _ _ _).trans (jobsKept_updTeam _ _ _))
    split
    · exact jobsKept_secCount s _ _
    · split
      · exact jobsKept_secCount s _ _
      · exact .refl s
  next => exact .refl s
theorem jobsKept_enterCell (s : State) (k i : Nat) (w : Waiter) : JobsKept s (s.enterCell k i w).1 := by
  unfold State.enterCell
  split
  · split
    · exact jobsKept_failEnter s _ _ _ _ _ _
    · dsimp only
      refine JobsKept.trans ?_ (jobsKept_updTeam _ _ _)
      exact .of_eq rfl rfl
  · exact jobsKept_setArea s _ _
  · exact .refl s
theorem jobsKept_settleOne {s : State} {k i : Nat} {r : State × List Nat} (h : s.settleOne k i = some r) : JobsKept s r.1 := by
  unfold State.settleOne at h
  split at h
  · cases h
  dsimp only at h
  split at h
  · cases h
  split at h
  · obtain ⟨w, _, rfl⟩ := Option.map_eq_some_iff.1 h
    exact jobsKept_failEnter s _ _ _ _ _ _
  split at h
  · split at h
    · cases h; exact (jobsKept_setArea s _ _).trans (jobsKept_secCount _ _ _)
    · cases h; exact jobsKept_failEnter s _ _ _ _ _ _
  split at h
  · cases h
  obtain ⟨w, _, rfl⟩ := Option.map_eq_some_iff.1 h
  split
  · exact jobsKept_setArea s _ _
  · exact jobsKept_enterCell s _ _ _
theorem jobsKept_settleCells (n k : Nat) : ∀ (is : List Nat) (s : State), JobsKept s (State.settleCells n k is s) := by
  induction n with
  | zero => exact fun _ s => .refl s
  | succ n ih =>
    intro is s
    cases is with
    | nil => exact .refl s
    | cons i is =>
      unfold State.settleCells
      split
      · exact (jobsKept_settleOne ‹_›).trans (ih _ _)
      · exact ih _ _
theorem jobsKept_sectionBreak (s : State) (ctx : Nat) (ident : DWord) : JobsKept s (s.sectionBreak ctx ident) := by
  unfold State.sectionBreak
  split
  · exact .refl s
  split
  · exact .refl s
  · exact (jobsKept_setArea s _ _).trans
      ((foldl_kept JobsKept .refl .trans _ (fun s _ => jobsKept_secCount s _ _) _ _).trans (jobsKept_settleCells _ _ _ _))

end Sys2Proof.Machine
end

section
/-! SUPPORT of O43: the completion of a job (R317, R318). -/

namespace Sys2Proof.Machine

theorem leBytes_length (n v : Nat) : (leBytes n v).length = n := by
  induction n generalizing v with
  | zero => rfl
  | succ n ih => rw [leBytes, List.length_cons, ih]
theorem leNat_leBytes (n v : Nat) : leNat (leBytes n v) = v % 256 ^ n := by
  induction n generalizing v with
  | zero => rw [Nat.pow_zero, Nat.mod_one]; rfl
  | succ n ih => rw [leBytes, leNat, ih, BitVec.toNat_ofNat, show 256 ^ (n + 1) = 256 * 256 ^ n from Nat.pow_succ',
      Nat.mod_mul (a := 256) (b := 256 ^ n)]
/-- A number read where its bytes have been written. -/
theorem memNat_writes (m : SMap Byte) (pa : Nat) (bs : List Byte) : memNat (Memory.writes m pa bs) pa bs.length = leNat bs := by
  unfold memNat
  congr 1
  refine List.ext_getElem (by simp) fun k _ hk => ?_
  rw [List.getElem_map, List.getElem_range, Memory.read_writes, if_pos (by omega), Nat.add_sub_cancel_left, List.getD_eq_getElem _ _ hk]

section
variable (s : State) (cluster : Nat) (c : Card)

/-- The machine without a card that is done, before its future resolves. -/
def State.withoutCard : State :=
  let s := s.updCluster cluster fun k => { k with cards := k.cards.filter fun x => x.serial != c.serial }
  let s := if c.fail.isSome then s.trigger c.ctx 5 0 else s
  if c.kind = 6 && c.fail.isSome then s.sectionBreak c.ctx (s.rastIdent c) else s
theorem finishCard_eq : s.finishCard cluster c = match c.future with
    | some slot => (s.withoutCard cluster c).completeFuture c.ctx 1 slot c.status
    | none => s.withoutCard cluster c := rfl
theorem jobsKept_withoutCard :
    JobsKept (s.updCluster cluster fun k => { k with cards := k.cards.filter fun x => x.serial != c.serial }) (s.withoutCard cluster c) := by
  unfold State.withoutCard
  extract_lets s1 s2
  have htrigger : JobsKept s1 s2 := by
    unfold s2
    split
    · exact jobsKept_trigger _ _ _ _
    · exact .refl _
  split
  · exact htrigger.trans (jobsKept_sectionBreak _ _ _)
  · exact htrigger
theorem completeFuture_clusters (ctx cls slot : Nat) (status : Word) : (s.completeFuture ctx cls slot status).clusters = s.clusters := by
  unfold State.completeFuture
  split
  · rfl
  · exact State.updContext_clusters _ _ _
variable {s}
theorem completeFuture_find {ctx cls slot : Nat} {x : Context} {f : FutSlot} (hx : s.contexts.find ctx = some x)
    (hf : x.futures.find (futKey cls slot) = some f) (status : Word) : ∃ x', (s.completeFuture ctx cls slot status).contexts.find ctx = some x' ∧
      x'.futures.find (futKey cls slot) = some { f with live := false, status := some status } := by
  unfold State.completeFuture State.updContext
  simp only [hx, Option.bind_some, hf, SMap.find_insert_same, Option.some.injEq, exists_eq_left']

variable {cluster c}
/-- A job that is finished has no card. -/
theorem finishCard_card : (s.finishCard cluster c).card? cluster c.serial = none := by
  have hclusters : (s.finishCard cluster c).clusters = (s.withoutCard cluster c).clusters := by
    rw [finishCard_eq]
    split
    · exact completeFuture_clusters _ _ _ _ _
    · rfl
  rw [card?_congr (hclusters.trans (jobsKept_withoutCard s cluster c).clusters), card?_updCluster, List.find?_eq_none]
  intro x hx
  simpa using (List.mem_filter.1 hx).2
/-- The future of a job that is finished has the job's status (R22, R23). -/
theorem finishCard_future {slot : Nat} {x : Context} {f : FutSlot} (hslot : c.future = some slot) (hx : s.contexts.find c.ctx = some x)
    (hf : x.futures.find (futKey 1 slot) = some f) : ∃ x', (s.finishCard cluster c).contexts.find c.ctx = some x' ∧
      x'.futures.find (futKey 1 slot) = some { f with live := false, status := some c.status } := by
  obtain ⟨x1, hx1, hfutures⟩ := (jobsKept_withoutCard s cluster c).futures hx
  rw [finishCard_eq, hslot]
  exact completeFuture_find hx1 (by rw [hfutures]; exact hf) c.status
/-- A job that has not failed leaves memory as its stamp has it. -/
theorem finishCard_mem (hfail : c.fail = none) : (s.finishCard cluster c).mem = s.mem := by
  have hwithout : (s.withoutCard cluster c).mem = s.mem := by
    unfold State.withoutCard
    simp only [hfail, Option.isSome_none, Bool.and_false, Bool.false_eq_true, if_false, State.updCluster_mem]
  rw [finishCard_eq]
  split
  · rw [State.completeFuture_mem, hwithout]
  · exact hwithout

/-- A job that keeps no progress word, or whose last one is not due, is finished once its stamp is written. -/
theorem execJobCompletion_finishes {card : Nat} {s1 : State} (h : s.card? cluster card = some c) (hdone : s.completes c = true) (hkind : c.kind ≠ 5)
    (hword : c.counts = false ∨ c.status ≠ 0) (hstamp : s.writeStamp cluster c = .ok s1) :
    exec (.jobCompletion cluster card) s = .next (s1.finishCard cluster c) := by
  have hnone : (c.counts && decide (c.status = 0) && !c.stamping) = false := by
    rcases hword with hcounts | hstatus
    · rw [hcounts]; rfl
    · rw [decide_eq_false hstatus, Bool.and_false, Bool.false_and]
  have hroot : s1.dropRoot c = s1 := by
    unfold State.dropRoot
    simp [hkind]
  change execJobCompletion cluster card s = _
  unfold execJobCompletion
  simp only [h, hdone, hnone, hstamp, hroot, Bool.not_true, Bool.false_eq_true, if_false]

/-- A job without a stamp address writes none (R318). -/
theorem writeStamp_none (h : c.f 0x38 8 = 0) : s.writeStamp cluster c = .ok s := by
  unfold State.writeStamp
  simp only [h, decide_true, Bool.true_or, if_true]
/-- The number that a job's stamp brings: the sequence in its stream, with bit 63 where the job has not succeeded (R318). -/
def Card.stamp (c : Card) : Nat := c.seqNo % 2 ^ 63 + if c.status = 0 then 0 else 2 ^ 63
theorem stamp_lt : c.stamp < 2 ^ 64 := by
  unfold Card.stamp
  have hseq := Nat.mod_lt c.seqNo (show 0 < 2 ^ 63 by decide)
  split <;> omega
theorem stamp_unfailed (hfail : c.fail = none) : c.stamp = c.seqNo % 2 ^ 63 + if c.cancelled then 2 ^ 63 else 0 := by
  unfold Card.stamp Card.status
  rw [hfail]
  cases c.cancelled <;> rfl
/-- A stamp is an atomic maximum (R318). -/
theorem writeStamp_max {pa : Nat} {x : Translation} (hva : c.f 0x38 8 ≠ 0) (haligned : c.f 0x38 8 % 8 = 0)
    (hlook : s.lookVia (yardUnit cluster) c.ctx (c.f 0x38 8) .rmw = .ok pa x) :
    ∃ s1, s.writeStamp cluster c = .ok s1 ∧ s1.mem = Memory.writes s.mem pa (leBytes 8 (max (memNat s.mem pa 8) c.stamp)) := by
  unfold State.writeStamp
  simp only [hva, haligned, hlook, ne_eq, not_true_eq_false, decide_false, Bool.or_self, Bool.false_eq_true, if_false]
  refine ⟨_, rfl, ?_⟩
  rw [State.storeBytes_mem, State.letIn_mem]
  rfl

end

end Sys2Proof.Machine
end

section
/-! PROOF of O43. -/

namespace Sys2Proof
open Machine

/-- Settles O43: the card that may start does, with its future; a landing of a FILL writes the windows that it names, and sets full the word of
a step; a job that is done leaves its cluster, its stamp is a maximum, and its future has its status. -/
theorem yarderJobs : Obligations.YarderJobs := by
  unfold Obligations.YarderJobs
  refine ⟨?starts, ?lands, ?completes, ?stamps⟩
  case starts =>
    intro cluster s k c hk hnext hkind
    obtain ⟨hteams, hmem, hclusters⟩ := startCard_others s cluster c
    have hhere : (s.card? cluster c.serial).isSome = true := by
      rw [card?_eq, clusterAt_some hk, List.find?_isSome]
      exact ⟨c, nextCard_mem hnext, by simp⟩
    obtain ⟨d, hd⟩ := Option.isSome_iff_exists.1 hhere
    exact ⟨_, d.begun, execJobStart_starts hk hnext hkind,
      (card?_congr hclusters _ _).trans (card?_updCard_same (f := Card.begun) (fun _ => rfl) hd), rfl, hteams, hmem,
      fun slot x f hslot hx hf => startCard_future hslot hx hf cluster⟩
  case lands =>
    intro i cluster card piece s c hi h hstart hfail hhalt hdue hkind hflag hpiece hnew m ks off g hdst hg hpermit
    have hexec : exec i s = .next (s.landPiece cluster c piece) := by
      rcases hi with ⟨rfl, hsteps⟩ | ⟨rfl, hsteps⟩
      · exact execJobLanding_fill h hstart hfail hhalt hdue hpiece hnew hkind hsteps
      · exact execFillfullStep_fill h hstart hfail hhalt hdue hpiece hnew hsteps (hpermit hsteps)
    obtain ⟨lead, hland⟩ := landPiece_fill h hkind hflag hdst
    obtain ⟨g', hg', hcrews⟩ := foldl_updCrew_crew (·.filled c.steps off m.lit) ks s g (move_fill_nodup hkind hdst) hg
    rw [hland] at hexec
    refine ⟨_, g', (c.landedAt piece).leading lead, hexec, hg', ?_, ?_, filledPads_teams _, filledPads_mem _, fun k cr hcr => ?_⟩
    · refine card?_updCard_same (f := (·.leading lead)) (fun _ => rfl) (card?_updCard_same (f := (·.landedAt piece)) (fun _ => rfl) ?_)
      rw [card?_congr (filledPads_clusters _)]
      exact h
    · exact (SMap.get_set false c.landed piece piece true).trans (if_pos rfl)
    · refine ⟨_, (hcrews k).trans (by rw [hcr]; rfl), fun hk => if_neg hk, fun hk => ?_⟩
      rw [if_pos hk]
      exact ⟨filled_byte cr c.steps off m.lit, filled_full cr c.steps off m.lit⟩
  case completes =>
    intro cluster card s c h hdone hkind hword hva
    refine ⟨_, execJobCompletion_finishes h hdone hkind hword (writeStamp_none hva), ?_, fun slot x f hslot hx hf => finishCard_future hslot hx hf⟩
    rw [← card?_serial h]
    exact finishCard_card
  case stamps =>
    intro cluster card s c pa f h hdone hkind hcounts hfail hva haligned hlook
    obtain ⟨s1, hstamp, hmem⟩ := writeStamp_max hva haligned hlook
    have hmem' := (finishCard_mem (s := s1) (cluster := cluster) hfail).trans hmem
    refine ⟨_, execJobCompletion_finishes h hdone hkind (.inl hcounts) hstamp, ?_, ?_, fun a ha => ?_⟩
    · rw [← card?_serial h]
      exact finishCard_card
    · have hwritten := memNat_writes s.mem pa (leBytes 8 (max (memNat s.mem pa 8) c.stamp))
      rw [leBytes_length, leNat_leBytes, Nat.mod_eq_of_lt (show _ < 256 ^ 8 from max_lt (memNat_lt s.mem pa 8) stamp_lt)] at hwritten
      rw [hmem', hwritten, stamp_unfailed hfail]
    · rw [hmem', Memory.read_writes_outside (by rw [leBytes_length]; exact ha)]

end Sys2Proof
end
